-- ==== Sys2Proof/Word.lean ====
section
/-! DEFINITION. The plain words of the machine (spec/00_scope.md R7): a byte, a 32-bit word, a 64-bit quad. -/

namespace Sys2Proof

/-- Eight bits. -/
abbrev Byte := BitVec 8

/-- A word is 32 bits (R7). -/
abbrev Word := BitVec 32

/-- A quad is 64 bits (R7). -/
abbrev Quad := BitVec 64

/-- Core number C0 to C23 (05 R91). -/
abbrev CoreId := Fin 24

/-- Partition number 0 to 7 (14 R321). -/
abbrev PartId := Fin 8

/-- Fabric port number FP0 to FP11 (12 R265). -/
abbrev PortId := Fin 12

/-- Sub-port number of a port (12 Table 12.1). -/
abbrev SubId := Fin 4

/-- Mailbox number MB0 to MB15 (14 R321). -/
abbrev MbId := Fin 16

/-- HBM stack number H0 to H7 (11 R243). -/
abbrev StackId := Fin 8

/-- Queue number, 20 bits (10 R219). -/
abbrev Qid := BitVec 20

end Sys2Proof
end

