-- ==== Sys2Proof/Syntax.lean ====
section
/-! DEFINITION. The commands of the KD-96: one constructor of `Instr` per row of spec/opcode_table.json, and the
operands they carry. The line structures hold the fields of Tables 5.6 to 5.25 of spec/05_cores_and_escapement.md. -/

namespace Sys2Proof

/-! ### Command lines -/

/-- The command header of Table 5.4 without the opcode. -/
structure Hdr where
  tag : BitVec 16
  cqe : Bool
  haltErr : Bool
  deriving DecidableEq, Repr

/-- LDW line, Table 5.6. -/
structure LdwLine where
  hdr : Hdr
  arr : BitVec 2
  bank : Bool
  form : BitVec 2
  wfmt : BitVec 4
  afmt : BitVec 4
  sparse : Bool
  wbs : Bool
  wsrc : Bool
  img : BitVec 20
  bskip : BitVec 64
  deriving DecidableEq, Repr

/-- MMA and DIST line, Table 5.7. -/
structure MmaLine where
  hdr : Hdr
  amask : BitVec 4
  banksel : BitVec 4
  form : BitVec 2
  acc : Bool
  stream : Bool
  afmt : BitVec 4
  wfmt : BitVec 4
  abs : Bool
  sparse : Bool
  asrc : Bool
  tile : BitVec 5
  wofs : BitVec 9
  rows : BitVec 11
  aaddr : BitVec 20
  arstr : BitVec 16
  asc : BitVec 20
  bskip : BitVec 64
  simg : BitVec 20
  t : BitVec 8
  sstr : BitVec 16
  dop : BitVec 2
  swbs : Bool
  deriving DecidableEq, Repr

/-- RED line, Table 5.8. -/
structure RedLine where
  hdr : Hdr
  mode : Bool
  cont : Bool
  fmt : BitVec 4
  bs : Bool
  vreg : BitVec 5
  src : BitVec 20
  len : BitVec 16
  rows : BitVec 10
  rstr : BitVec 16
  dst : BitVec 20
  wb : Bool
  indexBase : BitVec 32
  ssrc : BitVec 20
  deriving DecidableEq, Repr

/-- EPI line, Table 5.10. -/
structure EpiLine where
  hdr : Hdr
  amask : BitVec 4
  tile : BitVec 5
  rows : BitVec 11
  form : BitVec 2
  act : BitVec 3
  biasEn : Bool
  amxEn : Bool
  cvt : BitVec 8
  scl : BitVec 20
  bias : BitVec 20
  tbl : BitVec 20
  dst : BitVec 20
  orstr : BitVec 16
  oastr : BitVec 16
  amx : BitVec 10
  tid : BitVec 16
  ebase : BitVec 32
  gofs : BitVec 16
  deriving DecidableEq, Repr

/-- VEC line, Table 5.12. -/
structure VecLine where
  hdr : Hdr
  vop : BitVec 8
  sfmt : BitVec 4
  cvt : BitVec 8
  s1k : Bool
  s1 : BitVec 20
  s2k : Bool
  s2 : BitVec 20
  dk : Bool
  d : BitVec 20
  len : BitVec 16
  imm : BitVec 32
  tid : BitVec 16
  ebase : BitVec 32
  deriving DecidableEq, Repr

/-- XPOSE line, Table 5.13. -/
structure XposeLine where
  hdr : Hdr
  fmt : BitVec 4
  sq : Bool
  src : BitVec 20
  srstr : BitVec 16
  ssc : BitVec 20
  dst : BitVec 16
  dsc : BitVec 16
  rows : BitVec 11
  cols : BitVec 12
  deriving DecidableEq, Repr

/-- ROUTE line, Table 5.14. -/
structure RouteLine where
  hdr : Hdr
  rfn : BitVec 3
  k : BitVec 4
  nexp : BitVec 8
  layer : BitVec 8
  tokens : BitVec 16
  src : BitVec 20
  dst : BitVec 20
  ptab : BitVec 8
  cap : BitVec 16
  norm : BitVec 2
  a2aq : BitVec 20
  cgrp : BitVec 16
  tid : BitVec 16
  deriving DecidableEq, Repr

/-- SEND line, Table 5.15. -/
structure SendLine where
  hdr : Hdr
  fmt : BitVec 4
  smem : Bool
  saddr : BitVec 48
  len : BitVec 32
  dmod : BitVec 14
  dq : BitVec 20
  coll : BitVec 3
  cgrp : BitVec 16
  dall : Bool
  lenhi : BitVec 16
  deriving DecidableEq, Repr

/-- RECV line, Table 5.16. -/
structure RecvLine where
  hdr : Hdr
  rfmt : BitVec 4
  dfmt : BitVec 4
  dmem : Bool
  daddr : BitVec 48
  len : BitVec 32
  smod : BitVec 14
  sq : BitVec 20
  coll : BitVec 3
  cgrp : BitVec 16
  sany : Bool
  lenhi : BitVec 16
  deriving DecidableEq, Repr

/-- STASH and UNSTASH line, Table 5.18. -/
structure StashLine where
  hdr : Hdr
  sid : BitVec 24
  csa : BitVec 20
  len : BitVec 25
  rseg : BitVec 48
  deriving DecidableEq, Repr

/-- FENCE line, Table 5.19. -/
structure FenceLine where
  hdr : Hdr
  cmask : BitVec 7
  scope : BitVec 2
  deriving DecidableEq, Repr

/-- WAITQ line, Table 5.20. -/
structure WaitqLine where
  hdr : Hdr
  qid : Qid
  seq : BitVec 16
  cond : Bool
  tmo : BitVec 32
  deriving DecidableEq, Repr

/-- MARK line, Table 5.21. -/
structure MarkLine where
  hdr : Hdr
  layer : BitVec 8
  mb : BitVec 8
  phase : BitVec 2
  trace : Bool
  pdl : BitVec 48
  pdn : BitVec 8
  deriving DecidableEq, Repr

/-- DEADLINE line, Table 5.22. -/
structure DeadlineLine where
  hdr : Hdr
  mode : BitVec 2
  dl : BitVec 64
  qid : Qid
  deriving DecidableEq, Repr

/-- SEED line, Table 5.23. -/
structure SeedLine where
  hdr : Hdr
  seed : BitVec 128
  step : BitVec 32
  deriving DecidableEq, Repr

/-- UPD line, Table 5.24. -/
structure UpdLine where
  hdr : Hdr
  group : BitVec 12
  all : Bool
  ncoef : BitVec 3
  sel0 : BitVec 4
  val0 : BitVec 32
  sel1 : BitVec 4
  val1 : BitVec 32
  sel2 : BitVec 4
  val2 : BitVec 32
  sel3 : BitVec 4
  val3 : BitVec 32
  step : BitVec 32
  deriving DecidableEq, Repr

/-- BRANCH line, Table 5.25. The rows JUMP to END fix the kind. -/
structure BranchLine where
  hdr : Hdr
  kind : BitVec 3
  lci : BitVec 3
  target : BitVec 48
  cnt : BitVec 32
  laddr : BitVec 20
  deriving DecidableEq, Repr

/-- One decoded command line, by the opcode of Table 5.5. -/
inductive Line where
  | ldw (l : LdwLine)
  | mma (l : MmaLine)
  | dist (l : MmaLine)
  | red (l : RedLine)
  | epi (l : EpiLine)
  | vec (l : VecLine)
  | xpose (l : XposeLine)
  | route (l : RouteLine)
  | send (l : SendLine)
  | recv (l : RecvLine)
  | stash (l : StashLine)
  | unstash (l : StashLine)
  | fence (l : FenceLine)
  | waitq (l : WaitqLine)
  | mark (l : MarkLine)
  | deadline (l : DeadlineLine)
  | seed (l : SeedLine)
  | upd (l : UpdLine)
  | branch (l : BranchLine)
  | bad (opcode : BitVec 8) (hdr : Hdr)
  deriving DecidableEq, Repr

/-! ### Packets, frames and messages -/

/-- A transport packet: the header of Table 13.1 and its payload (13 R289). `tcrcOk` says whether TCRC matches. -/
structure Pkt where
  ver : BitVec 4
  type : BitVec 4
  tpart : PartId
  host : Bool
  smod : BitVec 14
  dmod : BitVec 14
  sess : BitVec 16
  psn : BitVec 32
  apsn : BitVec 32
  dq : BitVec 20
  coll : BitVec 3
  ret : Bool
  cgrp : BitVec 16
  fmt : BitVec 4
  first : Bool
  last : Bool
  acknow : Bool
  msg : BitVec 32
  ofs : BitVec 32
  step : BitVec 32
  arg : BitVec 32
  tcrcOk : Bool
  payload : List Byte
  deriving DecidableEq, Repr

/-- One record of an all-to-all segment list (13 R305). -/
structure A2aRec where
  a2aq : Qid
  j : BitVec 9
  refused : Bool
  count : BitVec 16
  item : BitVec 16
  deriving DecidableEq, Repr

/-- One all-to-all message (13 R305, R307): the session it arrived on, its queue, group, records and rows in list order. -/
structure A2aMsg where
  sess : BitVec 16
  dq : Qid
  cgrp : BitVec 16
  rowb : BitVec 32
  recs : List A2aRec
  rows : List (List Byte)
  deriving DecidableEq, Repr

/-- The payload of a Direct link control frame, Table 12.5 (its TYPE is the row). -/
structure Dlc where
  mid : BitVec 14
  port : BitVec 8
  directOk : Bool
  stepOk : Bool
  heard : Bool
  seq : BitVec 16
  width : BitVec 8
  amc : BitVec 32
  deriving DecidableEq, Repr

/-- Why a port goes down (12 R269 and the rules that name a cause). -/
inductive DownCause where
  | lockLoss | localFault | remoteFault | fecErrors | peerChanged | islandReset | sleep | removal | reconfigured
  deriving DecidableEq, Repr

/-- An ANNOUNCE frame: its source address and the payload of Table 12.15 that a receiver records (12 R288). -/
structure Announce where
  src : BitVec 48
  moduleId : BitVec 14
  assigned : Bool
  state : BitVec 16
  fwver : BitVec 32
  time : BitVec 64
  deriving DecidableEq, Repr

/-- One MP request segment: source address, the MP header of Table 14.2 and the bytes at OFS (14 R325). -/
structure MpSegment where
  src : BitVec 48
  kind : BitVec 8
  mb : BitVec 8
  seq : BitVec 16
  ofs : BitVec 16
  total : BitVec 16
  data : List Byte
  deriving DecidableEq, Repr

/-- A host message: the sending host, DMOD and TPART of its session header, and the request record with its data
(13 R315, R316). -/
structure HostMsg where
  host : Fin 64
  dmod : BitVec 14
  tpart : PartId
  op : BitVec 8
  mb : BitVec 8
  va : BitVec 64
  len : BitVec 64
  data : List Byte
  deriving DecidableEq, Repr

/-- What a fatal error is (15 R358). -/
inductive FatalCause where
  | regulatorSram | regulatorHbm | clockLoss (isl : BitVec 8) | meshCommandPath
  deriving DecidableEq, Repr

/-- What a mesh flit carries, which decides the outcome of its eighth failure (17 R389). -/
inductive FlitKind where
  | regulator | partition (p : PartId) | scrub (stack : StackId) | telemetry (id : BitVec 8)
  deriving DecidableEq, Repr

/-- What wakes the module (16 Table 16.4). -/
inductive WakeEvent where
  | mailbox | transport | frame | mpSegment (src : BitVec 48) (mb : BitVec 8) | mrst
  deriving DecidableEq, Repr

/-- One raw sensor reading, B32 bits after factory calibration (16 R377). -/
structure Reading where
  id : BitVec 8
  value : BitVec 32
  deriving DecidableEq, Repr

/-! ### The commands -/

/-- The commands of the block, one constructor per row of the table of operations and events. -/
inductive Instr where
  -- stream commands: a core's escapement decodes a line (05)
  | ldw (core : CoreId) (l : LdwLine)
  | mma (core : CoreId) (l : MmaLine)
  | dist (core : CoreId) (l : MmaLine)
  | red (core : CoreId) (l : RedLine)
  | epi (core : CoreId) (l : EpiLine)
  | exchangeEpi (core : CoreId) (l : EpiLine)
  | vec (core : CoreId) (l : VecLine)
  | xpose (core : CoreId) (l : XposeLine)
  | routeDispatch (core : CoreId) (l : RouteLine)
  | routeReuse (core : CoreId) (l : RouteLine)
  | routeCombine (core : CoreId) (l : RouteLine)
  | send (core : CoreId) (l : SendLine)
  | sendReduceScatter (core : CoreId) (l : SendLine)
  | sendA2aReturn (core : CoreId) (l : SendLine)
  | sendBroadcast (core : CoreId) (l : SendLine)
  | permute (core : CoreId) (l : SendLine)
  | recv (core : CoreId) (l : RecvLine)
  | recvAllGather (core : CoreId) (l : RecvLine)
  | stash (core : CoreId) (l : StashLine)
  | unstash (core : CoreId) (l : StashLine)
  | fence (core : CoreId) (l : FenceLine)
  | waitq (core : CoreId) (l : WaitqLine)
  | mark (core : CoreId) (l : MarkLine)
  | deadline (core : CoreId) (l : DeadlineLine)
  | seed (core : CoreId) (l : SeedLine)
  | upd (core : CoreId) (l : UpdLine)
  | jump (core : CoreId) (l : BranchLine)
  | call (core : CoreId) (l : BranchLine)
  | ret (core : CoreId) (l : BranchLine)
  | loop (core : CoreId) (l : BranchLine)
  | setlc (core : CoreId) (l : BranchLine)
  | lossGuard (core : CoreId) (l : BranchLine)
  | endStream (core : CoreId) (l : BranchLine)
  | badOpcode (core : CoreId) (opcode : BitVec 8) (hdr : Hdr)
  | fetchError (core : CoreId)
  -- events of cores, router, stream engine and queue manager (05, 06, 07, 08, 10, 11)
  | commandRetire (core : CoreId)
  | deadlinePassed (core : CoreId) (tag : BitVec 16)
  | waitqTimeout (core : CoreId)
  | roundAdmission (round : Nat)
  | amaxPush (p : PartId)
  | stashRelease (core : CoreId)
  | descriptorTake (core : CoreId)
  | descriptorIssue (q : Qid)
  | transferLanded (q : Qid) (n : Nat) (data : List Byte) (refused : Bool)
  | itemComplete (q : Qid)
  | descriptorCacheFill (q : Qid)
  | translationWalk (p : PartId) (vpn : BitVec 27)
  -- update engine (09)
  | superblockComplete (ctx : Nat)
  | precondPhase2 (p : PartId)
  | updPendingApply (core : CoreId)
  | gatherServe (n : Nat)
  -- transport and collective engine (13)
  | dataReceive (k : Pkt)
  | ackReceive (k : Pkt)
  | keepaliveReceive (k : Pkt)
  | openReceive (k : Pkt) (addr : BitVec 128)
  | openAckReceive (k : Pkt)
  | closeReceive (k : Pkt)
  | creditReceive (k : Pkt)
  | noticeSkip (k : Pkt)
  | noticeNorm (k : Pkt)
  | noticePeerLost (k : Pkt)
  | noticeReady (k : Pkt)
  | rsContributionReceive (k : Pkt)
  | gatherRequestReceive (k : Pkt)
  | a2aMessageReceive (m : A2aMsg)
  | a2aReturnReceive (m : A2aMsg)
  | ackTimer (sess : BitVec 13)
  | retransmitTimer (sess : BitVec 13) (psn : BitVec 32)
  | keepaliveTimer (sess : BitVec 13)
  | keepaliveSilence (sess : BitVec 13)
  -- fabric ports (12, 16)
  | portSignalDetect (p : PortId)
  | autonegComplete (p : PortId)
  | linkTrainingComplete (p : PortId)
  | pcsLock (p : PortId)
  | portDown (p : PortId) (cause : DownCause)
  | helloReceive (p : PortId) (d : Dlc)
  | helloTimer (p : PortId)
  | directTimeout (p : PortId)
  | stepWindow (p : PortId) (sent : Nat) (qb : Nat)
  | stepReqReceive (p : PortId) (d : Dlc)
  | stepAckReceive (p : PortId) (d : Dlc)
  | stepNakReceive (p : PortId) (d : Dlc)
  | stepReqTimeout (p : PortId)
  | laneSwitch (p : PortId)
  | adaptWindowDue (p : PortId)
  | adaptFloorForced (p : PortId)
  | adaptReqReceive (p : PortId) (d : Dlc)
  | adaptAckReceive (p : PortId) (d : Dlc)
  | adaptWindowEnd (p : PortId) (ns : Nat)
  | frameReceive (p : PortId) (sub : SubId) (frame : List Byte) (fcsOk : Bool)
  | assemblyTimeout (q : Qid)
  | frameTransmit (p : PortId) (sub : SubId)
  -- management port and mailboxes (12, 13, 14)
  | announceTimer
  | announceReceive (a : Announce)
  | announceAbsence (m : BitVec 14)
  | mpCollision
  | mpRequestSegment (g : MpSegment)
  | mpRequestTimeout (mb : MbId)
  | hostMessage (m : HostMsg)
  | mbDoorbell (mb : MbId) (seq : BitVec 16)
  | mbAbort (mb : MbId)
  | mbRole (mb : MbId)
  | hostTable (mb : MbId)
  | moduleSet (mb : MbId)
  | portSet (mb : MbId)
  | steerSet (mb : MbId)
  | fwdSet (mb : MbId)
  | plCap (mb : MbId)
  | sleep (mb : MbId)
  | resetWarm (mb : MbId)
  | resetRetrain (mb : MbId)
  | islandReset (mb : MbId)
  | flashWriteFirmware (mb : MbId)
  | flashWriteCalibration (mb : MbId)
  | flashWriteConfig (mb : MbId)
  | partCreate (mb : MbId)
  | partDelete (mb : MbId)
  | partReset (mb : MbId)
  | coreAssign (mb : MbId)
  | coreUnassign (mb : MbId)
  | regionMap (mb : MbId)
  | regionUnmap (mb : MbId)
  | regionSetRights (mb : MbId)
  | stashSet (mb : MbId)
  | queueCreate (mb : MbId)
  | queueEnable (mb : MbId)
  | queueDisable (mb : MbId)
  | queueDelete (mb : MbId)
  | programLoad (mb : MbId)
  | streamStart (mb : MbId)
  | streamCancel (mb : MbId)
  | plRequest (mb : MbId)
  | queueRead (mb : MbId)
  | queueDoorbell (mb : MbId)
  | queueAbort (mb : MbId)
  | counterRead (mb : MbId)
  | stepLogRead (mb : MbId)
  | auditState (mb : MbId)
  | checkpoint (mb : MbId)
  | restore (mb : MbId) (image : List Byte)
  | partStatus (mb : MbId)
  | moduleStatus (mb : MbId)
  | eventRead (mb : MbId)
  | telemetryRead (mb : MbId)
  | fruRead (mb : MbId)
  | attest (mb : MbId)
  | badCommand (mb : MbId)
  -- reset, start-up, hot swap, power, background (15, 16, 17, 18)
  | suppliesValid
  | mrstNAssert (lowNs : Nat)
  | mrstNRelease
  | mrstNLong
  | selfRefreshTimeout (stack : StackId)
  | watchdogExpiry (control : Fin 2)
  | fatalError (cause : FatalCause)
  | groupRelease
  | hbmTrainingComplete (failed : Option StackId)
  | hbmSelfTestComplete (failed : Option StackId)
  | warmTrainingCheck (ok : Bool) (temps : List (BitVec 32))
  | moduleReady
  | rmvReq (lowUs : Nat)
  | quiesced
  | seatAssert
  | debounceComplete
  | seatDeassert
  | vinPowerUp
  | inputUndervoltage
  | railsFall
  | inputOvervoltage
  | inputOvercurrent
  | inputShortCircuit
  | pcycle
  | pcycleRestart
  | registerWrite (offset : BitVec 8) (value : BitVec 8)
  | controlLoopTick (readings : List Reading)
  | thermCrit (r : Reading)
  | thermCritRelease (readings : List Reading)
  | thermShutdown (r : Reading)
  | levelChangeComplete (isl : BitVec 8)
  | telemetrySample (readings : List Reading)
  | powerMeterSample (volts : BitVec 32) (amps : BitVec 32)
  | wake (e : WakeEvent)
  | scrubSlotDue (stack : StackId)
  | scrubFloor (stack : StackId) (ns : Nat)
  | meshParityRetry (receiver : BitVec 8) (sender : BitVec 8) (attempt : Nat) (kind : FlitKind)
  | inputReturn
  | mpBackoffEnd
  | gpioSecondPulse (high : Bool)
  | stackTemperatureCrossing (stack : StackId) (above : Bool)
  deriving DecidableEq, Repr

end Sys2Proof
end

