-- ==== Sys2Proof/Decode.lean ====
section
/-! DEFINITION. The commands of the table carry no bits: no word spells one. The lines a core fetches are decoded by
`decodeLine` of Machine/Lines.lean. -/

namespace Sys2Proof

/-- The command that a word spells by the table's bits: none, since no row of the table has any. -/
def decodeTableWord (_nbits _w : Nat) : Option Instr := none

end Sys2Proof
end

