-- ==== Sys2Proof/Config.lean ====
section
/-! DEFINITION. What the spec leaves open, as constants without a body: nothing can be proved of their values. -/

namespace Sys2Proof

/-- The n-th free value: draws of the security block's random source (12 R286, 13 R291), detection lags inside a
stated bound (05 R235), replacement victims (10 R221, 11 R251) and every other value the spec leaves open (log 1). -/
opaque Config.freeValue : Nat → Nat

/-- The value of function `fn` of 06 R124 at (-1)^neg * m * 2^e with m odd, as a sign, a significand and an
exponent. The spec bounds its relative error and fixes nothing else (log 8). -/
opaque Config.funcValue : (fn : Nat) → (neg : Bool) → (m : Nat) → (e : Int) → Bool × Nat × Int

/-- What the spec leaves open of the headers around a transport packet, by field, module and sub-port: 0 the IP address of a module,
1 the IPv6 traffic class and flow label or the IPv4 type of service, 2 the hop limit, 3 the IPv4 identification and flags, 4 the
destination address on a switched port (log 27). -/
opaque Config.ipField : (field mod sub : Nat) → Nat

/-- The bytes of the E tensor in a partition's space, as addresses and lengths: the spec puts E into a checkpoint and gives neither its
place nor its size (13 R319, log 37). -/
opaque Config.residualRuns : (part : Nat) → List (Nat × Nat)

/-- The PHY latency in ns of a sub-port that the factory calibration in OTP gives, whose layout the spec leaves open (12 R273, 16 R379,
log 56). -/
opaque Config.phyLatency : (otp : List Byte) → (sub : Nat) → Nat

end Sys2Proof
end

