-- ==== Sys2Proof/Machine/Store.lean ====
section
/-! DEFINITION. Sparse maps over natural-number keys in one canonical form: keys strictly rising, no entry equal to the
default value an unlisted key reads as. Memory is the map whose values are bytes (Host.Cell) and whose default is 0. -/

namespace Sys2Proof.Machine

/-- A sparse map: entries in rising key order. -/
abbrev Smap (α : Type) := List (Nat × α)

/-- Byte-addressed memory: the cells that do not read as zero (log 3, log 4). -/
abbrev Mem := List Host.Cell

/-- The value of key `a`; an unlisted key reads as `d`. -/
def Smap.get {α : Type} (d : α) : Smap α → Nat → α
  | [], _ => d
  | (k, v) :: t, a => if a = k then v else Smap.get d t a

/-- Enter `v` at `a`, keeping the keys rising. -/
def Smap.put {α : Type} : Smap α → Nat → α → Smap α
  | [], a, v => [(a, v)]
  | (k, w) :: t, a, v => if a < k then (a, v) :: (k, w) :: t else if a = k then (a, v) :: t else (k, w) :: Smap.put t a v

/-- Remove key `a`. -/
def Smap.erase {α : Type} : Smap α → Nat → Smap α
  | [], _ => []
  | (k, w) :: t, a => if a = k then Smap.erase t a else (k, w) :: Smap.erase t a

/-- Write `v` at `a`; writing the default removes the entry. -/
def Smap.set {α : Type} [DecidableEq α] (d : α) (m : Smap α) (a : Nat) (v : α) : Smap α :=
  if v = d then Smap.erase m a else Smap.put m a v

/-- The canonical form from key `lo` on. -/
def Smap.wfFrom {α : Type} [DecidableEq α] (d : α) : Nat → Smap α → Bool
  | _, [] => true
  | lo, (k, v) :: t => decide (lo ≤ k) && decide (v ≠ d) && Smap.wfFrom d (k + 1) t

/-- The canonical form: keys strictly rising and no entry equal to the default. -/
def Smap.wf {α : Type} [DecidableEq α] (d : α) (m : Smap α) : Bool := Smap.wfFrom d 0 m

/-- The canonical form of memory. -/
def Memory.wf (m : Mem) : Bool := Smap.wf 0#8 m

/-- One byte of memory. -/
def Mem.read (m : Mem) (a : Nat) : Byte := Smap.get 0#8 m a

/-- Store one byte. -/
def Mem.write (m : Mem) (a : Nat) (b : Byte) : Mem := Smap.set 0#8 m a b

/-- `n` bytes from address `a`, lowest address first. -/
def Mem.readN (m : Mem) (a : Nat) : Nat → List Byte
  | 0 => []
  | n + 1 => Mem.read m a :: Mem.readN m (a + 1) n

/-- Store bytes from address `a` upward. -/
def Mem.writeN (m : Mem) (a : Nat) : List Byte → Mem
  | [] => m
  | b :: bs => Mem.writeN (Mem.write m a b) (a + 1) bs

/-- Little-endian value of a byte list (R7). -/
def natLE : List Byte → Nat
  | [] => 0
  | b :: bs => b.toNat + 256 * natLE bs

/-- The `n` little-endian bytes of a number. -/
def bytesLE : Nat → Nat → List Byte
  | 0, _ => []
  | n + 1, v => BitVec.ofNat 8 v :: bytesLE n (v / 256)

/-- The little-endian field of `n` bytes at offset `o` of a structure held as bytes; bytes past its end read as zero. -/
def fieldLE (bs : List Byte) (o n : Nat) : Nat := natLE ((bs.drop o).take n)

/-- Bits [hi:lo] of a number. -/
def bitsOf (v lo n : Nat) : Nat := (v >>> lo) % 2 ^ n

/-- Replace the bytes of a list from offset `o` by `v` (the list keeps its length). -/
def patch (bs : List Byte) (o : Nat) (v : List Byte) : List Byte :=
  bs.take o ++ (v.take (bs.length - o)) ++ bs.drop (o + v.length)

/-- Extend with zero bytes, or cut, to exactly `n` bytes. -/
def padTo (n : Nat) (bs : List Byte) : List Byte := (bs ++ List.replicate (n - bs.length) 0#8).take n

/-- `a` rounded up to a multiple of `n`. -/
def roundUp (a n : Nat) : Nat := (a + n - 1) / n * n

/-- The ceiling of a / n. -/
def ceilDiv (a n : Nat) : Nat := (a + n - 1) / n

end Sys2Proof.Machine
end

