-- ==== Sys2Proof/Machine/Lines.lean ====
section
/-! DEFINITION. The command lines of 05 Tables 5.4 to 5.25 as 256 bits: the decoder the escapement applies to a fetched
line, and the encoder written from the same tables. -/

namespace Sys2Proof

open Sys2Proof.Machine

/-- The header of Table 5.4 without the opcode. -/
def Hdr.ofBits (w : BitVec 256) : Hdr where
  tag := w.extractLsb' 8 16
  cqe := w.getLsbD 24
  haltErr := w.getLsbD 25

/-- The header of Table 5.4 under an opcode. -/
def Hdr.toBits (op : BitVec 8) (h : Hdr) : BitVec 32 :=
  0#6 ++ BitVec.ofBool h.haltErr ++ BitVec.ofBool h.cqe ++ h.tag ++ op

/-- The fields of Table 5.6. -/
def LdwLine.ofBits (w : BitVec 256) : LdwLine where
  hdr := Hdr.ofBits w
  arr := w.extractLsb' 32 2
  bank := w.getLsbD 34
  form := w.extractLsb' 35 2
  wfmt := w.extractLsb' 37 4
  afmt := w.extractLsb' 41 4
  sparse := w.getLsbD 45
  wbs := w.getLsbD 46
  wsrc := w.getLsbD 47
  img := w.extractLsb' 48 20
  bskip := w.extractLsb' 68 64

/-- The 256 bits of Table 5.6 under an opcode, reserved bits zero. -/
def LdwLine.toBits (op : BitVec 8) (l : LdwLine) : BitVec 256 :=
  0#124 ++ l.bskip ++ l.img ++ BitVec.ofBool l.wsrc ++ BitVec.ofBool l.wbs ++ BitVec.ofBool l.sparse ++ l.afmt
      ++ l.wfmt ++ l.form ++ BitVec.ofBool l.bank ++ l.arr ++ l.hdr.toBits op

/-- The fields of Table 5.7. -/
def MmaLine.ofBits (w : BitVec 256) : MmaLine where
  hdr := Hdr.ofBits w
  amask := w.extractLsb' 32 4
  banksel := w.extractLsb' 36 4
  form := w.extractLsb' 40 2
  acc := w.getLsbD 42
  stream := w.getLsbD 43
  afmt := w.extractLsb' 44 4
  wfmt := w.extractLsb' 48 4
  abs := w.getLsbD 52
  sparse := w.getLsbD 53
  asrc := w.getLsbD 54
  tile := w.extractLsb' 55 5
  wofs := w.extractLsb' 60 9
  rows := w.extractLsb' 69 11
  aaddr := w.extractLsb' 80 20
  arstr := w.extractLsb' 100 16
  asc := w.extractLsb' 116 20
  bskip := w.extractLsb' 136 64
  simg := w.extractLsb' 200 20
  t := w.extractLsb' 220 8
  sstr := w.extractLsb' 228 16
  dop := w.extractLsb' 244 2
  swbs := w.getLsbD 246

/-- The 256 bits of Table 5.7 under an opcode, reserved bits zero. -/
def MmaLine.toBits (op : BitVec 8) (l : MmaLine) : BitVec 256 :=
  0#9 ++ BitVec.ofBool l.swbs ++ l.dop ++ l.sstr ++ l.t ++ l.simg ++ l.bskip ++ l.asc ++ l.arstr ++ l.aaddr
      ++ l.rows ++ l.wofs ++ l.tile ++ BitVec.ofBool l.asrc ++ BitVec.ofBool l.sparse ++ BitVec.ofBool l.abs
      ++ l.wfmt ++ l.afmt ++ BitVec.ofBool l.stream ++ BitVec.ofBool l.acc ++ l.form ++ l.banksel ++ l.amask ++ l.hdr.toBits op

/-- The fields of Table 5.8. -/
def RedLine.ofBits (w : BitVec 256) : RedLine where
  hdr := Hdr.ofBits w
  mode := w.getLsbD 32
  cont := w.getLsbD 33
  fmt := w.extractLsb' 34 4
  bs := w.getLsbD 38
  vreg := w.extractLsb' 39 5
  src := w.extractLsb' 44 20
  len := w.extractLsb' 64 16
  rows := w.extractLsb' 80 10
  rstr := w.extractLsb' 90 16
  dst := w.extractLsb' 106 20
  wb := w.getLsbD 126
  indexBase := w.extractLsb' 128 32
  ssrc := w.extractLsb' 160 20

/-- The 256 bits of Table 5.8 under an opcode, reserved bits zero. -/
def RedLine.toBits (op : BitVec 8) (l : RedLine) : BitVec 256 :=
  0#76 ++ l.ssrc ++ l.indexBase ++ 0#1 ++ BitVec.ofBool l.wb ++ l.dst ++ l.rstr ++ l.rows ++ l.len ++ l.src
      ++ l.vreg ++ BitVec.ofBool l.bs ++ l.fmt ++ BitVec.ofBool l.cont ++ BitVec.ofBool l.mode ++ l.hdr.toBits op

/-- The fields of Table 5.10. -/
def EpiLine.ofBits (w : BitVec 256) : EpiLine where
  hdr := Hdr.ofBits w
  amask := w.extractLsb' 32 4
  tile := w.extractLsb' 36 5
  rows := w.extractLsb' 41 11
  form := w.extractLsb' 52 2
  act := w.extractLsb' 54 3
  biasEn := w.getLsbD 57
  amxEn := w.getLsbD 58
  cvt := w.extractLsb' 60 8
  scl := w.extractLsb' 68 20
  bias := w.extractLsb' 88 20
  tbl := w.extractLsb' 108 20
  dst := w.extractLsb' 128 20
  orstr := w.extractLsb' 148 16
  oastr := w.extractLsb' 164 16
  amx := w.extractLsb' 180 10
  tid := w.extractLsb' 192 16
  ebase := w.extractLsb' 208 32
  gofs := w.extractLsb' 240 16

/-- The 256 bits of Table 5.10 under an opcode, reserved bits zero. -/
def EpiLine.toBits (op : BitVec 8) (l : EpiLine) : BitVec 256 :=
  l.gofs ++ l.ebase ++ l.tid ++ 0#2 ++ l.amx ++ l.oastr ++ l.orstr ++ l.dst ++ l.tbl ++ l.bias ++ l.scl ++ l.cvt
      ++ 0#1 ++ BitVec.ofBool l.amxEn ++ BitVec.ofBool l.biasEn ++ l.act ++ l.form ++ l.rows ++ l.tile
      ++ l.amask ++ l.hdr.toBits op

/-- The fields of Table 5.12. -/
def VecLine.ofBits (w : BitVec 256) : VecLine where
  hdr := Hdr.ofBits w
  vop := w.extractLsb' 32 8
  sfmt := w.extractLsb' 40 4
  cvt := w.extractLsb' 44 8
  s1k := w.getLsbD 52
  s1 := w.extractLsb' 53 20
  s2k := w.getLsbD 73
  s2 := w.extractLsb' 74 20
  dk := w.getLsbD 94
  d := w.extractLsb' 95 20
  len := w.extractLsb' 115 16
  imm := w.extractLsb' 131 32
  tid := w.extractLsb' 163 16
  ebase := w.extractLsb' 179 32

/-- The 256 bits of Table 5.12 under an opcode, reserved bits zero. -/
def VecLine.toBits (op : BitVec 8) (l : VecLine) : BitVec 256 :=
  0#45 ++ l.ebase ++ l.tid ++ l.imm ++ l.len ++ l.d ++ BitVec.ofBool l.dk ++ l.s2 ++ BitVec.ofBool l.s2k ++ l.s1
      ++ BitVec.ofBool l.s1k ++ l.cvt ++ l.sfmt ++ l.vop ++ l.hdr.toBits op

/-- The fields of Table 5.13. -/
def XposeLine.ofBits (w : BitVec 256) : XposeLine where
  hdr := Hdr.ofBits w
  fmt := w.extractLsb' 32 4
  sq := w.getLsbD 36
  src := w.extractLsb' 37 20
  srstr := w.extractLsb' 57 16
  ssc := w.extractLsb' 73 20
  dst := w.extractLsb' 93 16
  dsc := w.extractLsb' 109 16
  rows := w.extractLsb' 125 11
  cols := w.extractLsb' 136 12

/-- The 256 bits of Table 5.13 under an opcode, reserved bits zero. -/
def XposeLine.toBits (op : BitVec 8) (l : XposeLine) : BitVec 256 :=
  0#108 ++ l.cols ++ l.rows ++ l.dsc ++ l.dst ++ l.ssc ++ l.srstr ++ l.src ++ BitVec.ofBool l.sq ++ l.fmt ++ l.hdr.toBits op

/-- The fields of Table 5.14. -/
def RouteLine.ofBits (w : BitVec 256) : RouteLine where
  hdr := Hdr.ofBits w
  rfn := w.extractLsb' 32 3
  k := w.extractLsb' 35 4
  nexp := w.extractLsb' 40 8
  layer := w.extractLsb' 48 8
  tokens := w.extractLsb' 56 16
  src := w.extractLsb' 72 20
  dst := w.extractLsb' 92 20
  ptab := w.extractLsb' 112 8
  cap := w.extractLsb' 120 16
  norm := w.extractLsb' 136 2
  a2aq := w.extractLsb' 138 20
  cgrp := w.extractLsb' 158 16
  tid := w.extractLsb' 174 16

/-- The 256 bits of Table 5.14 under an opcode, reserved bits zero. -/
def RouteLine.toBits (op : BitVec 8) (l : RouteLine) : BitVec 256 :=
  0#66 ++ l.tid ++ l.cgrp ++ l.a2aq ++ l.norm ++ l.cap ++ l.ptab ++ l.dst ++ l.src ++ l.tokens ++ l.layer
      ++ l.nexp ++ 0#1 ++ l.k ++ l.rfn ++ l.hdr.toBits op

/-- The fields of Table 5.15. -/
def SendLine.ofBits (w : BitVec 256) : SendLine where
  hdr := Hdr.ofBits w
  fmt := w.extractLsb' 32 4
  smem := w.getLsbD 36
  saddr := w.extractLsb' 37 48
  len := w.extractLsb' 85 32
  dmod := w.extractLsb' 117 14
  dq := w.extractLsb' 131 20
  coll := w.extractLsb' 151 3
  cgrp := w.extractLsb' 154 16
  dall := w.getLsbD 170
  lenhi := w.extractLsb' 171 16

/-- The 256 bits of Table 5.15 under an opcode, reserved bits zero. -/
def SendLine.toBits (op : BitVec 8) (l : SendLine) : BitVec 256 :=
  0#69 ++ l.lenhi ++ BitVec.ofBool l.dall ++ l.cgrp ++ l.coll ++ l.dq ++ l.dmod ++ l.len ++ l.saddr
      ++ BitVec.ofBool l.smem ++ l.fmt ++ l.hdr.toBits op

/-- The fields of Table 5.16. -/
def RecvLine.ofBits (w : BitVec 256) : RecvLine where
  hdr := Hdr.ofBits w
  rfmt := w.extractLsb' 32 4
  dfmt := w.extractLsb' 36 4
  dmem := w.getLsbD 40
  daddr := w.extractLsb' 41 48
  len := w.extractLsb' 89 32
  smod := w.extractLsb' 121 14
  sq := w.extractLsb' 135 20
  coll := w.extractLsb' 155 3
  cgrp := w.extractLsb' 158 16
  sany := w.getLsbD 174
  lenhi := w.extractLsb' 175 16

/-- The 256 bits of Table 5.16 under an opcode, reserved bits zero. -/
def RecvLine.toBits (op : BitVec 8) (l : RecvLine) : BitVec 256 :=
  0#65 ++ l.lenhi ++ BitVec.ofBool l.sany ++ l.cgrp ++ l.coll ++ l.sq ++ l.smod ++ l.len ++ l.daddr
      ++ BitVec.ofBool l.dmem ++ l.dfmt ++ l.rfmt ++ l.hdr.toBits op

/-- The fields of Table 5.18. -/
def StashLine.ofBits (w : BitVec 256) : StashLine where
  hdr := Hdr.ofBits w
  sid := w.extractLsb' 32 24
  csa := w.extractLsb' 56 20
  len := w.extractLsb' 76 25
  rseg := w.extractLsb' 101 48

/-- The 256 bits of Table 5.18 under an opcode, reserved bits zero. -/
def StashLine.toBits (op : BitVec 8) (l : StashLine) : BitVec 256 :=
  0#107 ++ l.rseg ++ l.len ++ l.csa ++ l.sid ++ l.hdr.toBits op

/-- The fields of Table 5.19. -/
def FenceLine.ofBits (w : BitVec 256) : FenceLine where
  hdr := Hdr.ofBits w
  cmask := w.extractLsb' 32 7
  scope := w.extractLsb' 40 2

/-- The 256 bits of Table 5.19 under an opcode, reserved bits zero. -/
def FenceLine.toBits (op : BitVec 8) (l : FenceLine) : BitVec 256 :=
  0#214 ++ l.scope ++ 0#1 ++ l.cmask ++ l.hdr.toBits op

/-- The fields of Table 5.20. -/
def WaitqLine.ofBits (w : BitVec 256) : WaitqLine where
  hdr := Hdr.ofBits w
  qid := w.extractLsb' 32 20
  seq := w.extractLsb' 52 16
  cond := w.getLsbD 68
  tmo := w.extractLsb' 69 32

/-- The 256 bits of Table 5.20 under an opcode, reserved bits zero. -/
def WaitqLine.toBits (op : BitVec 8) (l : WaitqLine) : BitVec 256 :=
  0#155 ++ l.tmo ++ BitVec.ofBool l.cond ++ l.seq ++ l.qid ++ l.hdr.toBits op

/-- The fields of Table 5.21. -/
def MarkLine.ofBits (w : BitVec 256) : MarkLine where
  hdr := Hdr.ofBits w
  layer := w.extractLsb' 32 8
  mb := w.extractLsb' 40 8
  phase := w.extractLsb' 48 2
  trace := w.getLsbD 50
  pdl := w.extractLsb' 51 48
  pdn := w.extractLsb' 99 8

/-- The 256 bits of Table 5.21 under an opcode, reserved bits zero. -/
def MarkLine.toBits (op : BitVec 8) (l : MarkLine) : BitVec 256 :=
  0#149 ++ l.pdn ++ l.pdl ++ BitVec.ofBool l.trace ++ l.phase ++ l.mb ++ l.layer ++ l.hdr.toBits op

/-- The fields of Table 5.22. -/
def DeadlineLine.ofBits (w : BitVec 256) : DeadlineLine where
  hdr := Hdr.ofBits w
  mode := w.extractLsb' 32 2
  dl := w.extractLsb' 34 64
  qid := w.extractLsb' 98 20

/-- The 256 bits of Table 5.22 under an opcode, reserved bits zero. -/
def DeadlineLine.toBits (op : BitVec 8) (l : DeadlineLine) : BitVec 256 :=
  0#138 ++ l.qid ++ l.dl ++ l.mode ++ l.hdr.toBits op

/-- The fields of Table 5.23. -/
def SeedLine.ofBits (w : BitVec 256) : SeedLine where
  hdr := Hdr.ofBits w
  seed := w.extractLsb' 32 128
  step := w.extractLsb' 160 32

/-- The 256 bits of Table 5.23 under an opcode, reserved bits zero. -/
def SeedLine.toBits (op : BitVec 8) (l : SeedLine) : BitVec 256 :=
  0#64 ++ l.step ++ l.seed ++ l.hdr.toBits op

/-- The fields of Table 5.24. -/
def UpdLine.ofBits (w : BitVec 256) : UpdLine where
  hdr := Hdr.ofBits w
  group := w.extractLsb' 32 12
  all := w.getLsbD 44
  ncoef := w.extractLsb' 45 3
  sel0 := w.extractLsb' 48 4
  val0 := w.extractLsb' 52 32
  sel1 := w.extractLsb' 84 4
  val1 := w.extractLsb' 88 32
  sel2 := w.extractLsb' 120 4
  val2 := w.extractLsb' 124 32
  sel3 := w.extractLsb' 156 4
  val3 := w.extractLsb' 160 32
  step := w.extractLsb' 192 32

/-- The 256 bits of Table 5.24 under an opcode, reserved bits zero. -/
def UpdLine.toBits (op : BitVec 8) (l : UpdLine) : BitVec 256 :=
  0#32 ++ l.step ++ l.val3 ++ l.sel3 ++ l.val2 ++ l.sel2 ++ l.val1 ++ l.sel1 ++ l.val0 ++ l.sel0 ++ l.ncoef
      ++ BitVec.ofBool l.all ++ l.group ++ l.hdr.toBits op

/-- The fields of Table 5.25. -/
def BranchLine.ofBits (w : BitVec 256) : BranchLine where
  hdr := Hdr.ofBits w
  kind := w.extractLsb' 32 3
  lci := w.extractLsb' 35 3
  target := w.extractLsb' 38 48
  cnt := w.extractLsb' 86 32
  laddr := w.extractLsb' 118 20

/-- The 256 bits of Table 5.25 under an opcode, reserved bits zero. -/
def BranchLine.toBits (op : BitVec 8) (l : BranchLine) : BitVec 256 :=
  0#118 ++ l.laddr ++ l.cnt ++ l.target ++ l.lci ++ l.kind ++ l.hdr.toBits op
/-- The line a fetched 256-bit word is (R96: an undefined opcode is a line of its own). -/
def decodeLine (w : BitVec 256) : Line :=
  match (w.extractLsb' 0 8).toNat with
  | 1 => .ldw (LdwLine.ofBits w)
  | 2 => .mma (MmaLine.ofBits w)
  | 3 => .dist (MmaLine.ofBits w)
  | 4 => .red (RedLine.ofBits w)
  | 5 => .epi (EpiLine.ofBits w)
  | 6 => .vec (VecLine.ofBits w)
  | 7 => .xpose (XposeLine.ofBits w)
  | 8 => .route (RouteLine.ofBits w)
  | 9 => .send (SendLine.ofBits w)
  | 10 => .recv (RecvLine.ofBits w)
  | 11 => .stash (StashLine.ofBits w)
  | 12 => .unstash (StashLine.ofBits w)
  | 13 => .fence (FenceLine.ofBits w)
  | 14 => .waitq (WaitqLine.ofBits w)
  | 15 => .mark (MarkLine.ofBits w)
  | 16 => .deadline (DeadlineLine.ofBits w)
  | 17 => .seed (SeedLine.ofBits w)
  | 18 => .upd (UpdLine.ofBits w)
  | 19 => .branch (BranchLine.ofBits w)
  | _ => .bad (w.extractLsb' 0 8) (Hdr.ofBits w)

/-- The 256 bits of a line. -/
def encodeLine : Line → BitVec 256
  | .ldw l => l.toBits 1#8
  | .mma l => l.toBits 2#8
  | .dist l => l.toBits 3#8
  | .red l => l.toBits 4#8
  | .epi l => l.toBits 5#8
  | .vec l => l.toBits 6#8
  | .xpose l => l.toBits 7#8
  | .route l => l.toBits 8#8
  | .send l => l.toBits 9#8
  | .recv l => l.toBits 10#8
  | .stash l => l.toBits 11#8
  | .unstash l => l.toBits 12#8
  | .fence l => l.toBits 13#8
  | .waitq l => l.toBits 14#8
  | .mark l => l.toBits 15#8
  | .deadline l => l.toBits 16#8
  | .seed l => l.toBits 17#8
  | .upd l => l.toBits 18#8
  | .branch l => l.toBits 19#8
  | .bad op h => 0#224 ++ h.toBits op

/-- The 32 bytes of a line as stored (Table 5.31). -/
def lineBytes (l : Line) : List Byte := bytesLE 32 (encodeLine l).toNat

/-- The line that 32 bytes spell. -/
def lineOfBytes (bs : List Byte) : Line := decodeLine (BitVec.ofNat 256 (natLE bs))

/-- The header of a line. -/
def lineHdr : Line → Hdr
  | .ldw l => l.hdr
  | .mma l => l.hdr
  | .dist l => l.hdr
  | .red l => l.hdr
  | .epi l => l.hdr
  | .vec l => l.hdr
  | .xpose l => l.hdr
  | .route l => l.hdr
  | .send l => l.hdr
  | .recv l => l.hdr
  | .stash l => l.hdr
  | .unstash l => l.hdr
  | .fence l => l.hdr
  | .waitq l => l.hdr
  | .mark l => l.hdr
  | .deadline l => l.hdr
  | .seed l => l.hdr
  | .upd l => l.hdr
  | .branch l => l.hdr
  | .bad _ h => h

/-- The opcode of a line (Table 5.5). -/
def lineOpcode : Line → BitVec 8
  | .ldw _ => 1
  | .mma _ => 2
  | .dist _ => 3
  | .red _ => 4
  | .epi _ => 5
  | .vec _ => 6
  | .xpose _ => 7
  | .route _ => 8
  | .send _ => 9
  | .recv _ => 10
  | .stash _ => 11
  | .unstash _ => 12
  | .fence _ => 13
  | .waitq _ => 14
  | .mark _ => 15
  | .deadline _ => 16
  | .seed _ => 17
  | .upd _ => 18
  | .branch _ => 19
  | .bad op _ => op

end Sys2Proof
end

