-- ==== Sys2Proof/Machine/Numeric.lean ====
section
/-! DEFINITION. The extended intermediate of 02 R42 and the arithmetic on it: exact results rounded to odd at 40
bits (R41), the formats of Tables 2.1 to 2.7, conversions R34 to R40, and the block scales of R31. -/

namespace Sys2Proof.Machine

/-- A value of the extended intermediate, or an exact value on its way into it: (-1)^neg * m * 2^e, an infinity or
the single NaN (02 R42, 06 R125). -/
inductive Ext where
  | nan
  | inf (neg : Bool)
  | fin (neg : Bool) (m : Nat) (e : Int)
  deriving DecidableEq, Repr, Inhabited

/-- Number of significant bits of a natural number. -/
def bitLen (n : Nat) : Nat := if n = 0 then 0 else Nat.log2 n + 1

/-- Shift left by a signed amount; bits shifted out at the bottom are lost. -/
def shiftI (m : Nat) (k : Int) : Nat := if 0 ≤ k then m <<< k.toNat else m >>> (-k).toNat

/-- Truncate `m` to `p` significant bits and set the last bit if a discarded bit was non-zero (R41); with the bits dropped. -/
def oddCut (p m : Nat) : Nat × Nat :=
  let k := bitLen m - p
  let q := m >>> k
  (if m % 2 ^ k = 0 then q else q ||| 1, k)

/-- Round to odd at 40 bits (R41, R42). -/
def Ext.rto : Ext → Ext
  | .fin s m e => let c := oddCut 40 m; .fin s c.1 (e + c.2)
  | x => x

def Ext.isNan : Ext → Bool
  | .nan => true
  | _ => false

def Ext.isInf : Ext → Bool
  | .inf _ => true
  | _ => false

def Ext.isFin : Ext → Bool
  | .fin .. => true
  | _ => false

def Ext.isZero : Ext → Bool
  | .fin _ m _ => m == 0
  | _ => false

/-- The sign, true for negative. -/
def Ext.sign : Ext → Bool
  | .nan => false
  | .inf s => s
  | .fin s _ _ => s

def Ext.neg : Ext → Ext
  | .nan => .nan
  | .inf s => .inf !s
  | .fin s m e => .fin (!s) m e

def Ext.abs : Ext → Ext
  | .nan => .nan
  | .inf _ => .inf false
  | .fin _ m e => .fin false m e

def Ext.zero : Ext := .fin false 0 0
def Ext.one : Ext := .fin false 1 0
def Ext.ofNat (n : Nat) : Ext := .fin false n 0

/-- The signed multiple of 2^e0 that a finite value is, for e0 at or below its exponent. -/
def signedAt (s : Bool) (m : Nat) (e e0 : Int) : Int :=
  let v : Int := ((m <<< (e - e0).toNat : Nat) : Int)
  if s then -v else v

/-- Exact product under the IEEE rules of 06 R125. -/
def Ext.mulX : Ext → Ext → Ext
  | .nan, _ => .nan
  | _, .nan => .nan
  | .inf s, .inf t => .inf (s != t)
  | .inf s, .fin t m _ => if m = 0 then .nan else .inf (s != t)
  | .fin s m _, .inf t => if m = 0 then .nan else .inf (s != t)
  | .fin s m e, .fin t n f => .fin (s != t) (m * n) (e + f)

/-- Exact sum under the IEEE rules of 06 R125; a sum of opposite values is +0. -/
def Ext.addX : Ext → Ext → Ext
  | .nan, _ => .nan
  | _, .nan => .nan
  | .inf s, .inf t => if s = t then .inf s else .nan
  | .inf s, .fin .. => .inf s
  | .fin .., .inf t => .inf t
  | .fin s m e, .fin t n f =>
    if m = 0 ∧ n = 0 then .fin (s && t) 0 0
    else if m = 0 then .fin t n f
    else if n = 0 then .fin s m e
    else
      let g := min e f
      let v := signedAt s m e g + signedAt t n f g
      .fin (decide (v < 0)) v.natAbs g

/-- Product, sum and difference rounded to odd. -/
def Ext.mul (a b : Ext) : Ext := (Ext.mulX a b).rto
def Ext.add (a b : Ext) : Ext := (Ext.addX a b).rto
def Ext.sub (a b : Ext) : Ext := (Ext.addX a b.neg).rto

/-- Quotient rounded to odd (06 R125: 0/0 is NaN, division by zero an infinity with the sign of the quotient). -/
def Ext.div : Ext → Ext → Ext
  | .nan, _ => .nan
  | _, .nan => .nan
  | .inf _, .inf _ => .nan
  | .inf s, .fin t _ _ => .inf (s != t)
  | .fin s _ _, .inf t => .fin (s != t) 0 0
  | .fin s m e, .fin t n f =>
    if n = 0 then (if m = 0 then .nan else .inf (s != t))
    else
      let k := 44 + bitLen n - bitLen m
      let num := m <<< k
      let q := num / n
      (Ext.fin (s != t) (if num % n = 0 then q else (2 * q + 1)) (if num % n = 0 then e - f - k else e - f - k - 1)).rto

/-- Integer square root, one bit of the root at a time from bit `i - 1` down. -/
def isqrtFrom (n : Nat) : Nat → Nat → Nat
  | 0, r => r
  | i + 1, r => let c := r + 2 ^ i; isqrtFrom n i (if c * c ≤ n then c else r)

/-- Integer square root. -/
def isqrt (n : Nat) : Nat := isqrtFrom n (bitLen n / 2 + 1) 0

/-- Square root rounded to odd (Table 6.2: -0 gives 0, negative gives NaN). -/
def Ext.sqrt : Ext → Ext
  | .nan => .nan
  | .inf s => if s then .nan else .inf false
  | .fin s m e =>
    if m = 0 then .zero
    else if s then .nan
    else
      -- make the exponent even and the radicand at least 90 bits
      let k0 := 90 - bitLen m
      let k := if (e - k0) % 2 = 0 then k0 else k0 + 1
      let r := m <<< k
      let q := isqrt r
      (Ext.fin false (if q * q = r then q else 2 * q + 1) (if q * q = r then (e - k) / 2 else (e - k) / 2 - 1)).rto

/-- Strict order of two values, NaN below nothing; zeros are equal. -/
def Ext.lt : Ext → Ext → Bool
  | .nan, _ => false
  | _, .nan => false
  | .inf s, .inf t => s && !t
  | .inf s, .fin .. => s
  | .fin .., .inf t => !t
  | .fin s m e, .fin t n f => let g := min e f; decide (signedAt s m e g < signedAt t n f g)

def Ext.le (a b : Ext) : Bool := !a.isNan && !b.isNan && !Ext.lt b a

/-- Equality by value; NaN equals nothing. -/
def Ext.veq (a b : Ext) : Bool := !a.isNan && !b.isNan && !Ext.lt a b && !Ext.lt b a

/-- MAX and MIN of 06 R125: NaN if either operand is NaN, the first operand on a tie. -/
def Ext.max (a b : Ext) : Ext := if a.isNan || b.isNan then .nan else if Ext.lt a b then b else a
def Ext.min (a b : Ext) : Ext := if a.isNan || b.isNan then .nan else if Ext.lt b a then b else a

/-- The exact value times 2^k. -/
def Ext.scale (x : Ext) (k : Int) : Ext :=
  match x with
  | .fin s m e => .fin s m (e + k)
  | y => y

/-! ### Formats (Tables 2.1 to 2.7) -/

/-- The formats of Table 2.1. -/
inductive Fmt where
  | f4 | f6 | f8a | f8b | q8 | q4 | b16 | k16 | b32 | g8
  deriving DecidableEq, Repr

/-- The format of a 4-bit code; reserved codes have none (R18). -/
def Fmt.ofCode (c : BitVec 4) : Option Fmt :=
  match c.toNat with
  | 0 => some .f4
  | 1 => some .f6
  | 2 => some .f8a
  | 3 => some .f8b
  | 4 => some .q8
  | 5 => some .q4
  | 8 => some .b16
  | 9 => some .k16
  | 10 => some .b32
  | 11 => some .g8
  | _ => none

/-- Bits of one element as packed (Table 2.7); the elements of G8 are F8B. -/
def Fmt.bits : Fmt → Nat
  | .f4 => 4
  | .q4 => 4
  | .f6 => 6
  | .f8a => 8
  | .f8b => 8
  | .q8 => 8
  | .g8 => 8
  | .b16 => 16
  | .k16 => 16
  | .b32 => 32

/-- Array operand formats (Table 2.1): every format but G8. -/
def Fmt.isArray : Fmt → Bool
  | .g8 => false
  | _ => true

/-- The long formats (Table 2.2). -/
def Fmt.isLong : Fmt → Bool
  | .b16 => true
  | .k16 => true
  | .b32 => true
  | _ => false

/-- The integer formats (R26). -/
def Fmt.isInt : Fmt → Bool
  | .q8 => true
  | .q4 => true
  | _ => false

/-- Fraction bits and bias of a floating-point format (Tables 2.2, 2.3); G8 elements are F8B. -/
def Fmt.frac : Fmt → Nat
  | .f4 => 1
  | .f6 => 2
  | .f8a => 3
  | .f8b => 2
  | .g8 => 2
  | .b16 => 10
  | .k16 => 7
  | .b32 => 23
  | .q8 => 0
  | .q4 => 0

def Fmt.bias : Fmt → Nat
  | .f4 => 1
  | .f6 => 4
  | .f8a => 8
  | .f8b => 16
  | .g8 => 16
  | .b16 => 15
  | .k16 => 127
  | .b32 => 127
  | .q8 => 0
  | .q4 => 0

/-- Weight of the last place at the bottom of the range. -/
def Fmt.emin (f : Fmt) : Int := if f.isInt then 0 else 1 - (f.bias : Int) - (f.frac : Int)

/-- The largest finite value as significand and exponent. -/
def Fmt.maxFin : Fmt → Nat × Int
  | .f4 => (3, 1)
  | .f6 => (7, 1)
  | .f8a => (15, 4)
  | .f8b => (7, 13)
  | .g8 => (7, 13)
  | .q8 => (127, 0)
  | .q4 => (7, 0)
  | .b16 => (2047, 5)
  | .k16 => (255, 120)
  | .b32 => (16777215, 104)

/-- The value a code stands for (R20, R21, R23 to R26). -/
def Fmt.decode (f : Fmt) (code : Nat) : Ext :=
  match f with
  | .q8 =>
    let c := code % 256
    if c = 0x80 then .zero else if c < 128 then .fin false c 0 else .fin true (256 - c) 0
  | .q4 =>
    let c := code % 16
    if c = 8 then .zero else if c < 8 then .fin false c 0 else .fin true (16 - c) 0
  | _ =>
    let w := f.bits
    let s := bitsOf code (w - 1) 1 == 1
    let ee := w - 1 - f.frac
    let ex := bitsOf code f.frac ee
    let m := bitsOf code 0 f.frac
    if (f == .f8a || f == .f8b || f == .g8) && code % 256 == 0x80 then .nan
    else if f.isLong && ex == 2 ^ ee - 1 then (if m = 0 then .inf s else .nan)
    else if ex = 0 then (if m = 0 then .fin (s && f.isLong) 0 0 else .fin s m f.emin)
    else .fin s (2 ^ f.frac + m) ((ex : Int) - 1 + f.emin)

/-- The exact widenings of Table 2.10a. -/
def Fmt.widens (a b : Fmt) : Bool :=
  match a, b with
  | .f4, .b16 | .f4, .k16 | .f4, .b32 | .f6, .b16 | .f6, .k16 | .f6, .b32 => true
  | .f8a, .b16 | .f8a, .k16 | .f8a, .b32 | .f8b, .b16 | .f8b, .k16 | .f8b, .b32 => true
  | .q8, .b16 | .q8, .k16 | .q8, .b32 | .q4, .b16 | .q4, .k16 | .q4, .b32 => true
  | .b16, .b32 | .k16, .b32 => true
  | .f4, .f6 | .f4, .f8a | .f4, .f8b => true
  | .f6, .f8a | .f6, .f8b | .q4, .f8a | .q4, .f8b => true
  | .q4, .q8 | .q4, .f6 => true
  | _, _ => false

/-! ### Rounding and conversion (R33 to R40) -/

/-- The rounding modes of Table 2.8. -/
inductive Rnd where
  | rne | rtz | sr
  deriving DecidableEq, Repr

/-- The conversion control byte of Table 2.8. -/
structure Cvt where
  rnd : Rnd
  satNan : Bool
  bscale : Bool
  fmt : Fmt
  deriving DecidableEq, Repr

/-- Decode a conversion control byte; a reserved RND or FMT has no meaning (R33, R18). BSCALE is forced for G8. -/
def Cvt.ofByte (b : BitVec 8) : Option Cvt :=
  match Fmt.ofCode (b.extractLsb' 4 4), (b.extractLsb' 0 2).toNat with
  | none, _ => none
  | some f, r =>
    let mk : Rnd → Cvt := fun q => ⟨q, b.getLsbD 2, b.getLsbD 3 || f == .g8, f⟩
    match r with
    | 0 => some (mk .rne)
    | 1 => some (mk .rtz)
    | 2 => some (mk .sr)
    | _ => none

/-- Round the magnitude m * 2^(-k) to an integer (R39, R40); `r` is the 16-bit random value of SR. -/
def roundBits (rnd : Rnd) (r : Nat) (m k : Nat) : Nat :=
  let q := m >>> k
  let rem := m % 2 ^ k
  if rem = 0 then q
  else match rnd with
    | .rtz => q
    | .rne => if 2 * rem > 2 ^ k then q + 1 else if 2 * rem < 2 ^ k then q else q + q % 2
    | .sr => if (rem <<< 16) >>> k + r ≥ 65536 then q + 1 else q

/-- The code of a finite value (-1)^s * q * 2^l that the format holds (R25: zero is code 0 in every short format). -/
def Fmt.encode (f : Fmt) (s : Bool) (q : Nat) (l : Int) : Nat :=
  let w := f.bits
  if f.isInt then (if s then (2 ^ w - shiftI q l) % 2 ^ w else shiftI q l)
  else
    let sgn := if s then 2 ^ (w - 1) else 0
    if q = 0 then (if f.isLong then sgn else 0)
    else
      let top : Int := (bitLen q : Int) - 1 + l
      let ex : Int := top + (f.bias : Int)
      if 1 ≤ ex then sgn + ex.toNat * 2 ^ f.frac + (shiftI q (l - (top - (f.frac : Int))) - 2 ^ f.frac)
      else sgn + shiftI q (l - f.emin)

/-- The largest finite magnitude of the format, as a code. -/
def Fmt.maxCode (f : Fmt) (s : Bool) : Nat := Fmt.encode f s f.maxFin.1 f.maxFin.2

def Fmt.infCode (f : Fmt) (s : Bool) : Nat :=
  (if s then 2 ^ (f.bits - 1) else 0) + (2 ^ (f.bits - 1 - f.frac) - 1) * 2 ^ f.frac

/-- The canonical NaN of Table 2.2, and 0x80 of F8A and F8B. -/
def Fmt.nanCode (f : Fmt) : Nat :=
  if f.isLong then Fmt.infCode f false + 2 ^ (f.frac - 1) else 0x80

/-- Conversion flags of Table 2.10 as bits. -/
def cfOverflow : Nat := 1
def cfNonfinite : Nat := 2
def cfUnderflow : Nat := 4

/-- The result of a non-finite input to a narrowing (R37, Table 2.10c). -/
def nonfiniteResult (f : Fmt) (x : Ext) : Nat :=
  if f == .f8a || f == .f8b || f == .g8 then 0x80
  else if f.isLong then (match x with | .inf s => Fmt.infCode f s | _ => Fmt.nanCode f)
  else Fmt.maxCode f (match x with | .inf s => s | _ => false)

/-- The result of a finite input beyond range (R36, Table 2.10b). -/
def overflowResult (f : Fmt) (rnd : Rnd) (satNan s : Bool) : Nat :=
  if f == .f8a || f == .f8b || f == .g8 then (if satNan then 0x80 else Fmt.maxCode f s)
  else if f.isLong then (if rnd == .rtz then Fmt.maxCode f s else Fmt.infCode f s)
  else Fmt.maxCode f s

/-- A narrowing (R35): code and flag bits. -/
def narrow (f : Fmt) (rnd : Rnd) (satNan : Bool) (r : Nat) (x : Ext) : Nat × Nat :=
  match x with
  | .fin s m e =>
    if m = 0 then (Fmt.encode f s 0 0, 0)
    else
      let l : Int := if f.isInt then 0 else max ((bitLen m : Int) + e - ((f.frac : Int) + 1)) f.emin
      let k := (l - e).toNat
      let q := if e ≤ l then roundBits rnd r m k else m <<< (e - l).toNat
      let big := decide (signedAt false q l (min l f.maxFin.2) > signedAt false f.maxFin.1 f.maxFin.2 (min l f.maxFin.2))
      if big then (overflowResult f rnd satNan s, cfOverflow)
      else (Fmt.encode f s q l, if q = 0 then cfUnderflow else 0)
  | y => (nonfiniteResult f y, cfNonfinite)

/-- A widening of Table 2.10a: exact, sets no flag (R34). -/
def widen (a b : Fmt) (code : Nat) : Nat := (narrow b .rne false 0 (Fmt.decode a code)).1

/-- Multiply an exact value by its E8 block scale (R28, R29); 0xFF is NaN. -/
def applyE8 (x : Ext) (e8 : Nat) : Ext := if e8 = 0xFF then .nan else x.scale ((e8 : Int) - 127)

/-- True when the magnitude exceeds the largest finite B32 (R31). -/
def beyondB32 (x : Ext) : Bool := Ext.lt (.fin false Fmt.b32.maxFin.1 Fmt.b32.maxFin.2) x.abs

/-- The smallest E8 in 0x00 to 0xFE with a * 2^(127 - E8) at most X, for a > 0 (R31). -/
def chooseE8 (f : Fmt) (a : Ext) : Nat :=
  match a with
  | .fin _ m e =>
    let mx := f.maxFin.1
    let t : Int := e + 127 - f.maxFin.2 + bitLen m - bitLen mx
    let fits := decide (m <<< (bitLen mx) ≤ mx <<< (bitLen m))
    let c := if fits then t else t + 1
    min c.toNat 0xFE
  | _ => 0xFF

/-- The largest magnitude of a list of finite values. -/
def maxAbs (xs : List Ext) : Ext := xs.foldl (fun a x => if Ext.lt a x.abs then x.abs else a) .zero

/-- Convert the elements of one block with its own random values, scaled by 2^(127 - E8). -/
def convBlockElems (f : Fmt) (rnd : Rnd) (satNan : Bool) (e8 : Nat) : List Ext → List Nat → List Nat × Nat
  | [], _ => ([], 0)
  | x :: xs, rs =>
    let c := narrow f rnd satNan (rs.headD 0) (x.scale (127 - (e8 : Int)))
    let t := convBlockElems f rnd satNan e8 xs rs.tail
    (c.1 :: t.1, c.2 ||| t.2)

/-- R31: the E8, the element codes and the flag bits of one block of up to 32 inputs. -/
def convBlock (f : Fmt) (rnd : Rnd) (satNan : Bool) (xs : List Ext) (rs : List Nat) : Nat × List Nat × Nat :=
  if xs.any (fun x => !x.isFin || beyondB32 x) then
    (0xFF, xs.map (fun _ => if f == .f8a || f == .f8b || f == .g8 then 0x80 else 0), cfNonfinite)
  else if xs.all Ext.isZero then (0, xs.map (fun _ => 0), 0)
  else
    let e8 := chooseE8 f (maxAbs xs)
    let c := convBlockElems f rnd satNan e8 xs rs
    (e8, c.1, c.2)

/-- Round a magnitude upward to B32, or +infinity beyond its range (06 R132). -/
def upB32 (x : Ext) : Nat :=
  match x with
  | .nan => Fmt.nanCode .b32
  | .inf _ => Fmt.infCode .b32 false
  | .fin _ m e =>
    if m = 0 then 0
    else
      let l : Int := max ((bitLen m : Int) + e - 24) (-149)
      let k := (l - e).toNat
      let q := if e ≤ l then (if m % 2 ^ k = 0 then m >>> k else m >>> k + 1) else m <<< (e - l).toNat
      let y : Ext := .fin false q l
      if beyondB32 y then Fmt.infCode .b32 false else Fmt.encode .b32 false q l

/-- The B32 code of a value, rounded to nearest even. -/
def toB32 (x : Ext) : Nat := (narrow .b32 .rne false 0 x).1

/-- The value of a B32 code. -/
def ofB32 (c : Nat) : Ext := Fmt.decode .b32 c

/-! ### Packing (R27) -/

/-- The element codes of a packed run of bytes, `n` elements of `w` bits. -/
def unpackFrom (w : Nat) (v : Nat) : Nat → List Nat
  | 0 => []
  | n + 1 => v % 2 ^ w :: unpackFrom w (v >>> w) n

def unpack (w n : Nat) (bs : List Byte) : List Nat := unpackFrom w (natLE bs) n

/-- The number that a packed run of codes of `w` bits is. -/
def packNat (w : Nat) : List Nat → Nat
  | [] => 0
  | c :: cs => c % 2 ^ w + (packNat w cs) <<< w

/-- The bytes of a packed run; unused bits of the last byte are zero. -/
def pack (w : Nat) (cs : List Nat) : List Byte := bytesLE (ceilDiv (w * cs.length) 8) (packNat w cs)

end Sys2Proof.Machine
end

