-- ==== Sys2Proof/Machine/Crypto.lean ====
section
/-! DEFINITION. The external functions the spec names: AES-128 (FIPS 197) for the Tumbler of 06 R135, AES-256-XTS (IEEE
1619) for the pages of 11 R255, CRC-32C, and SHA-384 (FIPS 180-4) for digests. Their definitions come from those standards, not from the spec (log 12). -/

namespace Sys2Proof.Machine

/-- The AES S-box as one number, byte x at bits [8x+7:8x]. -/
def aesSboxTable : Nat :=
  0x16BB54B00F2D99416842E6BF0D89A18CDF2855CEE9871E9B948ED9691198F8E19E1DC186B95735610EF6034866B53E708A8BBD4B1F74DDE8C6B4A61C2E2578BA08AE7A65EAF4566CA94ED58D6D37C8E779E4959162ACD3C25C2406490A3A32E0DB0B5EDE14B8EE4688902A22DC4F816073195D643D7EA7C41744975FEC130CCDD2F3FF1021DAB6BCF5389D928F40A351A89F3C507F02F94585334D43FBAAEFD0CF584C4A39BECB6A5BB1FC20ED00D153842FE329B3D63B52A05A6E1B1A2C830975B227EBE28012079A059618C323C7041531D871F1E5A534CCF73F362693FDB7C072A49CAFA2D4ADF04759FA7DC982CA76ABD7FE2B670130C56F6BF27B777C63

def aesSub (x : Nat) : Nat := bitsOf aesSboxTable (8 * x) 8

/-- Doubling in the field of AES. -/
def aesXtime (x : Nat) : Nat := if x < 128 then 2 * x else ((2 * x) ^^^ 0x11B) % 256

def aesRcon : Nat → Nat
  | 0 => 1
  | n + 1 => aesXtime (aesRcon n)

/-- The next 16-byte round key. -/
def aesNextKey (round : Nat) (k : List Nat) : List Nat :=
  let g := fun i => k.getD i 0
  let t := [aesSub (g 13) ^^^ aesRcon round, aesSub (g 14), aesSub (g 15), aesSub (g 12)]
  let w0 := List.zipWith (· ^^^ ·) (k.take 4) t
  let w1 := List.zipWith (· ^^^ ·) ((k.drop 4).take 4) w0
  let w2 := List.zipWith (· ^^^ ·) ((k.drop 8).take 4) w1
  let w3 := List.zipWith (· ^^^ ·) ((k.drop 12).take 4) w2
  w0 ++ w1 ++ w2 ++ w3

/-- SubBytes and ShiftRows of a 16-byte state in column order. -/
def aesSubShift (s : List Nat) : List Nat :=
  [0, 5, 10, 15, 4, 9, 14, 3, 8, 13, 2, 7, 12, 1, 6, 11].map (fun i => aesSub (s.getD i 0))

def aesMixColumn (a b c d : Nat) : List Nat :=
  let x := a ^^^ b ^^^ c ^^^ d
  [a ^^^ x ^^^ aesXtime (a ^^^ b), b ^^^ x ^^^ aesXtime (b ^^^ c), c ^^^ x ^^^ aesXtime (c ^^^ d), d ^^^ x ^^^ aesXtime (d ^^^ a)]

def aesMix (s : List Nat) : List Nat :=
  let g := fun i => s.getD i 0
  aesMixColumn (g 0) (g 1) (g 2) (g 3) ++ aesMixColumn (g 4) (g 5) (g 6) (g 7)
    ++ aesMixColumn (g 8) (g 9) (g 10) (g 11) ++ aesMixColumn (g 12) (g 13) (g 14) (g 15)

/-- `n` full rounds from round number `r`, then the final round. -/
def aesRounds : Nat → Nat → List Nat → List Nat → List Nat
  | 0, r, k, s => List.zipWith (· ^^^ ·) (aesSubShift s) (aesNextKey r k)
  | n + 1, r, k, s =>
    let k' := aesNextKey r k
    aesRounds n (r + 1) k' (List.zipWith (· ^^^ ·) (aesMix (aesSubShift s)) k')

/-- AES-128 encryption of a 16-byte block under a 16-byte key. -/
def aes128 (key block : List Nat) : List Nat := aesRounds 9 0 key (List.zipWith (· ^^^ ·) block key)

/-- The bytes of a 128-bit number, byte i from bits [8i+7:8i]. -/
def bytesOf128 (v : Nat) : List Nat := (List.range 16).map (fun i => bitsOf v (8 * i) 8)

/-! ### AES-256-XTS (11 R254, R255) -/

/-- The 16-byte round key after the consecutive round keys `a` and `b` of AES-256; `i` counts from 0. -/
def aes256NextKey (i : Nat) (a b : List Nat) : List Nat :=
  let g := fun j => b.getD j 0
  let t := if i % 2 = 0 then [aesSub (g 13) ^^^ aesRcon (i / 2), aesSub (g 14), aesSub (g 15), aesSub (g 12)]
    else [aesSub (g 12), aesSub (g 13), aesSub (g 14), aesSub (g 15)]
  let w0 := List.zipWith (· ^^^ ·) (a.take 4) t
  let w1 := List.zipWith (· ^^^ ·) ((a.drop 4).take 4) w0
  let w2 := List.zipWith (· ^^^ ·) ((a.drop 8).take 4) w1
  let w3 := List.zipWith (· ^^^ ·) ((a.drop 12).take 4) w2
  w0 ++ w1 ++ w2 ++ w3

/-- `n` full rounds with the round keys from `b` on, then the final round. -/
def aes256Rounds : Nat → Nat → List Nat → List Nat → List Nat → List Nat
  | 0, _, _, b, s => List.zipWith (· ^^^ ·) (aesSubShift s) b
  | n + 1, i, a, b, s => aes256Rounds n (i + 1) b (aes256NextKey i a b) (List.zipWith (· ^^^ ·) (aesMix (aesSubShift s)) b)

/-- AES-256 encryption of a 16-byte block under a 32-byte key. -/
def aes256 (key block : List Nat) : List Nat :=
  aes256Rounds 13 0 (key.take 16) (key.drop 16) (List.zipWith (· ^^^ ·) block (key.take 16))

/-- The number whose little-endian bytes are a list. -/
def natOfBytes (bs : List Nat) : Nat := bs.foldr (fun b a => b + 256 * a) 0

/-- Multiplication by the primitive element in the field of XTS, on a 128-bit little-endian number. -/
def xtsDouble (t : Nat) : Nat := if t < 2 ^ 127 then 2 * t else (2 * t) % 2 ^ 128 ^^^ 0x87

/-- XTS over `n` blocks from the tweak value `t`, under the first key. -/
def xtsBlocks (key : List Nat) : Nat → Nat → List Nat → List Nat
  | 0, _, _ => []
  | n + 1, t, bs =>
    let m := bytesOf128 t
    List.zipWith (· ^^^ ·) (aes256 key (List.zipWith (· ^^^ ·) (bs.take 16) m)) m ++ xtsBlocks key n (xtsDouble t) (bs.drop 16)

/-- AES-256-XTS of a data unit of whole blocks (R255). The 512-bit key holds the data key in its first 32 bytes and the tweak
key in the other 32. -/
def xtsEncrypt (key tweak : Nat) (bs : List Nat) : List Nat :=
  let k := (List.range 64).map fun i => bitsOf key (8 * i) 8
  xtsBlocks (k.take 32) (bs.length / 16) (natOfBytes (aes256 (k.drop 32) (bytesOf128 tweak))) bs

/-- What a Tumbler value is drawn for (Table 6.7). -/
inductive Purp where
  | rounding | dropout | rand | update
  deriving DecidableEq, Repr

def Purp.code : Purp → Nat
  | .rounding => 0
  | .dropout => 1
  | .rand => 2
  | .update => 3

/-- The counter block of Table 6.7: element block, purpose, bits [95:80] and the step. -/
def tumblerCounter (blk : Nat) (purp : Purp) (tid step : Nat) : Nat :=
  blk % 2 ^ 32 + purp.code <<< 72 + (tid % 2 ^ 16) <<< 80 + (step % 2 ^ 32) <<< 96

/-- The 16-bit Tumbler value of element `j` (R135); `j` counts modulo 2^32. -/
def tumbler (seed : BitVec 128) (step : Nat) (purp : Purp) (tid j : Nat) : Nat :=
  let j := j % 2 ^ 32
  let out := aes128 (bytesOf128 seed.toNat) (bytesOf128 (tumblerCounter (j / 8) purp tid step))
  let k := j % 8
  out.getD (2 * k) 0 + 256 * out.getD (2 * k + 1) 0

/-! ### CRC-32C -/

def crc32cBit (c : Nat) : Nat := if c % 2 = 1 then (c / 2) ^^^ 0x82F63B78 else c / 2

def crc32cByte (c : Nat) (b : Byte) : Nat :=
  crc32cBit (crc32cBit (crc32cBit (crc32cBit (crc32cBit (crc32cBit (crc32cBit (crc32cBit (c ^^^ b.toNat))))))))

/-- CRC-32C (polynomial 0x1EDC6F41 reflected, initial and final complement). -/
def crc32c (bs : List Byte) : Nat := (bs.foldl crc32cByte 0xFFFFFFFF) ^^^ 0xFFFFFFFF

/-! ### SHA-384 -/

def sha512K : List (BitVec 64) :=
  [0x428A2F98D728AE22, 0x7137449123EF65CD, 0xB5C0FBCFEC4D3B2F, 0xE9B5DBA58189DBBC,
   0x3956C25BF348B538, 0x59F111F1B605D019, 0x923F82A4AF194F9B, 0xAB1C5ED5DA6D8118,
   0xD807AA98A3030242, 0x12835B0145706FBE, 0x243185BE4EE4B28C, 0x550C7DC3D5FFB4E2,
   0x72BE5D74F27B896F, 0x80DEB1FE3B1696B1, 0x9BDC06A725C71235, 0xC19BF174CF692694,
   0xE49B69C19EF14AD2, 0xEFBE4786384F25E3, 0x0FC19DC68B8CD5B5, 0x240CA1CC77AC9C65] ++
  [0x2DE92C6F592B0275, 0x4A7484AA6EA6E483, 0x5CB0A9DCBD41FBD4, 0x76F988DA831153B5,
   0x983E5152EE66DFAB, 0xA831C66D2DB43210, 0xB00327C898FB213F, 0xBF597FC7BEEF0EE4,
   0xC6E00BF33DA88FC2, 0xD5A79147930AA725, 0x06CA6351E003826F, 0x142929670A0E6E70,
   0x27B70A8546D22FFC, 0x2E1B21385C26C926, 0x4D2C6DFC5AC42AED, 0x53380D139D95B3DF,
   0x650A73548BAF63DE, 0x766A0ABB3C77B2A8, 0x81C2C92E47EDAEE6, 0x92722C851482353B] ++
  [0xA2BFE8A14CF10364, 0xA81A664BBC423001, 0xC24B8B70D0F89791, 0xC76C51A30654BE30,
   0xD192E819D6EF5218, 0xD69906245565A910, 0xF40E35855771202A, 0x106AA07032BBD1B8,
   0x19A4C116B8D2D0C8, 0x1E376C085141AB53, 0x2748774CDF8EEB99, 0x34B0BCB5E19B48A8,
   0x391C0CB3C5C95A63, 0x4ED8AA4AE3418ACB, 0x5B9CCA4F7763E373, 0x682E6FF3D6B2B8A3,
   0x748F82EE5DEFB2FC, 0x78A5636F43172F60, 0x84C87814A1F0AB72, 0x8CC702081A6439EC] ++
  [0x90BEFFFA23631E28, 0xA4506CEBDE82BDE9, 0xBEF9A3F7B2C67915, 0xC67178F2E372532B,
   0xCA273ECEEA26619C, 0xD186B8C721C0C207, 0xEADA7DD6CDE0EB1E, 0xF57D4F7FEE6ED178,
   0x06F067AA72176FBA, 0x0A637DC5A2C898A6, 0x113F9804BEF90DAE, 0x1B710B35131C471B,
   0x28DB77F523047D84, 0x32CAAB7B40C72493, 0x3C9EBE0A15C9BEBC, 0x431D67C49C100D4C,
   0x4CC5D4BECB3E42B6, 0x597F299CFC657E2A, 0x5FCB6FAB3AD6FAEC, 0x6C44198C4A475817]

def sha384Init : List (BitVec 64) :=
  [0xCBBB9D5DC1059ED8, 0x629A292A367CD507, 0x9159015A3070DD17, 0x152FECD8F70E5939,
   0x67332667FFC00B31, 0x8EB44A8768581511, 0xDB0C2E0D64F98FA7, 0x47B5481DBEFA4FA4]

/-- The big-endian bytes of a number. -/
def bytesBE (n v : Nat) : List Byte := (bytesLE n v).reverse

/-- The big-endian 64-bit words of a byte list. -/
def wordsBE : Nat → List Byte → List (BitVec 64)
  | 0, _ => []
  | n + 1, bs => BitVec.ofNat 64 (natLE (bs.take 8).reverse) :: wordsBE n (bs.drop 8)

/-- Extend the message schedule; `w` holds the schedule newest word first. -/
def shaExtend : Nat → List (BitVec 64) → List (BitVec 64)
  | 0, w => w
  | n + 1, w =>
    let g := fun i => w.getD i 0
    let s0 := (g 14).rotateRight 1 ^^^ (g 14).rotateRight 8 ^^^ ((g 14) >>> 7)
    let s1 := (g 1).rotateRight 19 ^^^ (g 1).rotateRight 61 ^^^ ((g 1) >>> 6)
    shaExtend n ((g 15 + s0 + g 6 + s1) :: w)

def shaRound (st : List (BitVec 64)) (kw : BitVec 64 × BitVec 64) : List (BitVec 64) :=
  let g := fun i => st.getD i 0
  let a := g 0
  let e := g 4
  let s1 := e.rotateRight 14 ^^^ e.rotateRight 18 ^^^ e.rotateRight 41
  let ch := (e &&& g 5) ^^^ (~~~e &&& g 6)
  let t1 := g 7 + s1 + ch + kw.1 + kw.2
  let s0 := a.rotateRight 28 ^^^ a.rotateRight 34 ^^^ a.rotateRight 39
  let mj := (a &&& g 1) ^^^ (a &&& g 2) ^^^ (g 1 &&& g 2)
  [t1 + s0 + mj, a, g 1, g 2, g 3 + t1, e, g 5, g 6]

def shaBlock (h : List (BitVec 64)) (blk : List Byte) : List (BitVec 64) :=
  let w := (shaExtend 64 (wordsBE 16 blk).reverse).reverse
  List.zipWith (· + ·) h ((sha512K.zip w).foldl shaRound h)

def shaBlocks : Nat → List (BitVec 64) → List Byte → List (BitVec 64)
  | 0, h, _ => h
  | n + 1, h, bs => shaBlocks n (shaBlock h (bs.take 128)) (bs.drop 128)

/-- SHA-384 of a byte list, 48 bytes. -/
def sha384 (bs : List Byte) : List Byte :=
  let pad := bs ++ [0x80#8] ++ List.replicate ((239 - bs.length % 128) % 128) 0#8 ++ bytesBE 16 (8 * bs.length)
  ((shaBlocks (pad.length / 128) sha384Init pad).take 6).flatMap (fun w => bytesBE 8 w.toNat)

end Sys2Proof.Machine
end

