-- ==== Sys2Proof/Machine/State.lean ====
section
/-! DEFINITION. The state of the KD-96 as plain data, and the state right after reset. Every field names the rule of
spec/ that gives it; values the spec does not give are in the assumption log (log 2, 3, 11). -/

namespace Sys2Proof.Machine

/-- Model faults. No command ends a run with a fault: every fault of the manual is an effect on the state (17 R391). -/
inductive Fault where
  /-- A command asks a unit to act on a bus address for which 18 Table 18.3 gives no register: the access is not
  acknowledged. Nothing raises it today, since 18 R410 gives that access its effect (none). Safe. -/
  | notAcknowledged
  deriving DecidableEq, Repr

/-- Refusals. -/
inductive Refusal where
  /-- Raised by an arm of `exec` whose command has no meaning yet. Safe: the run stops. -/
  | notModelled (mnemonic : String)
  deriving DecidableEq, Repr

/-! ### Core state (chapters 03 to 08, 10) -/

/-- SECDED or codeword state of a protected word: good, a correctable error, an uncorrectable error (11 R256, R259). -/
inductive Ecc where
  | good | single | double
  deriving DecidableEq, Repr

/-- An accumulator entry (03 R46, R47): VALUE in units of the tile's last place, CLASS, and whether its parity fails. -/
structure AccEntry where
  value : BitVec 128
  cls : BitVec 2
  bad : Bool
  deriving DecidableEq, Repr

/-- Finite zero with correct parity (03 R49). -/
def AccEntry.zero : AccEntry := ⟨0, 0, false⟩

/-- A weight bank (04 R76, 05 R99): what LDW recorded, and the image's three runs. `loaded = false` is empty. -/
structure WBank where
  loaded : Bool
  form : BitVec 2
  wfmt : BitVec 4
  afmt : BitVec 4
  sparse : Bool
  wbs : Bool
  bskip : BitVec 64
  elem : List Byte
  pos : List Byte
  bsc : List Byte
  deriving DecidableEq, Repr

def WBank.empty : WBank := ⟨false, 0, 0, 0, false, false, 0, [], [], []⟩

/-- Stream states (05 Table 5.3). -/
inductive StreamState where
  | idle | running | halted | faulted
  deriving DecidableEq, Repr

/-- How far an in-flight command has come (05 R114 to R118). -/
inductive CmdStage where
  /-- decoded, in its unit queue -/
  | waiting
  /-- started, and not finished: the unit waits for others -/
  | started
  /-- finished, `fin` gives the order of finishing; holds its slot until it retires -/
  | done (fin : Nat)
  deriving DecidableEq, Repr

/-- The SEED in force: key and step (05 R112, 13 R299). -/
structure SeedReg where
  key : BitVec 128
  step : BitVec 32
  deriving DecidableEq, Repr

/-- The deadline attached to commands (05 R111). -/
structure DeadlineReg where
  at_ : BitVec 64
  qid : Qid
  deriving DecidableEq, Repr

/-- The latest MARK of a core (05 R110, 07 R138). -/
structure MarkReg where
  layer : BitVec 8
  mb : BitVec 8
  phase : BitVec 2
  deriving DecidableEq, Repr

/-- A level-2 translation entry (11 Table 11.5); an unmapped page has none. -/
structure Pte where
  r : Bool
  w : Bool
  x : Bool
  pr : Bool
  pw : Bool
  ppn : Nat
  deriving DecidableEq, Repr

/-- A transfer descriptor (10 Table 10.4) posted to a PF queue. -/
structure Xdesc where
  kind : BitVec 8
  last : Bool
  smod : BitVec 14
  saddr : BitVec 48
  len : Nat
  dofs : Nat
  issued : Bool
  landed : Bool
  /-- the translations it was issued under, by virtual page: it completes under them (11 R252) -/
  maps : List (Nat × Pte)
  deriving DecidableEq, Repr

/-- A return-table record of an all-to-all item (13 R306): source module, record and first row in the slot. -/
structure RetRec where
  src : BitVec 14
  record : A2aRec
  row : Nat
  deriving DecidableEq, Repr

/-- An item of a queue (10 R222 to R225, R238; 12 R279; 13 R306). `n` is its position since the queue's creation. -/
structure Item where
  n : Nat
  /-- no further descriptor, segment or message belongs to it -/
  closed : Bool
  /-- all data that is not moved by descriptors has landed -/
  full : Bool
  cancelled : Bool
  /-- a descriptor's source refused its read: the record reports ST_ACCESS (13 R296) -/
  refused : Bool
  passed : Bool
  bytes : Nat
  ts : BitVec 64
  /-- posted RXP: the RECV that owns the item -/
  recv : Option (CoreId × Nat)
  /-- posted RXP: the session its credit was granted to -/
  grantedTo : Option Nat
  descs : List Xdesc
  src : Option (BitVec 14)
  /-- the message that fills it: session and message number -/
  msg : Option (Nat × BitVec 32)
  /-- byte ranges received, and the end of the message or frame once known -/
  ranges : List (Nat × Nat)
  total : Option Nat
  /-- frame assembly: ITEM of the segment header (12 R279) -/
  asmItem : Option Nat
  /-- all-to-all: modules whose message has arrived, rows appended, row bytes, return table -/
  heard : List (BitVec 14)
  /-- members of the item's group whose message has not arrived, and whether the session to each has closed since (10 R238) -/
  missing : List (BitVec 14 × Bool)
  rows : Nat
  rowb : Nat
  table : List RetRec
  /-- return items: modules that must still answer, once for each queue that was handed segments (13 R307) -/
  expect : Option (List (BitVec 14))
  /-- return items: directory entries whose record has come back, and the hand-off the item belongs to (13 R307) -/
  back : List Nat
  hand : Nat
  /-- bytes of a message for a posted RECV, by message offset (05 R106) -/
  data : Mem
  /-- cores whose MARKs have fed it (10 R230, 14 R343) -/
  fed : List CoreId
  deriving DecidableEq, Repr

/-- An in-flight slot: the line, what it captured at decode (05 R116) and what it will report (05 R118). -/
structure InFlight where
  line : Line
  stage : CmdStage
  seed : Option SeedReg
  deadline : Option DeadlineReg
  mark : MarkReg
  /-- the item of the latest satisfied WAITQ at decode, with its return table (13 R307) -/
  item : Option (Qid × Item)
  status : BitVec 16
  acc : BitVec 8
  cvt : BitVec 8
  info0 : BitVec 32
  info1 : BitVec 64
  time : BitVec 64
  late : Bool
  token : Nat
  deriving DecidableEq, Repr

/-- A stash directory entry (08 R179 to R181). -/
structure StashEntry where
  id : BitVec 23
  len : BitVec 25
  present : Bool
  off : Nat
  deriving DecidableEq, Repr

/-- A prologue list of a MARK not yet wholly taken (10 R230): its address, the next descriptor, the count. -/
structure PrologueList where
  part : PartId
  addr : BitVec 48
  next : Nat
  count : Nat
  skip : Bool
  deriving DecidableEq, Repr

/-- The memories of a core (05 R91, R92). -/
structure CoreMem where
  cs : Mem
  csEcc : Smap Ecc
  xb : Mem
  xbEcc : Smap Ecc
  acc : Smap AccEntry
  ofs : Smap (BitVec 9)
  banks : Smap WBank
  vr : Smap Word
  redRec : Smap (Option (BitVec 4 × Bool))
  deriving DecidableEq, Repr

/-- The escapement of a core (05). -/
structure CoreCtl where
  stream : StreamState
  pc : BitVec 48
  cq : Qid
  lc : Smap Word
  stack : List (BitVec 48)
  slots : List InFlight
  hold : Option (InFlight × BitVec 64)
  finCount : Nat
  /-- commands decoded so far: the next token -/
  tokens : Nat
  /-- END has been decoded; the stream goes IDLE when the last command retires -/
  ending : Bool
  seed : Option SeedReg
  deadline : Option DeadlineReg
  latch : BitVec 64
  /-- the item of the latest satisfied WAITQ, as it was then: its queue and its return table (13 R307) -/
  item : Option (Qid × Item)
  mark : MarkReg
  traceTime : Option (BitVec 64)
  /-- stall cycles since the last trace record (16 R385) -/
  traceStall : Nat
  traceLines : Nat
  /-- SEEDs of another step that the push of 06 R133 has still to take, oldest first: token and step -/
  seedQ : List (Nat × BitVec 32)
  deriving DecidableEq, Repr

/-- The stash of a core and its stream-engine channel (08 R178 to R182, 10 R230). -/
structure CoreStash where
  fill : Nat
  dir : List StashEntry
  /-- tokens of the SEEDs whose release is still due (R182) -/
  releaseDue : List Nat
  /-- the step of the last SEED whose step the stash has seen; it stays with the stash over an island reset (08 R182) -/
  seedStep : Option (BitVec 32)
  bytes : Mem
  lists : List PrologueList
  deriving DecidableEq, Repr

/-- The counters of a core (10 Table 10.5, 05 R93, R117, 11 R260), in the order of group 0 of 14 Table 14.13. -/
inductive CoreCnt where
  | stallHbm | stallPeer | stallTile | stallStash | stallCredit | stallWload | stallRouter | stallThermal
  | depWait | csConflict | csCe
  deriving DecidableEq, Repr

/-- A core. -/
structure Core where
  part : Option PartId
  mem : CoreMem
  ctl : CoreCtl
  stash : CoreStash
  cnt : Smap Nat
  granted : BitVec 3
  level : BitVec 3
  target : BitVec 3
  cycFrac : Nat
  resPl : Smap Nat
  /-- the level it runs at was given by a thermal limit (16 R373) -/
  hot : Bool
  deriving DecidableEq, Repr

def CoreMem.reset : CoreMem := ⟨[], [], [], [], [], [], [], [], []⟩

def CoreCtl.reset : CoreCtl :=
  ⟨.idle, 0, 0, [], [], [], none, 0, 0, false, none, none, 0, none, ⟨0, 0, 0⟩, none, 0, 0, []⟩

def CoreStash.reset : CoreStash := ⟨0, [], [], none, [], []⟩

def Core.reset : Core := ⟨none, .reset, .reset, .reset, [], 0, 0, 0, 0, [], false⟩

/-! ### Partitions (chapters 06 to 09, 14) -/

/-- The values of PART_CREATE (14 Table 14.10). -/
structure PartCfg where
  rt : Bool
  compact : Bool
  enc : Bool
  share : BitVec 8
  jobid : BitVec 32
  vid : BitVec 12
  pcp : BitVec 3
  plcap : BitVec 8
  s : BitVec 64
  h : BitVec 64
  /-- the 32 bytes of the PART_CREATE payload, as M_PART of 15 Table 15.11 measures them -/
  payload : List Byte
  deriving DecidableEq, Repr

/-- An amax slot (06 Table 6.6). -/
structure AmaxSlot where
  cur : Word
  nxt : Word
  curValid : Bool
  curNan : Bool
  nxtValid : Bool
  nxtNan : Bool
  hptr : BitVec 4
  hcnt : BitVec 5
  hist : Smap Word
  deriving DecidableEq, Repr

def AmaxSlot.reset : AmaxSlot := ⟨0, 0, false, false, false, false, 0, 0, []⟩

/-- A placement entry (07 Table 7.3). -/
structure PlaceEnt where
  mod : BitVec 14
  null : Bool
  altmod : BitVec 14
  noAlt : Bool
  cores : BitVec 24
  dq : Qid
  altdq : Qid
  deriving DecidableEq, Repr

/-- A placement table (07 Table 7.2). -/
structure PlaceTab where
  nexp : Nat
  nsrc : Nat
  repl : Bool
  ents : List PlaceEnt
  deriving DecidableEq, Repr

/-- A gradient rule entry (08 Table 8.4) and its previous selection (08 R176). -/
structure GradRule where
  amx : BitVec 10
  ncand : Nat
  defv : Nat
  cand : List (BitVec 8)
  spread : List (BitVec 8)
  margin : BitVec 8
  inite : BitVec 8
  nrec : Nat
  sel : BitVec 48
  vt : List (BitVec 48)
  recs : List (BitVec 32)
  prev : Option (Nat × Int)
  deriving DecidableEq, Repr

/-- A shard entry (09 Table 9.1). -/
structure Shard where
  group : BitVec 12
  ncontrib : Nat
  nsb : Nat
  first : BitVec 40
  whi : BitVec 48
  wlo : BitVec 48
  maddr : BitVec 48
  vaddr : BitVec 48
  paddr : BitVec 48
  collen : Nat
  pk : Nat
  pn : Nat
  deriving DecidableEq, Repr

/-- The update configuration (09 Table 9.2). -/
structure UpdCfg where
  ucgrp : BitVec 16
  nofs : BitVec 9
  pq : Qid
  aq : Qid
  deriving DecidableEq, Repr

/-- A group entry of the update table (09 Table 9.5): active values 0x0 to 0xB, active FLAGS, pending values. -/
structure UpdGroup where
  act : Smap Word
  flags : Word
  pend : Smap Word
  pmask : BitVec 16
  pstep : BitVec 32
  deriving DecidableEq, Repr

def UpdGroup.reset : UpdGroup := ⟨[], 0, [], 0, 0⟩

/-- An exchange entry (13 Table 13.4). -/
structure ExchEnt where
  owner : BitVec 14
  shard : BitVec 16
  firstsb : Nat
  nsb : Nat
  deriving DecidableEq, Repr

/-- A step of the update engine: its record (09 Table 9.12) and its norm accumulator (09 R203). -/
structure UeStep where
  step : BitVec 32
  status : BitVec 8
  norm2Valid : Bool
  noticeReceived : Bool
  noticed : Bool
  /-- a LOSS_GUARD of this module has branched in the step: logged and noticed once (09 R213) -/
  guarded : Bool
  updated : Nat
  skipped : Nat
  dropped : Nat
  nfShard : BitVec 16
  nfBlock : BitVec 16
  nfSb : BitVec 32
  /-- super-blocks recorded for the step, by key -/
  done : List Nat
  norm : AccEntry
  norms : List (BitVec 14 × AccEntry)
  deriving DecidableEq, Repr

/-- The update engine of a partition (09). -/
structure UpdEng where
  cfg : Option UpdCfg
  shards : List Shard
  groups : Smap UpdGroup
  begun : Option (BitVec 32)
  steps : List UeStep
  recStep : Smap (Option (BitVec 32))
  norm2 : List (BitVec 32 × Ext)
  staged : Smap Nat
  seeds : List SeedReg
  /-- the latest step recorded for every super-block at once: it closed, or was skipped (01 R17) -/
  allRec : Option (BitVec 32)
  /-- the newest steps of UPDs that have taken effect (09 R198, log 48) -/
  known : List (BitVec 32)
  deriving DecidableEq, Repr

def UpdEng.reset : UpdEng := ⟨none, [], [], none, [], [], [], [], [], none, []⟩

/-- Per-partition counters, in the order of groups 2 to 5 of 14 Table 14.13. -/
inductive PartCnt where
  | routeOvercap | routeUnrouted | routeNan | scaleRange | accOverflow | gfmtHold | qdMiss | tlbMiss | amxStale
  | stashDiscard | stashRecompute | stashPeak | pfCancelUnissued | pfCancelIssued
  | updBlocks | updFrozen | updSkipped | updStateNf | updNormWait | precondFallback
  | tpCksum | tpBadhdr | tpRetx | rsDup | rsStale | rsNoctx | rsRange | updCkptWait
  deriving DecidableEq, Repr

/-- A partition (14 R337). `cfg = none`: it does not exist. -/
structure Partition where
  cfg : Option PartCfg
  key : Option Nat
  cap : BitVec 3
  fault : Option (BitVec 8 × BitVec 16)
  statusCnt : Smap Nat
  cnt : Smap Nat
  amax : Smap AmaxSlot
  amaxStep : BitVec 32
  place : Smap (Option PlaceTab)
  rules : List GradRule
  exch : Smap (Option ExchEnt)
  ue : UpdEng
  /-- level-1 entries that are valid: the number of the level-2 table each names (11 Table 11.4) -/
  l1 : Smap (Option Nat)
  /-- the valid level-2 entries, by virtual page number (11 Table 11.5) -/
  pages : Smap (Option Pte)
  stashPages : List Nat
  deriving DecidableEq, Repr

def Partition.reset : Partition :=
  ⟨none, none, 0, none, [], [], [], 0, [], [], [], .reset, [], [], []⟩

/-! ### Queues, stream engine, router, collective engine (chapters 07, 10, 13) -/

/-- A queue: its descriptor (10 Table 10.2) and its items not yet released. PSEQ, CSEQ and DSEQ are the low 16 bits of
`ppos`, `cpos` and `dpos`, PSLOT and DSLOT the remainders of `ppos` and `dpos` by NBUF (R222, R225). -/
structure Queue where
  cls : BitVec 3
  part : PartId
  en : Bool
  rt : Bool
  late : Bool
  memCs : Bool
  posted : Bool
  pin : Bool
  depth : Nat
  nbuf : Nat
  rlag : Nat
  base : BitVec 48
  slotb : Nat
  maxout : Nat
  qgrp : BitVec 16
  cmask : BitVec 24
  ncqEn : Bool
  ncq : Qid
  ppos : Nat
  cpos : Nat
  dpos : Nat
  lastMissDl : BitVec 64
  dlMiss : Nat
  qDrop : Nat
  lastTs : BitVec 64
  items : List Item
  /-- a cancelled item whose LAST descriptor is still to be posted (10 R238) -/
  drainOpen : Bool
  /-- sessions waiting for credit, and whether for an all-to-all message (10 R240, 13 R295, R306) -/
  waiters : List (Nat × Bool)
  /-- slots promised so far to point-to-point senders since creation, and per session to all-to-all sources -/
  grants : Nat
  a2aGrants : Smap Nat
  /-- point-to-point credits granted to a session and not yet used -/
  held : Smap Nat
  /-- ITEM of an image whose segments are dropped: it found no slot, or its TOTAL passed SLOTB (12 R279) -/
  asmDrop : Option Nat
  deriving DecidableEq, Repr

/-- One member of a router round (07 R138): its core, slot token, line and what selection gave per token and rank. -/
structure RoundMember where
  core : CoreId
  token : Nat
  line : RouteLine
  /-- per token, per rank: expert, B32 weight -/
  sel : List (List (Nat × Nat))
  /-- CVT_FLAGS of the weights' conversions (02 R38) -/
  cvt : Nat
  deriving DecidableEq, Repr

/-- A round context (07 R138, R139). -/
structure Round where
  part : PartId
  ptab : BitVec 8
  layer : BitVec 8
  mb : BitVec 8
  phase : BitVec 2
  nsrc : Nat
  members : List RoundMember
  /-- admitted and dispatched -/
  admitted : Bool
  /-- ended without dispatch (R140) -/
  ended : Bool
  deriving DecidableEq, Repr

/-- A collective group entry (13 Table 13.3). -/
structure CGroup where
  nmem : Nat
  rank : Nat
  part : PartId
  portloss : Bool
  lost : Bool
  rofs : BitVec 9
  mlist : BitVec 48
  members : List (BitVec 14)
  deriving DecidableEq, Repr

/-- A reduction context (13 R300). -/
structure RCtx where
  part : PartId
  shard : Nat
  sb : Nat
  step : BitVec 32
  cgrp : BitVec 16
  rofs : BitVec 9
  heard : List (BitVec 14)
  entries : Smap AccEntry
  deriving DecidableEq, Repr

/-- A packet sent and not acknowledged (13 R293): how often its timer expired, and whether it was reported accepted out
of order or sent again. -/
structure Unacked where
  pkt : Pkt
  expiries : Nat
  sacked : Bool
  resent : Bool
  deriving DecidableEq, Repr

/-- A transport session (13 R291 to R295). -/
structure Session where
  part : PartId
  peer : BitVec 14
  host : Option (Fin 64)
  peerSess : BitVec 16
  opened : Bool
  txPsn : BitVec 32
  rxNext : BitVec 32
  rxGot : List (BitVec 32)
  cwnd : Nat
  ackedInWin : Nat
  unacked : List Unacked
  waiting : List Pkt
  sinceAck : Nat
  lastSent : BitVec 64
  lastHeard : BitVec 64
  nextMsg : BitVec 32
  /-- credits held and requested, and SLOTB told, per peer queue -/
  credits : Smap Nat
  asked : List Qid
  slotbs : Smap Nat
  /-- all-to-all messages that wait for credit, each with its whole payload (13 R306) -/
  a2aWait : List Pkt
  /-- a session between a bridge and a module of its group that carries relayed mailbox requests, of no partition (13 R316, log 33) -/
  relay : Bool
  /-- packets answered with a refusal: PSN, and message number of the refusal, until the refusal is acknowledged (13 R302, log 23) -/
  refusing : List (BitVec 32 × BitVec 32)
  deriving DecidableEq, Repr

/-- A gather request waiting at the owner (13 R304, 09 R17); `src = none` is this module's own RECV. -/
structure GatherReq where
  part : PartId
  sess : Option Nat
  core : CoreId
  token : Nat
  shard : Nat
  sb : Nat
  index : Nat
  step : BitVec 32
  deriving DecidableEq, Repr

/-- One move of a PERMUTE not yet sent (13 Table 13.6): offset in scratch, destination, length, module. -/
structure PermMove where
  scr : Nat
  dva : BitVec 48
  len : Nat
  dmod : BitVec 14
  deriving DecidableEq, Repr

/-- A PERMUTE under way (13 R310). -/
structure PermRun where
  pid : BitVec 32
  moves : List PermMove
  scratch : BitVec 48
  inLeft : Nat
  /-- modules whose READY for this plan has arrived -/
  ready : List (BitVec 14)
  deriving DecidableEq, Repr

/-- What a started transfer waits for (13 R299, R304, R308, R310, 05 R106). -/
structure Xfer where
  core : CoreId
  token : Nat
  part : PartId
  cgrp : Option (BitVec 16)
  peers : List (BitVec 14)
  /-- messages not yet wholly acknowledged: session, message number -/
  msgs : List (Nat × BitVec 32)
  /-- super-blocks of a gather not yet answered -/
  gather : List Nat
  refused : Bool
  perm : Option PermRun
  /-- packets of contributions to a shard of this module not yet taken, and whether the drop for want of a context has been counted
  (13 R299, R302) -/
  own : List (Pkt × Bool)
  deriving DecidableEq, Repr

/-- An operation that waits for the descriptor of its queue (10 R221): a DATA packet; an all-to-all message or its return, with its
partition and source; a frame for a queue, with its port, arrival time and whether its group assembles images. -/
inductive Missed where
  | data (k : Pkt)
  | a2a (p : PartId) (src : BitVec 14) (m : A2aMsg)
  | a2aBack (p : PartId) (src : BitVec 14) (m : A2aMsg)
  | frame (p : PortId) (sub : SubId) (q : Qid) (asm : Bool) (at_ : BitVec 64) (bytes : List Byte)
  deriving DecidableEq, Repr

/-- The shared engines. -/
structure Engines where
  queues : Smap (Option Queue)
  qcache : List Qid
  tlb : List (PartId × Nat)
  rounds : List Round
  cgroups : Smap (Option CGroup)
  sessions : Smap (Option Session)
  ctxs : List RCtx
  gathers : List GatherReq
  xfers : List Xfer
  lostMods : List (BitVec 14)
  /-- READY notices of PERMUTE plans not yet used: partition, plan identifier, module (13 R310) -/
  ready : List (PartId × Nat × BitVec 14)
  /-- all-to-all messages of this module to its own queues that wait for credit (13 R306, 05 R425) -/
  localA2a : List (PartId × A2aMsg)
  /-- bytes served ahead for a real-time partition at a shared point in window `shareWin` (01 R16, log 80) -/
  shareUsed : Smap Nat
  shareWin : Nat
  /-- the stream engine channel served last, for throughput (0) and real-time requests (1) (10 R233) -/
  lastChan : Smap Nat
  /-- closed sessions whose CLOSE has not been acknowledged, by session index (13 R290) -/
  closings : Smap (Option Session)
  /-- operations that wait for a queue's descriptor, in order of arrival (10 R221) -/
  held : List Missed
  deriving DecidableEq, Repr

def Engines.reset : Engines := ⟨[], [], [], [], [], [], [], [], [], [], [], [], [], 0, [], [], []⟩

/-! ### HBM (chapter 11) -/

/-- Who owns a physical page (11 R248): the Regulator's own pages have no entry and are known by number. -/
inductive PageUse where
  | free | mapped (p : PartId) | stash (p : PartId)
  deriving DecidableEq, Repr

/-- Per-stack counters: Table 11.8 in order, then the floor counters of 16 R382. -/
inductive StackCnt where
  | ce | scrubCe | ue | ode | floorScrub | floorScrubNs
  deriving DecidableEq, Repr

/-- A stack and its controller. -/
structure Stack where
  cnt : Smap Nat
  scrubPass : BitVec 32
  scrubSlot : Nat
  scrubDue : Option (BitVec 64)
  hot : Bool
  refreshDoubled : Bool
  selfRefresh : Bool
  trained : Bool
  trainTemp : Word
  /-- pseudo-channels of the slot that is due whose pieces have been read (11 R261) -/
  scrubGot : BitVec 32
  deriving DecidableEq, Repr

def Stack.reset : Stack := ⟨[], 0, 0, none, false, false, false, false, 0, 0⟩

/-- The HBM stacks as one physical memory. `mem` holds what the controller delivers: on a page of `keys` it decrypts what the
stacks hold (`Hbm.stored`), as long as a partition holds that key (11 R254, R255). -/
structure Hbm where
  mem : Mem
  ecc : Smap Ecc
  pages : Smap PageUse
  rowLocal : Smap (Option Bool)
  /-- the key a page is encrypted under, by page number -/
  keys : Smap (Option Nat)
  deriving DecidableEq, Repr

def Hbm.reset : Hbm := ⟨[], [], [], [], []⟩

/-! ### Fabric ports (chapter 12) -/

/-- PORT_STS.STATE (12 Table 12.3). -/
inductive PortState where
  | disabled | waitPeer | training | upSwitched | upDirect | fault
  deriving DecidableEq, Repr

/-- The counters of 12 Table 12.13 in order. -/
inductive PortCnt where
  | rxFrames | txFrames | rxBytes | txBytes | rxFcs | rxSize | rxNomatch | rxPause | rxAsmFail | fecCorr | fecUncorr
  | txDiscard | fwdFrames | fwdDrop | fwdStomp | laneStep | resW4 | resW2 | resW1
  deriving DecidableEq, Repr

/-- A PTP message of the Regulator: the addresses it goes to (`ip`: IPv6 or not, and the address), whether it is an event message, the
time that a one-step correction counts from, and the correction field of the message it answers (12 R273, log 56). -/
structure PtpTx where
  mac : Nat
  ip : Option (Bool × Nat)
  event : Bool
  since : Option (BitVec 64)
  corr : Nat
  bytes : List Byte
  deriving DecidableEq, Repr

/-- What a queued frame carries. -/
inductive FrameBody where
  | dlc (type : BitVec 8) (d : Dlc)
  | ptp (m : PtpTx)
  | pkt (k : Pkt)
  | raw (bytes : List Byte)
  deriving DecidableEq, Repr

/-- A frame in a transmit queue: scheduler class 1 to 4 and source (12 R280). -/
structure TxFrame where
  cls : Nat
  src : Nat
  body : FrameBody
  stored : Nat
  /-- a cut-through copy that ends with the complement of its FCS (12 R283) -/
  stomped : Bool
  deriving DecidableEq, Repr

structure SubPort where
  cnt : Smap Nat
  txq : List TxFrame
  lastSrc : Smap Nat
  /-- the frame sent last, and its transmit timestamp (12 R273) -/
  lastSent : Option TxFrame
  lastSentAt : BitVec 64
  /-- the bytes of the frame sent last, FCS included (12 R265) -/
  wire : List Byte
  deriving DecidableEq, Repr

def SubPort.reset : SubPort := ⟨[], [], [], none, 0, []⟩

structure Port where
  cfg : Word
  state : PortState
  width : BitVec 2
  stepping : Bool
  peerMid : BitVec 14
  peerPort : BitVec 4
  autoneg : Bool
  trained : Bool
  locked : Bool
  lockTime : BitVec 64
  heard : Bool
  peerStepOk : Bool
  noDirect : Bool
  dlcSeq : BitVec 16
  /-- the outstanding STEP_REQ of this end: SEQ and target lanes -/
  stepReq : Option (BitVec 16 × BitVec 8)
  /-- an agreed step: target lanes and AMC -/
  stepAgreed : Option (BitVec 8 × BitVec 32)
  lastStepUp : Option (BitVec 64)
  idleWins : Nat
  lastBusy : Bool
  lastQb : Nat
  adaptReq : Option (BitVec 16)
  /-- the outstanding or agreed window was forced (16 R381) -/
  adaptForced : Bool
  adaptAgreed : Option (BitVec 32)
  lastAdapt : BitVec 64
  floorAdapt : Nat
  floorAdaptNs : Nat
  fwdBuf : Nat
  /-- a window request gave way to a step, and whether it was forced; it is asked again 1 ms after the step's end (16 R381) -/
  adaptLost : Option Bool
  stepEnd : BitVec 64
  subs : Vector SubPort 4
  deriving DecidableEq, Repr

/-- PORT_CFG after reset (12 Table 12.2): MODE 0b11, MEDIA 1, EN 1, STEP_EN 1, FWD_IN 0, PTP_EN 1. -/
def Port.cfgReset : Word := 0x5F#32

def Port.reset : Port :=
  ⟨Port.cfgReset, .disabled, 0, false, 0, 0, false, false, false, 0, false, false, false, 0, none, none, none, 0, false, 0,
   none, false, none, 0, 0, 0, 0, none, 0, Vector.replicate 4 SubPort.reset⟩

/-- A filter rule (12 Table 12.9). -/
structure FilterRule where
  matchEn : BitVec 8
  action : BitVec 8
  part : PartId
  pcpset : BitVec 8
  vid : BitVec 12
  vidmask : BitVec 12
  etype : BitVec 16
  udpdp : BitVec 16
  tpset : BitVec 8
  ports : BitVec 12
  qgrp : BitVec 10
  deriving DecidableEq, Repr

/-- A perfect-match entry (12 Table 12.8). -/
structure PerfectEnt where
  addr : BitVec 48
  en : Bool
  part : PartId
  qgrp : BitVec 10
  ports : BitVec 12
  deriving DecidableEq, Repr

/-- A queue group (12 Table 12.10). -/
structure QueueGroup where
  nq : Nat
  asm : Bool
  hashIp : Bool
  hashUdp : Bool
  atmo : BitVec 16
  qids : List Qid
  deriving DecidableEq, Repr

structure Fabric where
  ports : Vector Port 12
  rules : Smap (Option FilterRule)
  rulesShadow : Smap (Option FilterRule)
  ruleHits : Smap Nat
  perfect : Smap (Option PerfectEnt)
  perfectShadow : Smap (Option PerfectEnt)
  qgroups : Smap (Option QueueGroup)
  fwd : Smap (BitVec 16)
  deriving DecidableEq, Repr

def Fabric.reset : Fabric := ⟨Vector.replicate 12 Port.reset, [], [], [], [], [], [], []⟩

/-! ### The Regulator (chapters 12, 14, 16) -/

/-- The role of a mailbox (14 Table 14.5). -/
inductive Role where
  | none | owner | partition
  deriving DecidableEq, Repr

/-- How a request reached its mailbox (14 R324 to R326); `bridge`: relayed by a bridge module for a host (13 R316). -/
inductive ReqPath where
  | host (host : Fin 64) | mp (src : BitVec 48) | stream (core : CoreId) | bridge (mod : BitVec 14) (host : Fin 64) | none
  deriving DecidableEq, Repr

/-- How far a CHECKPOINT or a RESTORE has come (14 R347, 13 R319): it waits for its step to close; the headers of the buddy's two images
are asked for, with those that have come; its data is on the way to the buddy with the header (address and bytes) still to follow; its
header is on the way; or an image is asked for. A message is a session and a number. -/
inductive Copy where
  | idle | closing | probe (sess : Nat) (msg : BitVec 32) (heads : List (Nat × List Byte)) | fetch (sess : Nat) (msg : BitVec 32)
  | data (sess : Nat) (msg : BitVec 32) (at_ : Nat) (header : List Byte) | header (sess : Nat) (msg : BitVec 32)
  deriving DecidableEq, Repr

/-- A request copied into Regulator SRAM (14 R328). -/
structure MbReq where
  seq : BitVec 16
  cmd : BitVec 16
  part : PartId
  rq : Qid
  payload : List Byte
  path : ReqPath
  /-- place in the order in which doorbells reached the Regulator (14 R330) -/
  order : Nat
  /-- payload of the response of an executed request that waits for what it started (14 R343, 16 R370) -/
  wait : Option (List Byte)
  copy : Copy
  deriving DecidableEq, Repr

/-- A request being assembled from MP segments (14 R325): source, SEQ, TOTAL, and the bytes received by offset. -/
structure MpAsm where
  src : BitVec 48
  seq : BitVec 16
  total : Nat
  parts : List (Nat × List Byte)
  deriving DecidableEq, Repr

/-- A relayed host message, or the answer to one, of which pieces have come: session, host and message number (13 R316, log 33). -/
structure RelayAsm where
  sess : Nat
  host : Fin 64
  answer : Bool
  msg : BitVec 32
  ranges : List (Nat × Nat)
  total : Option Nat
  data : Mem
  deriving DecidableEq, Repr

/-- A PTP message that a port has passed to the Regulator, with its timestamp (12 R273). -/
structure PtpMsg where
  port : PortId
  sub : SubId
  time : BitVec 64
  frame : List Byte
  deriving DecidableEq, Repr

/-- What the Regulator's clock knows of its master, in units of 2^-16 ns (12 R273, log 56): the identity and sequence number of the
latest Sync, when it left and when it arrived, the outstanding delay request with the time it left and, of a peer's two-step answer,
what its Follow_Up completes; the mean path delay, and the offset that steering works against. -/
structure PtpClock where
  seq : BitVec 16
  master : List Byte
  syncSeq : Nat
  t1 : Option Int
  t2 : Int
  asked : Option (BitVec 16)
  t3 : Option Int
  part : Option Int
  delay : Int
  offset : Int
  deriving DecidableEq, Repr

def PtpClock.reset : PtpClock := ⟨0, [], 0, none, 0, none, none, none, 0, 0⟩

structure Mailbox where
  reqArea : List Byte
  reqPath : ReqPath
  respArea : List Byte
  lseq : BitVec 16
  busy : Option MbReq
  role : Role
  rpart : PartId
  ignored : Nat
  err : Nat
  mpAsm : Option MpAsm
  /-- a response that waits for a slot of its response queue (14 R326) -/
  owed : Option (Qid × List Byte)
  deriving DecidableEq, Repr

/-- An event log entry (16 Table 16.10); `arg` holds the ARG bytes. -/
structure Event where
  time : BitVec 64
  seq : BitVec 32
  code : BitVec 16
  rep : BitVec 16
  src : BitVec 8
  part : BitVec 8
  arg : List Byte
  deriving DecidableEq, Repr

/-- A trace record (16 R385). -/
structure TraceRec where
  time : BitVec 64
  origin : BitVec 8
  mark : MarkReg
  step : BitVec 32
  seq : BitVec 32
  stall : BitVec 32
  lines : BitVec 32
  deriving DecidableEq, Repr

/-- A host table entry (13 R315, 14 Table 14.8). -/
structure HostEnt where
  addr : BitVec 128
  fam : BitVec 8
  mbmask : BitVec 8
  pmask : BitVec 8
  deriving DecidableEq, Repr

/-- The event log and the trace ring (16 R383, R385). Newest first. -/
structure Logs where
  events : List Event
  nextSeq : BitVec 32
  lostcnt : Nat
  suppressed : Nat
  second : Nat
  inSecond : Nat
  ownerRead : BitVec 32
  /-- SEQ of the newest entry that asserts ALERT_N (18 R419) -/
  alertSeq : Option (BitVec 32)
  trace : List TraceRec
  traceSeq : BitVec 32
  deriving DecidableEq, Repr

def Logs.reset : Logs := ⟨[], 0, 0, 0, 0, 0, 0, none, [], 0⟩

structure Regulator where
  mbs : Vector Mailbox 16
  hosts : Smap (Option HostEnt)
  mpOwner : BitVec 48
  moduleId : BitVec 14
  assigned : Bool
  tport : BitVec 16
  pwrLimit : BitVec 16
  gpioCfg : Word
  logs : Logs
  report : Option (List Byte × List Byte)
  /-- user calibration entries applied at the last start (16 R379) -/
  cal : List Byte
  mpExcess : Nat
  mpFrame : Option (List Byte)
  mpTries : Nat
  mpBackoff : Nat
  mpOut : List (List Byte)
  annSeq : BitVec 16
  heardMods : Smap (Option (BitVec 16))
  midConflict : Bool
  fwver : Word
  svn : BitVec 8
  modLevel : BitVec 3
  tlevelT : BitVec 3
  tlevelR : BitVec 3
  relMs : Nat
  modCur : BitVec 3
  modTarget : BitVec 3
  /-- doorbells accepted since the last start (14 R330) -/
  doorbells : Nat
  /-- relayed host messages and answers of which pieces have come, and the messages that this bridge has relayed and that are not yet
  answered, with the session each went on (13 R316) -/
  relays : List RelayAsm
  relayed : List (Nat × HostMsg)
  /-- PTP messages received, newest first (12 R273, log 56) -/
  ptp : List PtpMsg
  clock : PtpClock
  /-- the firmware body in Regulator SRAM: ENTRY, where it was loaded and started, and its bytes (15 R364) -/
  image : Option (Nat × List Byte)
  deriving DecidableEq, Repr

/-- Role and partition of a mailbox after a start (14 R321). -/
def Mailbox.reset (i : Nat) : Mailbox :=
  ⟨[], .none, [], 0xFFFF, none,
   if i = 0 ∨ i = 9 then .owner else if 1 ≤ i ∧ i ≤ 8 then .partition else .none,
   Fin.ofNat 8 (i + 7), 0, 0, none, none⟩

/-- The Regulator after a start, with the defaults of 14 Table 14.17. -/
def Regulator.reset : Regulator :=
  ⟨#v[Mailbox.reset 0, Mailbox.reset 1, Mailbox.reset 2, Mailbox.reset 3, Mailbox.reset 4, Mailbox.reset 5, Mailbox.reset 6,
    Mailbox.reset 7, Mailbox.reset 8, Mailbox.reset 9, Mailbox.reset 10, Mailbox.reset 11, Mailbox.reset 12, Mailbox.reset 13,
    Mailbox.reset 14, Mailbox.reset 15], [], 0, 0, false, 19284, 1000, 0, .reset, none, [], 0, none, 0, 0, [], 0, [],
   false, 0, 0, 0, 0, 0, 0, 0, 0, 0, [], [], [], .reset, none⟩

/-! ### Always-on island, security block, hot swap (chapters 15, 16, 18) -/

/-- Module states (15 Table 15.5). -/
inductive MState where
  | booting | ready | bootHalt | failed | s1 | s2 | s3 | s4 | quiesced
  deriving DecidableEq, Repr

/-- MSTATE (15 Table 15.5). -/
def MState.code : MState → Nat
  | .booting => 0x01
  | .ready => 0x02
  | .bootHalt => 0x03
  | .failed => 0x04
  | .s1 => 0x11
  | .s2 => 0x12
  | .s3 => 0x13
  | .s4 => 0x14
  | .quiesced => 0x20

/-- Which start is under way (15 R349). -/
inductive StartKind where
  | cold | warm | retrain
  deriving DecidableEq, Repr

/-- Power supply of the module behind the hot-swap switch (18 R411, 16 R372). -/
inductive Supply where
  | off | on | thermalOff
  deriving DecidableEq, Repr

/-- The fuse map (15 Table 15.10), with the rest of what is written at manufacture. -/
structure Fuses where
  arrayEn : BitVec 96
  arc : BitVec 64
  serial : List Byte
  vkhRsa : List Byte
  vkhSlh : List Byte
  pinmap : Word
  idkRsa : List Byte
  idkSlh : List Byte
  partno : List Byte
  fru : List Byte
  otpCal : List Byte
  rom : List Byte
  deriving DecidableEq, Repr

/-- Module flash (15 R363, 14 R322, 16 R372, R379). -/
structure Flash where
  slotA : List Byte
  slotB : List Byte
  activeB : Bool
  userCal : List Byte
  config : List Byte
  shutdown : Bool
  /-- reads of slot A, of slot B fail: outcome 8 of 15 Table 15.9; nothing the spec describes changes them (log 10) -/
  badA : Bool
  badB : Bool
  deriving DecidableEq, Repr

/-- A sensor's last sample (16 R378). -/
structure Sample where
  value : Word
  time : BitVec 64
  deriving DecidableEq, Repr

/-- Sideband pins whose level the rest of the state does not give (18 R409, R419). -/
structure Pins where
  /-- MRST_N is held low (15 R353); a level held at T0 holds the module in reset (18 R411) -/
  mrstLow : Bool
  /-- the strapped inputs SLOT[2:0]; an open input reads as 1 (18 R409) -/
  slot : BitVec 3
  deriving DecidableEq, Repr

/-- The hot-swap controller (18 Tables 18.3 to 18.6). -/
structure HotSwap where
  on : Bool
  uv : Bool
  ov : Bool
  oc : Bool
  seated : Bool
  uvSeen : Bool
  ovSeen : Bool
  ocSeen : Bool
  scSeen : Bool
  vin : BitVec 16
  iin : BitVec 16
  debouncing : Bool
  pcycling : Bool
  /-- the switch is latched off (18 Table 18.8) -/
  latched : Bool
  /-- the last write on I2C named no register and was not acknowledged (18 R410) -/
  nack : Bool
  deriving DecidableEq, Repr

structure Aon where
  time : BitVec 64
  mstate : MState
  supply : Supply
  start : StartKind
  group : Nat
  inReset : Bool
  hbmTrained : Bool
  hbmTested : Bool
  rstCause : BitVec 8
  warmCnt : BitVec 32
  fatal : Option (BitVec 8)
  retained : Bool
  /-- READY has been reached since the last start (15 R357, R359) -/
  wasReady : Bool
  wdogCount : Nat
  haltA : BitVec 4
  haltB : BitVec 4
  slotB : Option Bool
  quiescing : Option (BitVec 64)
  resAct : Nat
  resS : Smap Nat
  /-- ENERGY in nJ, read in µJ, and the energies of the power samples of the last 10 ms, newest first (16 R377, R371) -/
  energy : Nat
  p10 : List Nat
  samples : Smap (Option Sample)
  crit : Bool
  fusesSensed : Bool
  pinmap : Word
  deriving DecidableEq, Repr

/-- The number of enabled arrays of a fuse map. -/
def mapCount (map : BitVec 96) : Nat := ((List.range 96).filter fun i => map.getLsbD i).length

/-- The part number of a grade: KD96-M192A, KD88-M192A or KD80-M192A by the number of enabled arrays (00 Table 0.1). -/
def gradeName (map : BitVec 96) : List Byte :=
  let digits : List Byte := if mapCount map = 96 then [0x39#8, 0x36#8] else if mapCount map = 88 then [0x38#8, 0x38#8] else [0x38#8, 0x30#8]
  [0x4B#8, 0x44#8] ++ digits ++ [0x2D#8, 0x4D#8, 0x31#8, 0x39#8, 0x32#8, 0x41#8]

/-- The FRU memory as written at manufacture: part number and array map (00 R1); the layout is the model's (log 11). -/
def fruImage (map : BitVec 96) : List Byte := padTo 16 (gradeName map) ++ bytesLE 12 map.toNat

/-- The identity RSA modulus p × q, big-endian, of the two primes of IDK_RSA (15 R367, Table 15.11). -/
def Fuses.idPubRsa (f : Fuses) : List Byte := bytesBE 384 (natLE (f.idkRsa.take 192).reverse * natLE ((f.idkRsa.drop 192).take 192).reverse)

/-- A module whose fuses hold an array map: its part number and its FRU memory follow the map (00 R1). -/
def Fuses.ofMap (map : BitVec 96) : Fuses := ⟨map, 0, [], [], [], 0, [], [], gradeName map, fruImage map, [], []⟩

/-- The KD96-M192A, the grade of a figure stated without one (00 R2). -/
def Fuses.reset : Fuses := .ofMap (BitVec.allOnes 96)

def Flash.reset : Flash := ⟨[], [], false, [], [], false, false, false⟩

def Pins.reset : Pins := ⟨false, 7⟩

/-- The fields of Tables 18.4 and 18.6 after VIN_54 rises above 20 V (18 R410). -/
def HotSwap.reset : HotSwap :=
  ⟨false, true, false, false, false, false, false, false, false, 0, 0, false, false, false, false⟩

def Aon.reset : Aon :=
  ⟨0, .booting, .off, .cold, 0, false, false, false, 0, 0, none, false, false, 0, 0, 0, none, none, 0, [], 0, [], [], false, false, 0⟩

/-- The whole module. -/
structure State where
  pending : List Instr
  free : Nat
  cores : Vector Core 24
  parts : Vector Partition 8
  eng : Engines
  hbm : Hbm
  stk : Vector Stack 8
  fabric : Fabric
  reg : Regulator
  aon : Aon
  fuses : Fuses
  flash : Flash
  pins : Pins
  hs : HotSwap
  deriving DecidableEq, Repr

/-- The module right after its power-on reset: VIN_54 has risen above 20 V, the hot-swap switch is off, no group is
released (18 R410, 15 R349). -/
def State.reset : State where
  pending := []
  free := 0
  cores := Vector.replicate 24 Core.reset
  parts := Vector.replicate 8 Partition.reset
  eng := .reset
  hbm := .reset
  stk := Vector.replicate 8 Stack.reset
  fabric := .reset
  reg := .reset
  aon := .reset
  fuses := .reset
  flash := .reset
  pins := .reset
  hs := .reset

end Sys2Proof.Machine
end

