-- ==== Sys2Proof/Machine/Flags.lean ====
section
/-! DEFINITION. Status codes, their classes, the flags a command reports and the completion record that carries them
(03 Table 3.4, 05 Tables 5.28 to 5.30, 14 Table 14.9, 16 Table 16.11). -/

namespace Sys2Proof.Machine

/-! ### Command and mailbox status codes (05 Table 5.30, 14 Table 14.9) -/

def stOk : BitVec 16 := 0x0000#16
def stBadOpcode : BitVec 16 := 0x0101#16
def stBadField : BitVec 16 := 0x0102#16
def stBadFormat : BitVec 16 := 0x0103#16
def stBadForm : BitVec 16 := 0x0104#16
def stBadSparse : BitVec 16 := 0x0105#16
def stWbankEmpty : BitVec 16 := 0x0106#16
def stArrayDisabled : BitVec 16 := 0x0107#16
def stWofsMismatch : BitVec 16 := 0x0108#16
def stBadAddress : BitVec 16 := 0x0109#16
def stAccess : BitVec 16 := 0x010A#16
def stNotRealtime : BitVec 16 := 0x010B#16
def stBadPlacement : BitVec 16 := 0x010C#16
def stCsEcc : BitVec 16 := 0x0201#16
def stAccParity : BitVec 16 := 0x0202#16
def stFetchError : BitVec 16 := 0x0203#16
def stTimeout : BitVec 16 := 0x0301#16
def stDeadlineMissed : BitVec 16 := 0x0302#16
def stCancelled : BitVec 16 := 0x0303#16
def stPeerLost : BitVec 16 := 0x0304#16
def stRecvOverrun : BitVec 16 := 0x0305#16
def stStashOverflow : BitVec 16 := 0x0401#16
def stBranchStack : BitVec 16 := 0x0402#16
def stMbCrc : BitVec 16 := 0x0501#16
def stBadCommand : BitVec 16 := 0x0503#16
def stState : BitVec 16 := 0x0505#16
def stNoResource : BitVec 16 := 0x0506#16
def stRefusedTable : BitVec 16 := 0x0507#16
def stAborted : BitVec 16 := 0x0508#16
def stAlreadyDone : BitVec 16 := 0x0509#16
def stNotFound : BitVec 16 := 0x050A#16
def stFaulted : BitVec 16 := 0x050B#16
def stBadImage : BitVec 16 := 0x050C#16

/-- The command statuses other than ST_OK, in the order of Table 5.30: the order of the status counters. -/
def statusOrder : List (BitVec 16) :=
  [stBadOpcode, stBadField, stBadFormat, stBadForm, stBadSparse, stWbankEmpty, stArrayDisabled, stWofsMismatch,
   stBadAddress, stAccess, stNotRealtime, stBadPlacement, stCsEcc, stAccParity, stFetchError, stTimeout,
   stDeadlineMissed, stCancelled, stPeerLost, stRecvOverrun, stStashOverflow, stBranchStack]

/-- The place of a status in Table 5.30. -/
def statusIdx (st : BitVec 16) : Nat := statusOrder.idxOf st

/-- Class H of Table 5.30: the status halts the stream. -/
def statusHalts (st : BitVec 16) : Bool := st == stBadOpcode || st == stFetchError

/-- Class F of Table 5.30: the partition fault cause of 17 Table 17.3 that a finished command's status brings. -/
def statusCause (st : BitVec 16) : Option Nat :=
  if st = stCsEcc then some 1
  else if st = stAccParity then some 2
  else if st = stStashOverflow then some 3
  else if st = stBranchStack then some 4
  else none

/-- FAULT of PART_STATUS by fault cause (17 Table 17.3). -/
def causeStatus (cause : Nat) : BitVec 16 :=
  match cause with
  | 1 => stCsEcc
  | 2 => stAccParity
  | 3 => stStashOverflow
  | 4 => stBranchStack
  | _ => stFaulted

/-! ### Accumulator flags (03 Table 3.4) -/

def afInexact : Nat := 1
def afOverflow : Nat := 2
def afNan : Nat := 4
def afScaleRange : Nat := 8
def afParity : Nat := 16

/-! ### What a command reports when it finishes -/

/-- Status, flags and INFO fields of a finished command (05 R118). -/
structure Report where
  status : BitVec 16
  acc : Nat
  cvt : Nat
  info0 : Nat
  info1 : Nat
  deriving DecidableEq, Repr

/-- ST_OK with nothing else to report. -/
def Report.ok : Report := ⟨stOk, 0, 0, 0, 0⟩

/-- A status with INFO0 (05 Table 5.29). -/
def Report.bad (st : BitVec 16) (info0 : Nat) : Report := ⟨st, 0, 0, info0, 0⟩

/-- A status whose INFO fields carry an HBM address (05 Table 5.29). -/
def Report.badHbm (st : BitVec 16) (va : Nat) : Report := ⟨st, 0, 0, va % 2 ^ 32, va / 2 ^ 32 % 2 ^ 16⟩

/-- ORIGIN of a record: core in [4:0], partition in [7:5] (05 Table 5.28). -/
def originByte (core part : Nat) : Nat := core % 32 + 32 * (part % 8)

/-- The 32 bytes of a completion record (05 Table 5.28). -/
def recordBytes (tag opcode origin status acc cvt seq flags info0 time info1 : Nat) : List Byte :=
  bytesLE 2 tag ++ bytesLE 1 opcode ++ bytesLE 1 origin ++ bytesLE 2 status ++ bytesLE 1 acc ++ bytesLE 1 cvt ++
    bytesLE 2 seq ++ bytesLE 2 flags ++ bytesLE 4 info0 ++ bytesLE 8 time ++ bytesLE 8 info1

/-! ### Event codes (16 Table 16.11, 17 Table 17.4) -/

def evReset : Nat := 0x0101
def evIslReset : Nat := 0x0102
def evFatal : Nat := 0x0103
def evArcAdvance : Nat := 0x0104
def evHbmRetrain : Nat := 0x0105
def evHbmInitFail : Nat := 0x0201
def evHbmUe : Nat := 0x0202
def evHbmHot : Nat := 0x0203
def evPortUp : Nat := 0x0301
def evPortDown : Nat := 0x0302
def evPortNodirect : Nat := 0x0303
def evSessionRefused : Nat := 0x0401
def evRsDup : Nat := 0x0402
def evA2aTable : Nat := 0x0403
def evPeerLost : Nat := 0x0404
def evAccParity : Nat := 0x0501
def evPdlError : Nat := 0x0502
def evUpdPartial : Nat := 0x0601
def evUpdSkip : Nat := 0x0602
def evUpdConfig : Nat := 0x0603
def evPrecondFallback : Nat := 0x0604
def evThermLimit : Nat := 0x0701
def evThermCrit : Nat := 0x0702
def evThermShutdown : Nat := 0x0703
def evPwrLimit : Nat := 0x0704
def evSleep : Nat := 0x0705
def evWake : Nat := 0x0706
def evCalUserInvalid : Nat := 0x0801
def evLogSuppress : Nat := 0x0802
def evCfgInvalid : Nat := 0x0803
def evPartFault : Nat := 0x0A01
def evMeshParity : Nat := 0x0A02
def evRmvReq : Nat := 0x0A03
def evQuiesced : Nat := 0x0A04
def evMidConflict : Nat := 0x0A05

/-- The island number that stands for none in SRC, and the partition number that stands for none in PART (16 Table
16.10). -/
def srcNone : Nat := 0xFF

end Sys2Proof.Machine
end

