-- ==== Sys2Proof/Machine/Ops.lean ====
section
/-! DEFINITION. The named operations over the state: its parts, its counters, the free values, the event log, the
translation and the memories with their checks (11 R249 to R259, 16 R383, 05 R92). -/

namespace Sys2Proof.Machine

/-! ### Parts of the state -/

def State.core (s : State) (c : CoreId) : Core := s.cores[c]
def State.setCore (s : State) (c : CoreId) (k : Core) : State := { s with cores := s.cores.set c k }
def State.modCore (s : State) (c : CoreId) (f : Core → Core) : State := s.setCore c (f (s.core c))
def State.modCtl (s : State) (c : CoreId) (f : CoreCtl → CoreCtl) : State := s.modCore c fun k => { k with ctl := f k.ctl }
def State.modMem (s : State) (c : CoreId) (f : CoreMem → CoreMem) : State := s.modCore c fun k => { k with mem := f k.mem }
def State.modStash (s : State) (c : CoreId) (f : CoreStash → CoreStash) : State :=
  s.modCore c fun k => { k with stash := f k.stash }

def State.part (s : State) (p : PartId) : Partition := s.parts[p]
def State.setPart (s : State) (p : PartId) (q : Partition) : State := { s with parts := s.parts.set p q }
def State.modPart (s : State) (p : PartId) (f : Partition → Partition) : State := s.setPart p (f (s.part p))
def State.modUe (s : State) (p : PartId) (f : UpdEng → UpdEng) : State := s.modPart p fun q => { q with ue := f q.ue }

def State.port (s : State) (p : PortId) : Port := s.fabric.ports[p]
def State.setPort (s : State) (p : PortId) (q : Port) : State :=
  { s with fabric := { s.fabric with ports := s.fabric.ports.set p q } }
def State.modPort (s : State) (p : PortId) (f : Port → Port) : State := s.setPort p (f (s.port p))
def Port.sub (q : Port) (i : SubId) : SubPort := q.subs[i]
def Port.setSub (q : Port) (i : SubId) (b : SubPort) : Port := { q with subs := q.subs.set i b }
def Port.modSub (q : Port) (i : SubId) (f : SubPort → SubPort) : Port := q.setSub i (f (q.sub i))
def State.modSub (s : State) (p : PortId) (i : SubId) (f : SubPort → SubPort) : State := s.modPort p fun q => q.modSub i f

def State.stack (s : State) (h : StackId) : Stack := s.stk[h]
def State.setStack (s : State) (h : StackId) (q : Stack) : State := { s with stk := s.stk.set h q }
def State.modStack (s : State) (h : StackId) (f : Stack → Stack) : State := s.setStack h (f (s.stack h))

def State.mb (s : State) (m : MbId) : Mailbox := s.reg.mbs[m]
def State.setMb (s : State) (m : MbId) (b : Mailbox) : State := { s with reg := { s.reg with mbs := s.reg.mbs.set m b } }
def State.modMb (s : State) (m : MbId) (f : Mailbox → Mailbox) : State := s.setMb m (f (s.mb m))

def State.modReg (s : State) (f : Regulator → Regulator) : State := { s with reg := f s.reg }
def State.modAon (s : State) (f : Aon → Aon) : State := { s with aon := f s.aon }
def State.modEng (s : State) (f : Engines → Engines) : State := { s with eng := f s.eng }
def State.modHs (s : State) (f : HotSwap → HotSwap) : State := { s with hs := f s.hs }
def State.modPins (s : State) (f : Pins → Pins) : State := { s with pins := f s.pins }

/-- The timebase in ns (16 R376). -/
def State.now (s : State) : Nat := s.aon.time.toNat

def State.queue (s : State) (q : Qid) : Option Queue := s.eng.queues.get none q.toNat
def State.setQueue (s : State) (q : Qid) (d : Queue) : State :=
  s.modEng fun e => { e with queues := e.queues.set none q.toNat (some d) }

/-- A session of the transport by its index (13 R291). -/
def State.sess (s : State) (i : Nat) : Option Session := s.eng.sessions.get none i
def State.setSess (s : State) (i : Nat) (d : Option Session) : State :=
  s.modEng fun e => { e with sessions := e.sessions.set none i d }

/-- Apply a function to every element of a list of core numbers in turn. -/
def allCores : List CoreId := List.finRange 24
def allParts : List PartId := List.finRange 8
def allPorts : List PortId := List.finRange 12
def allStacks : List StackId := List.finRange 8
def allMbs : List MbId := List.finRange 16
def allSubs : List SubId := List.finRange 4

/-- The cores a partition holds (05 R120). -/
def State.coresOf (s : State) (p : PartId) : List CoreId := allCores.filter fun c => (s.core c).part == some p

/-- The partition exists (14 R337). -/
def State.partExists (s : State) (p : PartId) : Bool := (s.part p).cfg.isSome

/-- The partition is real-time (14 Table 14.10). -/
def State.isRt (s : State) (p : PartId) : Bool := match (s.part p).cfg with
  | some c => c.rt
  | none => false

/-- The partition is faulted (17 R391). -/
def State.faulted (s : State) (p : PartId) : Bool := (s.part p).fault.isSome

/-- This module's ID (12 R267). -/
def State.moduleId (s : State) : BitVec 14 := s.reg.moduleId

/-- An array is enabled by the fuse field of 04 R88. -/
def State.arrayEn (s : State) (c : CoreId) (a : Nat) : Bool := s.fuses.arrayEn.getLsbD (4 * c.val + a)

/-! ### Counters and free values -/

/-- Add to a counter of a given width; a counter saturates (00 R9 RCS). -/
def satAdd (width n k : Nat) : Nat := min (n + k) (2 ^ width - 1)

/-- Add `k` to counter `i` of a counter map. -/
def bump (width : Nat) (m : Smap Nat) (i k : Nat) : Smap Nat := m.set 0 i (satAdd width (m.get 0 i) k)

def CoreCnt.width : CoreCnt → Nat
  | .depWait | .csConflict | .csCe => 32
  | _ => 64

def PartCnt.width : PartCnt → Nat
  | .routeOvercap | .routeUnrouted | .routeNan | .qdMiss | .tlbMiss | .updBlocks | .tpCksum | .tpBadhdr | .tpRetx
  | .rsNoctx => 48
  | .stashPeak => 64
  | _ => 32

def StackCnt.width : StackCnt → Nat
  | .floorScrub | .floorScrubNs => 48
  | _ => 32

def PortCnt.width : PortCnt → Nat
  | .rxBytes | .txBytes | .fecCorr | .resW4 | .resW2 | .resW1 => 64
  | .laneStep | .rxAsmFail => 32
  | _ => 48

def CoreCnt.idx (c : CoreCnt) : Nat := c.ctorIdx
def PartCnt.idx (c : PartCnt) : Nat := c.ctorIdx
def StackCnt.idx (c : StackCnt) : Nat := c.ctorIdx
def PortCnt.idx (c : PortCnt) : Nat := c.ctorIdx

def State.countCore (s : State) (c : CoreId) (k : CoreCnt) (n : Nat) : State :=
  s.modCore c fun q => { q with cnt := bump k.width q.cnt k.idx n }
def State.countPart (s : State) (p : PartId) (k : PartCnt) (n : Nat) : State :=
  s.modPart p fun q => { q with cnt := bump k.width q.cnt k.idx n }
def State.countStack (s : State) (h : StackId) (k : StackCnt) (n : Nat) : State :=
  s.modStack h fun q => { q with cnt := bump k.width q.cnt k.idx n }
def State.countSub (s : State) (p : PortId) (i : SubId) (k : PortCnt) (n : Nat) : State :=
  s.modSub p i fun q => { q with cnt := bump k.width q.cnt k.idx n }

/-- Add one to the partition's counter of a command status (05 R119); ST_OK has none. -/
def State.countStatus (s : State) (p : PartId) (st : BitVec 16) : State :=
  if st = stOk then s else s.modPart p fun q => { q with statusCnt := bump 32 q.statusCnt (statusIdx st) 1 }

/-- The next free value (log 1). -/
def State.freeVal (s : State) : Nat := Config.freeValue s.free
def State.freeNext (s : State) : State := { s with free := s.free + 1 }

/-! ### Precedence of real-time partitions (01 R16) -/

/-- The window over which a share is measured, and the number of the one that holds a moment (DESIGN CHOICE, log 80). -/
def shareWindow : Nat := 64000

/-- Key of a partition at a shared point. -/
def shareKey (point : Nat) (p : PartId) : Nat := point * 8 + p.val

/-- Bytes served ahead for a partition at a point in the current window. -/
def State.shareOf (s : State) (point : Nat) (p : PartId) : Nat :=
  if s.eng.shareWin = s.now / shareWindow then s.eng.shareUsed.get 0 (shareKey point p) else 0

/-- A real-time partition is within its share at a point that moves `cap` bytes in a window: SHARE counts 256ths (log 80). -/
def State.inShare (s : State) (point cap : Nat) (p : PartId) : Bool := match (s.part p).cfg with
  | some c => c.rt && decide (256 * s.shareOf point p < c.share.toNat * cap)
  | none => false

/-- Bytes served at a point count against the share of a real-time partition. -/
def State.useShare (s : State) (point : Nat) (p : PartId) (n : Nat) : State :=
  if s.isRt p then s.modEng fun e =>
    let used := if e.shareWin = s.now / shareWindow then e.shareUsed else []
    { e with shareUsed := used.set 0 (shareKey point p) (used.get 0 (shareKey point p) + n), shareWin := s.now / shareWindow }
  else s

/-- Shared points: the sub-ports, the stream engine, the router, the collective engine, the mesh and the HBM controllers (01 R16). -/
def pointOfSub (p : PortId) (i : SubId) : Nat := 4 * p.val + i.val
def pointStream : Nat := 48
def pointRouter : Nat := 49
def pointColl : Nat := 50
def pointMesh : Nat := 51
def pointHbm : Nat := 52

/-- What the collective engine's local path (05 R425) and the HBM stacks (00 Table 0.1) move in a window; the mesh is given the figure of
HBM (log 80). -/
def collCap : Nat := 4608 * shareWindow / 10
def hbmCap : Nat := 8192 * shareWindow

/-- Those of a list whose partition is real-time and within its share at a point, then the others (01 R16). -/
def State.rtFirst {α : Type} (s : State) (point cap : Nat) (part : α → PartId) (l : List α) : List α :=
  l.filter (fun x => s.inShare point cap (part x)) ++ l.filter fun x => !s.inShare point cap (part x)

/-! ### Event log (16 R383) -/

/-- Events whose entries assert ALERT_N (18 R419). -/
def alertCode (code : Nat) : Bool :=
  [evFatal, evHbmUe, evPartFault, evPortDown, evPeerLost, evThermCrit, evMidConflict, evUpdPartial].contains code

/-- Put one entry into the ring of 8,192 entries. -/
def Logs.push (l : Logs) (time code src part : Nat) (arg : List Byte) : Logs :=
  let e : Event := ⟨BitVec.ofNat 64 time, l.nextSeq, BitVec.ofNat 16 code, 0, BitVec.ofNat 8 src, BitVec.ofNat 8 part, padTo 12 arg⟩
  let full := decide (8192 ≤ l.events.length)
  { l with
    events := (e :: l.events).take 8192
    nextSeq := l.nextSeq + 1
    alertSeq := if alertCode code then some l.nextSeq else l.alertSeq
    lostcnt := if full then satAdd 32 l.lostcnt 1 else l.lostcnt
    inSecond := l.inSecond + 1 }

/-- An event repeats the newest entry within 1 ms of its TIME. -/
def Logs.merges (l : Logs) (time code src part : Nat) (arg : List Byte) : Bool :=
  match l.events with
  | e :: _ => e.code.toNat == code && e.src.toNat == src && e.part.toNat == part && e.arg == padTo 12 arg &&
      decide (time ≤ e.time.toNat + 1000000)
  | [] => false

/-- Write or merge an event log entry (16 R383). -/
def Logs.write (l : Logs) (time code src part : Nat) (arg : List Byte) : Logs :=
  let sec := time / 1000000000
  let l := if l.second = sec then l else { l with second := sec, inSecond := 0 }
  if l.merges time code src part arg then
    match l.events with
    | e :: t => { l with events := { e with rep := BitVec.ofNat 16 (satAdd 16 e.rep.toNat 1) } :: t }
    | [] => l
  else if 4096 ≤ l.inSecond then { l with suppressed := satAdd 32 l.suppressed 1 }
  else
    let l := if l.suppressed = 0 then l
      else { (l.push time evLogSuppress srcNone srcNone (bytesLE 4 l.suppressed)) with suppressed := 0 }
    if 4096 ≤ l.inSecond then { l with suppressed := satAdd 32 l.suppressed 1 } else l.push time code src part arg

def State.logEvent (s : State) (code src part : Nat) (arg : List Byte) : State :=
  s.modReg fun r => { r with logs := r.logs.write s.now code src part arg }

/-! ### Translation (11 R249, R250) -/

/-- The rights of 11 Table 11.5. -/
inductive Right where
  | x | r | w | pr | pw
  deriving DecidableEq, Repr

def Pte.allows (e : Pte) : Right → Bool
  | .x => e.x
  | .r => e.r
  | .w => e.w
  | .pr => e.pr
  | .pw => e.pw

/-- Bytes of a page. -/
def pageBytes : Nat := 2097152

/-- Bytes that one level-2 table covers (R249). -/
def l2Bytes : Nat := 17179869184

/-- The entry of the page that holds a translated address: level 1, then level 2 (R249). -/
def Partition.pteOf (q : Partition) (va : Nat) : Option Pte :=
  match q.l1.get none (va / l2Bytes) with
  | some _ => q.pages.get none (va / pageBytes)
  | none => none

/-- First physical address of the translation tables: the Regulator region holds the contents of Table 11.3 in its order from
unit row 12,256 on (DESIGN CHOICE, log 79). -/
def tableBase : Nat := 12256 * 16777216 + 128 * 1048576

/-- Physical address of the level-1 table of a partition, and of level-2 table `k`, 64 KiB aligned (Table 11.3, log 79). -/
def l1Addr (p : PartId) : Nat := tableBase + p.val * 131072
def l2Addr (k : Nat) : Nat := tableBase + 1048576 + k * 65536

/-- The 8 bytes of a level-1 entry (Table 11.4). -/
def Partition.l1Entry (q : Partition) (i : Nat) : Nat := match q.l1.get none i with
  | some k => 1 + (l2Addr k / 65536) * 2 ^ 16
  | none => 0

/-- The 8 bytes of a level-2 entry (Table 11.5). -/
def Pte.word (e : Pte) : Nat :=
  1 + (if e.r then 2 else 0) + (if e.w then 4 else 0) + (if e.x then 8 else 0) + (if e.pr then 16 else 0) + (if e.pw then 32 else 0) +
    e.ppn * 2 ^ 21

def Partition.l2Entry (q : Partition) (vpn : Nat) : Nat := match q.pages.get none vpn with
  | some e => e.word
  | none => 0

/-- The physical address of a translated address; an unmapped page gives none. -/
def Partition.paOf (q : Partition) (va : Nat) : Option Nat :=
  match q.pteOf va with
  | some e => some (e.ppn * pageBytes + va % pageBytes)
  | none => none

/-- What a check of one page gives (11 R250): ST_BAD_ADDRESS without a mapping, ST_ACCESS without the right. -/
def Partition.checkPage (q : Partition) (va : Nat) (w : Right) : Option (BitVec 16) :=
  match q.pteOf va with
  | none => some stBadAddress
  | some e => if e.allows w then none else some stAccess

/-- The check of the pages from `va` on: the first failing status with its address. -/
def Partition.checkPages (q : Partition) (w : Right) (va : Nat) : Nat → Option (BitVec 16 × Nat)
  | 0 => none
  | n + 1 => match q.checkPage va w with
    | some st => some (st, va)
    | none => Partition.checkPages q w ((va / pageBytes + 1) * pageBytes) n

/-- The check of a byte range under a right (11 R250); a range that leaves the 48-bit space is unmapped. -/
def Partition.checkRange (q : Partition) (va len : Nat) (w : Right) : Option (BitVec 16 × Nat) :=
  if len = 0 then none
  else if 2 ^ 48 < va + len then some (stBadAddress, va)
  else q.checkPages w va ((va + len - 1) / pageBytes - va / pageBytes + 1)

/-! ### HBM (11 R246, R256 to R258) -/

/-- The stack that serves a physical address (11 Table 11.2). -/
def Hbm.stackOf (h : Hbm) (pa : Nat) : StackId :=
  if h.rowLocal.get none (bitsOf pa 24 14) = some true then Fin.ofNat 8 (bitsOf pa 21 3)
  else Fin.ofNat 8 (Nat.xor (bitsOf pa 8 3) (bitsOf pa 21 3))

/-- Byte offset of a physical address in its stack's unit (Table 11.2). -/
def Hbm.unitOffset (h : Hbm) (pa : Nat) : Nat :=
  if h.rowLocal.get none (bitsOf pa 24 14) = some true then bitsOf pa 0 21
  else bitsOf pa 21 3 * 262144 + bitsOf pa 11 10 * 256 + bitsOf pa 0 8

/-- The pseudo-channel of a byte offset of a unit (R247). -/
def pseudoOf (off : Nat) : Nat := Nat.xor (bitsOf (off / 256) 0 5) (bitsOf (off / 256) 5 5)

/-- The pseudo-channel that serves a physical address. -/
def Hbm.pseudo (h : Hbm) (pa : Nat) : Nat := pseudoOf (h.unitOffset pa)

/-- The byte that the stacks hold at a physical address: on an encrypted page the ciphertext of its codeword under the page's
key, with the tweak PA >> 6 (R255). -/
def Hbm.stored (h : Hbm) (pa : Nat) : Byte := match h.keys.get none (pa / pageBytes) with
  | none => h.mem.read pa
  | some k => BitVec.ofNat 8 ((xtsEncrypt k (pa / 64) ((h.mem.readN (pa / 64 * 64) 64).map (·.toNat))).getD (pa % 64) 0)

/-- Read one byte for a holder of `key`: plaintext where the page is not encrypted or is encrypted under it, else what the stacks
hold (R255: ciphertext that no key on the module decrypts). -/
def Hbm.readPa (h : Hbm) (key : Option Nat) (pa : Nat) : Byte :=
  let k := h.keys.get none (pa / pageBytes)
  if k = none ∨ k = key then h.mem.read pa else h.stored pa

/-- Forget the key of a page: its bytes are from then on what the stacks hold. -/
def Hbm.forget (h : Hbm) (page : Nat) : Hbm :=
  { h with
    mem := h.mem.writeN (page * pageBytes) ((List.range pageBytes).map fun i => h.stored (page * pageBytes + i))
    keys := h.keys.set none page none }

/-- Store one byte for a holder of `key`; a page under a key that is gone is plain bytes from then on. -/
def Hbm.writePa (h : Hbm) (key : Option Nat) (pa : Nat) (b : Byte) : Hbm :=
  let k := h.keys.get none (pa / pageBytes)
  let g := if k = none ∨ k = key then h else h.forget (pa / pageBytes)
  { g with mem := g.mem.write pa b }

/-- Read `n` bytes of a partition's space; an unmapped byte reads as zero (every caller checks the range first). -/
def Hbm.readVa (h : Hbm) (q : Partition) (va : Nat) : Nat → List Byte
  | 0 => []
  | n + 1 => (match q.paOf va with
      | some a => h.readPa q.key a
      | none => 0) :: Hbm.readVa h q (va + 1) n

/-- Store bytes in a partition's space, leaving out the codewords of `skip`. -/
def Hbm.writeVa (h : Hbm) (q : Partition) (skip : List Nat) (va : Nat) : List Byte → Hbm
  | [] => h
  | b :: bs => Hbm.writeVa (match q.paOf va with
      | some a => if skip.contains (a / 64) then h else h.writePa q.key a b
      | none => h) q skip (va + 1) bs

/-- The part of codeword `cw` that a byte range of a partition's space covers, as a number of bytes. -/
def Partition.cover (q : Partition) (va len cw : Nat) : Nat :=
  ((List.range 64).filter fun i =>
    q.pages.any fun e => match e.2 with
      | some t => t.ppn == (cw * 64 + i) / pageBytes &&
          (let v := e.1 * pageBytes + (cw * 64 + i) % pageBytes; decide (va ≤ v ∧ v < va + len))
      | none => false).length

/-- Codewords of a range whose stored state is `st`. -/
def Hbm.codewords (h : Hbm) (q : Partition) (va len : Nat) (st : Ecc) : List Nat :=
  (h.ecc.filter fun e => e.2 == st && decide (0 < q.cover va len e.1)).map (·.1)

/-- Count an event on the stack of each codeword. -/
def State.countWords (s : State) (k : StackCnt) : List Nat → State
  | [] => s
  | w :: ws => State.countWords (s.countStack (s.hbm.stackOf (w * 64)) k 1) k ws

def State.clearWords (s : State) : List Nat → State
  | [] => s
  | w :: ws => State.clearWords { s with hbm := { s.hbm with ecc := s.hbm.ecc.set Ecc.good w Ecc.good } } ws

/-- Log EV_HBM_UE for each codeword: stack, PA, owner in PART, and the source 0 demand, 1 read-modify-write, 2 scrub
(11 R258). -/
def State.logUe (s : State) (part source : Nat) : List Nat → State
  | [] => s
  | w :: ws =>
    let h := s.hbm.stackOf (w * 64)
    State.logUe ((s.countStack h .ue 1).logEvent evHbmUe (27 + h.val) part
      (bytesLE 1 h.val ++ bytesLE 6 (w * 64) ++ bytesLE 1 source)) part source ws

/-- A read of a partition's HBM: the corrected bytes, or none where a codeword is uncorrectable (11 R256, R258). The
fault that an uncorrectable read brings is the caller's. -/
def State.readHbm (s : State) (p : PartId) (va len : Nat) : Option (List Byte) × State :=
  let q := s.part p
  let ue := s.hbm.codewords q va len .double
  let ce := s.hbm.codewords q va len .single
  let s1 := (s.countWords .ce ce).clearWords ce
  if ue.isEmpty then (some (s1.hbm.readVa q va len), s1) else (none, s1.logUe p.val 0 ue)

/-- Put translations in the place of a partition's own; an access that was translated before a change of mapping completes under them
(11 R252). -/
def Partition.under (q : Partition) (maps : List (Nat × Pte)) : Partition := { q with
  l1 := maps.map fun e => (e.1 / 8192, some 0)
  pages := maps.map fun e => (e.1, some e.2) }

/-- What an access does under translations that it was given earlier: the partition keeps its own. -/
def State.underMaps {α : Type} (s : State) (p : PartId) (maps : List (Nat × Pte)) (f : State → α × State) : α × State :=
  let w := f (s.modPart p fun q => q.under maps)
  (w.1, w.2.modPart p fun q => { q with l1 := (s.part p).l1, pages := (s.part p).pages })

/-- The translations of a byte range now. -/
def Partition.mapsOf (q : Partition) (va len : Nat) : List (Nat × Pte) :=
  (List.range' (va / pageBytes) ((va + len - 1) / pageBytes - va / pageBytes + 1)).filterMap fun n =>
    (q.pteOf (n * pageBytes)).map fun e => (n, e)

/-- A write to a partition's HBM: false where a partly covered codeword is uncorrectable and its write is not performed
(11 R257); a whole codeword is written with fresh check symbols. -/
def State.writeHbm (s : State) (p : PartId) (va : Nat) (bs : List Byte) : Bool × State :=
  let q := s.part p
  let touched := (s.hbm.codewords q va bs.length .double)
  let bad := touched.filter fun w => decide (q.cover va bs.length w < 64)
  let ce := s.hbm.codewords q va bs.length .single
  let rmw := ce.filter fun w => decide (q.cover va bs.length w < 64)
  let s1 := ((s.countWords .ce rmw).clearWords ce).clearWords (touched.filter fun w => !bad.contains w)
  let s2 := { s1 with hbm := s1.hbm.writeVa q bad va bs }
  if bad.isEmpty then (true, s2) else (false, s2.logUe p.val 1 bad)

/-- Read of one little-endian number of a partition's HBM without touching the check state. -/
def State.peekHbm (s : State) (p : PartId) (va len : Nat) : Nat := natLE (s.hbm.readVa (s.part p) va len)

/-! ### Core store and transposing buffer (05 R92, 11 R259) -/

/-- Lines of the core store and of the transposing buffer (05 Tables 5.1, 5.2). -/
def csLines : Nat := 0xC0000
def xbLines : Nat := 0x10000

/-- A byte range of a core's memory: in the transposing buffer or not, first byte, length. -/
structure Span where
  xb : Bool
  at_ : Nat
  len : Nat
  deriving DecidableEq, Repr

/-- A span of whole lines from a line address. -/
def Span.lines (xb : Bool) (line n : Nat) : Span := ⟨xb, line * 32, n * 32⟩

/-- The span lies inside its memory (05 R92, R98). -/
def Span.inside (d : Span) : Bool := decide (d.at_ + d.len ≤ 32 * (if d.xb then xbLines else csLines)) && decide (0 < d.len ∨ d.at_ < 32 * (if d.xb then xbLines else csLines))

/-- Two spans share a line (05 R115: footprints cover whole lines). -/
def Span.shares (d e : Span) : Bool :=
  d.xb == e.xb && decide (0 < d.len ∧ 0 < e.len) &&
    decide (d.at_ / 32 ≤ (e.at_ + e.len - 1) / 32 ∧ e.at_ / 32 ≤ (d.at_ + d.len - 1) / 32)

def CoreMem.bytes (m : CoreMem) (xb : Bool) : Mem := if xb then m.xb else m.cs
def CoreMem.ecc (m : CoreMem) (xb : Bool) : Smap Ecc := if xb then m.xbEcc else m.csEcc

/-- The bytes of a span. -/
def CoreMem.read (m : CoreMem) (d : Span) : List Byte := (m.bytes d.xb).readN d.at_ d.len

/-- `n` bytes at a byte address of the core store. -/
def CoreMem.csN (m : CoreMem) (a n : Nat) : List Byte := m.cs.readN a n

/-- Quads of a span whose stored state is `st`. -/
def CoreMem.quads (m : CoreMem) (d : Span) (st : Ecc) : List Nat :=
  ((m.ecc d.xb).filter fun e => e.2 == st && decide (d.at_ < e.1 * 8 + 8 ∧ e.1 * 8 < d.at_ + d.len)).map (·.1)

/-- Give a quad good check bits. -/
def CoreMem.fix (m : CoreMem) (xb : Bool) : List Nat → CoreMem
  | [] => m
  | q :: qs => CoreMem.fix (if xb then { m with xbEcc := m.xbEcc.set Ecc.good q .good } else { m with csEcc := m.csEcc.set Ecc.good q .good }) xb qs

/-- Count corrected errors of a core's memories (11 R260). -/
def State.countCe (s : State) (c : CoreId) (n : Nat) : State := if n = 0 then s else s.countCore c .csCe n

/-- The check of the spans a command reads (11 R259): corrected quads are counted and written back; false where a quad
is uncorrectable. -/
def State.checkSpans (s : State) (c : CoreId) : List Span → Bool × State
  | [] => (true, s)
  | d :: ds =>
    let m := (s.core c).mem
    if !(m.quads d .double).isEmpty then (false, s)
    else
      let ce := m.quads d .single
      State.checkSpans ((s.modMem c fun m => m.fix d.xb ce).countCe c ce.length) c ds

/-- Store bytes, leaving out the quads of `skip`. -/
def Mem.writeSkip (m : Mem) (skip : List Nat) (a : Nat) : List Byte → Mem
  | [] => m
  | b :: bs => Mem.writeSkip (if skip.contains (a / 8) then m else m.write a b) skip (a + 1) bs

/-- A quad lies wholly in a byte range. -/
def quadWhole (a n q : Nat) : Bool := decide (a ≤ q * 8 ∧ q * 8 + 8 ≤ a + n)

/-- Store bytes in a core's memory (11 R259): a whole quad gets fresh check bits, a partly covered quad is merged; false
where such a quad is uncorrectable and stays unwritten. -/
def State.writeCore (s : State) (c : CoreId) (xb : Bool) (a : Nat) (bs : List Byte) : Bool × State :=
  let m := (s.core c).mem
  let d : Span := ⟨xb, a, bs.length⟩
  let bad := (m.quads d .double).filter fun q => !quadWhole a bs.length q
  let ce := (m.quads d .single).filter fun q => !quadWhole a bs.length q
  let fixed := (m.quads d .double).filter (fun q => quadWhole a bs.length q) ++ m.quads d .single
  let s1 := s.modMem c fun m =>
    let m := m.fix xb fixed
    if xb then { m with xb := m.xb.writeSkip bad a bs } else { m with cs := m.cs.writeSkip bad a bs }
  (bad.isEmpty, s1.countCe c ce.length)

/-- Store several runs of bytes in turn, stopping after the first that fails. -/
def State.writeRuns (s : State) (c : CoreId) : List (Bool × Nat × List Byte) → Bool × State
  | [] => (true, s)
  | r :: rs => match s.writeCore c r.1 r.2.1 r.2.2 with
    | (true, s1) => State.writeRuns s1 c rs
    | (false, s1) => (false, s1)

/-- Read a vector register's lane; `g` counts lanes from lane 0 of V0 (05 R91, R103). -/
def CoreMem.lane (m : CoreMem) (g : Nat) : Word := m.vr.get 0#32 g

def CoreMem.setLane (m : CoreMem) (g : Nat) (v : Word) : CoreMem := { m with vr := m.vr.set 0#32 g v }

/-- Store consecutive lanes. -/
def CoreMem.setLanes (m : CoreMem) (g : Nat) : List Word → CoreMem
  | [] => m
  | v :: vs => CoreMem.setLanes (m.setLane g v) (g + 1) vs

end Sys2Proof.Machine
end

