-- ==== Sys2Proof/Machine/Queues.lean ====
section
/-! DEFINITION. The queue manager: sequence numbers, slots, credits, delivery, cancellation and ring records
(10 R219 to R241). -/

namespace Sys2Proof.Machine

def Queue.isCq (q : Queue) : Bool := q.cls == 0
def Queue.isJq (q : Queue) : Bool := q.cls == 1
def Queue.isPf (q : Queue) : Bool := q.cls == 2
def Queue.isRxf (q : Queue) : Bool := q.cls == 3
def Queue.isRxp (q : Queue) : Bool := q.cls == 4

/-- PF, RXF and non-posted RXP queues hold items in slots (R225). -/
def Queue.slotted (q : Queue) : Bool := q.isPf || q.isRxf || (q.isRxp && !q.posted)

/-- Bytes of a ring record (10 Table 10.1). -/
def Queue.recBytes (q : Queue) : Nat := if q.isCq then 32 else 16

/-- The limit of PSEQ - DSEQ (R222). -/
def Queue.limit (q : Queue) : Nat := if q.isCq || q.isJq then q.depth else if q.slotted then q.nbuf else 256

def Queue.pseq (q : Queue) : Nat := q.ppos % 65536
def Queue.cseq (q : Queue) : Nat := q.cpos % 65536
def Queue.dseq (q : Queue) : Nat := q.dpos % 65536

/-- `b` is at or after `a` in 16-bit serial arithmetic (R222). -/
def atOrAfter16 (b a : Nat) : Bool := decide ((b + 65536 - a % 65536) % 65536 < 32768)

/-- How far `b` lies after `a`, modulo 65,536. -/
def ahead16 (b a : Nat) : Nat := (b + 65536 - a % 65536) % 65536

/-- The producer may allocate another item (R222). -/
def Queue.room (q : Queue) : Bool := q.en && decide (q.ppos < q.dpos + q.limit)

/-- A fresh item at position `n`. -/
def Item.fresh (n : Nat) : Item :=
  ⟨n, false, false, false, false, false, 0, 0, none, none, [], none, none, [], none, none, [], [], 0, 0, [], none, [], 0, [], []⟩

/-- The item at a position. -/
def Queue.item (q : Queue) (n : Nat) : Option Item := q.items.find? fun i => i.n == n

/-- Replace the item at its position. -/
def Queue.putItem (q : Queue) (i : Item) : Queue := { q with items := q.items.map fun j => if j.n = i.n then i else j }

/-- Allocate the next item; under an over-the-end skip it is cancelled as it is allocated (R222, R238). -/
def Queue.alloc (q : Queue) (f : Item → Item) : Queue :=
  let i := f (Item.fresh q.ppos)
  { q with ppos := q.ppos + 1, items := q.items ++ [{ i with cancelled := decide (q.ppos < q.dpos) }] }

/-- The slot of position `n` (R225). -/
def Queue.slotOf (q : Queue) (n : Nat) : Nat := if q.nbuf = 0 then 0 else n % q.nbuf

/-- The slot of position `n` is released: item n - NBUF is no longer held (R225). -/
def Queue.slotFree (q : Queue) (n : Nat) : Bool := decide (n < q.nbuf) || (q.item (n - q.nbuf)).isNone

/-- An item is released (R225): passed, and cancelled or RLAG behind the last delivery. -/
def Queue.released (q : Queue) (i : Item) : Bool :=
  i.passed && (i.cancelled || (if q.slotted then decide (i.n + q.rlag < q.dpos) else decide (i.n < q.dpos)))

/-- Drop the released items. -/
def Queue.tidy (q : Queue) : Queue := { q with items := q.items.filter fun i => !q.released i }

/-- Slots released since creation, the first NBUF included. -/
def Queue.releasedSlots (q : Queue) : Nat := q.nbuf + (q.ppos - q.items.length)

/-- Byte offset of a slot or record in the queue's area. -/
def Queue.slotOff (q : Queue) (n : Nat) : Nat := q.slotOf n * q.slotb
def Queue.recOff (q : Queue) (n : Nat) : Nat := if q.depth = 0 then 0 else n % q.depth * q.recBytes

/-- Store bytes in the queue's area: in the store of every core of CMASK, or in the partition's HBM (10 Table 10.2).
False where the write did not land (R220). -/
def State.writeQueueCores (s : State) (a : Nat) (bs : List Byte) : List CoreId → Bool × State
  | [] => (true, s)
  | c :: cs => match s.writeCore c false a bs with
    | (ok, s1) => match State.writeQueueCores s1 a bs cs with
      | (ok2, s2) => (ok && ok2, s2)

def Queue.cores (q : Queue) : List CoreId := allCores.filter fun c => q.cmask.getLsbD c.val

def State.writeQueue (s : State) (q : Queue) (off : Nat) (bs : List Byte) : Bool × State :=
  if q.memCs then s.writeQueueCores (q.base.toNat % 2 ^ 20 * 32 + off) bs q.cores
  else s.writeHbm q.part (q.base.toNat + off) bs

/-- The core whose store core `c`, or the queue manager, reads a queue's area in. -/
def Queue.readCore (q : Queue) (c : Option CoreId) : CoreId := match c with
  | some c => if q.cmask.getLsbD c.val then c else q.cores.headD 0
  | none => q.cores.headD 0

/-- The bytes of the queue's area as core `c` or the queue manager sees them. -/
def State.readQueue (s : State) (q : Queue) (c : Option CoreId) (off n : Nat) : List Byte :=
  if q.memCs then (s.core (q.readCore c)).mem.csN (q.base.toNat % 2 ^ 20 * 32 + off) n
  else s.hbm.readVa (s.part q.part) (q.base.toNat + off) n

/-- A checked read of the queue's area: none where a quad or a codeword is uncorrectable (11 R256 to R259). -/
def State.takeQueue (s : State) (q : Queue) (c : Option CoreId) (off n : Nat) : Option (List Byte) × State :=
  if q.memCs then match s.checkSpans (q.readCore c) [⟨false, q.base.toNat % 2 ^ 20 * 32 + off, n⟩] with
    | (true, s1) => (some (s1.readQueue q c off n), s1)
    | (false, s1) => (none, s1)
  else s.readHbm q.part (q.base.toNat + off) n

/-- An item that messages of an all-to-all fill (13 R306): it stays open for its other members' messages. -/
def Item.isA2a (i : Item) : Bool := !i.heard.isEmpty && i.expect.isNone

/-- An item can pass the completion sequence point (R223, R229, R238): a cancelled item once what was issued or is
still to arrive has landed, or the sessions to the senders that are missing have closed; any other once all of it has landed. -/
def Item.ready (i : Item) : Bool :=
  let issued := i.descs.all fun d => !d.issued || d.landed
  if i.cancelled then issued && ((i.msg.isNone && !i.isA2a) || i.full || (i.isA2a && i.missing.all (·.2)))
  else i.closed && i.full && (i.descs.all fun d => d.landed)

/-- Bytes written into an item's slot: what its descriptors have landed, or what arrived (R227). -/
def Item.written (i : Item) : Nat :=
  if i.descs.isEmpty then i.bytes else ((i.descs.filter fun d => d.landed).map (·.len)).sum

/-- Post one record to a CQ or JQ ring: false without room. The item passes the completion sequence point at once
(R226, R228). The second result tells whether the write landed. -/
def State.postRecord (s : State) (qid : Qid) (bytes : Nat → Bool → List Byte) : Bool × Bool × State :=
  match s.queue qid with
  | none => (false, true, s)
  | some q =>
    if q.room then
      let n := q.ppos
      let phase := decide ((if q.depth = 0 then 0 else n / q.depth) % 2 = 0)
      let w := s.writeQueue q (q.recOff n) (bytes (n % 65536) phase)
      if w.1 then
        let t := s.aon.time
        let q1 := q.alloc fun i => { i with closed := true, full := true, passed := true, bytes := q.recBytes, ts := t }
        (true, true, w.2.setQueue qid { q1 with cpos := q1.cpos + 1, lastTs := t }.tidy)
      else (true, false, w.2)
    else (false, true, s)

/-- Whether a record can be posted now. -/
def State.hasRoom (s : State) (qid : Qid) : Bool := match s.queue qid with
  | some q => q.room
  | none => true

/-! ### Delivery (R224) -/

/-- What a WAITQ finds: the queue after it, the position delivered under COND 1, and the timestamp to latch. -/
structure Delivery where
  q : Queue
  pos : Option Nat
  ts : BitVec 64
  deriving DecidableEq, Repr

/-- COND 0 is satisfied when CSEQ is at or after SEQ. -/
def Queue.waitSeq (q : Queue) (seq : Nat) : Option Delivery :=
  if atOrAfter16 q.cseq seq then
    let k := ahead16 seq q.dseq
    some ⟨(if k < 32768 then { q with dpos := q.dpos + k } else q).tidy, none, q.lastTs⟩
  else none

/-- The oldest item not yet delivered that has passed and is not cancelled. -/
def Queue.pendingItem (q : Queue) : Option Item :=
  q.items.find? fun i => i.passed && !i.cancelled && decide (q.dpos ≤ i.n ∧ i.n < q.cpos)

/-- COND 1 delivers the oldest pending item, passing first over cancelled ones. -/
def Queue.waitItem (q : Queue) : Option Delivery :=
  match q.pendingItem with
  | some i => some ⟨({ q with dpos := i.n + 1 }).tidy, some i.n, i.ts⟩
  | none => none

/-- Where nothing is left to deliver, whoever takes the next item passes over the cancelled items that have passed (R224). -/
def State.passOver (s : State) (qid : Qid) : State := match s.queue qid with
  | some q => if q.dpos < q.cpos then s.setQueue qid ({ q with dpos := q.cpos }).tidy else s
  | none => s

/-! ### Cancellation (R238) -/

/-- Cancel one item: unissued descriptors are discarded, and their bytes are never written (R227, R238); the counts are (unissued,
issued). -/
def Item.cancel (i : Item) : Item × Nat × Nat :=
  let un := (i.descs.filter fun d => !d.issued).length
  let iss := (i.descs.filter fun d => d.issued).length
  ({ i with cancelled := true, closed := i.closed || !i.isA2a, bytes := if i.descs.isEmpty then i.bytes else 0, descs := i.descs.filter fun d => d.issued }, un, iss)

/-- Cancel every item that has not passed and that `sel` names; the counts of descriptors follow, then how many. -/
def Queue.cancelWhere (q : Queue) (sel : Item → Bool) : Queue × Nat × Nat × Nat :=
  let hit := q.items.filter fun i => !i.passed && !i.cancelled && sel i
  let un := (hit.map fun i => i.cancel.2.1).sum
  let iss := (hit.map fun i => i.cancel.2.2).sum
  let openHit := hit.any fun i => !i.closed && q.isPf
  ({ q with
      items := q.items.map fun i => if !i.passed && !i.cancelled && sel i then i.cancel.1 else i
      drainOpen := q.drainOpen || openHit
      asmDrop := match hit.find? fun i => !i.closed && i.asmItem.isSome with
        | some i => i.asmItem
        | none => q.asmDrop }, un, iss, hit.length)

/-- Cancel items of a queue and count the descriptors on its partition. -/
def State.cancelItems (s : State) (qid : Qid) (sel : Item → Bool) : State :=
  match s.queue qid with
  | none => s
  | some q =>
    let r := q.cancelWhere sel
    ((s.setQueue qid r.1).countPart q.part .pfCancelUnissued r.2.1).countPart q.part .pfCancelIssued r.2.2.1

/-- The numbers of the queues that exist. -/
def State.qids (s : State) : List Qid := s.eng.queues.map fun e => BitVec.ofNat 20 e.1

/-- Apply an operation to every queue in turn. -/
def State.overQueues (s : State) (f : Qid → State → State) : List Qid → State
  | [] => s
  | q :: qs => State.overQueues (f q s) f qs

/-! ### Credits (R240, 13 R295, R306) -/

/-- A slot can be promised to another point-to-point sender. -/
def Queue.canGrant (q : Queue) : Bool := q.en && decide (q.grants < q.releasedSlots)

/-- A slot can be promised to an all-to-all source. -/
def Queue.canGrantA2a (q : Queue) (sess : Nat) : Bool := q.en && decide (q.a2aGrants.get 0 sess < q.releasedSlots)

/-- Mailbox queues 0xF_FFF0 to 0xF_FFFF (14 R326). -/
def isMbQueue (q : Qid) : Bool := decide (0xFFFF0 ≤ q.toNat)

end Sys2Proof.Machine
end

