-- ==== Sys2Proof/Machine/Operands.lean ====
section
/-! DEFINITION. The operand forms of the commands: tile shapes and images (04 R67 to R84), rows, scale planes and G8
images (02 R27, R423, R424), the long accumulator (03 R46 to R58), and footprints (05 Table 5.26). -/

namespace Sys2Proof.Machine

/-! ### Rate classes and forms (04 Tables 4.1, 4.2) -/

/-- DPU length L of an operand pair (04 Table 4.1). -/
def rateL (a w : Fmt) : Nat :=
  if a == .b32 || w == .b32 then 1
  else if a.isLong || w.isLong then 8
  else if a == .f4 && w == .f4 then 64
  else 32

/-- N of a form; a reserved code has none (04 Table 4.2). -/
def formN (form : BitVec 2) : Option Nat :=
  match form.toNat with
  | 0 => some 32
  | 1 => some 128
  | 2 => some 1024
  | _ => none

/-- The largest ROWS of a form. -/
def formRows (n : Nat) : Nat := 32768 / n

/-- K of a form and class: K × N is 1,024 L (04 R69). -/
def formK (n l : Nat) : Nat := 1024 * l / n

/-- Tiles of a region (04 R70). -/
def regionTiles (rows n : Nat) : Nat := ceilDiv (rows * n) 1024

/-! ### Tile images (04 R74, R79 to R84) -/

/-- A tile shape: form, formats, sparsity and block scales. -/
structure Shape where
  n : Nat
  k : Nat
  wfmt : Fmt
  sparse : Bool
  wbs : Bool
  deriving DecidableEq, Repr

/-- Logical elements of a column: 2K under 2-of-4 sparsity (04 R79). -/
def Shape.kl (h : Shape) : Nat := if h.sparse then 2 * h.k else h.k

/-- Logical K of a skip block (04 R82). -/
def Shape.g (h : Shape) : Nat := if h.kl / 32 * (h.n / 32) ≤ 64 then 32 else 64

/-- Skip blocks of a tile; none where K < 32 (04 R82). -/
def Shape.blocks (h : Shape) : Nat := if h.kl < 32 then 0 else h.kl / h.g * (h.n / 32)

/-- The skip block of logical element `k` of column `n` (04 R82). -/
def Shape.block (h : Shape) (k n : Nat) : Nat := n / 32 * (h.kl / h.g) + k / h.g

/-- A mask with a bit at or above the block count is invalid (04 R83, R84). -/
def Shape.maskOk (h : Shape) (m : BitVec 64) : Bool := decide (m.toNat < 2 ^ h.blocks)

/-- Block `b` is skipped by a mask. -/
def maskBit (m : Nat) (b : Nat) : Bool := m.testBit b

/-- Number of clear bits of a mask below bit `b`. -/
def clearBelow (m : Nat) : Nat → Nat
  | 0 => 0
  | b + 1 => clearBelow m b + (if m.testBit b then 0 else 1)

/-- Stored elements of a whole image or, with BSKIP non-zero, of its present blocks (04 R83). -/
def Shape.stored (h : Shape) (m : Nat) : Nat :=
  if m = 0 then h.k * h.n else clearBelow m h.blocks * (if h.sparse then h.g / 2 else h.g) * 32

/-- Byte lengths of ELEM, META and BSC, each rounded up to a line (04 R74). -/
def Shape.eb (h : Shape) (m : Nat) : Nat := roundUp (ceilDiv (h.stored m * h.wfmt.bits) 8) 32
def Shape.mbLen (h : Shape) (m : Nat) : Nat := if h.sparse then roundUp (ceilDiv (h.stored m * 2) 8) 32 else 0
def Shape.sb (h : Shape) (m : Nat) : Nat :=
  if h.wbs then roundUp (if m = 0 then h.kl / 32 * h.n else clearBelow m h.blocks * (h.g / 32) * 32) 32 else 0
def Shape.imageBytes (h : Shape) (m : Nat) : Nat := h.eb m + h.mbLen m + h.sb m

/-- Place in the ELEM run of kept element `i` of column `n`, whose logical index lies in block `b` (04 R74, R83). -/
def Shape.elemAt (h : Shape) (m i n b : Nat) : Nat :=
  if m = 0 then n * h.k + i
  else
    let gs := if h.sparse then h.g / 2 else h.g
    clearBelow m b * (gs * 32) + n % 32 * gs + i % gs

/-- Place in the BSC run of the scale of logical element `k` of column `n`. -/
def Shape.scaleAt (h : Shape) (m k n b : Nat) : Nat :=
  if m = 0 then n * (h.kl / 32) + k / 32
  else clearBelow m b * (h.g / 32 * 32) + n % 32 * (h.g / 32) + k / 32 % (h.g / 32)

/-- A tile as the array holds it: its shape, the mask it was stored under, and the three runs as numbers. -/
structure Tile where
  shape : Shape
  mask : Nat
  elem : Nat
  pos : Nat
  bsc : Nat
  deriving DecidableEq, Repr

/-- Code of `w` bits at place `i` of a packed run. -/
def codeAt (v w i : Nat) : Nat := (v >>> (w * i)) % 2 ^ w

/-- One term of a column: logical index, weight and weight E8. -/
structure WTerm where
  k : Nat
  w : Ext
  e8 : Nat
  deriving DecidableEq, Repr

/-- The kept group position of stored element `i` of column `n` in block `b` (04 R80). -/
def Tile.posOf (t : Tile) (i n b : Nat) : Nat := codeAt t.pos 2 (t.shape.elemAt t.mask i n b)

/-- The block that stored element `i` of column `n` lies in: groups of four logical elements never cross a block. -/
def Tile.blockOf (t : Tile) (i n : Nat) : Nat := t.shape.block (if t.shape.sparse then 4 * (i / 2) else i) n

/-- The weight terms of column `n` that the mask `skip` leaves, in element order. -/
def Tile.column (t : Tile) (skip n : Nat) : List WTerm :=
  (List.range t.shape.k).filterMap fun i =>
    let b := t.blockOf i n
    if (t.shape.blocks ≠ 0) ∧ (maskBit skip b ∨ maskBit t.mask b) then none
    else
      let k := if t.shape.sparse then 4 * (i / 2) + t.posOf i n b else i
      let e8 := if t.shape.wbs then codeAt t.bsc 8 (t.shape.scaleAt t.mask k n b) else 127
      some ⟨k, t.shape.wfmt.decode (codeAt t.elem t.shape.wfmt.bits (t.shape.elemAt t.mask i n b)), e8⟩

/-- Every group of a present block has p0 < p1 (04 R80, R81). -/
def Tile.sparseOk (t : Tile) : Bool :=
  (List.range t.shape.n).all fun n => (List.range (t.shape.k / 2)).all fun g =>
    let b := t.blockOf (2 * g) n
    (t.shape.blocks ≠ 0 && maskBit t.mask b) || decide (t.posOf (2 * g) n b < t.posOf (2 * g + 1) n b)

/-! ### Rows, scale planes and G8 images (02 R27, R423, R424) -/

/-- Bytes and lines of a packed row of `n` elements. -/
def rowBytes (f : Fmt) (n : Nat) : Nat := ceilDiv (f.bits * n) 8
def rowLines (f : Fmt) (n : Nat) : Nat := ceilDiv (rowBytes f n) 32

/-- Lines of one row of a scale plane with `s` scales (02 R424). -/
def planeLines (s : Nat) : Nat := ceilDiv s 32

/-- Element codes of a row of `n` elements from a byte address. -/
def CoreMem.rowCodes (m : CoreMem) (xb : Bool) (f : Fmt) (line n : Nat) : List Nat :=
  unpack f.bits n (m.read ⟨xb, line * 32, rowBytes f n⟩)

/-- E8 scales of a plane row: `s` scales from a line. -/
def CoreMem.scales (m : CoreMem) (xb : Bool) (line s : Nat) : List Nat :=
  (m.read ⟨xb, line * 32, s⟩).map (·.toNat)

/-- Byte address of the scale of block `q` of a G8 image at line `p` (02 R423). -/
def g8ScaleAt (p q : Nat) : Nat := (p + 33 * (q / 32)) * 32 + q % 32

/-- Byte address of the element line of block `q`. -/
def g8ElemAt (p q : Nat) : Nat := (p + 33 * (q / 32) + 1 + q % 32) * 32

/-- Super-blocks of a G8 image of `n` elements (02 R32). -/
def superBlocks (n : Nat) : Nat := ceilDiv n 1024

/-! ### The long accumulator (03 R46 to R58) -/

/-- A sum in units of the window's last place: a class of Table 3.1 and, when finite, a value. -/
structure Sum where
  cls : Nat
  v : Int
  deriving DecidableEq, Repr

def Sum.zero : Sum := ⟨0, 0⟩

/-- Combination of Table 3.3. -/
def Sum.plus (a b : Sum) : Sum :=
  if a.cls = 0 ∧ b.cls = 0 then ⟨0, a.v + b.v⟩
  else if a.cls = 0 then ⟨b.cls, 0⟩
  else if b.cls = 0 then ⟨a.cls, 0⟩
  else if a.cls = b.cls then ⟨a.cls, 0⟩
  else ⟨3, 0⟩

/-- The finite range of an entry, in units of its last place (03 R46). -/
def inWindow (v : Int) : Bool := decide (-(2 ^ 127 : Int) ≤ v ∧ v < 2 ^ 127)

/-- Infinity of a sign as a class. -/
def infCls (neg : Bool) : Nat := if neg then 2 else 1

/-- Place an exact product in a window of offset `ofs` (03 R50, R53): the placed value and its ACC_FLAGS. -/
def place (ofs : Int) (scaled : Bool) (x : Ext) : Sum × Nat :=
  match x with
  | .nan => (⟨3, 0⟩, 0)
  | .inf s => (⟨infCls s, 0⟩, 0)
  | .fin s m e =>
    let sh := e - (ofs - 48)
    let k := (-sh).toNat
    let cut := decide (sh < 0) && decide (m % 2 ^ k ≠ 0)
    let mag : Nat := if 0 ≤ sh then m <<< sh.toNat else if cut then m >>> k ||| 1 else m >>> k
    let v : Int := if s then -(mag : Int) else mag
    if inWindow v then (⟨0, v⟩, (if cut then afInexact else 0) ||| (if cut && scaled then afScaleRange else 0))
    else (⟨infCls s, 0⟩, afOverflow ||| (if scaled then afScaleRange else 0))

/-- Sum of placed terms and the OR of their flags. -/
def placeAll (ofs : Int) (scaled : Bool) (xs : List Ext) : Sum × Nat :=
  xs.foldl (fun a x => let p := place ofs scaled x; (a.1.plus p.1, a.2 ||| p.2)) (Sum.zero, 0)

/-- An entry as a sum. -/
def AccEntry.sum (e : AccEntry) : Sum := ⟨e.cls.toNat, if e.cls = 0 then e.value.toInt else 0⟩

/-- The range test of 03 R56 and the entry written, with AF_OVERFLOW and AF_NAN. -/
def Sum.entry (a : Sum) : AccEntry × Nat :=
  if a.cls = 0 then
    if inWindow a.v then (⟨BitVec.ofInt 128 a.v, 0, false⟩, 0)
    else (⟨0, BitVec.ofNat 2 (infCls (decide (a.v < 0))), false⟩, afOverflow)
  else (⟨0, BitVec.ofNat 2 a.cls, false⟩, if a.cls = 3 then afNan else 0)

/-- One update of an entry (03 R56): ACC = 0 replaces it, ACC = 1 adds. -/
def AccEntry.update (acc : Bool) (old : AccEntry) (u : Sum) : AccEntry × Nat := (if acc then old.sum.plus u else u).entry

/-- The value of an entry in a tile of offset `ofs`, exact (03 R46, R47). -/
def AccEntry.exact (ofs : Int) (e : AccEntry) : Ext :=
  match e.cls.toNat with
  | 0 => .fin (decide (e.value.toInt < 0)) e.value.toInt.natAbs (ofs - 48)
  | 1 => .inf false
  | 2 => .inf true
  | _ => .nan

/-- Key of an accumulator entry: array, tile, entry. -/
def accKey (a t i : Nat) : Nat := (a * 32 + t) * 1024 + i

/-- Key of a tile and of a weight bank. -/
def tileKey (a t : Nat) : Nat := a * 32 + t
def bankKey (a b : Nat) : Nat := a * 2 + b

/-- Entry `e` of the region that begins at tile `t` of array `a` (04 R70). -/
def regionKey (a t e : Nat) : Nat := accKey a (t + e / 1024) (e % 1024)

def CoreMem.entry (m : CoreMem) (k : Nat) : AccEntry := m.acc.get AccEntry.zero k
def CoreMem.tileOfs (m : CoreMem) (k : Nat) : BitVec 9 := m.ofs.get 0#9 k
def CoreMem.bank (m : CoreMem) (a b : Nat) : WBank := m.banks.get WBank.empty (bankKey a b)

/-- The arrays a mask names, ascending. -/
def arraysOf (mask : BitVec 4) : List Nat := (List.range 4).filter fun a => mask.getLsbD a

/-! ### Footprints (05 Table 5.26, R115) -/

/-- One resource of a footprint. Lanes are whole registers. -/
inductive Res where
  | span (d : Span)
  | bank (k : Nat)
  | tile (k : Nat)
  | vreg (r : Nat)
  deriving DecidableEq, Repr

def Res.shares : Res → Res → Bool
  | .span d, .span e => d.shares e
  | .bank a, .bank b => a == b
  | .tile a, .tile b => a == b
  | .vreg a, .vreg b => a == b
  | _, _ => false

/-- What a command reads and writes. -/
structure Foot where
  reads : List Res
  writes : List Res
  deriving DecidableEq, Repr

def anyShares (a b : List Res) : Bool := a.any fun x => b.any fun y => x.shares y

/-- Two footprints conflict: write against read, read against write, or write against write (05 R115). -/
def Foot.conflicts (a b : Foot) : Bool := anyShares a.writes b.reads || anyShares a.reads b.writes || anyShares a.writes b.writes

/-- Spans of `rows` rows of `lines` lines at a stride. -/
def rowSpans (xb : Bool) (base stride rows lines : Nat) : List Span :=
  (List.range rows).map fun r => Span.lines xb (base + r * stride) lines

/-- The tiles of a region in every array of a mask. -/
def regionRes (mask : BitVec 4) (tile rows n : Nat) : List Res :=
  (arraysOf mask).flatMap fun a => (List.range (regionTiles rows n)).map fun i => Res.tile (tileKey a (tile + i))

/-- The registers that a vector operand of `len` lanes from register `r` covers. -/
def vregRes (r len : Nat) : List Res := (List.range (ceilDiv len 512)).map fun i => Res.vreg (r + i)

end Sys2Proof.Machine
end

