-- ==== Sys2Proof/Machine/Cmds.lean ====
section
/-! DEFINITION. Commands in flight: their units, queues and footprints (05 Tables 5.5, 5.26, R114, R115), how one
finishes (R118, R119, 10 R235, R237, 07 R140), and how it retires. -/

namespace Sys2Proof.Machine

/-! ### Units (05 Tables 5.5, 5.26) -/

/-- The unit queues of a core. -/
inductive UnitId where
  | array (a : Nat) | epilogue | vector | xpose | router | transfer | update
  deriving DecidableEq, Repr

/-- The queues a command is dispatched to; a command that acts at decode has none. -/
def unitsOf : Line → List UnitId
  | .ldw l => [.array l.arr.toNat]
  | .mma l | .dist l => (arraysOf l.amask).map .array
  | .red _ | .vec _ => [.vector]
  | .epi _ => [.epilogue]
  | .xpose _ => [.xpose]
  | .route _ => [.router]
  | .send _ | .recv _ | .stash _ | .unstash _ => [.transfer]
  | .upd _ => [.update]
  | .fence _ | .waitq _ | .mark _ | .deadline _ | .seed _ | .branch _ | .bad .. => []

/-- Queue depths (05 Table 5.26). -/
def UnitId.depth : UnitId → Nat
  | .xpose => 4
  | .router => 4
  | .transfer => 32
  | _ => 8

end Sys2Proof.Machine

namespace Sys2Proof

open Sys2Proof.Machine

/-! ### Shapes of the lines -/

/-- NEXP of a ROUTE line: 0 means 256 (05 Table 5.14). -/
def RouteLine.experts (l : RouteLine) : Nat := if l.nexp = 0 then 256 else l.nexp.toNat

/-- The 48-bit byte count of R106. -/
def SendLine.count (l : SendLine) : Nat := l.lenhi.toNat * 2 ^ 32 + l.len.toNat
def RecvLine.count (l : RecvLine) : Nat := l.lenhi.toNat * 2 ^ 32 + l.len.toNat

/-- The shape that an LDW's codes give, when they are codes. -/
def ldwShape (l : LdwLine) : Option Shape :=
  match formN l.form, Fmt.ofCode l.wfmt, Fmt.ofCode l.afmt with
  | some n, some w, some a => some ⟨n, formK n (rateL a w), w, l.sparse, l.wbs⟩
  | _, _, _ => none

/-- The shape of one tile of an MMA or DIST; block scales as the stream field gives them. -/
def mmaShape (l : MmaLine) : Option Shape :=
  match formN l.form, Fmt.ofCode l.wfmt, Fmt.ofCode l.afmt with
  | some n, some w, some a => some ⟨n, formK n (rateL a w), w, l.sparse, l.stream && l.swbs⟩
  | _, _, _ => none

/-- Tiles along K that the command applies: T when streamed, else one (04 R78). -/
def MmaLine.tiles (l : MmaLine) : Nat := if l.stream then l.t.toNat else 1

/-- Activation elements per row (04 R75, R78). -/
def MmaLine.rowElems (l : MmaLine) (h : Shape) : Nat := l.tiles * h.kl

/-- The output spans of a conversion into a run of `n` elements from a line: packed rows and scale bytes, or a whole
G8 image (06 R122). -/
def runSpans (f : Fmt) (bscale : Bool) (line n : Nat) : List Span :=
  if f == .g8 then [Span.lines false line (33 * superBlocks n)]
  else
    Span.lines false line (rowLines f n) ::
      (if bscale then [Span.lines false (line + rowLines f n) (planeLines (ceilDiv n 32))] else [])

/-- Blocks of a G8 output row of array `a`, row `m` (05 R102). -/
def EpiLine.block (l : EpiLine) (a m c : Nat) : Nat := l.gofs.toNat + a * l.oastr.toNat + m * l.orstr.toNat + c

/-- The scale byte and element line of every block an EPI with G8 output touches in the image at line `p`. -/
def EpiLine.g8Spans (l : EpiLine) (n p : Nat) : List Span :=
  (arraysOf l.amask).flatMap fun a => (List.range l.rows.toNat).flatMap fun m => (List.range (n / 32)).flatMap fun c =>
    [⟨false, g8ScaleAt p (l.block a m c), 1⟩, ⟨false, g8ElemAt p (l.block a m c), 32⟩]

/-- The output spans of an EPI that writes rows, and its scale planes (05 R102). -/
def EpiLine.rowOut (l : EpiLine) (f : Fmt) (bscale : Bool) (n : Nat) : List Span :=
  (arraysOf l.amask).flatMap fun a =>
    rowSpans false (l.dst.toNat + a * l.oastr.toNat) l.orstr.toNat l.rows.toNat (rowLines f n) ++
      (if bscale then
        rowSpans false (l.dst.toNat + a * l.oastr.toNat + l.rows.toNat * l.orstr.toNat) (planeLines (n / 32)) l.rows.toNat
          (planeLines (n / 32))
       else [])

/-- The bias elements that array `a` takes (05 R102). -/
def EpiLine.biasSpan (l : EpiLine) (n a : Nat) : Span := ⟨false, l.bias.toNat * 32 + 4 * (a * n), 4 * n⟩

/-- Operations of 06 Table 6.1 that read S2. -/
def vopUsesS2 (v : Nat) : Bool := v == 2 || v == 3 || v == 4 || v == 5 || v == 6 || v == 0x0B || v == 0x31 || v == 0x32

/-- Operations of 06 Table 6.1 that read S1: all but RAND. -/
def vopUsesS1 (v : Nat) : Bool := v != 0x21

/-- Elements a VEC writes: SUM_ROW writes one (06 R126). -/
def VecLine.outLen (l : VecLine) : Nat := if l.vop = 0x33 then 1 else l.len.toNat

/-- A vector operand as resources. -/
def vecRes (kind : Bool) (addr : BitVec 20) (f : Fmt) (len : Nat) : List Res :=
  if kind then vregRes (addr.toNat % 32) len else [.span (Span.lines false addr.toNat (rowLines f len))]

/-- Source spans and weight spans of an MMA or DIST (04 R70, R75, R78). -/
def MmaLine.rowIn (l : MmaLine) (f : Fmt) (h : Shape) : List Span :=
  rowSpans l.asrc l.aaddr.toNat l.arstr.toNat l.rows.toNat (rowLines f (l.rowElems h)) ++
    (if l.abs then
      rowSpans l.asrc l.asc.toNat (planeLines (l.rowElems h / 32)) l.rows.toNat (planeLines (l.rowElems h / 32))
     else [])

/-- The streamed images of array `a` (04 R78). -/
def MmaLine.imageLine (l : MmaLine) (h : Shape) (a t : Nat) : Nat :=
  l.simg.toNat + a * l.sstr.toNat + t * (h.imageBytes 0 / 32)
def MmaLine.imageSpans (l : MmaLine) (h : Shape) : List Span :=
  if l.stream then
    (arraysOf l.amask).map fun a => Span.lines false (l.imageLine h a 0) (l.t.toNat * (h.imageBytes 0 / 32))
  else []

/-- The bank an MMA or DIST uses on array `a`. -/
def MmaLine.bankOf (l : MmaLine) (a : Nat) : Nat := if l.banksel.getLsbD a then 1 else 0

end Sys2Proof

namespace Sys2Proof.Machine

/-- The footprint of a line (05 Table 5.26); a line that its codes make invalid has none. -/
def footOf : Line → Foot
  | .ldw l => match ldwShape l with
    | some h => ⟨[.span (Span.lines l.wsrc l.img.toNat (h.imageBytes l.bskip.toNat / 32))], [.bank (bankKey l.arr.toNat l.bank.toNat)]⟩
    | none => ⟨[], []⟩
  | .mma l | .dist l => match mmaShape l, Fmt.ofCode l.afmt with
    | some h, some f =>
      ⟨(l.rowIn f h ++ l.imageSpans h).map .span ++
        (if l.stream then [] else (arraysOf l.amask).map fun a => .bank (bankKey a (l.bankOf a))),
       regionRes l.amask l.tile.toNat l.rows.toNat h.n ++
        (if l.stream then (arraysOf l.amask).flatMap fun a => [.bank (bankKey a 0), .bank (bankKey a 1)] else [])⟩
    | _, _ => ⟨[], []⟩
  | .red l => match Fmt.ofCode l.fmt with
    | some f =>
      ⟨(rowSpans false l.src.toNat l.rstr.toNat l.rows.toNat (rowLines f l.len.toNat)).map .span ++
        (if l.bs then
          (rowSpans false l.ssrc.toNat (planeLines (ceilDiv l.len.toNat 32)) l.rows.toNat (planeLines (ceilDiv l.len.toNat 32))).map .span
         else []) ++
        (if l.cont then [.vreg l.vreg.toNat, .vreg (l.vreg.toNat + 1)] else []),
       [.vreg l.vreg.toNat, .vreg (l.vreg.toNat + 1)] ++
        (if l.wb then [.span ⟨false, l.dst.toNat * 32, 8 * l.rows.toNat⟩] else [])⟩
    | none => ⟨[], []⟩
  | .epi l => match formN l.form, Cvt.ofByte l.cvt with
    | some n, some v =>
      let g8 := v.fmt == .g8
      let res := if g8 then l.g8Spans n l.tbl.toNat else []
      ⟨regionRes l.amask l.tile.toNat l.rows.toNat n ++
        ([Span.lines false l.scl.toNat 1] ++
         (if l.biasEn then (arraysOf l.amask).map (l.biasSpan n) else []) ++
         (if l.act = 4 then [Span.lines false l.tbl.toNat 33] else []) ++ res).map .span,
       ((if g8 then l.g8Spans n l.dst.toNat else l.rowOut v.fmt v.bscale n) ++ res).map .span⟩
    | _, _ => ⟨[], []⟩
  | .vec l => match Cvt.ofByte l.cvt with
    | some v =>
      let f := (Fmt.ofCode l.sfmt).getD .b32
      ⟨(if vopUsesS1 l.vop.toNat then vecRes l.s1k l.s1 f l.len.toNat else []) ++
        (if vopUsesS2 l.vop.toNat then vecRes l.s2k l.s2 f l.len.toNat else []),
       if l.dk then vregRes (l.d.toNat % 32) l.outLen else (runSpans v.fmt v.bscale l.d.toNat l.outLen).map .span⟩
    | none => ⟨[], []⟩
  | .xpose l => match Fmt.ofCode l.fmt with
    | some f =>
      ⟨(rowSpans false l.src.toNat l.srstr.toNat l.rows.toNat (rowLines f l.cols.toNat)).map .span ++
        (if l.sq then [.span (Span.lines false l.ssc.toNat (l.rows.toNat / 32 * planeLines (l.cols.toNat / 32)))] else []),
       .span (Span.lines true l.dst.toNat (l.cols.toNat * rowLines f l.rows.toNat)) ::
        (if l.sq then [.span (Span.lines true l.dsc.toNat l.cols.toNat)] else [])⟩
    | none => ⟨[], []⟩
  | .route l =>
    if l.rfn = 0 then
      ⟨[.span (Span.lines false l.src.toNat (l.tokens.toNat * ceilDiv l.experts 8))],
       [.span (Span.lines false l.dst.toNat (2 + ceilDiv l.experts 2))]⟩
    else ⟨[], []⟩
  | .send l => ⟨if l.smem then [] else [.span ⟨false, (l.saddr.toNat % 2 ^ 20) * 32, l.count⟩], []⟩
  | .stash l => ⟨[.span ⟨false, l.csa.toNat * 32, l.len.toNat⟩], []⟩
  | .recv l => ⟨[], if l.dmem then [] else [.span ⟨false, (l.daddr.toNat % 2 ^ 20) * 32, l.count⟩]⟩
  | .unstash l => ⟨[], [.span ⟨false, l.csa.toNat * 32, l.len.toNat⟩]⟩
  | .branch l => ⟨if l.kind = 5 then [.span (Span.lines false l.laddr.toNat 1)] else [], []⟩
  | .upd _ | .fence _ | .waitq _ | .mark _ | .deadline _ | .seed _ | .bad .. => ⟨[], []⟩

/-! ### Slots -/

def CmdStage.isDone : CmdStage → Bool
  | .done _ => true
  | _ => false

/-- A slot by its token. -/
def Core.slot (k : Core) (tok : Nat) : Option InFlight := k.ctl.slots.find? fun x => x.token == tok

/-- Change the slot of a token. -/
def State.modSlot (s : State) (c : CoreId) (tok : Nat) (f : InFlight → InFlight) : State :=
  s.modCtl c fun t => { t with slots := t.slots.map fun x => if x.token = tok then f x else x }

/-- Mark a command as started (05 R114). -/
def State.startSlot (s : State) (c : CoreId) (tok : Nat) : State := s.modSlot c tok fun x => { x with stage := .started }

/-- The deadline of a command has passed (10 R235). -/
def InFlight.missed (x : InFlight) (now : Nat) : Bool := match x.deadline with
  | some d => decide (d.at_.toNat < now)
  | none => false

/-- The queue of a deadline, when it is one of the command's partition (R111; log 43 for any other QID). -/
def State.deadlineQueue (s : State) (p : PartId) (d : DeadlineReg) : Option Queue := match s.queue d.qid with
  | some q => if q.part = p then some q else none
  | none => none

/-- The policy of the DEADLINE's queue: late (true) or skip (10 R235). -/
def State.latePolicy (s : State) (p : PartId) (x : InFlight) : Bool := match x.deadline with
  | some d => (match s.deadlineQueue p d with
    | some q => q.late
    | none => false)
  | none => false

/-- Compare a reported miss with the queue's last counted deadline (10 R237). -/
def State.countMiss (s : State) (p : PartId) (d : DeadlineReg) : State :=
  match s.deadlineQueue p d with
  | none => s
  | some q =>
    if q.lastMissDl.toNat < d.at_.toNat then s.setQueue d.qid { q with dlMiss := satAdd 32 q.dlMiss 1, lastMissDl := d.at_ }
    else s

/-- HALT_ERR with any status but ST_OK, or a status of class H, halts the stream (05 R95). -/
def haltsStream (l : Line) (st : BitVec 16) : Bool := st != stOk && ((lineHdr l).haltErr || statusHalts st)

/-- The command of a slot has finished: status, flags, lateness and counters (05 R118, R119, 03 R59, 10 R235, R237). -/
def State.finishSlot (s : State) (c : CoreId) (tok : Nat) (r : Report) : State :=
  match (s.core c).slot tok with
  | none => s
  | some x =>
    if x.stage.isDone then s
    else
      let late := x.missed s.now
      let info1 := match x.deadline with
        | some d => if late then s.now - d.at_.toNat else r.info1
        | none => r.info1
      let s1 := s.modSlot c tok fun x => { x with
        stage := .done (s.core c).ctl.finCount, status := r.status, acc := BitVec.ofNat 8 r.acc, cvt := BitVec.ofNat 8 r.cvt,
        info0 := BitVec.ofNat 32 r.info0, info1 := BitVec.ofNat 64 info1, time := s.aon.time, late := late }
      let s2 := s1.modCtl c fun t => { t with
        finCount := t.finCount + 1
        stream := if t.stream = .running ∧ haltsStream x.line r.status = true then .halted else t.stream }
      let s3 := match (s.core c).part with
        | none => s2
        | some p =>
          let a := s2.countStatus p r.status
          let b := if r.acc.testBit 3 then a.countPart p .scaleRange 1 else a
          if r.acc.testBit 1 then b.countPart p .accOverflow 1 else b
      match x.deadline, (s.core c).part with
      | some d, some p => if late then s3.countMiss p d else s3
      | _, _ => s3

/-- A round with the key of a ROUTE slot that is open (07 R138, R140). -/
def Round.matches (r : Round) (p : PartId) (l : RouteLine) (m : MarkReg) : Bool :=
  r.part == p && r.ptab == l.ptab && r.layer == l.layer && r.mb == m.mb && r.phase == m.phase && !r.admitted && !r.ended

/-- Finish every member of a round with one report. -/
def State.finishMembers (s : State) (rep : Report) : List RoundMember → State
  | [] => s
  | m :: ms => State.finishMembers (s.finishSlot m.core m.token rep) rep ms

/-- End an open round without dispatch (07 R140). -/
def State.endRound (s : State) (p : PartId) (l : RouteLine) (m : MarkReg) (rep : Report) : State :=
  match s.eng.rounds.find? fun r => r.matches p l m with
  | none => s
  | some r =>
    (s.modEng fun e => { e with rounds := e.rounds.map fun q => if q.matches p l m then { q with ended := true } else q }).finishMembers
      rep r.members

/-- The statuses of 07 R140 that end a round. -/
def endsRound (st : BitVec 16) : Bool := st == stCancelled || st == stBadField || st == stBadAddress || st == stDeadlineMissed

/-- The posted item of a RECV that ends before its message is whole is cancelled (10 R238). -/
def Queue.withdraw (q : Queue) (who : CoreId × Nat) : Queue :=
  { q with items := q.items.map fun i =>
      if i.recv == some who && !i.full && !i.passed then { i with cancelled := true, closed := true } else i }

/-- Take back what a RECV posted. -/
def State.withdraw (s : State) (c : CoreId) (tok : Nat) : State :=
  s.modEng fun e => { e with queues := e.queues.map fun q => (q.1, q.2.map fun x => x.withdraw (c, tok)) }

/-- A slot is a member of a round that has not been admitted. -/
def State.inOpenRound (s : State) (c : CoreId) (tok : Nat) : Bool :=
  s.eng.rounds.any fun r => !r.admitted && !r.ended && r.members.any fun m => m.core == c && m.token == tok

/-- A command finishes; an RFN 0 that finishes without having been routed ends the open round of its key, unless it has started and
joined none, as a REUSE (07 R140). -/
def State.finishCmd (s : State) (c : CoreId) (tok : Nat) (r : Report) : State :=
  let s1 := s.finishSlot c tok r
  match (s.core c).slot tok, (s.core c).part with
  | some x, some p => match x.line with
    | .route l => if l.rfn = 0 ∧ endsRound r.status = true ∧ (x.stage = .waiting ∨ s.inOpenRound c tok = true) then s1.endRound p l x.mark r else s1
    | .recv _ => if r.status = stOk then s1 else s1.withdraw c tok
    | _ => s1
  | _, _ => s1

/-- Finish several commands of a core with one report. -/
def State.finishAll (s : State) (c : CoreId) (r : Report) : List Nat → State
  | [] => s
  | t :: ts => State.finishAll (s.finishCmd c t r) c r ts

/-- Tokens of a core's commands that have not started. -/
def Core.unstarted (k : Core) : List Nat := (k.ctl.slots.filter fun x => x.stage == .waiting).map (·.token)

/-- A held decode-only command becomes a slot of its own, as not started (05 R119). -/
def State.dropHold (s : State) (c : CoreId) : State :=
  s.modCtl c fun t => match t.hold with
    | some h => { t with hold := none, slots := t.slots ++ [{ h.1 with stage := .waiting }] }
    | none => t

/-- Complete every command of a core that has not started with ST_CANCELLED (05 R119). -/
def State.cancelUnstarted (s : State) (c : CoreId) : State :=
  let s1 := s.dropHold c
  s1.finishAll c (Report.bad stCancelled 0) (s1.core c).unstarted

/-! ### Retirement (05 R118) -/

/-- The finished command of a list that finished first. -/
def firstDone (xs : List InFlight) : Option InFlight :=
  xs.foldl (fun a x => match x.stage, a with
    | .done n, some y => (match y.stage with
      | .done m => if n < m then some x else a
      | _ => some x)
    | .done _, none => some x
    | _, _ => a) none

/-- The finished command of a core that finished first. -/
def Core.oldestDone (k : Core) : Option InFlight := firstDone k.ctl.slots

/-- A record is due when CQE = 1 or the status is not ST_OK. -/
def InFlight.recordDue (x : InFlight) : Bool := (lineHdr x.line).cqe || x.status != stOk

/-- The descriptor of a queue is in the queue manager's cache, or there is none to fetch (10 R221). -/
def State.cached (s : State) (q : Qid) : Bool := s.eng.qcache.contains q || (s.queue q).isNone

/-- An operation waits for the descriptor of its queue; a copy of one that waits already is dropped (10 R221, log 44). -/
def State.hold (s : State) (h : Missed) : State :=
  if s.eng.held.contains h then s else s.modEng fun e => { e with held := e.held ++ [h] }

/-- A finished command holds its slot: its record is due and its completion queue is full, or its descriptor is still to be
fetched (R118, 10 R221). -/
def State.heldByCq (s : State) (c : CoreId) (x : InFlight) : Bool :=
  x.recordDue && (match s.queue (s.core c).ctl.cq with
    | some q => !q.room || !s.cached (s.core c).ctl.cq
    | none => false)

/-- The finished command that retires next: the one that finished first, for records appear in completion order; where that one
holds its slot, the first that needs no record (R118). -/
def State.retiring (s : State) (c : CoreId) : Option InFlight :=
  match (s.core c).oldestDone with
  | some x => if s.heldByCq c x then firstDone ((s.core c).ctl.slots.filter fun y => !y.recordDue) else some x
  | none => none

/-- The completion record of a slot (05 Table 5.28). -/
def InFlight.record (x : InFlight) (c : CoreId) (p : PartId) (seq : Nat) (phase : Bool) : List Byte :=
  recordBytes (lineHdr x.line).tag.toNat (lineOpcode x.line).toNat (originByte c.val p.val) x.status.toNat x.acc.toNat
    x.cvt.toNat seq ((if phase then 1 else 0) + (if x.late then 2 else 0)) x.info0.toNat x.time.toNat x.info1.toNat

/-- Free a slot, and go IDLE after END (05 Table 5.3). -/
def CoreCtl.retire (t : CoreCtl) (x : InFlight) : CoreCtl :=
  let slots := t.slots.filter fun y => y.token != x.token
  let idle := t.ending && slots.isEmpty && t.stream == .running
  { t with slots := slots, stream := if idle then .idle else t.stream, ending := t.ending && !idle }

/-- Free the contexts of rounds whose members have all retired (07 R139). -/
def State.freeRounds (s : State) : State :=
  s.modEng fun e => { e with rounds := e.rounds.filter fun r =>
    !(r.admitted || r.ended) || r.members.any fun m => ((s.core m.core).slot m.token).isSome }

end Sys2Proof.Machine
end

