-- ==== Sys2Proof/Machine/Transport.lean ====
section
/-! DEFINITION. The transport (13 R289 to R296): packets onto ports, sessions, the send window, acknowledgement and
retransmission, and how a transfer that waits for acknowledgements finishes. -/

namespace Sys2Proof.Machine

/-! ### What runs, and the wake from S1 and S2 (15 R351, 16 R374, R375) -/

/-- The ports, the engines behind them and what they bring run: their islands run and the module is neither asleep below S2 nor
quiesced (15 R351, 16 R374, 17 R399). -/
def State.portsRun (s : State) : Bool :=
  decide (6 ≤ s.aon.group) && (match s.aon.mstate with
    | .s3 | .s4 | .quiesced => false
    | _ => true)

/-- What a core keeps across S2 and S3: its retention banks CSB0 to CSB7. -/
def CoreMem.retain (m : CoreMem) : CoreMem :=
  { CoreMem.reset with
    cs := m.cs.filter fun e => decide (e.1 < 0x20000 * 32)
    csEcc := m.csEcc.filter fun e => decide (e.1 < 0x20000 * 4) }

/-- Clear the cores on wake from S2 or S3 (11 R263). -/
def State.clearWoken (s : State) : State := { s with cores := s.cores.map fun k => { k with mem := k.mem.retain } }

/-- Log EV_WAKE with the state left. -/
def State.logWake (s : State) (st : MState) : State := s.logEvent evWake 53 srcNone (bytesLE 1 st.code)

/-- Back to READY. -/
def State.readied (s : State) : State := s.modAon fun a => { a with mstate := .ready }

/-- A request, packet or frame of 16 Table 16.4 wakes the module from S1 or S2; in any other state nothing happens. -/
def State.wakeShallow (s : State) : State := match s.aon.mstate with
  | .s1 => s.readied.logWake .s1
  | .s2 => s.clearWoken.readied.logWake .s2
  | _ => s

/-! ### Packet types (13 Table 13.2) -/

def tyData : BitVec 4 := 1
def tyAck : BitVec 4 := 2
def tyKeepalive : BitVec 4 := 3
def tyOpen : BitVec 4 := 4
def tyOpenAck : BitVec 4 := 5
def tyClose : BitVec 4 := 6
def tyCredit : BitVec 4 := 7
def tyNotice : BitVec 4 := 8

/-- Types that take a PSN and are delivered exactly once. -/
def reliable (t : BitVec 4) : Bool := t == tyData || (decide (4 ≤ t.toNat) && decide (t.toNat ≤ 8))

/-- Reserved types. -/
def typeReserved (t : BitVec 4) : Bool := t == 0 || decide (9 ≤ t.toNat)

/-! ### Ports towards a module -/

/-- The port that leads to module `m`: a direct link to it, else the lowest port up on a switch (13 R311, log 20). -/
def State.portTo (s : State) (m : BitVec 14) : Option PortId :=
  match allPorts.find? fun p => (s.port p).state == .upDirect && (s.port p).peerMid == m with
  | some p => some p
  | none => allPorts.find? fun p => (s.port p).state == .upSwitched

/-- Queue a frame on a sub-port (12 R280). -/
def State.queueFrame (s : State) (p : PortId) (i : SubId) (f : TxFrame) : State :=
  s.modSub p i fun b => { b with txq := b.txq ++ [f] }

/-- The source number of the Regulator and of a port's own frames in the transmit rotation (12 R280, log 27). -/
def srcRegulator : Nat := 32

/-- The scheduler class of a partition's frames (12 R280). -/
def State.txClass (s : State) (p : PartId) : Nat := if s.isRt p then 2 else 4

/-- Hand a packet to the port that leads to its destination; with no such port it is lost, and retransmission covers the
loss. -/
def State.txPkt (s : State) (p : PartId) (k : Pkt) : State :=
  match s.portTo k.dmod with
  | some q => s.queueFrame q 0 ⟨s.txClass p, p.val, .pkt k, 0, false⟩
  | none => s

/-! ### Sessions (13 R291) -/

def State.sessions (s : State) : List (Nat × Session) :=
  s.eng.sessions.filterMap fun e => e.2.map fun d => (e.1, d)

/-- The session of a partition with a peer module. -/
def State.findSess (s : State) (p : PartId) (m : BitVec 14) : Option Nat :=
  ((s.sessions.find? fun e => e.2.part == p && e.2.peer == m && e.2.host.isNone && !e.2.relay)).map (·.1)

/-- The relay session with a module. -/
def State.findRelay (s : State) (m : BitVec 14) : Option Nat :=
  ((s.sessions.find? fun e => e.2.relay && e.2.peer == m)).map (·.1)

/-- HOST of a session's packets: set where one end is a host, and on a relay session (log 33). -/
def Session.hostBit (d : Session) : Bool := d.host.isSome || d.relay

/-- The lowest session index in use by nothing, a CLOSE still to be acknowledged included. -/
def State.freeSess (s : State) : Option Nat :=
  let used := s.sessions.map (·.1) ++ s.eng.closings.map (·.1)
  (List.range (used.length + 1)).find? fun i => !used.contains i && decide (i < 8192)

/-- A packet with every field zero but those of the session's addressing. -/
def State.mkPkt (s : State) (d : Session) (type : BitVec 4) (payload : List Byte) : Pkt where
  ver := 1
  type := type
  tpart := d.part
  host := d.hostBit
  smod := s.moduleId
  dmod := d.peer
  sess := d.peerSess
  psn := 0
  apsn := d.rxNext
  dq := 0
  coll := 0
  ret := false
  cgrp := 0
  fmt := 0
  first := false
  last := false
  acknow := false
  msg := 0
  ofs := 0
  step := 0
  arg := 0
  tcrcOk := true
  payload := payload

/-- Send one packet of a session now, giving a reliable one its PSN. -/
def State.emit (s : State) (i : Nat) (d : Session) (k : Pkt) : State :=
  if reliable k.type then
    let k := { k with psn := d.txPsn, apsn := d.rxNext, sess := if k.type = tyOpen then 0xFFFF else d.peerSess }
    (s.setSess i (some { d with txPsn := d.txPsn + 1, unacked := d.unacked ++ [⟨k, 0, false, false⟩], lastSent := s.aon.time })).txPkt d.part k
  else
    (s.setSess i (some { d with lastSent := s.aon.time })).txPkt d.part { k with apsn := d.rxNext, sess := d.peerSess }

/-- Send waiting packets while fewer than CWND are unacknowledged (R293). `n` bounds the number looked at. -/
def State.pump (s : State) (i : Nat) : Nat → State
  | 0 => s
  | n + 1 => match s.sess i with
    | none => s
    | some d => match d.waiting with
      | [] => s
      | k :: ks =>
        if d.opened && decide (d.unacked.length < d.cwnd) then State.pump (s.emit i { d with waiting := ks } k) i n else s

/-- Queue packets on a session and send what its window allows. -/
def State.send (s : State) (i : Nat) (ks : List Pkt) : State :=
  match s.sess i with
  | none => s
  | some d => (s.setSess i (some { d with waiting := d.waiting ++ ks })).pump i (d.waiting.length + ks.length)

/-- A new session, not yet open (R291): its first PSN is a draw of the random source. -/
def State.newSess (s : State) (p : PartId) (m : BitVec 14) (h : Option (Fin 64)) (relay : Bool) : Option (Nat × Session) × State :=
  match s.freeSess with
  | none => (none, s)
  | some i =>
    let d : Session := ⟨p, m, h, 0xFFFF, false, BitVec.ofNat 32 s.freeVal, 0, [], 64, 0, [], [], 0, s.aon.time, s.aon.time, 0, [], [], [], [], relay, []⟩
    (some (i, d), (s.setSess i (some d)).freeNext)

/-- JOBID of a partition. -/
def State.jobid (s : State) (p : PartId) : BitVec 32 := match (s.part p).cfg with
  | some c => c.jobid
  | none => 0

/-- The payload of OPEN and OPEN_ACK (13 Table 13.2). -/
def openPayload (job : BitVec 32) (i : Nat) : List Byte := padTo 32 (bytesLE 4 job.toNat ++ bytesLE 2 i)

/-- The session of a partition with a peer, opened on first use by OPEN (R291); the same partition number is named at
the peer (log 21). -/
def State.needSess (s : State) (p : PartId) (m : BitVec 14) : Option Nat × State :=
  match s.findSess p m with
  | some i => (some i, s)
  | none => match s.newSess p m none false with
    | (none, s1) => (none, s1)
    | (some (i, d), s1) =>
      let k := { s1.mkPkt d tyOpen (openPayload (s1.jobid p) i) with sess := 0xFFFF }
      (some i, s1.emit i d k)

/-- COLL of the OPEN of a relay session (log 33). -/
def collRelay : BitVec 3 := 5

/-- The relay session with a module, opened on first use by OPEN with HOST = 1; it names no partition and no JOBID (log 33). -/
def State.needRelay (s : State) (m : BitVec 14) : Option Nat × State :=
  match s.findRelay m with
  | some i => (some i, s)
  | none => match s.newSess 0 m none true with
    | (none, s1) => (none, s1)
    | (some (i, d), s1) => (some i, s1.emit i d { s1.mkPkt d tyOpen (openPayload 0 i) with sess := 0xFFFF, coll := collRelay })

/-- Split a message into DATA packets of at most 8,192 bytes, a multiple of 32 each (R289). `n` bounds the packets. -/
def splitMsg (k : Pkt) (ofs : Nat) (bs : List Byte) : Nat → List Pkt
  | 0 => []
  | n + 1 =>
    let last := decide (bs.length ≤ 8192)
    let chunk := bs.take 8192
    let p := { k with first := ofs == 0, last := last, ofs := BitVec.ofNat 32 ofs, payload := padTo (roundUp chunk.length 32) chunk }
    if last then [p] else p :: splitMsg k (ofs + 8192) (bs.drop 8192) n

/-- Send a message on a session: its number is taken from the session and returned. -/
def State.sendMsg (s : State) (i : Nat) (mk : Pkt → Pkt) (bs : List Byte) : BitVec 32 × State :=
  match s.sess i with
  | none => (0, s)
  | some d =>
    let k := mk { s.mkPkt d tyData [] with msg := d.nextMsg }
    (d.nextMsg, (s.setSess i (some { d with nextMsg := d.nextMsg + 1 })).send i (splitMsg k 0 bs (bs.length / 8192 + 1)))

/-- Send the packets of one message that are made from a packet with its message number. -/
def State.sendList (s : State) (i : Nat) (mk : Pkt → List Pkt) : BitVec 32 × State :=
  match s.sess i with
  | none => (0, s)
  | some d => (d.nextMsg, (s.setSess i (some { d with nextMsg := d.nextMsg + 1 })).send i (mk { s.mkPkt d tyData [] with msg := d.nextMsg }))

/-! ### Raw HBM data between modules (13 R296, R310) -/

/-- The header of a packet that carries or asks for raw HBM data: address, length, plan or queue, and kind: 0 a move of a PERMUTE,
1 a read for a KIND 1 descriptor, 2 what the read brings, 3 a checkpoint's copy, 4 a relayed host message, 5 the answer to one. The
spec gives no form for it (log 23, 33). -/
def permHeader (va len : Nat) (tag : BitVec 32) (kind : Nat) : List Byte :=
  padTo 32 (bytesLE 8 va ++ bytesLE 4 len ++ bytesLE 4 tag.toNat ++ bytesLE 1 kind)

/-- The packets that carry raw data to an address, each with its header. -/
def permPackets (k : Pkt) (kind : Nat) (tag : BitVec 32) (dva ofs : Nat) (bs : List Byte) : Nat → List Pkt
  | 0 => []
  | n + 1 =>
    let now := bs.take 8160
    let rest := bs.drop 8160
    let q := { k with coll := 5, first := ofs == 0, last := rest.isEmpty, ofs := BitVec.ofNat 32 ofs,
                      payload := permHeader (dva + ofs) now.length tag kind ++ padTo (roundUp now.length 32) now }
    if rest.isEmpty then [q] else q :: permPackets k kind tag dva (ofs + 8160) rest n

/-- Send a relayed host message, or the answer to one, on a session; the tag names the host (R316, log 33). -/
def State.relaySend (s : State) (i : Nat) (h : Fin 64) (answer : Bool) (bytes : List Byte) : State :=
  (s.sendList i fun z => permPackets z (if answer then 5 else 4) (BitVec.ofNat 32 h.val) 0 0 bytes (bytes.length / 8160 + 1)).2

/-- Send a NOTICE (13 Table 13.5). -/
def State.sendNotice (s : State) (i : Nat) (kind : Nat) (step : BitVec 32) (body : List Byte) : State :=
  match s.sess i with
  | none => s
  | some d => s.send i [{ s.mkPkt d tyNotice (padTo (roundUp (4 + body.length) 32) (bytesLE 4 kind ++ body)) with step := step }]

/-- Send a NOTICE to each module of a list over the partition's sessions, opening them where needed. -/
def State.notifyAll (s : State) (p : PartId) (kind : Nat) (step : BitVec 32) (body : List Byte) : List (BitVec 14) → State
  | [] => s
  | m :: ms =>
    if m = s.moduleId then State.notifyAll s p kind step body ms
    else match s.needSess p m with
      | (some i, s1) => State.notifyAll (s1.sendNotice i kind step body) p kind step body ms
      | (none, s1) => State.notifyAll s1 p kind step body ms

/-- Send a CREDIT (13 Table 13.2, R295); `a2a` marks an all-to-all message in COLL. -/
def State.sendCredit (s : State) (i : Nat) (dq : Qid) (count slotb : Nat) (a2a : Bool) : State :=
  match s.sess i with
  | none => s
  | some d => s.send i [{ s.mkPkt d tyCredit (padTo 32 (bytesLE 4 dq.toNat ++ bytesLE 4 count ++ bytesLE 4 slotb)) with
      dq := dq, coll := if a2a then 3 else 0 }]

/-- Send an ACK at once (R292): bit i tells that PSN APSN + 1 + i was accepted. -/
def ackBits (next : BitVec 32) (got : List (BitVec 32)) : Nat :=
  got.foldl (fun a g => let j := (g - next).toNat; if 1 ≤ j ∧ j ≤ 64 then a ||| 2 ^ (j - 1) else a) 0

def State.sendAck (s : State) (i : Nat) : State :=
  match s.sess i with
  | none => s
  | some d =>
    let k := s.mkPkt d tyAck (padTo 32 (bytesLE 8 (ackBits d.rxNext d.rxGot)))
    s.emit i { d with sinceAck := 0 } k

/-! ### Acknowledgement (13 R293) -/

/-- `a` lies before `b` in 32-bit serial arithmetic. -/
def before32 (a b : BitVec 32) : Bool := let k := (b - a).toNat; decide (0 < k ∧ k < 2 ^ 31)
def atOrAfter32 (b a : BitVec 32) : Bool := decide ((b - a).toNat < 2 ^ 31)

/-- Release the packets before APSN and grow CWND by one for each full window acknowledged. -/
def Session.ackTo (d : Session) (apsn : BitVec 32) : Session :=
  let left := d.unacked.filter fun u => !before32 u.pkt.psn apsn
  let n := d.unacked.length - left.length
  let a := d.ackedInWin + n
  if d.cwnd ≤ a then { d with unacked := left, cwnd := min 1024 (d.cwnd + 1), ackedInWin := a - d.cwnd }
  else { d with unacked := left, ackedInWin := a }

/-- Mark the packets an ACK reports accepted out of order. -/
def Session.sack (d : Session) (apsn : BitVec 32) (bits : Nat) : Session :=
  { d with unacked := d.unacked.map fun u =>
      let j := (u.pkt.psn - apsn).toNat
      if 1 ≤ j ∧ j ≤ 64 ∧ bits.testBit (j - 1) = true then { u with sacked := true } else u }

/-- Packets reported missing while three later PSNs are reported accepted, and not sent again for it yet. -/
def Session.missing (d : Session) : List Unacked :=
  d.unacked.filter fun u => !u.sacked && !u.resent &&
    decide (3 ≤ (d.unacked.filter fun v => v.sacked && before32 u.pkt.psn v.pkt.psn).length)

/-- Halve CWND to a minimum of 8. -/
def Session.loss (d : Session) : Session := { d with cwnd := max 8 (d.cwnd / 2), ackedInWin := 0 }

/-- Send packets of a session again, counting each retransmission. -/
def State.resend (s : State) (p : PartId) : List Unacked → State
  | [] => s
  | u :: us => State.resend ((s.txPkt p u.pkt).countPart p .tpRetx 1) p us

/-! ### Transfers that wait (05 R106, 13 R299, R304, R308, R310) -/

/-- Every packet of a message has been acknowledged. -/
def State.msgDone (s : State) (m : Nat × BitVec 32) : Bool := match s.sess m.1 with
  | some d => !(d.unacked.any fun u => u.pkt.type == tyData && u.pkt.msg == m.2) && !(d.waiting.any fun k => k.type == tyData && k.msg == m.2)
  | none => true

/-- A transfer waits for nothing any more. -/
def State.xferDone (s : State) (x : Xfer) : Bool :=
  x.msgs.all s.msgDone && x.gather.isEmpty && x.own.isEmpty && (match x.perm with
    | some r => r.moves.isEmpty && r.inLeft == 0
    | none => true)

/-- The report of a finished transfer: a refusal gives ST_BAD_FIELD at the field of its exchange entry (13 R302, R304). -/
def State.xferReport (s : State) (x : Xfer) : Report :=
  let base := match (s.core x.core).slot x.token with
    | some y => (match y.line with
      | .send _ => Report.bad stBadField 131
      | _ => Report.bad stBadField 135)
    | none => Report.ok
  if x.refused then base
  else match (s.core x.core).slot x.token with
    | some y => (match y.line with
      | .recv l => ⟨stOk, 0, 0, l.count % 2 ^ 32, l.count / 2 ^ 32⟩
      | _ => Report.ok)
    | none => Report.ok

/-- Finish the transfers of a list that wait for nothing. -/
def State.sweepList (s : State) : List Xfer → State
  | [] => s
  | x :: xs =>
    if s.xferDone x then State.sweepList (s.finishCmd x.core x.token (s.xferReport x)) xs else State.sweepList s xs

/-- Finish every transfer that waits for nothing, and drop it. -/
def State.sweepXfers (s : State) : State :=
  let s1 := s.sweepList s.eng.xfers
  s1.modEng fun e => { e with xfers := e.xfers.filter fun x => !s.xferDone x }

/-- End the transfers that `sel` names with one report. -/
def State.endXfers (s : State) (sel : Xfer → Bool) (r : Report) : State :=
  let hit := s.eng.xfers.filter sel
  let s1 := hit.foldl (fun t x => t.finishCmd x.core x.token r) s
  s1.modEng fun e => { e with xfers := e.xfers.filter fun x => !sel x }

/-- End the SEND and RECV commands, started or not, that `sel` names with one report, and what they wait for. -/
def State.endTransfers (s : State) (sel : CoreId → InFlight → Bool) (r : Report) : State :=
  let hit := allCores.flatMap fun c => ((s.core c).ctl.slots.filter fun x => !x.stage.isDone && sel c x).map fun x => (c, x.token)
  let s1 := hit.foldl (fun t h => t.finishCmd h.1 h.2 r) s
  s1.modEng fun e => { e with xfers := e.xfers.filter fun x => !hit.contains (x.core, x.token) }

/-! ### Reliable packets (R292) -/

/-- Take an accepted PSN into the receive window, advancing past what has arrived. -/
def advanceRx (next : BitVec 32) (got : List (BitVec 32)) : Nat → BitVec 32 × List (BitVec 32)
  | 0 => (next, got)
  | n + 1 => if got.contains next then advanceRx (next + 1) (got.erase next) n else (next, got)

/-- Enter an accepted packet, and send the ACK that it brings at once. -/
def State.book (s : State) (i : Nat) (k : Pkt) : State :=
  match s.sess i with
  | none => s
  | some d =>
    let got := d.rxGot ++ [k.psn]
    let r := advanceRx d.rxNext got got.length
    let s1 := s.setSess i (some { d with rxNext := r.1, rxGot := r.2, sinceAck := d.sinceAck + 1 })
    if k.acknow || k.psn != d.rxNext || decide (16 ≤ d.sinceAck + 1) then s1.sendAck i else s1

/-- A refusal that answers this PSN waits for its acknowledgement. -/
def Session.refuses (d : Session) (psn : BitVec 32) : Bool := d.refusing.any fun r => r.1 == psn

/-- Accept the refused packets of a session whose refusals have been acknowledged. -/
def State.bookRefused (s : State) (i : Nat) : State := match s.sess i with
  | none => s
  | some d =>
    let hit := d.refusing.filter fun r => s.msgDone (i, r.2)
    if hit.isEmpty then s
    else
      let s1 := s.setSess i (some { d with refusing := d.refusing.filter fun r => !hit.contains r })
      hit.foldl (fun t r => match t.sess i with
        | some e => t.book i { t.mkPkt e tyData [] with psn := r.1, acknow := true }
        | none => t) s1

/-- Accept the refused packets of the sessions of a list whose refusals have been acknowledged. -/
def State.bookAllRefused (s : State) : List Nat → State
  | [] => s
  | i :: is => State.bookAllRefused (s.bookRefused i) is

/-- The sessions that wait for the acknowledgement of a refusal. -/
def State.refusers (s : State) : List Nat := (s.sessions.filter fun e => !e.2.refusing.isEmpty).map (·.1)

/-! ### Closing a session (13 R291) -/

/-- Take a closed session of a partition with a peer out of a queue's credit books; an item its message left incomplete is
cancelled, and an all-to-all item expects nothing more of the peer over it (10 R238). -/
def Queue.dropSess (q : Queue) (i : Nat) (d : Session) : Queue :=
  { q with
    waiters := q.waiters.filter fun w => w.1 != i
    grants := q.grants - q.held.get 0 i
    held := q.held.erase i
    a2aGrants := q.a2aGrants.erase i
    items := q.items.map fun x =>
      let mine := match x.msg with
        | some m => m.1 == i
        | none => false
      if mine && !x.full then { x with cancelled := true, closed := true, full := true }
      else if x.grantedTo == some i && x.msg.isNone then { x with grantedTo := none }
      else if q.part == d.part && !d.hostBit then { x with missing := x.missing.map fun m => if m.1 = d.peer then (m.1, true) else m }
      else x }

/-- Send the CLOSE of a session, and keep it until it is acknowledged (R290). -/
def State.sendClose (s : State) (i : Nat) (d : Session) (reason : Nat) : State :=
  let k := { s.mkPkt d tyClose (padTo 32 (bytesLE 4 reason)) with psn := d.txPsn }
  (s.modEng fun e => { e with closings := e.closings.set none i (some { d with
    txPsn := d.txPsn + 1, waiting := [], unacked := [⟨k, 0, false, false⟩], lastSent := s.aon.time }) }).txPkt d.part k

/-- Close a session, sending CLOSE with a reason where one is given and the peer has answered the OPEN (R291, R393). -/
def State.closeSess (s : State) (i : Nat) (reason : Option Nat) : State :=
  match s.sess i with
  | none => s
  | some d =>
    let s1 := (s.setSess i none).modEng fun e => { e with queues := e.queues.map fun q => (q.1, q.2.map fun x => x.dropSess i d) }
    match reason with
    | some r => if d.opened then s1.sendClose i d r else s1
    | none => s1

/-- The closed session whose CLOSE waits for acknowledgement. -/
def State.closing (s : State) (i : Nat) : Option Session := s.eng.closings.get none i

/-- The CLOSE of a closed session needs no more sending. -/
def State.dropClosing (s : State) (i : Nat) : State := s.modEng fun e => { e with closings := e.closings.erase i }

/-- Close the sessions of a list. -/
def State.closeAll (s : State) (reason : Option Nat) : List Nat → State
  | [] => s
  | i :: is => State.closeAll (s.closeSess i reason) reason is

end Sys2Proof.Machine
end

