-- ==== Sys2Proof/Machine/Fault.lean ====
section
/-! DEFINITION. The partition fault and the loss of a peer module (17 R391 to R397, 13 R317, R318), as one shared
operation each, and the completion of a command with its class of 05 Table 5.30. -/

namespace Sys2Proof.Machine

/-! ### Steps of the update engine that close early -/

def UeStep.isOpen (t : UeStep) : Bool := t.status == 0

/-- A fresh record. -/
def UeStep.new (t : BitVec 32) : UeStep := ⟨t, 0, false, false, false, false, 0, 0, 0, 0, 0, 0, [], AccEntry.zero, []⟩

/-- Close every open step ABORTED (09 R195, 17 R392). -/
def UpdEng.abortOpen (u : UpdEng) : UpdEng :=
  { u with steps := u.steps.map fun t => if t.isOpen then { t with status := 4 } else t }

/-! ### The partition fault (17 R391, R392) -/

/-- The streams of a core stop: RUNNING and HALTED become FAULTED, and what has not started is cancelled (05 R119). -/
def State.faultCore (s : State) (c : CoreId) : State :=
  let s1 := s.cancelUnstarted c
  s1.modCtl c fun t => { t with
    stream := if t.stream = .running ∨ t.stream = .halted then .faulted else t.stream
    ending := false }

def State.faultCores (s : State) : List CoreId → State
  | [] => s
  | c :: cs => State.faultCores (s.faultCore c) cs

/-- Descriptors of prologue lists not taken are discarded and counted (10 R238). -/
def State.dropLists (s : State) (p : PartId) : List CoreId → State
  | [] => s
  | c :: cs =>
    let mine := (s.core c).stash.lists.filter fun l => l.part == p
    let n := (mine.map fun l => l.count - l.next).sum
    State.dropLists ((s.modStash c fun t => { t with lists := t.lists.filter fun l => l.part != p }).countPart p .pfCancelUnissued n) p cs

/-- End the open rounds of a partition: their members complete with ST_CANCELLED (07 R140). -/
def State.endOpenRounds (s : State) (p : PartId) : State :=
  let hit := s.eng.rounds.filter fun r => r.part == p && !r.admitted && !r.ended
  let s1 := s.modEng fun e => { e with rounds := e.rounds.map fun r => if r.part == p && !r.admitted then { r with ended := true } else r }
  hit.foldl (fun t r => t.finishMembers (Report.bad stCancelled 0) r.members) s1

/-- The queues of a partition. -/
def State.qidsOf (s : State) (p : PartId) : List Qid := s.qids.filter fun q => match s.queue q with
  | some d => d.part == p
  | none => false

/-- Cancel the PF and RXP items of a partition that have not passed (10 R238). -/
def State.cancelPart (s : State) (p : PartId) : State :=
  s.overQueues (fun q t => match t.queue q with
    | some d => if d.isPf || d.isRxp then t.cancelItems q (fun _ => true) else t
    | none => t) (s.qidsOf p)

/-- No all-to-all item of a faulted partition expects another message: its sessions are closed, and its own messages are
discarded (10 R238, 17 R392). -/
def State.endExpected (s : State) (p : PartId) : State :=
  s.modEng fun e => { e with
    localA2a := e.localA2a.filter fun x => x.1 != p
    queues := e.queues.map fun q => (q.1, q.2.map fun d => if d.part = p then
      { d with items := d.items.map fun i => { i with missing := i.missing.map fun m => (m.1, true) } } else d) }

/-- The sessions of a partition. -/
def State.sessOf (s : State) (p : PartId) : List Nat := (s.sessions.filter fun e => e.2.part == p && !e.2.relay).map (·.1)

/-- A slot is a started SEND or RECV of any kind. -/
def InFlight.isTransfer (x : InFlight) : Bool := match x.line with
  | .send _ | .recv _ => true
  | _ => false

/-- A partition faults (17 R391, R392). Later faults only log. -/
def State.partFault (s : State) (p : PartId) (cause : Nat) (core : Option CoreId) : State :=
  let who := match core with
    | some c => c.val
    | none => 0xFF
  let s0 := s.logEvent evPartFault who p.val (bytesLE 1 cause ++ bytesLE 1 who ++ bytesLE 2 (causeStatus cause).toNat)
  if s.faulted p then s0
  else
    let s1 := s0.modPart p fun q => { q with fault := some (BitVec.ofNat 8 cause, causeStatus cause) }
    let s2 := (s1.faultCores (s1.coresOf p)).dropLists p (s1.coresOf p)
    let s3 := (s2.endOpenRounds p).cancelPart p
    let s4 := s3.modUe p .abortOpen
    let s5 := s4.modEng fun e => { e with
      ctxs := e.ctxs.filter fun x => x.part != p
      gathers := e.gathers.filter fun g => g.part != p }
    let s6 := (s5.closeAll (some 1) (s5.sessOf p)).endExpected p
    s6.endTransfers (fun c x => (s6.core c).part == some p && x.isTransfer) (Report.bad stPeerLost 0)

/-- A producer stores bytes in a queue's area: a write that does not land faults the partition that owns the queue, and
nothing is reported complete on the strength of it (10 R220, 11 Table 11.7). -/
def State.fillQueue (s : State) (q : Queue) (off : Nat) (bs : List Byte) : Bool × State :=
  match s.writeQueue q off bs with
  | (true, s1) => (true, s1)
  | (false, s1) => (false, s1.partFault q.part (if q.memCs then 1 else 5) none)

/-! ### Completion with the class of the status -/

/-- A command finishes; a status of class F faults its partition (05 R119, Table 5.30). -/
def State.complete (s : State) (c : CoreId) (tok : Nat) (r : Report) : State :=
  let s1 := s.finishCmd c tok r
  match statusCause r.status, (s.core c).part with
  | some k, some p => s1.partFault p k (some c)
  | _, _ => s1

/-! ### Loss of a module (13 R317, R318) -/

/-- A group entry of a collective group number, when it is loaded (13 R297). -/
def State.cgroup (s : State) (g : BitVec 16) : Option CGroup := match s.eng.cgroups.get none g.toNat with
  | some d => if d.nmem = 0 then none else some d
  | none => none

/-- The group entry a command of a partition may use: NMEM ≥ 1 and the same PART (R297). -/
def State.cgroupOf (s : State) (p : PartId) (g : BitVec 16) : Option CGroup := match s.cgroup g with
  | some d => if d.part = p ∧ g.toNat < 4096 then some d else none
  | none => none

/-- Set LOST in the group entries that `sel` names. -/
def State.loseGroups (s : State) (sel : CGroup → Bool) : State :=
  s.modEng fun e => { e with cgroups := e.cgroups.map fun g => (g.1, g.2.map fun d => if sel d then { d with lost := true } else d) }

/-- A slot belongs to a group that `sel` names, by the CGRP of its transfer, a collective one or not (R318). -/
def State.slotInGroup (s : State) (sel : CGroup → Bool) (x : InFlight) : Bool :=
  let hit := fun (g : BitVec 16) => match s.cgroup g with
    | some d => sel d
    | none => false
  match x.line with
  | .send l => hit l.cgrp
  | .recv l => hit l.cgrp
  | _ => false

/-- A point-to-point transfer names module `m` (R318: its session has closed). -/
def InFlight.names (x : InFlight) (m : BitVec 14) : Bool := match x.line with
  | .send l => !l.dall && l.dmod == m
  | .recv l => !l.sany && l.smod == m
  | _ => false

/-- Write the directory entry `j` of a return buffer in slot of item `n` of queue `q` as LOST with COUNT zero (07 R153). -/
def State.writeLost (s : State) (q : Queue) (n j : Nat) : State :=
  (s.fillQueue q (q.slotOff n + 0x40 + 8 * j) (bytesLE 8 0x20000)).2

/-- The return table entries of an item that module `m` has not returned yet. -/
def Item.awaits (i : Item) (m : BitVec 14) : List RetRec :=
  i.table.filter fun r => r.src == m && !i.back.contains r.record.j.toNat

/-- Return items waiting for `m`: the entries that still await it become LOST and they wait for it no longer (07 R155, R307,
R318). -/
def State.loseReturns (s : State) (m : BitVec 14) (only : Option PartId) (qid : Qid) : State :=
  match s.queue qid with
  | none => s
  | some q =>
    if only.any fun p => q.part != p then s else
    let hit := q.items.filter fun i => (match i.expect with
      | some l => l.contains m
      | none => false) && !i.passed
    let s1 := hit.foldl (fun t i =>
      (i.awaits m).foldl (fun u r => u.writeLost q i.n r.record.j.toNat) t) s
    match s1.queue qid with
    | none => s1
    | some d => s1.setQueue qid { d with items := d.items.map fun i => match i.expect with
        | some l => if i.passed then i else
            let left := l.filter (· != m)
            { i with expect := some left, full := i.full || left.isEmpty }
        | none => i }

/-- The steps of an engine that contributions being summed belong to have records, so that they close with the open ones. -/
def UpdEng.ensureAll (u : UpdEng) : List (BitVec 32) → UpdEng
  | [] => u
  | t :: ts => UpdEng.ensureAll (if (u.steps.any fun r => r.step == t) then u else
      { u with steps := (u.steps ++ [UeStep.new t]).drop (u.steps.length + 1 - 16) }) ts

/-- Discard the contexts of the groups that `sel` names, and abort the open steps of their partitions: contributions of a step that has
closed are discarded, so no super-block of it begins (R318, 17 R397). -/
def State.dropContexts (s : State) (sel : CGroup → Bool) : State :=
  let bad := fun (g : BitVec 16) => match s.cgroup g with
    | some d => sel d
    | none => false
  let hitPart := fun (p : PartId) => s.eng.cgroups.any fun g => match g.2 with
    | some d => d.part == p && sel d && d.nmem != 0
    | none => false
  let s1 := s.modEng fun e => { e with ctxs := e.ctxs.filter fun x => !bad x.cgrp && !hitPart x.part }
  { s1 with parts := s1.parts.mapIdx fun i q =>
      if hitPart (Fin.ofNat 8 i) then { q with ue := (q.ue.ensureAll ((s.eng.ctxs.filter fun x => x.part == Fin.ofNat 8 i).map (·.step))).abortOpen } else q }

/-- What the loss of `m` does to the groups that `sel` names (R318), for the sessions of a list. -/
def State.applyLoss (s : State) (m : BitVec 14) (sel : CGroup → Bool) (sess : List Nat) (only : Option PartId) : State :=
  let s1 := (s.closeAll none sess).loseGroups sel
  let via := fun c tok => s.eng.xfers.any fun x => x.core == c && x.token == tok && x.msgs.any fun e => sess.contains e.1
  let s2 := s1.endTransfers (fun c x => s1.slotInGroup sel x || via c x.token ||
    (only.isNone && x.names m && x.stage == .started)) (Report.bad stPeerLost 0)
  let s3 := s2.overQueues (fun q t => t.loseReturns m only q) s2.qids
  let s4 := s3.dropContexts sel
  s4.modEng fun e => { e with gathers := e.gathers.filter fun g => match g.sess with
    | some i => !sess.contains i
    | none => true }

/-- The members of the groups that contain `m`, with the partition of each group (R317). -/
def State.lossPeers (s : State) (m : BitVec 14) (p : PartId) : List (BitVec 14) :=
  ((s.eng.cgroups.flatMap fun g => match g.2 with
    | some d => if d.part = p ∧ d.members.contains m then d.members else []
    | none => []).filter fun x => x != m && !s.eng.lostMods.contains x).dedup

/-- Notify the partitions' peers of the loss. -/
def State.notifyLoss (s : State) (m : BitVec 14) (cause : Nat) : List PartId → State
  | [] => s
  | p :: ps => State.notifyLoss (s.notifyAll p 3 0 (bytesLE 2 m.toNat ++ bytesLE 2 cause) (s.lossPeers m p)) m cause ps

/-- Peer `m` is declared lost with a cause: 1 port, 2 keepalive, 3 management bus (R317, R318). A module that is already
lost stays lost (17 R396). -/
def State.declareLost (s : State) (m : BitVec 14) (cause : Nat) : State :=
  if s.eng.lostMods.contains m || m == s.moduleId then s
  else
    let s1 := s.logEvent evPeerLost 49 srcNone (bytesLE 2 m.toNat ++ bytesLE 2 cause)
    let s2 := s1.notifyLoss m cause allParts
    let s3 := s2.modEng fun e => { e with lostMods := m :: e.lostMods }
    s3.applyLoss m (fun d => d.members.contains m) ((s3.sessions.filter fun e => e.2.peer == m && e.2.host.isNone).map (·.1)) none

/-- Some group entry that contains `m` has PORTLOSS = 1 (R317). -/
def State.portLoss (s : State) (m : BitVec 14) : Bool := s.eng.cgroups.any fun g => match g.2 with
  | some d => d.nmem != 0 && d.members.contains m && d.portloss
  | none => false

/-- CLOSE with reason 1 or 4 on a session: the groups of its own partition that contain the peer act under R318, and the
module itself is not declared lost (17 R393). -/
def State.peerPartLost (s : State) (i : Nat) : State :=
  match s.sess i with
  | none => s
  | some d => s.applyLoss d.peer (fun g => g.part == d.part && g.members.contains d.peer) [i] (some d.part)

end Sys2Proof.Machine
end

