-- ==== Sys2Proof/Machine/Arrays.lean ====
section
/-! DEFINITION. LDW, MMA and DIST: their checks at decode in order of bit position (05 R97, R98) and what they do when
they start (04 R70 to R86, 03 R48 to R63). -/

namespace Sys2Proof.Machine

/-! ### What starting a command gives -/

/-- The outcome of a command that its unit may start: finished with a report, started and waiting for others, or not
startable yet. -/
inductive Run where
  | done (r : Report) (s : State)
  /-- finished, and it ends no router round (07 R138, R140) -/
  | lone (r : Report) (s : State)
  | started (s : State)
  | blocked (s : State)
  /-- its slot has been completed already, by the fault that its own access brought -/
  | gone (s : State)

/-- The first report whose condition holds. -/
def firstBad : List (Bool × Report) → Option Report
  | [] => none
  | (true, r) :: _ => some r
  | (false, _) :: t => firstBad t

/-- The first span that leaves its memory, as ST_BAD_ADDRESS with its own first line, since an operand that runs past the end
fails as its first line would (05 R92, R98). -/
def spansBad : List Span → Option Report
  | [] => none
  | d :: ds => if d.inside then spansBad ds else some (Report.bad stBadAddress (d.at_ / 32))

/-- Field checks first, then addresses. -/
def orElseReport (a b : Option Report) : Option Report := match a with
  | some r => some r
  | none => b

/-- The random value of an element (06 R135); with no SEED in force the spec gives none and it is free (log 1). -/
def InFlight.rnd (x : InFlight) (s : State) (purp : Purp) (tid j : Nat) : Nat := match x.seed with
  | some k => tumbler k.key k.step.toNat purp tid j
  | none => Config.freeValue (s.free + j % 2 ^ 32) % 65536

/-- The free values a command without SEED has used. -/
def State.spend (s : State) (x : InFlight) : State := if x.seed.isNone then { s with free := s.free + 2 ^ 32 } else s

/-- An array of the mask is disabled (04 R89). -/
def State.anyDisabled (s : State) (c : CoreId) (mask : BitVec 4) : Bool := (arraysOf mask).any fun a => !s.arrayEn c a

/-- The pairs that may be 2-of-4 sparse (04 R79). -/
def sparseAllowed (a w : Fmt) : Bool :=
  rateL a w == 64 || (rateL a w == 32 && (w == .f4 || w == .f8a || w == .f8b || w == .q8))

/-! ### LDW -/

/-- Decode checks of LDW (Table 5.6, R99). -/
def State.checkLdw (s : State) (c : CoreId) (l : LdwLine) : Option Report :=
  let w := Fmt.ofCode l.wfmt
  let a := Fmt.ofCode l.afmt
  let pre := firstBad [
    (!s.arrayEn c l.arr.toNat, Report.bad stArrayDisabled 0),
    ((formN l.form).isNone, Report.bad stBadForm 35),
    (!(w.any Fmt.isArray), Report.bad stBadFormat 37),
    (!(a.any Fmt.isArray), Report.bad stBadFormat 41)]
  match pre, ldwShape l, w, a with
  | some r, _, _, _ => some r
  | none, some h, some fw, some fa =>
    let img := Span.lines l.wsrc l.img.toNat (h.imageBytes l.bskip.toNat / 32)
    orElseReport
      (firstBad [
        (l.sparse && !sparseAllowed fa fw, Report.bad stBadForm 45),
        (l.wbs && decide (h.k < 32), Report.bad stBadForm 46),
        (!h.maskOk l.bskip, Report.bad stBadForm 68)])
      (firstBad [
        (l.wsrc && decide (2 ^ 16 ≤ l.img.toNat), Report.bad stBadAddress l.img.toNat),
        (!img.inside, Report.bad stBadAddress l.img.toNat)])
  | none, _, _, _ => none

/-- An empty bank keeps nothing. -/
def CoreMem.setBank (m : CoreMem) (a b : Nat) (w : WBank) : CoreMem :=
  { m with banks := m.banks.set WBank.empty (bankKey a b) w }

/-- LDW (04 R76, R77, R81): the image's three runs are recorded, a bad pair or an uncorrectable read empties the bank. -/
def State.runLdw (s : State) (c : CoreId) (l : LdwLine) : Run :=
  match ldwShape l with
  | none => .done (Report.bad stBadForm 35) s
  | some h =>
    let m := l.bskip.toNat
    let src := Span.lines l.wsrc l.img.toNat (h.imageBytes m / 32)
    let empty := fun (t : State) => t.modMem c fun q => q.setBank l.arr.toNat l.bank.toNat .empty
    match s.checkSpans c [src] with
    | (false, s1) => .done (Report.bad stCsEcc 0) (empty s1)
    | (true, s1) =>
      let bytes := (s1.core c).mem.read src
      let elem := bytes.take (h.eb m)
      let pos := (bytes.drop (h.eb m)).take (h.mbLen m)
      let bsc := bytes.drop (h.eb m + h.mbLen m)
      let t : Tile := ⟨h, m, natLE elem, natLE pos, natLE bsc⟩
      if l.sparse && !t.sparseOk then .done (Report.bad stBadSparse 0) (empty s1)
      else .done Report.ok (s1.modMem c fun q => q.setBank l.arr.toNat l.bank.toNat
        ⟨true, l.form, l.wfmt, l.afmt, l.sparse, l.wbs, l.bskip, elem, pos, bsc⟩)

/-! ### MMA and DIST -/

/-- The formats of DIST (04 R85). -/
def distFmt (f : Fmt) : Bool := f == .f8a || f == .f8b || f == .q8 || f == .q4

/-- Decode checks of MMA and DIST (Table 5.7, R100). -/
def State.checkMma (s : State) (c : CoreId) (dist : Bool) (l : MmaLine) : Option Report :=
  let w := Fmt.ofCode l.wfmt
  let a := Fmt.ofCode l.afmt
  let pre := firstBad [
    (l.amask == 0, Report.bad stBadField 32),
    (s.anyDisabled c l.amask, Report.bad stArrayDisabled 0),
    ((formN l.form).isNone || (l.stream && l.form != 2), Report.bad stBadForm 40),
    (!(a.any fun f => f.isArray && (!dist || distFmt f)), Report.bad stBadFormat 44),
    (!(w.any fun f => f.isArray && (!dist || distFmt f)) || (dist && l.wfmt != l.afmt), Report.bad stBadFormat 48)]
  match pre, mmaShape l, w, a with
  | some r, _, _, _ => some r
  | none, some h, some fw, some fa =>
    let rowsOk := decide (1 ≤ l.rows.toNat ∧ l.rows.toNat ≤ formRows h.n)
    let fields := firstBad [
      (l.abs && dist, Report.bad stBadFormat 52),
      (l.abs && decide (h.k < 32), Report.bad stBadForm 52),
      (l.sparse && (dist || !sparseAllowed fa fw), Report.bad stBadForm 53),
      (rowsOk && decide (32 < l.tile.toNat + regionTiles l.rows.toNat h.n), Report.bad stBadForm 55),
      (!rowsOk, Report.bad stBadForm 69),
      (!h.maskOk l.bskip, Report.bad stBadForm 136),
      (l.stream && l.t == 0, Report.bad stBadForm 220),
      (dist && l.dop == 3, Report.bad stBadForm 244),
      (dist && l.stream && l.swbs, Report.bad stBadFormat 246),
      (l.stream && l.swbs && decide (h.k < 32), Report.bad stBadForm 246)]
    orElseReport fields (orElseReport
      (firstBad [
        (l.asrc && decide (2 ^ 16 ≤ l.aaddr.toNat), Report.bad stBadAddress l.aaddr.toNat),
        (l.asrc && decide (2 ^ 16 ≤ l.asc.toNat), Report.bad stBadAddress l.asc.toNat)])
      (spansBad (l.rowIn fa h ++ l.imageSpans h)))
  | none, _, _, _ => none

/-- The check of a held bank against the command (05 R99, 04 R77, R85). The spec ranks no two failures: the order here, and
that of the arrays, ascending, are the model's (DESIGN CHOICE, log 78). -/
def bankCheck (dist : Bool) (l : MmaLine) (b : WBank) : Option Report :=
  match Fmt.ofCode l.afmt, Fmt.ofCode l.wfmt, Fmt.ofCode b.afmt with
  | some a, some w, some ba =>
    firstBad [
      (!b.loaded, Report.bad stWbankEmpty 0),
      (b.form != l.form, Report.bad stBadForm 40),
      (b.sparse != l.sparse, Report.bad stBadForm 53),
      (rateL a w != rateL ba w, Report.bad stBadFormat 44),
      (b.wfmt != l.wfmt, Report.bad stBadFormat 48),
      (dist && b.wbs, Report.bad stBadFormat 36)]
  | _, _, _ => some (Report.bad stWbankEmpty 0)

/-- The tile that a bank holds. -/
def WBank.tile (b : WBank) (h : Shape) : Tile := ⟨{ h with wbs := b.wbs }, b.bskip.toNat, natLE b.elem, natLE b.pos, natLE b.bsc⟩

/-- Image `t` of array `a` as streamed (04 R78); streamed images are never compacted. The positions of a sparse image are taken
as they stand: a group with p0 ≥ p1 applies both kept elements where they point, and nothing reports it, since only LDW checks
the pairs (DESIGN CHOICE, log 78). -/
def CoreMem.streamTile (m : CoreMem) (l : MmaLine) (h : Shape) (a t : Nat) : Tile :=
  let bytes := m.read (Span.lines false (l.imageLine h a t) (h.imageBytes 0 / 32))
  ⟨h, 0, natLE (bytes.take (h.eb 0)), natLE ((bytes.drop (h.eb 0)).take (h.mbLen 0)), natLE (bytes.drop (h.eb 0 + h.mbLen 0))⟩

/-- One activation row as the arrays take it: codes and E8 scales, from logical element `base` on. -/
structure ActRow where
  codes : List Nat
  e8s : List Nat
  deriving DecidableEq, Repr

/-- Activation row `r` (04 R75, 02 R424). -/
def CoreMem.actRow (m : CoreMem) (l : MmaLine) (f : Fmt) (h : Shape) (r : Nat) : ActRow :=
  let n := l.rowElems h
  ⟨m.rowCodes l.asrc f (l.aaddr.toNat + r * l.arstr.toNat) n,
   if l.abs then m.scales l.asrc (l.asc.toNat + r * planeLines (n / 32)) (n / 32) else []⟩

/-- The exact product of 03 R50: a NaN E8 on either operand makes it NaN. -/
def mmaTerm (f : Fmt) (abs : Bool) (row : ActRow) (base : Nat) (t : WTerm) : Ext :=
  let i := base + t.k
  let x := f.decode (row.codes.getD i 0)
  let ea := if abs then row.e8s.getD (i / 32) 127 else 127
  if ea = 0xFF ∨ t.e8 = 0xFF then .nan
  else (Ext.mulX x t.w).scale ((ea : Int) - 127 + ((t.e8 : Int) - 127))

/-- The term of DIST (04 Table 4.9). -/
def distTerm (dop : BitVec 2) (f : Fmt) (row : ActRow) (base : Nat) (t : WTerm) : Ext :=
  let x := f.decode (row.codes.getD (base + t.k) 0)
  let d := Ext.addX x t.w.neg
  if dop = 2 then (if Ext.veq x t.w then .one else .zero)
  else if dop = 0 then d.abs
  else Ext.mulX d d

/-- The combined mask skips every block of the tile (04 R84). -/
def Shape.allSkipped (h : Shape) (mask skip : Nat) : Bool :=
  decide (h.blocks ≠ 0) && (List.range h.blocks).all fun b => maskBit skip b || maskBit mask b

/-- The command has nothing to do on array `a` but zero its region: every block is skipped (04 R84). -/
def CoreMem.skipsAll (m : CoreMem) (l : MmaLine) (h : Shape) (a : Nat) : Bool :=
  h.allSkipped (if l.stream then 0 else (m.bank a (l.bankOf a)).bskip.toNat) l.bskip.toNat

/-- The bytes of a streamed image at a line that the weight port loads: those of the blocks that the mask leaves present, as
runs of ELEM, META and BSC (04 R74, R78). -/
def tileReads (l : MmaLine) (h : Shape) (line : Nat) : List Span :=
  if l.bskip = 0 then [Span.lines false line (h.imageBytes 0 / 32)]
  else
    let gs := if h.sparse then h.g / 2 else h.g
    let run := fun (base w at_ n : Nat) => Span.mk false (line * 32 + base + at_ * w / 8) (ceilDiv ((at_ + n) * w) 8 - at_ * w / 8)
    (List.range h.n).flatMap fun n => (List.range (h.kl / h.g)).flatMap fun kb =>
      if maskBit l.bskip.toNat (h.block (kb * h.g) n) then []
      else
        let p := n * h.k + kb * gs
        run 0 h.wfmt.bits p gs :: ((if h.sparse then [run (h.eb 0) 2 p gs] else []) ++
          (if h.wbs then [run (h.eb 0 + h.mbLen 0) 8 (n * (h.kl / 32) + kb * h.g / 32) (h.g / 32)] else []))

/-- Everything that an MMA or DIST reads of the core's memories: no row and no image where every block of every array is
skipped (04 R78, R84). -/
def CoreMem.mmaReads (m : CoreMem) (l : MmaLine) (f : Fmt) (h : Shape) : List Span :=
  (if (arraysOf l.amask).all (m.skipsAll l h) then [] else l.rowIn f h) ++
    (if l.stream then (arraysOf l.amask).flatMap fun a => (List.range l.t.toNat).flatMap fun t => tileReads l h (l.imageLine h a t)
     else [])

/-- What the command adds to entry (r, n) of an array: the sum over its first `k` tiles, and the flags. -/
def entryUpdate (dist : Bool) (l : MmaLine) (f : Fmt) (scaled : Bool) (ofs : Int) (cols : List (List (List WTerm)))
    (kl : Nat) (row : ActRow) (n k : Nat) : Sum × Nat :=
  placeAll ofs scaled ((List.range k).flatMap fun t =>
    ((cols.getD t []).getD n []).map fun w =>
      if dist then distTerm l.dop f row (t * kl) w else mmaTerm f l.abs row (t * kl) w)

/-- Write one row of an array's region. -/
def CoreMem.putRow (m : CoreMem) (acc : Bool) (a tile n r : Nat) (us : List (Sum × Nat)) : CoreMem × Nat :=
  us.zipIdx.foldl (fun q u =>
    let key := regionKey a tile (r * n + u.2)
    let e := AccEntry.update acc (q.1.entry key) u.1.1
    ({ q.1 with acc := q.1.acc.set AccEntry.zero key e.1 }, q.2 ||| u.1.2 ||| e.2)) (m, 0)

/-- The first entry with bad parity of row `r` in the arrays of a list: array and entry index (03 R63). Where a row holds
several, the one EV_ACC_PARITY names the lowest array and its lowest entry (DESIGN CHOICE, log 78). -/
def CoreMem.badInRow (m : CoreMem) (tile n r : Nat) : List Nat → Option (Nat × Nat)
  | [] => none
  | a :: as => match (List.range n).find? fun i => (m.entry (regionKey a tile (r * n + i))).bad with
    | some i => some (a, r * n + i)
    | none => CoreMem.badInRow m tile n r as

/-- One array of an MMA with what its rows need. -/
structure ArrayJob where
  a : Nat
  scaled : Bool
  skipAll : Bool
  cols : List (List (List WTerm))
  deriving DecidableEq, Repr

/-- Rows from `r` on: each row is read, checked for parity in every named array, and written in every named array
(R63). With `k` tiles applied. The failing array and entry come back where parity fails. Whether every block is skipped (04
R84) is judged for each array alone, so under ACC = 1 a wholly skipped array is neither read nor written while the others run
(DESIGN CHOICE, log 78). -/
def mmaRows (dist : Bool) (l : MmaLine) (f : Fmt) (h : Shape) (ofs : Int) (jobs : List ArrayJob) (k : Nat)
    (m : CoreMem) (flags r : Nat) : Nat → CoreMem × Nat × Option (Nat × Nat)
  | 0 => (m, flags, none)
  | left + 1 =>
    let live := jobs.filter fun j => !(j.skipAll && l.acc)
    let bad := if l.acc then m.badInRow l.tile.toNat h.n r (live.map (·.a)) else none
    match bad with
    | some b => (m, flags, some b)
    | none =>
      let row := m.actRow l f h r
      let w := live.foldl (fun q j =>
        let us := (List.range h.n).map fun n => entryUpdate dist l f j.scaled ofs j.cols h.kl row n k
        let p := q.1.putRow l.acc j.a l.tile.toNat h.n r us
        (p.1, q.2 ||| p.2)) (m, flags)
      mmaRows dist l f h ofs jobs k w.1 w.2 (r + 1) left

/-- Rows whose parity is good in every array, before the first that fails. -/
def goodRows (l : MmaLine) (h : Shape) (m : CoreMem) (arrays : List Nat) : Nat :=
  ((List.range l.rows.toNat).takeWhile fun r => (m.badInRow l.tile.toNat h.n r arrays).isNone).length

/-- Log EV_ACC_PARITY (03 R63). -/
def State.logParity (s : State) (c : CoreId) (p : Nat) (a tile e : Nat) : State :=
  s.logEvent evAccParity c.val p (bytesLE 1 c.val ++ bytesLE 1 a ++ bytesLE 1 (tile + e / 1024) ++ bytesLE 2 (e % 1024))

/-- The partition of a core as a number, 0xFF for none. -/
def State.partNo (s : State) (c : CoreId) : Nat := match (s.core c).part with
  | some p => p.val
  | none => srcNone

/-- The stored offset differs on some tile of the region in some array (03 R48). -/
def CoreMem.ofsDiffers (m : CoreMem) (l : MmaLine) (n : Nat) : Bool :=
  (arraysOf l.amask).any fun a => (List.range (regionTiles l.rows.toNat n)).any fun i => m.tileOfs (tileKey a (l.tile.toNat + i)) != l.wofs

/-- Set the offset of every tile of the region. -/
def CoreMem.setOfs (m : CoreMem) (l : MmaLine) (n : Nat) : CoreMem :=
  let keys := (arraysOf l.amask).flatMap fun a => (List.range (regionTiles l.rows.toNat n)).map fun i => tileKey a (l.tile.toNat + i)
  { m with ofs := keys.foldl (fun o k => Smap.set 0#9 o k l.wofs) m.ofs }

/-- The weights that each named array applies: its bank, or its streamed images. -/
def CoreMem.jobs (m : CoreMem) (l : MmaLine) (h : Shape) : List ArrayJob :=
  (arraysOf l.amask).map fun a =>
    let b := m.bank a (l.bankOf a)
    let ts := if l.stream then (List.range l.t.toNat).map fun t => m.streamTile l h a t else [b.tile h]
    ⟨a, l.abs || (if l.stream then h.wbs else b.wbs), m.skipsAll l h a,
     ts.map fun t => (List.range h.n).map fun n => t.column l.bskip.toNat n⟩

/-- Free bytes in place of what a bank's run held. -/
def freeRun (free n : Nat) : List Byte := (List.range n).map fun i => BitVec.ofNat 8 (Config.freeValue (free + i))

/-- A bank after it served as staging: its record stands, its contents are open (04 R78, log 70). -/
def WBank.staged (b : WBank) (free : Nat) : WBank :=
  { b with
    elem := freeRun free b.elem.length
    pos := freeRun (free + 2 ^ 17) b.pos.length
    bsc := freeRun (free + 2 ^ 18) b.bsc.length }

/-- Both banks of every array of a list served as staging. -/
def CoreMem.staged (m : CoreMem) (free : Nat) (as : List Nat) : CoreMem :=
  { m with banks := (as.flatMap fun a => [bankKey a 0, bankKey a 1]).foldl (fun q k =>
      Smap.set WBank.empty q k ((Smap.get WBank.empty q k).staged (free + k * 2 ^ 20))) m.banks }

/-- A streamed command loads its tiles through both banks of its arrays (04 R78). -/
def State.stage (s : State) (c : CoreId) (l : MmaLine) : State :=
  if l.stream then { (s.modMem c fun m => m.staged s.free (arraysOf l.amask)) with free := s.free + 2 ^ 24 } else s

/-- MMA and DIST (04 R70 to R86). A parity failure in row r leaves rows before r updated, by the first tile alone when
the weights are streamed (03 R63). -/
def State.runMma (s : State) (c : CoreId) (dist : Bool) (l : MmaLine) : Run :=
  match mmaShape l, Fmt.ofCode l.afmt with
  | some h, some f =>
    let m := (s.core c).mem
    let banks := if l.stream then none else
      (arraysOf l.amask).foldl (fun r a => orElseReport r (bankCheck dist l (m.bank a (l.bankOf a)))) none
    match banks with
    | some r => .done r s
    | none =>
      if l.acc && m.ofsDiffers l h.n then .done (Report.bad stWofsMismatch 0) s
      else match s.checkSpans c (m.mmaReads l f h) with
        | (false, s1) => .done (Report.bad stCsEcc 0) s1
        | (true, s1) =>
          let m1 := (s1.core c).mem
          let m2 := if l.acc then m1 else m1.setOfs l h.n
          let jobs := m1.jobs l h
          let live := (jobs.filter fun j => !(j.skipAll && l.acc)).map (·.a)
          let good := if l.acc then goodRows l h m1 live else l.rows.toNat
          let k := if good < l.rows.toNat then 1 else l.tiles
          let ofs := l.wofs.toInt
          match mmaRows dist l f h ofs jobs k m2 0 0 l.rows.toNat with
          | (m3, fl, none) => .done ⟨stOk, fl, 0, 0, 0⟩ ((s1.modMem c fun _ => m3).stage c l)
          | (m3, fl, some b) =>
            .done ⟨stAccParity, fl ||| afParity, 0, 0, 0⟩ (((s1.modMem c fun _ => m3).stage c l).logParity c (s1.partNo c) b.1 l.tile.toNat b.2)
  | _, _ => .done (Report.bad stBadForm 40) s

end Sys2Proof.Machine
end

