-- ==== Sys2Proof/Machine/Func.lean ====
section
/-! DEFINITION. The functions of 06 R124: a reference value of each, computed with a relative error far below the bound, and
the free value that the bound admits (log 8). -/

namespace Sys2Proof.Machine

/-! ### Reference values -/

/-- The binary exponent of a magnitude: m * 2^e lies in [2^(b-1), 2^b). -/
def binExp (m : Nat) (e : Int) : Int := (bitLen m : Int) + e

/-- The sum of 2^(g-k) / k for k from 1 to n: ln 2 in units of 2^-g. -/
def ln2Sum (g : Nat) : Nat → Nat
  | 0 => 0
  | n + 1 => ln2Sum g n + 2 ^ (g - (n + 1)) / (n + 1)

/-- ln 2 in units of 2^-q. -/
def ln2At (q : Nat) : Nat := ln2Sum (q + 16) (q + 16) >>> 16

/-- The Taylor sum of e^r from term `k` on, r and the terms in units of 2^-128. -/
def expSum (r : Nat) : Nat → Nat → Nat → Nat
  | 0, _, t => t
  | n + 1, k, t => t + expSum r n (k + 1) ((t * r) >>> 128 / (k + 1))

/-- e^((-1)^s * m * 2^e): the argument is reduced by a multiple of ln 2. -/
def expRef (s : Bool) (m : Nat) (e : Int) : Ext :=
  let q := 128 + (binExp m e + 2).toNat
  let x := shiftI m (e + q)
  let l := ln2At q
  let n := x / l
  let r := x % l
  if s then .fin false (expSum ((l - r) >>> (q - 128)) 48 0 (2 ^ 128)) (-(n : Int) - 129)
  else .fin false (expSum (r >>> (q - 128)) 48 0 (2 ^ 128)) ((n : Int) - 128)

/-- The sum of z^i / (2i + 1) from term `i` on, z and the powers in units of 2^-128. -/
def atanhSum (z : Nat) : Nat → Nat → Nat → Nat
  | 0, _, _ => 0
  | n + 1, i, t => t / (2 * i + 1) + atanhSum z n (i + 1) ((t * z) >>> 128)

/-- ln(m * 2^e) for a positive argument other than one: m * 2^e is f * 2^k with f in (2/3, 4/3]. -/
def logRef (m : Nat) (e : Int) : Ext :=
  let b := bitLen m - 1
  let j := if 4 * 2 ^ b < 3 * m then b + 1 else b
  let k : Int := e + j
  let d : Int := (m : Int) - 2 ^ j
  let den := m + 2 ^ j
  let z := (d.natAbs * d.natAbs) <<< 128 / (den * den)
  let sum := atanhSum z 64 0 (2 ^ 128)
  if k = 0 then
    let g := 128 + bitLen den
    .fin (decide (d < 0)) ((2 * d.natAbs * sum) <<< g / den) (-(g : Int) - 128)
  else
    let q := 128 + bitLen k.natAbs
    let f : Int := ((2 * d.natAbs * sum) <<< (q - 128) / den : Nat)
    let v : Int := k * ln2At q + (if d < 0 then -f else f)
    .fin (decide (v < 0)) v.natAbs (-(q : Int))

/-- e^-|x| of a moderate argument, in units of 2^-512. -/
def expFix (m : Nat) (e : Int) : Nat := match expRef true m e with
  | .fin _ n f => shiftI n (f + 512)
  | _ => 0

/-- 1 / (1 + e^-x). -/
def sigmoidRef (s : Bool) (m : Nat) (e : Int) : Ext :=
  if 7 < binExp m e then (if s then expRef true m e else .one)
  else
    let t := expFix m e
    .fin false ((if s then t else 2 ^ 512) <<< 512 / (2 ^ 512 + t)) (-512)

/-- tanh x. -/
def tanhRef (s : Bool) (m : Nat) (e : Int) : Ext :=
  if binExp m e < -32 then .fin s m e
  else if 7 < binExp m e then .fin s 1 0
  else
    let t := expFix m (e + 1)
    .fin s ((2 ^ 512 - t) <<< 512 / (2 ^ 512 + t)) (-512)

/-- The constants of GELU, √(2/π) and 0.044715, rounded to odd at 40 bits (R124). -/
def geluOuter : Ext := .fin false 877283352225 (-40)
def geluInner : Ext := .fin false 786634598977 (-44)

/-- 0.5 a (1 + tanh u) is a times the sigmoid of 2u, with u = √(2/π) (a + 0.044715 a³). -/
def geluRef (a : Ext) : Ext :=
  let u := Ext.mulX geluOuter (Ext.addX a (Ext.mulX geluInner (Ext.mulX a (Ext.mulX a a))))
  match u.scale 1 with
  | .fin s m e => Ext.mulX a (sigmoidRef s m e)
  | y => y

/-- The reference value of function `fn` at a non-zero finite argument (06 Table 6.1). -/
def funcRef (fn : Nat) (s : Bool) (m : Nat) (e : Int) : Ext :=
  match fn with
  | 0x10 => expRef s m e
  | 0x11 => logRef m e
  | 0x12 => Ext.div .one (.fin s m e)
  | 0x13 => (Ext.div .one (.fin s m e)).sqrt
  | 0x14 => (Ext.fin s m e).sqrt
  | 0x15 => tanhRef s m e
  | 0x16 => if m = 0 then .fin false 1 (-1) else sigmoidRef s m e
  | 0x17 => geluRef (.fin s m e)
  | _ => Ext.mulX (.fin s m e) (sigmoidRef s m e)

/-! ### What R124 admits -/

/-- 1 - 2^-22 and 1 + 2^-22, the bounds of R124, and their squares. -/
def loErr : Ext := .fin false (2 ^ 22 - 1) (-22)
def hiErr : Ext := .fin false (2 ^ 22 + 1) (-22)
def loErr2 : Ext := .fin false ((2 ^ 22 - 1) ^ 2) (-44)
def hiErr2 : Ext := .fin false ((2 ^ 22 + 1) ^ 2) (-44)

/-- `c` differs from a reference by less than 2^-22 - 2^-50 of it. The references of the transcendental functions lie within
2^-52 of the function, so `c` keeps the bound of R124 (log 8). -/
def nearRef (c y : Ext) : Bool :=
  c.isFin && y.isFin && Ext.lt ((Ext.addX c y.neg).abs.scale 50) (Ext.mulX y.abs (Ext.ofNat (2 ^ 28 - 1)))

/-- What R124 says of a value `c` at argument `x`: finite, not zero, and within 2^-22 of the function. RCP, RSQRT and SQRT are
tested against the exact value, the others against their references. -/
def funcMay (fn : Nat) (x c : Ext) : Bool :=
  c.isFin && !c.isZero &&
  match fn, x with
  | 0x12, _ => let y := Ext.mulX c x; Ext.lt loErr y && Ext.lt y hiErr
  | 0x13, _ => let y := Ext.mulX (Ext.mulX c c) x; !c.sign && Ext.lt loErr2 y && Ext.lt y hiErr2
  | 0x14, _ => let y := Ext.mulX c c; !c.sign && Ext.lt (Ext.mulX loErr2 x) y && Ext.lt y (Ext.mulX hiErr2 x)
  | _, .fin s m e => nearRef c (funcRef fn s m e)
  | _, _ => false

/-- Remove factors of two from a significand. -/
def oddPart (m : Nat) (e : Int) : Nat → Nat × Int
  | 0 => (m, e)
  | n + 1 => if m % 2 = 0 then oddPart (m / 2) (e + 1) n else (m, e)

/-- A function value that the spec bounds and does not fix (log 8): free within what R124 says of it, and the reference value
where the free value breaks that. -/
def funcFree (fn : Nat) (s : Bool) (m : Nat) (e : Int) : Ext :=
  let q := oddPart m e (bitLen m)
  let r := Config.funcValue fn s q.1 q.2
  let c : Ext := .fin r.1 r.2.1 r.2.2
  (if funcMay fn (.fin s q.1 q.2) c then c else funcRef fn s q.1 q.2).rto

/-- The functions 0x10 to 0x18 of Table 6.1, with the special inputs of Table 6.2 and the exact zeros and ones. -/
def func (fn : Nat) (x : Ext) : Ext :=
  match fn, x with
  | _, .nan => .nan
  | 0x10, .inf s => if s then .zero else .inf false
  | 0x11, .inf s => if s then .nan else .inf false
  | 0x12, .inf s => .fin s 0 0
  | 0x13, .inf s => if s then .nan else .zero
  | 0x14, .inf s => if s then .nan else .inf false
  | 0x15, .inf s => .fin s 1 0
  | 0x16, .inf s => if s then .zero else .one
  | _, .inf s => if s then .zero else .inf false
  | _, .fin s m e =>
    if m = 0 then
      (match fn with
       | 0x10 => .one
       | 0x11 => .inf true
       | 0x12 => .inf s
       | 0x13 => .inf false
       | 0x14 => .zero
       | 0x16 => funcFree fn false 0 0
       | _ => .fin s 0 0)
    else if (fn = 0x11 ∨ fn = 0x13 ∨ fn = 0x14) ∧ s = true then .nan
    else if Ext.veq x .one ∧ (fn = 0x12 ∨ fn = 0x13 ∨ fn = 0x14) then .one
    else if Ext.veq x .one ∧ fn = 0x11 then .zero
    else funcFree fn s m e

end Sys2Proof.Machine
end

