-- ==== Sys2Proof/Machine/Vector.lean ====
section
/-! DEFINITION. RED, EPI, VEC and XPOSE: checks at decode and effect (03 R64 to R66, 05 R101 to R104, chapter 06,
08 R164, R165, 09 R192, R193). -/

namespace Sys2Proof.Machine

/-- Rows of runs to store: memory, byte address, bytes. -/
abbrev Runs := List (Bool × Nat × List Byte)

/-- Finish with a report, or with ST_CS_ECC where a store met an uncorrectable quad (11 R259). -/
def Run.ofWrite (w : Bool × State) (r : Report) : Run :=
  if w.1 then .done r w.2 else .done (Report.bad stCsEcc 0) w.2

/-! ### RED (03 R64 to R66, 05 R101) -/

/-- A candidate of a reduction: its stored code, its E8 and its index. -/
structure Cand where
  code : Nat
  e8 : Nat
  index : Nat
  deriving DecidableEq, Repr

/-- The value a candidate is compared by. -/
def Cand.value (f : Fmt) (bs : Bool) (c : Cand) : Ext := if bs then applyE8 (f.decode c.code) c.e8 else f.decode c.code

/-- Candidate `a` beats candidate `b` (R65): NaN first, then the value, then the lower index. -/
def beats (min : Bool) (va vb : Ext) (ia ib : Nat) : Bool :=
  match va.isNan, vb.isNan with
  | true, false => true
  | false, true => false
  | true, true => decide (ia < ib)
  | false, false => if min then (Ext.lt va vb || (Ext.veq va vb && decide (ia < ib)))
      else (Ext.lt vb va || (Ext.veq va vb && decide (ia < ib)))

/-- The winner of a list of candidates, in list order. -/
def winner (f : Fmt) (bs min : Bool) : List Cand → Option Cand
  | [] => none
  | c :: cs => match winner f bs min cs with
    | none => some c
    | some w => if beats min (w.value f bs) (c.value f bs) w.index c.index then some w else some c

/-- The WIN word of Table 5.9. -/
def winWord (f : Fmt) (bs : Bool) (c : Cand) : Nat :=
  if f == .b32 then c.code else c.code % 2 ^ 16 + (if bs then c.e8 else 0x7F) * 2 ^ 24

/-- The running pair of lane `r` as a candidate. -/
def CoreMem.running (m : CoreMem) (f : Fmt) (vreg r : Nat) : Cand :=
  let w := (m.lane (vreg * 512 + r)).toNat
  let i := (m.lane ((vreg + 1) * 512 + r)).toNat
  if f == .b32 then ⟨w, 0x7F, i⟩ else ⟨w % 2 ^ 16, w / 2 ^ 24, i⟩

/-- Decode checks of RED (Table 5.8). -/
def State.checkRed (_s : State) (l : RedLine) : Option Report :=
  match Fmt.ofCode l.fmt with
  | none => some (Report.bad stBadFormat 34)
  | some f =>
    orElseReport
      (firstBad [
        (f == .g8, Report.bad stBadFormat 34),
        (f == .b32 && l.bs, Report.bad stBadFormat 38),
        (l.vreg.getLsbD 0, Report.bad stBadField 39),
        (l.len == 0, Report.bad stBadField 64),
        (decide (l.rows.toNat = 0 ∨ 512 < l.rows.toNat), Report.bad stBadField 80)])
      (spansBad
        (rowSpans false l.src.toNat l.rstr.toNat l.rows.toNat (rowLines f l.len.toNat) ++
         (if l.wb then [⟨false, l.dst.toNat * 32, 8 * l.rows.toNat⟩] else []) ++
         (if l.bs then rowSpans false l.ssrc.toNat (planeLines (ceilDiv l.len.toNat 32)) l.rows.toNat
            (planeLines (ceilDiv l.len.toNat 32)) else [])))

/-- RED (R101). -/
def State.runRed (s : State) (c : CoreId) (l : RedLine) : Run :=
  match Fmt.ofCode l.fmt with
  | none => .done (Report.bad stBadFormat 34) s
  | some f =>
    let v := l.vreg.toNat
    let last := (s.core c).mem.redRec.get none v
    let bad := if l.cont then (match last with
        | some (g, b) => firstBad [(g != l.fmt, Report.bad stBadFormat 34), (b != l.bs, Report.bad stBadFormat 38)]
        | none => none) else none
    match bad with
    | some r => .done r s
    | none =>
      let scales := ceilDiv l.len.toNat 32
      let spans := rowSpans false l.src.toNat l.rstr.toNat l.rows.toNat (rowLines f l.len.toNat) ++
        (if l.bs then rowSpans false l.ssrc.toNat (planeLines scales) l.rows.toNat (planeLines scales) else [])
      match s.checkSpans c spans with
      | (false, s1) => .done (Report.bad stCsEcc 0) s1
      | (true, s1) =>
        let m := (s1.core c).mem
        let go := l.cont && last.isSome
        let wins := (List.range l.rows.toNat).map fun r =>
          let codes := m.rowCodes false f (l.src.toNat + r * l.rstr.toNat) l.len.toNat
          let e8s := if l.bs then m.scales false (l.ssrc.toNat + r * planeLines scales) scales else []
          let cs := codes.zipIdx.map fun x => Cand.mk x.1 (e8s.getD (x.2 / 32) 0x7F) ((l.indexBase.toNat + x.2) % 2 ^ 32)
          (winner f l.bs l.mode ((if go then [m.running f v r] else []) ++ cs)).getD ⟨0, 0x7F, 0⟩
        let ws := wins.map fun w => BitVec.ofNat 32 (winWord f l.bs w)
        let is := wins.map fun w => BitVec.ofNat 32 w.index
        let s2 := s1.modMem c fun m =>
          let m := (m.setLanes (v * 512) ws).setLanes ((v + 1) * 512) is
          { m with redRec := m.redRec.set none v (some (l.fmt, l.bs)) }
        if l.wb then
          Run.ofWrite (s2.writeCore c false (l.dst.toNat * 32)
            (wins.flatMap fun w => bytesLE 4 (winWord f l.bs w) ++ bytesLE 4 w.index)) Report.ok
        else .done Report.ok s2

/-! ### Row operations (06 R126 to R128) -/

/-- Sum of a list in ascending order from its first element. -/
def sumFrom : Ext → List Ext → Ext
  | a, [] => a
  | a, x :: xs => sumFrom (a.add x) xs

/-- Every 512th element from `l` on, summed from its first; a lane without an element gives +0, which the spec does not say
(DESIGN CHOICE, log 77). -/
def laneSum (xs : List Ext) (l : Nat) : Ext :=
  match (List.range (ceilDiv (xs.length - l) 512)).filterMap fun i => xs[l + 512 * i]? with
  | [] => .zero
  | a :: t => sumFrom a t

/-- One level of the binary tree. -/
def pairUp : List Ext → List Ext
  | a :: b :: t => a.add b :: pairUp t
  | t => t

def treeSum (n : Nat) (xs : List Ext) : Ext := match n with
  | 0 => xs.headD .zero
  | n + 1 => treeSum n (pairUp xs)

/-- rowsum of R127. -/
def rowSum (xs : List Ext) : Ext := treeSum 9 ((List.range 512).map (laneSum xs))

def anyBad (xs : List Ext) : Bool := xs.any fun x => !x.isFin

def softmaxRow (xs : List Ext) (imm : Ext) : List Ext :=
  if xs.any (fun x => x.isNan || Ext.veq x (.inf false)) then xs.map fun _ => .nan
  else
    let live := xs.filter Ext.isFin
    match live with
    | [] => xs.map fun _ => .zero
    | a :: t =>
      let m := t.foldl Ext.max a
      let es := xs.map fun x => if x.isFin then func 0x10 (imm.mul (x.sub m)) else .zero
      let r := func 0x12 (rowSum es)
      List.zipWith (fun x e => if x.isFin then e.mul r else .zero) xs es

def rmsRow (xs gs : List Ext) (imm : Ext) : List Ext :=
  if anyBad xs then xs.map fun _ => .nan
  else
    let q := (rowSum (xs.map fun x => x.mul x)).div (Ext.ofNat xs.length)
    let r := func 0x13 (q.add imm)
    List.zipWith (fun x g => (x.mul r).mul g) xs gs

def layerRow (xs gs : List Ext) (imm : Ext) : List Ext :=
  if anyBad xs then xs.map fun _ => .nan
  else
    let n := Ext.ofNat xs.length
    let mu := (rowSum xs).div n
    let ds := xs.map fun x => x.sub mu
    let v := (rowSum (ds.map fun d => d.mul d)).div n
    let r := func 0x13 (v.add imm)
    List.zipWith (fun d g => (d.mul r).mul g) ds gs

def sumRow (xs : List Ext) : Ext := if anyBad xs then .nan else rowSum xs

/-! ### Output conversion (06 R122, 02 R31, R423) -/

/-- Codes, scales and flags of a run converted in blocks of 32. -/
def convBlocks (f : Fmt) (v : Cvt) : List Ext → List Nat → Nat → List Nat × List Nat × Nat
  | _, _, 0 => ([], [], 0)
  | xs, rs, n + 1 =>
    let b := convBlock f v.rnd v.satNan (xs.take 32) rs
    let t := convBlocks f v (xs.drop 32) (rs.drop 32) n
    (b.2.1 ++ t.1, b.1 :: t.2.1, b.2.2 ||| t.2.2)

/-- Codes and flags of a run converted element by element. -/
def convRun (v : Cvt) (xs : List Ext) (rs : List Nat) : List Nat × Nat :=
  xs.zipIdx.foldl (fun q x => let c := narrow v.fmt v.rnd v.satNan (rs.getD x.2 0) x.1; (q.1 ++ [c.1], q.2 ||| c.2)) ([], 0)

/-- The bytes of one super-block of a G8 image (02 Table 2.9). -/
def superBlock (codes scales : List Nat) : List Byte :=
  padTo 32 (scales.map (BitVec.ofNat 8 ·)) ++ padTo 1024 (codes.map (BitVec.ofNat 8 ·))

/-- A whole G8 image from the codes and scales of its blocks, 32 codes a block. -/
def g8Image : Nat → List Nat → List Nat → List Byte
  | 0, _, _ => []
  | n + 1, codes, scales => superBlock (codes.take 1024) (scales.take 32) ++ g8Image n (codes.drop 1024) (scales.drop 32)

/-- A run written under a conversion byte from a line: bytes per address, and flags. The plane row of the scales is filled up
with zeros (02 R424). -/
def runOut (v : Cvt) (line : Nat) (xs : List Ext) (rs : List Nat) : Runs × Nat :=
  if v.fmt == .g8 then
    let b := convBlocks .g8 v xs rs (ceilDiv xs.length 32)
    ([(false, line * 32, g8Image (superBlocks xs.length) b.1 b.2.1)], b.2.2)
  else if v.bscale then
    let b := convBlocks v.fmt v xs rs (ceilDiv xs.length 32)
    ([(false, line * 32, pack v.fmt.bits b.1),
      (false, (line + rowLines v.fmt xs.length) * 32,
        padTo (planeLines (ceilDiv xs.length 32) * 32) (b.2.1.map (BitVec.ofNat 8 ·)))], b.2.2)
  else
    let b := convRun v xs rs
    ([(false, line * 32, pack v.fmt.bits b.1)], b.2)

/-! ### VEC (05 R103, 06 R121 to R128, R136, R137) -/

def vopValid (v : Nat) : Bool :=
  (decide (1 ≤ v) && decide (v ≤ 0x0B)) || (decide (0x10 ≤ v) && decide (v ≤ 0x18)) || v == 0x20 || v == 0x21 ||
    (decide (0x30 ≤ v) && decide (v ≤ 0x33))

/-- LEN fits the registers from one on (R103). -/
def regFits (reg len : Nat) : Bool := decide (len ≤ 512 * (32 - reg % 32))

/-- The drop-out probability is in range (R137). -/
def dropOk (imm : Word) : Bool :=
  let p := ofB32 imm.toNat
  p.isFin && (!Ext.lt p .zero) && Ext.lt p .one

/-- Decode checks of VEC (Table 5.12). -/
def State.checkVec (_s : State) (l : VecLine) : Option Report :=
  let v := l.vop.toNat
  let cs1 := vopUsesS1 v && !l.s1k
  let cs2 := vopUsesS2 v && !l.s2k
  let sf := Fmt.ofCode l.sfmt
  let f := sf.getD .b32
  orElseReport
    (firstBad [
      (!vopValid v, Report.bad stBadField 32),
      ((cs1 || cs2) && !(sf.any Fmt.isLong), Report.bad stBadFormat 40),
      ((Cvt.ofByte l.cvt).isNone, Report.bad stBadFormat 44),
      (l.dk && !((Cvt.ofByte l.cvt).any fun q => q.fmt == .b32 && !q.bscale), Report.bad stBadFormat 44),
      (l.len == 0, Report.bad stBadField 115),
      ((vopUsesS1 v && l.s1k && !regFits l.s1.toNat l.len.toNat) || (vopUsesS2 v && l.s2k && !regFits l.s2.toNat l.len.toNat) ||
        (l.dk && !regFits l.d.toNat l.len.toNat), Report.bad stBadField 115),
      (v == 0x20 && !dropOk l.imm, Report.bad stBadField 131)])
    (spansBad
      ((if cs1 then [Span.lines false l.s1.toNat (rowLines f l.len.toNat)] else []) ++
       (if cs2 then [Span.lines false l.s2.toNat (rowLines f l.len.toNat)] else []) ++
       (match Cvt.ofByte l.cvt with
        | some q => if l.dk then [] else runSpans q.fmt q.bscale l.d.toNat l.outLen
        | none => [])))

/-- A source operand (R121). -/
def CoreMem.vecSrc (m : CoreMem) (kind : Bool) (addr : BitVec 20) (f : Fmt) (len : Nat) : List Ext :=
  if kind then (List.range len).map fun j => ofB32 (m.lane ((addr.toNat % 32) * 512 + j)).toNat
  else (m.rowCodes false f addr.toNat len).map f.decode

/-- An elementwise operation of Table 6.1, exact or rounded to odd (R123). -/
def vecElem (v : Nat) (a b imm : Ext) : Ext :=
  match v with
  | 0x01 => a
  | 0x02 => a.add b
  | 0x03 => a.sub b
  | 0x04 => a.mul b
  | 0x05 => Ext.max a b
  | 0x06 => Ext.min a b
  | 0x07 => a.abs
  | 0x08 => a.neg
  | 0x09 => a.add imm
  | 0x0A => a.mul imm
  | 0x0B => (Ext.addX (Ext.mulX a imm) b).rto
  | _ => func v a

/-- The result elements of a VEC. -/
def vecResult (l : VecLine) (as bs : List Ext) (draw : Purp → Nat → Nat) : List Ext :=
  let v := l.vop.toNat
  let imm := ofB32 l.imm.toNat
  let j0 := l.ebase.toNat
  if v = 0x30 then softmaxRow as imm
  else if v = 0x31 then rmsRow as bs imm
  else if v = 0x32 then layerRow as bs imm
  else if v = 0x33 then [sumRow as]
  else if v = 0x21 then (List.range l.len.toNat).map fun j => (Ext.ofNat (draw .rand (j0 + j))).scale (-16)
  else if v = 0x20 then
    let p := match imm with
      | .fin _ m e => shiftI m (e + 16)
      | _ => 0
    as.zipIdx.map fun x => if draw .dropout (j0 + x.2) < p then .zero else x.1
  else if vopUsesS2 v then List.zipWith (fun a b => vecElem v a b imm) as bs
  else as.map fun a => vecElem v a .zero imm

/-- VEC. -/
def State.runVec (s : State) (c : CoreId) (x : InFlight) (l : VecLine) : Run :=
  match Cvt.ofByte l.cvt with
  | none => .done (Report.bad stBadFormat 44) s
  | some q =>
    let v := l.vop.toNat
    let f := (Fmt.ofCode l.sfmt).getD .b32
    let n := l.len.toNat
    let spans := (if vopUsesS1 v && !l.s1k then [Span.lines false l.s1.toNat (rowLines f n)] else []) ++
      (if vopUsesS2 v && !l.s2k then [Span.lines false l.s2.toNat (rowLines f n)] else [])
    match s.checkSpans c spans with
    | (false, s1) => .done (Report.bad stCsEcc 0) s1
    | (true, s1) =>
      let m := (s1.core c).mem
      let as := if vopUsesS1 v then m.vecSrc l.s1k l.s1 f n else []
      let bs := if vopUsesS2 v then m.vecSrc l.s2k l.s2 f n else []
      let ys := vecResult l as bs fun p j => x.rnd s p l.tid.toNat j
      let rs := if q.rnd == .sr then (List.range ys.length).map fun j => x.rnd s .rounding l.tid.toNat (l.ebase.toNat + j) else []
      let s2 := if q.rnd == .sr || v == 0x20 || v == 0x21 then s1.spend x else s1
      if l.dk then
        let b := convRun q ys rs
        .done ⟨stOk, 0, b.2, 0, 0⟩ (s2.modMem c fun m => m.setLanes ((l.d.toNat % 32) * 512) (b.1.map (BitVec.ofNat 32 ·)))
      else
        let o := runOut q l.d.toNat ys rs
        Run.ofWrite (s2.writeRuns c o.1) ⟨stOk, 0, o.2, 0, 0⟩

/-! ### XPOSE (05 R104, 08 R164, R165) -/

/-- Decode checks of XPOSE (Table 5.13). -/
def State.checkXpose (_s : State) (l : XposeLine) : Option Report :=
  match Fmt.ofCode l.fmt with
  | none => some (Report.bad stBadFormat 32)
  | some f =>
    let r := l.rows.toNat
    let k := l.cols.toNat
    orElseReport
      (firstBad [
        (!f.isArray, Report.bad stBadFormat 32),
        (decide (r = 0 ∨ 1024 < r), Report.bad stBadField 125),
        (l.sq && decide (r % 32 ≠ 0), Report.bad stBadForm 125),
        (decide (k = 0 ∨ 2048 < k), Report.bad stBadField 136),
        (l.sq && decide (k % 32 ≠ 0), Report.bad stBadForm 136)])
      (spansBad
        (rowSpans false l.src.toNat l.srstr.toNat r (rowLines f k) ++
         (if l.sq then [Span.lines false l.ssc.toNat (r / 32 * planeLines (k / 32))] else []) ++
         [Span.lines true l.dst.toNat (k * rowLines f r)] ++
         (if l.sq then [Span.lines true l.dsc.toNat k] else [])))

/-- XPOSE. -/
def State.runXpose (s : State) (c : CoreId) (l : XposeLine) : Run :=
  match Fmt.ofCode l.fmt with
  | none => .done (Report.bad stBadFormat 32) s
  | some f =>
    let r := l.rows.toNat
    let k := l.cols.toNat
    let spans := rowSpans false l.src.toNat l.srstr.toNat r (rowLines f k) ++
      (if l.sq then [Span.lines false l.ssc.toNat (r / 32 * planeLines (k / 32))] else [])
    match s.checkSpans c spans with
    | (false, s1) => .done (Report.bad stCsEcc 0) s1
    | (true, s1) =>
      let m := (s1.core c).mem
      let rows := (List.range r).map fun i => m.rowCodes false f (l.src.toNat + i * l.srstr.toNat) k
      let lines := rowLines f r
      let out := (List.range k).map fun j =>
        (true, (l.dst.toNat + j * lines) * 32, padTo (lines * 32) (pack f.bits (rows.map fun w => w.getD j 0)))
      let planes := (List.range (r / 32)).map fun b => m.scales false (l.ssc.toNat + b * planeLines (k / 32)) (k / 32)
      let scl := if l.sq then (List.range k).map fun j =>
          (true, (l.dsc.toNat + j) * 32, padTo 32 (planes.map fun p => BitVec.ofNat 8 (p.getD (j / 32) 0)))
        else []
      Run.ofWrite (s1.writeRuns c (out ++ scl)) Report.ok

/-! ### EPI (05 R102, 06 R129 to R134, 09 R192, R193) -/

/-- The activation table of Table 6.4. -/
structure ActTable where
  x0 : Ext
  invh : Ext
  xn : Ext
  slo : Ext
  shi : Ext
  y : List Ext
  deriving DecidableEq, Repr

def CoreMem.actTable (m : CoreMem) (line : Nat) : ActTable :=
  let w := fun o => ofB32 (natLE (m.csN (line * 32 + o) 4))
  ⟨w 0, w 4, w 8, w 0x0C, w 0x10, (List.range 256).map fun i => w (0x20 + 4 * i)⟩

/-- The interval of a table offset: the largest integer not above it, held at 254 (R130). -/
def tableIndex : Ext → Nat
  | .fin false m e => min (shiftI m e) 254
  | .inf false => 254
  | _ => 0

/-- table(v) of R130. Below X0, −∞ with slope zero gives the first value; from XN on, +∞ with slope zero gives the last. -/
def ActTable.eval (t : ActTable) (v : Ext) : Ext :=
  if v.isNan || t.x0.isNan || t.xn.isNan then .nan
  else if Ext.lt v t.x0 then
    if v.isInf && t.slo.isZero then t.y.getD 0 .zero else (t.y.getD 0 .zero).add (t.slo.mul (v.sub t.x0))
  else if !Ext.lt v t.xn then
    if v == .inf false && t.shi.isZero then t.y.getD 255 .zero else (t.y.getD 255 .zero).add (t.shi.mul (v.sub t.xn))
  else if !(t.invh.isFin && Ext.lt .zero t.invh) then .nan
  else
    let u := (v.sub t.x0).mul t.invh
    let i := tableIndex u
    let f := u.sub (Ext.ofNat i)
    (t.y.getD i .zero).add (f.mul ((t.y.getD (i + 1) .zero).sub (t.y.getD i .zero)))

/-- Step 5 of Table 6.3. -/
def activate (act : BitVec 3) (t : ActTable) (v : Ext) : Ext :=
  match act.toNat with
  | 0 => v
  | 1 => Ext.max v .zero
  | 2 => func 0x17 v
  | 3 => func 0x18 v
  | _ => t.eval v

/-- The spans an EPI reads besides its tiles. -/
def epiReads (l : EpiLine) (n : Nat) (g8 : Bool) : List Span :=
  [Span.lines false l.scl.toNat 1] ++ (if l.biasEn then (arraysOf l.amask).map (l.biasSpan n) else []) ++
    (if g8 then l.g8Spans n l.tbl.toNat else if l.act = 4 then [Span.lines false l.tbl.toNat 33] else [])

/-- Decode checks of EPI (Table 5.10, R192). -/
def State.checkEpi (s : State) (c : CoreId) (l : EpiLine) : Option Report :=
  let v := Cvt.ofByte l.cvt
  let g8 := v.any fun q => q.fmt == .g8
  let n := (formN l.form).getD 32
  let formOk := (formN l.form).isSome
  let rowsOk := decide (1 ≤ l.rows.toNat ∧ l.rows.toNat ≤ formRows n)
  orElseReport
    (firstBad [
      (l.amask == 0, Report.bad stBadField 32),
      (s.anyDisabled c l.amask, Report.bad stArrayDisabled 0),
      (formOk && rowsOk && decide (32 < l.tile.toNat + regionTiles l.rows.toNat n), Report.bad stBadForm 36),
      (formOk && !rowsOk, Report.bad stBadForm 41),
      (!formOk, Report.bad stBadForm 52),
      (decide (5 ≤ l.act.toNat) || (g8 && l.act != 0), Report.bad stBadField 54),
      (g8 && l.biasEn, Report.bad stBadField 57),
      (v.isNone, Report.bad stBadFormat 60)])
    (match v with
     | none => none
     | some q => spansBad (epiReads l n g8 ++ (if g8 then l.g8Spans n l.dst.toNat else l.rowOut q.fmt q.bscale n)))

/-- Merge a maximum into a step's accumulator of a slot (R132). Where every value of the EPI is a NaN, so that there is no
maximum, zero is merged and VALID is set beside NAN (DESIGN CHOICE, log 77). -/
def AmaxSlot.merge (a : AmaxSlot) (next : Bool) (v : Nat) (nan : Bool) : AmaxSlot :=
  if next then { a with nxt := BitVec.ofNat 32 (max a.nxt.toNat v), nxtValid := true, nxtNan := a.nxtNan || nan }
  else { a with cur := BitVec.ofNat 32 (max a.cur.toNat v), curValid := true, curNan := a.curNan || nan }

/-- The amax of an EPI that captured `step`, with AMX_EN or without (R132, R134): one of an earlier step than STEP only counts. -/
def State.mergeAmax (s : State) (p : PartId) (en : Bool) (i : Nat) (step : BitVec 32) (v : Nat) (nan : Bool) : State :=
  let d := (step - (s.part p).amaxStep).toNat
  if 2 ^ 31 ≤ d then s.countPart p .amxStale 1
  else if en && decide (d < 2) then
    s.modPart p fun q => { q with amax := q.amax.set AmaxSlot.reset i ((q.amax.get AmaxSlot.reset i).merge (d == 1) v nan) }
  else s

/-- The step that an EPI captured; with no SEED in force it is free (log 1). -/
def InFlight.amaxStep (x : InFlight) (s : State) : BitVec 32 := match x.seed with
  | some k => k.step
  | none => BitVec.ofNat 32 s.freeVal

/-- An EPI of step STEP + 2 or later waits for the push (R133). -/
def State.amaxWaits (s : State) (p : PartId) (x : InFlight) : Bool := match x.seed with
  | some k => let d := (k.step - (s.part p).amaxStep).toNat; decide (2 ≤ d ∧ d < 2 ^ 31)
  | none => false

/-- What the epilogue makes of one entry up to step 5, and after step 6. -/
def epiEntry (l : EpiLine) (sab q : Ext) (t : ActTable) (bias : Ext) (e : Ext) : Ext × Ext :=
  let v3 := e.rto.mul sab
  let v4 := if l.biasEn then v3.add bias else v3
  let v5 := (activate l.act t v4).rto
  (v5, v5.mul q)

/-- One block of an exchange EPI (09 R193): E8 and codes of the output, then of the residual, and the flags. -/
def exchangeBlock (v : Cvt) (xs : List Ext) (res : List Nat) (resE8 : Nat) (rs : List Nat) :
    (Nat × List Nat) × (Nat × List Nat) × Nat :=
  let x := List.zipWith (fun a r => a.add (applyE8 (Fmt.f8a.decode r) resE8)) xs res
  let b := convBlock .f8b v.rnd v.satNan x rs
  if b.1 = 0xFF then ((b.1, b.2.1), (0, List.replicate 32 0), b.2.2)
  else
    let r := List.zipWith (fun a q => a.sub (applyE8 (Fmt.f8b.decode q) b.1)) x b.2.1
    let d := convBlock .f8a .rne false r []
    ((b.1, b.2.1), (d.1, d.2.1), b.2.2 ||| d.2.2)

/-- What one row of an EPI writes, with its flags. `vs` are the values after step 6. -/
def epiRow (l : EpiLine) (v : Cvt) (m : CoreMem) (n a r : Nat) (vs : List Ext) (rs : List Nat) : Runs × Nat :=
  if v.fmt == .g8 then
    (List.range (n / 32)).foldl (fun q c =>
      let b := l.block a r c
      let res := (m.csN (g8ElemAt l.tbl.toNat b) 32).map (·.toNat)
      let e8 := (m.csN (g8ScaleAt l.tbl.toNat b) 1).headD 0
      let x := exchangeBlock v ((vs.drop (32 * c)).take 32) res e8.toNat (rs.drop (32 * c))
      (q.1 ++ [(false, g8ElemAt l.dst.toNat b, x.1.2.map (BitVec.ofNat 8 ·)), (false, g8ScaleAt l.dst.toNat b, [BitVec.ofNat 8 x.1.1]),
        (false, g8ElemAt l.tbl.toNat b, x.2.1.2.map (BitVec.ofNat 8 ·)), (false, g8ScaleAt l.tbl.toNat b, [BitVec.ofNat 8 x.2.1.1])],
       q.2 ||| x.2.2)) ([], 0)
  else
    let line := l.dst.toNat + a * l.oastr.toNat + r * l.orstr.toNat
    if v.bscale then
      let b := convBlocks v.fmt v vs rs (n / 32)
      ([(false, line * 32, pack v.fmt.bits b.1),
        (false, (l.dst.toNat + a * l.oastr.toNat + l.rows.toNat * l.orstr.toNat + r * planeLines (n / 32)) * 32,
          padTo 32 (b.2.1.map (BitVec.ofNat 8 ·)))], b.2.2)
    else
      let b := convRun v vs rs
      ([(false, line * 32, pack v.fmt.bits b.1)], b.2)

/-- Everything a drained region writes: runs, flags, the largest magnitude and whether a NaN was met; and the entry that
failed parity, where the rows stop (03 R63). -/
structure EpiOut where
  runs : Runs
  flags : Nat
  amax : Ext
  nan : Bool
  bad : Option (Nat × Nat)
  deriving DecidableEq, Repr

/-- One row of one array, unless an earlier entry has failed. -/
def epiStep (l : EpiLine) (v : Cvt) (m : CoreMem) (n : Nat) (sab q : Ext) (t : ActTable) (draw : Nat → Nat) (o : EpiOut)
    (ar : Nat × Nat) : EpiOut :=
  let (a, r) := ar
  if o.bad.isSome then o
  else match m.badInRow l.tile.toNat n r [a] with
    | some b => { o with bad := some b }
    | none =>
      let es := (List.range n).map fun i =>
        let k := r * n + i
        let e := (m.entry (regionKey a l.tile.toNat k)).exact (m.tileOfs (tileKey a (l.tile.toNat + k / 1024))).toInt
        let b := if l.biasEn then ofB32 (natLE (m.csN (l.bias.toNat * 32 + 4 * (a * n + i)) 4)) else .zero
        epiEntry l sab q t b e
      let v5 := es.map (·.1)
      let idx := l.ebase.toNat + a * l.rows.toNat * n + r * n
      let rs := if v.rnd == .sr then (List.range n).map fun i => draw (idx + i) else []
      let w := epiRow l v m n a r (es.map (·.2)) rs
      { o with
        runs := o.runs ++ w.1
        flags := o.flags ||| w.2
        amax := v5.foldl (fun b x => if x.isNan then b else if Ext.lt b x.abs then x.abs else b) o.amax
        nan := o.nan || v5.any Ext.isNan }

/-- EPI and the exchange EPI. -/
def State.runEpi (s : State) (c : CoreId) (x : InFlight) (l : EpiLine) : Run :=
  match formN l.form, Cvt.ofByte l.cvt, (s.core c).part with
  | some n, some v, some p =>
    if s.amaxWaits p x then .blocked s
    else match s.checkSpans c (epiReads l n (v.fmt == .g8)) with
      | (false, s1) => .done (Report.bad stCsEcc 0) s1
      | (true, s1) =>
        let m := (s1.core c).mem
        let w := fun o => ofB32 (natLE (m.csN (l.scl.toNat * 32 + o) 4))
        let sab := (w 0).mul (w 4)
        let rowsOf := (arraysOf l.amask).flatMap fun a => (List.range l.rows.toNat).map fun r => (a, r)
        let o := rowsOf.foldl (epiStep l v m n sab (w 8) (m.actTable l.tbl.toNat) (fun j => x.rnd s .rounding l.tid.toNat j))
          ⟨[], 0, .zero, false, none⟩
        let s3 := (s1.spend x).mergeAmax p l.amxEn l.amx.toNat (x.amaxStep s) (upB32 o.amax) o.nan
        match o.bad with
        | none => Run.ofWrite (s3.writeRuns c o.runs) ⟨stOk, 0, o.flags, 0, 0⟩
        | some b =>
          let t := (s3.writeRuns c o.runs).2
          .done ⟨stAccParity, afParity, o.flags, 0, 0⟩ (t.logParity c p.val b.1 l.tile.toNat b.2)
  | _, _, _ => .done (Report.bad stBadForm 52) s

end Sys2Proof.Machine
end

