-- ==== Sys2Proof/Machine/A2a.lean ====
section
/-! DEFINITION. The all-to-all of the collective engine (13 R305 to R307, 07 R151, R153): messages, their delivery into
items, and the returned records. -/

namespace Sys2Proof.Machine

/-- The key of this module's own messages in a queue's all-to-all credit book. -/
def localSess : Nat := 8192

/-- The 8 bytes of a segment list record (R305). -/
def recBytes32 (r : A2aRec) : List Byte :=
  bytesLE 8 (r.a2aq.toNat + r.j.toNat * 2 ^ 20 + (if r.refused then 2 ^ 29 else 0) + r.count.toNat * 2 ^ 32 + r.item.toNat * 2 ^ 48)

/-- The bytes of a message: record count, ROWB, records padded to 32 bytes, rows (R305). -/
def msgBytes (m : A2aMsg) : List Byte :=
  let head := bytesLE 4 m.recs.length ++ bytesLE 4 m.rowb.toNat ++ m.recs.flatMap recBytes32
  padTo (roundUp head.length 32) head ++ m.rows.flatten

/-- The segment base of a permute or return buffer with NEXP experts (07 Table 7.5). -/
def segBase (nexp : Nat) : Nat := 0x40 + 32 * ceilDiv nexp 2

/-! ### The source: returned records (07 R153, 13 R307) -/

/-- The return item that a record names. -/
def State.returnItem (s : State) (p : PartId) (r : A2aRec) : Option (Queue × Item) := match s.queue r.a2aq with
  | none => none
  | some q =>
    if q.part ≠ p then none
    else (q.items.find? fun i => i.n % 65536 == r.item.toNat && i.expect.isSome).map fun i => (q, i)

/-- Write one returned record into its return item, with the rows it brings: false where a write did not land. -/
def State.takeReturn (s : State) (p : PartId) (rowb : Nat) (r : A2aRec) (rows : List (List Byte)) : Bool × State :=
  match s.returnItem p r with
  | none => (true, s)
  | some (q, i) =>
    let row := match i.table.find? fun t => t.record.j == r.j with
      | some t => t.row
      | none => 0
    let off := q.slotOff i.n
    let w := if r.refused then (true, s) else s.fillQueue q (off + segBase (i.total.getD 0) + row * rowb) rows.flatten
    let st := if r.refused then 2 else 1
    let cnt := if r.refused then 0 else r.count.toNat
    let d := w.2.fillQueue q (off + 0x40 + 8 * r.j.toNat) (bytesLE 8 (cnt + st * 2 ^ 16))
    if w.1 && d.1 then
      (true, match d.2.queue r.a2aq with
        | some z => d.2.setQueue r.a2aq (z.putItem { i with back := i.back ++ [r.j.toNat] })
        | none => d.2)
    else (false, d.2)

/-- The records of a message in list order, each with its rows. -/
def splitRows : List A2aRec → List (List Byte) → List (A2aRec × List (List Byte))
  | [], _ => []
  | r :: rs, rows => let n := if r.refused then 0 else r.count.toNat; (r, rows.take n) :: splitRows rs (rows.drop n)

/-- One answer of module `src` to a return item. -/
def Item.answered (i : Item) (src : BitVec 14) : Item := match i.expect with
  | some l => let left := l.erase src; { i with expect := some left, full := i.full || left.isEmpty }
  | none => i

/-- The oldest return item of a partition that still waits for `src`, by the numbers of the queues. -/
def State.oldestHand (s : State) (p : PartId) (src : BitVec 14) : Option Nat :=
  s.qids.findSome? fun a => match s.queue a with
    | some q => if q.part ≠ p then none else (q.items.find? fun i => (match i.expect with
        | some l => l.contains src
        | none => false) && !i.passed).map (·.hand)
    | none => none

/-- The hand-off that a return message answers: that of the items its records name; a message without records answers the oldest
that waits for its module (R305, R307; log 81). -/
def State.handOf (s : State) (p : PartId) (src : BitVec 14) (m : A2aMsg) : Option Nat :=
  match m.recs.findSome? fun r => s.returnItem p r with
  | some (_, i) => some i.hand
  | none => if m.recs.isEmpty then s.oldestHand p src else none

/-- Every return item of a hand-off takes one answer of module `src`. -/
def State.answerHand (s : State) (p : PartId) (src : BitVec 14) (h : Nat) : State :=
  s.modEng fun e => { e with queues := e.queues.map fun x => (x.1, x.2.map fun q =>
    if q.part = p then { q with items := q.items.map fun i => if i.expect.isSome && i.hand == h && !i.passed then i.answered src else i }
    else q) }

/-- The records of a return message in turn, until a write does not land. -/
def State.takeReturns (s : State) (p : PartId) (rowb : Nat) : List (A2aRec × List (List Byte)) → Bool × State
  | [] => (true, s)
  | r :: rs => match s.takeReturn p rowb r.1 r.2 with
    | (true, s1) => State.takeReturns s1 p rowb rs
    | (false, s1) => (false, s1)

/-- A return message from module `src` reaches the source (R307); it waits for the descriptor of its queue (10 R221). -/
def State.a2aReturned (s : State) (p : PartId) (src : BitVec 14) (m : A2aMsg) : State :=
  if m.recs.any fun r => !s.cached r.a2aq then s.hold (.a2aBack p src m) else match s.takeReturns p m.rowb.toNat (splitRows m.recs m.rows) with
  | (false, s1) => s1
  | (true, s1) => match s.handOf p src m with
    | some h => s1.answerHand p src h
    | none => s1

/-! ### Sending -/

/-- Send a message towards module `dst`: a local message takes the local path, a return needs no credit, a dispatch waits
for one (R306). Delivery of local dispatches is the caller's, from `localA2a`. -/
def State.a2aSend (s : State) (p : PartId) (dst : BitVec 14) (ret : Bool) (m : A2aMsg) : State :=
  if dst = s.moduleId then
    if ret then s.a2aReturned p dst m else s.modEng fun e => { e with localA2a := e.localA2a ++ [(p, m)] }
  else match s.needSess p dst with
    | (none, s1) => s1
    | (some i, s1) =>
      let mk := fun k : Pkt => { k with dq := m.dq, coll := 3, ret := ret, cgrp := m.cgrp }
      if ret then (s1.sendMsg i mk (msgBytes m)).2
      else match s1.sess i with
        | none => s1
        | some d =>
          let n := d.credits.get 0 m.dq.toNat
          if 0 < n then
            ((s1.setSess i (some { d with credits := d.credits.set 0 m.dq.toNat (n - 1) })).sendMsg i mk (msgBytes m)).2
          else
            let k := { mk (s1.mkPkt d tyData []) with payload := (msgBytes m) }
            (s1.setSess i (some { d with a2aWait := d.a2aWait ++ [k] })).sendCredit i m.dq 0 0 true

/-! ### The receiver (R306) -/

/-- Log EV_A2A_TABLE with queue, item and source. -/
def State.logA2a (s : State) (p : PartId) (q : Qid) (item : Nat) (src : BitVec 14) : State :=
  s.logEvent evA2aTable 49 p.val (bytesLE 4 q.toNat ++ bytesLE 2 item ++ bytesLE 2 src.toNat)

/-- Whether an item is the open all-to-all item that takes the next message of `src`. -/
def Item.takes (i : Item) (src : BitVec 14) : Bool :=
  !i.closed && i.expect.isNone && !i.heard.isEmpty && !i.heard.contains src

/-- What appending records has come to: the state, the item, whether the rest is refused, a refusal happened, and a write did
not land. -/
structure Append where
  s : State
  item : Item
  stop : Bool
  refused : Bool
  bad : Bool

/-- Append one record with its rows, or refuse it. -/
def appendRec (a : Append) (q : Queue) (src : BitVec 14) (rowb : Nat) (r : A2aRec × List (List Byte)) : Append :=
  if a.bad then a else
  let n := r.1.count.toNat
  let past := a.stop || decide (q.slotb < (a.item.rows + n) * rowb)
  let crowd := decide (0 < n ∧ 1024 ≤ (a.item.table.filter fun t => t.record.count != 0 && !t.record.refused).length)
  if past || crowd then
    { a with item := { a.item with table := a.item.table ++ [⟨src, { r.1 with refused := true, count := 0 }, a.item.rows⟩] },
             stop := past, refused := true }
  else
    let w := a.s.fillQueue q (q.slotOff a.item.n + a.item.rows * rowb) r.2.flatten
    { a with
      s := w.2
      bad := !w.1
      item := { a.item with table := a.item.table ++ [⟨src, r.1, a.item.rows⟩], rows := a.item.rows + n } }

/-- The whole message is refused: every record comes back with REFUSED = 1 and no rows. -/
def State.a2aRefuse (s : State) (p : PartId) (src : BitVec 14) (m : A2aMsg) : State :=
  let back := { m with recs := m.recs.map fun r => { r with refused := true, count := 0 }, rows := [] }
  (s.logA2a p m.dq 0 src).a2aSend p src true back

/-- A dispatch message of module `src` reaches queue DQ (R306, 07 R151); it waits for the queue's descriptor (10 R221). -/
def State.a2aDeliver (s : State) (p : PartId) (src : BitVec 14) (m : A2aMsg) : State :=
  match s.queue m.dq with
  | none => s.a2aRefuse p src m
  | some q =>
    if !(q.isRxp && q.slotted) || q.part != p then s.a2aRefuse p src m
    else if !s.cached m.dq then s.hold (.a2a p src m)
    else
      let fresh := (q.items.find? fun i => i.takes src).isNone
      if fresh && !q.room then s
      else
        let members := match s.cgroup m.cgrp with
          | some g => g.members
          | none => []
        let q1 := if fresh then q.alloc fun i => { i with
            heard := [src], missing := (members.filter (· != src)).map fun x => (x, false), rowb := m.rowb.toNat } else q
        let at_ := if fresh then q.ppos else match q.items.find? fun i => i.takes src with
          | some i => i.n
          | none => q.ppos
        match q1.item at_ with
        | none => s
        | some i =>
          let i1 := if fresh then i else { i with heard := i.heard ++ [src], missing := i.missing.filter fun x => x.1 != src }
          let a := (splitRows m.recs m.rows).foldl (fun a r => appendRec a q1 src m.rowb.toNat r) (Append.mk s i1 false false false)
          if a.bad then a.s else
          let s1 := if a.refused then a.s.logA2a p m.dq (at_ % 65536) src else a.s
          let all := members.all fun x => a.item.heard.contains x
          let used := a.item.rows * m.rowb.toNat
          match if all then s1.fillQueue q1 (q1.slotOff at_ + used) (List.replicate (q1.slotb - used) 0) else (true, s1) with
          | (true, s2) => s2.setQueue m.dq (q1.putItem { a.item with closed := all, full := all, bytes := used })
          | (false, s2) => s2

/-- Deliver the module's own waiting messages whose queue has a credit for them; `n` bounds how many are looked at. -/
def State.drainLocal (s : State) : List (PartId × A2aMsg) → State
  | [] => s
  | (p, m) :: t =>
    let ok := match s.queue m.dq with
      | some q => !(q.isRxp && q.slotted) || q.part != p || q.canGrantA2a localSess
      | none => true
    if ok then
      let s1 := s.modEng fun e => { e with localA2a := e.localA2a.erase (p, m) }
      let s2 := match s1.queue m.dq with
        | some q => if q.isRxp && q.slotted && q.part == p then
              s1.setQueue m.dq { q with a2aGrants := q.a2aGrants.set 0 localSess (q.a2aGrants.get 0 localSess + 1) } else s1
        | none => s1
      State.drainLocal (s2.a2aDeliver p s2.moduleId m) t
    else State.drainLocal s t

/-- Offer this module's own waiting all-to-all messages to their queues. -/
def State.localA2a (s : State) : State := s.drainLocal s.eng.localA2a

end Sys2Proof.Machine
end

