-- ==== Sys2Proof/Machine/Route.lean ====
section
/-! DEFINITION. ROUTE (chapter 07): selection and weights, rounds and their admission, the permute buffer and its map,
the reuse of a map, and the combine. -/

namespace Sys2Proof.Machine

/-! ### Fields of lines and headers -/

/-- The placement table of a ROUTE, when one is loaded at PTAB with the same NEXP (05 R105, 07 R144). -/
def State.ptab (s : State) (p : PartId) (l : RouteLine) : Option PlaceTab :=
  match (s.part p).place.get none l.ptab.toNat with
  | some t => if t.nexp = l.experts then some t else none
  | none => none

/-- Decode checks of ROUTE (Table 5.14, R142, R143, R146, 13 R297). -/
def State.checkRoute (s : State) (p : PartId) (l : RouteLine) : Option Report :=
  orElseReport
    (firstBad [
      (decide (1 < l.rfn.toNat), Report.bad stBadField 32),
      (decide (l.k.toNat = 0 ∨ 8 < l.k.toNat ∨ l.experts < l.k.toNat), Report.bad stBadField 35),
      (l.tokens == 0, Report.bad stBadField 56),
      ((s.ptab p l).isNone, Report.bad stBadPlacement 0),
      (l.rfn == 0 && l.cap == 0, Report.bad stBadField 120),
      (l.norm == 3, Report.bad stBadField 136),
      ((s.cgroupOf p l.cgrp).isNone, Report.bad stBadField 158)])
    (spansBad
      (if l.rfn = 0 then [Span.lines false l.dst.toNat (2 + ceilDiv l.experts 2)]
       else [Span.lines false l.src.toNat (2 + ceilDiv l.experts 2), Span.lines false l.dst.toNat 1]))

/-- The rows of logits of an RFN 0 (R141). -/
def logitSpan (l : RouteLine) : Span := Span.lines false l.src.toNat (l.tokens.toNat * ceilDiv l.experts 8)

/-- The route header of Table 7.4. -/
structure RouteHdr where
  xaddr : Nat
  xstr : Nat
  rowb : Nat
  map : Nat
  mode : Nat
  xfmt : BitVec 4
  xhigh : Nat
  bufend : Nat
  deriving DecidableEq, Repr

def CoreMem.routeHdr (m : CoreMem) (line : Nat) : RouteHdr :=
  let b := m.csN (line * 32) 64
  ⟨fieldLE b 0 4 % 2 ^ 20, fieldLE b 4 2, fieldLE b 6 2, fieldLE b 8 4 % 2 ^ 20, fieldLE b 0x0C 1,
   BitVec.ofNat 4 (fieldLE b 0x0D 1), fieldLE b 0x0D 1 / 16, fieldLE b 0x10 4 % 2 ^ 20⟩

def RouteHdr.reuse (h : RouteHdr) : Bool := h.mode.testBit 0
def RouteHdr.scalew (h : RouteHdr) : Bool := h.mode.testBit 1

/-- Lines of the map per token. -/
def mapLines (k : Nat) : Nat := ceilDiv k 4

/-- The header checks of R148, and the bounds of the map. -/
def State.checkRouteHdr (s : State) (p : PartId) (l : RouteLine) (h : RouteHdr) : Option Report :=
  let f := Fmt.ofCode h.xfmt
  let size := segBase l.experts + l.k.toNat * l.tokens.toNat * h.rowb
  let fin := l.dst.toNat + ceilDiv size 32
  firstBad [
    (decide (h.rowb % 32 ≠ 0 ∨ h.rowb < 32 ∨ 16384 < h.rowb), Report.bad stBadField 0x80000006),
    (decide (4 ≤ h.mode), Report.bad stBadField 0x8000000C),
    (h.scalew && (decide (h.xhigh ≠ 0) || !(f.any Fmt.isArray)), Report.bad stBadFormat 0x8000000D),
    (!h.reuse && !(logitSpan l).inside, Report.bad stBadAddress l.src.toNat),
    (!(match s.queue l.a2aq with
      | some q => q.isRxp && q.slotted && q.part == p
      | none => false), Report.bad stBadField 138),
    (decide (h.bufend < fin ∨ csLines < fin), Report.bad stBadAddress h.bufend),
    (decide (csLines < h.map + l.tokens.toNat * mapLines l.k.toNat), Report.bad stBadAddress h.map)]

/-! ### Selection and weights (R142, R143) -/

/-- The best candidate of a list under R65: NaN first, the larger value, the lower number. -/
def bestLogit : List (Nat × Ext) → Option (Nat × Ext)
  | [] => none
  | a :: t => match bestLogit t with
    | none => some a
    | some b => if beats false b.2 a.2 b.1 a.1 then some b else some a

/-- K successive maximum reductions. -/
def chooseK : Nat → List (Nat × Ext) → List (Nat × Ext)
  | 0, _ => []
  | k + 1, xs => match bestLogit xs with
    | none => []
    | some b => b :: chooseK k (xs.filter fun x => x.1 != b.1)

/-- Experts and weights of one token, before the conversion to B32. A -∞ logit has weight 0, whatever the divisor. -/
def routeWeights (norm : BitVec 2) (k : Nat) (logits : List Ext) : List (Nat × Ext) :=
  let chosen := chooseK k (logits.zipIdx.map fun x => (x.2, x.1))
  let ws :=
    if norm = 0 then softmaxRow (chosen.map (·.2)) .one
    else
      let all := softmaxRow logits .one
      let mine := chosen.map fun c => all.getD c.1 .zero
      if norm = 1 then mine
      else match mine with
        | [] => []
        | a :: t =>
          let d := sumFrom a t
          List.zipWith (fun c x => if Ext.veq c.2 (.inf true) && x.isZero then .zero else x.div d) chosen mine
  List.zipWith (fun c w => (c.1, w)) chosen ws

/-- Experts and B32 weights of one token. -/
def routeToken (norm : BitVec 2) (k : Nat) (logits : List Ext) : List (Nat × Nat) :=
  (routeWeights norm k logits).map fun c => (c.1, toB32 c.2)

/-- CVT_FLAGS of the conversions of one token's weights (02 R38). -/
def routeFlags (norm : BitVec 2) (k : Nat) (logits : List Ext) : Nat :=
  (routeWeights norm k logits).foldl (fun a c => a ||| (narrow .b32 .rne false 0 c.2).2) 0

/-- The logits of token `t` of a ROUTE. -/
def CoreMem.logitsOf (m : CoreMem) (l : RouteLine) (t : Nat) : List Ext :=
  (m.rowCodes false .b32 (l.src.toNat + t * ceilDiv l.experts 8) l.experts).map ofB32

/-- What selection gives for every token of a ROUTE, and the flags of its conversions. -/
def CoreMem.select (m : CoreMem) (l : RouteLine) : List (List (Nat × Nat)) :=
  (List.range l.tokens.toNat).map fun t => routeToken l.norm l.k.toNat (m.logitsOf l t)

def CoreMem.selectFlags (m : CoreMem) (l : RouteLine) : Nat :=
  (List.range l.tokens.toNat).foldl (fun a t => a ||| routeFlags l.norm l.k.toNat (m.logitsOf l t)) 0

/-! ### Copies and admission (R145, R146) -/

/-- The directory entry of each rank of a token, none for a null expert (R145). `used` are the modules already taken. -/
def copiesOf (tab : PlaceTab) : List (BitVec 14) → Nat → List Nat → List (Option Nat)
  | _, _, [] => []
  | used, rank, e :: es => match tab.ents[e]? with
    | none => none :: copiesOf tab used (rank + 1) es
    | some ent =>
      if ent.null then none :: copiesOf tab used (rank + 1) es
      else if tab.repl && decide (0 < rank) && !ent.noAlt && used.contains ent.mod then
        some (tab.nexp + e) :: copiesOf tab (used ++ [ent.altmod]) (rank + 1) es
      else some e :: copiesOf tab (used ++ [ent.mod]) (rank + 1) es

/-- An assignment: member core, token, rank, expert, weight and directory entry. -/
structure Assign where
  core : CoreId
  tok : Nat
  rank : Nat
  exp : Nat
  w : Nat
  dir : Option Nat
  deriving DecidableEq, Repr

/-- Every assignment of a member. -/
def memberAssigns (tab : PlaceTab) (m : RoundMember) : List Assign :=
  m.sel.zipIdx.flatMap fun t =>
    let ds := copiesOf tab [] 0 (t.1.map (·.1))
    t.1.zipIdx.map fun r => ⟨m.core, t.2, r.2, r.1.1, r.1.2, ds.getD r.2 none⟩

/-- The candidates of a copy in the order of R146: by rank, then core, then token. -/
def candidates (k : Nat) (as : List Assign) (j : Nat) : List Assign :=
  (List.range k).flatMap fun r => allCores.flatMap fun c => as.filter fun a => a.dir == some j && a.rank == r && a.core == c

/-- The admission of a round: per directory entry the admitted assignments in admission order and the demand. -/
structure Admission where
  admitted : List (List Assign)
  demand : List Nat
  deriving DecidableEq, Repr

def admitCandidates (tab : PlaceTab) (k cap : Nat) (as : List Assign) : Admission :=
  let cs := (List.range (2 * tab.nexp)).map fun j => candidates k as j
  ⟨cs.map fun c => c.take cap, cs.map List.length⟩

/-! ### The permute buffer, the map and the hand-off (R149 to R151, 13 R305, R307) -/

/-- What one command hands over: per directory entry the rows (as bytes) and what to write in the directory. -/
structure Segs where
  core : CoreId
  token : Nat
  line : RouteLine
  hdr : RouteHdr
  rows : List (List (List Byte))
  admitN : List Nat
  demandN : List Nat
  /-- directory entries listed in messages -/
  listed : List Bool
  deriving DecidableEq, Repr

/-- A directory entry of Table 7.6. -/
def dirEntry (count admitN demandN : Nat) : List Byte :=
  bytesLE 8 (count % 65536 + (admitN % 65536) * 2 ^ 16 + (min demandN 65535) * 2 ^ 32)

/-- Write directory and segments of a permute buffer. -/
def State.writeBuffer (s : State) (g : Segs) : Bool × State :=
  let base := g.line.dst.toNat * 32
  let dir := (List.range (2 * g.line.experts)).flatMap fun j => dirEntry (g.rows.getD j []).length (g.admitN.getD j 0) (g.demandN.getD j 0)
  s.writeRuns g.core [(false, base + 0x40, dir), (false, base + segBase g.line.experts, (g.rows.flatten).flatten)]

/-- Every (module, queue) that a placement table names, once each: alternates too, whether REPL lets them be used or not (R151). -/
def tableTargets (tab : PlaceTab) : List (BitVec 14 × Qid) :=
  ((tab.ents.flatMap fun e => (if e.null then [] else [(e.mod, e.dq)]) ++ (if e.noAlt then [] else [(e.altmod, e.altdq)]))).dedup

/-- The module and queue of a directory entry. -/
def dirTarget (tab : PlaceTab) (j : Nat) : Option (BitVec 14 × Qid) :=
  match tab.ents[j % tab.nexp]? with
  | none => none
  | some e => if e.null then none else if j < tab.nexp then some (e.mod, e.dq)
      else if e.noAlt then none else some (e.altmod, e.altdq)

/-- The records a command contributes to the message for a target. -/
def segRecs (tab : PlaceTab) (g : Segs) (item : Nat) (t : BitVec 14 × Qid) : List (A2aRec × List (List Byte)) :=
  (List.range (2 * tab.nexp)).filterMap fun j =>
    if dirTarget tab j = some t ∧ g.listed.getD j false = true then
      some (⟨g.line.a2aq, BitVec.ofNat 9 j, false, BitVec.ofNat 16 (g.rows.getD j []).length, BitVec.ofNat 16 item⟩, g.rows.getD j [])
    else none

/-- Allocate the return item of a command in its A2AQ (13 R307): the modules it hands segments to, and where segment j
begins; `hand` names the hand-off. -/
def State.openReturn (s : State) (tab : PlaceTab) (hand : Nat) (g : Segs) : State :=
  match s.queue g.line.a2aq with
  | none => s
  | some q =>
    let starts := (List.range (2 * tab.nexp)).map fun j => ((g.rows.take j).map List.length).sum
    let owes := (tableTargets tab).filterMap fun t => if s.eng.lostMods.contains t.1 then none else some t.1
    let table := (List.range (2 * tab.nexp)).filterMap fun j => match dirTarget tab j with
      | some t => some (RetRec.mk t.1 ⟨g.line.a2aq, BitVec.ofNat 9 j, false, BitVec.ofNat 16 (g.rows.getD j []).length, 0⟩ (starts.getD j 0))
      | none => none
    let s1 := s.setQueue g.line.a2aq (q.alloc fun i => { i with
      closed := true, expect := some owes, full := owes.isEmpty, total := some tab.nexp, table := table, hand := hand })
    (table.filter fun r => s.eng.lostMods.contains r.src).foldl (fun t r => t.writeLost q q.ppos r.record.j.toNat) s1

/-- The return items of every command of a list can be allocated: their queues' descriptors are there, with slots free. -/
def State.returnsFree (s : State) (gs : List Segs) : Bool :=
  gs.all fun g => match s.queue g.line.a2aq with
    | some q =>
      let n := (gs.filter fun h => h.line.a2aq == g.line.a2aq).length
      s.cached g.line.a2aq && q.en && decide (q.ppos + n ≤ q.dpos + q.limit) && (List.range n).all fun i => q.slotFree (q.ppos + i)
    | none => true

/-- Send the round's messages, one to each target (13 R305); a message has one ROWB, that of the member on the lowest core where
the headers of a round differ (DESIGN CHOICE, log 81). `gs` gives each command's return item. -/
def State.handoff (s : State) (p : PartId) (tab : PlaceTab) (cgrp : BitVec 16) (gs : List (Segs × Nat)) :
    List (BitVec 14 × Qid) → State
  | [] => s
  | t :: ts =>
    let recs := gs.flatMap fun g => segRecs tab g.1 g.2 t
    let rowb := match gs with
      | g :: _ => g.1.hdr.rowb
      | [] => 0
    let m : A2aMsg := ⟨0, t.2, cgrp, BitVec.ofNat 32 rowb, recs.map (·.1), recs.flatMap (·.2)⟩
    let s1 := if s.eng.lostMods.contains t.1 then s else s.a2aSend p t.1 false m
    State.handoff s1 p tab cgrp gs ts

/-- Allocate every return item in turn, giving each command its item number. -/
def State.openReturns (s : State) (tab : PlaceTab) (hand : Nat) : List Segs → List (Segs × Nat) × State
  | [] => ([], s)
  | g :: gs =>
    let n := match s.queue g.line.a2aq with
      | some q => q.ppos
      | none => 0
    let r := (s.openReturn tab hand g).openReturns tab hand gs
    ((g, n) :: r.1, r.2)

/-- A number that names a hand-off: its first return item, by queue and position. -/
def State.handName (s : State) : List Segs → Nat
  | [] => 0
  | g :: _ => (match s.queue g.line.a2aq with
    | some q => q.ppos
    | none => 0) * 2 ^ 20 + g.line.a2aq.toNat

/-- Write the buffers of a list of commands; the first that fails stops. -/
def State.writeBuffers (s : State) : List Segs → Bool × State
  | [] => (true, s)
  | g :: gs => match s.writeBuffer g with
    | (true, s1) => State.writeBuffers s1 gs
    | (false, s1) => (false, s1)

/-- Buffers, return items and messages of a dispatch. -/
def State.dispatch (s : State) (p : PartId) (tab : PlaceTab) (cgrp : BitVec 16) (gs : List Segs) : Bool × State :=
  let w := s.writeBuffers gs
  let r := w.2.openReturns tab (w.2.handName gs) gs
  (w.1, (r.2.handoff p tab cgrp r.1 (tableTargets tab)).localA2a)

/-- A map record of Table 7.7. -/
def mapRecord (exp : Nat) (adm nul alt : Bool) (slot w : Nat) : List Byte :=
  bytesLE 8 (exp % 256 + (if adm then 2 ^ 8 else 0) + (if nul then 2 ^ 9 else 0) + (if alt then 2 ^ 10 else 0) + (slot % 65536) * 2 ^ 16 + w * 2 ^ 32)

/-- The place of an assignment in its member's segment, when it is admitted. -/
def slotIn (ad : Admission) (a : Assign) : Option Nat := match a.dir with
  | none => none
  | some j => ((ad.admitted.getD j []).filter fun b => b.core == a.core).findIdx? fun b => b.tok == a.tok && b.rank == a.rank

/-- What a member hands over after admission, its map and its two counts (R149 to R151). -/
def memberSegs (mem : CoreMem) (tab : PlaceTab) (ad : Admission) (m : RoundMember) : Segs :=
  let h := mem.routeHdr m.line.dst.toNat
  let rows := ad.admitted.map fun as => (as.filter fun a => a.core == m.core).map fun a => mem.csN ((h.xaddr + a.tok * h.xstr) * 32) h.rowb
  ⟨m.core, m.token, m.line, h, rows, ad.admitted.map List.length, ad.demand, (List.range (2 * tab.nexp)).map fun j => decide (0 < ad.demand.getD j 0)⟩

def mapRuns (h : RouteHdr) (tab : PlaceTab) (ad : Admission) (l : RouteLine) (as : List Assign) : Runs :=
  (List.range l.tokens.toNat).map fun t =>
    (false, (h.map + t * mapLines l.k.toNat) * 32,
     (as.filter fun a => a.tok == t).flatMap fun a =>
       let sl := slotIn ad a
       mapRecord a.exp sl.isSome a.dir.isNone (match a.dir with
         | some j => decide (tab.nexp ≤ j)
         | none => false) (sl.getD 0) a.w)

/-- Assignments over capacity and tokens without an admitted assignment (R151, R156). -/
def overOf (ad : Admission) (as : List Assign) : Nat := (as.filter fun a => a.dir.isSome && (slotIn ad a).isNone).length
def unroutedOf (ad : Admission) (l : RouteLine) (as : List Assign) : Nat :=
  ((List.range l.tokens.toNat).filter fun t => !(as.any fun a => a.tok == t && (slotIn ad a).isSome)).length
def nanOf (m : RoundMember) : Nat := (m.sel.filter fun t => t.any fun x => (ofB32 x.2).isNan).length

/-! ### Rounds (R138 to R140) -/

/-- The first field in which a line differs from the round's first member (R138). -/
def roundDiffers (a b : RouteLine) : Option Report :=
  firstBad [
    (a.k != b.k, Report.bad stBadField 35),
    (a.nexp != b.nexp, Report.bad stBadField 40),
    (a.cap != b.cap, Report.bad stBadField 120),
    (a.norm != b.norm, Report.bad stBadField 136)]

/-- A complete round that has not been admitted. -/
def Round.complete (r : Round) : Bool := !r.admitted && !r.ended && decide (r.nsrc ≤ r.members.length)

/-- Bytes that the router permutes in a window at PL0: 4 KiB a cycle of 1.8 GHz (Table 7.9). -/
def routerCap : Nat := 4096 * 18 * shareWindow / 10

/-- A complete round of a real-time partition within its share comes before what the router does for partition `p`, at every stage (R159,
01 R16). -/
def State.routerYields (s : State) (p : PartId) : Bool :=
  !s.inShare pointRouter routerCap p && s.eng.rounds.any fun q => q.complete && s.inShare pointRouter routerCap q.part

/-- An RFN 0 that dispatches a map again (R157). It has started, and waits for the router or for a return slot (R159, 13 R307). -/
def State.runReuse (s : State) (c : CoreId) (p : PartId) (x : InFlight) (l : RouteLine) (tab : PlaceTab) (h : RouteHdr) : Run :=
  let m := (s.core c).mem
  let k := l.k.toNat
  let recs := (List.range l.tokens.toNat).flatMap fun t => (List.range k).map fun r =>
    let v := natLE (m.csN ((h.map + t * mapLines k) * 32 + 8 * r) 8)
    (t, bitsOf v 0 8, v.testBit 8, v.testBit 9, v.testBit 10, bitsOf v 16 16, bitsOf v 32 32)
  let f := (Fmt.ofCode h.xfmt).getD .b32
  let n := h.rowb * 8 / f.bits
  let rowOf := fun (t w : Nat) =>
    let bytes := m.csN ((h.xaddr + t * h.xstr) * 32) h.rowb
    if h.scalew then
      let cs := (unpack f.bits n bytes).map fun q => narrow f .rne false 0 ((f.decode q).mul (ofB32 w))
      (padTo h.rowb (pack f.bits (cs.map (·.1))), cs.foldl (fun a q => a ||| q.2) 0)
    else (bytes, 0)
  let live := recs.filter fun r => r.2.2.1 && !r.2.2.2.1
  match s.checkSpans c (live.map fun r => ⟨false, (h.xaddr + r.1 * h.xstr) * 32, h.rowb⟩) with
  | (false, s1) => .lone (Report.bad stCsEcc 0) s1
  | (true, s) =>
  let seg := fun j => live.filter fun r => (if r.2.2.2.2.1 then tab.nexp + r.2.1 else r.2.1) == j
  let placed := fun j => (List.range (seg j).length).map fun i => match (seg j).find? fun r => r.2.2.2.2.2.1 == i with
    | some r => rowOf r.1 r.2.2.2.2.2.2
    | none => (List.replicate h.rowb 0, 0)
  let rows := (List.range (2 * tab.nexp)).map placed
  let g : Segs := ⟨c, x.token, l, h, rows.map fun q => q.map (·.1), [], [], rows.map fun q => !q.isEmpty⟩
  if s.returnsFree [g] && !s.routerYields p then
    let w := (s.useShare pointRouter p ((g.rows.map List.length).sum * h.rowb)).dispatch p tab l.cgrp [g]
    let flags := rows.foldl (fun a q => q.foldl (fun b r => b ||| r.2) a) 0
    let lost := (recs.filter fun r => !r.2.2.1 && !r.2.2.2.1).length
    let un := ((List.range l.tokens.toNat).filter fun t => !(live.any fun r => r.1 == t)).length
    if w.1 then .lone ⟨stOk, 0, flags, lost, un⟩ w.2 else .lone (Report.bad stCsEcc 0) w.2
  else .started s

/-- An RFN 0 starts (R138, R139, R148). -/
def State.runDispatch (s : State) (c : CoreId) (p : PartId) (x : InFlight) (l : RouteLine) : Run :=
  match s.ptab p l with
  | none => .done (Report.bad stBadPlacement 0) s
  | some tab =>
    match s.checkSpans c [Span.lines false l.dst.toNat 2] with
    | (false, s1) => .done (Report.bad stCsEcc 0) s1
    | (true, s1) =>
      let h := (s1.core c).mem.routeHdr l.dst.toNat
      let bad := s1.checkRouteHdr p l h
      if h.reuse then
        match bad with
        | some r => .lone r s1
        | none => match s1.checkSpans c [Span.lines false h.map (l.tokens.toNat * mapLines l.k.toNat)] with
          | (false, s2) => .lone (Report.bad stCsEcc 0) s2
          | (true, s2) => s2.runReuse c p x l tab h
      else
        let r := s1.eng.rounds.find? fun r => r.matches p l x.mark
        let mine := match r with
          | some r => r.members.any fun m => m.core == c
          | none => false
        let differ := match r with
          | some r => (match r.members with
            | m :: _ => roundDiffers l m.line
            | [] => none)
          | none => none
        let full := decide (16 ≤ s1.eng.rounds.length) && r.isNone
        if mine then .lone (Report.bad stBadField 48) s1
        else match differ, bad with
          | some e, _ => .done e s1
          | none, some e => .done e s1
          | none, none =>
            if full || (match r with
                | some q => decide (q.nsrc ≤ q.members.length)
                | none => false) then .blocked s1
            else match s1.checkSpans c [logitSpan l] with
              | (false, s2) => .done (Report.bad stCsEcc 0) s2
              | (true, s2) =>
                let mem : RoundMember := ⟨c, x.token, l, (s2.core c).mem.select l, (s2.core c).mem.selectFlags l⟩
                .started (s2.modEng fun e => match r with
                  | some _ => { e with rounds := e.rounds.map fun q => if q.matches p l x.mark then { q with members := q.members ++ [mem] } else q }
                  | none => { e with rounds := e.rounds ++ [⟨p, l.ptab, l.layer, x.mark.mb, x.mark.phase, tab.nsrc, [mem], false, false⟩] })

/-- Write the maps of a round. -/
def State.writeMaps (s : State) (tab : PlaceTab) (ad : Admission) : List RoundMember → Bool × State
  | [] => (true, s)
  | m :: ms =>
    let h := (s.core m.core).mem.routeHdr m.line.dst.toNat
    match s.writeRuns m.core (mapRuns h tab ad m.line (memberAssigns tab m)) with
    | (true, s1) => State.writeMaps s1 tab ad ms
    | (false, s1) => (false, s1)

/-- Complete every member of a round with one report. -/
def State.completeAll (s : State) (rep : Report) : List RoundMember → State
  | [] => s
  | m :: ms => State.completeAll (s.complete m.core m.token rep) rep ms

/-- Finish the members of a dispatched round, with their counters (R151, R156). -/
def State.finishRound (s : State) (p : PartId) (tab : PlaceTab) (ad : Admission) (ok : Bool) : List RoundMember → State
  | [] => s
  | m :: ms =>
    let as := memberAssigns tab m
    let ovr := overOf ad as
    let un := unroutedOf ad m.line as
    let s1 := ((s.countPart p .routeOvercap ovr).countPart p .routeUnrouted un).countPart p .routeNan (nanOf m)
    let r := if ok then Report.mk stOk 0 m.cvt ovr un else Report.bad stCsEcc 0
    State.finishRound (s1.complete m.core m.token r) p tab ad ok ms

/-- The token rows that a member's permute reads. -/
def memberRows (mem : CoreMem) (ad : Admission) (m : RoundMember) : List Span :=
  let h := mem.routeHdr m.line.dst.toNat
  ad.admitted.flatMap fun as => (as.filter fun a => a.core == m.core).map fun a => ⟨false, (h.xaddr + a.tok * h.xstr) * 32, h.rowb⟩

/-- Check the token rows of every member (11 R259). -/
def State.checkRows (s : State) (ad : Admission) : List RoundMember → Bool × State
  | [] => (true, s)
  | m :: ms => match s.checkSpans m.core (memberRows (s.core m.core).mem ad m) with
    | (true, s1) => State.checkRows s1 ad ms
    | (false, s1) => (false, s1)

/-- A complete round is admitted, permuted and handed off (R146, R149 to R151); it waits while a real-time round within its share
is complete (R159), and while a return item has no released slot (13 R307). -/
def State.admitRound (s : State) (n : Nat) : State :=
  match s.eng.rounds[n]? with
  | none => s
  | some r =>
    if !r.complete || s.routerYields r.part then s
    else match r.members with
      | [] => s
      | first :: _ => match (s.part r.part).place.get none r.ptab.toNat with
        | none => s
        | some tab =>
          let ms := allCores.flatMap fun c => r.members.filter fun m => m.core == c
          let as := ms.flatMap (memberAssigns tab)
          let ad := admitCandidates tab first.line.k.toNat first.line.cap.toNat as
          let gs := ms.map fun m => memberSegs (s.core m.core).mem tab ad m
          if !s.returnsFree gs then s
          else match s.checkRows ad ms with
          | (false, s0) =>
            (s0.modEng fun e => { e with rounds := e.rounds.set n { r with ended := true } }).completeAll (Report.bad stCsEcc 0) ms
          | (true, s0) =>
            let s1 := (s0.modEng fun e => { e with rounds := e.rounds.set n { r with admitted := true } }).useShare pointRouter r.part
              (gs.map fun g => (g.rows.map List.length).sum * g.hdr.rowb).sum
            let w1 := s1.writeMaps tab ad ms
            let w2 := w1.2.dispatch r.part tab first.line.cgrp gs
            w2.2.finishRound r.part tab ad (w1.1 && w2.1) ms

/-! ### Combine (R153 to R155) -/

/-- A record of the map at combine. -/
structure MapRec where
  j : Option Nat
  slot : Nat
  w : Nat
  deriving DecidableEq, Repr

def readMap (m : CoreMem) (at_ k nexp t : Nat) : List MapRec :=
  (List.range k).map fun r =>
    let v := natLE (m.csN ((at_ + t * mapLines k) * 32 + 8 * r) 8)
    ⟨if v.testBit 8 && !v.testBit 9 then some (bitsOf v 0 8 + (if v.testBit 10 then nexp else 0)) else none, bitsOf v 16 16, bitsOf v 32 32⟩

/-- STATE of a return directory entry. -/
def CoreMem.retState (m : CoreMem) (src j : Nat) : Nat := bitsOf (natLE (m.csN (src * 32 + 0x40 + 8 * j) 8)) 16 2

/-- The elements of one combined token (R154), with rounding to odd at every step. -/
def combineRow (m : CoreMem) (src e yrowb : Nat) (f : Fmt) (unweighted : Bool) (base : Nat → Nat) (st : Nat → Nat) (recs : List MapRec) : List Ext :=
  recs.foldl (fun acc r => match r.j with
    | none => acc
    | some j =>
      if st j = 1 then
        let row := (unpack f.bits e (m.csN (src * 32 + base j + r.slot * yrowb) yrowb)).map f.decode
        List.zipWith (fun a y => a.add (if unweighted then y else (ofB32 r.w).mul y)) acc row
      else acc) (List.replicate e .zero)

/-- RFN 1 (R153 to R155). -/
def State.runCombine (s : State) (c : CoreId) (x : InFlight) (l : RouteLine) : Run :=
  let src := l.src.toNat
  match s.checkSpans c [Span.lines false src (2 + ceilDiv l.experts 2)] with
  | (false, s1) => .done (Report.bad stCsEcc 0) s1
  | (true, s1) =>
    let m := (s1.core c).mem
    let b := m.csN (src * 32) 64
    let map := fieldLE b 0 4 % 2 ^ 20
    let yrowb := fieldLE b 4 2
    let ostr := fieldLE b 8 2
    let unw := (fieldLE b 0x0A 1).testBit 0
    let k := l.k.toNat
    let toks := l.tokens.toNat
    if csLines < map + toks * mapLines k then .done (Report.bad stBadAddress map) s1
    else match s1.checkSpans c [Span.lines false map (toks * mapLines k)] with
    | (false, s1) => .done (Report.bad stCsEcc 0) s1
    | (true, s1) =>
    let recs := (List.range toks).map fun t => readMap m map k l.experts t
    let named := (recs.flatten.filterMap (·.j)).dedup
    if s1.routerYields ((s1.core c).part.getD 0) || !(named.all fun j => m.retState src j == 1 || m.retState src j == 2) then .blocked s1
    else match (if fieldLE b 6 1 < 16 then Fmt.ofCode (BitVec.ofNat 4 (fieldLE b 6 1)) else none), Cvt.ofByte (BitVec.ofNat 8 (fieldLE b 7 1)) with
      | none, _ => .done (Report.bad stBadFormat 0x80000006) s1
      | some f, v =>
        if !f.isArray then .done (Report.bad stBadFormat 0x80000006) s1
        else match v with
        | none => .done (Report.bad stBadFormat 0x80000007) s1
        | some q =>
          if yrowb = 0 ∨ yrowb % 32 ≠ 0 then .done (Report.bad stBadField 0x80000004) s1
          else
            let e := yrowb * 8 / f.bits
            let eb := ceilDiv e 32
            let count := fun j => (recs.flatten.filter fun r => r.j == some j).length
            let base := fun j => segBase l.experts + yrowb * ((List.range j).map count).sum
            let st := fun j => m.retState src j
            let ys := recs.map fun r => combineRow m src e yrowb f unw base st r
            let rs := fun t => if q.rnd == .sr then (List.range e).map fun i => x.rnd s .rounding l.tid.toNat (t * e + i) else []
            let runs : Runs × Nat :=
              if q.fmt == .g8 then
                let cs := ys.zipIdx.map fun y =>
                  let b := convBlocks .g8 q y.1 (rs y.2) eb
                  (padTo (32 * eb) (b.1.map (BitVec.ofNat 8 ·)), b.2.1, b.2.2)
                ([(false, l.dst.toNat * 32, g8Image (superBlocks (toks * eb * 32)) (cs.flatMap fun d => d.1.map (·.toNat)) (cs.flatMap fun d => d.2.1))],
                 cs.foldl (fun a d => a ||| d.2.2) 0)
              else
                let cs := ys.zipIdx.map fun y =>
                  let line := l.dst.toNat + y.2 * ostr
                  if q.bscale then
                    let d := convBlocks q.fmt q y.1 (rs y.2) eb
                    ([(false, line * 32, pack q.fmt.bits d.1),
                      (false, (l.dst.toNat + toks * ostr + y.2 * planeLines eb) * 32, padTo (32 * planeLines eb) (d.2.1.map (BitVec.ofNat 8 ·)))], d.2.2)
                  else
                    let d := convRun q y.1 (rs y.2)
                    ([(false, line * 32, pack q.fmt.bits d.1)], d.2)
                (cs.flatMap (·.1), cs.foldl (fun a d => a ||| d.2) 0)
            let rows := (recs.flatten.filterMap fun r => r.j.map fun j => (j, r.slot)).filterMap fun x =>
              if st x.1 = 1 then some (⟨false, src * 32 + base x.1 + x.2 * yrowb, yrowb⟩ : Span) else none
            match spansBad (runs.1.map fun r => ⟨r.1, r.2.1, r.2.2.length⟩) with
            | some r => .done r s1
            | none => match s1.checkSpans c rows with
            | (false, s1) => .done (Report.bad stCsEcc 0) s1
            | (true, s1) =>
              let w := s1.writeRuns c runs.1
              let lost := named.any fun j => st j == 2
              let s2 := (if q.rnd == .sr then w.2.spend x else w.2).useShare pointRouter ((s1.core c).part.getD 0) (rows.length * yrowb)
              Run.ofWrite (w.1, s2) ⟨if lost then stPeerLost else stOk, 0, runs.2, 0, 0⟩

/-- ROUTE starts. -/
def State.runRoute (s : State) (c : CoreId) (x : InFlight) (l : RouteLine) : Run :=
  match (s.core c).part with
  | none => .done (Report.bad stBadPlacement 0) s
  | some p => if l.rfn = 0 then s.runDispatch c p x l else s.runCombine c x l

end Sys2Proof.Machine
end

