-- ==== Sys2Proof/Machine/Deliver.lean ====
section
/-! DEFINITION. Delivery of one message to a receive queue of this module: storing what arrives for a posted RECV, with
its widening (05 R106, 02 R34), and the local path of 05 R425. -/

namespace Sys2Proof.Machine

/-! ### What a RECV stores -/

/-- Whether a RECV may store format `d` of what arrives as `f` (05 R106). -/
def recvPair (f d : Fmt) : Bool :=
  f == d || f.widens d || (f == .g8 && (d == .b16 || d == .k16 || d == .b32))

/-- Stored bytes that `n` arriving bytes become. -/
def storedBytes (f d : Fmt) (n : Nat) : Nat :=
  if f == d then n
  else if f == .g8 then n / 1056 * (1024 * d.bits / 8) + (n % 1056 - 32) / 32 * (32 * d.bits / 8)
  else n * d.bits / f.bits

/-- Arriving bytes that `n` stored bytes need. -/
def arrivingBytes (f d : Fmt) (n : Nat) : Nat :=
  if f == d then n
  else if f == .g8 then ceilDiv (n * 8) (1024 * d.bits) * 1056
  else ceilDiv (n * f.bits) d.bits

/-- Widen a run of bytes that is no G8 image (02 R34). -/
def widenRun (f d : Fmt) (bs : List Byte) : List Byte :=
  pack d.bits ((unpack f.bits (bs.length * 8 / f.bits) bs).map (widen f d))

/-- The conversions of the 32 elements of one G8 block: codes and CVT_FLAGS (02 R33, R38). A RECV carries no conversion byte:
RNE and SAT_NAN 0 are the model's (DESIGN CHOICE, log 77). -/
def widenG8 (d : Fmt) (e8 : Nat) (bs : List Byte) : List (Nat × Nat) :=
  bs.map fun b => narrow d .rne false 0 (applyE8 (Fmt.decode .f8b b.toNat) e8)

/-- Widen 32 elements of one G8 block. -/
def widenBlock (d : Fmt) (e8 : Nat) (bs : List Byte) : List Byte := pack d.bits ((widenG8 d e8 bs).map (·.1))

/-- Store bytes at an offset of a RECV's destination, cut at its byte count. -/
def State.storeRecv (s : State) (c : CoreId) (p : PartId) (l : RecvLine) (ofs : Nat) (bs : List Byte) : Bool × State :=
  let cut := bs.take (l.count - ofs)
  if l.dmem then s.writeHbm p (l.daddr.toNat + ofs) cut else s.writeCore c false (l.daddr.toNat % 2 ^ 20 * 32 + ofs) cut

/-- Every byte from `a` up to `b` of a message has been received. -/
def received (ranges : List (Nat × Nat)) (a b : Nat) : Bool :=
  (List.range (b - a)).all fun i => ranges.any fun r => decide (r.1 ≤ a + i ∧ a + i < r.1 + r.2)

/-- The blocks of a G8 message that a piece of it touches and that are now whole: super-block, place in it. -/
def g8Blocks (ranges : List (Nat × Nat)) (ofs len : Nat) : List (Nat × Nat) :=
  let has := fun q => received ranges (32 * q) (32 * q + 32)
  (List.range (1 + ceilDiv len 1056)).flatMap fun k0 =>
    let k := ofs / 1056 + k0
    (List.range 32).filterMap fun i => if has (33 * k) ∧ has (33 * k + 1 + i) then some (k, i) else none

/-- The E8 scale and the elements of a block of a G8 message. -/
def g8Block (data : Mem) (b : Nat × Nat) : Nat × List Byte :=
  ((Mem.read data (1056 * b.1 + b.2)).toNat, Mem.readN data (32 * (33 * b.1 + 1 + b.2)) 32)

/-- The 32-byte pieces of a G8 message whose block is now whole, and where they are stored. -/
def g8Pieces (d : Fmt) (data : Mem) (ranges : List (Nat × Nat)) (ofs len : Nat) : List (Nat × List Byte) :=
  (g8Blocks ranges ofs len).map fun b =>
    ((1024 * b.1 + 32 * b.2) * d.bits / 8, widenBlock d (g8Block data b).1 (g8Block data b).2)

/-- The pieces of any other message that widens, four elements at a time, since four elements of either format fill whole bytes
(02 R27): those that a received piece touches and that are now whole, and where they are stored. Bytes at or past `need`, the
end of what the RECV takes, are not waited for, nor those past the end `total` of the message: of a last piece that the end
cuts, the elements that have come whole are stored. -/
def widenPieces (f d : Fmt) (data : Mem) (ranges : List (Nat × Nat)) (need : Nat) (total : Option Nat) (ofs len : Nat) :
    List (Nat × List Byte) :=
  let w := f.bits / 2
  let upto := total.getD (need + w)
  (List.range (1 + ceilDiv len w)).filterMap fun k0 =>
    let k := ofs / w + k0
    if k * w < min need upto ∧ received ranges (k * w) (min (min need upto) (k * w + w)) = true then
      some (k * (d.bits / 2), widenRun f d (Mem.readN data (k * w) (min w (upto - k * w))))
    else none

/-- Store several pieces; false where one did not land. -/
def State.storePieces (s : State) (c : CoreId) (p : PartId) (l : RecvLine) : List (Nat × List Byte) → Bool × State
  | [] => (true, s)
  | d :: ds =>
    let w := s.storeRecv c p l d.1 d.2
    let r := w.2.storePieces c p l ds
    (w.1 && r.1, r.2)

/-- Store one piece of a message for a RECV; `data` and `ranges` are all of the message received so far, `total` its length
once that is known. -/
def State.recvPiece (s : State) (c : CoreId) (p : PartId) (l : RecvLine) (data : Mem) (ranges : List (Nat × Nat))
    (total : Option Nat) (ofs : Nat) (bs : List Byte) : Bool × State :=
  match Fmt.ofCode l.rfmt, Fmt.ofCode l.dfmt with
  | some f, some d =>
    if f == d then s.storeRecv c p l ofs bs
    else if f == .g8 then s.storePieces c p l (g8Pieces d data ranges ofs bs.length)
    else s.storePieces c p l (widenPieces f d data ranges (arrivingBytes f d l.count) total ofs bs.length)
  | _, _ => (true, s)

/-- CVT_FLAGS of a RECV of a whole message of `n` bytes (02 R38). The blocks past the byte count, which the RECV discards, are
converted with the others and their flags count (DESIGN CHOICE, log 77). -/
def recvFlags (l : RecvLine) (data : Mem) (n : Nat) : Nat :=
  match Fmt.ofCode l.rfmt, Fmt.ofCode l.dfmt with
  | some f, some d =>
    if f == .g8 && d != .g8 then
      (g8Blocks [(0, n)] 0 n).foldl (fun a b => (widenG8 d (g8Block data b).1 (g8Block data b).2).foldl (fun x y => x ||| y.2) a) 0
    else 0
  | _, _ => 0

/-- The report of a RECV that `n` bytes have reached; a message from the transport comes in whole lines (13 R289), so
only bytes past the count's last line are an overrun. `data` is the message. -/
def recvReport (l : RecvLine) (data : Mem) (n : Nat) (exact : Bool) : Report :=
  match Fmt.ofCode l.rfmt, Fmt.ofCode l.dfmt with
  | some f, some d =>
    let need := arrivingBytes f d l.count
    let excess := decide ((if exact then need else roundUp need 32) < n)
    let w := min l.count (storedBytes f d n)
    ⟨if excess then stRecvOverrun else stOk, 0, recvFlags l data n, w % 2 ^ 32, w / 2 ^ 32⟩
  | _, _ => .ok

/-- What a store that did not land brings: an uncorrectable HBM codeword faults the partition (17 Table 17.3), an
uncorrectable quad of the core store ends the command. -/
def State.recvFailed (s : State) (c : CoreId) (p : PartId) (tok : Nat) (l : RecvLine) : State :=
  if l.dmem then s.partFault p 5 (some c) else s.complete c tok (Report.bad stCsEcc 0)

/-! ### Posted RECVs -/

/-- The line of the RECV that owns a posted item. -/
def State.recvLine (s : State) (i : Item) : Option (CoreId × Nat × RecvLine) := match i.recv with
  | none => none
  | some (c, tok) => match (s.core c).slot tok with
    | some x => (match x.line with
      | .recv l => some (c, tok, l)
      | _ => none)
    | none => none

/-- The RECV of a posted item has started and not finished. -/
def State.recvStarted (s : State) (i : Item) : Bool := match i.recv with
  | some (c, tok) => (match (s.core c).slot tok with
    | some x => x.stage == .started
    | none => false)
  | none => false

/-- Post a RECV to its queue, as it is decoded or when room comes (10 R240). -/
def State.postRecv (s : State) (c : CoreId) (p : PartId) (tok : Nat) (l : RecvLine) : State :=
  match s.queue l.sq with
  | some q =>
    if q.isRxp && q.posted && q.part == p && !isMbQueue l.sq && l.coll != 2 && q.room then
      let ts := s.aon.time
      s.setQueue l.sq (q.alloc fun i => { i with recv := some (c, tok), ts := ts })
    else s
  | none => s

/-- Store for a RECV all that its message has brought so far. -/
def State.storeSoFar (s : State) (c : CoreId) (p : PartId) (l : RecvLine) (i : Item) : List (Nat × Nat) → Bool × State
  | [] => (true, s)
  | r :: rs =>
    let w := s.recvPiece c p l i.data i.ranges i.total r.1 (Mem.readN i.data r.1 r.2)
    let t := w.2.storeSoFar c p l i rs
    (w.1 && t.1, t.2)

/-- A posted item is free for a message of module `src`. -/
def State.recvOpen (s : State) (src : BitVec 14) (i : Item) : Bool :=
  !i.passed && !i.cancelled && !i.full && i.msg.isNone && i.grantedTo.isNone && (match s.recvLine i with
    | some (_, _, l) => l.sany || l.smod == src
    | none => false)

/-! ### The local path (05 R425) -/

/-- A whole message of this module reaches one of its receive queues: none while no slot or posted RECV is free. -/
def State.deliverLocal (s : State) (qid : Qid) (q : Queue) (bytes : List Byte) : Option State :=
  let src := s.moduleId
  if q.slotted then
    if q.room && q.canGrant && q.slotFree q.ppos then
      let n := q.ppos
      let w := s.writeQueue q (q.slotOff n) bytes
      let ts := s.aon.time
      let q1 := { (q.alloc fun i => { i with closed := true, full := w.1, bytes := bytes.length, src := some src, ts := ts }) with grants := q.grants + 1 }
      let s1 := w.2.setQueue qid q1
      some (if w.1 then s1 else if q.memCs then s1.partFault q.part 1 none else s1.partFault q.part 5 none)
    else none
  else match q.items.find? fun i => s.recvOpen src i && s.recvStarted i with
    | none => none
    | some i => match s.recvLine i with
      | none => none
      | some (c, tok, l) =>
        let data := Mem.writeN [] 0 bytes
        let w := s.recvPiece c q.part l data [(0, roundUp bytes.length 32)] (some bytes.length) 0 (padTo (roundUp bytes.length 32) bytes)
        let s1 := w.2.setQueue qid (q.putItem { i with closed := true, full := true, bytes := bytes.length, src := some src })
        some (if w.1 then s1.complete c tok (recvReport l data bytes.length true) else s1.recvFailed c q.part tok l)

end Sys2Proof.Machine
end

