-- ==== Sys2Proof/Machine/Mailbox.lean ====
section
/-! DEFINITION. The mailboxes (14 R321 to R331): messages, authority, the doorbell, and how a response leaves on the path
its request came by. -/

namespace Sys2Proof.Machine

/-! ### Messages (Table 14.3) -/

/-- A message with its CRC. -/
def mbMessage (resp : Bool) (seq cmd part status info rq : Nat) (payload : List Byte) : List Byte :=
  let head := fun crc => bytesLE 1 1 ++ bytesLE 1 (if resp then 1 else 0) ++ bytesLE 2 seq ++ bytesLE 2 cmd ++ bytesLE 2 payload.length ++
    bytesLE 4 part ++ bytesLE 2 status ++ bytesLE 2 0 ++ bytesLE 8 info ++ bytesLE 4 rq ++ bytesLE 4 crc
  head (crc32c (head 0 ++ payload)) ++ payload

/-- The CRC of a request is right. -/
def mbCrcOk (bs : List Byte) : Bool := fieldLE bs 28 4 == crc32c (patch bs 28 (bytesLE 4 0))

/-! ### MP frames (12 R267, R285 to R288, 14 R325) -/

/-- The address of the module on MP: 02-4B-44-3F-MH-ML. -/
def State.mpAddr (s : State) : BitVec 48 := BitVec.ofNat 48 (0x024B443F0000 + s.moduleId.toNat)

/-- An untagged frame with EtherType 0x88B6. -/
def State.mpFrameTo (s : State) (dst : BitVec 48) (body : List Byte) : List Byte :=
  bytesBE 6 dst.toNat ++ bytesBE 6 s.mpAddr.toNat ++ [0x88#8, 0xB6#8] ++ body

/-- The MP header of Table 14.2. -/
def mpHeader (kind mb seq ofs total : Nat) : List Byte :=
  bytesLE 1 kind ++ bytesLE 1 mb ++ bytesLE 2 seq ++ bytesLE 2 ofs ++ bytesLE 2 total ++ bytesLE 8 0

/-- Queue a frame on MP. -/
def State.mpSend (s : State) (frame : List Byte) : State := s.modReg fun r => { r with mpOut := r.mpOut ++ [frame] }

/-- The segments of a response to `dst`, up to 1,024 bytes each. -/
def State.mpResponse (s : State) (dst : BitVec 48) (mb seq : Nat) (bytes : List Byte) : Nat → Nat → State
  | _, 0 => s
  | ofs, n + 1 =>
    let s1 := s.mpSend (s.mpFrameTo dst (mpHeader 3 mb seq ofs bytes.length ++ (bytes.drop ofs).take 1024))
    if bytes.length ≤ ofs + 1024 then s1 else State.mpResponse s1 dst mb seq bytes (ofs + 1024) n

/-! ### Responses (R325 to R328) -/

/-- The session of a host. -/
def State.hostSess (s : State) (h : Fin 64) : Option Nat := (s.sessions.find? fun e => e.2.host == some h).map (·.1)

/-- The port of the direct mesh, FP0 to FP6, that leads to a module of the same group (13 R311). -/
def State.directTo (s : State) (m : BitVec 14) : Option PortId :=
  (allPorts.take 7).find? fun p => (s.port p).state == .upDirect && (s.port p).peerMid == m

/-- Send bytes to a host on its session. -/
def State.toHost (s : State) (h : Fin 64) (bytes : List Byte) : State := match s.hostSess h with
  | some i => (s.sendMsg i id bytes).2
  | none => s

/-- The response queue of a stream request is an RXP queue of its partition (R326). -/
def State.rqOk (s : State) (p : PartId) (rq : Qid) : Bool := match s.queue rq with
  | some q => q.isRxp && q.part == p
  | none => false

/-- Put a response into its response queue, or keep it until a slot is free; no other queue takes it (R326). -/
def State.postResponse (s : State) (m : MbId) (rq : Qid) (bytes : List Byte) : State :=
  match s.queue rq with
  | none => s.modMb m fun b => { b with owed := none }
  | some q =>
    if !s.rqOk (Fin.ofNat 8 (m.val + 7)) rq then s.modMb m fun b => { b with owed := none }
    else
    let cut := if q.slotted then bytes.take q.slotb else bytes
    match (if s.cached rq then s.deliverLocal rq q cut else none) with
    | some s1 => s1.modMb m fun b => { b with owed := none }
    | none => s.modMb m fun b => { b with owed := some (rq, bytes) }

/-- Send a response on the path its request came by. -/
def State.sendResponse (s : State) (m : MbId) (path : ReqPath) (seq : Nat) (rq : Qid) (bytes : List Byte) : State :=
  match path with
  | .host h => s.toHost h bytes
  | .bridge mod h => match s.findRelay mod with
    | some i => s.relaySend i h true bytes
    | none => s
  | .mp src => s.mpResponse src m.val seq bytes 0 4
  | .stream _ => s.postResponse m rq bytes
  | .none => s

/-- Offer the responses that wait for a slot again. -/
def State.oweResponses (s : State) : List MbId → State
  | [] => s
  | m :: ms => match (s.mb m).owed with
    | some (rq, bytes) => State.oweResponses (s.postResponse m rq bytes) ms
    | none => State.oweResponses s ms

/-- RQ of a response: the response queue on the stream path, zero on any other (Table 14.3). -/
def ReqPath.rq (path : ReqPath) (rq : Qid) : Nat := match path with
  | .stream _ => rq.toNat
  | _ => 0

/-- The request of a mailbox completes: its response is stored and sent, LSEQ advances (R327, R328, R336). -/
def State.respond (s : State) (m : MbId) (st : BitVec 16) (info : Nat) (payload : List Byte) : State :=
  match (s.mb m).busy with
  | none => s
  | some r =>
    let bytes := mbMessage true r.seq.toNat r.cmd.toNat r.part.val st.toNat info (r.path.rq r.rq) payload
    let s1 := s.modMb m fun b => { b with
      respArea := bytes
      lseq := r.seq
      busy := none
      err := if st = stOk then b.err else satAdd 32 b.err 1 }
    s1.sendResponse m r.path r.seq.toNat r.rq bytes

/-! ### Authority (R321, R323, Table 14.1) -/

/-- The authority classes of Table 14.8. -/
inductive MbClass where
  | owner | partition | diag | either
  deriving DecidableEq, Repr

/-- The class of a command code; an undefined code has none. COUNTER_READ is P for groups 0 to 5 and O above. -/
def mbClass (cmd : Nat) (payload : List Byte) : Option MbClass :=
  if cmd = 0x0001 then some .either
  else if (0x0002 ≤ cmd ∧ cmd ≤ 0x000B) ∨ (0x0101 ≤ cmd ∧ cmd ≤ 0x0107) then some .owner
  else if cmd = 0x0208 then
    (let g := fieldLE payload 0 1; if g ≤ 5 then some .partition else if g ≤ 8 then some .owner else some .either)
  else if 0x0201 ≤ cmd ∧ cmd ≤ 0x020D then some .partition
  else if 0x0301 ≤ cmd ∧ cmd ≤ 0x0305 then some .diag
  else none

/-- The mailbox has O authority. -/
def State.hasOwner (s : State) (m : MbId) : Bool :=
  m.val == 0 || (decide (9 ≤ m.val ∧ m.val ≤ 14) && (s.mb m).role == .owner)

/-- The mailbox has P authority for a partition. -/
def State.hasPart (s : State) (m : MbId) (p : PartId) : Bool :=
  s.hasOwner m || (decide (1 ≤ m.val ∧ m.val ≤ 8) && m.val == p.val + 1) ||
    (decide (9 ≤ m.val ∧ m.val ≤ 14) && (s.mb m).role == .partition && (s.mb m).rpart == p)

/-- The mailbox may give a command of a class for a partition. -/
def State.mayDo (s : State) (m : MbId) (k : MbClass) (p : PartId) : Bool := match k with
  | .owner => s.hasOwner m
  | .partition => s.hasPart m p
  | .diag => true
  | .either => s.hasPart m p

/-- What the module state accepts (15 R361, R365, 17 R399). -/
def State.stateAccepts (s : State) (m : MbId) (path : ReqPath) (k : Option MbClass) (cmd : Nat) : Bool :=
  let mp := match path with
    | .mp _ => true
    | _ => false
  let diag := k == some .diag
  match s.aon.mstate with
  | .booting => diag && mp
  | .bootHalt => cmd == 0x0301 && mp && (m.val == 0 || m.val == 15)
  | .failed | .quiesced => diag || cmd == 0x000A
  | _ => s.aon.quiescing.isNone || diag || cmd == 0x000A || k.isNone

/-! ### Objects (R330) -/

/-- Whether a command takes the module object, and whether it takes its partition's. -/
def mbObjects (cmd : Nat) : Bool × Bool :=
  if 0x0002 ≤ cmd ∧ cmd ≤ 0x000B then (true, false)
  else if 0x0101 ≤ cmd ∧ cmd ≤ 0x0104 then (true, true)
  else if (0x0105 ≤ cmd ∧ cmd ≤ 0x0107) ∨ (0x0201 ≤ cmd ∧ cmd ≤ 0x0204) then (false, true)
  else (false, false)

/-- An earlier request holds or waits for an object that the request of `m` needs. -/
def State.objectBusy (s : State) (m : MbId) (r : MbReq) : Bool :=
  allMbs.any fun n => n != m && (match (s.mb n).busy with
    | some q =>
      let a := mbObjects r.cmd.toNat
      let b := mbObjects q.cmd.toNat
      decide (q.order < r.order) && ((a.1 && b.1) || (a.2 && b.2 && q.part == r.part))
    | none => false)

/-- The place of the request of a mailbox in the order of the doorbells. -/
def State.orderOf (s : State) (m : MbId) : Nat := match (s.mb m).busy with
  | some q => q.order
  | none => 0

/-- A CHECKPOINT, RESTORE or AUDIT_STATE of a partition runs on another mailbox while the request of `m` executes: these need no
object, so one runs from its doorbell on; one whose doorbell came later has begun when it waits for its step or its copy (R332). -/
def State.longRuns (s : State) (m : MbId) (p : PartId) : Bool :=
  allMbs.any fun n => n != m && (match (s.mb n).busy with
    | some q => (q.cmd == 0x020A || q.cmd == 0x020B || q.cmd == 0x020C) && q.part == p &&
        (decide (q.order < s.orderOf m) || q.copy != .idle)
    | none => false)

/-! ### The doorbell (R328) -/

/-- A new request is copied and checked; one that passes waits for execution. One of class O or P wakes the module from S1 and S2
(16 R375). -/
def State.acceptRequest (s : State) (m : MbId) (seq : BitVec 16) : State :=
  let b := s.mb m
  let len := fieldLE b.reqArea 6 2
  let msg := padTo (32 + len) b.reqArea
  let cmd := fieldLE msg 4 2
  let p : PartId := Fin.ofNat 8 (fieldLE msg 8 1)
  let rq := BitVec.ofNat 20 (fieldLE msg 24 4)
  let payload := msg.drop 32
  let r : MbReq := ⟨seq, BitVec.ofNat 16 cmd, p, rq, payload, b.reqPath, s.reg.doorbells, none, .idle⟩
  let s1 := (s.modMb m fun b => { b with busy := some r }).modReg fun g => { g with doorbells := g.doorbells + 1 }
  let k := mbClass cmd payload
  let stream := match b.reqPath with
    | .stream _ => true
    | _ => false
  if 4064 < len then s1.respond m stBadField 6 []
  else if !mbCrcOk msg then s1.respond m stMbCrc 0 []
  else if fieldLE msg 0 1 ≠ 1 then s1.respond m stBadField 0 []
  else if fieldLE msg 1 1 % 2 ≠ 0 then s1.respond m stBadField 1 []
  else if fieldLE msg 12 2 ≠ 0 then s1.respond m stBadField 12 []
  else if fieldLE msg 16 8 ≠ 0 then s1.respond m stBadField 16 []
  else if !stream && rq != 0 then s1.respond m stBadField 24 []
  else if stream && !s.rqOk (Fin.ofNat 8 (m.val + 7)) rq then s1.respond m stBadField 24 []
  else if !s.stateAccepts m b.reqPath k cmd then s1.respond m stState 0 []
  else match k with
    | none => s1
    | some c =>
      let s2 := if c = .diag then s1 else s1.wakeShallow
      if s.mayDo m c p then s2 else s2.respond m stAccess 0 []

/-- Send the stored response again on the path of the repeated request; after a start there is none. -/
def State.repeatResponse (s : State) (m : MbId) : State :=
  let b := s.mb m
  if b.respArea = [] then s
  else s.sendResponse m b.reqPath b.lseq.toNat (BitVec.ofNat 20 (fieldLE b.reqArea 24 4)) b.respArea

/-- The doorbell rings for a SEQ (R328). -/
def State.ringDoorbell (s : State) (m : MbId) (seq : BitVec 16) : State :=
  let b := s.mb m
  if b.busy.isNone ∧ seq = b.lseq + 1 then s.acceptRequest m seq
  else if seq = b.lseq then s.repeatResponse m
  else if (b.busy.map (·.seq)) = some seq then s
  else s.modMb m fun b => { b with ignored := satAdd 32 b.ignored 1 }

/-- A path writes a request into the request area and rings the doorbell with its SEQ (R324 to R326). A request in flight was
copied when it was accepted. -/
def State.deliverRequest (s : State) (m : MbId) (path : ReqPath) (bytes : List Byte) : State :=
  (s.modMb m fun b => { b with reqArea := padTo 4096 bytes, reqPath := path }).ringDoorbell m (BitVec.ofNat 16 (fieldLE bytes 2 2))

end Sys2Proof.Machine
end

