-- ==== Sys2Proof/Machine/Bridge.lean ====
section
/-! DEFINITION. Host messages at the bridge and at the module they name (13 R315, R316). -/

namespace Sys2Proof.Machine

/-! ### Records -/

/-- The record that answers a host message (log 31). -/
def hostRecord (m : HostMsg) (st : BitVec 16) (data : List Byte) : List Byte :=
  bytesLE 1 m.op.toNat ++ bytesLE 1 m.mb.toNat ++ bytesLE 2 st.toNat ++ bytesLE 4 0 ++ bytesLE 8 m.va.toNat ++
    bytesLE 8 data.length ++ bytesLE 8 0 ++ data

/-- The bytes of a host message: its request record and its data. -/
def hostBytes (m : HostMsg) : List Byte :=
  bytesLE 1 m.op.toNat ++ bytesLE 1 m.mb.toNat ++ bytesLE 6 0 ++ bytesLE 8 m.va.toNat ++ bytesLE 8 m.len.toNat ++ bytesLE 8 0 ++ m.data

/-- The host message that relayed bytes hold. -/
def hostMsgOf (h : Fin 64) (dmod : BitVec 14) (p : PartId) (b : List Byte) : HostMsg :=
  ⟨h, dmod, p, BitVec.ofNat 8 (fieldLE b 0 1), BitVec.ofNat 8 (fieldLE b 1 1), BitVec.ofNat 64 (fieldLE b 8 8),
    BitVec.ofNat 64 (fieldLE b 16 8), b.drop 32⟩

/-- The message lies inside its host's masks. -/
def HostEnt.allows (e : HostEnt) (m : HostMsg) : Bool :=
  if m.op = 1 then decide (9 ≤ m.mb.toNat ∧ m.mb.toNat ≤ 15) && e.mbmask.getLsbD (m.mb.toNat - 9)
  else e.pmask.getLsbD m.tpart.val

/-! ### The module that a message names -/

/-- The session that relays a message of a host to or from another module: a mailbox request has the relay session, DMA the session of
its partition, through which alone 13 R296 lets a peer read and write. -/
def State.relaySess (s : State) (m : HostMsg) (mod : BitVec 14) : Option Nat :=
  if m.op = 1 then s.findRelay mod else s.findSess m.tpart mod

/-- Answer a host message on the path it came by. -/
def State.answerHost (s : State) (path : ReqPath) (m : HostMsg) (st : BitVec 16) (data : List Byte) : State := match path with
  | .host h => s.toHost h (hostRecord m st data)
  | .bridge mod h => match s.relaySess m mod with
    | some i => s.relaySend i h true (hostRecord m st data)
    | none => s
  | _ => s

/-- DMA into or out of a partition of this module, under R296. -/
def State.hostDma (s : State) (path : ReqPath) (m : HostMsg) : State :=
  let n := m.len.toNat
  let w : Right := if m.op = 2 then .pw else .pr
  if !s.partExists m.tpart || ((s.part m.tpart).checkRange m.va.toNat n w).isSome then s.answerHost path m stAccess []
  else if m.op = 2 then
    match s.writeHbm m.tpart m.va.toNat (padTo n m.data) with
    | (true, s1) => s1.answerHost path m stOk []
    | (false, s1) => (s1.partFault m.tpart 5 none).answerHost path m stFaulted []
  else match s.readHbm m.tpart m.va.toNat n with
    | (some b, s1) => s1.answerHost path m stOk b
    | (none, s1) => (s1.partFault m.tpart 5 none).answerHost path m stPeerLost []

/-- A host message at the module it names. -/
def State.hostAct (s : State) (path : ReqPath) (m : HostMsg) : State :=
  if m.op = 1 then s.deliverRequest (Fin.ofNat 16 m.mb.toNat) path m.data else s.hostDma path m

/-! ### Relayed messages (log 33) -/

/-- The assembly that a relayed packet of session `i` goes into. -/
def Regulator.relayFor (r : Regulator) (i : Nat) (h : Fin 64) (answer : Bool) (msg : BitVec 32) : RelayAsm :=
  match r.relays.find? fun a => a.sess == i && a.host == h && a.answer == answer && a.msg == msg with
  | some a => a
  | none => ⟨i, h, answer, msg, [], none, []⟩

/-- Enter the bytes of a packet. -/
def RelayAsm.add (a : RelayAsm) (k : Pkt) (bs : List Byte) : RelayAsm :=
  { a with
    ranges := a.ranges ++ [(k.ofs.toNat, bs.length)]
    total := if k.last then some (k.ofs.toNat + bs.length) else a.total
    data := Mem.writeN a.data k.ofs.toNat bs }

/-- Every byte of the message has come. -/
def RelayAsm.whole (a : RelayAsm) : Bool := a.total == some (a.ranges.map (·.2)).sum

/-- Keep an assembly in place of its last state, or drop it. -/
def State.putRelay (s : State) (a : RelayAsm) (keep : Bool) : State :=
  s.modReg fun r =>
    let rest := r.relays.filter fun b => !(b.sess == a.sess && b.host == a.host && b.answer == a.answer && b.msg == a.msg)
    { r with relays := if keep then rest ++ [a] else rest }

/-- An answer reaches the bridge: it goes to its host, and the message it answers waits no longer. -/
def State.relayAnswered (s : State) (i : Nat) (h : Fin 64) (bytes : List Byte) : State :=
  let hit := s.reg.relayed.find? fun x => x.1 == i && x.2.host == h && hostBytes { x.2 with len := 0 } ==
    hostBytes { hostMsgOf h x.2.dmod x.2.tpart bytes with len := 0, data := [] }
  (match hit with
    | some x => s.modReg fun r => { r with relayed := r.relayed.erase x }
    | none => s).toHost h bytes

/-- A relayed message, or the answer to one, is whole: the target acts on a message that came on the session that may carry it
(R296), the bridge passes an answer to its host. -/
def State.relayDone (s : State) (d : Session) (a : RelayAsm) : State :=
  let bytes := Mem.readN a.data 0 (a.total.getD 0)
  if a.answer then s.relayAnswered a.sess a.host bytes
  else
    let m := hostMsgOf a.host s.moduleId d.part bytes
    if (m.op == 1) == d.relay then s.hostAct (.bridge d.peer a.host) m
    else s.relaySend a.sess a.host true (hostRecord m stAccess [])

/-- A packet of a relayed message arrives on session `i`: host and kind from its header, then its bytes. -/
def State.relayPiece (s : State) (i : Nat) (d : Session) (k : Pkt) (h : Fin 64) (answer : Bool) (bs : List Byte) : State :=
  let a := (s.reg.relayFor i h answer k.msg).add k bs
  if a.whole then (s.putRelay a false).relayDone d a else s.putRelay a true

/-! ### The bridge -/

/-- Relay a host message to a module of the group over the direct link to it; a module outside the group, or one with which no session
can be had, brings ST_ACCESS. -/
def State.relayOut (s : State) (m : HostMsg) : State :=
  if (s.directTo m.dmod).isNone || (m.op != 1 && !s.partExists m.tpart) then s.toHost m.host (hostRecord m stAccess [])
  else if s.eng.lostMods.contains m.dmod then s.toHost m.host (hostRecord m stPeerLost [])
  else match (if m.op = 1 then s.needRelay m.dmod else s.needSess m.tpart m.dmod) with
    | (none, s1) => s1.toHost m.host (hostRecord m stAccess [])
    | (some i, s1) =>
      (s1.modReg fun r => { r with relayed := r.relayed ++ [(i, { m with data := [] })] }).relaySend i m.host false (hostBytes m)

/-- Answer the hosts whose relayed messages can have no answer any more, since their session has closed: ST_PEER_LOST where its
module is lost, else ST_ACCESS (R291, R318). -/
def State.relayFailed (s : State) : List (Nat × HostMsg) → State
  | [] => s
  | x :: xs =>
    if (s.sess x.1).any fun d => d.peer == x.2.dmod then State.relayFailed s xs
    else
      let st := if s.eng.lostMods.contains x.2.dmod then stPeerLost else stAccess
      State.relayFailed ((s.modReg fun r => { r with relayed := r.relayed.erase x }).toHost x.2.host (hostRecord x.2 st [])) xs

/-- What closed sessions leave of relayed messages is dropped or answered. -/
def State.sweepRelays (s : State) : State :=
  let s1 := s.relayFailed s.reg.relayed
  if s1.reg.relays.isEmpty then s1 else s1.modReg fun r => { r with relays := r.relays.filter fun a => (s1.sess a.sess).isSome }

/-- A host message at the bridge. -/
def State.takeHostMessage (s : State) (m : HostMsg) : State :=
  match s.reg.hosts.get none m.host.val, s.hostSess m.host with
  | some e, some _ =>
    if m.op = 0 ∨ 3 < m.op.toNat then s.toHost m.host (hostRecord m stBadField [])
    else if !e.allows m then s.toHost m.host (hostRecord m stAccess [])
    else if m.dmod = s.moduleId then s.hostAct (.host m.host) m
    else s.relayOut m
  | _, _ => s

end Sys2Proof.Machine
end

