-- ==== Sys2Proof/Machine/Collect.lean ====
section
/-! DEFINITION. The collective engine's reduction contexts (13 R300 to R302) and the all-gather (13 R304, 01 R17). -/

namespace Sys2Proof.Machine

/-! ### Steps (09 R195, R217) -/

/-- The record of a step. -/
def UpdEng.stepOf (u : UpdEng) (t : BitVec 32) : Option UeStep := u.steps.find? fun r => r.step == t

/-- A step has closed on the engine: its record says so, or it lies before every record of the ring. -/
def UpdEng.closed (u : UpdEng) (t : BitVec 32) : Bool := match u.stepOf t with
  | some r => !r.isOpen
  | none => decide (16 ≤ u.steps.length) && u.steps.all fun r => before32 t r.step

/-- Key of a super-block of a shard. -/
def sbKey (shard sb : Nat) : Nat := shard * 2 ^ 25 + sb

/-- The later of two steps, serially. -/
def laterStep (a b : BitVec 32) : BitVec 32 := if atOrAfter32 a b then a else b

/-- The latest recorded step of a super-block (01 R17); step 0 before any record (log 22). -/
def UpdEng.recorded (u : UpdEng) (shard sb : Nat) : BitVec 32 :=
  match u.recStep.get none (sbKey shard sb), u.allRec with
  | some a, some b => laterStep a b
  | some a, none => a
  | none, some b => b
  | none, none => 0

/-- Record a step for a super-block. -/
def UpdEng.record (u : UpdEng) (shard sb : Nat) (t : BitVec 32) : UpdEng :=
  { u with recStep := u.recStep.set none (sbKey shard sb) (some t) }

/-! ### Reduction contexts (13 R300, R301) -/

/-- What becomes of a contribution (R302). -/
inductive RsOut where
  | taken | noContext | refused
  deriving DecidableEq, Repr

/-- The addends of a super-block image: 32 scale bytes, then 32 blocks of 32 F8B elements. -/
def rsAddends (bytes : List Byte) : List Ext :=
  let e8s := (bytes.take 32).map (·.toNat)
  ((bytes.drop 32).take 1024).zipIdx.map fun x => applyE8 (Fmt.decode .f8b x.1.toNat) (e8s.getD (x.2 / 32) 0)

/-- Add placed values to entries in turn. -/
def addEntries (ofs : Int) (m : Smap AccEntry) : Nat → List Ext → Smap AccEntry
  | _, [] => m
  | k, x :: xs => addEntries ofs (m.set AccEntry.zero k ((m.get AccEntry.zero k).update true (place ofs true x).1).1) (k + 1) xs

/-- Ceiling of the base-2 logarithm. -/
def clog2 (n : Nat) : Nat := if n ≤ 1 then 0 else bitLen (n - 1)

/-- Blocks of a contribution whose E8 lies outside the exact range (R301); an unused block, of scale 0x00 and codes 0, is ignored
(02 R32). -/
def rsOutside (rofs : BitVec 9) (ncontrib : Nat) (bytes : List Byte) : Nat :=
  ((bytes.take 32).zipIdx.filter fun b =>
    (b.1 != 0#8 || ((bytes.drop (32 + 32 * b.2)).take 32).any (· != 0#8)) &&
      !decide ((96 : Int) + rofs.toInt ≤ b.1.toNat ∧ (b.1.toNat : Int) ≤ 190 - clog2 ncontrib + rofs.toInt)).length

/-- A context holds NCONTRIB contributions (R300). -/
def State.ctxComplete (s : State) (x : RCtx) : Bool := match (s.part x.part).ue.shards[x.shard]? with
  | some d => decide (d.ncontrib ≤ x.heard.length)
  | none => false

/-- Enter a changed context: complete ones stand first, in the order in which they became complete (09 R195). -/
def State.putCtx (s : State) (y : RCtx) : State :=
  let rest := s.eng.ctxs.filter fun x => !(x.part == y.part && x.shard == y.shard && x.sb == y.sb && x.step == y.step)
  let full := rest.filter s.ctxComplete
  let part := rest.filter fun x => !s.ctxComplete x
  s.modEng fun e => { e with ctxs := if s.ctxComplete y then full ++ y :: part else full ++ part ++ [y] }

/-- A contribution of module `src` to a super-block for a step (R300 to R302). -/
def State.rsContribute (s : State) (p : PartId) (src : BitVec 14) (shard sb : Nat) (step : BitVec 32) (cgrp : BitVec 16)
    (bytes : List Byte) : RsOut × State :=
  let u := (s.part p).ue
  match u.shards[shard]?, s.cgroupOf p cgrp with
  | some d, some g =>
    if d.nsb ≤ sb then (.refused, s)
    else if u.closed step then (.taken, s.countPart p .rsStale 1)
    else if g.lost then (.taken, s)
    else
      let here := fun (x : RCtx) => x.part == p && x.shard == shard && x.sb == sb && x.step == step
      let dup := (s.countPart p .rsDup 1).logEvent evRsDup 49 p.val
        (bytesLE 2 shard ++ bytesLE 4 sb ++ bytesLE 4 step.toNat ++ bytesLE 2 src.toNat)
      if (u.recStep.get none (sbKey shard sb)) == some step then (.taken, dup)
      else match s.eng.ctxs.find? here with
        | some x =>
          if x.heard.contains src then (.taken, dup)
          else
            let y := { x with heard := x.heard ++ [src], entries := addEntries x.rofs.toInt x.entries 0 (rsAddends bytes) }
            (.taken, (s.putCtx y).countPart p .rsRange (rsOutside x.rofs d.ncontrib bytes))
        | none =>
          if 512 ≤ s.eng.ctxs.length then (.noContext, s.countPart p .rsNoctx 1)
          else
            let y : RCtx := ⟨p, shard, sb, step, cgrp, g.rofs, [src], addEntries g.rofs.toInt [] 0 (rsAddends bytes)⟩
            (.taken, (s.putCtx y).countPart p .rsRange (rsOutside g.rofs d.ncontrib bytes))
  | _, _ => (.refused, s)

/-- The contributions of consecutive super-blocks: none taken where one finds no context free, so that the sender tries
again (R302). The flag tells whether one was refused. -/
def State.rsRun (s : State) (p : PartId) (src : BitVec 14) (shard : Nat) (step : BitVec 32) (cgrp : BitVec 16) :
    Nat → List (List Byte) → Bool → Option (Bool × State)
  | _, [], r => some (r, s)
  | sb, b :: bs, r => match s.rsContribute p src shard sb step cgrp b with
    | (.taken, s1) => State.rsRun s1 p src shard step cgrp (sb + 1) bs r
    | (.refused, s1) => State.rsRun s1 p src shard step cgrp (sb + 1) bs true
    | (.noContext, _) => none

/-- Cut bytes into super-block images. -/
def cutSbs (bytes : List Byte) : Nat → List (List Byte)
  | 0 => []
  | n + 1 => bytes.take 1056 :: cutSbs (bytes.drop 1056) n

/-! ### All-gather (13 R304) -/

/-- Address of the 2,048 element bytes of W_HI of a super-block. -/
def Shard.whiAt (d : Shard) (sb : Nat) : Nat := d.whi.toNat + 2112 * sb + 0x40

/-- What the owner answers for a super-block: its data, that it does not hold it (R302), or that a right is missing (R296). -/
inductive GatherOut where
  | data (bytes : List Byte) | refused | denied | faulted
  deriving DecidableEq, Repr

/-- Read one super-block for a gather. -/
def State.gatherRead (s : State) (p : PartId) (peer : Bool) (shard sb : Nat) : GatherOut × State :=
  match (s.part p).ue.shards[shard]? with
  | none => (.refused, s)
  | some d =>
    if d.nsb ≤ sb then (.refused, s)
    else match (s.part p).checkRange (d.whiAt sb) 2048 (if peer then .pr else .r) with
      | some _ => (.denied, s)
      | none => match s.readHbm p (d.whiAt sb) 2048 with
        | (some bs, s1) => (.data bs, s1)
        | (none, s1) => (.faulted, s1)

/-- The transfer of a RECV that still waits for a super-block of a shard. -/
def State.gatherXfer (s : State) (sel : Xfer → Bool) (sb : Nat) : Option Xfer :=
  s.eng.xfers.find? fun x => sel x && x.gather.contains sb

/-- The report of a transfer that an access has been refused (R296). -/
def State.refusedReport (s : State) (x : Xfer) : Report := match (s.core x.core).slot x.token with
  | some y => (match y.line with
    | .send l => Report.bad stAccess l.dq.toNat
    | .recv l => Report.bad stAccess l.sq.toNat
    | _ => Report.bad stAccess 0)
  | none => Report.bad stAccess 0

/-- A RECV of an all-gather stores one super-block, or notes its refusal; a missing right ends it. -/
def State.gatherAnswer (s : State) (x : Xfer) (sb : Nat) (out : GatherOut) : State :=
  let s1 := s.modEng fun e => { e with xfers := e.xfers.map fun y =>
    if y.core = x.core ∧ y.token = x.token then { y with gather := y.gather.erase sb, refused := y.refused || out == .refused } else y }
  match out, (s.core x.core).slot x.token with
  | .denied, _ => s.endXfers (fun y => y.core == x.core && y.token == x.token) (s.refusedReport x)
  | .data bs, some slot => match slot.line with
    | .recv l =>
      let first := match (s.part x.part).exch.get none (l.sq.toNat % 65536) with
        | some e => e.firstsb
        | none => 0
      let d := (Fmt.ofCode l.dfmt).getD .k16
      let out := if d == .k16 then bs else widenRun .k16 d bs
      let w := s1.storeRecv x.core x.part l ((sb - first) * 1024 * d.bits / 8) out
      if w.1 then w.2 else w.2.recvFailed x.core x.part x.token l
    | _ => s1
  | _, _ => s1

/-- Answer a request of a peer on its session: 2,048 bytes, or nothing for a refusal, with ARG 1 where a right is missing
(log 23). -/
def State.gatherReply (s : State) (i : Nat) (shard sb : Nat) (bytes : List Byte) (denied : Bool) : State :=
  (s.sendList i fun k => [{ k with
    dq := BitVec.ofNat 20 shard, coll := 2, ret := true, fmt := 9, first := true, last := true, ofs := BitVec.ofNat 32 sb,
    arg := if denied then 1 else 0, payload := bytes }]).2

/-- Serve one request whose super-block may be served now. -/
def State.gatherServe (s : State) (g : GatherReq) : State :=
  match g.sess with
  | none => match s.gatherRead g.part false g.shard g.sb, s.gatherXfer (fun x => x.core == g.core && x.token == g.token) g.sb with
    | (.faulted, s1), _ => s1.partFault g.part 5 none
    | (out, s1), some x => s1.gatherAnswer x g.sb out
    | (_, s1), none => s1
  | some i => match s.gatherRead g.part true g.shard g.sb with
    | (.data bs, s1) => s1.gatherReply i g.shard g.sb bs false
    | (.refused, s1) => s1.gatherReply i g.shard g.sb [] false
    | (.denied, s1) => s1.gatherReply i g.shard g.sb [] true
    | (.faulted, s1) => s1.partFault g.part 5 none

/-- The super-block of a request may be served: refused at once where the shard does not hold it, else once its latest
recorded step is at or after STEP. -/
def State.gatherReady (s : State) (g : GatherReq) : Bool :=
  let u := (s.part g.part).ue
  (match u.shards[g.shard]? with
    | some d => decide (d.nsb ≤ g.sb)
    | none => true) || atOrAfter32 (u.recorded g.shard g.sb) g.step

/-- Take the requests of a list: each is served at once or held (R304). -/
def State.gatherTake (s : State) : List GatherReq → State
  | [] => s
  | g :: gs => State.gatherTake (if s.gatherReady g then s.gatherServe g else s.modEng fun e => { e with gathers := e.gathers ++ [g] }) gs

end Sys2Proof.Machine
end

