-- ==== Sys2Proof/Machine/Transfer.lean ====
section
/-! DEFINITION. SEND, RECV, STASH and UNSTASH: their checks at decode (05 R106, R107, Tables 5.15 to 5.18, 13 R297 to R310)
and what they do when they start. -/

namespace Sys2Proof.Machine

/-! ### Checks at decode -/

/-- An HBM address field: aligned to 32 bytes, mapped and with the right (05 R98). -/
def State.checkVa (s : State) (p : PartId) (va len : Nat) (w : Right) : Option Report :=
  if va % 32 ≠ 0 then some (Report.badHbm stBadAddress va)
  else match (s.part p).checkRange va len w with
    | some (st, a) => some (Report.badHbm st a)
    | none => none

/-- The exchange entry that DQ or SQ names (13 R298). -/
def State.exchOf (s : State) (p : PartId) (q : Qid) : Option ExchEnt :=
  if q.toNat < 65536 then (s.part p).exch.get none q.toNat else none

/-- CGRP, in any command, names no group of the partition (13 R297). -/
def State.badGroup (s : State) (p : PartId) (g : BitVec 16) : Bool := (s.cgroupOf p g).isNone

/-- Decode checks of SEND (Tables 5.15, 5.17). -/
def State.checkSend (s : State) (c : CoreId) (p : PartId) (l : SendLine) : Option Report :=
  let f := Fmt.ofCode l.fmt
  let k := (s.core c).ctl
  let rs := l.coll == 1
  let e := s.exchOf p l.dq
  let badColl := l.coll == 2 || decide (6 ≤ l.coll.toNat) || (l.dall != (l.coll == 3 || l.coll == 4))
  let rows := match k.item with
    | some (_, i) => i.rows
    | none => 0
  orElseReport
    (firstBad [
      (f.isNone || (rs && f != some .g8), Report.bad stBadFormat 32),
      (l.count == 0 || (rs && (match e with
        | some d => l.count != d.nsb * 1056
        | none => false)) || (l.coll == 3 && !badColl && rows != 0 && l.count % rows != 0), Report.bad stBadField 85),
      (rs && (match e with
        | some d => l.dmod != d.owner
        | none => false), Report.bad stBadField 117),
      ((rs && e.isNone) || (l.coll == 5 && l.dq != 0) || (l.coll == 3 && !badColl && (match k.item with
        | some (q, _) => q != l.dq
        | none => true)), Report.bad stBadField 131),
      (badColl || (rs && k.seed.isNone), Report.bad stBadField 151),
      (s.badGroup p l.cgrp, Report.bad stBadField 154)])
    (if l.smem || l.coll == 5 then s.checkVa p l.saddr.toNat l.count .r
     else spansBad [⟨false, l.saddr.toNat % 2 ^ 20 * 32, l.count⟩])

/-- Decode checks of RECV (Tables 5.16, 5.17, 13 R304). -/
def State.checkRecv (s : State) (c : CoreId) (p : PartId) (l : RecvLine) : Option Report :=
  let f := Fmt.ofCode l.rfmt
  let d := Fmt.ofCode l.dfmt
  let ag := l.coll == 2
  let e := s.exchOf p l.sq
  let pair := match f, d with
    | some a, some b => recvPair a b && (!ag || b == .k16 || b == .b32)
    | _, _ => false
  orElseReport
    (firstBad [
      (f.isNone || (ag && f != some .k16), Report.bad stBadFormat 32),
      (!pair, Report.bad stBadFormat 36),
      (l.count == 0 || (ag && (match e, d with
        | some x, some b => l.count != x.nsb * 1024 * b.bits / 8
        | _, _ => false)), Report.bad stBadField 89),
      (ag && (match e with
        | some x => l.smod != x.owner
        | none => false), Report.bad stBadField 121),
      (ag && e.isNone, Report.bad stBadField 135),
      (!(l.coll == 0 || ag || l.coll == 4) || (ag && (s.core c).ctl.seed.isNone), Report.bad stBadField 155),
      (s.badGroup p l.cgrp, Report.bad stBadField 158)])
    (if l.dmem then s.checkVa p l.daddr.toNat l.count .pw
     else spansBad [⟨false, l.daddr.toNat % 2 ^ 20 * 32, l.count⟩])

/-- Decode checks of STASH and UNSTASH (Table 5.18); RSEG is examined in UNSTASH only. -/
def State.checkStash (s : State) (p : PartId) (unstash : Bool) (l : StashLine) : Option Report :=
  orElseReport
    (firstBad [(decide (l.len.toNat = 0 ∨ 24 * 2 ^ 20 < l.len.toNat), Report.bad stBadField 76)])
    (orElseReport (spansBad [⟨false, l.csa.toNat * 32, l.len.toNat⟩])
      (if unstash && l.rseg != 0 then s.checkVa p l.rseg.toNat 32 .x else none))

/-! ### Credits (10 R240, 13 R295) -/

/-- A waiting session can be given a credit for the queue now. -/
def State.canServe (s : State) (q : Queue) (w : Nat × Bool) : Bool :=
  if w.2 then q.slotted && q.canGrantA2a w.1
  else if q.slotted then q.canGrant
  else match s.sess w.1 with
    | some d => q.items.any (s.recvOpen d.peer)
    | none => false

/-- Enter a grant to a session in the queue's books. -/
def State.bookGrant (s : State) (q : Queue) (w : Nat × Bool) : Queue :=
  let q := { q with waiters := q.waiters.erase w }
  if w.2 then { q with a2aGrants := q.a2aGrants.set 0 w.1 (q.a2aGrants.get 0 w.1 + 1) }
  else
    let q := { q with held := q.held.set 0 w.1 (q.held.get 0 w.1 + 1) }
    if q.slotted then { q with grants := q.grants + 1 }
    else match s.sess w.1 with
      | some d => match q.items.find? (s.recvOpen d.peer) with
        | some i => q.putItem { i with grantedTo := some w.1 }
        | none => q
      | none => q

/-- Grant what can be granted, in the order of the requests; `n` bounds the grants. -/
def State.grantQueue (s : State) (qid : Qid) : Nat → State
  | 0 => s
  | n + 1 => match s.queue qid with
    | none => s
    | some q => match q.waiters.find? (s.canServe q) with
      | none => s
      | some w =>
        let s1 := s.setQueue qid (s.bookGrant q w)
        State.grantQueue (s1.sendCredit w.1 qid 1 (if q.slotted then q.slotb else 0) w.2) qid n

/-- Grant on every queue that has waiting senders. -/
def State.grantAll (s : State) : List Qid → State
  | [] => s
  | q :: qs => State.grantAll (match s.queue q with
      | some d => if d.waiters.isEmpty || !s.cached q then s else s.grantQueue q d.waiters.length
      | none => s) qs

/-! ### Reading a source -/

/-- The bytes of a SEND's source: an uncorrectable quad ends the command, an uncorrectable HBM codeword faults the
partition. -/
inductive Source where
  | bytes (bs : List Byte) (s : State)
  | ended (r : Run)

def State.sourceOf (s : State) (c : CoreId) (p : PartId) (hbm : Bool) (addr len : Nat) : Source :=
  if hbm then match s.readHbm p addr len with
    | (some bs, s1) => .bytes bs s1
    | (none, s1) => .ended (.gone (s1.partFault p 5 (some c)))
  else
    let d : Span := ⟨false, addr % 2 ^ 20 * 32, len⟩
    match s.checkSpans c [d] with
    | (true, s1) => .bytes ((s1.core c).mem.read d) s1
    | (false, s1) => .ended (.done (Report.bad stCsEcc 0) s1)

def State.sendSource (s : State) (c : CoreId) (p : PartId) (l : SendLine) : Source :=
  s.sourceOf c p l.smem l.saddr.toNat l.count

/-- Enter a started transfer. -/
def State.addXfer (s : State) (x : Xfer) : State := s.modEng fun e => { e with xfers := e.xfers ++ [x] }

/-! ### SEND -/

/-- Point to point on this module (05 R425, 10 R228, 14 R326). -/
def State.sendLocal (s : State) (c : CoreId) (p : PartId) (l : SendLine) : Run :=
  let no := Run.done (Report.bad stAccess l.dq.toNat) s
  if isMbQueue l.dq then
    if l.dq.toNat = 0xFFFF1 + p.val then match s.sendSource c p l with
      | .ended r => r
      | .bytes bs s1 => .done .ok (s1.deliverRequest (Fin.ofNat 16 (p.val + 1)) (.stream c) bs)
    else no
  else match s.queue l.dq with
    | none => no
    | some q =>
      if q.part ≠ p then no
      else if !s.cached l.dq then .blocked s
      else if q.isJq then
        if l.count ≠ 16 then .done (Report.bad stBadField 85) s
        else if !q.room then .blocked s
        else match s.sendSource c p l with
          | .ended r => r
          | .bytes bs s1 => match s1.postRecord l.dq fun _ _ => bs with
            | (false, true, s2) => .blocked s2
            | (_, true, s2) => .done .ok s2
            | (_, false, s2) => if q.memCs then .done (Report.bad stCsEcc 0) s2 else .gone (s2.partFault p 5 (some c))
      else if q.isRxp then
        if q.slotted && decide (q.slotb < l.count) then .done (Report.bad stBadField 85) s
        else if (if q.slotted then !(q.room && q.canGrant && q.slotFree q.ppos) else !(q.items.any (s.recvOpen s.moduleId))) then .blocked s
        else match s.sendSource c p l with
          | .ended r => r
          | .bytes bs s1 => match s1.deliverLocal l.dq q bs with
            | some s2 => .done .ok s2
            | none => .blocked s1
      else no

/-- A mark in a session's SLOTB book: the peer refused this queue (R106, log 23). -/
def refusedSlotb : Nat := 2 ^ 40

/-- What a peer's queue is good for now. -/
inductive Credit where
  | lost (s : State) | noAccess (s : State) | wait (s : State) | tooLong (s : State) | ready (i : Nat) (s : State)

/-- Look for a credit of module `m` for its queue `dq`, asking for one where none is held (13 R295). -/
def State.creditFor (s : State) (p : PartId) (m : BitVec 14) (dq : Qid) (count : Nat) : Credit :=
  if s.eng.lostMods.contains m then .lost s
  else match s.needSess p m with
    | (none, s1) => .noAccess s1
    | (some i, s1) => match s1.sess i with
      | none => .noAccess s1
      | some d =>
        if !d.opened then .wait s1
        else if d.slotbs.get 0 dq.toNat = refusedSlotb then .noAccess (s1.setSess i (some { d with slotbs := d.slotbs.erase dq.toNat }))
        else if d.credits.get 0 dq.toNat = 0 then
          if d.asked.contains dq then .wait s1
          else .wait ((s1.setSess i (some { d with asked := dq :: d.asked })).sendCredit i dq 0 0 false)
        else if d.slotbs.get 0 dq.toNat ≠ 0 ∧ d.slotbs.get 0 dq.toNat < count then .tooLong s1
        else .ready i s1

/-- Use one credit and send a message. -/
def State.sendCredited (s : State) (i : Nat) (dq : Qid) (coll : BitVec 3) (cgrp : BitVec 16) (fmt : BitVec 4) (bs : List Byte) :
    BitVec 32 × State :=
  let s1 := match s.sess i with
    | some d => s.setSess i (some { d with credits := d.credits.set 0 dq.toNat (d.credits.get 0 dq.toNat - 1) })
    | none => s
  s1.sendMsg i (fun k => { k with dq := dq, coll := coll, cgrp := cgrp, fmt := fmt }) bs

/-- Point to point to another module. -/
def State.sendRemote (s : State) (c : CoreId) (p : PartId) (x : InFlight) (l : SendLine) : Run :=
  match s.creditFor p l.dmod l.dq l.count with
  | .lost s1 => .done (Report.bad stPeerLost 0) s1
  | .noAccess s1 => .done (Report.bad stAccess l.dq.toNat) s1
  | .wait s1 => .blocked s1
  | .tooLong s1 => .done (Report.bad stBadField 85) s1
  | .ready i s1 => match s1.sendSource c p l with
    | .ended r => r
    | .bytes bs s2 =>
      let w := s2.sendCredited i l.dq 0 l.cgrp l.fmt bs
      .started (w.2.addXfer ⟨c, x.token, p, none, [l.dmod], [(i, w.1)], [], false, none, []⟩)

/-- Collect a credit from every module of a list (13 R308). -/
def State.creditsFor (s : State) (p : PartId) (dq : Qid) (count : Nat) : List (BitVec 14) → List Nat → Credit × List Nat
  | [], is => (.ready 0 s, is)
  | m :: ms, is => match s.creditFor p m dq count with
    | .ready i s1 => State.creditsFor s1 p dq count ms (is ++ [i])
    | .wait s1 => match State.creditsFor s1 p dq count ms is with
      | (.ready _ s2, js) => (.wait s2, js)
      | r => r
    | r => (r, is)

/-- Send a broadcast to the sessions of a list. -/
def State.sendEach (s : State) (l : SendLine) (bs : List Byte) : List Nat → List (Nat × BitVec 32) × State
  | [] => ([], s)
  | i :: is =>
    let w := s.sendCredited i l.dq 4 l.cgrp l.fmt bs
    let r := w.2.sendEach l bs is
    ((i, w.1) :: r.1, r.2)

/-- Broadcast (R308). -/
def State.sendBcast (s : State) (c : CoreId) (p : PartId) (x : InFlight) (l : SendLine) (g : CGroup) : Run :=
  let others := g.members.filter (· != s.moduleId)
  match s.creditsFor p l.dq l.count others [] with
  | (.lost s1, _) => .done (Report.bad stPeerLost 0) s1
  | (.noAccess s1, _) => .done (Report.bad stAccess l.dq.toNat) s1
  | (.wait s1, _) => .blocked s1
  | (.tooLong s1, _) => .done (Report.bad stBadField 85) s1
  | (.ready _ s1, is) => match s1.sendSource c p l with
    | .ended r => r
    | .bytes bs s2 =>
      let w := s2.sendEach l bs is
      .started (w.2.addXfer ⟨c, x.token, p, some l.cgrp, others, w.1, [], false, none, []⟩)

/-- The packets of a reduce-scatter message, up to seven super-blocks each (R299, Table 13.1). -/
def rsPackets (k : Pkt) (sb : Nat) (first : Bool) (sbs : List (List Byte)) : Nat → List Pkt
  | 0 => []
  | n + 1 =>
    let now := sbs.take 7
    let rest := sbs.drop 7
    let q := { k with ofs := BitVec.ofNat 32 sb, arg := BitVec.ofNat 32 (now.length * 2 ^ 16), first := first, last := rest.isEmpty,
                      payload := now.flatten }
    if rest.isEmpty then [q] else q :: rsPackets k (sb + 7) false rest n

/-- A packet that stays inside the module. -/
def State.ownPkt (s : State) (p : PartId) : Pkt :=
  ⟨1, tyData, p, false, s.moduleId, s.moduleId, 0, 0, 0, 0, 0, false, 0, 0, false, false, false, 0, 0, 0, 0, true, []⟩

/-- Offer packets of contributions to this module's own shards (R299): what is left, whether a super-block was refused, and the state.
A packet that finds no context free stays and is offered again; its drop counts once (R302, log 50). -/
def State.takeOwn (s : State) (p : PartId) : List (Pkt × Bool) → List (Pkt × Bool) × Bool × State
  | [] => ([], false, s)
  | (k, counted) :: ks =>
    match s.rsRun p s.moduleId k.dq.toNat k.step k.cgrp k.ofs.toNat (cutSbs k.payload (bitsOf k.arg.toNat 16 3)) false with
    | some (bad, s1) => let r := State.takeOwn s1 p ks; (r.1, bad || r.2.1, r.2.2)
    | none => let r := State.takeOwn (if counted then s else s.countPart p .rsNoctx 1) p ks; ((k, true) :: r.1, r.2.1, r.2.2)

/-- Reduce-scatter (R299). -/
def State.sendRs (s : State) (c : CoreId) (p : PartId) (x : InFlight) (l : SendLine) (e : ExchEnt) : Run :=
  let step := match x.seed with
    | some k => k.step
    | none => 0
  if s.eng.lostMods.contains e.owner then .done (Report.bad stPeerLost 0) s
  else match s.sendSource c p l with
    | .ended r => r
    | .bytes bs s1 =>
      let sbs := cutSbs bs e.nsb
      if e.owner = s.moduleId then
        let ks := rsPackets { s1.ownPkt p with
          dq := BitVec.ofNat 20 e.shard.toNat, coll := 1, cgrp := l.cgrp, fmt := l.fmt, step := step } e.firstsb true sbs (sbs.length + 1)
        let w := s1.takeOwn p (ks.map fun k => (k, false))
        .started (w.2.2.addXfer ⟨c, x.token, p, some l.cgrp, [], [], [], w.2.1, none, w.1⟩)
      else match s1.needSess p e.owner with
        | (none, s2) => .done (Report.bad stAccess l.dq.toNat) s2
        | (some i, s2) =>
          let w := s2.sendList i fun k => rsPackets { k with
            dq := BitVec.ofNat 20 e.shard.toNat, coll := 1, cgrp := l.cgrp, fmt := l.fmt, step := step } e.firstsb true sbs (sbs.length + 1)
          .started (w.2.addXfer ⟨c, x.token, p, some l.cgrp, [e.owner], [(i, w.1)], [], false, none, []⟩)

/-- The return message for one source module (R307). -/
def returnMsg (l : SendLine) (i : Item) (yrowb : Nat) (bs : List Byte) (m : BitVec 14) : A2aMsg :=
  let mine := i.table.filter fun r => r.src == m
  ⟨0, l.dq, l.cgrp, BitVec.ofNat 32 yrowb, mine.map (·.record),
   mine.flatMap fun r => if r.record.refused then [] else
     (List.range r.record.count.toNat).map fun k => (bs.drop ((r.row + k) * yrowb)).take yrowb⟩

/-- Send the return messages to the modules of a list, giving the messages to wait for. -/
def State.sendReturns (s : State) (p : PartId) (mk : BitVec 14 → A2aMsg) : List (BitVec 14) → List (Nat × BitVec 32) × State
  | [] => ([], s)
  | m :: ms =>
    let s1 := if m = s.moduleId then s else (s.needSess p m).2
    let at_ := if m = s.moduleId then [] else match s1.findSess p m with
      | some i => (match s1.sess i with
        | some d => [(i, d.nextMsg)]
        | none => [])
      | none => []
    let s2 := s1.a2aSend p m true (mk m)
    let r := s2.sendReturns p mk ms
    (at_ ++ r.1, r.2)

/-- The all-to-all return leg (R307). -/
def State.sendReturn (s : State) (c : CoreId) (p : PartId) (x : InFlight) (l : SendLine) : Run :=
  match x.item with
  | none => .done (Report.bad stBadField 131) s
  | some (q, i) =>
    if q ≠ l.dq then .done (Report.bad stBadField 131) s
    else if i.rows ≠ 0 ∧ l.count % i.rows ≠ 0 then .done (Report.bad stBadField 85) s
    else match s.sendSource c p l with
      | .ended r => r
      | .bytes bs s1 =>
        let yrowb := if i.rows = 0 then 0 else l.count / i.rows
        let srcs := ((i.heard ++ i.table.map (·.src)).dedup).filter fun m => !s.eng.lostMods.contains m
        let w := s1.sendReturns p (returnMsg l i yrowb bs) srcs
        .started (w.2.addXfer ⟨c, x.token, p, some l.cgrp, srcs, w.1, [], false, none, []⟩)

/-! ### PERMUTE (R310) -/

/-- A move of the plan: source, destination, length, module. -/
structure PlanMove where
  sva : Nat
  dva : Nat
  len : Nat
  dmod : Nat

def planMoves (b : List Byte) : Nat → List PlanMove
  | 0 => []
  | n + 1 => ⟨fieldLE b 0 8 % 2 ^ 48, fieldLE b 8 8 % 2 ^ 48, fieldLE b 16 6, fieldLE b 22 2 % 2 ^ 14⟩ :: planMoves (b.drop 24) n

/-- The outgoing moves with their places in scratch. -/
def scratchMoves (at_ : Nat) : List PlanMove → List PermMove
  | [] => []
  | m :: ms => ⟨at_, BitVec.ofNat 48 m.dva, m.len, BitVec.ofNat 14 m.dmod⟩ :: scratchMoves (at_ + m.len) ms

/-- Copy bytes from one place of the partition's HBM to another: none where a read is uncorrectable, false where a write
did not land. -/
def State.copyHbm (s : State) (p : PartId) (src dst len : Nat) : Option Bool × State :=
  match s.readHbm p src len with
  | (none, s1) => (none, s1)
  | (some bs, s1) => let w := s1.writeHbm p dst bs; (some w.1, w.2)

/-- Copy every outgoing range into scratch, in move order: false where a codeword stopped it. -/
def State.copyMoves (s : State) (p : PartId) (scratch : Nat) : Nat → List PlanMove → Bool × State
  | _, [] => (true, s)
  | at_, m :: ms => match s.copyHbm p m.sva (scratch + at_) m.len with
    | (some true, s1) => State.copyMoves s1 p scratch (at_ + m.len) ms
    | (_, s1) => (false, s1)


/-- What a move of a PERMUTE under way brings. -/
inductive Moved where
  | waits (s : State) | sent (m : Option (Nat × BitVec 32)) (s : State) | refused (r : Report) (s : State) | faulted (s : State)

/-- Send one move from scratch once its module is ready; a move to this module is a local copy. -/
def State.sendMove (s : State) (p : PartId) (cgrp : BitVec 16) (r : PermRun) (m : PermMove) : Moved :=
  if m.dmod = s.moduleId then
    match (s.part p).checkRange m.dva.toNat m.len .w with
    | some (st, a) => .refused (Report.badHbm st a) s
    | none => match s.copyHbm p (r.scratch.toNat + m.scr) m.dva.toNat m.len with
      | (some true, s1) => .sent none s1
      | (_, s1) => .faulted s1
  else if !r.ready.contains m.dmod then .waits s
  else match s.needSess p m.dmod with
    | (none, s1) => .refused (Report.bad stAccess 0) s1
    | (some i, s1) => match s1.readHbm p (r.scratch.toNat + m.scr) m.len with
      | (none, s2) => .faulted s2
      | (some bs, s2) =>
        let w := s2.sendList i fun k => permPackets { k with cgrp := cgrp } 0 r.pid m.dva.toNat 0 bs (m.len / 8160 + 1)
        .sent (some (i, w.1)) w.2

/-- Change the transfer of a slot. -/
def State.modXfer (s : State) (c : CoreId) (tok : Nat) (f : Xfer → Xfer) : State :=
  s.modEng fun e => { e with xfers := e.xfers.map fun x => if x.core = c ∧ x.token = tok then f x else x }

/-- Offer again the contributions to own shards of the transfers of a list. -/
def State.ownAll (s : State) : List Xfer → State
  | [] => s
  | x :: xs =>
    if x.own.isEmpty then State.ownAll s xs
    else
      let w := s.takeOwn x.part x.own
      State.ownAll (w.2.2.modXfer x.core x.token fun y => { y with own := w.1, refused := y.refused || w.2.1 }) xs

/-- Send every move that can go. -/
def State.sendMoves (s : State) (x : Xfer) (r : PermRun) : List PermMove → State
  | [] => s
  | m :: ms => match s.sendMove x.part (x.cgrp.getD 0) r m with
    | .waits s1 => State.sendMoves s1 x r ms
    | .sent id s1 =>
      State.sendMoves (s1.modXfer x.core x.token fun y => { y with
        msgs := y.msgs ++ id.toList
        perm := y.perm.map fun q => { q with moves := q.moves.erase m } }) x r ms
    | .refused rep s1 =>
      (s1.modEng fun e => { e with xfers := e.xfers.filter fun y => !(y.core == x.core && y.token == x.token) }).complete x.core x.token rep
    | .faulted s1 => s1.partFault x.part 5 (some x.core)

/-- A PERMUTE takes the READY notices of its plan: each serves one PERMUTE (R310). -/
def State.takeReady (s : State) (x : Xfer) (r : PermRun) : PermRun × State :=
  let mine := (s.eng.ready.filter fun n => n.1 == x.part && n.2.1 == r.pid.toNat && !r.ready.contains n.2.2)
  let r1 := { r with ready := r.ready ++ mine.map (·.2.2) }
  (r1, (s.modEng fun e => { e with ready := e.ready.filter fun n => !mine.contains n }).modXfer x.core x.token fun y => { y with perm := some r1 })

/-- Let every PERMUTE under way go on. -/
def State.permAll (s : State) : List Xfer → State
  | [] => s
  | x :: xs => match x.perm with
    | some r =>
      let w := s.takeReady x r
      State.permAll (w.2.sendMoves x w.1 w.1.moves) xs
    | none => State.permAll s xs

/-- The pages that a plan reads and writes on this module: scratch is written and read back (11 R250). -/
def State.planBad (s : State) (p : PartId) (scratch sum : Nat) (ms : List PlanMove) : Option Report :=
  ([(scratch, sum, Right.w), (scratch, sum, Right.r)] ++ ms.map fun m => (m.sva, m.len, Right.r)).findSome? fun a =>
    ((s.part p).checkRange a.1 a.2.1 a.2.2).map fun r => Report.badHbm r.1 r.2

/-- PERMUTE starts: the plan is read, every outgoing range goes to scratch, and READY goes to the group. -/
def State.startPermute (s : State) (c : CoreId) (p : PartId) (x : InFlight) (l : SendLine) (g : CGroup) : Run :=
  match s.readHbm p l.saddr.toNat l.count with
  | (none, s1) => .gone (s1.partFault p 5 (some c))
  | (some b, s1) =>
    let pid := BitVec.ofNat 32 (fieldLE b 0 4)
    let n := fieldLE b 4 4
    let scratch := fieldLE b 8 8 % 2 ^ 48
    let ms := planMoves (b.drop 32) n
    let sum := (ms.map (·.len)).sum
    if l.count < 32 + 24 * n then .done (Report.bad stBadField 0x80000004) s1
    else if fieldLE b 0x10 8 < sum then .done (Report.bad stBadField 0x80000010) s1
    else match s1.planBad p scratch sum ms with
      | some r => .done r s1
      | none => match s1.copyMoves p scratch 0 ms with
        | (false, s2) => .gone (s2.partFault p 5 (some c))
        | (true, s2) =>
          let s3 := s2.notifyAll p 4 0 (bytesLE 4 pid.toNat) g.members
          .started (s3.addXfer ⟨c, x.token, p, some l.cgrp, g.members.filter (· != s.moduleId), [], [], false,
            some ⟨pid, scratchMoves 0 ms, BitVec.ofNat 48 scratch, fieldLE b 0x18 8, []⟩, []⟩)

/-- SEND starts (R106, 13 R299, R307, R308, R310); a transfer of a group that has lost a member ends (13 R318). -/
def State.runSend (s : State) (c : CoreId) (p : PartId) (x : InFlight) (l : SendLine) : Run :=
  if l.coll = 0 then
    (if (s.cgroupOf p l.cgrp).any (·.lost) then .done (Report.bad stPeerLost 0) s
     else if l.dmod = s.moduleId then s.sendLocal c p l else s.sendRemote c p x l)
  else match s.cgroupOf p l.cgrp with
    | none => .done (Report.bad stBadField 154) s
    | some g =>
      if g.lost then .done (Report.bad stPeerLost 0) s
      else if l.coll = 1 then (match s.exchOf p l.dq with
        | some e => s.sendRs c p x l e
        | none => .done (Report.bad stBadField 131) s)
      else if l.coll = 3 then s.sendReturn c p x l
      else if l.coll = 4 then s.sendBcast c p x l g
      else s.startPermute c p x l g

/-! ### RECV -/

/-- Request the super-blocks of an exchange entry from their owner (R304). -/
def State.runGather (s : State) (c : CoreId) (p : PartId) (x : InFlight) (l : RecvLine) (e : ExchEnt) : Run :=
  let seed := match x.seed with
    | some k => k.step
    | none => 0
  let step := if x.mark.phase = 2 then seed else seed - 1
  let sbs := (List.range e.nsb).map (e.firstsb + ·)
  let xf : Xfer := ⟨c, x.token, p, some l.cgrp, [e.owner], [], sbs, false, none, []⟩
  if s.eng.lostMods.contains e.owner then .done (Report.bad stPeerLost 0) s
  else if e.owner = s.moduleId then
    .started ((s.addXfer xf).gatherTake (sbs.map fun b => ⟨p, none, c, x.token, e.shard.toNat, b, b - e.firstsb, step⟩))
  else match s.needSess p e.owner with
    | (none, s1) => .done (Report.bad stAccess l.sq.toNat) s1
    | (some i, s1) =>
      let w := s1.sendList i fun k => [{ k with
        dq := BitVec.ofNat 20 e.shard.toNat, coll := 2, cgrp := l.cgrp, fmt := l.rfmt, step := step, first := true, last := true, ofs := BitVec.ofNat 32 e.firstsb, payload := padTo 32 (bytesLE 4 e.nsb) }]
      .started (w.2.addXfer xf)

/-- Take the oldest item of a slotted RXP queue, when it comes from the module that SMOD names (log 24). -/
def State.recvSlotted (s : State) (c : CoreId) (p : PartId) (l : RecvLine) (q : Queue) : Run :=
  match q.pendingItem, q.waitItem with
  | some i, some d =>
    if !l.sany && i.src != some l.smod then .blocked s
    else
      match (if q.memCs then none else (s.part p).checkRange (q.base.toNat + q.slotOff i.n) i.bytes .r) with
      | some (st, a) => .done (Report.badHbm st a) s
      | none => match s.takeQueue q (some c) (q.slotOff i.n) i.bytes with
        | (none, s1) => if q.memCs then .done (Report.bad stCsEcc 0) s1 else .gone (s1.partFault p 5 (some c))
        | (some bs, s1) =>
          let data := Mem.writeN [] 0 bs
          let w := (s1.setQueue l.sq d.q).recvPiece c p l data [(0, roundUp bs.length 32)] (some i.bytes) 0 bs
          if w.1 then .done (recvReport l data i.bytes i.msg.isNone) w.2
          else if l.dmem then .gone (w.2.partFault p 5 (some c)) else .done (Report.bad stCsEcc 0) w.2
  | _, _ => .blocked (s.passOver l.sq)

/-- A RECV that has posted its item starts: what has arrived for it is stored. -/
def State.startPosted (s : State) (c : CoreId) (p : PartId) (l : RecvLine) (i : Item) : Run :=
  let w := s.storeSoFar c p l i i.ranges
  if !w.1 then (if l.dmem then .gone (w.2.partFault p 5 (some c)) else .done (Report.bad stCsEcc 0) w.2)
  else if i.full then .done (recvReport l i.data (i.total.getD 0) false) w.2
  else .started w.2

/-- RECV starts; it is held while the descriptor of its queue is fetched (10 R221). -/
def State.runRecv (s : State) (c : CoreId) (p : PartId) (x : InFlight) (l : RecvLine) : Run :=
  let lost := (s.cgroupOf p l.cgrp).any (·.lost) || (l.coll == 0 && !l.sany && s.eng.lostMods.contains l.smod)
  if lost then .done (Report.bad stPeerLost 0) s
  else if l.coll = 2 then match s.exchOf p l.sq with
    | some e => s.runGather c p x l e
    | none => .done (Report.bad stBadField 135) s
  else match s.queue l.sq with
    | none => .done (Report.bad stAccess l.sq.toNat) s
    | some q =>
      if !q.isRxp || q.part != p || isMbQueue l.sq then .done (Report.bad stAccess l.sq.toNat) s
      else if !s.cached l.sq then .blocked s
      else if q.slotted then s.recvSlotted c p l q
      else match q.items.find? fun i => i.recv == some (c, x.token) with
        | some i => s.startPosted c p l i
        | none => if q.room then .started (s.postRecv c p x.token l) else .blocked s

/-! ### STASH and UNSTASH (08 R178 to R182, 05 R107) -/

/-- The shares of a core in S and H (R178). -/
def State.stashShares (s : State) (p : PartId) : Nat × Nat :=
  let n := (s.coresOf p).length
  match (s.part p).cfg with
  | some g => (g.s.toNat / n / 256 * 256, g.h.toNat / n / 256 * 256)
  | none => (0, 0)

/-- A release that an earlier SEED brought is still due (R182). -/
def CoreStash.waits (k : CoreStash) (tok : Nat) : Bool := k.releaseDue.any fun t => decide (t < tok)

/-- Raise STASH_PEAK (Table 8.6). -/
def State.stashPeak (s : State) (p : PartId) (fill : Nat) : State :=
  s.modPart p fun q => { q with cnt := q.cnt.set 0 PartCnt.stashPeak.idx (max fill (q.cnt.get 0 PartCnt.stashPeak.idx)) }

/-- First byte of a core's share in the partition's stash region: shares lie in core order (R178, log 67). -/
def State.stashBase (s : State) (p : PartId) (c : CoreId) : Nat :=
  ((s.coresOf p).takeWhile fun d => d != c).length * (s.stashShares p).1

/-- Codewords of bytes `off` to `off + len` of a core's share whose stored state is `st`, each with the bytes of it that
the range covers (11 R256 to R258). -/
def State.stashWords (s : State) (p : PartId) (c : CoreId) (off len : Nat) (st : Ecc) : List (Nat × Nat) :=
  let lo := s.stashBase p c + off
  let hi := lo + len
  (s.hbm.ecc.filter fun e => e.2 == st).flatMap fun e =>
    (s.part p).stashPages.zipIdx.filterMap fun x =>
      let at_ := x.2 * pageBytes + e.1 * 64 % pageBytes
      if x.1 = e.1 * 64 / pageBytes ∧ lo < at_ + 64 ∧ at_ < hi then some (e.1, min hi (at_ + 64) - max lo at_) else none

/-- STASH (R179 to R181). A codeword that it covers whole is written afresh; the last one, when partly covered, is read
first, and stays unwritten where it is uncorrectable (11 R257). -/
def State.runStash (s : State) (c : CoreId) (p : PartId) (x : InFlight) (l : StashLine) : Run :=
  let k := (s.core c).stash
  let id := l.sid.extractLsb' 0 23
  let z := roundUp l.len.toNat 256
  let sh := s.stashShares p
  let limit := if l.sid.getLsbD 23 then sh.1 else sh.2
  if k.waits x.token then .blocked s
  else if k.dir.any fun e => e.id == id then .done (Report.bad stBadField 32) s
  else if 8192 ≤ k.dir.length then .done .ok (s.countPart p .stashDiscard 1)
  else
    let d : Span := ⟨false, l.csa.toNat * 32, l.len.toNat⟩
    match s.checkSpans c [d] with
    | (false, s1) => .done (Report.bad stCsEcc 0) s1
    | (true, s1) =>
      if k.fill + z ≤ limit then
        let ue := s1.stashWords p c k.fill l.len.toNat .double
        let ce := s1.stashWords p c k.fill l.len.toNat .single
        let bad := (ue.filter fun w => decide (w.2 < 64)).map (·.1)
        let bs := ((s1.core c).mem.read d).take (if bad.isEmpty then l.len.toNat else l.len.toNat / 64 * 64)
        let s2 := ((s1.countWords .ce ((ce.filter fun w => decide (w.2 < 64)).map (·.1))).clearWords (ce.map (·.1))).clearWords
          ((ue.filter fun w => decide (64 ≤ w.2)).map (·.1))
        let s3 := (s2.modStash c fun q => { q with
          fill := q.fill + z
          dir := q.dir ++ [⟨id, l.len, true, q.fill⟩]
          bytes := q.bytes.writeN q.fill bs }).stashPeak p (k.fill + z)
        if bad.isEmpty then .done .ok s3 else .gone ((s3.logUe p.val 1 bad).partFault p 5 (some c))
      else .done .ok ((s1.modStash c fun q => { q with dir := q.dir ++ [⟨id, l.len, false, 0⟩] }).countPart p .stashDiscard 1)

/-- UNSTASH (R107, R181); an uncorrectable codeword of the entry faults the partition (11 R258). -/
def State.runUnstash (s : State) (c : CoreId) (p : PartId) (x : InFlight) (l : StashLine) : Run :=
  let k := (s.core c).stash
  if k.waits x.token then .blocked s
  else match k.dir.find? fun e => e.id == l.sid.extractLsb' 0 23 with
    | none => .done (Report.bad stBadField 32) s
    | some e =>
      if e.len ≠ l.len then .done (Report.bad stBadField 76) s
      else if e.present then
        let ue := (s.stashWords p c e.off l.len.toNat .double).map (·.1)
        let ce := (s.stashWords p c e.off l.len.toNat .single).map (·.1)
        let s1 := (s.countWords .ce ce).clearWords ce
        if !ue.isEmpty then .gone ((s1.logUe p.val 0 ue).partFault p 5 (some c))
        else
          let w := s1.writeCore c false (l.csa.toNat * 32) (Mem.readN k.bytes e.off l.len.toNat)
          if w.1 then .done .ok w.2 else .done (Report.bad stCsEcc 0) w.2
      else if l.rseg = 0 then .done (Report.bad stStashOverflow 0) s
      else if 16 ≤ (s.core c).ctl.stack.length then .done (Report.bad stBranchStack 0) s
      else .done ⟨stOk, 0, 0, 1, 0⟩
        ((s.modCtl c fun t => { t with stack := t.pc :: t.stack, pc := l.rseg }).countPart p .stashRecompute 1)

end Sys2Proof.Machine
end

