-- ==== Sys2Proof/Machine/Update.lean ====
section
/-! DEFINITION. The update engine (09): the update table, the rule, clipping by global norm, skips, and the two phases of
the preconditioned rule. -/

namespace Sys2Proof.Machine

/-! ### Step records -/

/-- Change the record of a step. -/
def UpdEng.modStep (u : UpdEng) (t : BitVec 32) (f : UeStep → UeStep) : UpdEng :=
  { u with steps := u.steps.map fun r => if r.step = t then f r else r }

/-- A step has a record; the ring keeps 16 (R217). -/
def UpdEng.ensure (u : UpdEng) (t : BitVec 32) : UpdEng :=
  if (u.stepOf t).isSome then u
  else { u with steps := (u.steps ++ [UeStep.new t]).drop (u.steps.length + 1 - 16) }

/-- The engine starts a block of a step or records a skip: B of R198. -/
def UpdEng.begin (u : UpdEng) (t : BitVec 32) : UpdEng :=
  let u := u.ensure t
  { u with begun := match u.begun with
      | some b => some (laterStep t b)
      | none => some t }

/-- Super-blocks the engine owns. -/
def UpdEng.total (u : UpdEng) : Nat := (u.shards.map (·.nsb)).sum

/-- A step closes: every super-block counts as recorded for it (01 R17). -/
def UpdEng.closeAs (u : UpdEng) (t : BitVec 32) (status : BitVec 8) : UpdEng :=
  { (u.modStep t fun r => { r with status := status }) with
    allRec := match u.allRec with
      | some b => some (laterStep t b)
      | none => some t }

/-! ### Norm exchange (R203, 13 R303) -/

/-- The group of the update configuration. -/
def State.ucGroup (s : State) (p : PartId) : Option CGroup := match (s.part p).ue.cfg with
  | some c => s.cgroupOf p c.ucgrp
  | none => none

/-- Members of UCGRP; the module alone without a group. -/
def State.ucMembers (s : State) (p : PartId) : List (BitVec 14) := match s.ucGroup p with
  | some g => g.members
  | none => [s.moduleId]

/-- NOFS of the update configuration. -/
def UpdEng.nofs (u : UpdEng) : Int := match u.cfg with
  | some c => c.nofs.toInt
  | none => 0

/-- NORM2 of a step once a value of every member has arrived and the step is COMPLETE here. -/
def State.sumNorm (s : State) (p : PartId) (t : BitVec 32) : State :=
  match (s.part p).ue.stepOf t with
  | none => s
  | some r =>
    if r.status = 1 ∧ r.norm2Valid = false ∧ ((s.ucMembers p).all fun m => r.norms.any fun n => n.1 == m) = true then
      let total := (r.norms.foldl (fun a n => a.plus n.2.sum) Sum.zero).entry.1
      s.modUe p fun u => { (u.modStep t fun r => { r with norm2Valid := true }) with
        norm2 := (t, total.exact u.nofs) :: u.norm2.take 15 }
    else s

/-- Record one engine's norm value (13 R303). -/
def State.noteNorm (s : State) (p : PartId) (m : BitVec 14) (t : BitVec 32) (v : AccEntry) : State :=
  (s.modUe p fun u => (u.ensure t).modStep t fun r =>
    { r with norms := if r.norms.any fun n => n.1 == m then r.norms else r.norms ++ [(m, v)] }).sumNorm p t

/-- Close a step whose super-blocks are all recorded: COMPLETE sends the norm, a noticed step is PARTIAL (R214, R215). -/
def State.closeIfDone (s : State) (p : PartId) (t : BitVec 32) : State :=
  let u := (s.part p).ue
  match u.stepOf t with
  | none => s
  | some r =>
    if r.isOpen && decide (u.total ≤ r.done.length) then
      if r.noticed then s.modUe p fun u => u.closeAs t 2
      else
        let s1 := s.modUe p fun u => u.closeAs t 1
        let s2 := s1.noteNorm p s1.moduleId t r.norm
        s2.notifyAll p 2 t (bytesLE 16 r.norm.value.toNat ++ bytesLE 1 r.norm.cls.toNat ++ List.replicate 11 0) (s2.ucMembers p)
    else s

/-- A super-block counts once for a step. -/
def UeStep.enter (r : UeStep) (key : Nat) : UeStep := { r with done := if r.done.contains key then r.done else r.done ++ [key] }

/-- Count a super-block of a step as recorded (01 R17, R195). -/
def State.recordSb (s : State) (p : PartId) (t : BitVec 32) (shard sb : Nat) : State :=
  (s.modUe p fun u => (u.record shard sb t).modStep t fun r => r.enter (sbKey shard sb)).closeIfDone p t

/-! ### The books of rule 3 (R206, R208, R209) -/

/-- The staging book of a precondition block: step, poisoned, blocks staged. -/
def stageKey (shard n : Nat) : Nat := 2 ^ 60 + shard * 2 ^ 32 + n
def stageWord (t : BitVec 32) (bad : Bool) (k : Nat) : Nat := t.toNat * 2 ^ 20 + (if bad then 2 ^ 19 else 0) + k
def UpdEng.stageOf (u : UpdEng) (shard n : Nat) (t : BitVec 32) : Bool × Nat :=
  let w := u.staged.get 0 (stageKey shard n)
  if w / 2 ^ 20 = t.toNat then (w.testBit 19, w % 2 ^ 19) else (false, 0)
def UpdEng.setStage (u : UpdEng) (shard n : Nat) (t : BitVec 32) (bad : Bool) (k : Nat) : UpdEng :=
  { u with staged := u.staged.set 0 (stageKey shard n) (stageWord t bad k) }

/-- Blocks of a super-block that are still to be settled for a step: updated by phase 2, or skipped. -/
def UpdEng.owed (u : UpdEng) (shard sb : Nat) (t : BitVec 32) : Nat :=
  let w := u.staged.get 0 (sbKey shard sb)
  if w / 2 ^ 20 = t.toNat then w % 2 ^ 20 else 32
def UpdEng.setOwed (u : UpdEng) (shard sb : Nat) (t : BitVec 32) (k : Nat) : UpdEng :=
  { u with staged := u.staged.set 0 (sbKey shard sb) (stageWord t false k) }

/-- Blocks of a step that are not yet updated, skipped or dropped. -/
def UpdEng.left (u : UpdEng) (r : UeStep) : Nat :=
  32 * (u.total - r.done.length) -
    ((u.staged.filter fun e => decide (e.1 < 2 ^ 60 ∧ e.2 / 2 ^ 20 = r.step.toNat) && !r.done.contains e.1).map fun e => 32 - e.2 % 2 ^ 20).sum

/-- `k` blocks of a super-block have been settled; the last one records the super-block. -/
def State.settleBlocks (s : State) (p : PartId) (t : BitVec 32) (shard sb k : Nat) : State :=
  let left := (s.part p).ue.owed shard sb t - k
  let s1 := s.modUe p fun u => u.setOwed shard sb t left
  if left = 0 ∧ k ≠ 0 then s1.recordSb p t shard sb else s1

/-- The coefficients that phase 2 takes from the start of a block: the table is read once, then (R198). A staged block that is not
settled has its entry, with its step. -/
def coefKey (shard sb b : Nat) : Nat := 2 ^ 61 + shard * 2 ^ 32 + 32 * sb + b
def UpdEng.keepCoefs (u : UpdEng) (shard sb b : Nat) (t : BitVec 32) (eta lambda : Nat) : UpdEng :=
  { u with staged := u.staged.set 0 (coefKey shard sb b) ((t.toNat * 2 + 1) * 2 ^ 64 + eta * 2 ^ 32 + lambda) }

/-- Block `b` of a super-block is staged for a step and not settled: what an earlier step left does not count. -/
def UpdEng.isStaged (u : UpdEng) (shard sb b : Nat) (t : BitVec 32) : Bool := u.staged.get 0 (coefKey shard sb b) / 2 ^ 64 == t.toNat * 2 + 1
def UpdEng.dropCoefs (u : UpdEng) (shard sb : Nat) (bs : List Nat) : UpdEng :=
  { u with staged := bs.foldl (fun m b => m.set 0 (coefKey shard sb b) 0) u.staged }

/-- Where element `e` (flattened) of a shard lies: its precondition block and its row and column there. -/
structure PcPlace where
  region : Nat
  a : Nat
  c : Nat
  deriving DecidableEq, Repr

def Shard.place (d : Shard) (e : Nat) : PcPlace :=
  let j := e / d.collen
  let i := e % d.collen
  let q := j / d.pn - d.first.toNat / d.collen / d.pn
  ⟨q * (d.collen / d.pk) + i / d.pk, i % d.pk, j % d.pn⟩

/-- Precondition block of block `b` of a super-block. -/
def Shard.regionOf (d : Shard) (sb b : Nat) : Nat := (d.place (d.first.toNat + 1024 * sb + 32 * b)).region

/-- The blocks of a precondition block of a shard, as (super-block, block). -/
def Shard.blocksOf (d : Shard) (n : Nat) : List (Nat × Nat) :=
  (List.range d.nsb).flatMap fun sb => (List.range 32).filterMap fun b =>
    if d.regionOf sb b = n then some (sb, b) else none

/-- Blocks of 32 elements in a precondition block. -/
def Shard.pcBlocks (d : Shard) : Nat := d.pk / 32 * d.pn

/-- Skip blocks of super-blocks that the engine has taken: they keep their state, count as skipped in the record, and in
CNT_UPD_SKIPPED where a skip of R213 to R215 is the cause, and are settled. -/
def State.skipBlocks (s : State) (p : PartId) (t : BitVec 32) (shard : Nat) (count : Bool) (bs : List (Nat × Nat)) : State :=
  let s0 := s.modUe p fun u => u.modStep t fun r => { r with skipped := satAdd 32 r.skipped bs.length }
  let s1 := if count then s0.countPart p .updSkipped bs.length else s0
  ((bs.map (·.1)).dedup).foldl (fun z sb =>
    let mine := (bs.filter fun x => x.1 == sb).map (·.2)
    (z.modUe p fun u => u.dropCoefs shard sb mine).settleBlocks p t shard sb mine.length) s1

/-- A precondition block of which some blocks are staged never becomes whole for a step: what is staged keeps its state
(R209). -/
def State.poison (s : State) (p : PartId) (t : BitVec 32) (shard : Nat) (d : Shard) (n : Nat) : State :=
  let u := (s.part p).ue
  (s.modUe p fun u => u.setStage shard n t true 0).skipBlocks p t shard true
    ((d.blocksOf n).filter fun x => u.isStaged shard x.1 x.2 t)

/-- Every precondition block that is partly staged for a step is given up: the step's further super-blocks are skipped
(R209, R214, R215). -/
def State.dropStages (s : State) (p : PartId) (t : BitVec 32) : State :=
  let u := (s.part p).ue
  u.shards.zipIdx.foldl (fun z x =>
    let mine := u.staged.filter fun e => decide (2 ^ 60 + x.2 * 2 ^ 32 ≤ e.1 ∧ e.1 < 2 ^ 60 + (x.2 + 1) * 2 ^ 32 ∧ e.2 / 2 ^ 20 = t.toNat) &&
      !e.2.testBit 19 && decide (e.2 % 2 ^ 19 < x.1.pcBlocks)
    mine.foldl (fun w e => w.poison p t x.2 x.1 (e.1 % 2 ^ 32)) z) s

/-! ### Skips (R213 to R215) -/

/-- Send a skip notice on UCGRP. -/
def State.sendSkip (s : State) (p : PartId) (t : BitVec 32) : State := s.notifyAll p 1 t [] (s.ucMembers p)

/-- Close an open step SKIPPED: its contexts are discarded and no further block of it is updated (R213). -/
def State.skipClosed (s : State) (p : PartId) (t : BitVec 32) (received : Bool) : State :=
  let u := (s.part p).ue.begin t
  let left := match u.stepOf t with
    | some r => u.left r
    | none => 0
  let s1 := s.modUe p fun _ => (u.closeAs t 3).modStep t fun r => { r with
    noticed := true, noticeReceived := if r.noticed then r.noticeReceived else received, skipped := satAdd 32 r.skipped left }
  (s1.modEng fun e => { e with ctxs := e.ctxs.filter fun x => !(x.part == p && x.step == t) }).countPart p .updSkipped left

/-- A step has closed on the engine, and its record says so. -/
def UpdEng.shut (u : UpdEng) (t : BitVec 32) : Bool := match u.stepOf t with
  | some r => !r.isOpen
  | none => false

/-- A LOSS_GUARD that branches (R213): the engine closes the step SKIPPED, logs it and sends a notice, once for the engine. A step that has
closed is closed once: where the notice of another module closed it first, only the event and the notice are left (log 48). -/
def State.lossSkip (s : State) (p : PartId) (t : BitVec 32) : State :=
  let u := (s.part p).ue
  if (match u.stepOf t with
    | some r => r.guarded || (!r.isOpen && r.status != 3)
    | none => false) then s
  else (((if u.shut t then s else s.skipClosed p t false).modUe p fun u => u.modStep t fun r => { r with guarded := true }).logEvent
    evUpdSkip 50 p.val (bytesLE 4 t.toNat)).sendSkip p t

/-- A skip notice of another module (R213, R215). -/
def State.noteSkip (s : State) (p : PartId) (t : BitVec 32) : State :=
  match ((s.part p).ue.ensure t).stepOf t with
  | none => s
  | some r =>
    if r.status = 3 ∨ r.status = 4 then s
    else if r.noticed ∧ r.isOpen then s
    else if r.updated = 0 ∧ r.isOpen then s.skipClosed p t true
    else if r.isOpen then
      (s.modUe p fun u => (u.begin t).modStep t fun r => { r with noticed := true, noticeReceived := true }).dropStages p t
    else s.modUe p fun u => { (u.modStep t fun r => { r with
        status := if r.updated = 0 ∧ r.noticed = false then 3 else 2, norm2Valid := false
        noticeReceived := r.noticeReceived || !r.noticed, noticed := true }) with
      norm2 := u.norm2.filter fun n => n.1 != t }

/-! ### The update table (R196 to R198) -/

def UpdEng.group (u : UpdEng) (g : Nat) : UpdGroup := u.groups.get UpdGroup.reset g

/-- The value of selector `k` that a block of step `t` reads. -/
def UpdGroup.value (g : UpdGroup) (t : BitVec 32) (k : Nat) : Word :=
  if g.pmask.getLsbD k && atOrAfter32 t g.pstep then g.pend.get 0#32 k
  else if k = 12 then g.flags else g.act.get 0#32 k

/-- FLAGS may be written (R197). -/
def flagsOk (compact : Bool) (v : Word) : Bool :=
  let rule := bitsOf v.toNat 0 2
  bitsOf v.toNat 2 2 != 3 && bitsOf v.toNat 5 3 == 0 && bitsOf v.toNat 16 16 == 0 && !(rule == 3 && bitsOf v.toNat 8 8 == 0) &&
    !(compact && decide (2 ≤ rule))

/-- What one value of an UPD meets (R198). -/
inductive UpdCase where
  | write (g : UpdGroup) | bad | wait
  deriving DecidableEq, Repr

/-- A step that the engine knows from an UPD or a SEED is still to come: it has no record, no later step has begun, and the engine owns a
super-block of it (log 48). -/
def UpdEng.toCome (u : UpdEng) (x : BitVec 32) : Bool :=
  (u.stepOf x).isNone && decide (0 < u.total) && !(match u.begun with
    | some b => before32 x b
    | none => false)

/-- Every step before `t` has closed: those with records, those whose contributions are being summed (`sums`), and those known from UPDs
and SEEDs (R195, R198). -/
def UpdEng.closedBefore (u : UpdEng) (sums : List (BitVec 32)) (t : BitVec 32) : Bool :=
  (u.steps.all fun r => !(before32 r.step t) || !r.isOpen) && (sums.all fun x => !(before32 x t)) &&
    (u.known ++ u.seeds.map (·.step)).all fun x => !(before32 x t) || !u.toCome x

/-- The steps of a partition whose contributions are being summed. -/
def State.sumSteps (s : State) (p : PartId) : List (BitVec 32) := (s.eng.ctxs.filter fun x => x.part == p).map (·.step)

/-- Copy the pending values into the active entry. -/
def UpdGroup.applyPending (g : UpdGroup) : UpdGroup :=
  { g with
    act := (List.range 12).foldl (fun a k => if g.pmask.getLsbD k then a.set 0#32 k (g.pend.get 0#32 k) else a) g.act
    flags := if g.pmask.getLsbD 12 then g.pend.get 0#32 12 else g.flags
    pmask := 0 }

/-- Write one pending value. -/
def UpdGroup.write (g : UpdGroup) (t : BitVec 32) (k : Nat) (v : Word) : UpdGroup :=
  { g with pend := g.pend.set 0#32 k v, pmask := g.pmask ||| BitVec.twoPow 16 k, pstep := t }

/-- The cases of R198 for a group and a step. -/
def UpdEng.updCase (u : UpdEng) (sums : List (BitVec 32)) (g : UpdGroup) (t : BitVec 32) : UpdCase :=
  if (match u.begun with
    | some b => before32 t b
    | none => false) then .bad
  else if g.pmask = 0 ∨ g.pstep = t then .write g
  else if before32 g.pstep t then (if u.closedBefore sums g.pstep then .write g.applyPending else .wait)
  else .bad

end Sys2Proof.Machine

namespace Sys2Proof

/-- The selectors and values of an UPD line, NCOEF of them (05 Table 5.24). -/
def UpdLine.coefs (l : UpdLine) : List (Nat × Word) :=
  [(l.sel0.toNat, l.val0), (l.sel1.toNat, l.val1), (l.sel2.toNat, l.val2), (l.sel3.toNat, l.val3)].take l.ncoef.toNat

/-- The groups it writes. -/
def UpdLine.groups (l : UpdLine) : List Nat := if l.all then List.range 4096 else [l.group.toNat]

end Sys2Proof

namespace Sys2Proof.Machine

/-- Decode checks of UPD (05 Table 5.24, R197). -/
def State.checkUpd (s : State) (p : PartId) (l : UpdLine) : Option Report :=
  let compact := match (s.part p).cfg with
    | some c => c.compact
    | none => false
  let n := l.ncoef.toNat
  let selBad := fun (i pos : Nat) (sel : BitVec 4) => (decide (i < n ∧ 13 ≤ sel.toNat), Report.bad stBadField pos)
  let flagBad := fun (i pos : Nat) (sel : BitVec 4) (v : Word) => (decide (i < n) && sel == 12 && !flagsOk compact v, Report.bad stBadField pos)
  firstBad [
    (decide (n = 0 ∨ 4 < n), Report.bad stBadField 45),
    selBad 0 48 l.sel0, flagBad 0 52 l.sel0 l.val0,
    selBad 1 84 l.sel1, flagBad 1 88 l.sel1 l.val1,
    selBad 2 120 l.sel2, flagBad 2 124 l.sel2 l.val2,
    selBad 3 156 l.sel3, flagBad 3 160 l.sel3 l.val3]

/-- UPD takes effect: all its values, or none while one must wait or one is refused (R112, R198). -/
def State.runUpd (s : State) (p : PartId) (l : UpdLine) : Run :=
  let u := (s.part p).ue
  let cases := l.groups.map fun g => (g, u.updCase (s.sumSteps p) (u.group g) l.step)
  if cases.any fun c => c.2 == .bad then .done (Report.bad stBadField 192) s
  else if cases.any fun c => c.2 == .wait then .blocked s
  else
    let gs := cases.foldl (fun m c => match c.2 with
      | .write g => m.set UpdGroup.reset c.1 (l.coefs.foldl (fun a v => a.write l.step v.1 v.2) g)
      | _ => m) u.groups
    .done .ok (s.modUe p fun u => { u with groups := gs, known := l.step :: (u.known.filter (· != l.step)).take 15 })

/-! ### The rule (R199 to R201) -/

/-- The coefficients a block reads when it starts. -/
structure Coefs where
  eta : Ext
  lambda : Ext
  gscale : Ext
  cthr : Ext
  am : Ext
  bm : Ext
  av : Ext
  bv : Ext
  cm : Ext
  cg : Ext
  eps : Ext
  flags : Nat
  deriving DecidableEq, Repr

def UpdGroup.coefs (g : UpdGroup) (t : BitVec 32) : Coefs :=
  let v := fun k => ofB32 (g.value t k).toNat
  ⟨v 0, v 1, v 2, v 3, v 4, v 5, v 6, v 7, v 8, v 9, v 10, (g.value t 12).toNat⟩

def Coefs.rule (c : Coefs) : Nat := bitsOf c.flags 0 2
def Coefs.cmode (c : Coefs) : Nat := bitsOf c.flags 2 2
def Coefs.frozen (c : Coefs) : Bool := c.flags.testBit 4
def Coefs.pintv (c : Coefs) : Nat := bitsOf c.flags 8 8

/-- The gradient after scaling and clipping. -/
def Coefs.grad (c : Coefs) (cf gin : Ext) : Ext :=
  let g := gin.mul c.gscale
  if c.cmode = 1 then g.mul cf
  else if c.cmode = 2 then Ext.min (Ext.max g c.cthr.neg) c.cthr
  else g

/-- f of R200 for rules 0 to 2. -/
def Coefs.dir (c : Coefs) (u v : Ext) : Ext :=
  if c.rule = 0 then u
  else if c.rule = 1 then
    (if u.isNan then .nan else if u.isZero then .zero else if u.sign then Ext.one.neg else .one)
  else u.div (v.sqrt.add c.eps)

/-- w − ETA × (d + LAMBDA × w). -/
def Coefs.weight (c : Coefs) (w d : Ext) : Ext := w.sub (c.eta.mul (d.add (c.lambda.mul w)))

/-- Stored elements of one position: W_HI, W_LO, M and V codes. -/
structure Elem where
  hi : Nat
  lo : Nat
  m : Nat
  v : Nat
  deriving DecidableEq, Repr

/-- The master value of an element. -/
def Elem.master (compact : Bool) (e : Elem) : Ext := if compact then Fmt.decode .k16 e.hi else ofB32 (e.hi * 65536 + e.lo)

/-- Split a new weight into its stored codes (R201). -/
def Elem.setW (compact : Bool) (e : Elem) (w : Ext) (r : Nat) : Elem :=
  if compact then { e with hi := (narrow .k16 .sr false r w).1 }
  else let c := toB32 w; { e with hi := c / 65536, lo := c % 65536 }

/-- The codes of an element hold a non-finite state value. -/
def Elem.nonfinite (compact vKept : Bool) (e : Elem) : Bool :=
  !(e.master compact).isFin || !(Fmt.decode .k16 e.m).isFin || (vKept && !(Fmt.decode .k16 e.v).isFin)

/-- One element under rules 0 to 2 (R199). -/
def Coefs.update (c : Coefs) (cf : Ext) (compact vKept : Bool) (gin : Ext) (e : Elem) (r : Nat) : Elem :=
  let g := c.grad cf gin
  let m := (c.am.mul (Fmt.decode .k16 e.m)).add (c.bm.mul g)
  let v := if vKept then (c.av.mul (Fmt.decode .k16 e.v)).add ((c.bv.mul g).mul g) else .zero
  let u := (c.cm.mul m).add (c.cg.mul g)
  let w := c.weight (e.master compact) (c.dir u v)
  let k := fun x => (narrow .k16 .rne false 0 x).1
  { e.setW compact w r with m := k m, v := if vKept then k v else e.v }

/-! ### State super-blocks (R190, R191) -/

/-- A state super-block as stored: stamps and elements. -/
structure StateSb where
  stamps : List Nat
  elems : List Nat
  deriving DecidableEq, Repr

def StateSb.ofBytes (b : List Byte) : StateSb := ⟨unpack 16 32 (b.take 64), unpack 16 1024 (b.drop 64)⟩
def StateSb.bytes (x : StateSb) : List Byte := pack 16 x.stamps ++ pack 16 x.elems

/-- Address of super-block `k` of a tensor. -/
def sbAddr (base : BitVec 48) (k : Nat) : Nat := base.toNat + 2112 * k

/-- V is kept: in the full-master class, where VADDR is not 0 (Table 9.3). -/
def Shard.vKept (d : Shard) (compact : Bool) : Bool := !compact && decide (d.vaddr ≠ 0)

/-- Addresses of the tensors of a shard in the write order V, M, W_LO, W_HI, those that are kept (R191). -/
def Shard.tensors (d : Shard) (compact : Bool) : List (BitVec 48) :=
  (if d.vKept compact then [d.vaddr] else []) ++ [d.maddr] ++ (if compact then [] else [d.wlo]) ++ [d.whi]

/-- Read a super-block of each tensor of a list: none where a codeword is uncorrectable. -/
def State.readSbs (s : State) (p : PartId) (k : Nat) : List (BitVec 48) → Option (List StateSb) × State
  | [] => (some [], s)
  | t :: ts => match s.readHbm p (sbAddr t k) 2112 with
    | (none, s1) => (none, s1)
    | (some b, s1) => match s1.readSbs p k ts with
      | (none, s2) => (none, s2)
      | (some xs, s2) => (some (StateSb.ofBytes b :: xs), s2)

/-- Write a super-block of each tensor of a list, in order; every codeword is whole. -/
def State.writeSbs (s : State) (p : PartId) (k : Nat) : List (BitVec 48 × StateSb) → State
  | [] => s
  | (t, x) :: ts => State.writeSbs (s.writeHbm p (sbAddr t k) x.bytes).2 p k ts

/-- The tensors can be reached with R and W (11 Table 11.6). -/
def State.sbReach (s : State) (p : PartId) (k : Nat) (ts : List (BitVec 48)) : Bool :=
  ts.all fun t => ((s.part p).checkRange (sbAddr t k) 2112 .r).isNone && ((s.part p).checkRange (sbAddr t k) 2112 .w).isNone

/-! ### cf (R204) -/

/-- The NORM2 of the latest step before `t` that has one. -/
def UpdEng.normBefore (u : UpdEng) (t : BitVec 32) : Option Ext :=
  ((u.norm2.filter fun n => before32 n.1 t).foldl (fun a n => match a with
    | some b => if before32 b.1 n.1 then some n else some b
    | none => some n) none).map (·.2)

/-- What R204 gives: wait, or the factor. A step before without a record is waited for while contributions of it are here; one
that a loss has aborted never closes everywhere, until a restore takes its record away. -/
def State.clipFactor (s : State) (p : PartId) (t : BitVec 32) (c : Coefs) : Option Ext :=
  let u := (s.part p).ue
  let waits := match u.stepOf (t - 1) with
    | some r => r.isOpen || r.status == 4 || (r.status == 1 && !r.norm2Valid)
    | none => s.eng.ctxs.any fun y => y.part == p && y.step == t - 1
  if c.cmode ≠ 1 then some .one
  else if waits then none
  else match u.normBefore t with
    | none => some .one
    | some x => if x.isZero then some .one else some (Ext.min .one (c.cthr.div x.sqrt))

/-! ### A super-block completes (R195, R199 to R205, R214) -/

/-- Elements of block `b` of the stored tensors, V zero where it is not kept. -/
def elemAt (vKept compact : Bool) (xs : List StateSb) (i : Nat) : Elem :=
  let at_ := fun (n : Nat) => ((xs.getD n ⟨[], []⟩).elems).getD i 0
  let v := if vKept then 1 else 0
  if compact then ⟨at_ (v + 1), 0, at_ v, if vKept then at_ 0 else 0⟩
  else ⟨at_ (v + 2), at_ (v + 1), at_ v, if vKept then at_ 0 else 0⟩

/-- The element's codes in the order of the stored tensors. -/
def Elem.codes (vKept compact : Bool) (e : Elem) : List Nat :=
  (if vKept then [e.v] else []) ++ [e.m] ++ (if compact then [] else [e.lo]) ++ [e.hi]

/-- The SR draw of an element of the compact class (R201); free with no SEED of the step on the lowest core (log 1). -/
def State.updRnd (s : State) (p : PartId) (t : BitVec 32) (shard idx : Nat) : Nat :=
  match (s.part p).ue.seeds.find? fun k => k.step == t with
  | some k => tumbler k.key t.toNat .update shard idx
  | none => Config.freeValue (s.free + idx) % 65536

/-- Squares of a list of values in the norm accumulator (R203). -/
def addNorm (nofs : Int) (e : AccEntry) (gs : List Ext) : AccEntry :=
  gs.foldl (fun a g => (a.update true (place nofs true (g.mul g)).1).1) e

/-- Result of the blocks of a super-block: new tensors, blocks updated, and elements whose state became non-finite. -/
structure Blocks where
  xs : List StateSb
  updated : Nat
  nf : Nat

/-- Put new element codes and the stamp of block `b` into the tensors. -/
def putBlock (xs : List StateSb) (b : Nat) (stamp : Nat) (codes : List (List Nat)) : List StateSb :=
  xs.zipIdx.map fun x =>
    ⟨x.1.stamps.set b stamp, x.1.elems.take (32 * b) ++ codes.map (fun c => c.getD x.2 0) ++ x.1.elems.drop (32 * b + 32)⟩

/-- Blocks 0 to `n` - 1 of a super-block, updated (R199). -/
def updateBlocks (c : Coefs) (cf : Ext) (compact vKept : Bool) (stamp : Nat) (gin : Nat → Ext) (rnd : Nat → Nat) (xs : List StateSb) (n : Nat) : Blocks :=
  (List.range n).foldl (fun a b =>
    let es := (List.range 32).map fun k => c.update cf compact vKept (gin (32 * b + k)) (elemAt vKept compact xs (32 * b + k)) (rnd (32 * b + k))
    ⟨putBlock a.xs b stamp (es.map (Elem.codes vKept compact)), a.updated + 1,
     a.nf + (es.filter (Elem.nonfinite compact vKept)).length⟩) ⟨xs, 0, 0⟩

/-- The first element that is not finite. -/
def firstBadElem (gin : Nat → Ext) : Option Nat := (List.range 1024).find? fun i => !(gin i).isFin

/-- A super-block of a step is skipped: recorded unchanged (R205, R214). -/
def State.skipSb (s : State) (p : PartId) (t : BitVec 32) (shard sb : Nat) (count : Bool) : State :=
  let s1 := s.modUe p fun u => u.modStep t fun r => { r with skipped := satAdd 32 r.skipped 32 }
  (if count then s1.countPart p .updSkipped 32 else s1).recordSb p t shard sb

/-- The first non-finite block of a step (R214): PARTIAL, logged with its place and the module of origin (R218; the step has no room
in ARG, log 48), and noticed. -/
def State.firstNonfinite (s : State) (p : PartId) (t : BitVec 32) (shard sb i : Nat) : State :=
  let s1 := s.modUe p fun u => u.modStep t fun r => { r with
    noticed := true, nfShard := BitVec.ofNat 16 shard, nfBlock := BitVec.ofNat 16 (i / 32 + i % 32 * 32), nfSb := BitVec.ofNat 32 sb }
  ((s1.logEvent evUpdPartial 50 p.val
    (bytesLE 2 shard ++ bytesLE 4 sb ++ bytesLE 1 (i / 32) ++ bytesLE 1 (i % 32) ++ bytesLE 2 s1.moduleId.toNat)).sendSkip p t).dropStages p t

/-! ### Rule 3 (R206, R208, R209) -/

/-- Base address of a precondition region, and its bytes. -/
def Shard.region (d : Shard) (n : Nat) : Nat := d.paddr.toNat + 0x200000 * n
def regionBytes : Nat := 0x200000

/-- The coefficients kept for phase 2 of a block, over those of the table. -/
def UpdEng.coefsOf (u : UpdEng) (shard sb b : Nat) (c : Coefs) : Coefs :=
  let w := u.staged.get 0 (coefKey shard sb b)
  if w = 0 then c else { c with eta := ofB32 (bitsOf w 32 32), lambda := ofB32 (bitsOf w 0 32) }

/-- One element staged: address and bytes of g, u and the new moment. -/
def Coefs.stageElem (c : Coefs) (d : Shard) (cf gin : Ext) (m : Nat) (e : Nat) : List (Nat × List Byte) :=
  let pl := d.place e
  let g := c.grad cf gin
  let mm := (c.am.mul (Fmt.decode .k16 m)).add (c.bm.mul g)
  let u := (c.cm.mul mm).add (c.cg.mul g)
  let base := d.region pl.region
  [(base + 0x1000 + 1024 * pl.a + 4 * pl.c, bytesLE 4 (toB32 g)),
   (base + 0x41000 + 1024 * pl.a + 4 * pl.c, bytesLE 4 (toB32 u)),
   (base + 0xC1000 + 512 * pl.a + 2 * pl.c, bytesLE 2 (narrow .k16 .rne false 0 mm).1)]

/-- Write several runs of a partition's HBM; false where one did not land. -/
def State.writeAll (s : State) (p : PartId) : List (Nat × List Byte) → Bool × State
  | [] => (true, s)
  | r :: rs =>
    let w := s.writeHbm p r.1 r.2
    let t := w.2.writeAll p rs
    (w.1 && t.1, t.2)

/-- Every block of a precondition block has been staged: the header is set and a job goes to PQ (R206). False where a read or a
write did not land. -/
def State.postJob (s : State) (p : PartId) (t : BitVec 32) (shard : Nat) (d : Shard) (n : Nat) (pintv : Nat) : Bool × State :=
  let base := d.region n
  match s.readHbm p base 64 with
  | (none, s1) => (false, s1)
  | (some hdr, s1) =>
    let due := t.toNat % pintv == 0 || fieldLE hdr 0x0A 1 % 4 != 3
    let w := s1.writeHbm p base (patch (patch hdr 0 (bytesLE 4 t.toNat)) 4 [1#8, if due then 1#8 else 0#8])
    match (w.2.part p).ue.cfg with
    | some c =>
      let r := w.2.postRecord c.pq fun _ _ => bytesLE 4 shard ++ bytesLE 4 n ++ bytesLE 4 t.toNat ++ bytesLE 4 (if due then 1 else 0)
      (w.1 && r.2.1, r.2.2)
    | none => w

/-- Stage block `b` of a super-block (R206). -/
def State.stageBlock (s : State) (p : PartId) (t : BitVec 32) (shard sb : Nat) (d : Shard) (c : Coefs) (cf : Ext) (gin : Nat → Ext) (ms : List Nat) (b : Nat) : Bool × State :=
  let e0 := d.first.toNat + 1024 * sb + 32 * b
  let n := (d.place e0).region
  let st := (s.part p).ue.stageOf shard n t
  let w := s.writeAll p ((List.range 32).flatMap fun k => c.stageElem d cf (gin (32 * b + k)) (ms.getD (32 * b + k) 0) (e0 + k))
  let s1 := w.2.modUe p fun u => (u.setStage shard n t st.1 (st.2 + 1)).keepCoefs shard sb b t (toB32 c.eta) (toB32 c.lambda)
  if w.1 ∧ st.1 = false ∧ st.2 + 1 = d.pcBlocks then s1.postJob p t shard d n c.pintv else (w.1, s1)

/-- Stage the blocks of a list in turn. -/
def State.stageBlocks (s : State) (p : PartId) (t : BitVec 32) (shard sb : Nat) (d : Shard) (c : Coefs) (cf : Ext) (gin : Nat → Ext) (ms : List Nat) : List Nat → Bool × State
  | [] => (true, s)
  | b :: bs => match s.stageBlock p t shard sb d c cf gin ms b with
    | (true, s1) => State.stageBlocks s1 p t shard sb d c cf gin ms bs
    | (false, s1) => (false, s1)

/-- Precondition blocks that a super-block makes whole. -/
def Shard.ripe (d : Shard) (u : UpdEng) (t : BitVec 32) (shard sb : Nat) : List Nat :=
  let ns := (List.range 32).map (d.regionOf sb)
  ns.dedup.filter fun n => !(u.stageOf shard n t).1 && decide (d.pcBlocks ≤ (u.stageOf shard n t).2 + ns.count n)

/-- PQ is cached and has room for the jobs that a super-block brings (10 R221, R228). -/
def State.pqRoom (s : State) (p : PartId) (jobs : Nat) : Bool := match (s.part p).ue.cfg with
  | some c => (match s.queue c.pq with
    | some q => jobs == 0 || (s.cached c.pq && q.en && decide (q.ppos + jobs ≤ q.dpos + q.limit))
    | none => true)
  | none => true

/-- The precondition regions that a super-block touches can be reached with R and W (11 Table 11.6). -/
def State.regionReach (s : State) (p : PartId) (d : Shard) (sb : Nat) : Bool :=
  ((List.range 32).map (d.regionOf sb)).dedup.all fun n =>
    ((s.part p).checkRange (d.region n) regionBytes .r).isNone && ((s.part p).checkRange (d.region n) regionBytes .w).isNone

/-- Phase 1 of a super-block of a rule-3 group. -/
def State.phase1 (s : State) (p : PartId) (t : BitVec 32) (shard sb : Nat) (d : Shard) (c : Coefs) (cf : Ext) (gin : Nat → Ext) (ms : List Nat) : State :=
  let bad := firstBadElem gin
  let n := match bad with
    | some i => i / 32
    | none => 32
  match s.stageBlocks p t shard sb d c cf gin ms (List.range n) with
  | (false, s1) => s1.partFault p 5 none
  | (true, s1) =>
    let gs := if c.cmode = 1 then (List.range (32 * n)).map fun i => (gin i).mul c.gscale else []
    let s2 := s1.modUe p fun u => u.modStep t fun r => { r with norm := addNorm u.nofs r.norm gs }
    match bad with
    | none => s2
    | some i => (s2.firstNonfinite p t shard sb i).skipBlocks p t shard true ((List.range (32 - n)).map fun k => (sb, n + k))

/-- The update engine takes a complete super-block. -/
def State.takeSb (s : State) (x : RCtx) (d : Shard) : State :=
  let p := x.part
  let t := x.step
  let compact := match (s.part p).cfg with
    | some c => c.compact
    | none => false
  let gin := fun i => ((x.entries.get AccEntry.zero i).exact x.rofs.toInt).rto
  let c := ((s.part p).ue.group d.group.toNat).coefs t
  let release := fun (z : State) => z.modEng fun e => { e with ctxs := e.ctxs.filter fun y => y != x }
  let begun := fun (z : State) => z.modUe p fun u => u.begin t
  let noticed := match (s.part p).ue.stepOf t with
    | some r => r.noticed
    | none => false
  let ts := d.tensors compact
  if c.frozen then
    (((begun (release s)).modUe p fun u => u.modStep t fun r => { r with dropped := satAdd 32 r.dropped 32 }).countPart p .updFrozen 32).recordSb p t x.shard x.sb
  else if noticed then (begun (release s)).skipSb p t x.shard x.sb true
  else if (c.rule = 2 ∧ d.vaddr = 0) ∨ (c.rule = 3 ∧ (d.paddr = 0 ∨ s.regionReach p d x.sb = false)) ∨ s.sbReach p x.sb ts = false then
    ((begun (release s)).logEvent evUpdConfig 50 p.val (bytesLE 4 t.toNat ++ bytesLE 2 x.shard ++ bytesLE 4 x.sb)).skipSb p t x.shard x.sb false
  else match s.clipFactor p t c with
    | none => s
    | some cf =>
      if c.rule = 3 ∧ s.pqRoom p (d.ripe (s.part p).ue t x.shard x.sb).length = false then s
      else match (begun (release s)).readSbs p x.sb ts with
        | (none, s1) => s1.partFault p 5 none
        | (some xs, s1) =>
          let vKept := d.vKept compact
          if c.rule = 3 then s1.phase1 p t x.shard x.sb d c cf gin ((xs.getD (if vKept then 1 else 0) ⟨[], []⟩).elems)
          else
            let bad := firstBadElem gin
            let n := match bad with
              | some i => i / 32
              | none => 32
            let rnd := fun i => if compact then s.updRnd p t x.shard (1024 * x.sb + i) else 0
            let r := updateBlocks c cf compact vKept (t.toNat % 65536) gin rnd xs n
            let gs := if c.cmode = 1 then (List.range (32 * n)).map fun i => (gin i).mul c.gscale else []
            let s2 := s1.writeSbs p x.sb (ts.zip r.xs)
            let s3 := s2.modUe p fun u => u.modStep t fun q => { q with
              updated := satAdd 32 q.updated n, skipped := satAdd 32 q.skipped (32 - n), norm := addNorm u.nofs q.norm gs }
            let s4 := ((s3.countPart p .updBlocks n).countPart p .updSkipped (32 - n)).countPart p .updStateNf r.nf
            let s5 := match bad with
              | some i => s4.firstNonfinite p t x.shard x.sb i
              | none => s4
            let s6 := if compact && ((s.part p).ue.seeds.find? fun k => k.step == t).isNone then { s5 with free := s5.free + 2 ^ 35 } else s5
            s6.recordSb p t x.shard x.sb

/-- A complete super-block waits for the step before its own to close everywhere (R204); it holds back no other, or that step
could never close. -/
def State.waitsNorm (s : State) (y : RCtx) : Bool := match (s.part y.part).ue.shards[y.shard]? with
  | none => false
  | some d =>
    let u := (s.part y.part).ue
    let c := (u.group d.group.toNat).coefs y.step
    let noticed := match u.stepOf y.step with
      | some r => r.noticed
      | none => false
    !c.frozen && !noticed && (s.clipFactor y.part y.step c).isNone

/-- A CHECKPOINT has copied nothing yet: it waits for its step, or for the headers at its buddy. -/
def MbReq.copyDue (q : MbReq) : Bool := q.cmd == 0x020B && (match q.copy with
  | .closing | .probe .. => true
  | _ => false)

/-- A CHECKPOINT of an earlier step has copied nothing yet: an update of the step `t` waits (13 R319). -/
def State.copyHolds (s : State) (p : PartId) (t : BitVec 32) : Bool := allMbs.any fun m => match (s.mb m).busy with
  | some q => q.part == p && q.copyDue && before32 (BitVec.ofNat 32 (fieldLE q.payload 0 4)) t
  | none => false

/-- A complete super-block waits, for NORM2 or for a checkpoint copy. -/
def State.sbHeld (s : State) (y : RCtx) : Bool := s.waitsNorm y || s.copyHolds y.part y.step

/-- A step has closed ABORTED: no super-block of it begins (17 R397). -/
def State.aborted (s : State) (p : PartId) (t : BitVec 32) : Bool := match (s.part p).ue.stepOf t with
  | some r => r.status == 4
  | none => false

/-- SUPERBLOCK_COMPLETE: the engine of a partition takes complete super-blocks in the order in which they completed, passing
over those that wait for NORM2 or for a checkpoint copy. -/
def State.completeSb (s : State) (n : Nat) : State :=
  match s.eng.ctxs[n]? with
  | none => s
  | some x => match (s.part x.part).ue.shards[x.shard]? with
    | none => s
    | some d =>
      if !s.faulted x.part && !s.aborted x.part x.step && s.ctxComplete x && !s.copyHolds x.part x.step &&
          !((s.eng.ctxs.take n).any fun y => y.part == x.part && s.ctxComplete y && !s.sbHeld y) then s.takeSb x d
      else s

/-! ### Phase 2 (R208) -/

/-- One block of a precondition block in phase 2, with D and MN of its 32 elements. V is not computed under this rule (R199,
R201). -/
def phase2Block (c : Coefs) (compact vKept : Bool) (ds ms : List Nat) (stamp b : Nat) (rnd : Nat → Nat) (xs : List StateSb) : List StateSb × Nat :=
  let es := (List.range 32).map fun k =>
    let e := elemAt vKept compact xs (32 * b + k)
    { e.setW compact (c.weight (e.master compact) (ofB32 (ds.getD k 0))) (rnd (32 * b + k)) with m := ms.getD k 0 }
  (xs.zipIdx.map fun x =>
      let out := es.map fun e => (e.codes vKept compact).getD x.2 0
      let stamped := !(vKept && x.2 == 0)
      ⟨if stamped then x.1.stamps.set b stamp else x.1.stamps, x.1.elems.take (32 * b) ++ out ++ x.1.elems.drop (32 * b + 32)⟩,
   (es.filter (Elem.nonfinite compact false)).length)

/-- Read fields of a partition's HBM, each `k` bytes at an address of a list: none where a codeword is uncorrectable. -/
def State.readFields (s : State) (p : PartId) (k : Nat) : List Nat → Option (List Nat) × State
  | [] => (some [], s)
  | a :: as => match s.readHbm p a k with
    | (none, s1) => (none, s1)
    | (some b, s1) => match s1.readFields p k as with
      | (some r, s2) => (some (natLE b :: r), s2)
      | (none, s2) => (none, s2)

/-- Where D and MN of the elements of a block lie. -/
def Shard.dAddrs (d : Shard) (n sb b : Nat) : List Nat := (List.range 32).map fun k =>
  let z := d.place (d.first.toNat + 1024 * sb + 32 * b + k)
  d.region n + 0x81000 + 1024 * z.a + 4 * z.c
def Shard.mAddrs (d : Shard) (n sb b : Nat) : List Nat := (List.range 32).map fun k =>
  let z := d.place (d.first.toNat + 1024 * sb + 32 * b + k)
  d.region n + 0xC1000 + 512 * z.a + 2 * z.c

/-- The blocks of a super-block in turn: the new tensors and how many elements became non-finite. -/
def State.phase2Blocks (s : State) (p : PartId) (t : BitVec 32) (shard : Nat) (d : Shard) (n : Nat) (c : Coefs) (compact : Bool) (sb : Nat) :
    List Nat → List StateSb × Nat → Option (List StateSb × Nat) × State
  | [], r => (some r, s)
  | b :: bs, r => match s.readFields p 4 (d.dAddrs n sb b) with
    | (none, s1) => (none, s1)
    | (some ds, s1) => match s1.readFields p 2 (d.mAddrs n sb b) with
      | (none, s2) => (none, s2)
      | (some ms, s2) =>
        let z := phase2Block ((s.part p).ue.coefsOf shard sb b c) compact (d.vKept compact) ds ms (t.toNat % 65536) b
          (fun i => s.updRnd p t shard (1024 * sb + i)) r.1
        State.phase2Blocks s2 p t shard d n c compact sb bs (z.1, r.2 + z.2)

/-- The blocks of one super-block that belong to the precondition block. -/
def State.phase2Sb (s : State) (p : PartId) (t : BitVec 32) (shard : Nat) (d : Shard) (n : Nat) (c : Coefs) (sb : Nat) (bs : List Nat) : Bool × State :=
  let compact := match (s.part p).cfg with
    | some c => c.compact
    | none => false
  let ts := d.tensors compact
  match s.readSbs p sb ts with
  | (none, s1) => (false, s1)
  | (some xs, s1) => match s1.phase2Blocks p t shard d n c compact sb bs (xs, 0) with
    | (none, s2) => (false, s2)
    | (some r, s2) =>
      let s3 := s2.writeSbs p sb ((ts.zip r.1).drop (if d.vKept compact then 1 else 0))
      let s4 := s3.modUe p fun u => (u.dropCoefs shard sb bs).modStep t fun q => { q with updated := satAdd 32 q.updated bs.length }
      (true, ((s4.countPart p .updBlocks bs.length).countPart p .updStateNf r.2).settleBlocks p t shard sb bs.length)

/-- The super-blocks of a list in turn. -/
def State.phase2Sbs (s : State) (p : PartId) (t : BitVec 32) (shard : Nat) (d : Shard) (n : Nat) (c : Coefs) (all : List (Nat × Nat)) : List Nat → Bool × State
  | [] => (true, s)
  | sb :: sbs => match s.phase2Sb p t shard d n c sb ((all.filter fun x => x.1 == sb).map (·.2)) with
    | (true, s1) => State.phase2Sbs s1 p t shard d n c all sbs
    | (false, s1) => (false, s1)

/-- A job that has come back: its precondition block is written, when its header says so. A step that has closed SKIPPED or ABORTED
changes no state (R213, 13 R318); pages that cannot be reached skip the blocks, as in phase 1. -/
def State.applyJob (s : State) (p : PartId) (shard n : Nat) (t : BitVec 32) (d : Shard) : State :=
  let all := d.blocksOf n
  let sbs := (all.map (·.1)).dedup
  let ts := d.tensors (match (s.part p).cfg with
    | some c => c.compact
    | none => false)
  let dead := match (s.part p).ue.stepOf t with
    | some r => r.status == 3 || r.status == 4
    | none => false
  if dead then s
  else if ((s.part p).checkRange (d.region n) regionBytes .r).isSome || ((s.part p).checkRange (d.region n) regionBytes .w).isSome ||
      !(sbs.all fun sb => s.sbReach p sb ts) then
    (s.logEvent evUpdConfig 50 p.val (bytesLE 4 t.toNat ++ bytesLE 2 shard ++ bytesLE 4 n)).skipBlocks p t shard false all
  else match s.readHbm p (d.region n) 64 with
    | (none, s1) => s1.partFault p 5 none
    | (some hdr, s1) =>
      if fieldLE hdr 4 1 ≠ 2 ∨ fieldLE hdr 0 4 ≠ t.toNat then s1
      else match s1.phase2Sbs p t shard d n (((s.part p).ue.group d.group.toNat).coefs t) all sbs with
        | (false, s2) => s2.partFault p 5 none
        | (true, s2) =>
          let w := s2.writeHbm p (d.region n) (patch hdr 4 [3#8])
          let s3 := if w.1 then w.2 else w.2.partFault p 5 none
          let lout := fieldLE hdr 6 1
          let rout := fieldLE hdr 7 1
          if (1 ≤ lout ∧ lout ≤ 3) ∨ (1 ≤ rout ∧ rout ≤ 3) then
            (s3.logEvent evPrecondFallback 50 p.val (bytesLE 2 shard ++ bytesLE 4 n ++ bytesLE 1 lout ++ bytesLE 1 rout)).countPart p .precondFallback 1
          else s3

/-- The AQ of a partition with its oldest record: it is cached, and its ring can be read (10 R221, 11 R250). -/
def State.jobRecord (s : State) (p : PartId) : Option (Qid × Queue × Item) := match (s.part p).ue.cfg with
  | none => none
  | some u => match s.queue u.aq with
    | none => none
    | some q => match q.pendingItem with
      | none => none
      | some i =>
        if s.cached u.aq && (q.memCs || ((s.part p).checkRange (q.base.toNat + q.recOff i.n) 16 .r).isNone) then some (u.aq, q, i) else none

/-- The job at the head of AQ belongs to a step whose update a checkpoint copy holds up (13 R319). -/
def State.jobHeld (s : State) (p : PartId) : Bool := match s.jobRecord p with
  | some (_, q, i) => s.copyHolds p (BitVec.ofNat 32 (fieldLE (s.readQueue q none (q.recOff i.n) 16) 8 4))
  | none => false

/-- PRECOND_PHASE2: the oldest record of AQ is taken; a faulted partition's engine issues no further burst (R212), and a job of a step
after a checkpoint whose copy has not run waits for it (13 R319). -/
def State.precondPhase2 (s : State) (p : PartId) : State :=
  if s.faulted p || s.jobHeld p then s
  else match s.jobRecord p with
  | none => s
  | some (aq, q, i) => match q.waitItem with
      | some dl => match s.takeQueue q none (q.recOff i.n) 16 with
        | (none, s1) => s1.partFault p (if q.memCs then 1 else 5) none
        | (some b, s1) =>
          let s2 := s1.setQueue aq dl.q
          match (s2.part p).ue.shards[fieldLE b 0 2]? with
          | none => s2
          | some d => s2.applyJob p (fieldLE b 0 2) (fieldLE b 4 4) (BitVec.ofNat 32 (fieldLE b 8 4)) d
      | none => s

end Sys2Proof.Machine
end

