-- ==== Sys2Proof/Machine/Progress.lean ====
section
/-! DEFINITION. The escapement (05 R94 to R119): decode with its checks, the commands that act at decode, starting what its
unit may start, retirement, deadlines, and what waits anywhere in the block and goes on when something has happened. -/

namespace Sys2Proof.Machine

/-! ### Checks at decode -/

/-- The branch kinds that go to TARGET. -/
def kindJumps (k : BitVec 3) : Bool := k == 0 || k == 1 || k == 3 || k == 5

/-- Decode checks of every line of a partition's stream (R97, R98); an undefined opcode is R96's. -/
def State.checkLine (s : State) (c : CoreId) (p : PartId) : Line → Option Report
  | .ldw l => s.checkLdw c l
  | .mma l => s.checkMma c false l
  | .dist l => s.checkMma c true l
  | .red l => s.checkRed l
  | .epi l => s.checkEpi c l
  | .vec l => s.checkVec l
  | .xpose l => s.checkXpose l
  | .route l => s.checkRoute p l
  | .send l => s.checkSend c p l
  | .recv l => s.checkRecv c p l
  | .stash l => s.checkStash p false l
  | .unstash l => s.checkStash p true l
  | .fence l => firstBad [(l.cmask == 0, Report.bad stBadField 32), (l.scope == 3, Report.bad stBadField 40)]
  | .waitq l => match s.queue l.qid with
    | some q => if q.part ≠ p ∨ (q.isPf && !q.cmask.getLsbD c.val) = true then some (Report.bad stAccess l.qid.toNat) else none
    | none => some (Report.bad stAccess l.qid.toNat)
  | .mark l => firstBad [
      (l.phase == 3, Report.bad stBadField 48),
      (l.pdn != 0 && decide (l.pdl.toNat % 32 ≠ 0), Report.badHbm stBadAddress l.pdl.toNat)]
  | .deadline l => firstBad [
      (l.mode == 3, Report.bad stBadField 32),
      (l.mode == 1 && decide (2 ^ 32 ≤ l.dl.toNat), Report.bad stBadField 66),
      (!s.isRt p, Report.bad stNotRealtime 0)]
  | .seed _ => none
  | .upd l => s.checkUpd p l
  | .branch l => orElseReport
      (firstBad [(l.kind == 7, Report.bad stBadField 32)])
      (orElseReport (if kindJumps l.kind then s.checkVa p l.target.toNat 32 .x else none)
        (if l.kind = 5 then spansBad [Span.lines false l.laddr.toNat 1] else none))
  | .bad .. => some (Report.bad stBadOpcode 0)

/-! ### What a unit does when it starts a command -/

/-- Start a command of a unit queue (R114). -/
def State.runLine (s : State) (c : CoreId) (p : PartId) (x : InFlight) : Run := match x.line with
  | .ldw l => s.runLdw c l
  | .mma l => s.runMma c false l
  | .dist l => s.runMma c true l
  | .red l => s.runRed c l
  | .epi l => s.runEpi c x l
  | .vec l => s.runVec c x l
  | .xpose l => s.runXpose c l
  | .route l => s.runRoute c x l
  | .send l => s.runSend c p x l
  | .recv l => s.runRecv c p x l
  | .stash l => s.runStash c p x l
  | .unstash l => s.runUnstash c p x l
  | .upd l => s.runUpd p l
  | .fence _ | .waitq _ | .mark _ | .deadline _ | .seed _ | .branch _ | .bad .. => .done .ok s

/-- Take the outcome of a start into the state. -/
def Run.apply (r : Run) (c : CoreId) (tok : Nat) : State := match r with
  | .done rep s => s.complete c tok rep
  | .lone rep s =>
    let s1 := s.finishSlot c tok rep
    match statusCause rep.status, (s1.core c).part with
    | some k, some p => s1.partFault p k (some c)
    | _, _ => s1
  | .started s => s.startSlot c tok
  | .blocked s => s
  | .gone s => s

/-- The deadline has passed under the skip policy of a real-time partition (10 R235). -/
def State.skips (s : State) (p : PartId) (x : InFlight) : Bool := s.isRt p && x.missed s.now && !s.latePolicy p x

/-- The queue, by number and modules, whose credit a SEND needs: a point-to-point SEND that of one module, a broadcast that of every
member of its group, which `mem` gives. -/
def sendTarget (mem : BitVec 16 → List (BitVec 14)) : Line → Option (List (BitVec 14) × Qid)
  | .send l => if l.coll = 0 then some ([l.dmod], l.dq) else if l.coll = 4 then some (mem l.cgrp, l.dq) else none
  | _ => none

/-- Two SENDs are addressed to one queue. -/
def sameQueue (mem : BitVec 16 → List (BitVec 14)) (y x : Line) : Bool := match sendTarget mem y, sendTarget mem x with
  | some a, some b => a.2 == b.2 && a.1.any fun m => b.1.contains m
  | _, _ => false

/-- An earlier command holds back the unit queues of a later one. A SEND that waits for credit alone holds back only the SENDs addressed
to its queue (10 R240). -/
def holdsBack (mem : BitVec 16 → List (BitVec 14)) (creditOnly : Bool) (y x : InFlight) : Bool :=
  y.stage == .waiting && ((unitsOf y.line).any fun u => (unitsOf x.line).contains u) &&
    !(creditOnly && (sendTarget mem y.line).isSome && !sameQueue mem y.line x.line)

/-- A waiting command is at the head of each of its unit queues, and no earlier command in flight conflicts with it (R114,
R115). `seen` are the earlier commands already looked at, each with the answer whether it waits for credit alone: nothing holds
it, or only SENDs to its own queue that do so too. -/
def headFreeFrom (mem : BitVec 16 → List (BitVec 14)) (seen : List (InFlight × Bool)) : List InFlight → InFlight → Bool
  | [], x => seen.all fun y => !holdsBack mem y.2 y.1 x && !(footOf y.1.line).conflicts (footOf x.line)
  | y :: ys, x =>
    let free := seen.all fun z => (!holdsBack mem z.2 z.1 y || (z.2 && sameQueue mem z.1.line y.line)) &&
      !(footOf z.1.line).conflicts (footOf y.line)
    headFreeFrom mem (seen ++ [(y, free)]) ys x

/-- The members of a group. -/
def State.membersOf (s : State) (g : BitVec 16) : List (BitVec 14) := match s.cgroup g with
  | some d => d.members
  | none => []

def State.headFree (s : State) (before : List InFlight) (x : InFlight) : Bool := headFreeFrom s.membersOf [] before x

/-! ### Shared points of a command (01 R16) -/

/-- The shared points that a command passes, each with what it can move in a window; the router's are its rounds'. -/
def pointsOf : Line → List (Nat × Nat)
  | .send l => [(pointColl, collCap), (pointMesh, hbmCap)] ++ (if l.smem then [(pointHbm, hbmCap)] else [])
  | .recv l => [(pointColl, collCap), (pointMesh, hbmCap)] ++ (if l.dmem then [(pointHbm, hbmCap)] else [])
  | .stash _ | .unstash _ => [(pointMesh, hbmCap), (pointHbm, hbmCap)]
  | .route _ => [(pointRouter, routerCap), (pointMesh, hbmCap)]
  | _ => []

/-- The bytes that a transfer moves; a ROUTE counts its own when it dispatches or combines. -/
def bytesOf : Line → Nat
  | .send l => l.count
  | .recv l => l.count
  | .stash l | .unstash l => l.len.toNat
  | _ => 0

/-- A command that has started counts against its partition's shares at the points it passes. -/
def State.charge (s : State) (p : PartId) (l : Line) : State :=
  if bytesOf l = 0 then s else (pointsOf l).foldl (fun t x => t.useShare x.1 p (bytesOf l)) s

/-- A RUN started an RFN 0 with REUSE that waits for the router or a return slot: it has joined no round (07 R140, 13 R307). -/
def State.reuseWaits (s : State) (c : CoreId) (x : InFlight) : Bool := match x.line with
  | .route l => x.stage == .started && l.rfn == 0 && !s.eng.rounds.any fun r => r.members.any fun m => m.core == c && m.token == x.token
  | _ => false

/-- A command has run, or waits on. -/
def State.ran (s : State) (c : CoreId) (p : PartId) (x : InFlight) : Run → State
  | .blocked s1 => s1
  | r => (r.apply c x.token).charge p x.line

/-- Try to start one command of a core, or let a started REUSE that waits go on. -/
def State.tryStart (s : State) (c : CoreId) (p : PartId) (tok : Nat) : State :=
  match (s.core c).slot tok with
  | none => s
  | some x =>
    if s.reuseWaits c x then (s.runLine c p x).apply c tok
    else if x.stage ≠ .waiting then s
    else if s.skips p x then s.complete c tok (Report.bad stDeadlineMissed 0)
    else if s.headFree ((s.core c).ctl.slots.takeWhile fun y => y.token != tok) x then s.ran c p x (s.runLine c p x)
    else s

/-- Try the commands of a list of tokens in decode order. -/
def State.tryStarts (s : State) (c : CoreId) (p : PartId) : List Nat → State
  | [] => s
  | t :: ts => State.tryStarts (s.tryStart c p t) c p ts

/-! ### Commands that hold decode (R108 to R110, R113, 10 R224, R230, R236) -/

/-- The FENCE class of a line (Table 5.19). -/
def fenceClass : Line → Option Nat
  | .ldw _ | .mma _ | .dist _ | .epi _ => some 0
  | .vec _ | .red _ => some 1
  | .xpose _ => some 2
  | .route _ => some 3
  | .send _ | .recv _ => some 4
  | .stash _ | .unstash _ => some 5
  | .upd _ => some 6
  | _ => none

/-- An earlier command of a class of CMASK has not completed. -/
def fenceWaits (mask : BitVec 7) (slots : List InFlight) : Bool :=
  slots.any fun y => !y.stage.isDone && (match fenceClass y.line with
    | some k => mask.getLsbD k
    | none => false)

/-- What a held command comes to: still held, finished, or handed to its unit. -/
inductive Held where
  | waits (s : State) | finished (r : Report) (s : State) | dispatched (s : State)

/-- The item at a position, as it is now: one already released is what the core has kept of it, or holds nothing (log 51). -/
def State.itemAt (s : State) (c : CoreId) (qid : Qid) (n : Nat) : Item :=
  let kept := match (s.core c).ctl.item with
    | some (q, i) => if q = qid ∧ i.n = n then i else Item.fresh n
    | none => Item.fresh n
  match s.queue qid with
  | some q => (q.item n).getD kept
  | none => kept

/-- A WAITQ is satisfied: the timestamp is latched and the item kept, with its return table (R109, 10 R224, 13 R307). -/
def State.satisfy (s : State) (c : CoreId) (qid : Qid) (d : Delivery) (n : Option Nat) : State :=
  (s.setQueue qid d.q).modCtl c fun t => { t with latch := d.ts, item := n.map fun n => (qid, s.itemAt c qid n) }

/-- COND 0 after its deadline under skip (10 R236): DSEQ goes to SEQ, and the items before it that have not passed are
cancelled. -/
def State.skipTo (s : State) (qid : Qid) (seq : Nat) : State :=
  match s.queue qid with
  | none => s
  | some q =>
    let k := ahead16 seq q.dseq
    if k = 0 ∨ 32768 ≤ k then s
    else
      let s1 := s.cancelItems qid fun i => decide (i.n < q.dpos + k)
      match s1.queue qid with
      | some r => s1.setQueue qid { r with dpos := q.dpos + k }.tidy
      | none => s1

/-- The absolute position that SEQ names, near CSEQ. -/
def Queue.seqPos (q : Queue) (seq : Nat) : Nat := q.cpos - ahead16 q.cseq seq

/-- DSEQ of a queue. -/
def State.dseqOf (s : State) (qid : Qid) : Nat := match s.queue qid with
  | some q => q.dseq
  | none => 0

/-- WAITQ (R109, 10 R224, R236); it is held while the descriptor of its queue is fetched (10 R221). -/
def State.stepWaitq (s : State) (c : CoreId) (p : PartId) (x : InFlight) (t0 : Nat) (l : WaitqLine) : Held :=
  match s.queue l.qid with
  | none => .finished (Report.bad stAccess l.qid.toNat) s
  | some q =>
    if !s.cached l.qid then .waits s else
    let passed := s.skips p x
    let timeout := decide (l.tmo ≠ 0 ∧ t0 + l.tmo.toNat ≤ s.now)
    if l.cond then
      match q.waitItem with
      | some d =>
        let n := d.pos.getD 0
        .finished ⟨stOk, 0, 0, d.q.dseq, q.slotOf n⟩ (s.satisfy c l.qid d (some n))
      | none =>
        let s1 := s.passOver l.qid
        if passed then .finished (Report.bad stDeadlineMissed (s1.dseqOf l.qid)) s1
        else if timeout then .finished (Report.bad stTimeout (s1.dseqOf l.qid)) s1
        else .waits s1
    else if passed then
      let s1 := s.skipTo l.qid l.seq.toNat
      .finished (Report.bad stDeadlineMissed (s1.dseqOf l.qid)) s1
    else match q.waitSeq l.seq.toNat with
      | some d =>
        let pos := q.seqPos l.seq.toNat
        .finished ⟨stOk, 0, 0, d.q.dseq, 0⟩ (s.satisfy c l.qid d (if pos = 0 then none else some (pos - 1)))
      | none => if timeout then .finished (Report.bad stTimeout q.dseq) s else .waits s

/-- MARK hands its prologue list to the stream engine (10 R230, R236). -/
def State.stepMark (s : State) (c : CoreId) (p : PartId) (x : InFlight) (l : MarkLine) : Held :=
  let skip := s.skips p x
  if l.pdn = 0 then .finished .ok s
  else if !skip && decide (4 ≤ ((s.core c).stash.lists.filter fun q => q.next == 0).length) then .waits s
  else .finished .ok (s.modStash c fun k => { k with lists := k.lists ++ [⟨p, l.pdl, 0, l.pdn.toNat, skip⟩] })

/-- LOSS_GUARD (R113, 09 R213). -/
def State.stepGuard (s : State) (c : CoreId) (p : PartId) (x : InFlight) (l : BranchLine) : Held :=
  let d := Span.lines false l.laddr.toNat 1
  if (s.core c).ctl.slots.any fun y => anyShares (footOf y.line).writes [.span d] then .waits s
  else match s.checkSpans c [d] with
    | (false, s1) => .finished (Report.bad stCsEcc 0) s1
    | (true, s1) =>
      if (ofB32 (natLE ((s1.core c).mem.csN (l.laddr.toNat * 32) 4))).isFin then .finished .ok s1
      else
        let s2 := s1.modCtl c fun t => { t with pc := l.target }
        .finished ⟨stOk, 0, 0, 1, 0⟩ (match x.seed with
          | some k => s2.lossSkip p k.step
          | none => s2)

/-- UNSTASH at decode (R107, 08 R181, R182): it waits for an earlier STASH of its ID and for a release that is due; an
absent entry is resolved here, any other goes to the transfer unit (log 25). -/
def State.stepUnstash (s : State) (c : CoreId) (p : PartId) (x : InFlight) (l : StashLine) : Held :=
  let k := s.core c
  if s.skips p x then .finished (Report.bad stDeadlineMissed 0) s else
  let same := fun (y : InFlight) => match y.line with
    | .stash m => m.sid.extractLsb' 0 23 == l.sid.extractLsb' 0 23 && !y.stage.isDone
    | _ => false
  if k.stash.waits x.token || k.ctl.slots.any same then .waits s
  else match k.stash.dir.find? fun e => e.id == l.sid.extractLsb' 0 23 with
    | some e =>
      if e.present || e.len != l.len then .dispatched s
      else match s.runUnstash c p x l with
        | .done r s1 => .finished r s1
        | _ => .dispatched s
    | none => .dispatched s

/-- One step of a held command. -/
def State.stepHeld (s : State) (c : CoreId) (p : PartId) (x : InFlight) (t0 : Nat) : Held := match x.line with
  | .fence l => if fenceWaits l.cmask (s.core c).ctl.slots then .waits s else .finished .ok s
  | .waitq l => s.stepWaitq c p x t0 l
  | .mark l => s.stepMark c p x l
  | .branch l => s.stepGuard c p x l
  | .unstash l => s.stepUnstash c p x l
  | _ => .finished .ok s

/-- The held command of a core goes on. -/
def State.progressHold (s : State) (c : CoreId) : State :=
  match (s.core c).ctl.hold, (s.core c).part with
  | some (x, t0), some p => match s.stepHeld c p x t0.toNat with
    | .waits s1 => s1
    | .finished r s1 => (s1.dropHold c).complete c x.token r
    | .dispatched s1 => s1.dropHold c
  | _, _ => s

/-! ### Performance levels (14 R339, 16 R369 to R373) -/

/-- CCLK at a performance level, in tenths of a GHz (16 Table 16.1). -/
def plTenths (l : BitVec 3) : Nat := match l.toNat with
  | 0 => 18
  | 1 => 16
  | 2 => 14
  | 3 => 11
  | 4 => 8
  | _ => 5

/-- The level that R339 alone gives a core. -/
def State.levelWanted (s : State) (c : CoreId) : Nat :=
  let k := s.core c
  let cap := match k.part with
    | some p => (s.part p).cap.toNat
    | none => 0
  max s.reg.modLevel.toNat (max cap k.granted.toNat)

/-- The level a core is to run at (16 R369, R372). -/
def State.levelTarget (s : State) (c : CoreId) : Nat :=
  let rt := match (s.core c).part with
    | some p => s.isRt p
    | none => false
  if s.aon.crit then 5 else max (s.levelWanted c) (if rt then s.reg.tlevelR.toNat else s.reg.tlevelT.toNat)

/-- The level the module-level islands are to run at. -/
def State.modTargetLevel (s : State) : Nat := if s.aon.crit then 5 else max s.reg.modLevel.toNat s.reg.tlevelR.toNat

/-- Start the level changes that are due on the cores of a list: a change in progress completes first (16 R370). -/
def State.retargetCores (s : State) : List CoreId → State
  | [] => s
  | c :: cs => State.retargetCores (s.modCore c fun k =>
      if k.level = k.target then { k with target := BitVec.ofNat 3 (s.levelTarget c) } else k) cs

/-- Start every level change that is due. -/
def State.retarget (s : State) : State :=
  (s.retargetCores allCores).modReg fun r =>
    if r.modCur = r.modTarget then { r with modTarget := BitVec.ofNat 3 s.modTargetLevel } else r

/-- A core runs at the level it is to run at. -/
def State.coreSettled (s : State) (c : CoreId) : Bool :=
  (s.core c).level == (s.core c).target && (s.core c).level.toNat == s.levelTarget c

/-- Every island runs at the level it is to run at. -/
def State.levelsSettled (s : State) : Bool :=
  allCores.all s.coreSettled && s.reg.modCur == s.reg.modTarget && s.reg.modCur.toNat == s.modTargetLevel

/-! ### Responses that wait (14 R343, 16 R370) -/

/-- The cores of a mask. -/
def coresOfMask (mask : Nat) : List CoreId := allCores.filter fun c => mask.testBit c.val

/-- A core has no command in flight. -/
def Core.quiet (k : Core) : Bool := k.ctl.slots.isEmpty && k.ctl.hold.isNone

/-- What an executed request waits for has come: STREAM_CANCEL the retirement of the named cores' commands, PL_REQUEST and
PL_CAP the level changes they cause. -/
def State.waitOver (s : State) (r : MbReq) : Bool :=
  let named := (coresOfMask (fieldLE r.payload 0 4)).filter fun c => (s.core c).part == some r.part
  if r.cmd = 0x0203 then named.all fun c => (s.core c).quiet
  else if r.cmd = 0x0204 then named.all s.coreSettled
  else s.levelsSettled

/-- A CHECKPOINT has come to another point of its copy. -/
def State.setCopy (s : State) (m : MbId) (k : Copy) : State :=
  s.modMb m fun b => { b with busy := b.busy.map fun r => { r with copy := k } }

/-- The copy of a CHECKPOINT goes on: its header leaves when all its data is acknowledged, and its response, of payload `b`, when
the header is (13 R319). A buddy that is lost, or a partition that faults, ends it (14 Table 14.9). -/
def State.copyOn (s : State) (m : MbId) (r : MbReq) (b : List Byte) : State :=
  if (s.part r.part).fault.isSome then s.respond m stFaulted 0 []
  else match r.copy with
    | .data i msg at_ h =>
      if (s.sess i).isNone then s.respond m stPeerLost 0 []
      else if s.msgDone (i, msg) then
        (let x := s.sendList i fun k => permPackets k 3 0 at_ 0 h 1
         x.2.setCopy m (.header i x.1))
      else s
    | .header i msg =>
      if (s.sess i).isNone then s.respond m stPeerLost 0 []
      else if s.msgDone (i, msg) then s.respond m stOk 0 b
      else s
    | _ => s

/-- Answer the executed requests whose wait is over. -/
def State.sweepWaits (s : State) : List MbId → State
  | [] => s
  | m :: ms => match (s.mb m).busy with
    | some r => (match r.wait with
      | some b => State.sweepWaits (if r.copy = .idle then (if s.waitOver r then s.respond m stOk 0 b else s) else s.copyOn m r b) ms
      | none => State.sweepWaits s ms)
    | none => State.sweepWaits s ms

/-! ### Everything that waits goes on -/

/-- The held command of a core and the commands of its unit queues go on. -/
def State.progressCore (s : State) (c : CoreId) : State :=
  let s1 := s.progressHold c
  match (s1.core c).part with
  | some p => s1.tryStarts c p ((s1.core c).ctl.slots.map (·.token))
  | none => s1

def State.progressCores (s : State) : List CoreId → State
  | [] => s
  | c :: cs => State.progressCores (s.progressCore c) cs

/-- A core goes first: its partition is real-time and within its share at every shared point that its oldest waiting command passes
(01 R16). -/
def State.goesFirst (s : State) (c : CoreId) : Bool := match (s.core c).part with
  | some p => s.isRt p && (match (s.core c).ctl.slots.find? fun x => x.stage == .waiting with
    | some x => (pointsOf x.line).all fun y => s.inShare y.1 y.2 p
    | none => true)
  | none => false

/-- Cores with something in flight or held, those that go first in front. -/
def State.busyCores (s : State) : List CoreId :=
  let busy := allCores.filter fun c => !(s.core c).ctl.slots.isEmpty || (s.core c).ctl.hold.isSome
  busy.filter s.goesFirst ++ busy.filter fun c => !s.goesFirst c

/-- The queues, those of real-time partitions within their share at the collective engine first. -/
def State.qidsFirst (s : State) : List Qid :=
  let rt := fun (q : Qid) => match s.queue q with
    | some d => s.inShare pointColl collCap d.part
    | none => false
  s.qids.filter rt ++ s.qids.filter fun q => !rt q

/-- What waits for another part of the block: relayed messages, refusals, local all-to-all messages, PERMUTE moves, contributions to own
shards, credits, responses, transfers. The collective engine serves real-time partitions first (01 R16). -/
def State.progressEngines (s : State) : State :=
  let s0 := s.sweepRelays.bookAllRefused s.sweepRelays.refusers
  let s1 := s0.localA2a
  let s2 := s1.permAll (s1.rtFirst pointColl collCap (·.part) s1.eng.xfers)
  let s3 := s2.ownAll (s2.rtFirst pointColl collCap (·.part) s2.eng.xfers)
  let s4 := s3.grantAll s3.qidsFirst
  ((s4.oweResponses allMbs).sweepXfers).sweepWaits allMbs

/-- Everything that waits goes on as far as it can, twice, so that what the first pass frees is used by the second. -/
def State.settle (s : State) : State :=
  let s1 := (s.progressCores s.busyCores).progressEngines
  (s1.progressCores s1.busyCores).progressEngines

/-! ### Decode (R94 to R97, R114, R116) -/

/-- A unit queue has room. -/
def Core.unitRoom (k : Core) (u : UnitId) : Bool :=
  decide ((k.ctl.slots.filter fun y => y.stage == .waiting && (unitsOf y.line).contains u).length < u.depth)

/-- Decode may take a line now (R95, R114). -/
def Core.decodeFree (k : Core) (l : Line) : Bool :=
  k.ctl.stream == .running && k.ctl.hold.isNone && !k.ctl.ending && decide (k.ctl.slots.length < 64) &&
    !(k.ctl.slots.any fun y => (lineHdr y.line).tag == (lineHdr l).tag) && (unitsOf l).all k.unitRoom

/-- A fresh slot with what the command captures at decode (R116). -/
def CoreCtl.capture (t : CoreCtl) (l : Line) : InFlight :=
  ⟨l, .waiting, t.seed, t.deadline, t.mark, t.item, stOk, 0, 0, 0, 0, 0, false, t.tokens⟩

/-- Commands whose effect may wait at decode. -/
def holdsDecode : Line → Bool
  | .fence _ | .waitq _ | .mark _ | .unstash _ => true
  | .branch l => l.kind == 5
  | _ => false

/-- A trace record of a MARK (16 R385). -/
def State.trace (s : State) (c : CoreId) (p : PartId) (x : InFlight) (m : MarkReg) : State :=
  let t := (s.core c).ctl
  let fresh := match t.traceTime with
    | some z => decide (z.toNat + 1000 ≤ s.now)
    | none => true
  if fresh then
    let step := match x.seed with
      | some k => k.step
      | none => 0
    let r : TraceRec := ⟨s.aon.time, BitVec.ofNat 8 (originByte c.val p.val), m, step, s.reg.logs.traceSeq,
      BitVec.ofNat 32 (min t.traceStall (2 ^ 32 - 1)), BitVec.ofNat 32 (t.tokens - t.traceLines)⟩
    let s1 := s.modReg fun g => { g with logs := { g.logs with trace := (r :: g.logs.trace).take 2097152, traceSeq := g.logs.traceSeq + 1 } }
    s1.modCtl c fun t => { t with traceTime := some s.aon.time, traceStall := 0, traceLines := t.tokens }
  else s

/-- SEED steps that a core has decoded and no push has reached yet: each with the SEED's place in decode order (06 R133). -/
def seedQueued (q : List (Nat × BitVec 32)) (now : BitVec 32) (tok : Nat) (step : BitVec 32) : List (Nat × BitVec 32) :=
  if (match q.getLast? with
    | some e => e.2
    | none => now) = step then q else q ++ [(tok, step)]

/-- SEED (R112, R116, 08 R182, 09 R201). -/
def State.seedIn (s : State) (c : CoreId) (p : PartId) (tok : Nat) (l : SeedLine) : State :=
  let due := match (s.core c).stash.seedStep with
    | some k => k != l.step
    | none => false
  let k : SeedReg := ⟨l.seed, l.step⟩
  let s1 := s.modCtl c fun t => { t with seed := some k, seedQ := seedQueued t.seedQ (s.part p).amaxStep tok l.step }
  let s2 := s1.modStash c fun q => { q with seedStep := some l.step, releaseDue := if due then q.releaseDue ++ [tok] else q.releaseDue }
  if (s2.coresOf p).head? = some c then s2.modUe p fun u => { u with seeds := k :: u.seeds.take 15 } else s2

/-- DEADLINE (R111). -/
def CoreCtl.deadlineIn (t : CoreCtl) (l : DeadlineLine) : CoreCtl :=
  { t with deadline :=
      if l.mode = 0 then some ⟨l.dl, l.qid⟩
      else if l.mode = 1 then some ⟨t.latch + l.dl, l.qid⟩
      else none }

/-- BRANCH kinds that resolve at decode (R113). -/
def State.branchIn (s : State) (c : CoreId) (l : BranchLine) : Report × State :=
  let t := (s.core c).ctl
  let i := l.lci.toNat
  match l.kind.toNat with
  | 0 => (.ok, s.modCtl c fun t => { t with pc := l.target })
  | 1 =>
    if 16 ≤ t.stack.length then (Report.bad stBranchStack 0, s)
    else (.ok, s.modCtl c fun t => { t with stack := t.pc :: t.stack, pc := l.target })
  | 2 => match t.stack with
    | [] => (Report.bad stBranchStack 0, s)
    | a :: r => (.ok, s.modCtl c fun t => { t with stack := r, pc := a })
  | 3 =>
    let v := t.lc.get 0#32 i - 1
    (.ok, s.modCtl c fun t => { t with lc := t.lc.set 0#32 i v, pc := if v = 0 then t.pc else l.target })
  | 4 => (.ok, s.modCtl c fun t => { t with lc := t.lc.set 0#32 i l.cnt })
  | 6 => (.ok, s.modCtl c fun t => { t with ending := true })
  | _ => (.ok, s)

/-- Commands that complete at decode: their effect and report. -/
def State.actAtDecode (s : State) (c : CoreId) (p : PartId) (x : InFlight) : Report × State := match x.line with
  | .deadline l => (.ok, s.modCtl c fun t => t.deadlineIn l)
  | .seed l => (.ok, s.seedIn c p x.token l)
  | .branch l => s.branchIn c l
  | _ => (.ok, s)

/-- A MARK sets the core's mark, and its trace record is written, as it decodes (R110). -/
def State.markIn (s : State) (c : CoreId) (p : PartId) (x : InFlight) : State := match x.line with
  | .mark l =>
    let m : MarkReg := ⟨l.layer, l.mb, l.phase⟩
    let s1 := s.modCtl c fun t => { t with mark := m }
    if l.trace then s1.trace c p x m else s1
  | _ => s

/-- The line at the pc is a selector line, and the selection for the step of the SEED in force has not completed (08 R177). -/
def State.selWaits (s : State) (c : CoreId) : Bool :=
  let k := s.core c
  match k.part, k.ctl.seed with
  | some p, some d => (s.part p).amaxStep != d.step && (s.part p).rules.any fun r => r.sel == k.ctl.pc
  | _, _ => false

/-- The escapement of a core decodes a line: it is checked, then it acts, holds decode, or goes to its unit queue. -/
def State.decodeLine (s : State) (c : CoreId) (l : Line) : State :=
  let k := s.core c
  match k.part with
  | none => s
  | some p =>
    if k.decodeFree l && !s.selWaits c then
      let x := k.ctl.capture l
      let s1 := s.modCtl c fun t => { t with pc := t.pc + 32, tokens := t.tokens + 1 }
      let put := fun (z : State) => z.modCtl c fun t => { t with slots := t.slots ++ [x] }
      match s.checkLine c p l with
      | some r => (put s1).complete c x.token r
      | none =>
        if holdsDecode l then (s1.markIn c p x).modCtl c fun t => { t with hold := some (x, s.aon.time) }
        else if (unitsOf l).isEmpty then
          let e := (put s1).actAtDecode c p x
          e.2.complete c x.token e.1
        else match l with
          | .recv r => (put s1).postRecv c p x.token r
          | _ => put s1
    else s

/-- A stream line of a core cannot be read (R95, Table 5.30). -/
def State.fetchFails (s : State) (c : CoreId) : State :=
  let k := s.core c
  let l : Line := .bad 0 ⟨0, false, false⟩
  if k.part.isSome && k.ctl.stream == .running && k.ctl.hold.isNone && !k.ctl.ending && decide (k.ctl.slots.length < 64) then
    let x := k.ctl.capture l
    (s.modCtl c fun t => { t with tokens := t.tokens + 1, slots := t.slots ++ [x] }).complete c x.token (Report.bad stFetchError 0)
  else s

/-! ### Retirement (R118) -/

/-- The finished command of a core that retires next writes its record, when one is due, and frees its slot. -/
def State.retireOldest (s : State) (c : CoreId) : State :=
  match s.retiring c, (s.core c).part with
  | some x, some p =>
    if x.recordDue && (s.queue (s.core c).ctl.cq).isSome then
      match s.postRecord (s.core c).ctl.cq fun seq ph => x.record c p seq ph with
      | (true, true, s1) => (s1.modCtl c fun t => t.retire x).freeRounds
      | (true, false, s1) =>
        let s2 := s1.modCtl c fun t => t.retire x
        (match s.queue (s.core c).ctl.cq with
          | some q => s2.partFault p (if q.memCs then 1 else 5) (some c)
          | none => s2).freeRounds
      | (false, _, _) => s
    else (s.modCtl c fun t => t.retire x).freeRounds
  | _, _ => s

/-! ### Time (05 R117, 16 R376) -/

/-- What the conflicts of a waiting command with earlier ones count as: a row of Table 5.27 where one of them is for a tile or a bank. -/
def conflictCause (xs : List Foot) (y : Foot) : CoreCnt :=
  let hit := xs.flatMap fun x => (x.writes ++ x.reads).flatMap fun a => ((y.writes ++ y.reads).filter fun b => a.shares b)
  if hit.any fun r => match r with
    | .tile _ => true
    | _ => false then .stallTile
  else if hit.any fun r => match r with
    | .bank _ => true
    | _ => false then .stallWload
  else .depWait

/-- What a waiting command without a conflict waits for. -/
def ownCause : Line → CoreCnt
  | .send _ => .stallCredit
  | .recv _ => .stallPeer
  | .stash _ | .unstash _ => .stallStash
  | .route l => if l.rfn = 0 then .stallRouter else .stallPeer
  | _ => .depWait

/-- What a held command waits for (10 R234). -/
def State.holdCause (s : State) : Line → CoreCnt
  | .waitq l => match s.queue l.qid with
    | some q =>
      if q.isRxp then .stallPeer
      else if q.isPf then
        (match q.items.find? fun i => !i.passed with
          | some i => if i.descs.any fun d => d.kind == 1 then .stallPeer else .stallHbm
          | none => .stallHbm)
      else .depWait
    | none => .depWait
  | .mark _ => .stallHbm
  | .unstash _ => .stallStash
  | _ => .depWait

/-- A command in flight waits: in its queue, for what a peer sends, for the other members of its round (07 R139), or for room
in its completion queue (R118). -/
def State.slotWaits (s : State) (c : CoreId) (x : InFlight) : Bool := match x.stage with
  | .waiting => true
  | .started => (match x.line with
    | .recv _ => true
    | .route l => l.rfn == 0 && (s.inOpenRound c x.token || s.reuseWaits c x)
    | _ => false)
  | .done _ => s.heldByCq c x

/-- The oldest waiting command of a list of slots, with those before it. -/
def State.oldestWaiting (s : State) (c : CoreId) : List InFlight → List InFlight → Option (List InFlight × InFlight)
  | _, [] => none
  | before, x :: t => if s.slotWaits c x then some (before, x) else s.oldestWaiting c (before ++ [x]) t

/-- Decode of a running core is stopped before its next line, as it stands in HBM: a full unit queue, 64 commands in flight, an
equal TAG, or a selection still to complete (R114, 08 R177). -/
def State.decodeStops (s : State) (c : CoreId) : Bool :=
  let k := s.core c
  match k.part with
  | none => false
  | some p => k.ctl.stream == .running && !k.ctl.ending &&
      (s.selWaits c || ((s.checkVa p k.ctl.pc.toNat 32 .x).isNone &&
        !k.decodeFree (lineOfBytes (s.hbm.readVa (s.part p) k.ctl.pc.toNat 32))))

/-- A core runs at a higher-numbered level than R339 gives it because of a thermal limit: one is in force now, or gave the level that the
core still runs at (16 R373). -/
def State.thermalSlow (s : State) (c : CoreId) : Bool :=
  decide (s.levelWanted c < (s.core c).level.toNat) && (decide (s.levelWanted c < s.levelTarget c) || (s.core c).hot)

/-- The cause that a cycle of a core counts under, when it counts (R117). -/
def State.stallCause (s : State) (c : CoreId) : Option CoreCnt :=
  let k := s.core c
  if s.thermalSlow c then some .stallThermal
  else match s.oldestWaiting c [] k.ctl.slots with
    | some (before, x) =>
      if x.stage.isDone then some .stallCredit
      else if s.reuseWaits c x then some .stallCredit
      else
        let hits := before.filter fun y => (footOf y.line).conflicts (footOf x.line)
        some (if hits.isEmpty then ownCause x.line else conflictCause (hits.map fun y => footOf y.line) (footOf x.line))
    | none => match k.ctl.hold with
      | some (x, _) => some (s.holdCause x.line)
      | none => if s.decodeStops c then some .depWait else none

/-- Cycles and residency of one core over some nanoseconds; without its supply it has none (16 R376). -/
def State.spendCore (s : State) (ns : Nat) (c : CoreId) : State :=
  if s.aon.supply ≠ .on then s else
  let k := s.core c
  let tot := k.cycFrac + ns * plTenths k.level
  let s1 := s.modCore c fun q => { q with cycFrac := tot % 10, resPl := q.resPl.set 0 q.level.toNat (q.resPl.get 0 q.level.toNat + ns) }
  if k.ctl.stream = .running then
    (match s.stallCause c with
      | some w => (s1.countCore c w (tot / 10)).modCtl c fun t =>
          { t with traceStall := if w = .depWait then t.traceStall else t.traceStall + tot / 10 }
      | none => s1)
  else s1

def State.spendCores (s : State) (ns : Nat) : List CoreId → State
  | [] => s
  | c :: cs => State.spendCores (s.spendCore ns c) ns cs

/-- Sleep state number, 0 outside S1 to S4. -/
def MState.sleep : MState → Nat
  | .s1 => 1
  | .s2 => 2
  | .s3 => 3
  | .s4 => 4
  | _ => 0

/-- Lane residency of one port, in ns (12 Table 12.13): by WIDTH on sub-port 0 of an 800G or Direct port, two lanes on the
sub-ports of a 2 × 400G port, one lane on those of a 4 × 200G port. -/
def Port.spend (q : Port) (ns : Nat) : Port :=
  if q.state = .upSwitched ∨ q.state = .upDirect then
    let add := fun (k : PortCnt) (i : SubId) (z : Port) => z.modSub i fun b => { b with cnt := bump k.width b.cnt k.idx ns }
    match (q.cfg.extractLsb' 0 2).toNat with
    | 1 => add .resW2 1 (add .resW2 0 q)
    | 2 => add .resW1 3 (add .resW1 2 (add .resW1 1 (add .resW1 0 q)))
    | _ => add (if q.width = 0 then .resW4 else if q.width = 1 then .resW2 else .resW1) 0 q
  else q

def State.spendPorts (s : State) (ns : Nat) : State :=
  { s with fabric := { s.fabric with ports := s.fabric.ports.map fun q => q.spend ns } }

/-- Cycles of the module-level islands over some nanoseconds (16 Table 16.1). -/
def State.engCycles (s : State) (ns : Nat) : Nat := (s.now + ns) * plTenths s.reg.modCur / 10 - s.now * plTenths s.reg.modCur / 10

/-- The waits of the update engine of a partition count: for NORM2 (09 R204), and for a checkpoint copy (13 R319). -/
def State.spendUpd (s : State) (ns : Nat) (p : PartId) : State :=
  let mine := s.eng.ctxs.filter fun x => x.part == p && s.ctxComplete x && !s.faulted p
  let s1 := if mine.any s.waitsNorm then s.countPart p .updNormWait (s.engCycles ns) else s
  if (mine.any fun x => s.copyHolds p x.step) || (!s.faulted p && s.jobHeld p) then s1.countPart p .updCkptWait (s.engCycles ns) else s1

def State.spendUpds (s : State) (ns : Nat) : List PartId → State
  | [] => s
  | p :: ps => State.spendUpds (s.spendUpd ns p) ns ps

/-- Time passes: the timebase, the residency counters (kept in ns, read in µs) and the stall counters. -/
def State.advance (s : State) (ns : Nat) : State :=
  let s1 := ((s.spendCores ns allCores).spendPorts ns).spendUpds ns allParts
  s1.modAon fun a => { a with
    time := a.time + BitVec.ofNat 64 ns
    resAct := if a.mstate.sleep = 0 then a.resAct + ns else a.resAct
    resS := if a.mstate.sleep = 0 then a.resS else a.resS.set 0 a.mstate.sleep (a.resS.get 0 a.mstate.sleep + ns) }

/-- Time passes up to a moment, when it lies ahead. -/
def State.advanceTo (s : State) (t : Nat) : State := if s.now < t then s.advance (t - s.now) else s

/-! ### The tick of an empty queue -/

/-- A running core fetches and decodes the line at its pc (R94): an uncorrectable line is a demand read of 11 Table 11.7. -/
def State.fetchDecode (s : State) (c : CoreId) : State :=
  let k := s.core c
  match k.part with
  | none => s
  | some p =>
    if k.ctl.stream == .running && k.ctl.hold.isNone && !k.ctl.ending then
      if (s.checkVa p k.ctl.pc.toNat 32 .x).isSome then s.fetchFails c
      else match s.readHbm p k.ctl.pc.toNat 32 with
        | (some b, s1) => s1.decodeLine c (lineOfBytes b)
        | (none, s1) => (s1.fetchFails c).partFault p 5 (some c)
    else s

def State.fetchDecodes (s : State) : List CoreId → State
  | [] => s
  | c :: cs => State.fetchDecodes (s.fetchDecode c) cs

/-- The frame at the head of the MP queue goes out when no backoff runs. -/
def State.mpOutTick (s : State) : State := match s.reg.mpOut with
  | [] => s
  | f :: fs => if s.reg.mpBackoff = 0 then s.modReg fun r => { r with mpOut := fs, mpFrame := some f, mpTries := 0 } else s

end Sys2Proof.Machine
end

