-- ==== Sys2Proof/Machine/Ports.lean ====
section
/-! DEFINITION. Fabric ports: bring-up, Direct link control, lane stepping and re-adaptation windows (12 R265 to R272,
16 R380 to R382). -/

namespace Sys2Proof.Machine

/-! ### The words of a port (12 Tables 12.2, 12.3) -/

def Port.mode (q : Port) : Nat := (q.cfg.extractLsb' 0 2).toNat
def Port.media (q : Port) : Bool := q.cfg.getLsbD 2
def Port.en (q : Port) : Bool := q.cfg.getLsbD 3
def Port.stepEn (q : Port) : Bool := q.cfg.getLsbD 4
def Port.fwdIn (q : Port) : Bool := q.cfg.getLsbD 5
def Port.ptpEn (q : Port) : Bool := q.cfg.getLsbD 6

def PortState.isUp : PortState → Bool
  | .upSwitched | .upDirect => true
  | _ => false

def PortState.code : PortState → Nat
  | .disabled => 0
  | .waitPeer => 1
  | .training => 2
  | .upSwitched => 3
  | .upDirect => 4
  | .fault => 5

/-- PORT_STS (12 Table 12.3). -/
def Port.sts (q : Port) : Nat :=
  q.state.code + q.width.toNat * 8 + (if q.stepping then 32 else 0) +
    (if q.state = .upDirect then q.peerMid.toNat * 64 + q.peerPort.toNat * 2 ^ 20 else 0)

/-- Lanes of a WIDTH code, and the code of a lane count. -/
def lanesOf (w : BitVec 2) : Nat := if w = 0 then 4 else if w = 1 then 2 else 1
def widthOf (lanes : Nat) : BitVec 2 := if lanes = 4 then 0 else if lanes = 2 then 1 else 2

/-! ### Going down and coming up (R268, R269) -/

/-- The code of a cause in EV_PORT_DOWN (log 28). -/
def downCode (c : DownCause) : Nat := c.ctorIdx + 1

/-- A sub-port discards what is queued and counts it. -/
def SubPort.discard (b : SubPort) : SubPort :=
  { b with cnt := bump PortCnt.txDiscard.width b.cnt PortCnt.txDiscard.idx b.txq.length, txq := [] }

/-- The link state of a port that has lost its link. -/
def Port.drop (q : Port) (st : PortState) : Port :=
  { q with
    state := st, width := 0, stepping := false, peerMid := 0, peerPort := 0, autoneg := false, trained := false
    locked := false, heard := false, peerStepOk := false, noDirect := false, stepReq := none, stepAgreed := none
    idleWins := 0, lastBusy := false, lastQb := 0, adaptReq := none, adaptForced := false, adaptAgreed := none
    adaptLost := none, fwdBuf := 0, subs := q.subs.map SubPort.discard }

/-- A port goes down (R269): the collective engine learns of it, and a Direct peer of a group with PORTLOSS = 1 is lost
(13 R317). -/
def State.takePortDown (s : State) (p : PortId) (cause : DownCause) : State :=
  let q := s.port p
  let s1 := (s.setPort p (q.drop .fault)).logEvent evPortDown (36 + p.val) srcNone (bytesLE 1 p.val ++ bytesLE 1 (downCode cause))
  if q.state = .upDirect ∧ s.portLoss q.peerMid = true then s1.declareLost q.peerMid 1 else s1

/-- The ports of a list that carry or train a link go down. -/
def State.takePortsDown (s : State) (cause : DownCause) : List PortId → State
  | [] => s
  | p :: ps =>
    let st := (s.port p).state
    State.takePortsDown (if st = .training ∨ st.isUp = true then s.takePortDown p cause else s) cause ps

/-- PORT_SIGNAL_DETECT (R268). -/
def execPortSignalDetect (p : PortId) (s : State) : Host.Outcome State Fault Refusal :=
  let q := s.port p
  if s.portsRun && q.en && (q.state == .waitPeer || q.state == .fault) then .next (s.setPort p { q with state := .training })
  else .next s

/-- AUTONEG_COMPLETE (R268). -/
def execAutonegComplete (p : PortId) (s : State) : Host.Outcome State Fault Refusal :=
  let q := s.port p
  if q.state = .training then .next (s.setPort p { q with autoneg := true }) else .next s

/-- LINK_TRAINING_COMPLETE (R268). -/
def execLinkTrainingComplete (p : PortId) (s : State) : Host.Outcome State Fault Refusal :=
  let q := s.port p
  if q.state = .training ∧ q.autoneg = true then .next (s.setPort p { q with trained := true }) else .next s

/-! ### Direct link control (R270) -/

/-- This module may run Direct links: its ID is assigned (R270). -/
def State.directOk (s : State) : Bool := s.reg.assigned

/-- Queue a DLC frame. -/
def State.sendDlc (s : State) (p : PortId) (type : BitVec 8) (seq : BitVec 16) (lanes : Nat) (amc : BitVec 32) : State :=
  let q := s.port p
  let d : Dlc := ⟨s.moduleId, BitVec.ofNat 8 p.val, s.directOk, q.stepEn, q.heard, seq, BitVec.ofNat 8 lanes, amc⟩
  s.queueFrame p 0 ⟨1, srcRegulator, .dlc type d, 0, false⟩

/-- Send a HELLO. -/
def State.sendHello (s : State) (p : PortId) : State := s.sendDlc p 1 0 0 0

/-- Send a request with the next SEQ. -/
def State.sendDlcReq (s : State) (p : PortId) (type : BitVec 8) (lanes : Nat) : BitVec 16 × State :=
  let n := (s.port p).dlcSeq + 1
  (n, (s.modPort p fun q => { q with dlcSeq := n }).sendDlc p type n lanes 0)

/-- A port is up on a switch. -/
def State.upSwitched (s : State) (p : PortId) (noDirect : Bool) : State :=
  (s.modPort p fun q => { q with state := .upSwitched, width := 0, noDirect := noDirect }).logEvent evPortUp (36 + p.val) srcNone
    (bytesLE 1 p.val)

/-- PCS_LOCK (R268, R270). -/
def execPcsLock (p : PortId) (s : State) : Host.Outcome State Fault Refusal :=
  let q := s.port p
  if q.state = .training ∧ q.trained = true ∧ q.locked = false then
    let s1 := s.setPort p { q with locked := true, lockTime := s.aon.time }
    .next (if q.mode = 3 then s1.sendHello p else s1.upSwitched p false).settle
  else .next s

/-- Sub-ports of a mode (12 Table 12.1). -/
def Port.subCount (q : Port) : Nat := if q.mode = 1 then 2 else if q.mode = 2 then 4 else 1

/-- FEC codewords that the cause says were uncorrectable: 16 or more (R269); on which sub-port is free (log 55). -/
def State.countFec (s : State) (p : PortId) (cause : DownCause) : State :=
  if cause = .fecErrors then
    ((s.countSub p (Fin.ofNat 4 (s.freeNext.freeVal % (s.port p).subCount)) .fecUncorr (16 + s.freeVal)).freeNext).freeNext
  else s

/-- PORT_DOWN (R269). -/
def execPortDown (p : PortId) (cause : DownCause) (s : State) : Host.Outcome State Fault Refusal :=
  let q := s.port p
  if q.state.isUp || (q.state == .training && q.locked) then .next ((s.countFec p cause).takePortDown p cause).settle
  else .next s

/-- Direct link control runs on a port: MODE 3, locked. -/
def Port.dlc (q : Port) : Bool := q.mode == 3 && q.locked

/-- A HELLO arrives (R270). -/
def State.takeHello (s : State) (p : PortId) (d : Dlc) : State :=
  let q := s.port p
  if !q.dlc then s
  else match q.state with
    | .upDirect =>
      if q.peerMid ≠ d.mid ∨ q.peerPort ≠ d.port.extractLsb' 0 4 then s.takePortDown p .peerChanged
      else s.setPort p { q with peerStepOk := d.stepOk }
    | .training =>
      let h := q.heard || d.directOk
      if s.directOk && d.directOk && d.heard then
        (s.setPort p { q with
          heard := h, state := .upDirect, width := 0, peerMid := d.mid, peerPort := d.port.extractLsb' 0 4
          peerStepOk := d.stepOk, lastAdapt := s.aon.time }).logEvent evPortUp (36 + p.val) srcNone (bytesLE 1 p.val)
      else s.setPort p { q with heard := h }
    | _ => s.setPort p { q with heard := q.heard || d.directOk }

/-- HELLO_RECEIVE (R270). -/
def execHelloReceive (p : PortId) (d : Dlc) (s : State) : Host.Outcome State Fault Refusal := .next (s.takeHello p d).settle

/-- HELLO_TIMER (R270). -/
def execHelloTimer (p : PortId) (s : State) : Host.Outcome State Fault Refusal :=
  if (s.port p).dlc then .next (s.sendHello p) else .next s

/-- DIRECT_TIMEOUT (R270): 10 ms after PCS lock without UP_DIRECT. -/
def execDirectTimeout (p : PortId) (s : State) : Host.Outcome State Fault Refusal :=
  let q := s.port p
  if q.dlc && q.state == .training then
    let s1 := (s.advanceTo (q.lockTime.toNat + 10000000)).logEvent evPortNodirect (36 + p.val) srcNone (bytesLE 1 p.val)
    .next (s1.upSwitched p true).settle
  else .next s

/-! ### Lane stepping (R271, R272) -/

/-- Bytes that a width carries in a window of 64 µs. -/
def windowBytes (w : BitVec 2) : Nat := 1600000 * lanesOf w

/-- At least 10 ms have passed since the last step up. -/
def State.stepSettled (s : State) (q : Port) : Bool := match q.lastStepUp with
  | some t => decide (t.toNat + 10000000 ≤ s.now)
  | none => true

/-- The down condition of Table 12.6 at one end. -/
def State.downHolds (s : State) (q : Port) : Bool := decide (32 ≤ q.idleWins) && s.stepSettled q

/-- Enter a measurement window. -/
def Port.window (q : Port) (sent qb : Nat) : Port :=
  let idle := decide (4 * sent ≤ windowBytes q.width ∧ qb ≤ 16384)
  { q with
    idleWins := if idle then min 32 (q.idleWins + 1) else 0
    lastBusy := decide (windowBytes q.width < 4 * sent)
    lastQb := qb }

/-- The lane count to ask for after a window, if any. -/
def State.stepTarget (s : State) (q : Port) (sent qb : Nat) : Option Nat :=
  if q.width ≠ 0 ∧ (65536 < qb ∨ 3 * windowBytes q.width ≤ 4 * sent) then some 4
  else if q.width ≠ 2 ∧ s.downHolds q = true then some (lanesOf q.width / 2)
  else none

/-- Both ends allow stepping. -/
def Port.canStep (q : Port) : Bool := q.state == .upDirect && q.stepEn && q.peerStepOk

/-- A step has been agreed: it proceeds, and a window that crossed it is given up, to be asked for again where this end had asked for it
(16 R381). -/
def Port.stepWins (q : Port) (lanes : BitVec 8) (amc : BitVec 32) : Port :=
  { q with
    stepReq := none, stepping := true, stepAgreed := some (lanes, amc), adaptReq := none, adaptAgreed := none
    adaptForced := q.adaptForced && q.adaptReq.isNone
    adaptLost := if q.adaptReq.isSome then some q.adaptForced else q.adaptLost }

/-- STEP_WINDOW (R271). -/
def execStepWindow (p : PortId) (sent : Nat) (qb : Nat) (s : State) : Host.Outcome State Fault Refusal :=
  if (s.port p).state = .upDirect then
    let q := (s.port p).window sent qb
    let s1 := s.setPort p q
    if q.canStep && !q.stepping && q.stepReq.isNone && q.adaptAgreed.isNone then match s1.stepTarget q sent qb with
      | some n =>
        let r := s1.sendDlcReq p 2 n
        .next (r.2.modPort p fun q => { q with stepReq := some (r.1, BitVec.ofNat 8 n) })
      | none => .next s1
    else .next s1
  else .next s

/-- Answer a step request with STEP_ACK and start the change; the marker count is a free value (log 29). -/
def State.ackStep (s : State) (p : PortId) (d : Dlc) : State :=
  let amc := BitVec.ofNat 32 s.freeVal
  (s.freeNext.modPort p fun q => q.stepWins d.width amc).sendDlc p 3 d.seq d.width.toNat amc

/-- The peer's request may be granted (Table 12.6): both ends have STEP_OK = 1, as the last HELLO and the request say (R271). -/
def State.stepGranted (s : State) (q : Port) (lanes : Nat) (peerOk : Bool) : Bool :=
  !q.stepping && q.adaptAgreed.isNone && q.stepEn && q.peerStepOk && peerOk &&
    (if lanes = 4 then q.width != 0 else q.width != 2 && lanes == lanesOf q.width / 2 && s.downHolds q)

/-- A STEP_REQ arrives (R271, R272). -/
def State.takeStepReq (s : State) (p : PortId) (d : Dlc) : State :=
  let q := s.port p
  if q.state ≠ .upDirect then s
  else match q.stepReq with
    | some (_, w) =>
      if d.width.toNat < w.toNat then s.sendDlc p 4 d.seq d.width.toNat 0
      else if d.width = w ∧ d.stepOk = true then
        (if s.moduleId.toNat < q.peerMid.toNat then s else s.ackStep p d)
      else if s.stepGranted q d.width.toNat d.stepOk then s.ackStep p d
      else (s.modPort p fun q => { q with stepReq := none }).sendDlc p 4 d.seq d.width.toNat 0
    | none => if s.stepGranted q d.width.toNat d.stepOk then s.ackStep p d else s.sendDlc p 4 d.seq d.width.toNat 0

/-- STEP_REQ_RECEIVE (R271, R272). -/
def execStepReqReceive (p : PortId) (d : Dlc) (s : State) : Host.Outcome State Fault Refusal := .next (s.takeStepReq p d)

/-- The outstanding request has this SEQ. -/
def Port.asked (q : Port) (seq : BitVec 16) : Option (BitVec 8) := match q.stepReq with
  | some (n, w) => if n = seq then some w else none
  | none => none

/-- A STEP_ACK arrives (R272). -/
def State.takeStepAck (s : State) (p : PortId) (d : Dlc) : State :=
  let q := s.port p
  match q.asked d.seq with
  | some w => s.setPort p (q.stepWins w d.amc)
  | none => s

/-- STEP_ACK_RECEIVE (R272). -/
def execStepAckReceive (p : PortId) (d : Dlc) (s : State) : Host.Outcome State Fault Refusal := .next (s.takeStepAck p d)

/-- A STEP_NAK arrives (R272). -/
def State.takeStepNak (s : State) (p : PortId) (d : Dlc) : State :=
  let q := s.port p
  match q.asked d.seq with
  | some _ => s.setPort p { q with stepReq := none }
  | none => s

/-- STEP_NAK_RECEIVE (R272). -/
def execStepNakReceive (p : PortId) (d : Dlc) (s : State) : Host.Outcome State Fault Refusal := .next (s.takeStepNak p d)

/-- STEP_REQ_TIMEOUT (R272): 20 µs without an answer. -/
def execStepReqTimeout (p : PortId) (s : State) : Host.Outcome State Fault Refusal :=
  .next (s.modPort p fun q => { q with stepReq := none })

/-- LANE_SWITCH (R272): both ends switch at the agreed marker. -/
def execLaneSwitch (p : PortId) (s : State) : Host.Outcome State Fault Refusal :=
  let q := s.port p
  match q.stepAgreed with
  | none => .next s
  | some (w, _) =>
    let n := w.toNat
    let r := { q with
      width := widthOf n, stepping := false, stepAgreed := none, idleWins := 0, stepEnd := s.aon.time
      lastStepUp := if lanesOf q.width < n then some s.aon.time else q.lastStepUp }
    .next ((s.setPort p r).countSub p 0 .laneStep 1)

/-! ### Re-adaptation windows (R272, 16 R380 to R382) -/

/-- A window may be asked for. -/
def Port.canAdapt (q : Port) : Bool :=
  q.state == .upDirect && !q.stepping && q.stepReq.isNone && q.adaptReq.isNone && q.adaptAgreed.isNone

/-- Send ADAPT_REQ. -/
def State.askAdapt (s : State) (p : PortId) (forced : Bool) : State :=
  let r := s.sendDlcReq p 5 0
  r.2.modPort p fun q => { q with adaptReq := some r.1, adaptForced := forced }

/-- The port's transmit buffer holds data, or U was above 25 % in its last window (16 Table 16.9). -/
def Port.busy (q : Port) : Bool :=
  q.lastBusy || allSubs.any fun i => (q.sub i).txq.any fun f => match f.body with
    | .dlc .. => false
    | _ => true

/-- ADAPT_WINDOW_DUE (16 R380): sought while the port is idle. -/
def execAdaptWindowDue (p : PortId) (s : State) : Host.Outcome State Fault Refusal :=
  let q := s.port p
  if q.canAdapt && !q.busy then .next (s.askAdapt p false) else .next s

/-- ADAPT_FLOOR_FORCED (16 R381): 10 s after the last window; DLC frames go ahead of queued data. -/
def execAdaptFloorForced (p : PortId) (s : State) : Host.Outcome State Fault Refusal :=
  let q := s.port p
  let s1 := if q.state = .upDirect then s.advanceTo (q.lastAdapt.toNat + 10000000000) else s
  if q.canAdapt then .next (s1.askAdapt p true)
  else if q.adaptReq.isSome then .next (s1.modPort p fun q => { q with adaptForced := true })
  else .next s1

/-- The requests that gave way to a step are made again 1 ms after its end (16 R381). -/
def State.askAgain (s : State) : List PortId → State
  | [] => s
  | p :: ps =>
    let q := s.port p
    State.askAgain (match q.adaptLost with
      | some f =>
        if q.canAdapt && decide (q.stepEnd.toNat + 1000000 ≤ s.now) then (s.modPort p fun z => { z with adaptLost := none }).askAdapt p f else s
      | none => s) ps

/-- An ADAPT_REQ arrives: answered unless a step is in progress (16 R381). -/
def State.takeAdaptReq (s : State) (p : PortId) (d : Dlc) : State :=
  let q := s.port p
  if q.state = .upDirect ∧ q.stepping = false then
    let amc := BitVec.ofNat 32 s.freeVal
    (s.freeNext.modPort p fun q => { q with adaptReq := none, adaptAgreed := some amc }).sendDlc p 6 d.seq 0 amc
  else s

/-- ADAPT_REQ_RECEIVE (16 R381). -/
def execAdaptReqReceive (p : PortId) (d : Dlc) (s : State) : Host.Outcome State Fault Refusal := .next (s.takeAdaptReq p d)

/-- An ADAPT_ACK arrives. -/
def State.takeAdaptAck (s : State) (p : PortId) (d : Dlc) : State :=
  let q := s.port p
  if q.adaptReq = some d.seq ∧ q.stepping = false then s.setPort p { q with adaptReq := none, adaptAgreed := some d.amc }
  else s

/-- ADAPT_ACK_RECEIVE (16 R381). -/
def execAdaptAckReceive (p : PortId) (d : Dlc) (s : State) : Host.Outcome State Fault Refusal := .next (s.takeAdaptAck p d)

/-- ADAPT_WINDOW_END (R272, 16 R382): a forced window counts with its data-stopped time. -/
def execAdaptWindowEnd (p : PortId) (ns : Nat) (s : State) : Host.Outcome State Fault Refusal :=
  let q := s.port p
  match q.adaptAgreed with
  | none => .next s
  | some _ => .next (s.setPort p { q with
      adaptAgreed := none, adaptForced := false, lastAdapt := s.aon.time
      floorAdapt := if q.adaptForced then satAdd 48 q.floorAdapt 1 else q.floorAdapt
      floorAdaptNs := if q.adaptForced then satAdd 48 q.floorAdaptNs ns else q.floorAdaptNs })

/-- A DLC frame of any type (12 Table 12.5); other types are dropped. -/
def State.takeDlc (s : State) (p : PortId) (type : Nat) (d : Dlc) : State := match type with
  | 1 => s.takeHello p d
  | 2 => s.takeStepReq p d
  | 3 => s.takeStepAck p d
  | 4 => s.takeStepNak p d
  | 5 => s.takeAdaptReq p d
  | 6 => s.takeAdaptAck p d
  | _ => s

end Sys2Proof.Machine
end

