-- ==== Sys2Proof/Machine/Wire.lean ====
section
/-! DEFINITION. The bytes of the frames that the module originates (12 R265, R267, R270, 13 R289). -/

namespace Sys2Proof.Machine

/-! ### Addresses and tags (12 R265, R267) -/

/-- The address of a sub-port of a module: 02-4B-44-PP-MH-ML with PP = 4n + s. -/
def subAddr (mid : BitVec 14) (n s : Nat) : Nat := 0x024B44 * 2 ^ 24 + (4 * n + s) % 256 * 2 ^ 16 + mid.toNat

/-- The destination of DLC frames (R270). -/
def dlcAddr : Nat := 0x034B44000001

/-- An 802.1Q tag. -/
def tagBytes (vid pcp : Nat) : List Byte := bytesBE 2 0x8100 ++ bytesBE 2 (pcp % 8 * 8192 + vid % 4096)

/-! ### Direct link control (12 Table 12.5) -/

/-- The 46 bytes of a DLC payload, which fill the minimum frame. -/
def dlcBytes (type : BitVec 8) (d : Dlc) : List Byte :=
  bytesLE 1 type.toNat ++ bytesLE 1 1 ++ bytesLE 2 d.mid.toNat ++ bytesLE 1 d.port.toNat ++
    bytesLE 1 (d.directOk.toNat + 2 * d.stepOk.toNat + 4 * d.heard.toNat) ++ bytesLE 2 d.seq.toNat ++ bytesLE 1 d.width.toNat ++
    List.replicate 3 0 ++ bytesLE 4 d.amc.toNat ++ List.replicate 30 0

/-! ### Transport packets (13 Table 13.1, R289) -/

/-- The header of a packet with a TCRC. -/
def pktHeader (k : Pkt) (tcrc : Nat) : List Byte :=
  bytesLE 1 (k.ver.toNat + 16 * k.type.toNat) ++ bytesLE 1 (k.tpart.val + 8 * k.host.toNat) ++ bytesLE 2 k.smod.toNat ++
    bytesLE 2 k.dmod.toNat ++ bytesLE 2 k.sess.toNat ++ bytesLE 4 k.psn.toNat ++ bytesLE 4 k.apsn.toNat ++
    bytesLE 4 (k.dq.toNat + k.coll.toNat * 2 ^ 20 + k.ret.toNat * 2 ^ 23) ++ bytesLE 2 k.cgrp.toNat ++ bytesLE 1 k.fmt.toNat ++
    bytesLE 1 (k.first.toNat + 2 * k.last.toNat + 4 * k.acknow.toNat) ++ bytesLE 4 k.msg.toNat ++ bytesLE 4 k.ofs.toNat ++
    bytesLE 4 k.step.toNat ++ bytesLE 4 k.arg.toNat ++ bytesLE 4 tcrc ++ List.replicate 4 0

/-- The UDP payload of a packet: header and payload, under their CRC-32C. -/
def pktBytes (k : Pkt) : List Byte := pktHeader k (crc32c (pktHeader k 0 ++ k.payload)) ++ k.payload

/-- The UDP source port of a session's packets. -/
def udpSource (sess : BitVec 16) : Nat := 49152 + sess.toNat % 16384

/-- The one's complement of the one's complement sum of 16-bit big-endian words (IETF RFC 1071). -/
def sum16 : List Byte → Nat
  | a :: b :: t => 256 * a.toNat + b.toNat + sum16 t
  | [a] => 256 * a.toNat
  | [] => 0

def inetSum (b : List Byte) : Nat :=
  let n := sum16 b
  let k := n % 65536 + n / 65536
  65535 - (k % 65536 + k / 65536)

/-- A UDP datagram from a pseudo-header; a checksum that comes out as zero is sent as all ones. -/
def udpBytes (pseudo : List Byte) (src dst : Nat) (b : List Byte) (ipv6 : Bool) : List Byte :=
  let head := fun c => bytesBE 2 src ++ bytesBE 2 dst ++ bytesBE 2 (8 + b.length) ++ bytesBE 2 c
  let c := inetSum (pseudo ++ head 0 ++ b)
  head (if ipv6 then (if c = 0 then 0xFFFF else c) else 0) ++ b

/-- The IPv6 packet around a datagram; what the spec leaves open of its header is free (log 27). -/
def ipv6Packet (free : Nat → Nat) (src dst sp dp : Nat) (b : List Byte) : List Byte :=
  let addrs := bytesBE 16 src ++ bytesBE 16 dst
  bytesBE 4 (6 * 2 ^ 28 + free 1 % 2 ^ 28) ++ bytesBE 2 (8 + b.length) ++ bytesBE 1 17 ++ bytesBE 1 (free 2) ++ addrs ++
    udpBytes (addrs ++ bytesBE 4 (8 + b.length) ++ bytesBE 4 17) sp dp b true

/-- The IPv4 packet around a datagram. -/
def ipv4Packet (free : Nat → Nat) (src dst sp dp : Nat) (b : List Byte) : List Byte :=
  let addrs := bytesBE 4 src ++ bytesBE 4 dst
  let head := fun c => bytesBE 1 0x45 ++ bytesBE 1 (free 1) ++ bytesBE 2 (28 + b.length) ++ bytesBE 4 (free 3) ++ bytesBE 1 (free 2) ++
    bytesBE 1 17 ++ bytesBE 2 c ++ addrs
  head (inetSum (head 0)) ++ udpBytes [] sp dp b false

/-- The host that a packet goes to: with HOST = 1 on a session, DMOD holds its index. -/
def State.pktHost (s : State) (k : Pkt) : Option HostEnt :=
  if k.host ∧ k.sess ≠ 0xFFFF then s.reg.hosts.get none k.dmod.toNat else none

/-- The packet goes in IPv4: to a host whose entry says so (log 27). -/
def State.pktV4 (s : State) (k : Pkt) : Bool := match s.pktHost k with
  | some e => e.fam == 4
  | none => false

/-- VID and PCP of a partition's transport frames (R289). -/
def State.vidOf (s : State) (p : PartId) : Nat × Nat := match (s.part p).cfg with
  | some c => (c.vid.toNat, c.pcp.toNat)
  | none => (0, 0)

/-- The IP packet of a transport packet that leaves on a sub-port. The addresses of modules, and what else the spec gives no value, are
free values of the port and the destination (log 27). -/
def State.ipPacket (s : State) (p : PortId) (sub : SubId) (k : Pkt) : List Byte :=
  let free := fun n => Config.ipField n s.moduleId.toNat (4 * p.val + sub.val)
  let dst := match s.pktHost k with
    | some e => e.addr.toNat
    | none => Config.ipField 0 k.dmod.toNat 0
  if s.pktV4 k then ipv4Packet free (free 0) dst (udpSource k.sess) s.reg.tport.toNat (pktBytes k)
  else ipv6Packet free (free 0) dst (udpSource k.sess) s.reg.tport.toNat (pktBytes k)

/-- The destination address of a transport frame: the peer's sub-port on a Direct link, else what the spec leaves open. -/
def State.macFor (s : State) (p : PortId) (k : Pkt) : Nat :=
  let q := s.port p
  if q.state = .upDirect then subAddr q.peerMid q.peerPort.toNat 0 else Config.ipField 4 k.dmod.toNat (4 * p.val)

/-! ### Timestamps and PTP messages (12 R273; the formats are those of IEEE 1588-2019, log 12, 56) -/

/-- A big-endian field of a frame. -/
def fieldBE (bs : List Byte) (o n : Nat) : Nat := natLE ((bs.drop o).take n).reverse

/-- The time of a frame at the reference plane of a sub-port: the PHY latency before a reception, after a transmission (R273). -/
def State.phyNs (s : State) (p : PortId) (sub : SubId) : BitVec 64 := BitVec.ofNat 64 (Config.phyLatency s.fuses.otpCal (4 * p.val + sub.val))
def State.rxStamp (s : State) (p : PortId) (sub : SubId) : BitVec 64 := s.aon.time - s.phyNs p sub
def State.txStamp (s : State) (p : PortId) (sub : SubId) : BitVec 64 := s.aon.time + s.phyNs p sub

/-- A message as it leaves at a time: a one-step answer adds its turnaround to the correction field. -/
def PtpTx.onWire (m : PtpTx) (tx : BitVec 64) : List Byte := match m.since with
  | some t => patch m.bytes 8 (bytesBE 8 ((fieldBE m.bytes 8 8 + (tx - t).toNat * 65536) % 2 ^ 64))
  | none => m.bytes

/-- The UDP port of a message: 319 for event messages, 320 for the others. -/
def PtpTx.udp (m : PtpTx) : Nat := if m.event then 319 else 320

/-- What follows the source address of a message's frame. -/
def State.ptpBody (s : State) (p : PortId) (sub : SubId) (m : PtpTx) : List Byte :=
  let free := fun n => Config.ipField n s.moduleId.toNat (4 * p.val + sub.val)
  let b := m.onWire (s.txStamp p sub)
  match m.ip with
  | none => bytesBE 2 0x88F7 ++ b
  | some (true, a) => bytesBE 2 0x86DD ++ ipv6Packet free (free 0) a m.udp m.udp b
  | some (false, a) => bytesBE 2 0x0800 ++ ipv4Packet free (free 0) a m.udp m.udp b

/-- Bytes of a message's frame without FCS; a short one is filled up to 60 bytes. -/
def PtpTx.size (m : PtpTx) : Nat := max 60 (m.bytes.length + match m.ip with
  | none => 14
  | some (true, _) => 62
  | some (false, _) => 42)

/-! ### Frames on the wire -/

/-- The Ethernet CRC-32 of IEEE 802.3, as a number; its low byte is sent first. -/
def crc32Bit (c : Nat) : Nat := if c % 2 = 1 then (c / 2) ^^^ 0xEDB88320 else c / 2
def crc32Byte (c : Nat) (b : Byte) : Nat :=
  crc32Bit (crc32Bit (crc32Bit (crc32Bit (crc32Bit (crc32Bit (crc32Bit (crc32Bit (c ^^^ b.toNat))))))))
def fcsOf (bs : List Byte) : Nat := (bs.foldl crc32Byte 0xFFFFFFFF) ^^^ 0xFFFFFFFF

/-- A frame from its destination address to its last payload byte, as a sub-port sends it. -/
def State.frameBytes (s : State) (p : PortId) (sub : SubId) (f : TxFrame) : List Byte :=
  let source := bytesBE 6 (subAddr s.moduleId p.val sub.val)
  match f.body with
  | .dlc type d => bytesBE 6 dlcAddr ++ source ++ tagBytes 0 7 ++ bytesBE 2 0x88B5 ++ dlcBytes type d
  | .pkt k =>
    let v := s.vidOf k.tpart
    bytesBE 6 (s.macFor p k) ++ source ++ tagBytes v.1 v.2 ++ bytesBE 2 (if s.pktV4 k then 0x0800 else 0x86DD) ++ s.ipPacket p sub k
  | .ptp m =>
    let b := bytesBE 6 m.mac ++ source ++ s.ptpBody p sub m
    b ++ List.replicate (60 - b.length) 0
  | .raw b => b

/-- What stands on the wire: the frame and its FCS; a stomped copy ends with the complement (R283). -/
def State.wireBytes (s : State) (p : PortId) (sub : SubId) (f : TxFrame) : List Byte :=
  let b := s.frameBytes p sub f
  b ++ bytesLE 4 (if f.stomped then 0xFFFFFFFF - fcsOf b else fcsOf b)

/-- Bytes of a frame on the wire, FCS included (log 27). -/
def State.wireSize (s : State) (f : TxFrame) : Nat := match f.body with
  | .dlc .. => 68
  | .pkt k => (if s.pktV4 k then 98 else 118) + k.payload.length
  | .ptp m => m.size + 4
  | .raw b => b.length + 4

end Sys2Proof.Machine
end

