-- ==== Sys2Proof/Machine/Ptp.lean ====
section
/-! DEFINITION. The Regulator's clock: the PTP messages it answers and sends (12 R273). The messages and their exchange are those of IEEE
1588-2019 (log 12, 56). -/

namespace Sys2Proof.Machine

/-! ### Messages -/

/-- Message type, sequence number, source port identity, correction field and two-step flag of a message. -/
def ptpType (b : List Byte) : Nat := fieldBE b 0 1 % 16
def ptpSeq (b : List Byte) : Nat := fieldBE b 30 2
def ptpFrom (b : List Byte) : List Byte := (b.drop 20).take 10
def ptpCorr (b : List Byte) : Int := (BitVec.ofNat 64 (fieldBE b 8 8)).toInt
def ptpTwoStep (b : List Byte) : Bool := (fieldBE b 6 1).testBit 1

/-- The timestamp after the header, in units of 2^-16 ns. -/
def ptpStamp (b : List Byte) : Int := (fieldBE b 34 6 * 1000000000 + fieldBE b 40 4) * 65536

/-- A message of version 2 with a whole header and timestamp. -/
def ptpWhole (b : List Byte) : Bool := decide (44 ≤ b.length) && fieldBE b 1 1 % 16 == 2

/-- The port identity of a sub-port of this module: an EUI-64 of the module's address, and a port number. -/
def State.ptpId (s : State) (p : PortId) (sub : SubId) : List Byte :=
  bytesBE 8 (0x024B44 * 2 ^ 40 + 0xFFFE * 2 ^ 24 + 0x3F * 2 ^ 16 + s.moduleId.toNat) ++ bytesBE 2 (4 * p.val + sub.val + 1)

/-- The 10 bytes of a timestamp in ns. -/
def stampBytes (t : Nat) : List Byte := bytesBE 6 (t / 1000000000) ++ bytesBE 4 (t % 1000000000)

/-- A message: its header, a timestamp and what follows it. -/
def ptpMessage (type dom flags corr : Nat) (id : List Byte) (seq control : Nat) (t : Nat) (rest : List Byte) : List Byte :=
  bytesBE 1 type ++ bytesBE 1 2 ++ bytesBE 2 (44 + rest.length) ++ bytesBE 1 dom ++ bytesBE 1 0 ++ bytesBE 2 flags ++ bytesBE 8 corr ++
    bytesBE 4 0 ++ id ++ bytesBE 2 seq ++ bytesBE 1 control ++ bytesBE 1 0x7F ++ stampBytes t ++ rest

/-- Queue a message on a sub-port in class 1 (R280). -/
def State.sendPtp (s : State) (p : PortId) (sub : SubId) (m : PtpTx) : State := s.queueFrame p sub ⟨1, srcRegulator, .ptp m, 0, false⟩

def State.modClock (s : State) (f : PtpClock → PtpClock) : State := s.modReg fun r => { r with clock := f r.clock }

/-! ### Answers to delay requests -/

/-- Delay_Resp to a Delay_Req that arrived at a time. -/
def State.delayResp (s : State) (p : PortId) (sub : SubId) (rx : BitVec 64) (mac : Nat) (ip : Option (Bool × Nat)) (b : List Byte) : State :=
  s.sendPtp p sub ⟨mac, ip, false, none, 0,
    ptpMessage 9 (fieldBE b 4 1) 0 (fieldBE b 8 8) (s.ptpId p sub) (ptpSeq b) 3 rx.toNat (ptpFrom b)⟩

/-- Pdelay_Resp to a Pdelay_Req: one-step, or two-step with a Follow_Up to come; which of the two is a free value (log 1). -/
def State.peerResp (s : State) (p : PortId) (sub : SubId) (rx : BitVec 64) (mac : Nat) (ip : Option (Bool × Nat)) (b : List Byte) : State :=
  let msg := fun flags corr t => ptpMessage 3 (fieldBE b 4 1) flags corr (s.ptpId p sub) (ptpSeq b) 5 t (ptpFrom b)
  let s1 := s.freeNext
  if s.freeVal % 2 = 0 then s1.sendPtp p sub ⟨mac, ip, true, some rx, 0, msg 0 (fieldBE b 8 8) 0⟩
  else s1.sendPtp p sub ⟨mac, ip, true, none, fieldBE b 8 8, msg 0x200 0 rx.toNat⟩

/-- A PTP message has left at a time: a two-step answer is followed by its time, a request is remembered with its own. -/
def State.ptpSent (s : State) (p : PortId) (sub : SubId) (tx : BitVec 64) (f : TxFrame) : State := match f.body with
  | .ptp m => (match ptpType m.bytes with
    | 1 | 2 => s.modClock fun c => { c with t3 := some (tx.toNat * 65536) }
    | 3 =>
      if m.since.isSome then s
      else s.sendPtp p sub { m with
        event := false
        bytes := ptpMessage 10 (fieldBE m.bytes 4 1) 0 m.corr (s.ptpId p sub) (ptpSeq m.bytes) 5 tx.toNat ((m.bytes.drop 44).take 10) }
    | _ => s)
  | _ => s

/-! ### Following a master -/

/-- The offset from the master, once the latest Sync has both its times; frequency steering works against it, and the timebase never
steps (R273). -/
def PtpClock.track (c : PtpClock) : PtpClock := match c.t1 with
  | some t => { c with offset := c.t2 - t - c.delay }
  | none => c

/-- A Sync of a master arrives: its time is in it, or in the Follow_Up. A delay request answers it, to the master or to the peer as a
free value tells (log 1). -/
def State.takeSync (s : State) (p : PortId) (sub : SubId) (rx : BitVec 64) (mac : Nat) (ip : Option (Bool × Nat)) (b : List Byte) : State :=
  let c := s.reg.clock
  let kind := if s.freeVal % 2 = 0 then 1 else 2
  let rest : List Byte := if kind = 1 then [] else List.replicate 10 0
  let s1 := s.freeNext.modClock fun _ =>
    { c with
      master := ptpFrom b, syncSeq := ptpSeq b
      t1 := if ptpTwoStep b then none else some (ptpStamp b + ptpCorr b), t2 := rx.toNat * 65536 - (if ptpTwoStep b then ptpCorr b else 0)
      seq := c.seq + 1, asked := some c.seq, t3 := none, part := none }.track
  s1.sendPtp p sub ⟨mac, ip, true, none, 0, ptpMessage kind (fieldBE b 4 1) 0 0 (s.ptpId p sub) c.seq.toNat (if kind = 1 then 1 else 5) 0 rest⟩

/-- A Follow_Up gives the time of the latest Sync. -/
def PtpClock.followUp (c : PtpClock) (b : List Byte) : PtpClock :=
  if c.master = ptpFrom b ∧ c.syncSeq = ptpSeq b then { c with t1 := some (ptpStamp b + ptpCorr b) }.track else c

/-- The message answers this clock's outstanding request, which has left. -/
def PtpClock.answers (c : PtpClock) (id b : List Byte) : Option Int :=
  if (b.drop 44).take 10 = id ∧ c.asked = some (BitVec.ofNat 16 (ptpSeq b)) then c.t3 else none

/-- A Delay_Resp gives the mean path delay from the four times of a Sync and a Delay_Req. -/
def PtpClock.delayResp (c : PtpClock) (id b : List Byte) : PtpClock := match c.answers id b, c.t1 with
  | some t3, some t1 => { c with delay := ((c.t2 - t1) + (ptpStamp b - ptpCorr b - t3)) / 2, asked := none }.track
  | _, _ => c

/-- A Pdelay_Resp that arrived at a time gives the delay of the link, or waits for its Follow_Up. -/
def PtpClock.peerResp (c : PtpClock) (rx : BitVec 64) (id b : List Byte) : PtpClock := match c.answers id b with
  | some t1 =>
    let d : Int := rx.toNat * 65536 - t1 - ptpCorr b
    if ptpTwoStep b then { c with part := some (d + ptpStamp b) } else { c with delay := d / 2, asked := none }.track
  | none => c

/-- The Follow_Up of a Pdelay_Resp. -/
def PtpClock.peerFollowUp (c : PtpClock) (id b : List Byte) : PtpClock := match c.answers id b, c.part with
  | some _, some d => { c with delay := (d - ptpStamp b - ptpCorr b) / 2, asked := none, part := none }.track
  | _, _ => c

/-- A PTP message reaches the Regulator with its timestamp, its sender's addresses and its bytes (R273). -/
def State.takePtp (s : State) (p : PortId) (sub : SubId) (rx : BitVec 64) (mac : Nat) (ip : Option (Bool × Nat)) (b : List Byte) : State :=
  if !ptpWhole b then s
  else match ptpType b with
    | 0 => s.takeSync p sub rx mac ip b
    | 1 => s.delayResp p sub rx mac ip b
    | 2 => s.peerResp p sub rx mac ip b
    | 3 => s.modClock fun c => c.peerResp rx (s.ptpId p sub) b
    | 8 => s.modClock fun c => c.followUp b
    | 9 => s.modClock fun c => c.delayResp (s.ptpId p sub) b
    | 10 => s.modClock fun c => c.peerFollowUp (s.ptpId p sub) b
    | _ => s

end Sys2Proof.Machine
end

