-- ==== Sys2Proof/Machine/Receive.lean ====
section
/-! DEFINITION. What the transport and the collective engine do with what arrives and when their timers run out
(13 R289 to R310, R317, 17 R393, R396, R398). -/

namespace Sys2Proof.Machine

/-! ### The checks of every packet (13 R290) -/

/-- A packet with a bad TCRC, or with a bad header, is dropped and counted; any other goes on. Nothing arrives while the ports or
the engine are in reset, asleep or quiesced (15 R351, 16 R374, 17 R399). -/
def State.checked (s : State) (k : Pkt) (f : State) : State :=
  if !s.portsRun then s
  else if !k.tcrcOk then s.countPart k.tpart .tpCksum 1
  else if k.ver ≠ 1 ∨ typeReserved k.type = true then s.countPart k.tpart .tpBadhdr 1
  else f

/-- The open session that a packet names, with its addressing. -/
def State.sessOfPkt (s : State) (k : Pkt) : Option (Nat × Session) := match s.sess k.sess.toNat with
  | some d => if d.part = k.tpart ∧ d.peer = k.smod ∧ d.hostBit = k.host then some (k.sess.toNat, d) else none
  | none => none

/-- A good packet for an open session wakes the module from S1 and S2 (16 R375). -/
def State.wokenBy (s : State) (k : Pkt) : State :=
  if s.portsRun && k.tcrcOk && k.ver == 1 && (match s.sessOfPkt k with
    | some (_, d) => d.opened
    | none => false) then s.wakeShallow else s

/-- Something has arrived on a session, with a cumulative acknowledgement (R292, R294). -/
def State.heardOn (s : State) (i : Nat) (d : Session) (k : Pkt) : State :=
  s.setSess i (some { (d.ackTo k.apsn) with lastHeard := s.aon.time })

/-- Send what the window of a session allows now. -/
def State.pumpAll (s : State) (i : Nat) : State := match s.sess i with
  | some d => s.pump i d.waiting.length
  | none => s

/-- A good reliable packet of an open session is new and lies in the receive window (R292). -/
def State.accepts (s : State) (d : Session) (k : Pkt) : Bool :=
  let ahead := (k.psn - d.rxNext).toNat
  s.portsRun && k.tcrcOk && k.ver == 1 && decide (ahead < 1024) && !d.rxGot.contains k.psn && !d.refuses k.psn

/-- A reliable packet: a duplicate is acknowledged again, one beyond the window is dropped, any other acts, and is accepted
unless its destination has no place for it (the flag of `act`). One that is refused is accepted when its refusal has been
acknowledged (log 23). -/
def State.takeReliable (s : State) (k : Pkt) (act : State → Nat → Session → Bool × State) : State :=
  s.checked k (match s.sessOfPkt k with
    | none => s
    | some (i, d) =>
      let s1 := s.heardOn i d k
      let ahead := (k.psn - d.rxNext).toNat
      if !d.opened then s1
      else if 2 ^ 31 ≤ ahead ∨ d.rxGot.contains k.psn = true then (s1.sendAck i).pumpAll i
      else if 1024 ≤ ahead ∨ d.refuses k.psn = true then s1.pumpAll i
      else match act s1 i d with
        | (true, s2) => (if (s2.sess i).any fun e => e.refuses k.psn then s2 else s2.book i k).pumpAll i
        | (false, s2) => s2.pumpAll i)

/-! ### DATA: messages to queues (R292, R306, 10 R240, 05 R106) -/

/-- Answer a request or a message with a refusal (R296, log 23), a message with a number of its own; the packet is accepted once
the refusal has been acknowledged. -/
def State.refuse (s : State) (i : Nat) (k : Pkt) (what : BitVec 32) : State :=
  let w := s.sendList i fun z => [{ z with
    dq := k.dq, coll := k.coll, ret := true, cgrp := k.cgrp, first := true, last := true, ofs := what }]
  match w.2.sess i with
  | none => w.2
  | some d => w.2.setSess i (some { d with refusing := d.refusing ++ [(k.psn, w.1)] })

/-- Bytes received of an item. -/
def Item.got (i : Item) : Nat := (i.ranges.map (·.2)).sum

/-- Enter a piece of a message. -/
def Item.piece (i : Item) (k : Pkt) : Item :=
  let r := i.ranges ++ [(k.ofs.toNat, k.payload.length)]
  let total := if k.last then some (k.ofs.toNat + k.payload.length) else i.total
  let got := (r.map (·.2)).sum
  { i with ranges := r, total := total, bytes := got, full := i.full || total == some got }

/-- Use a credit that a session holds. -/
def Queue.useHeld (q : Queue) (i : Nat) : Queue := { q with held := q.held.set 0 i (q.held.get 0 i - 1) }

/-- The item of a message, opened by its first packet: none while a slotted queue has no slot, or a posted queue no RECV. -/
def State.openItem (s : State) (q : Queue) (i : Nat) (d : Session) (k : Pkt) : Option (Queue × Item) :=
  match q.items.find? fun x => x.msg == some (i, k.msg) with
  | some x => some (q, x)
  | none =>
    if q.slotted then
      if q.room && q.slotFree q.ppos then
        let ts := s.aon.time
        let q1 := (q.alloc fun x => { x with closed := true, msg := some (i, k.msg), src := some d.peer, ts := ts }).useHeld i
        (q1.item q.ppos).map fun x => (q1, x)
      else none
    else match q.items.find? fun x => x.grantedTo == some i && x.msg.isNone && !x.full with
      | some x => let y := { x with msg := some (i, k.msg), closed := true, src := some d.peer }
                  some ((q.useHeld i).putItem y, y)
      | none => match q.items.find? (s.recvOpen d.peer) with
        | some x => let y := { x with msg := some (i, k.msg), closed := true, src := some d.peer }
                    some (q.putItem y, y)
        | none => none

/-- The RECV of a posted item, when it has not finished. -/
def State.recvLive (s : State) (x : Item) : Option (CoreId × Nat × RecvLine) := match s.recvLine x with
  | some (c, tok, l) => (match (s.core c).slot tok with
    | some y => if y.stage.isDone then none else some (c, tok, l)
    | none => none)
  | none => none

/-- A packet of a message reaches its queue; it waits for the queue's descriptor (10 R221), and one whose write does not land is not
entered (10 R220). -/
def State.messagePacket (s : State) (i : Nat) (d : Session) (k : Pkt) : Bool × State :=
  match s.queue k.dq with
  | none => (true, s.refuse i k k.msg)
  | some q =>
    if !q.isRxp || q.part != d.part || isMbQueue k.dq then (true, s.refuse i k k.msg)
    else if !s.cached k.dq then (false, s.hold (.data k))
    else match s.openItem q i d k with
      | none => (false, s)
      | some (q1, x) =>
        let y := x.piece k
        if q.slotted then
          let w := s.writeQueue q1 (q1.slotOff x.n + k.ofs.toNat) (k.payload.take (q.slotb - k.ofs.toNat))
          let s1 := w.2.setQueue k.dq (q1.putItem (if w.1 then y else x))
          (true, if w.1 then s1 else s1.partFault q.part (if q.memCs then 1 else 5) none)
        else
          let z := { y with data := Mem.writeN y.data k.ofs.toNat k.payload }
          let s1 := s.setQueue k.dq (q1.putItem z)
          match s.recvLive x with
          | none => (true, s1)
          | some (c, tok, l) =>
            if !s.recvStarted x then (true, s1)
            else
              let w := s1.recvPiece c q.part l z.data z.ranges z.total k.ofs.toNat k.payload
              (true, if !w.1 then w.2.recvFailed c q.part tok l
                else if z.full then w.2.complete c tok (recvReport l z.data (z.total.getD 0) false) else w.2)

/-! ### DATA: the other operations -/

/-- A contribution to super-blocks of a shard; one that finds no context free is not accepted (R300 to R302). -/
def State.rsPacket (s : State) (i : Nat) (d : Session) (k : Pkt) : Bool × State :=
  let n := bitsOf k.arg.toNat 16 3
  match s.rsRun d.part d.peer k.dq.toNat k.step k.cgrp k.ofs.toNat (cutSbs k.payload n) false with
  | some (bad, s1) => (true, if bad then s1.refuse i k k.msg else s1)
  | none => (false, s.countPart d.part .rsNoctx 1)

/-- A gather request at the owner (R304). -/
def State.gatherPacket (s : State) (i : Nat) (d : Session) (k : Pkt) : State :=
  let n := fieldLE k.payload 0 4
  s.gatherTake ((List.range n).map fun j => ⟨d.part, some i, 0, 0, k.dq.toNat, k.ofs.toNat + j, j, k.step⟩)

/-- A RECV that waits for a reply of a peer about a shard. -/
def State.gatherFrom (s : State) (p : PartId) (peer : BitVec 14) (shard : Nat) (x : Xfer) : Bool :=
  x.part == p && x.peers == [peer] && (match (s.core x.core).slot x.token with
    | some y => (match y.line with
      | .recv l => (match s.exchOf p l.sq with
        | some e => e.shard.toNat == shard
        | none => false)
      | _ => false)
    | none => false)

/-- A reply to a gather request. -/
def State.gatherReplyIn (s : State) (d : Session) (k : Pkt) : State :=
  match s.gatherXfer (s.gatherFrom d.part d.peer k.dq.toNat) k.ofs.toNat with
  | some x => s.gatherAnswer x k.ofs.toNat (if !k.payload.isEmpty then .data k.payload else if k.arg = 1 then .denied else .refused)
  | none => s

/-- A peer reads this partition's HBM for a KIND 1 descriptor, under PR (R296, 10 R229; the request and the answer are the
model's form, log 23). -/
def State.serveRead (s : State) (i : Nat) (d : Session) (k : Pkt) (va n : Nat) (tag : BitVec 32) : State :=
  match (s.part d.part).checkRange va n .pr with
  | some _ => s.refuse i k k.msg
  | none => match s.readHbm d.part va n with
    | (none, s1) => s1.partFault d.part 5 none
    | (some bs, s1) => (s1.sendList i fun z => permPackets z 2 tag 0 0 bs (n / 8160 + 1)).2

/-- The tag of a read of image `img` for the request of a mailbox: no queue identifier reaches it (log 23). -/
def imageTag (m : MbId) (img : Nat) : BitVec 32 := BitVec.ofNat 32 (2 ^ 31 + 16 * img + m.val)

/-- A header of an image that a CHECKPOINT or RESTORE asked its buddy for has come (14 R347). -/
def State.headIn (s : State) (i : Nat) (tag : BitVec 32) (b : List Byte) : State :=
  let m : MbId := Fin.ofNat 16 (tag.toNat % 16)
  match (s.mb m).busy with
  | some r => (match r.copy with
    | .probe j k hs =>
      if j = i ∧ 2 ^ 31 ≤ tag.toNat then
        s.modMb m fun x => { x with busy := some { r with copy := .probe j k ((tag.toNat / 16 % 2, b) :: hs) } }
      else s
    | _ => s)
  | none => s

/-- A relayed message (R316), data of a PERMUTE move (R310) or of a checkpoint (R319), or a read of a KIND 1 descriptor (log 23). What a read brings back reaches its slot with
TRANSFER_LANDED. -/
def State.permPacket (s : State) (i : Nat) (d : Session) (k : Pkt) : State :=
  let va := fieldLE k.payload 0 8
  let n := fieldLE k.payload 8 4
  let pid := BitVec.ofNat 32 (fieldLE k.payload 12 4)
  let kind := fieldLE k.payload 16 1
  if kind = 4 ∨ kind = 5 then s.relayPiece i d k (Fin.ofNat 64 pid.toNat) (kind == 5) ((k.payload.drop 32).take n)
  else if d.relay then s.refuse i k k.msg
  else if kind = 1 then s.serveRead i d k va n pid
  else if kind = 2 then s.headIn i pid ((k.payload.drop 32).take n)
  else match (s.part d.part).checkRange va n .pw with
  | some _ => s.refuse i k k.msg
  | none =>
    let w := s.writeHbm d.part va ((k.payload.drop 32).take n)
    let s1 := w.2.modEng fun e => { e with xfers := e.xfers.map fun x =>
      if kind = 0 ∧ x.part = d.part then { x with perm := x.perm.map fun r => if r.pid = pid then { r with inLeft := r.inLeft - n } else r } else x }
    if w.1 then s1 else s1.partFault d.part 5 none

/-- The mailboxes whose CHECKPOINT or RESTORE sends message `msg` on session `i`. -/
def State.copiers (s : State) (i : Nat) (msg : BitVec 32) : List MbId :=
  allMbs.filter fun m => match (s.mb m).busy with
    | some r => (match r.copy with
      | .data j k _ _ => j == i && k == msg
      | .header j k | .probe j k _ | .fetch j k => j == i && k == msg
      | _ => false)
    | none => false

/-- The buddy refuses a checkpoint's copy, or a read of its images, for its rights (R296, 14 Table 14.9). -/
def State.copyRefused (s : State) : List MbId → State
  | [] => s
  | m :: ms => State.copyRefused (s.respond m stAccess 0 []) ms

/-- A refusal comes back: of a credit request, of a contribution, or of a message (log 23). -/
def State.refusalIn (s : State) (i : Nat) (k : Pkt) : State :=
  if k.coll = 0 ∧ k.ofs = 0xFFFFFFFF then match s.sess i with
    | some d => s.setSess i (some { d with asked := d.asked.erase k.dq, slotbs := d.slotbs.set 0 k.dq.toNat refusedSlotb })
    | none => s
  else
    let hit := fun (x : Xfer) => x.msgs.contains (i, k.ofs)
    if k.coll = 1 then s.modEng fun e => { e with xfers := e.xfers.map fun x => if hit x then { x with refused := true } else x }
    else match s.eng.xfers.find? hit with
      | some x => s.endXfers hit (s.refusedReport x)
      | none => s.copyRefused (s.copiers i k.ofs)

/-- A reserved code of COLL or FMT, which fails the message that carries it (00 R10, 05 Table 5.17, 02 Table 2.6). -/
def badDataCode (k : Pkt) : Bool := decide (6 ≤ k.coll.toNat) || (Fmt.ofCode k.fmt).isNone

/-- A DATA packet acts by its COLL and RET (Table 13.1). An all-to-all message acts when it is whole, by rows of its own. -/
def State.dataIn (s : State) (i : Nat) (d : Session) (k : Pkt) : Bool × State :=
  if d.host.isSome || k.coll = 3 then (true, s)
  else if badDataCode k || (d.relay && k.coll != 5) then (true, if k.ret then s else s.refuse i k k.msg)
  else if k.ret then (true, if k.coll = 2 then s.gatherReplyIn d k else s.refusalIn i k)
  else if k.coll = 1 then s.rsPacket i d k
  else if k.coll = 2 then (true, s.gatherPacket i d k)
  else if k.coll = 5 then (true, s.permPacket i d k)
  else s.messagePacket i d k

/-- DATA_RECEIVE (R292). -/
def execDataReceive (k : Pkt) (s : State) : Host.Outcome State Fault Refusal :=
  .next ((s.wokenBy k).takeReliable { k with type := tyData } fun t i d => t.dataIn i d k).settle

/-- RS_CONTRIBUTION_RECEIVE (R300 to R302). -/
def execRsContributionReceive (k : Pkt) (s : State) : Host.Outcome State Fault Refusal :=
  .next ((s.wokenBy k).takeReliable { k with type := tyData } fun t i d => t.rsPacket i d { k with coll := 1 }).settle

/-- GATHER_REQUEST_RECEIVE (R304, 01 R17). -/
def execGatherRequestReceive (k : Pkt) (s : State) : Host.Outcome State Fault Refusal :=
  .next ((s.wokenBy k).takeReliable { k with type := tyData } fun t i d => (true, t.gatherPacket i d { k with coll := 2 })).settle

/-! ### All-to-all messages (R306, R307) -/

/-- The open session that an all-to-all message arrived on. -/
def State.a2aSess (s : State) (m : A2aMsg) : Option Session := match s.sess m.sess.toNat with
  | some d => if s.portsRun = true ∧ d.opened ∧ d.hostBit = false then some d else none
  | none => none

/-- A2A_MESSAGE_RECEIVE (R306). -/
def execA2aMessageReceive (m : A2aMsg) (s : State) : Host.Outcome State Fault Refusal :=
  match s.a2aSess m with
  | some d => .next (s.wakeShallow.a2aDeliver d.part d.peer m).settle
  | none => .next s

/-- A2A_RETURN_RECEIVE (R307, 07 R153). -/
def execA2aReturnReceive (m : A2aMsg) (s : State) : Host.Outcome State Fault Refusal :=
  match s.a2aSess m with
  | some d => .next (s.wakeShallow.a2aReturned d.part d.peer m).settle
  | none => .next s

/-! ### Acknowledgements, keepalives and timers (R292 to R294) -/

/-- One loss event for each packet of a list. -/
def Session.losses (d : Session) : List Unacked → Session
  | [] => d
  | _ :: us => d.loss.losses us

/-- An ACK of the CLOSE of a closed session (R290). -/
def State.closeAcked (s : State) (k : Pkt) : State := match s.closing k.sess.toNat with
  | some d =>
    if d.part = k.tpart ∧ d.peer = k.smod ∧ d.hostBit = k.host ∧ (d.ackTo k.apsn).unacked = [] then s.dropClosing k.sess.toNat else s
  | none => s

/-- An ACK's bits mark what was accepted out of order; what three later acceptances report missing is sent again. -/
def State.takeAck (s : State) (k : Pkt) : State :=
  s.checked k (match s.sessOfPkt k with
    | none => s.closeAcked k
    | some (i, d) =>
      let s1 := s.heardOn i d k
      match s1.sess i with
      | none => s1
      | some e =>
        let f := e.sack k.apsn (fieldLE k.payload 0 8)
        let miss := f.missing
        let g := { (f.losses miss) with unacked := f.unacked.map fun u =>
          if (miss.any fun v => v.pkt.psn == u.pkt.psn) then { u with resent := true } else u }
        ((s1.setSess i (some g)).resend d.part miss).pumpAll i)

/-- ACK_RECEIVE (R293). -/
def execAckReceive (k : Pkt) (s : State) : Host.Outcome State Fault Refusal := .next ((s.wokenBy k).takeAck { k with type := tyAck }).settle

/-- KEEPALIVE_RECEIVE (R294). -/
def execKeepaliveReceive (k : Pkt) (s : State) : Host.Outcome State Fault Refusal :=
  let s := s.wokenBy k
  let k := { k with type := tyKeepalive }
  .next (s.checked k (match s.sessOfPkt k with
    | some (i, d) => (s.heardOn i d k).pumpAll i
    | none => s)).settle

/-- ACK_TIMER (R292): 2 µs after the first packet not yet acknowledged. -/
def execAckTimer (sess : BitVec 13) (s : State) : Host.Outcome State Fault Refusal :=
  match s.sess sess.toNat with
  | some d => if d.opened && decide (0 < d.sinceAck) then .next (s.sendAck sess.toNat).settle else .next s
  | none => .next s

/-- The timer of a CLOSE expires (R290, R293). -/
def State.resendClose (s : State) (i : Nat) (psn : BitVec 32) : State := match s.closing i with
  | some d => s.resend d.part (d.unacked.filter fun u => u.pkt.psn == psn)
  | none => s

/-- RETRANSMIT_TIMER (R293): the timer of one packet expires. -/
def execRetransmitTimer (sess : BitVec 13) (psn : BitVec 32) (s : State) : Host.Outcome State Fault Refusal :=
  match s.sess sess.toNat with
  | none => .next (s.resendClose sess.toNat psn).settle
  | some d => match d.unacked.find? fun u => u.pkt.psn == psn && !u.sacked with
    | none => .next s
    | some u =>
      let e := { d.loss with unacked := d.unacked.map fun v =>
        if v.pkt.psn = psn then { v with expiries := v.expiries + 1 } else v }
      .next ((s.setSess sess.toNat (some e)).resend d.part [u]).settle

/-- KEEPALIVE_TIMER (R294): 50 µs after the session last sent. -/
def execKeepaliveTimer (sess : BitVec 13) (s : State) : Host.Outcome State Fault Refusal :=
  match s.sess sess.toNat with
  | none => .next s
  | some d =>
    if d.opened then
      let s1 := s.advanceTo (d.lastSent.toNat + 50000)
      .next (s1.emit sess.toNat d (s1.mkPkt d tyKeepalive (List.replicate 32 0))).settle
    else .next s

/-- KEEPALIVE_SILENCE (R294, R317): 200 µs after the session last heard its peer; a session with a host closes, and the CLOSE of
a closed session is given up. -/
def execKeepaliveSilence (sess : BitVec 13) (s : State) : Host.Outcome State Fault Refusal :=
  match s.sess sess.toNat with
  | none => .next (s.dropClosing sess.toNat)
  | some d =>
    let s1 := s.advanceTo (d.lastHeard.toNat + 200000)
    .next (if d.host.isSome then s1.closeSess sess.toNat none else s1.declareLost d.peer 2).settle

/-! ### Opening and closing (R291, R393, R315, R398) -/

end Sys2Proof.Machine

namespace Sys2Proof

open Sys2Proof.Machine

/-- The JOBID and session index of an OPEN or OPEN_ACK. -/
def Pkt.jobid (k : Pkt) : Nat := fieldLE k.payload 0 4
def Pkt.index (k : Pkt) : BitVec 16 := BitVec.ofNat 16 (fieldLE k.payload 4 2)

end Sys2Proof

namespace Sys2Proof.Machine

/-- A CLOSE that answers this OPEN already waits for its acknowledgement. -/
def State.refusing (s : State) (k : Pkt) : Option Nat :=
  (s.eng.closings.find? fun e => match e.2 with
    | some d => d.part == k.tpart && d.peer == k.smod && d.hostBit == k.host && d.peerSess == k.index && !d.opened
    | none => false).map (·.1)

/-- Answer an OPEN with CLOSE. It takes a session index and a PSN drawn like any session's, and is kept until it is acknowledged;
with no index free it answers each repetition of the OPEN anew (R290, R291, log 21). -/
def State.refuseOpen (s : State) (k : Pkt) (reason : Nat) (log : Bool) : State :=
  if (s.refusing k).isSome then s
  else
    let s1 := if log then s.logEvent evSessionRefused 49 k.tpart.val (bytesLE 2 k.smod.toNat ++ bytesLE 1 k.tpart.val ++ bytesLE 4 reason) else s
    match s1.newSess k.tpart k.smod none false with
    | (some (i, d), s2) =>
      (s2.setSess i none).sendClose i { d with
        host := if k.host then some 0 else none, peerSess := k.index, rxNext := k.psn + 1, lastHeard := s.aon.time } reason
    | (none, s2) => s2.txPkt k.tpart { k with
        type := tyClose, smod := s.moduleId, dmod := k.smod, sess := k.index, psn := BitVec.ofNat 32 s2.freeVal, apsn := k.psn + 1
        first := false, last := false, acknow := false, payload := padTo 32 (bytesLE 4 reason) }

/-- The host whose address an OPEN with HOST = 1 comes from. -/
def State.hostAt (s : State) (addr : BitVec 128) : Option (Fin 64) :=
  (List.finRange 64).find? fun h => match s.reg.hosts.get none h.val with
    | some e => e.fam != 0 && e.addr == addr
    | none => false

/-- Complete a session with what the peer's OPEN or OPEN_ACK says. -/
def Session.join (d : Session) (k : Pkt) (now : BitVec 64) : Session :=
  { d with peerSess := k.index, rxNext := k.psn + 1, rxGot := [], opened := true, sinceAck := d.sinceAck + 1, lastHeard := now }

/-- Answer an OPEN on a session. -/
def State.ackOpen (s : State) (i : Nat) (d : Session) (k : Pkt) : State :=
  let e := d.join k s.aon.time
  (s.emit i e (s.mkPkt e tyOpenAck (openPayload (s.jobid d.part) i))).pumpAll i

/-- Open a new session for an OPEN, or refuse it when none is free. -/
def State.openNew (s : State) (k : Pkt) (h : Option (Fin 64)) (relay : Bool) : State :=
  match s.newSess k.tpart k.smod h relay with
  | (some (i, d), s1) => s1.ackOpen i d k
  | (none, s1) => s1.refuseOpen k 3 true

/-- An OPEN between two modules, whose session `i` is if they have one: one that names another index than the open session has no
effect, since a session closes only by CLOSE, deletion or loss. -/
def State.openPeer (s : State) (k : Pkt) (i : Option Nat) (relay : Bool) : State :=
  match i with
  | none => s.openNew k none relay
  | some i => match s.sess i with
    | none => s
    | some d =>
      if !d.opened then s.ackOpen i d k
      else if d.peerSess = k.index then s.sendAck i
      else s

/-- An OPEN arrives (R291, R315, R398). A relay session is opened by a module of the group, over the direct link to it (log 33). -/
def State.takeOpen (s : State) (k : Pkt) (addr : BitVec 128) : State :=
  s.checked k (
    if s.reg.midConflict then s.refuseOpen k 1 false
    else if k.host ∧ k.coll = collRelay then
      (if (s.directTo k.smod).isSome then s.openPeer { k with tpart := 0 } (s.findRelay k.smod) true else s.refuseOpen k 2 true)
    else if k.host then match s.hostAt addr with
      | some h =>
        if (s.jobid k.tpart).toNat ≠ k.jobid then s.refuseOpen k 2 true
        else match s.hostSess h with
          | some i => (match s.sess i with
            | some d => if d.peerSess = k.index then s.sendAck i else s
            | none => s)
          | none => s.openNew k (some h) false
      | none => s.refuseOpen k 2 true
    else if !s.partExists k.tpart || (s.jobid k.tpart).toNat != k.jobid then s.refuseOpen k 2 true
    else s.openPeer k (s.findSess k.tpart k.smod) false)

/-- OPEN_RECEIVE (R291). -/
def execOpenReceive (k : Pkt) (addr : BitVec 128) (s : State) : Host.Outcome State Fault Refusal :=
  .next (s.takeOpen { k with type := tyOpen } addr).settle

/-- OPEN_ACK_RECEIVE (R291). On a session that is open already, as where two OPENs cross, it is a reliable packet like any other
(R292). -/
def execOpenAckReceive (k : Pkt) (s : State) : Host.Outcome State Fault Refusal :=
  let s := s.wokenBy k
  let k := { k with type := tyOpenAck }
  .next (s.checked k (match s.sessOfPkt k with
    | none => s
    | some (i, d) =>
      if d.opened then s.takeReliable k fun t _ _ => (true, t)
      else (s.setSess i (some ((d.ackTo k.apsn).join k s.aon.time))).pumpAll i)).settle

/-- A transfer needs the session with module `m`: it names it, or it is a broadcast to a group of which `m` is a member, or the return
leg of an item to which `m` sent rows. -/
def State.needsPeer (s : State) (x : InFlight) (m : BitVec 14) : Bool := match x.line with
  | .send l =>
    if l.coll = 4 then (s.cgroup l.cgrp).any fun g => g.members.contains m
    else if l.coll = 3 then x.item.any fun i => i.2.heard.contains m
    else x.names m
  | _ => x.names m

/-- A refused session ends the transfers that need it with ST_ACCESS (R291). -/
def State.sessionRefused (s : State) (i : Nat) (d : Session) : State :=
  if d.relay then s.closeSess i none else
  let via := fun (c : CoreId) (tok : Nat) => s.eng.xfers.any fun x => x.core == c && x.token == tok && x.peers.contains d.peer && x.part == d.part
  (s.closeSess i none).endTransfers (fun c x => (s.core c).part == some d.part && x.isTransfer && (s.needsPeer x d.peer || via c x.token)) (Report.bad stAccess 0)

/-- A CLOSE takes effect on the session it names: an unopened session, or an open one whose window holds its PSN. A session with a
host and a relay session close; reasons 1 and 4 are the loss of the peer's partition (17 R393); reasons 2 and 3 end the
transfers that need the session; an undefined reason changes nothing (00 R10). -/
def State.closeBy (s : State) (i : Nat) (d : Session) (reason : Nat) : State :=
  if reason = 0 ∨ 4 < reason then s
  else if d.hostBit then s.closeSess i none
  else if reason = 1 ∨ reason = 4 then
    if d.opened then s.peerPartLost i
    else (s.sessionRefused i d).applyLoss d.peer (fun g => g.part == d.part && g.members.contains d.peer) [i] (some d.part)
  else s.sessionRefused i d

/-- CLOSE_RECEIVE (R291, R292, R393): on an open session the CLOSE is a reliable packet like any other, and its ACK leaves before the
session closes. -/
def execCloseReceive (k : Pkt) (s : State) : Host.Outcome State Fault Refusal :=
  let s := s.wokenBy k
  let k := { k with type := tyClose, acknow := true }
  let reason := fieldLE k.payload 0 4
  .next (match s.sessOfPkt k with
    | none => s.checked k s
    | some (i, d) =>
      if d.opened then
        let s1 := s.takeReliable k fun t _ _ => (true, t)
        if s.accepts d k then s1.closeBy i d reason else s1
      else s.checked k (s.closeBy i d reason)).settle

/-! ### Credits (R295, R306) -/

/-- A credit request at this module. -/
def State.creditAsked (s : State) (i : Nat) (d : Session) (k : Pkt) (dq : Qid) : State :=
  let a2a := k.coll == 3
  let ok := match s.queue dq with
    | some q => q.isRxp && q.part == d.part && !isMbQueue dq && (!a2a || q.slotted)
    | none => false
  if ok then match s.queue dq with
    | some q => s.setQueue dq { q with waiters := q.waiters ++ [(i, a2a)] }
    | none => s
  else if a2a then s.sendCredit i dq 1 0 true
  else s.refuse i { k with dq := dq, coll := 0 } 0xFFFFFFFF

/-- A grant: an all-to-all message that waits for it goes at once. -/
def State.creditGranted (s : State) (i : Nat) (k : Pkt) (dq : Qid) (n slotb : Nat) : State :=
  match s.sess i with
  | none => s
  | some d =>
    if k.coll = 3 then match d.a2aWait.find? fun m => m.dq == dq with
      | some m => ((s.setSess i (some { d with a2aWait := d.a2aWait.erase m })).sendMsg i
          (fun z => { z with dq := m.dq, coll := 3, ret := m.ret, cgrp := m.cgrp }) m.payload).2
      | none => s.setSess i (some { d with credits := d.credits.set 0 dq.toNat (d.credits.get 0 dq.toNat + n) })
    else s.setSess i (some { d with
      credits := d.credits.set 0 dq.toNat (d.credits.get 0 dq.toNat + n)
      slotbs := d.slotbs.set 0 dq.toNat slotb
      asked := d.asked.erase dq })

/-- CREDIT_RECEIVE (R295, 10 R240). -/
def execCreditReceive (k : Pkt) (s : State) : Host.Outcome State Fault Refusal :=
  .next ((s.wokenBy k).takeReliable { k with type := tyCredit } fun t i d =>
    let dq := BitVec.ofNat 20 (fieldLE k.payload 0 4)
    let n := fieldLE k.payload 4 4
    (true, if n = 0 then t.creditAsked i d k dq else t.creditGranted i k dq n (fieldLE k.payload 8 4))).settle

/-! ### Notices (R303, R310, R317) -/

/-- NOTICE_SKIP (09 R213, R215). -/
def execNoticeSkip (k : Pkt) (s : State) : Host.Outcome State Fault Refusal :=
  .next ((s.wokenBy k).takeReliable { k with type := tyNotice } fun t _ d => (true, t.noteSkip d.part k.step)).settle

/-- NOTICE_NORM (R303, 09 R203). An engine that owns no super-block closes a step once it hears of it (log 48). -/
def execNoticeNorm (k : Pkt) (s : State) : Host.Outcome State Fault Refusal :=
  .next ((s.wokenBy k).takeReliable { k with type := tyNotice } fun t _ d =>
    (true, (t.noteNorm d.part d.peer k.step ⟨BitVec.ofNat 128 (fieldLE k.payload 4 16), BitVec.ofNat 2 (fieldLE k.payload 20 1), false⟩).closeIfDone d.part k.step)).settle

/-- NOTICE_PEER_LOST (R317). -/
def execNoticePeerLost (k : Pkt) (s : State) : Host.Outcome State Fault Refusal :=
  .next ((s.wokenBy k).takeReliable { k with type := tyNotice } fun t _ _ =>
    (true, t.declareLost (BitVec.ofNat 14 (fieldLE k.payload 4 2)) (fieldLE k.payload 6 2))).settle

/-- NOTICE_READY (R310). -/
def execNoticeReady (k : Pkt) (s : State) : Host.Outcome State Fault Refusal :=
  .next ((s.wokenBy k).takeReliable { k with type := tyNotice } fun t _ d =>
    (true, t.modEng fun e => { e with ready := (d.part, fieldLE k.payload 4 4, d.peer) :: e.ready.erase (d.part, fieldLE k.payload 4 4, d.peer) })).settle

end Sys2Proof.Machine
end

