-- ==== Sys2Proof/Machine/Frames.lean ====
section
/-! DEFINITION. Frames on the fabric ports: the receive order, steering, assembly, forwarding and the transmit scheduler
(12 R273 to R284). -/

namespace Sys2Proof.Machine

/-! ### Parsing (R275) -/

/-- What the frame MAC parses of a frame: `l3` is the offset after the EtherType that `etype` gives, `udp` the offset of a
parsed UDP header, `ipv6` its family. -/
structure Parsed where
  dst : Nat
  src : Nat
  vid : Nat
  pcp : Nat
  etype : Nat
  l3 : Nat
  udp : Option Nat
  ipv6 : Bool
  deriving DecidableEq, Repr

/-- The UDP header of an IPv4 packet that is no fragment, or of an IPv6 packet without extension headers. -/
def findUdp (f : List Byte) (etype l3 : Nat) : Option Nat :=
  let u :=
    if etype = 0x0800 then
      (if fieldBE f (l3 + 9) 1 = 17 ∧ fieldBE f (l3 + 6) 2 % 0x4000 = 0 then some (l3 + 4 * (fieldBE f l3 1 % 16)) else none)
    else if etype = 0x86DD then (if fieldBE f (l3 + 6) 1 = 17 then some (l3 + 40) else none)
    else none
  match u with
  | some o => if o + 8 ≤ f.length then some o else none
  | none => none

/-- Parse a frame from its destination address to its last payload byte; only the first tag is read. -/
def parseFrame (f : List Byte) : Parsed :=
  let tagged := fieldBE f 12 2 = 0x8100
  let tci := if tagged then fieldBE f 14 2 else 0
  let et := if tagged then fieldBE f 16 2 else fieldBE f 12 2
  let l3 := if tagged then 18 else 14
  let deep := et = 0x8100 ∨ et = 0x88A8
  ⟨fieldBE f 0 6, fieldBE f 6 6, tci % 4096, tci / 8192, et, l3, if deep then none else findUdp f et l3, decide (et = 0x86DD)⟩

/-- The UDP payload of a frame. -/
def udpPayload (f : List Byte) (u : Nat) : List Byte := (f.drop (u + 8)).take (fieldBE f (u + 4) 2 - 8)

/-- UDP destination port. -/
def udpPort (f : List Byte) (u : Nat) : Nat := fieldBE f (u + 2) 2

/-- The transport partition field: in UDP packets to the transport port (R275, 13 R289). -/
def State.tpartOf (s : State) (f : List Byte) (q : Parsed) : Option Nat := match q.udp with
  | some u => if udpPort f u = s.reg.tport.toNat ∧ 2 ≤ (udpPayload f u).length then some (fieldLE (udpPayload f u) 1 1 % 8) else none
  | none => none

/-! ### Transport packets on the wire (13 Table 13.1) -/

/-- A transport packet of a UDP payload; shorter than its header it is none. -/
def pktOfBytes (b : List Byte) : Option Pkt :=
  if b.length < 48 then none
  else
    let n := fun o k => fieldLE b o k
    let dqw := n 0x10 4
    let fl := n 0x17 1
    some {
      ver := BitVec.ofNat 4 (n 0 1), type := BitVec.ofNat 4 (n 0 1 / 16)
      tpart := Fin.ofNat 8 (n 1 1), host := (n 1 1).testBit 3
      smod := BitVec.ofNat 14 (n 2 2), dmod := BitVec.ofNat 14 (n 4 2), sess := BitVec.ofNat 16 (n 6 2)
      psn := BitVec.ofNat 32 (n 8 4), apsn := BitVec.ofNat 32 (n 12 4)
      dq := BitVec.ofNat 20 dqw, coll := BitVec.ofNat 3 (dqw / 2 ^ 20), ret := dqw.testBit 23
      cgrp := BitVec.ofNat 16 (n 0x14 2), fmt := BitVec.ofNat 4 (n 0x16 1)
      first := fl.testBit 0, last := fl.testBit 1, acknow := fl.testBit 2
      msg := BitVec.ofNat 32 (n 0x18 4), ofs := BitVec.ofNat 32 (n 0x1C 4)
      step := BitVec.ofNat 32 (n 0x20 4), arg := BitVec.ofNat 32 (n 0x24 4)
      tcrcOk := n 0x28 4 == crc32c (patch b 0x28 (bytesLE 4 0))
      payload := b.drop 48 }

/-- The state an outcome leaves; an outcome that is no next state leaves the state it started from. -/
def afterOutcome (s : State) : Host.Outcome State Fault Refusal → State
  | .next t => t
  | _ => s

/-- A NOTICE acts by its kind (13 Table 13.5); another kind is accepted and ignored. -/
def State.takeNotice (s : State) (k : Pkt) : State :=
  afterOutcome s (match fieldLE k.payload 0 4 with
    | 1 => execNoticeSkip k s
    | 2 => execNoticeNorm k s
    | 3 => execNoticePeerLost k s
    | 4 => execNoticeReady k s
    | _ => .next (s.takeReliable k fun t _ _ => (true, t)))

/-- A packet reaches the transport: it acts by its type. -/
def State.takePkt (s : State) (k : Pkt) (addr : BitVec 128) : State :=
  match k.type.toNat with
  | 1 => afterOutcome s (execDataReceive k s)
  | 2 => afterOutcome s (execAckReceive k s)
  | 3 => afterOutcome s (execKeepaliveReceive k s)
  | 4 => afterOutcome s (execOpenReceive k addr s)
  | 5 => afterOutcome s (execOpenAckReceive k s)
  | 6 => afterOutcome s (execCloseReceive k s)
  | 7 => afterOutcome s (execCreditReceive k s)
  | 8 => s.takeNotice k
  | _ => s.checked k s

/-- The source address of the IP packet of a frame, IPv4 in the low four bytes. -/
def ipSource (f : List Byte) (q : Parsed) : BitVec 128 :=
  BitVec.ofNat 128 (natLE (if q.ipv6 then (f.drop (q.l3 + 8)).take 16 else (f.drop (q.l3 + 12)).take 4))

/-- ACTION 2: the frame goes to the transport of PART (R277); a packet of another partition or module is dropped. -/
def State.toTransport (s : State) (p : PartId) (f : List Byte) (q : Parsed) : State :=
  match q.udp with
  | none => s
  | some u =>
    if udpPort f u ≠ s.reg.tport.toNat then s
    else match pktOfBytes (udpPayload f u) with
      | none => s
      | some k => if k.tpart = p ∧ (k.host ∨ k.dmod = s.moduleId) then s.takePkt k (ipSource f q) else s

/-! ### Steering to RXF queues (R276 to R279, 10 R241, 17 R392) -/

/-- The fields that a group hashes, in frame order (R278). -/
def hashFields (g : QueueGroup) (f : List Byte) (q : Parsed) : List Byte :=
  match q.udp with
  | none => (f.drop 6).take 6
  | some u =>
    (if g.hashIp then (if q.ipv6 then (f.drop (q.l3 + 8)).take 32 else (f.drop (q.l3 + 12)).take 8) else []) ++
      (if g.hashUdp then (f.drop u).take 4 else [])

/-- The queue of a group that a frame goes to. -/
def QueueGroup.pick (g : QueueGroup) (f : List Byte) (q : Parsed) : Option Qid :=
  let h := if g.hashIp || g.hashUdp then crc32c (hashFields g f q) % 65536 else 0
  if g.nq = 0 then none else g.qids[h % g.nq]?

/-- The drop of a frame steered to a queue. -/
def State.dropRxf (s : State) (qid : Qid) : State := match s.queue qid with
  | some q => s.setQueue qid { q with qDrop := satAdd 32 q.qDrop 1 }
  | none => s

/-- The queue can take a frame: enabled, its partition not faulted, a slot released. -/
def State.rxfOpen (s : State) (q : Queue) : Bool := !s.faulted q.part && q.room && q.slotFree q.ppos

/-- A write to a queue that did not land faults the partition (17 Table 17.3). -/
def State.rxfFault (s : State) (q : Queue) (ok : Bool) : State :=
  if ok then s else s.partFault q.part (if q.memCs then 1 else 5) none

/-- One frame is one item (R279), with the time it arrived at; it is complete only when its write has landed (10 R220). -/
def State.frameItem (s : State) (qid : Qid) (q : Queue) (at_ : BitVec 64) (f : List Byte) : State :=
  if s.rxfOpen q && decide (f.length ≤ q.slotb) then
    let w := s.writeQueue q (q.slotOff q.ppos) f
    (w.2.setQueue qid (q.alloc fun i => { i with closed := true, full := w.1, bytes := f.length, ts := at_ })).rxfFault q w.1
  else s.dropRxf qid

/-- The open image of a queue. -/
def Queue.image (q : Queue) : Option Item := q.items.find? fun i => i.asmItem.isSome && !i.full && !i.cancelled

/-- Cancel an image: its further segments are dropped. -/
def Queue.cancelImage (q : Queue) (i : Item) (drop : Bool) : Queue :=
  { q.putItem { i with cancelled := true, closed := true, full := true } with
    asmDrop := if drop then i.asmItem else q.asmDrop }

/-- Two byte ranges meet. -/
def rangesMeet (a b : Nat × Nat) : Bool := decide (a.1 < b.1 + b.2 ∧ b.1 < a.1 + a.2)

/-- A segment goes into the open image; one whose write does not land is not entered (10 R220). -/
def State.imageSegment (s : State) (p : PortId) (sub : SubId) (qid : Qid) (q : Queue) (i : Item) (ofs : Nat) (d : List Byte) : State :=
  let total := i.total.getD 0
  if total < ofs + d.length ∨ (i.ranges.any fun r => rangesMeet r (ofs, d.length)) = true then s.countSub p sub .rxAsmFail 1
  else
    let w := s.writeQueue q (q.slotOff i.n + ofs) d
    let got := i.bytes + d.length
    let j := { i with bytes := got, ranges := i.ranges ++ [(ofs, d.length)], full := decide (got = total), closed := decide (got = total) }
    (w.2.setQueue qid (q.putItem (if w.1 then j else i))).rxfFault q w.1

/-- A segment of an image that is not open opens it (R279). -/
def State.imageOpen (s : State) (p : PortId) (sub : SubId) (qid : Qid) (at_ : BitVec 64) (item ofs total : Nat) (d : List Byte) : State :=
  match s.queue qid with
  | none => s
  | some q =>
    if q.asmDrop = some item then s
    else if !s.rxfOpen q then s.setQueue qid { q with qDrop := satAdd 32 q.qDrop 1, asmDrop := some item }
    else
      let q1 := { (q.alloc fun i => { i with asmItem := some item, total := some total, ts := at_ }) with asmDrop := none }
      match q1.item q.ppos with
      | none => s
      | some i =>
        if q.slotb < total ∨ i.cancelled = true then s.setQueue qid (q1.cancelImage i true)
        else (s.setQueue qid q1).imageSegment p sub qid q1 i ofs d

/-- A frame for a queue whose group assembles images (R279); a faulted partition drops it (17 R392). -/
def State.imageFrame (s : State) (p : PortId) (sub : SubId) (qid : Qid) (q : Queue) (at_ : BitVec 64) (f : List Byte) (z : Parsed) : State :=
  if s.faulted q.part then s.dropRxf qid else match z.udp with
  | none => s.countSub p sub .rxAsmFail 1
  | some u =>
    let b := udpPayload f u
    if b.length < 16 then s.countSub p sub .rxAsmFail 1
    else
      let item := fieldLE b 0 4
      let ofs := fieldLE b 4 4
      let total := fieldLE b 8 4
      let d := b.drop 16
      match q.image with
        | some i =>
          if i.asmItem = some item then s.imageSegment p sub qid q i ofs d
          else ((s.setQueue qid (q.cancelImage i false)).countSub p sub .rxAsmFail 1).imageOpen p sub qid at_ item ofs total d
        | none => s.imageOpen p sub qid at_ item ofs total d

/-- A frame that arrived at a time reaches its queue; it waits for the queue's descriptor (10 R221). -/
def State.frameIn (s : State) (p : PortId) (sub : SubId) (qid : Qid) (asm : Bool) (at_ : BitVec 64) (f : List Byte) : State :=
  match s.queue qid with
  | none => s
  | some q =>
    if !s.cached qid then s.hold (.frame p sub qid asm at_ f)
    else if asm then s.imageFrame p sub qid q at_ f (parseFrame f) else s.frameItem qid q at_ f

/-- A frame is steered to a queue group (R278); a group without queues drops it. One that a queue takes wakes the module from S1 and S2
(16 R375). -/
def State.steer (s : State) (p : PortId) (sub : SubId) (g : Nat) (f : List Byte) (z : Parsed) : State :=
  match s.fabric.qgroups.get none g with
  | none => s
  | some grp => match grp.pick f z with
    | none => s
    | some qid => if (s.queue qid).isSome then s.wakeShallow.frameIn p sub qid grp.asm (s.rxStamp p sub) f else s

/-! ### Perfect match and filter rules (R276, R277) -/

/-- Perfect-match entries and filter rules in index order. -/
def State.perfects (s : State) : List PerfectEnt := s.fabric.perfect.filterMap (·.2)

/-- The test of one rule. -/
def FilterRule.hit (r : FilterRule) (p : PortId) (f : List Byte) (z : Parsed) (tp : Option Nat) : Bool :=
  r.ports.getLsbD p.val &&
  (!r.matchEn.getLsbD 0 || (BitVec.ofNat 12 z.vid &&& r.vidmask) == (r.vid &&& r.vidmask)) &&
  (!r.matchEn.getLsbD 1 || r.pcpset.getLsbD z.pcp) &&
  (!r.matchEn.getLsbD 2 || z.etype == r.etype.toNat) &&
  (!r.matchEn.getLsbD 3 || (match z.udp with
    | some u => udpPort f u == r.udpdp.toNat
    | none => false)) &&
  (!r.matchEn.getLsbD 4 || (match tp with
    | some t => r.tpset.getLsbD t
    | none => false))

/-- The first rule in ascending index that matches. -/
def State.firstRule (s : State) (p : PortId) (f : List Byte) (z : Parsed) : Option (Nat × FilterRule) :=
  (s.fabric.rules.filterMap fun e => e.2.map fun r => (e.1, r)).find? fun e => e.2.hit p f z (s.tpartOf f z)

/-- Steps 5 to 7 of Table 12.7. -/
def State.dispose (s : State) (p : PortId) (sub : SubId) (f : List Byte) (z : Parsed) : State :=
  match s.perfects.find? fun e => e.en && e.addr.toNat == z.dst && e.ports.getLsbD p.val with
  | some e => s.steer p sub e.qgrp.toNat f z
  | none => match s.firstRule p f z with
    | none => s.countSub p sub .rxNomatch 1
    | some (i, r) =>
      let s1 := { s with fabric := { s.fabric with ruleHits := bump 48 s.fabric.ruleHits i 1 } }
      match r.action.toNat % 4 with
      | 1 => s1.steer p sub r.qgrp.toNat f z
      | 2 => s1.toTransport r.part f z
      | _ => s1

/-! ### The crossbar (R281 to R283) -/

/-- Lanes of a sub-port; none where the mode has no such sub-port (12 Table 12.1). -/
def Port.subLanes (q : Port) (i : SubId) : Nat := match q.mode with
  | 1 => if i.val < 2 then 2 else 0
  | 2 => 1
  | _ => if i.val = 0 then lanesOf q.width else 0

/-- A frame is dropped by the crossbar. -/
def State.fwdDrop (s : State) (p : PortId) (sub : SubId) : State := s.countSub p sub .fwdDrop 1

/-- A frame may leave by an egress sub-port: another port, up, with that sub-port. -/
def State.egressOk (s : State) (p e : PortId) (es : SubId) : Bool := e != p && (s.port e).state.isUp && (s.port e).subLanes es != 0

/-- A frame passes by cut-through: the egress is idle and no faster than the ingress (R282). -/
def State.cutThrough (s : State) (p : PortId) (sub : SubId) (e : PortId) (es : SubId) : Bool :=
  ((s.port e).sub es).txq.isEmpty && decide ((s.port e).subLanes es ≤ (s.port p).subLanes sub)

/-- Reserve space in the egress port's buffer and queue a frame there. -/
def State.passFrame (s : State) (p e : PortId) (es : SubId) (f : List Byte) (pcp need : Nat) (stomped : Bool) : State :=
  (s.modPort e fun z => { z with fwdBuf := z.fwdBuf + need }).queueFrame e es ⟨if 6 ≤ pcp then 3 else 4, 8 + p.val, .raw f, need, stomped⟩

/-- Pass a frame to an egress sub-port: by cut-through, which reserves 9,216 bytes, or stored (R282, R283). -/
def State.forward (s : State) (p : PortId) (sub : SubId) (e : PortId) (es : SubId) (f : List Byte) (pcp : Nat) : State :=
  let need := if s.cutThrough p sub e es then 9216 else f.length + 4
  if !s.egressOk p e es ∨ 2 ^ 20 < (s.port e).fwdBuf + need then s.fwdDrop p sub else s.passFrame p e es f pcp need false

/-- Where the entry of a destination module forwards to (12 Table 12.12). -/
def State.fwdEntry (s : State) (mid : Nat) : Option (PortId × SubId) :=
  let w := s.fabric.fwd.get 0 mid
  let e := (w.extractLsb' 2 4).toNat
  if (w.extractLsb' 0 2).toNat = 1 ∧ e < 12 then some (Fin.ofNat 12 e, Fin.ofNat 4 (w.extractLsb' 6 2).toNat) else none

/-- The entry of a destination module acts on a good frame: none returns it to step 3. -/
def State.crossbar (s : State) (p : PortId) (sub : SubId) (mid : Nat) (f : List Byte) (pcp : Nat) : Option State :=
  if ((s.fabric.fwd.get 0 mid).extractLsb' 0 2).toNat = 0 then none
  else match s.fwdEntry mid with
    | some (e, es) => some (s.forward p sub e es f pcp)
    | none => some (s.fwdDrop p sub)

/-- A frame whose FCS turns out bad: step 1 disposes of it, but a cut-through copy has started; it ends with the complement of the
FCS, and it counts as stomped at its egress (R283). -/
def State.stompCopy (s : State) (p : PortId) (sub : SubId) (mid : Nat) (f : List Byte) (pcp : Nat) : State :=
  match s.fwdEntry mid with
  | some (e, es) =>
    if s.egressOk p e es && s.cutThrough p sub e es && decide ((s.port e).fwdBuf + 9216 ≤ 2 ^ 20) then
      (s.passFrame p e es f pcp 9216 true).countSub e es .fwdStomp 1
    else s
  | none => s

/-! ### The receive order (R274) -/

/-- The destination carries the module prefix and a foreign module ID (R267). -/
def State.foreign (s : State) (dst : Nat) : Bool := dst / 2 ^ 24 == 0x024B44 && dst % 65536 != s.moduleId.toNat

/-- The DLC payload of a frame (12 Table 12.5). -/
def dlcOf (b : List Byte) : Nat × Dlc :=
  let n := fun o k => fieldLE b o k
  (n 0 1, ⟨BitVec.ofNat 14 (n 2 2), BitVec.ofNat 8 (n 4 1), (n 5 1).testBit 0, (n 5 1).testBit 1, (n 5 1).testBit 2,
    BitVec.ofNat 16 (n 6 2), BitVec.ofNat 8 (n 8 1), BitVec.ofNat 32 (n 0xC 4)⟩)

/-- A PTP message: EtherType 0x88F7, or UDP to the ports of IEEE 1588 (log 12). -/
def isPtp (f : List Byte) (z : Parsed) : Bool := z.etype == 0x88F7 || (match z.udp with
  | some u => udpPort f u == 319 || udpPort f u == 320
  | none => false)

/-- ARP, or ICMPv6 neighbour discovery (log 12). -/
def isNeighbour (f : List Byte) (z : Parsed) : Bool :=
  z.etype == 0x0806 || (z.etype == 0x86DD && fieldBE f (z.l3 + 6) 1 == 58 && decide (133 ≤ fieldBE f (z.l3 + 40) 1 ∧ fieldBE f (z.l3 + 40) 1 ≤ 137))

/-- A PAUSE frame (R265). -/
def isPause (f : List Byte) (z : Parsed) : Bool := z.etype == 0x8808 && fieldBE f z.l3 2 == 1

/-- Steps 3 to 7 of Table 12.7, for a frame of a port that carries data; DLC frames are consumed while Direct link control
runs. -/
def State.ownFrame (s : State) (p : PortId) (sub : SubId) (f : List Byte) (z : Parsed) : State :=
  let q := s.port p
  if z.dst = dlcAddr ∧ q.mode = 3 then
    let b := f.drop z.l3
    (if z.etype = 0x88B5 ∧ fieldLE b 1 1 = 1 then s.takeDlc p (dlcOf b).1 (dlcOf b).2 else s)
  else if isPtp f z && q.ptpEn then
    let ip := if z.etype = 0x88F7 then none else some (z.ipv6, (ipSource f z).toNat)
    let b := match z.udp with
      | some u => udpPayload f u
      | none => f.drop z.l3
    (s.modReg fun r => { r with ptp := ⟨p, sub, s.rxStamp p sub, f⟩ :: r.ptp }).takePtp p sub (s.rxStamp p sub) z.src ip b
  else if isNeighbour f z then s
  else s.dispose p sub f z

/-- A good frame counts unless it is DLC (R270, R284). -/
def State.countRx (s : State) (p : PortId) (sub : SubId) (f : List Byte) (z : Parsed) : State :=
  if z.dst = dlcAddr ∧ (s.port p).mode = 3 then s
  else (s.countSub p sub .rxFrames 1).countSub p sub .rxBytes (f.length + 4)

/-- A frame arrives (R274). -/
def State.takeFrame (s : State) (p : PortId) (sub : SubId) (f : List Byte) (fcsOk : Bool) : State :=
  let z := parseFrame f
  let fwd := s.foreign z.dst && (s.port p).fwdIn
  let size := decide (64 ≤ f.length + 4 ∧ f.length + 4 ≤ 9216)
  if !fcsOk then
    let s1 := s.countSub p sub .rxFcs 1
    if fwd && size then s1.stompCopy p sub (z.dst % 65536) f z.pcp else s1
  else if !size then s.countSub p sub .rxSize 1
  else
    let s1 := s.countRx p sub f z
    if isPause f z then s1.countSub p sub .rxPause 1
    else if fwd then (s1.crossbar p sub (z.dst % 65536) f z.pcp).getD (s1.ownFrame p sub f z)
    else s1.ownFrame p sub f z

/-- The sub-port takes a frame: its port is up, or runs Direct link control and the frame is DLC. -/
def Port.receives (q : Port) (sub : SubId) (f : List Byte) : Bool :=
  decide (0 < q.subLanes sub) && (q.state.isUp || (q.dlc && fieldBE f 0 6 == dlcAddr))

/-- FRAME_RECEIVE (R274). -/
def execFrameReceive (p : PortId) (sub : SubId) (frame : List Byte) (fcsOk : Bool) (s : State) : Host.Outcome State Fault Refusal :=
  if (s.port p).receives sub frame then .next (s.takeFrame p sub frame fcsOk).settle else .next s

/-- ASSEMBLY_TIMEOUT (R279): ATMO µs after the first segment of the open image. -/
def execAssemblyTimeout (q : Qid) (s : State) : Host.Outcome State Fault Refusal :=
  match s.queue q with
  | none => .next s
  | some d => match d.image, s.fabric.qgroups.get none d.qgrp.toNat with
    | some i, some g =>
      if g.atmo = 0 then .next s
      else .next ((s.advanceTo (i.ts.toNat + g.atmo.toNat * 1000)).setQueue q (d.cancelImage i true)).settle
    | _, _ => .next s

/-! ### The transmit scheduler (R280) -/

/-- Bytes that a sub-port sends in a share window of 64 µs. -/
def Port.windowCap (q : Port) (sub : SubId) : Nat := 1600000 * q.subLanes sub

/-- The class of a frame now: a frame of a real-time partition beyond its share competes in class 4 (R280, 01 R16, log 80). -/
def State.classNow (s : State) (p : PortId) (sub : SubId) (f : TxFrame) : Nat :=
  if f.cls = 2 ∧ s.inShare (pointOfSub p sub) ((s.port p).windowCap sub) (Fin.ofNat 8 f.src) = false then 4 else f.cls

/-- The lowest class that has a frame. -/
def lowestClass (cls : TxFrame → Nat) (l : List TxFrame) : Nat := l.foldl (fun a f => min a (cls f)) 5

/-- The distance of a source from the one served last, in rotation. -/
def turn (last src : Nat) : Nat := (src + 64 - (last + 1) % 64) % 64

/-- Of a list of frames the one to send next: the lowest class, the next source in rotation, its oldest frame. -/
def SubPort.nextOf (cls : TxFrame → Nat) (b : SubPort) (l : List TxFrame) : Option TxFrame :=
  let c := lowestClass cls l
  let last := b.lastSrc.get 63 c
  (l.filter fun f => cls f == c).foldl (fun a f => match a with
    | none => some f
    | some g => if turn last f.src < turn last g.src then some f else some g) none

def TxFrame.isDlc (f : TxFrame) : Bool := match f.body with
  | .dlc .. => true
  | _ => false

/-- A forwarded frame: its source is a port. -/
def TxFrame.isFwd (f : TxFrame) : Bool := decide (8 ≤ f.src ∧ f.src < 20)

/-- A frame of a partition: its source is the partition. -/
def TxFrame.isPart (f : TxFrame) : Bool := decide (f.src < 8)

/-- A good frame sent counts; DLC does not (R270, R284). -/
def State.countTx (s : State) (p : PortId) (sub : SubId) (f : TxFrame) : State :=
  if f.isDlc || f.stomped then s
  else
    let s1 := (s.countSub p sub .txFrames 1).countSub p sub .txBytes (s.wireSize f)
    if f.isFwd then s1.countSub p sub .fwdFrames 1 else s1

/-- A sub-port sends a frame, with its timestamp (R273): a forwarded frame frees its buffer space, and one of a partition uses the
partition's share of the sub-port. -/
def State.sendFrame (s : State) (p : PortId) (sub : SubId) (f : TxFrame) : State :=
  let cls := s.classNow p sub f
  let bytes := s.wireBytes p sub f
  let s1 := s.modSub p sub fun b => { b with
    txq := b.txq.erase f, lastSrc := b.lastSrc.set 63 cls f.src, lastSent := some f, lastSentAt := s.txStamp p sub, wire := bytes }
  let s2 := (s1.countTx p sub f).ptpSent p sub (s.txStamp p sub) f
  let s3 := if f.isPart then s2.useShare (pointOfSub p sub) (Fin.ofNat 8 f.src) (s.wireSize f) else s2
  if f.isFwd then s3.modPort p fun q => { q with fwdBuf := q.fwdBuf - f.stored } else s3

/-- The sub-port may send a frame now: its port is up and no re-adaptation window stops data, or the frame is DLC and Direct link
control runs; the ADAPT_ACK that agrees a window leaves before it. -/
def Port.sends (q : Port) (sub : SubId) (f : TxFrame) : Bool :=
  decide (0 < q.subLanes sub) && (if f.isDlc then q.dlc else q.state.isUp && q.adaptAgreed.isNone)

/-- The frame that a sub-port sends next, of those it may send now. -/
def State.nextFrame (s : State) (p : PortId) (sub : SubId) : Option TxFrame :=
  let b := (s.port p).sub sub
  b.nextOf (s.classNow p sub) (b.txq.filter fun f => (s.port p).sends sub f)

/-- FRAME_TRANSMIT (R280). -/
def execFrameTransmit (p : PortId) (sub : SubId) (s : State) : Host.Outcome State Fault Refusal :=
  match s.nextFrame p sub with
  | none => .next s
  | some f => .next (s.sendFrame p sub f)

end Sys2Proof.Machine
end

