-- ==== Sys2Proof/Machine/Mp.lean ====
section
/-! DEFINITION. The management port and the paths by which mailbox requests arrive (12 R285 to R288, 13 R315, R316,
14 R324 to R329, 17 R398). -/

namespace Sys2Proof.Machine

/-! ### Module state (15 R360) -/

/-- STATE (15 Table 15.5). -/
def State.stateWord (s : State) : Nat := s.aon.mstate.code + s.aon.haltA.toNat * 256 + s.aon.haltB.toNat * 4096

/-- The Regulator's firmware runs: group 2 is released on a verified image, and S4 has not switched it off. -/
def State.regRuns (s : State) : Bool := decide (2 ≤ s.aon.group) && s.aon.mstate != .bootHalt && s.aon.mstate != .s4

/-- The boot ROM answers in BOOT_HALT (15 R365). -/
def State.romRuns (s : State) : Bool := decide (2 ≤ s.aon.group) && s.aon.mstate == .bootHalt

/-! ### ANNOUNCE (R287, R288) -/

/-- The payload of Table 12.15. -/
def State.announcePayload (s : State) : List Byte :=
  let parts := ((List.finRange 8).map fun p => if s.partExists p then 2 ^ p.val else 0).sum
  padTo 64 (bytesLE 2 (s.moduleId.toNat + (if s.reg.assigned then 0x8000 else 0)) ++ bytesLE 2 s.stateWord ++
    bytesLE 4 (if s.aon.mstate = .bootHalt then 0 else s.reg.fwver.toNat) ++ bytesLE 8 s.now ++ padTo 16 s.fuses.partno ++
    padTo 16 s.fuses.serial ++ bytesLE 1 s.pins.slot.toNat ++ bytesLE 1 parts)

/-- Send an ANNOUNCE frame; SEQ counts them from the last start. -/
def State.announce (s : State) : State :=
  (s.mpSend (s.mpFrameTo (BitVec.allOnes 48) (mpHeader 1 0 s.reg.annSeq.toNat 0 64 ++ s.announcePayload))).modReg fun r =>
    { r with annSeq := r.annSeq + 1 }

/-- ANNOUNCE_TIMER (R287): the Regulator, the boot ROM in BOOT_HALT and the wake logic in S4 send it. -/
def execAnnounceTimer (s : State) : Host.Outcome State Fault Refusal :=
  if s.regRuns || s.romRuns || s.aon.mstate == .s4 then .next s.announce else .next s

/-- An ANNOUNCE arrives: one from this module's own address is a conflict (R288, 17 R398). -/
def State.takeAnnounce (s : State) (a : Announce) : State :=
  if a.src = s.mpAddr then
    (s.modReg fun r => { r with midConflict := true }).logEvent evMidConflict 51 srcNone (bytesLE 2 s.moduleId.toNat)
  else s.modReg fun r => { r with heardMods := r.heardMods.set none a.moduleId.toNat (some a.state) }

/-- ANNOUNCE_RECEIVE (R288, 17 R398). -/
def execAnnounceReceive (a : Announce) (s : State) : Host.Outcome State Fault Refusal :=
  if s.regRuns then .next (s.takeAnnounce a) else .next s

/-- A module is a peer: some group names it, or a session leads to it. -/
def State.isPeer (s : State) (m : BitVec 14) : Bool :=
  (s.eng.cgroups.any fun g => match g.2 with
    | some d => d.nmem != 0 && d.members.contains m
    | none => false) || s.sessions.any fun e => e.2.peer == m && e.2.host.isNone

/-- ANNOUNCE_ABSENCE (R287, 13 R317): a module heard before has been silent for 1 s; a peer is declared lost. -/
def execAnnounceAbsence (m : BitVec 14) (s : State) : Host.Outcome State Fault Refusal :=
  if s.regRuns && (s.reg.heardMods.get none m.toNat).isSome then
    let s1 := s.modReg fun r => { r with heardMods := r.heardMods.set none m.toNat none }
    .next (if s1.isPeer m then s1.declareLost m 3 else s1).settle
  else .next s

/-! ### Collisions (R286) -/

/-- MP_COLLISION (R286): a backoff of r slot times, r a draw of the random source; the sixteenth collision discards. -/
def execMpCollision (s : State) : Host.Outcome State Fault Refusal :=
  let s1 := if s.reg.mpFrame = none then s.mpOutTick else s
  match s1.reg.mpFrame with
  | none => .next s1
  | some _ =>
    let n := s1.reg.mpTries + 1
    if 16 ≤ n then .next (s1.modReg fun r => { r with mpFrame := none, mpTries := 0, mpBackoff := 0, mpExcess := satAdd 32 r.mpExcess 1 })
    else .next (s1.modReg fun r => { r with mpTries := n, mpBackoff := s1.freeVal % 2 ^ min n 10 }).freeNext

/-- MP_BACKOFF_END (R286): the frame is sent again. -/
def execMpBackoffEnd (s : State) : Host.Outcome State Fault Refusal := .next (s.modReg fun r => { r with mpBackoff := 0 })

/-! ### Requests over MP (14 R325, 15 R365) -/

/-- A node may send requests to a mailbox over MP (14 Table 14.1). -/
def State.mpMay (s : State) (m : MbId) (src : BitVec 48) : Bool :=
  if s.romRuns && m.val == 0 then src == s.reg.mpOwner && src != 0
  else m.val == 15 || (decide (m.val ≤ 8) && src == s.reg.mpOwner && src != 0)

/-- Enter a segment's bytes, replacing what came before at its offset. -/
def MpAsm.add (a : MpAsm) (ofs : Nat) (d : List Byte) : MpAsm := { a with parts := (ofs, d) :: a.parts.filter fun q => q.1 != ofs }

/-- The bytes of an assembly, and whether every byte of it has arrived. -/
def MpAsm.bytes (a : MpAsm) : List Byte := a.parts.foldl (fun b q => patch b q.1 q.2) (List.replicate a.total 0)
def MpAsm.complete (a : MpAsm) : Bool :=
  (List.range a.total).all fun i => a.parts.any fun q => decide (q.1 ≤ i ∧ i < q.1 + q.2.length)

/-- The assembly that a segment goes into: its own message's, a new one of the same sender or of an idle mailbox, or none
while another sender's request is under way (log 32). -/
def mpAsmFor (old : Option MpAsm) (g : MpSegment) : Option MpAsm :=
  let fresh : MpAsm := ⟨g.src, g.seq, g.total.toNat, []⟩
  match old with
  | none => some fresh
  | some a => if a.src ≠ g.src then none else if a.seq = g.seq ∧ a.total = g.total.toNat then some a else some fresh

/-- A request segment arrives. -/
def State.takeSegment (s : State) (g : MpSegment) : State :=
  if g.kind ≠ 2 ∨ 16 ≤ g.mb.toNat ∨ g.total.toNat < 32 ∨ 4096 < g.total.toNat then s
  else
    let m : MbId := Fin.ofNat 16 g.mb.toNat
    if !s.mpMay m g.src then s
    else match mpAsmFor (s.mb m).mpAsm g with
      | none => s
      | some a0 =>
        let a := a0.add g.ofs.toNat g.data
        if a.complete then (s.modMb m fun b => { b with mpAsm := none }).deliverRequest m (.mp g.src) a.bytes
        else s.modMb m fun b => { b with mpAsm := some a }

/-- MP_REQUEST_TIMEOUT (R325): 100 ms after the first segment. -/
def execMpRequestTimeout (mb : MbId) (s : State) : Host.Outcome State Fault Refusal :=
  .next (s.modMb mb fun b => { b with mpAsm := none })

/-- MB_DOORBELL (R328): the doorbell word of a mailbox is written for the request in its area. -/
def execMbDoorbell (mb : MbId) (seq : BitVec 16) (s : State) : Host.Outcome State Fault Refusal :=
  if s.regRuns || s.romRuns then .next (s.ringDoorbell mb seq).settle else .next s

/-! ### Host messages (13 R315, R316) -/

/-- HOST_MESSAGE (13 R316). -/
def execHostMessage (m : HostMsg) (s : State) : Host.Outcome State Fault Refusal :=
  if s.regRuns then .next (s.takeHostMessage m).settle else .next s

end Sys2Proof.Machine
end

