-- ==== Sys2Proof/Machine/Sign.lean ====
section
/-! DEFINITION. The two signature schemes that 15 R365 and R368 name, RSASSA-PSS of RFC 8017 with SHA-384 and
SLH-DSA-SHA2-192s of FIPS 205, with the hash functions under them (FIPS 180-4, FIPS 198-1). Their definitions come from those
standards, not from the spec (log 10, 12). -/

namespace Sys2Proof.Machine

/-! ### SHA-512, SHA-256, HMAC and MGF1 -/

def sha512Init : List (BitVec 64) :=
  [0x6A09E667F3BCC908, 0xBB67AE8584CAA73B, 0x3C6EF372FE94F82B, 0xA54FF53A5F1D36F1,
   0x510E527FADE682D1, 0x9B05688C2B3E6C1F, 0x1F83D9ABFB41BD6B, 0x5BE0CD19137E2179]

/-- SHA-512 of a byte list, 64 bytes. -/
def sha512 (bs : List Byte) : List Byte :=
  let pad := bs ++ [0x80#8] ++ List.replicate ((239 - bs.length % 128) % 128) 0#8 ++ bytesBE 16 (8 * bs.length)
  (shaBlocks (pad.length / 128) sha512Init pad).flatMap (fun w => bytesBE 8 w.toNat)

/-- The big-endian 32-bit words of a byte list. -/
def words32BE : Nat → List Byte → List (BitVec 32)
  | 0, _ => []
  | n + 1, bs => BitVec.ofNat 32 (natLE (bs.take 4).reverse) :: words32BE n (bs.drop 4)

/-- Extend the message schedule of SHA-256, newest word first. -/
def sha256Extend : Nat → List (BitVec 32) → List (BitVec 32)
  | 0, w => w
  | n + 1, w =>
    let g := fun i => w.getD i 0
    let s0 := (g 14).rotateRight 7 ^^^ (g 14).rotateRight 18 ^^^ ((g 14) >>> 3)
    let s1 := (g 1).rotateRight 17 ^^^ (g 1).rotateRight 19 ^^^ ((g 1) >>> 10)
    sha256Extend n ((g 15 + s0 + g 6 + s1) :: w)

def sha256Round (st : List (BitVec 32)) (kw : BitVec 32 × BitVec 32) : List (BitVec 32) :=
  let g := fun i => st.getD i 0
  let a := g 0
  let e := g 4
  let s1 := e.rotateRight 6 ^^^ e.rotateRight 11 ^^^ e.rotateRight 25
  let ch := (e &&& g 5) ^^^ (~~~e &&& g 6)
  let t1 := g 7 + s1 + ch + kw.1 + kw.2
  let s0 := a.rotateRight 2 ^^^ a.rotateRight 13 ^^^ a.rotateRight 22
  let mj := (a &&& g 1) ^^^ (a &&& g 2) ^^^ (g 1 &&& g 2)
  [t1 + s0 + mj, a, g 1, g 2, g 3 + t1, e, g 5, g 6]

/-- The upper half of a 64-bit word: the constants of SHA-256 are the upper halves of those of SHA-512. -/
def upper32 (x : BitVec 64) : BitVec 32 := x.extractLsb' 32 32

def sha256Block (h : List (BitVec 32)) (blk : List Byte) : List (BitVec 32) :=
  let w := (sha256Extend 48 (words32BE 16 blk).reverse).reverse
  List.zipWith (· + ·) h ((((sha512K.take 64).map upper32).zip w).foldl sha256Round h)

def sha256Blocks : Nat → List (BitVec 32) → List Byte → List (BitVec 32)
  | 0, h, _ => h
  | n + 1, h, bs => sha256Blocks n (sha256Block h (bs.take 64)) (bs.drop 64)

/-- SHA-256 of a byte list, 32 bytes. -/
def sha256 (bs : List Byte) : List Byte :=
  let pad := bs ++ [0x80#8] ++ List.replicate ((119 - bs.length % 64) % 64) 0#8 ++ bytesBE 8 (8 * bs.length)
  (sha256Blocks (pad.length / 64) (sha512Init.map upper32) pad).flatMap (fun w => bytesBE 4 w.toNat)

/-- Exclusive or of two byte lists. -/
def xorBytes (a b : List Byte) : List Byte := List.zipWith (· ^^^ ·) a b

/-- HMAC-SHA-512 under a key of at most 128 bytes. -/
def hmac512 (key msg : List Byte) : List Byte :=
  let k := padTo 128 key
  let with_ := fun (b : Byte) => k.map (· ^^^ b)
  sha512 (with_ 0x5C#8 ++ sha512 (with_ 0x36#8 ++ msg))

/-- MGF1 with a hash of `hlen` bytes: the first `n` bytes. -/
def mgf1 (hash : List Byte → List Byte) (hlen : Nat) (seed : List Byte) (n : Nat) : List Byte :=
  ((List.range (n / hlen + 1)).flatMap fun i => hash (seed ++ bytesBE 4 i)).take n

/-- The number whose big-endian bytes are a list. -/
def natBE (bs : List Byte) : Nat := natLE bs.reverse

/-! ### RSASSA-PSS (RFC 8017), SHA-384, MGF1 with SHA-384, a salt of 48 bytes (15 R365) -/

/-- `b` to the power of the low `k` bits of `e`, modulo `n`. -/
def powMod (b e n : Nat) : Nat → Nat
  | 0 => 1 % n
  | k + 1 =>
    let r := powMod (b * b % n) (e / 2) n k
    if e % 2 = 1 then b * r % n else r

/-- The hash of the encoded message. -/
def pssHash (msg salt : List Byte) : List Byte := sha384 (List.replicate 8 0#8 ++ sha384 msg ++ salt)

/-- EMSA-PSS verification of an encoded message of `bits` bits. -/
def pssOk (msg em : List Byte) (bits : Nat) : Bool :=
  let len := (bits + 7) / 8
  let top := 8 * len - bits
  let masked := em.take (len - 49)
  let h := (em.drop (len - 49)).take 48
  let raw := xorBytes masked (mgf1 sha384 48 h (len - 49))
  let db := (raw.take 1).map (fun b => b &&& BitVec.ofNat 8 (2 ^ (8 - top) - 1)) ++ raw.drop 1
  let zeros := len - 98
  decide (98 ≤ len) && em.getD (len - 1) 0 == 0xBC#8 && decide ((masked.getD 0 0).toNat < 2 ^ (8 - top)) &&
    (db.take zeros).all (· == 0#8) && db.getD zeros 0 == 1#8 && h == pssHash msg (db.drop (zeros + 1))

/-- Verify a signature under an RSA modulus given big-endian, exponent 65,537. -/
def pssVerify (key msg sig : List Byte) : Bool :=
  let n := natBE key
  let s := natBE sig
  let bits := bitLen n - 1
  decide (sig.length = key.length ∧ s < n ∧ 1 < n) &&
    (let m := powMod s 65537 n 17
     decide (m < 2 ^ (8 * ((bits + 7) / 8))) && pssOk msg (bytesBE ((bits + 7) / 8) m) bits)

/-- EMSA-PSS encoding with a salt of 48 bytes. -/
def pssEncode (msg salt : List Byte) (bits : Nat) : List Byte :=
  let len := (bits + 7) / 8
  let top := 8 * len - bits
  let h := pssHash msg salt
  let db := List.replicate (len - 98) 0#8 ++ [1#8] ++ salt
  let m := xorBytes db (mgf1 sha384 48 h (len - 49))
  (m.take 1).map (fun b => b &&& BitVec.ofNat 8 (2 ^ (8 - top) - 1)) ++ m.drop 1 ++ h ++ [0xBC#8]

/-- Bezout's first coefficient of two numbers by Euclid's algorithm; `n` bounds the steps. -/
def euclid : Nat → Int → Int → Int → Int → Int
  | 0, _, _, x, _ => x
  | n + 1, a, b, x, y => if b = 0 then x else euclid n b (a % b) y (x - a / b * y)

/-- The private exponent of the primes p and q for the public exponent 65,537. -/
def rsaPrivate (p q : Nat) : Nat :=
  let l := Nat.lcm (p - 1) (q - 1)
  ((euclid (2 * bitLen l + 64) 65537 l 1 0) % l).toNat

/-- Sign under the primes of an identity key of two equal halves, each big-endian, with a salt (15 R367, R368). -/
def pssSign (key msg salt : List Byte) : List Byte :=
  let half := key.length / 2
  let p := natBE (key.take half)
  let q := natBE (key.drop half)
  let n := p * q
  bytesBE (2 * half) (powMod (natBE (pssEncode msg salt (bitLen n - 1))) (rsaPrivate p q) n (bitLen n))

/-! ### SLH-DSA-SHA2-192s (FIPS 205): n 24, h 63, d 7, h' 9, a 14, k 17, w 16 -/

/-- An address of FIPS 205 in its compressed form of 22 bytes: layer, tree, type and its three words. -/
structure Adrs where
  layer : Nat
  tree : Nat
  type : Nat
  w1 : Nat
  w2 : Nat
  w3 : Nat

def Adrs.bytes (a : Adrs) : List Byte :=
  bytesBE 1 a.layer ++ bytesBE 8 a.tree ++ bytesBE 1 a.type ++ bytesBE 4 a.w1 ++ bytesBE 4 a.w2 ++ bytesBE 4 a.w3

/-- F and PRF: SHA-256 of one block of PK.seed, then address and message, cut to 24 bytes. -/
def slhF (pk : List Byte) (a : Adrs) (m : List Byte) : List Byte := (sha256 (padTo 64 pk ++ a.bytes ++ m)).take 24

/-- H and T: SHA-512 of one block of PK.seed, then address and message, cut to 24 bytes. -/
def slhH (pk : List Byte) (a : Adrs) (m : List Byte) : List Byte := (sha512 (padTo 128 pk ++ a.bytes ++ m)).take 24

/-- Digits of `b` bits of a byte string, most significant first. -/
def slhDigits (bs : List Byte) (b n : Nat) : List Nat :=
  let v := natBE bs
  (List.range n).map fun i => v / 2 ^ (8 * bs.length - b * (i + 1)) % 2 ^ b

/-- Digits of a message and of its checksum. -/
def wotsDigits (m : List Byte) : List Nat :=
  let ds := slhDigits m 4 48
  ds ++ slhDigits (bytesBE 2 ((ds.map (15 - ·)).sum * 16)) 4 3

/-- `n` steps of a chain from step `i`. -/
def wotsChain (pk : List Byte) (a : Adrs) (x : List Byte) (i : Nat) : Nat → List Byte
  | 0 => x
  | n + 1 => wotsChain pk a (slhF pk { a with w3 := i } x) (i + 1) n

/-- The secret value of chain `c` of key pair `kp`. -/
def wotsSecret (sk pk : List Byte) (a : Adrs) (kp c : Nat) : List Byte := slhF pk { a with type := 5, w1 := kp, w2 := c, w3 := 0 } sk

/-- Compress the ends of the chains to a public key. -/
def wotsPk (pk : List Byte) (a : Adrs) (kp : Nat) (ends : List (List Byte)) : List Byte :=
  slhH pk { a with type := 1, w1 := kp, w2 := 0, w3 := 0 } ends.flatten

def wotsAdrs (a : Adrs) (kp c : Nat) : Adrs := { a with type := 0, w1 := kp, w2 := c, w3 := 0 }

/-- The public key of a key pair. -/
def wotsGen (sk pk : List Byte) (a : Adrs) (kp : Nat) : List Byte :=
  wotsPk pk a kp ((List.range 51).map fun c => wotsChain pk (wotsAdrs a kp c) (wotsSecret sk pk a kp c) 0 15)

/-- The signature values of a message. -/
def wotsSign (sk pk : List Byte) (a : Adrs) (kp : Nat) (m : List Byte) : List Byte :=
  (wotsDigits m).zipIdx.flatMap fun d => wotsChain pk (wotsAdrs a kp d.2) (wotsSecret sk pk a kp d.2) 0 d.1

/-- The public key that a signature gives. -/
def wotsFromSig (pk : List Byte) (a : Adrs) (kp : Nat) (m sig : List Byte) : List Byte :=
  wotsPk pk a kp ((wotsDigits m).zipIdx.map fun d => wotsChain pk (wotsAdrs a kp d.2) ((sig.drop (24 * d.2)).take 24) d.1 (15 - d.1))

/-- Climb an authentication path of a tree from the node at `idx`, height `z` on; `adr` gives the address of a node. -/
def climb (pk : List Byte) (adr : Nat → Nat → Adrs) : Nat → Nat → List Byte → List Byte → Nat → List Byte
  | _, _, node, _, 0 => node
  | idx, z, node, auth, n + 1 =>
    let s := auth.take 24
    climb pk adr (idx / 2) (z + 1) (slhH pk (adr (z + 1) (idx / 2)) (if idx % 2 = 0 then node ++ s else s ++ node)) (auth.drop 24) n

/-- A node of a tree of height `z` over leaves. -/
def treeNode (pk : List Byte) (adr : Nat → Nat → Adrs) (leaf : Nat → List Byte) : Nat → Nat → List Byte
  | 0, i => leaf i
  | z + 1, i => slhH pk (adr (z + 1) i) (treeNode pk adr leaf z (2 * i) ++ treeNode pk adr leaf z (2 * i + 1))

/-- The authentication path of a leaf in a tree of height `h`; `base` is the tree's place at height 0. -/
def authPath (pk : List Byte) (adr : Nat → Nat → Adrs) (leaf : Nat → List Byte) (idx h : Nat) : List Byte :=
  (List.range h).flatMap fun j => treeNode pk adr leaf j (Nat.xor (idx / 2 ^ j) 1)

def xmssAdrs (a : Adrs) (z i : Nat) : Adrs := { a with type := 2, w1 := 0, w2 := z, w3 := i }
def forsAdrs (a : Adrs) (kp z i : Nat) : Adrs := { a with type := 3, w1 := kp, w2 := z, w3 := i }

def xmssSign (sk pk : List Byte) (a : Adrs) (idx : Nat) (m : List Byte) : List Byte :=
  wotsSign sk pk a idx m ++ authPath pk (xmssAdrs a) (wotsGen sk pk a) idx 9

def xmssFromSig (pk : List Byte) (a : Adrs) (idx : Nat) (sig m : List Byte) : List Byte :=
  climb pk (xmssAdrs a) idx 0 (wotsFromSig pk a idx m sig) (sig.drop (24 * 51)) 9

/-- Layers `j` to 6 of the hypertree: the root that a signature gives. -/
def htRoot (pk : List Byte) : Nat → Nat → Nat → Nat → List Byte → List Byte → List Byte
  | 0, _, _, _, _, m => m
  | n + 1, j, tree, leaf, sig, m =>
    htRoot pk n (j + 1) (tree / 512) (tree % 512) (sig.drop 1440) (xmssFromSig pk ⟨j, tree, 0, 0, 0, 0⟩ leaf (sig.take 1440) m)

/-- Layers `j` to 6 of the hypertree: the signature of a message. -/
def htSign (sk pk : List Byte) : Nat → Nat → Nat → Nat → List Byte → List Byte
  | 0, _, _, _, _ => []
  | n + 1, j, tree, leaf, m =>
    let a : Adrs := ⟨j, tree, 0, 0, 0, 0⟩
    let s := xmssSign sk pk a leaf m
    s ++ htSign sk pk n (j + 1) (tree / 512) (tree % 512) (xmssFromSig pk a leaf s m)

/-- The secret value of a FORS leaf. -/
def forsSecret (sk pk : List Byte) (a : Adrs) (kp i : Nat) : List Byte := slhF pk { a with type := 6, w1 := kp, w2 := 0, w3 := i } sk

/-- The FORS signature of a digest. -/
def forsSign (sk pk : List Byte) (a : Adrs) (kp : Nat) (md : List Byte) : List Byte :=
  (slhDigits md 14 17).zipIdx.flatMap fun d =>
    let i := d.2 * 2 ^ 14 + d.1
    forsSecret sk pk a kp i ++
      authPath pk (forsAdrs a kp) (fun l => slhF pk (forsAdrs a kp 0 l) (forsSecret sk pk a kp l)) i 14

/-- The FORS public key that a signature gives. -/
def forsFromSig (pk : List Byte) (a : Adrs) (kp : Nat) (md sig : List Byte) : List Byte :=
  slhH pk { a with type := 4, w1 := kp, w2 := 0, w3 := 0 } ((slhDigits md 14 17).zipIdx.flatMap fun d =>
    let i := d.2 * 2 ^ 14 + d.1
    let s := (sig.drop (360 * d.2)).take 360
    climb pk (forsAdrs a kp) i 0 (slhF pk (forsAdrs a kp 0 i) (s.take 24)) (s.drop 24) 14)

/-- What H_msg selects: the digest that FORS signs, the tree and the leaf. -/
structure SlhIndex where
  md : List Byte
  tree : Nat
  leaf : Nat

def slhIndex (r pk root msg : List Byte) : SlhIndex :=
  let d := mgf1 sha512 64 (r ++ pk ++ sha512 (r ++ pk ++ root ++ msg)) 39
  ⟨d.take 30, natBE ((d.drop 30).take 7) % 2 ^ 54, natBE ((d.drop 37).take 2) % 2 ^ 9⟩

/-- A message with an empty context string, as a pure signature takes it. -/
def slhMessage (msg : List Byte) : List Byte := [0#8, 0#8] ++ msg

/-- Verify a signature under a public key of PK.seed and PK.root. -/
def slhVerify (key msg sig : List Byte) : Bool :=
  let pk := key.take 24
  let root := (key.drop 24).take 24
  let x := slhIndex (sig.take 24) pk root (slhMessage msg)
  let fors := forsFromSig pk ⟨0, x.tree, 3, 0, 0, 0⟩ x.leaf x.md ((sig.drop 24).take 6120)
  decide (sig.length = 16224 ∧ key.length = 48) && htRoot pk 7 0 x.tree x.leaf (sig.drop 6144) fors == root

/-- Sign under a key of SK.seed, SK.prf, PK.seed and PK.root, with 24 random bytes. -/
def slhSign (key msg rand : List Byte) : List Byte :=
  let sk := key.take 24
  let prf := (key.drop 24).take 24
  let pk := (key.drop 48).take 24
  let root := (key.drop 72).take 24
  let m := slhMessage msg
  let r := (hmac512 prf (rand ++ m)).take 24
  let x := slhIndex r pk root m
  let a : Adrs := ⟨0, x.tree, 3, 0, 0, 0⟩
  let f := forsSign sk pk a x.leaf x.md
  r ++ f ++ htSign sk pk 7 0 x.tree x.leaf (forsFromSig pk a x.leaf x.md f)

end Sys2Proof.Machine
end

