-- ==== Sys2Proof/Machine/Reset.lean ====
section
/-! DEFINITION. Module resets, what survives them, firmware verification and the flash regions read at a start (15 R349 to
R366, 14 R322, 16 R379). -/

namespace Sys2Proof.Machine

/-! ### What a reset clears (15 Table 15.2) -/

/-- A core after a module reset: its residency counters survive. -/
def Core.afterReset (k : Core) : Core := { Core.reset with resPl := k.resPl }

/-- A stack after a module reset: retained training and its temperature survive in the always-on island. -/
def Stack.afterReset (k : Stack) (asleep : Bool) : Stack := { Stack.reset with selfRefresh := asleep, trained := k.trained, trainTemp := k.trainTemp }

/-- HBM contents and the logs in the Regulator region are lost. -/
def State.loseHbm (s : State) : State :=
  { s with hbm := .reset, reg := { s.reg with logs := .reset }, stk := s.stk.map fun k => { k with trained := false } }

/-- The controllers hold HBM contents that self-refresh can keep: HBM is tested, or a warm start on retained training is under
way (R350, Table 15.2). -/
def State.hbmKept (s : State) : Bool :=
  s.aon.hbmTested || (s.aon.mstate == .booting && s.aon.start == .warm && s.aon.retained)

/-- Groups 2 to 6 are reset (R350): partitions, queues, tables, mailboxes and counters are lost. The logs and the HBM stay
where they are, every page unowned; frames on the management bus are in the always-on island. -/
def State.resetGroups (s : State) : State :=
  { s with
    cores := s.cores.map Core.afterReset
    parts := Vector.replicate 8 Partition.reset
    eng := .reset
    hbm := { s.hbm with pages := [], rowLocal := [] }
    stk := s.stk.map fun k => k.afterReset s.hbmKept
    fabric := .reset
    reg := { Regulator.reset with logs := s.reg.logs, mpOut := s.reg.mpOut, mpFrame := s.reg.mpFrame } }

/-- The module begins a start from the release of group 2, with reset held while MRST_N is low (R350, R354). -/
def State.beginStart (s : State) (kind : StartKind) (held : Bool) : State :=
  s.modAon fun a => { a with
    mstate := .booting, start := kind, group := min 1 a.group, inReset := held, hbmTrained := false, hbmTested := false
    haltA := 0, haltB := 0, wasReady := false }

/-- Invalidate the retained training (R355): the start under way becomes a retraining start, and HBM contents are lost. -/
def State.loseTraining (s : State) : State :=
  s.loseHbm.modAon fun a => { a with retained := false, start := .retrain, hbmTrained := false }

/-- A module reset of any kind but power-on (R350); retained training decides whether a warm start can follow. -/
def State.moduleReset (s : State) (cause : BitVec 8) (kind : StartKind) (held : Bool) : State :=
  let s1 := s.resetGroups.beginStart kind held
  let s2 := s1.modAon fun a => { a with rstCause := cause, warmCnt := a.warmCnt + 1 }
  if kind = .warm ∧ s.aon.retained = true then s2 else s2.loseTraining

/-- The module can be reset: its supplies are on. -/
def State.powered (s : State) : Bool := s.aon.supply == .on

/-- The always-on island has its supply: a thermal shutdown leaves it on (16 R372). -/
def State.alive (s : State) : Bool := s.aon.supply != .off

/-- Power is gone behind the hot-swap switch: only fuses, flash, the FRU memory and the controller keep anything. -/
def State.powerOff (s : State) : State :=
  { State.reset with pending := s.pending, free := s.free, fuses := s.fuses, flash := s.flash, hs := s.hs, pins := s.pins }

/-! ### Fatal errors (15 R358) -/

/-- The RST_CAUSE of a fatal error, when its island belongs to groups 2 to 4 (Table 15.1). -/
def fatalReset : FatalCause → Option (BitVec 8)
  | .regulatorSram | .meshCommandPath => some 6
  | .regulatorHbm => some 7
  | .clockLoss isl =>
    if 27 ≤ isl.toNat ∧ isl.toNat ≤ 34 then some 7
    else if isl = 35 ∨ isl = 51 ∨ isl = 52 then some 6
    else none

/-- The code of a fatal error in the fatal record (log 28). -/
def fatalCode : FatalCause → BitVec 8
  | .regulatorSram => 1
  | .regulatorHbm => 2
  | .clockLoss _ => 3
  | .meshCommandPath => 4

/-- A fatal error is recorded and resets the module. -/
def State.fatalError (s : State) (c : FatalCause) : State := match fatalReset c with
  | none => s
  | some r => ((s.modAon fun a => { a with fatal := some (fatalCode c) }).moduleReset r (if r = 7 then .retrain else .warm) false)

/-- FATAL_ERROR (15 R358). -/
def execFatalError (cause : FatalCause) (s : State) : Host.Outcome State Fault Refusal :=
  if s.powered && decide (2 ≤ s.aon.group) then .next (s.fatalError cause).settle else .next s

/-- WATCHDOG_EXPIRY (15 R357): resets before READY are counted. -/
def execWatchdogExpiry (_control : Fin 2) (s : State) : Host.Outcome State Fault Refusal :=
  if s.regRuns then
    let n := if s.aon.wasReady then s.aon.wdogCount else s.aon.wdogCount + 1
    .next ((s.modAon fun a => { a with wdogCount := n }).moduleReset 3 .warm false).settle
  else .next s

/-! ### Pins (15 R359, 18 R419) -/

/-- The Regulator controls the sideband pins: READY has been reached since the last reset. -/
def State.pinsTaken (s : State) : Bool := s.aon.wasReady

/-- A PINMAP code of ALERT_N or FAULT_N asserts the pin before READY. -/
def State.pinmapAsserts (s : State) (lo : Nat) : Bool :=
  s.aon.fusesSensed && (bitsOf s.aon.pinmap.toNat lo 2 == 1 || bitsOf s.aon.pinmap.toNat lo 2 == 2)

/-- PG is released: every rail that the present state needs is in regulation (18 R408, R411). -/
def State.pgReleased (s : State) : Bool := s.powered

/-- THERM_N is asserted (16 R372). -/
def State.thermAsserted (s : State) : Bool := s.aon.crit || s.aon.supply == .thermalOff

/-- FAULT_N is asserted (15 R359, R365, 16 R372). -/
def State.faultAsserted (s : State) : Bool :=
  s.aon.supply == .thermalOff || s.aon.mstate == .bootHalt || s.aon.mstate == .failed || (s.powered && !s.pinsTaken && s.pinmapAsserts 18)

/-- ALERT_N is asserted: an entry that calls for attention lies at or after every NEXT returned to an owner (18 R419). -/
def State.alertAsserted (s : State) : Bool :=
  if s.pinsTaken then (match s.reg.logs.alertSeq with
    | some a => atOrAfter32 a s.reg.logs.ownerRead
    | none => false)
  else s.alive && s.pinmapAsserts 16

/-- The first 100 ms of a whole second of the timebase (18 Table 18.12). -/
def State.pulse (s : State) : Bool := decide (s.now % 1000000000 < 100000000)

/-- What GPIOn drives: 0 high-impedance, 1 low, 2 high, 3 weak pull-up (15 R359, 18 Table 18.12). -/
def State.gpioOut (s : State) (n : Fin 8) : Nat :=
  let map := if s.alive && s.aon.fusesSensed then bitsOf s.aon.pinmap.toNat (2 * n.val) 2 else 0
  let drive := fun (b : Bool) => if b then 2 else 1
  if !s.pinsTaken || s.aon.mstate == .s4 then map
  else match bitsOf s.reg.gpioCfg.toNat (4 * n.val) 4 with
    | 1 => drive (s.aon.mstate == .ready)
    | 2 => drive (allParts.any s.faulted)
    | 3 => drive (s.reg.tlevelT != 0 || s.reg.tlevelR != 0 || s.aon.crit)
    | 4 => drive s.pulse
    | 5 => drive (s.aon.mstate == .s1 || s.aon.mstate == .s2 || s.aon.mstate == .s3)
    | _ => map

/-- The removal LED and the fault LED (18 R415). -/
def State.removalLed (s : State) : Bool := s.aon.mstate == .quiesced || !s.hs.on
def State.faultLed (s : State) : Bool := s.faultAsserted

/-- HS_STS (18 Table 18.4): PGOOD is the level driven on PG. -/
def State.hsSts (s : State) : Nat :=
  (if s.hs.on then 1 else 0) + (if s.pgReleased then 2 else 0) + (if s.hs.uv then 4 else 0) + (if s.hs.ov then 8 else 0) +
    (if s.hs.oc then 16 else 0) + (if s.hs.seated then 32 else 0)

/-- HS_FAULT (18 Table 18.6). -/
def HotSwap.faultByte (h : HotSwap) : Nat :=
  (if h.uvSeen then 1 else 0) + (if h.ovSeen then 2 else 0) + (if h.ocSeen then 4 else 0) + (if h.scSeen then 8 else 0)

/-! ### MRST_N (15 R353, R349) -/

/-- A low of some ns on MRST_N is recognised: always from 10 µs, never below 5 µs, between them as it may be (log 1). -/
def State.mrstTaken (s : State) (ns : Nat) : Bool := decide (10000 ≤ ns) || (decide (5000 ≤ ns) && s.freeVal % 2 == 1)

/-- MRST_N_RELEASE (15 R353). -/
def execMrstNRelease (s : State) : Host.Outcome State Fault Refusal :=
  .next ((s.modAon fun a => { a with inReset := false }).modPins fun p => { p with mrstLow := false })

/-- MRST_N_LONG (15 R349): the low has lasted 1 s. -/
def execMrstNLong (s : State) : Host.Outcome State Fault Refusal :=
  if s.aon.inReset then .next (s.loseTraining.modAon fun a => { a with rstCause := 2 }) else .next s

/-- SELF_REFRESH_TIMEOUT (15 R350): a controller that does not acknowledge turns a warm start into a retraining start. -/
def execSelfRefreshTimeout (stack : StackId) (s : State) : Host.Outcome State Fault Refusal :=
  if s.aon.mstate == .booting && s.aon.start == .warm && decide (s.aon.group < 4) && (s.stack stack).selfRefresh then
    .next (s.loseTraining.modStack stack fun k => { k with selfRefresh := false })
  else .next s

/-! ### Firmware images (15 R363 to R366) -/

/-- The anti-rollback count: blown fuses of ARC (R366). -/
def Fuses.arcCount (f : Fuses) : Nat := ((List.range 64).filter fun i => f.arc.getLsbD i).length

/-- A field of an image header. -/
def imgSvn (b : List Byte) : Nat := fieldLE b 6 1
def imgFwver (b : List Byte) : Nat := fieldLE b 8 4
def imgLen (b : List Byte) : Nat := fieldLE b 0xC 4
def imgEntry (b : List Byte) : Nat := fieldLE b 0x10 4
def imgBody (b : List Byte) : List Byte := (b.drop 0x42E0).take (imgLen b)

/-- verify(slot) of R365: 1 verified, else the outcome of Table 15.9. A slot that does not hold what its header names has a
body that cannot match BDIG. -/
def Fuses.verify (f : Fuses) (b : List Byte) : Nat :=
  let rsa := (b.drop 0x50).take 384
  let slh := (b.drop 0x1D0).take 48
  let msg := b.take 0x200
  if fieldLE b 0 4 ≠ 0x4657444B ∨ fieldLE b 4 2 ≠ 1 ∨ 2 * 2 ^ 20 < imgLen b then 2
  else if sha384 rsa ≠ f.vkhRsa ∨ sha384 slh ≠ f.vkhSlh then 3
  else if imgSvn b < f.arcCount then 4
  else if pssVerify rsa msg ((b.drop 0x200).take 384) = false then 5
  else if slhVerify slh msg ((b.drop 0x380).take 16224) = false then 6
  else if sha384 (imgBody b) ≠ (b.drop 0x20).take 48 then 7
  else 1

/-- The bytes of a slot. -/
def Flash.slot (f : Flash) (b : Bool) : List Byte := if b then f.slotB else f.slotA

/-- Reads of a slot fail. -/
def Flash.badSlot (f : Flash) (b : Bool) : Bool := if b then f.badB else f.badA

/-- verify(slot) of a slot in flash: 8 where it cannot be read (R365). -/
def State.verifySlot (s : State) (b : Bool) : Nat := if s.flash.badSlot b then 8 else s.fuses.verify (s.flash.slot b)

/-! ### The configuration region (14 R322) -/

/-- Bytes of the region. -/
def cfgBytes : Nat := 0x660

/-- A region with its CRC entered. -/
def cfgSeal (b : List Byte) : List Byte := patch b 8 (bytesLE 4 (crc32c (b.drop 0x10)))

/-- The defaults of Table 14.17. -/
def cfgDefault : List Byte :=
  cfgSeal (padTo cfgBytes (bytesLE 4 0x47464344 ++ bytesLE 2 1 ++ bytesLE 2 0 ++ bytesLE 4 0 ++ bytesLE 4 0 ++ bytesLE 2 0 ++
    bytesLE 2 19284 ++ bytesLE 2 1000 ++ bytesLE 2 0 ++ bytesLE 4 0 ++ bytesLE 6 0 ++ List.replicate 14 0 ++
    ((List.replicate 12 (bytesLE 4 Port.cfgReset.toNat)).flatten)))

/-- The region is whole. -/
def cfgValid (b : List Byte) : Bool :=
  b.length == cfgBytes && fieldLE b 0 4 == 0x47464344 && fieldLE b 4 2 == 1 && fieldLE b 8 4 == crc32c (b.drop 0x10)

/-- The region that fields are written into: the stored one when it is whole, else the defaults (log 34). -/
def Flash.cfg (f : Flash) : List Byte := if cfgValid f.config then f.config else cfgDefault

/-- Write a field of the region. -/
def Flash.setCfg (f : Flash) (o : Nat) (v : List Byte) : Flash := { f with config := cfgSeal (patch f.cfg o v) }

/-- A host table entry of 24 bytes; FAM 0 is unused. -/
def hostEntOf (b : List Byte) : Option HostEnt :=
  if fieldLE b 16 1 = 0 then none
  else some ⟨BitVec.ofNat 128 (fieldLE b 0 16), BitVec.ofNat 8 (fieldLE b 16 1), BitVec.ofNat 8 (fieldLE b 17 1), BitVec.ofNat 8 (fieldLE b 18 1)⟩

/-- PORT_CFG without its reserved bits. -/
def portCfgOf (v : Nat) : Word := BitVec.ofNat 32 (v % 128)

/-- The provisional module ID (12 R267). -/
def Fuses.provisionalId (f : Fuses) : BitVec 14 := BitVec.ofNat 14 (crc32c (padTo 16 f.serial))

/-- Take a configuration region into the Regulator and the ports. -/
def State.applyCfg (s : State) (b : List Byte) : State :=
  let id := fieldLE b 0x10 2
  let set := id.testBit 15
  let hosts := (List.range 64).foldl (fun (m : Smap (Option HostEnt)) i => m.set none i (hostEntOf (b.drop (0x60 + 24 * i)))) []
  let s1 := s.modReg fun r => { r with
    moduleId := if set then BitVec.ofNat 14 id else s.fuses.provisionalId
    assigned := set
    tport := BitVec.ofNat 16 (fieldLE b 0x12 2)
    pwrLimit := BitVec.ofNat 16 (fieldLE b 0x14 2)
    gpioCfg := BitVec.ofNat 32 (fieldLE b 0x18 4)
    mpOwner := BitVec.ofNat 48 (fieldBE b 0x1C 6)
    hosts := hosts }
  { s1 with fabric := { s1.fabric with ports := s1.fabric.ports.mapIdx fun i q => { q with cfg := portCfgOf (fieldLE b (0x30 + 4 * i) 4) } } }

/-- What the boot ROM in BOOT_HALT takes of the configuration region: the module ID and MP_OWNER (12 R288, log 34). -/
def State.loadIds (s : State) : State :=
  let b := if cfgValid s.flash.config then s.flash.config else cfgDefault
  let id := fieldLE b 0x10 2
  s.modReg fun r => { r with
    moduleId := if id.testBit 15 then BitVec.ofNat 14 id else s.fuses.provisionalId
    assigned := id.testBit 15
    mpOwner := BitVec.ofNat 48 (fieldBE b 0x1C 6) }

/-- Read the configuration region at a start. -/
def State.loadCfg (s : State) : State :=
  if cfgValid s.flash.config then s.applyCfg s.flash.config
  else (s.applyCfg cfgDefault).logEvent evCfgInvalid 51 srcNone []

/-! ### User calibration (16 R379) -/

/-- The region is whole: MAGIC, VER, N and the CRC over its entries. -/
def calValid (b : List Byte) : Bool :=
  let n := fieldLE b 6 2
  fieldLE b 0 4 == 0x4C414355 && fieldLE b 4 2 == 1 && decide (n ≤ 1024) && decide (16 + 12 * n ≤ b.length) &&
    fieldLE b 8 4 == crc32c ((b.drop 16).take (12 * n))

/-- Its entries as bytes. -/
def calEntries (b : List Byte) : List Byte := (b.drop 16).take (12 * fieldLE b 6 2)

/-- Apply the user calibration at a start. -/
def State.loadCal (s : State) : State :=
  if calValid s.flash.userCal then s.modReg fun r => { r with cal := calEntries s.flash.userCal }
  else s.logEvent evCalUserInvalid 51 srcNone []

/-- The user entry of a sensor: GAIN and OFS. -/
def calOf (cal : List Byte) (id : Nat) : Option (Ext × Ext) :=
  ((List.range (cal.length / 12)).find? fun i => fieldLE cal (12 * i) 2 == id && fieldLE cal (12 * i + 2) 1 == 0).map fun i =>
    (ofB32 (fieldLE cal (12 * i + 4) 4), ofB32 (fieldLE cal (12 * i + 8) 4))

/-- A reading with the user calibration applied: value × GAIN + OFS. -/
def State.calibrated (s : State) (r : Reading) : Ext := match calOf s.reg.cal r.id.toNat with
  | some (g, o) => ((ofB32 r.value.toNat).mul g).add o
  | none => ofB32 r.value.toNat

end Sys2Proof.Machine
end

