-- ==== Sys2Proof/Machine/Boot.lean ====
section
/-! DEFINITION. Start-up by release groups, READY, the removal quiesce and the hot-swap controller (15 R350 to R366, 17 R399,
18 R409 to R415). -/

namespace Sys2Proof.Machine

/-! ### Release groups (15 R352, R362) -/

/-- The slots in the order in which the boot ROM tries them (15 R363): the ACTIVE one first, the other first once two watchdog
resets have come before READY. -/
def State.slotOrder (s : State) : List Bool :=
  let a := s.flash.activeB
  if 2 ≤ s.aon.wdogCount then [!a, a] else [a, !a]

/-- Try the slots of a list, entering each outcome; the first that verifies starts. Where the tests before BDIG pass, the body
is loaded into Regulator SRAM at ENTRY (15 R364, R365). -/
def State.trySlots (s : State) : List Bool → Option Bool × State
  | [] => (none, s)
  | b :: bs =>
    let code := s.verifySlot b
    let img := s.flash.slot b
    let s0 := if code = 1 ∨ code = 7 then s.modReg fun r => { r with image := some (imgEntry img, imgBody img) } else s
    let s1 := s0.modAon fun a => if b then { a with haltB := BitVec.ofNat 4 code } else { a with haltA := BitVec.ofNat 4 code }
    if code = 1 then (some b, s1) else State.trySlots s1 bs

/-- Group 2 is released: fuses are sensed, PINMAP is latched, and the boot ROM verifies an image. The Regulator then reads its
configuration and calibration and announces itself; with no image the module stays in BOOT_HALT (15 R362, R365). -/
def State.releaseRegulator (s : State) : State :=
  let s1 := s.modAon fun a => { a with group := 2, fusesSensed := true, pinmap := s.fuses.pinmap }
  match s1.trySlots s1.slotOrder with
  | (some b, s2) =>
    let img := s2.flash.slot b
    let s3 := (s2.modAon fun a => { a with slotB := some b }).modReg fun r => { r with
      fwver := BitVec.ofNat 32 (imgFwver img), svn := BitVec.ofNat 8 (imgSvn img) }
    (s3.loadCfg.loadCal).announce
  | (none, s2) => (s2.loadIds.modAon fun a => { a with mstate := .bootHalt }).announce

/-- The start-up work of the group released last is done, and bring-up goes on (15 R352, 18 R414). -/
def State.mayRelease (s : State) : Bool :=
  s.powered && !s.aon.inReset && s.aon.mstate == .booting && (decide (s.aon.group < 2) || s.aon.quiescing.isNone) &&
    (s.aon.group != 4 || s.aon.hbmTested)

/-- Release the next group. Group 4: the controllers leave self-refresh on retained training. Group 5: the cores are clear.
Group 6: enabled ports wait for their peers. -/
def State.releaseNext (s : State) : State :=
  let up := fun (t : State) => t.modAon fun a => { a with group := a.group + 1 }
  match s.aon.group with
  | 1 => s.releaseRegulator
  | 3 => { up s with stk := s.stk.map fun k => { k with selfRefresh := false } }
  | 4 => { up s with cores := s.cores.map Core.afterReset }
  | 5 => { up s with fabric := { s.fabric with ports := s.fabric.ports.map fun q => { q with state := if q.en then .waitPeer else .disabled } } }
  | 0 | 2 => up s
  | _ => s

/-- GROUP_RELEASE (15 R352). -/
def execGroupRelease (s : State) : Host.Outcome State Fault Refusal := if s.mayRelease then .next s.releaseNext.settle else .next s

/-- SUPPLIES_VALID (15 R362, 18 R411): every rail is in regulation, PG is released, and a cold start begins, held in reset while MRST_N
is low. Residency counters start again (16 R376). -/
def execSuppliesValid (s : State) : Host.Outcome State Fault Refusal :=
  if s.hs.on && s.aon.supply == .off then
    .next { s with
      aon := { Aon.reset with supply := .on, inReset := s.pins.mrstLow }
      cores := s.cores.map fun k => { k with resPl := [] } }
  else .next s

/-! ### HBM at a start (11 R245, 15 R354, R355, Tables 15.6, 15.7) -/

/-- A stack fails: the module is not ready (11 R245, 15 R361). -/
def State.hbmFailed (s : State) (h : StackId) : State :=
  (s.modAon fun a => { a with mstate := .failed }).logEvent evHbmInitFail (27 + h.val) srcNone (bytesLE 1 h.val)

/-- Training or the self-test is under way. -/
def State.hbmStarting (s : State) : Bool := s.aon.mstate == .booting && s.aon.group == 4 && s.aon.start != .warm && !s.aon.hbmTested

/-- HBM_TRAINING_COMPLETE (11 R245). -/
def execHbmTrainingComplete (failed : Option StackId) (s : State) : Host.Outcome State Fault Refusal :=
  if s.hbmStarting && !s.aon.hbmTrained then match failed with
    | some h => .next (s.hbmFailed h)
    | none => .next (s.modAon fun a => { a with hbmTrained := true })
  else .next s

/-- The temperature at which a stack was trained: its last sample, else a value the manual does not give (log 1). -/
def State.trainTemps (s : State) (h : StackId) : Word := match s.aon.samples.get none (0x28 + h.val) with
  | some d => d.value
  | none => BitVec.ofNat 32 (Config.freeValue (s.free + h.val))

/-- HBM_SELF_TEST_COMPLETE (11 R245, Table 15.6): every codeword has been written; training is retained from here on. -/
def execHbmSelfTestComplete (failed : Option StackId) (s : State) : Host.Outcome State Fault Refusal :=
  if s.hbmStarting && s.aon.hbmTrained then match failed with
    | some h => .next (s.hbmFailed h)
    | none =>
      .next { (s.modAon fun a => { a with hbmTested := true, retained := true }) with
        hbm := .reset
        free := s.free + 8
        stk := s.stk.mapIdx fun i k => { k with trained := true, trainTemp := s.trainTemps (Fin.ofNat 8 i) } }
  else .next s

/-- Two temperatures differ by more than 20 °C. -/
def tempsApart (a b : Word) : Bool := Ext.lt (Ext.ofNat 20) ((ofB32 a.toNat).sub (ofB32 b.toNat)).abs

/-- WARM_TRAINING_CHECK (Table 15.7, 15 R355): a stack too far from its training temperature invalidates the training; a
failed check does, and logs EV_HBM_RETRAIN. -/
def execWarmTrainingCheck (ok : Bool) (temps : List (BitVec 32)) (s : State) : Host.Outcome State Fault Refusal :=
  if s.aon.mstate == .booting && s.aon.group == 4 && s.aon.start == .warm && !s.aon.hbmTested then
    let apart := allStacks.any fun h => match temps[h.val]? with
      | some t => tempsApart t (s.stack h).trainTemp
      | none => false
    if apart then .next s.loseTraining
    else if ok then .next (s.modAon fun a => { a with hbmTrained := true, hbmTested := true })
    else .next (s.loseTraining.logEvent evHbmRetrain 53 srcNone [])
  else .next s

/-! ### READY (15 R349, R358, R362, R366, 16 R372) -/

/-- Blow fuses in ascending order until the count equals `n`. -/
def blowTo (f : Fuses) : Nat → Nat → Fuses
  | _, 0 => f
  | n, k + 1 =>
    if n ≤ f.arcCount then f
    else match (List.range 64).find? fun i => !f.arc.getLsbD i with
      | some i => blowTo { f with arc := f.arc ||| BitVec.ofNat 64 (2 ^ i) } n k
      | none => f

/-- The module is ready and logs its reset, and the fatal error that brought it (15 R349, R358). -/
def State.readyLog (s : State) : State :=
  let s1 := (s.modAon fun a => { a with mstate := .ready, wdogCount := 0, wasReady := true }).logEvent evReset 53 srcNone (bytesLE 1 s.aon.rstCause.toNat)
  match s1.aon.fatal with
  | some c => (s1.logEvent evFatal 53 srcNone (bytesLE 1 c.toNat)).modAon fun a => { a with fatal := none }
  | none => s1

/-- A thermal shutdown before this cold start is logged (16 R372). -/
def State.readyShutdown (s : State) : State :=
  if s.flash.shutdown ∧ s.aon.start = .cold then
    { s.logEvent evThermShutdown 53 srcNone [] with flash := { s.flash with shutdown := false } }
  else s

/-- The anti-rollback counter is advanced to the SVN of the running image (15 R366). -/
def State.readyArc (s : State) : State :=
  if s.fuses.arcCount < s.reg.svn.toNat then
    { s.logEvent evArcAdvance 52 srcNone [] with fuses := blowTo s.fuses s.reg.svn.toNat 64 }
  else s

/-- MODULE_READY (15 R362). -/
def execModuleReady (s : State) : Host.Outcome State Fault Refusal :=
  if s.aon.mstate == .booting && s.aon.group == 6 && s.aon.quiescing.isNone && !s.aon.inReset then
    .next (s.readyLog.readyShutdown.readyArc.retarget.announce).settle
  else .next s

/-! ### Removal quiesce (17 R399, 18 R414) -/

/-- Fault every partition that exists. -/
def State.faultAll (s : State) (cause : Nat) : List PartId → State
  | [] => s
  | p :: ps => State.faultAll (if s.partExists p then s.partFault p cause none else s) cause ps

/-- A low of some µs on RMV_REQ_N is a request: always from 10 ms, never below 1 ms, between them as it may be (log 1). -/
def State.rmvTaken (s : State) (us : Nat) : Bool := decide (10000 ≤ us) || (decide (1000 ≤ us) && s.freeVal % 2 == 1)

/-- The request is recognised: from READY on every partition faults with cause 8; before READY bring-up stops with groups 3 to
6 in reset. -/
def State.beginQuiesce (s : State) : State :=
  let s1 := (s.modAon fun a => { a with quiescing := some s.aon.time }).logEvent evRmvReq 53 srcNone []
  if s.pinsTaken then s1.faultAll 8 allParts
  else
    let logs := s1.reg
    { s1.resetGroups with reg := logs, aon := { s1.aon with group := min 2 s1.aon.group, hbmTrained := false } }

/-- BOOT_HALT and FAILED end by a module reset, a power-off or READY alone (15 R361). -/
def State.stuck (s : State) : Bool := s.aon.mstate == .bootHalt || s.aon.mstate == .failed

/-- RMV_REQ (17 R399). -/
def execRmvReq (lowUs : Nat) (s : State) : Host.Outcome State Fault Refusal :=
  if s.powered && s.rmvTaken lowUs && s.aon.quiescing.isNone && s.aon.mstate != .quiesced && !s.stuck then .next (s.freeNext.beginQuiesce).settle
  else .next s.freeNext

/-- Commands are in flight no longer. -/
def State.allEnded (s : State) : Bool := allCores.all fun c => ((s.core c).ctl.slots.all fun x => x.stage.isDone) && (s.core c).ctl.hold.isNone

/-- QUIESCED (17 Table 17.7): the ports go down, HBM enters self-refresh, and the module reports QUIESCED. -/
def execQuiesced (s : State) : Host.Outcome State Fault Refusal :=
  match s.aon.quiescing with
  | none => .next s
  | some t0 =>
    if s.powered && !s.aon.inReset && s.allEnded && !s.stuck then
      let s1 := s.takePortsDown .removal allPorts
      let s2 : State := { (s1.modAon fun a => { a with mstate := .quiesced, quiescing := none }) with
        stk := s1.stk.map fun k => { k with selfRefresh := true } }
      .next ((s2.logEvent evQuiesced 53 srcNone (bytesLE 4 ((s.now - t0.toNat) / 1000))).announce).settle
    else .next s

/-! ### The hot-swap controller (18 R409 to R415) -/

/-- The debounce runs: SEAT low and the input in range, with the switch off and not latched (18 Table 18.7). -/
def HotSwap.rebounce (h : HotSwap) : HotSwap :=
  { h with debouncing := h.seated && !h.uv && !h.ov && !h.on && !h.latched && !h.pcycling }

/-- SEAT_ASSERT (18 R411). -/
def execSeatAssert (s : State) : Host.Outcome State Fault Refusal := .next (s.modHs fun h => ({ h with seated := true }).rebounce)

/-- DEBOUNCE_COMPLETE (18 R411): the switch turns on. -/
def execDebounceComplete (s : State) : Host.Outcome State Fault Refusal :=
  if s.hs.debouncing then .next (s.modHs fun h => { h with debouncing := false, on := true }) else .next s

/-- SEAT_DEASSERT (18 R413): the switch turns off and the module loses power; extraction releases the latch. -/
def execSeatDeassert (s : State) : Host.Outcome State Fault Refusal :=
  .next (s.powerOff.modHs fun h => { h with seated := false, on := false, debouncing := false, oc := false, latched := false })

/-- VIN_POWER_UP (18 R410): every field of the controller resets; a SEAT that is low is read again (SEAT_ASSERT). -/
def execVinPowerUp (s : State) : Host.Outcome State Fault Refusal := .next (s.powerOff.modHs fun _ => HotSwap.reset)

/-- INPUT_UNDERVOLTAGE (18 R412). -/
def execInputUndervoltage (s : State) : Host.Outcome State Fault Refusal :=
  .next (s.modHs fun h => { h with uv := true, uvSeen := h.uvSeen || h.on, debouncing := false })

/-- RAILS_FALL (18 R412): PG low, switch off, power lost. -/
def execRailsFall (s : State) : Host.Outcome State Fault Refusal := .next (s.powerOff.modHs fun h => ({ h with on := false }).rebounce)

/-- INPUT_OVERVOLTAGE (18 R412). -/
def execInputOvervoltage (s : State) : Host.Outcome State Fault Refusal :=
  .next (s.modHs fun h => { h with on := false, ov := true, ovSeen := h.ovSeen || h.on, debouncing := false })

/-- INPUT_OVERCURRENT (18 R412). -/
def execInputOvercurrent (s : State) : Host.Outcome State Fault Refusal :=
  if s.hs.on then .next (s.modHs fun h => { h with on := false, oc := true, ocSeen := true, latched := true }) else .next s

/-- INPUT_SHORT_CIRCUIT (18 R412). -/
def execInputShortCircuit (s : State) : Host.Outcome State Fault Refusal :=
  if s.hs.on then .next (s.modHs fun h => { h with on := false, scSeen := true, latched := true }) else .next s

/-- INPUT_RETURN (18 R412): with the rails held throughout, the input's return has no effect on the module; else power-up
restarts from the debounce. -/
def execInputReturn (s : State) : Host.Outcome State Fault Refusal :=
  .next (s.modHs fun h =>
    let z := { h with uv := false, ov := false }
    if s.aon.supply ≠ .off ∧ h.latched = false ∧ h.seated = true then { z with on := true } else z.rebounce)

/-- HS_CTL.PCYCLE (18 Table 18.5): the switch is off for 1 s, OC is cleared; the module goes as in a pull (R413). -/
def State.startPcycle (s : State) : State :=
  s.powerOff.modHs fun h => { h with on := false, oc := false, latched := false, debouncing := false, pcycling := true }

/-- PCYCLE (18 R410). -/
def execPcycle (s : State) : Host.Outcome State Fault Refusal := .next s.startPcycle

/-- PCYCLE_RESTART (18 R410). -/
def execPcycleRestart (s : State) : Host.Outcome State Fault Refusal :=
  if s.hs.pcycling then .next (s.modHs fun h => ({ h with pcycling := false }).rebounce) else .next s

/-- HS_FAULT is W1C (18 Table 18.6). -/
def HotSwap.clearFaults (h : HotSwap) (v : BitVec 8) : HotSwap :=
  { h with
    uvSeen := h.uvSeen && !v.getLsbD 0
    ovSeen := h.ovSeen && !v.getLsbD 1
    ocSeen := h.ocSeen && !v.getLsbD 2
    scSeen := h.scSeen && !v.getLsbD 3 }

/-- An offset of Table 18.3. -/
def hsOffset (offset : Nat) : Bool := decide (offset ≤ 6)

/-- REGISTER_WRITE (00 R9, 18 R410): HS_CTL and HS_FAULT take writes, the read-only registers ignore them, and an offset
outside Table 18.3 is not acknowledged. -/
def execRegisterWrite (offset : BitVec 8) (value : BitVec 8) (s : State) : Host.Outcome State Fault Refusal :=
  let s1 := s.modHs fun h => { h with nack := !hsOffset offset.toNat }
  if offset = 1 then (if value.getLsbD 0 then .next s1.startPcycle else .next s1)
  else if offset = 6 then .next (s1.modHs fun h => h.clearFaults value)
  else .next s1

/-! ### Reads on I2C (18 R409, R410) -/

/-- The 7-bit addresses of the hot-swap controller and of the FRU memory at the slot that the SLOT inputs give. -/
def Pins.hsAddr (p : Pins) : Nat := 0x40 + p.slot.toNat
def Pins.fruAddr (p : Pins) : Nat := 0x50 + p.slot.toNat

/-- A byte of the controller's registers; HS_CTL is write-only and reads as 0 (00 R9). -/
def State.hsByte (s : State) (offset : Nat) : Option Byte :=
  if hsOffset offset then
    ([BitVec.ofNat 8 s.hsSts, 0] ++ bytesLE 2 s.hs.vin.toNat ++ bytesLE 2 s.hs.iin.toNat ++ [BitVec.ofNat 8 s.hs.faultByte])[offset]?
  else none

/-- What a read of one byte finds on the I2C bus, whether the switch is on or off: a controller's register, a byte of the FRU memory,
or no acknowledgement. The other port of the FRU memory, FRU_READ, reads the same stored bytes. -/
def State.i2cRead (s : State) (addr offset : Nat) : Option Byte :=
  if addr = s.pins.hsAddr then s.hsByte offset
  else if addr = s.pins.fruAddr then s.fuses.fru[offset]?
  else none

end Sys2Proof.Machine
end

