-- ==== Sys2Proof/Machine/Events.lean ====
section
/-! DEFINITION. What happens in the cores, the router, the stream engine, the queue manager and the update engine beside the
decoding of lines (05 R118, R109, 06 R133, R134, 07 R146, 08 R176, R182, 09, 10 R221 to R235, 11 R251, 01 R17). -/

namespace Sys2Proof.Machine

/-! ### Cores -/

/-- COMMAND_RETIRE (05 R118): the finished command that retires next. -/
def execCommandRetire (core : CoreId) (s : State) : Host.Outcome State Fault Refusal := .next (s.retireOldest core).settle

/-- The command of a core with a tag, in flight or held at decode. -/
def Core.tagged (k : Core) (tag : BitVec 16) : Option InFlight :=
  match k.ctl.slots.find? fun x => (lineHdr x.line).tag == tag && !x.stage.isDone with
  | some x => some x
  | none => match k.ctl.hold with
    | some (x, _) => if (lineHdr x.line).tag = tag then some x else none
    | none => none

/-- DEADLINE_PASSED (10 R235): the timebase passes the deadline of a command, and the escapement has detected it, which
takes less than 64 ns (log 1). -/
def execDeadlinePassed (core : CoreId) (tag : BitVec 16) (s : State) : Host.Outcome State Fault Refusal :=
  match (s.core core).tagged tag with
  | some x => match x.deadline with
    | some d => .next ((s.freeNext).advanceTo (d.at_.toNat + 1 + s.freeVal % 64)).settle
    | none => .next s
  | none => .next s

/-- WAITQ_TIMEOUT (05 R109): TMO of the held WAITQ runs out. -/
def execWaitqTimeout (core : CoreId) (s : State) : Host.Outcome State Fault Refusal :=
  match (s.core core).ctl.hold with
  | some (x, t0) => match x.line with
    | .waitq l => if l.tmo = 0 then .next s else .next (s.advanceTo (t0.toNat + l.tmo.toNat)).settle
    | _ => .next s
  | none => .next s

/-! ### Router -/

/-- ROUND_ADMISSION (07 R146). -/
def execRoundAdmission (round : Nat) (s : State) : Host.Outcome State Fault Refusal := .next (s.admitRound round).settle

/-! ### amax slots and the gradient format (06 R133, R134, 08 R176) -/

/-- An EPI with AMX_EN that the push waits for: decoded before the SEED, of place `tok`, that makes it due. -/
def InFlight.holdsPush (tok : Nat) (x : InFlight) : Bool := match x.line with
  | .epi l => l.amxEn && decide (x.token < tok)
  | _ => false

/-- The core has decoded a SEED of another step than the partition's, and every EPI with AMX_EN before it has retired. -/
def CoreCtl.seedPast (t : CoreCtl) : Bool := match t.seedQ with
  | [] => false
  | e :: _ => !(t.slots.any fun x => x.holdsPush e.1)

/-- The push of a partition is due (R133); a faulted partition keeps its slots (17 R392). -/
def State.pushDue (s : State) (p : PartId) : Bool :=
  let cs := s.coresOf p
  s.partExists p && !s.faulted p && !cs.isEmpty && cs.all fun c => (s.core c).ctl.seedPast

/-- The step of the SEED that made the push due, on the lowest core (R134). -/
def State.pushStep (s : State) (p : PartId) : BitVec 32 := match (s.coresOf p).head? with
  | some c => (match (s.core c).ctl.seedQ with
    | e :: _ => e.2
    | [] => (s.part p).amaxStep)
  | none => (s.part p).amaxStep

/-- The cores of a list have reached a step: their SEEDs of it count no more. -/
def State.seedsReached (s : State) (step : BitVec 32) : List CoreId → State
  | [] => s
  | c :: cs => State.seedsReached (s.modCtl c fun t => { t with seedQ := t.seedQ.dropWhile fun e => e.2 == step }) step cs

/-- Push one slot; `next` tells whether the new step is STEP + 1. -/
def AmaxSlot.push (a : AmaxSlot) (next : Bool) : AmaxSlot :=
  let h := a.hptr + 1
  let b := if a.curValid then
      { a with
        hptr := h
        hist := a.hist.set 0#32 h.toNat (if a.curNan then 0x7FC00000#32 else a.cur)
        hcnt := if a.hcnt.toNat < 16 then a.hcnt + 1 else a.hcnt }
    else a
  if next then { b with cur := a.nxt, curValid := a.nxtValid, curNan := a.nxtNan, nxt := 0, nxtValid := false, nxtNan := false }
  else { b with cur := 0, curValid := false, curNan := false, nxt := 0, nxtValid := false, nxtNan := false }

/-- The history entries that the selection reads: HIST[0..HCNT-1] (08 R176). -/
def AmaxSlot.history (a : AmaxSlot) : List Ext :=
  (List.range a.hcnt.toNat).map fun k => ofB32 (a.hist.get 0#32 k).toNat

/-- ceil(log2 x) of a positive value; +∞ counts as 128. -/
def ceilLog2 : Ext → Int
  | .fin _ m e => (clog2 m : Int) + e
  | _ => 128

/-- ceil(log2 (a / b)) of positive values a ≥ b; 255 for a = +∞. -/
def spreadOf : Ext → Ext → Nat
  | .fin _ ma ea, .fin _ mb eb =>
    if eb ≤ ea then clog2 (ceilDiv (ma * 2 ^ (ea - eb).toNat) mb) else clog2 (ceilDiv ma (mb * 2 ^ (eb - ea).toNat))
  | _, _ => 255

/-- topexp of a candidate's format code. -/
def topExp (code : BitVec 8) : Int := match Fmt.ofCode (code.setWidth 4) with
  | some .f8a => 7
  | some .f8b | some .b16 => 15
  | _ => 127

/-- The selection of R176: candidate, exponent, and whether the previous one was held. -/
def GradRule.choose (r : GradRule) (a : AmaxSlot) : Nat × Int × Bool :=
  let h := a.history
  let f := h.filter fun x => Ext.lt .zero x
  let nans := h.any Ext.isNan
  match f with
  | [] =>
    if nans then (match r.prev with
      | some (v, e) => (v, e, true)
      | none => (r.defv, r.inite.toInt, true))
    else (r.defv, r.inite.toInt, false)
  | x :: xs =>
    let hi := xs.foldl Ext.max x
    let lo := xs.foldl Ext.min x
    let sp := spreadOf hi lo
    let v := ((List.range r.ncand).find? fun k =>
      let w := (r.spread.getD k 0).toNat
      decide (sp ≤ w) || w == 255).getD (r.ncand - 1)
    let e := topExp (r.cand.getD v 0) - r.margin.toNat - ceilLog2 hi
    (v, max (-126) (min 127 e), false)

/-- Write one scale record in every core of a list. It is a partial write: where the rest of its codeword is uncorrectable nothing
lands and the partition faults (11 R259). -/
def State.writeScale (s : State) (p : PartId) (e : Int) (w : BitVec 32) : List CoreId → State
  | [] => s
  | c :: cs =>
    let sa := w.getLsbD 20
    let x := s.writeCore c false (32 * (w.toNat % 2 ^ 20) + if sa then 0 else 8) (bytesLE 4 (toB32 (.fin false 1 (if sa then -e else e))))
    State.writeScale (if x.1 then x.2 else x.2.partFault p 1 (some c)) p e w cs

/-- Write the scale records of an entry in every core of the partition. -/
def State.writeScales (s : State) (p : PartId) (e : Int) (cores : List CoreId) : List (BitVec 32) → State
  | [] => s
  | w :: ws => State.writeScales (s.writeScale p e w cores) p e cores ws

/-- The selector line: a CALL to the variant (R176). -/
def selectorLine (target : BitVec 48) : Line := .branch ⟨⟨0, false, true⟩, 1, 0, target, 0, 0⟩

/-- Select for one entry of the rule table. The selector line is written where its page has W, and nowhere else (11 R250, log 49). -/
def State.selectRule (s : State) (p : PartId) (i : Nat) : State :=
  match (s.part p).rules[i]? with
  | none => s
  | some r =>
    let (v, e, held) := r.choose ((s.part p).amax.get AmaxSlot.reset r.amx.toNat)
    let s1 := if held then s.countPart p .gfmtHold 1 else s
    let s2 := s1.modPart p fun q => { q with rules := q.rules.set i { r with prev := some (v, e) } }
    let s3 := s2.writeScales p e (s.coresOf p) (r.recs.take r.nrec)
    if ((s3.part p).checkRange r.sel.toNat 32 .w).isSome then s3
    else
      let w := s3.writeHbm p r.sel.toNat (lineBytes (selectorLine (r.vt.getD v 0)))
      if w.1 then w.2 else w.2.partFault p 5 none

def State.selectRules (s : State) (p : PartId) : List Nat → State
  | [] => s
  | i :: is => State.selectRules (s.selectRule p i) p is

/-- The push of a partition with the selection in its window. -/
def State.amaxPush (s : State) (p : PartId) : State :=
  if s.pushDue p then
    let t := s.pushStep p
    let next := decide (t = (s.part p).amaxStep + 1)
    let s1 := s.modPart p fun q => { q with amax := q.amax.foldl (fun m e => m.set AmaxSlot.reset e.1 (e.2.push next)) [] }
    let s2 := s1.selectRules p (List.range (s1.part p).rules.length)
    (s2.modPart p fun q => { q with amaxStep := t }).seedsReached t (s2.coresOf p)
  else s

/-- AMAX_PUSH (06 R133, R134, 08 R176). -/
def execAmaxPush (p : PartId) (s : State) : Host.Outcome State Fault Refusal := .next (s.amaxPush p).settle

/-! ### Stash release (08 R182) -/

/-- A slot is a STASH or UNSTASH decoded before a SEED. -/
def InFlight.stashBefore (tok : Nat) (x : InFlight) : Bool := decide (x.token < tok) && (match x.line with
  | .stash _ | .unstash _ => true
  | _ => false)

/-- The core belongs to a faulted partition. -/
def State.coreFaulted (s : State) (c : CoreId) : Bool := (s.core c).part.any s.faulted

/-- The oldest release that is due happens once every earlier STASH and UNSTASH has retired; a faulted partition keeps its stash (17
R392). -/
def State.stashRelease (s : State) (c : CoreId) : State :=
  let k := s.core c
  if s.coreFaulted c then s else match k.stash.releaseDue with
  | [] => s
  | tok :: rest =>
    let held := match k.ctl.hold with
      | some (x, _) => x.stashBefore tok
      | none => false
    if held || k.ctl.slots.any (InFlight.stashBefore tok) then s
    else s.modStash c fun q => { q with fill := 0, dir := [], bytes := [], releaseDue := rest }

/-- STASH_RELEASE (08 R182). -/
def execStashRelease (core : CoreId) (s : State) : Host.Outcome State Fault Refusal := .next (s.stashRelease core).settle

/-! ### Transfer descriptors (10 R229 to R233) -/

/-- The fields of Table 10.4. -/
def Xdesc.ofBytes (b : List Byte) : Xdesc where
  kind := b.getD 4 0
  last := (b.getD 5 0).getLsbD 0
  smod := BitVec.ofNat 14 (fieldLE b 6 2)
  saddr := BitVec.ofNat 48 (fieldLE b 8 6)
  len := fieldLE b 0x10 4
  dofs := fieldLE b 0x14 4
  issued := false
  landed := false
  maps := []

/-- Codes, alignment and bounds of Table 10.4, and the translation of a source in this module's HBM. -/
def State.xdescOk (s : State) (q : Queue) (b : List Byte) (d : Xdesc) : Bool :=
  decide (fieldLE b 2 2 < 16 ∧ fieldLE b 0 3 < 2 ^ 20) && decide (b.getD 3 0 = 0) && decide (d.kind.toNat ≤ 1) &&
    decide ((b.getD 5 0).toNat < 2) && decide (fieldLE b 6 2 < 2 ^ 14) && decide (fieldLE b 14 2 = 0) &&
    decide (d.saddr.toNat % 32 = 0) && decide (1 ≤ d.len ∧ d.dofs % 32 = 0 ∧ d.dofs + d.len ≤ q.slotb) &&
    (d.kind == 1 || ((s.part q.part).checkRange d.saddr.toNat d.len .r).isNone)

/-- Log EV_PDL_ERROR with core, list address and index, and with the cause where the line itself cannot be read. -/
def State.logPdl (s : State) (c : CoreId) (l : PrologueList) (cause : List Byte) : State :=
  s.logEvent evPdlError c.val l.part.val (bytesLE 1 c.val ++ bytesLE 6 l.addr.toNat ++ bytesLE 1 l.next ++ cause)

/-- Take one descriptor to its queue: whether it is valid, and whether a skipped MARK named it (R229, R230, R236, R238).
None while the queue has no room for a new item. -/
def State.postDesc (s : State) (c : CoreId) (qid : Qid) (q : Queue) (d : Xdesc) (ok skip : Bool) : Option State :=
  let one := fun (t : State) => t.countPart q.part .pfCancelUnissued 1
  if q.drainOpen then
    some ((if ok || skip then one else id) (s.setQueue qid { q with drainOpen := !d.last }))
  else
    let fresh := (q.items.find? fun i => !i.closed).isNone
    if fresh && !q.room then none
    else
      let ts := s.aon.time
      let q1 := if fresh then q.alloc fun i => { i with full := true, ts := ts } else q
      match q1.items.find? fun i => !i.closed with
      | none => some s
      | some j =>
        let i := { j with fed := c :: j.fed.erase c }
        if skip || i.cancelled then
          let cut := i.cancel
          some (one ((s.setQueue qid { (q1.putItem cut.1) with drainOpen := !d.last }).countPart q.part .pfCancelUnissued cut.2.1 |>.countPart q.part .pfCancelIssued cut.2.2))
        else if ok then
          some (s.setQueue qid (q1.putItem { i with descs := i.descs ++ [d], closed := d.last, bytes := i.bytes + d.len }))
        else if fresh || d.last then
          let cut := i.cancel
          some ((s.setQueue qid { (q1.putItem cut.1) with drainOpen := !d.last }).countPart q.part .pfCancelUnissued cut.2.1 |>.countPart q.part .pfCancelIssued cut.2.2)
        else some (s.setQueue qid (q1.putItem i))

/-- A descriptor of a skipped MARK that reaches no queue counts as cancelled before issue (R236). -/
def State.countSkipped (s : State) (p : PartId) (skip : Bool) : State := if skip then s.countPart p .pfCancelUnissued 1 else s

/-- The stream engine takes the next descriptor of a core's first list (R230); it waits for a queue that is not cached (R221). -/
def State.takeDesc (s : State) (c : CoreId) : State :=
  match (s.core c).stash.lists with
  | [] => s
  | l :: ls =>
    let on := fun (t : State) => t.modStash c fun k => { k with
      lists := if l.next + 1 < l.count then { l with next := l.next + 1 } :: ls else ls }
    let va := l.addr.toNat + 32 * l.next
    match (s.part l.part).checkRange va 32 .r with
    | some (st, _) => on ((s.logPdl c l (bytesLE 2 st.toNat)).countSkipped l.part l.skip)
    | none => match s.readHbm l.part va 32 with
      | (none, s1) => s1.partFault l.part 5 (some c)
      | (some b, s1) =>
        let qid := BitVec.ofNat 20 (fieldLE b 0 4)
        let d := Xdesc.ofBytes b
        match s1.queue qid with
        | none => on ((s1.logPdl c l []).countSkipped l.part l.skip)
        | some q =>
          if !q.isPf || q.part != l.part || decide (2 ^ 20 ≤ fieldLE b 0 4) then
            on ((s1.logPdl c l []).countSkipped l.part l.skip)
          else if !s.cached qid then s
          else
            let ok := s1.xdescOk q b d
            match s1.postDesc c qid q d ok l.skip with
            | none => s
            | some s2 => on (if ok then s2 else s2.logPdl c l [])

/-- DESCRIPTOR_TAKE (10 R230). -/
def execDescriptorTake (core : CoreId) (s : State) : Host.Outcome State Fault Refusal := .next (s.takeDesc core).settle

/-- The first descriptor of a queue not yet issued, with its item. -/
def Queue.nextIssue (q : Queue) : Option (Item × Xdesc) :=
  q.items.findSome? fun i => (i.descs.find? fun d => !d.issued).map fun d => (i, d)

/-- Descriptors issued whose data has not landed. -/
def Queue.outstanding (q : Queue) : Nat := (q.items.map fun i => (i.descs.filter fun d => d.issued && !d.landed).length).sum

/-- The queue may issue now (R231). -/
def Queue.canIssue (q : Queue) : Bool :=
  q.isPf && decide (q.outstanding < q.maxout) && (match q.nextIssue with
    | some (i, _) => q.slotFree i.n
    | none => false)

/-- Replace the first descriptor that `sel` names. -/
def modDesc (sel : Xdesc → Bool) (f : Xdesc → Xdesc) : List Xdesc → List Xdesc
  | [] => []
  | d :: ds => if sel d then f d :: ds else d :: modDesc sel f ds

/-- The bytes that the stream engine moves in a share window: 8.192 TB/s, the HBM bandwidth (10 "The stream engine", log 80). -/
def streamCap : Nat := 8192000 * shareWindow / 1000

/-- The channel of a PF queue: its consuming core. -/
def Queue.channel (q : Queue) : Nat := (q.cores.headD 0).val

/-- Channels from the one served last to a channel, in rotation. -/
def chanAfter (last ch : Nat) : Nat := (ch + 23 - last) % 24

/-- A queue that may issue and whose partition lies within its share, or does not, as `share` tells. -/
def State.streamWants (s : State) (share : Bool) (q : Queue) : Bool :=
  q.canIssue && s.inShare pointStream streamCap q.part == share

/-- The stream engine issues from a queue now: no request within a share goes before it, and none of its own kind lies on a channel
whose turn comes first (R233, 01 R16). -/
def State.issueTurn (s : State) (q : Queue) : Bool :=
  let share := s.inShare pointStream streamCap q.part
  let last := s.eng.lastChan.get 23 (if share then 0 else 1)
  q.canIssue && s.qids.all fun i => match s.queue i with
    | some d => !(s.streamWants true d && !share) && !(s.streamWants share d && decide (chanAfter last d.channel < chanAfter last q.channel))
    | none => true

/-- The requests for the source of a KIND 1 descriptor, up to 2 KiB each (R231, 13 R296; the form is the model's, log 26). -/
def readPackets (k : Pkt) (qid : Qid) (d : Xdesc) : List Pkt :=
  (List.range (ceilDiv d.len 2048)).map fun i =>
    { k with
      coll := 5, first := i == 0, last := decide (ceilDiv d.len 2048 ≤ i + 1), ofs := BitVec.ofNat 32 (32 * i)
      payload := permHeader (d.saddr.toNat + 2048 * i) (min 2048 (d.len - 2048 * i)) (BitVec.ofNat 32 qid.toNat) 1 }

/-- Ask a peer for the source of a KIND 1 descriptor; false without a session index. The module itself needs no asking. -/
def State.askPeer (s : State) (p : PartId) (qid : Qid) (d : Xdesc) : Bool × State :=
  if d.kind = 0 ∨ d.smod = s.moduleId then (true, s)
  else match s.needSess p d.smod with
    | (some i, s1) => (true, (s1.sendList i fun k => readPackets k qid d).2)
    | (none, s1) => (false, s1)

/-- The translations that a descriptor of item `n` is issued under: of its source in this module and of its place in the slot. -/
def State.descMaps (s : State) (q : Queue) (n : Nat) (d : Xdesc) : List (Nat × Pte) :=
  let own := d.kind == 0 || d.smod == s.moduleId
  (if own then (s.part q.part).mapsOf d.saddr.toNat d.len else []) ++
    if q.memCs then [] else (s.part q.part).mapsOf (q.base.toNat + q.slotOff n + d.dofs) d.len

/-- The next descriptor of a queue is issued, under the translations of this moment (11 R252); it waits for the queue's descriptor. -/
def State.issueDesc (s : State) (qid : Qid) : State :=
  match s.queue qid with
  | none => s
  | some q =>
    if s.issueTurn q && s.cached qid then
      match q.nextIssue with
      | some (i, d) => match s.askPeer q.part qid d with
        | (false, s1) => s1
        | (true, s1) =>
          let share := s.inShare pointStream streamCap q.part
          let s2 := s1.setQueue qid (q.putItem { i with descs := modDesc (fun d => !d.issued) (fun d => { d with issued := true, maps := s1.descMaps q i.n d }) i.descs })
          (s2.useShare pointStream q.part d.len).modEng fun e => { e with lastChan := e.lastChan.set 23 (if share then 0 else 1) q.channel }
      | none => s
    else s

/-- DESCRIPTOR_ISSUE (10 R231). -/
def execDescriptorIssue (q : Qid) (s : State) : Host.Outcome State Fault Refusal := .next (s.issueDesc q).settle

/-- The issued descriptors whose data has not landed, in posting order, with their items. -/
def Queue.flying (q : Queue) : List (Nat × Xdesc) :=
  q.items.flatMap fun i => (i.descs.filter fun d => d.issued && !d.landed).map fun d => (i.n, d)

/-- Mark the k-th flying descriptor as landed. -/
def landList : Nat → List Xdesc → List Xdesc
  | _, [] => []
  | k, d :: ds =>
    if d.issued && !d.landed then (match k with
      | 0 => { d with landed := true } :: ds
      | k + 1 => d :: landList k ds)
    else d :: landList k ds

def landItems : Nat → List Item → List Item
  | _, [] => []
  | k, i :: is =>
    let m := (i.descs.filter fun d => d.issued && !d.landed).length
    if k < m then { i with descs := landList k i.descs } :: is else i :: landItems (k - m) is

/-- A peer, or this module for itself, refused the read of a descriptor: its item is cancelled and reports ST_ACCESS (13 R296, log 26). -/
def State.refuseItem (s : State) (qid : Qid) (n : Nat) : State := match s.queue qid with
  | some q => (s.setQueue qid { q with items := q.items.map fun i => if i.n = n then { i with refused := true } else i }).cancelItems qid fun i =>
      i.n == n
  | none => s

/-- The data of one issued descriptor lands in its slot (R229, 11 Table 11.7, 13 R296), under the translations it was issued under
(11 R252): the bytes of a peer are the command's. -/
def State.landDesc (s : State) (qid : Qid) (n : Nat) (data : List Byte) (refused : Bool) : State :=
  match s.queue qid with
  | none => s
  | some q => match q.flying[n]? with
    | none => s
    | some (pos, d) =>
      let mark := fun (t : State) => match t.queue qid with
        | some r => t.setQueue qid { r with items := landItems n r.items }
        | none => t
      let put := fun (t : State) (bs : List Byte) =>
        let w := t.underMaps q.part d.maps fun z => z.writeQueue q (q.slotOff pos + d.dofs) bs
        let s1 := mark w.2
        if w.1 then s1 else s1.partFault q.part (if q.memCs then 1 else 5) none
      let own := d.smod == s.moduleId
      if d.kind ≠ 0 ∧ (if own then (((s.part q.part).under d.maps).checkRange d.saddr.toNat d.len .pr).isSome else refused) = true then
        (mark s).refuseItem qid pos
      else if d.kind = 0 ∨ own = true then match s.underMaps q.part d.maps fun z => z.readHbm q.part d.saddr.toNat d.len with
        | (some bs, s1) => put s1 bs
        | (none, s1) => (mark s1).partFault q.part 5 none
      else put s (padTo d.len data)

/-- TRANSFER_LANDED (10 R229). -/
def execTransferLanded (q : Qid) (n : Nat) (data : List Byte) (refused : Bool) (s : State) : Host.Outcome State Fault Refusal :=
  .next (s.landDesc q n data refused).settle

/-! ### The completion sequence point (10 R223, R227) -/

/-- STATUS of an item record: a read that was refused brings ST_ACCESS (13 R296). -/
def Item.status (i : Item) : BitVec 16 := if i.refused then stAccess else if i.cancelled then stCancelled else stOk

/-- The item record of R227: SEQ is one of the fields it leaves zero; PHASE is that of every record of the ring (R226). -/
def itemRecord (q : Queue) (i : Item) (t : BitVec 64) (_seq : Nat) (phase : Bool) : List Byte :=
  recordBytes (i.n % 65536) 0 (originByte 0 q.part.val) i.status.toNat 0 0 0
    (if phase then 1 else 0) (i.written % 2 ^ 32) t.toNat 0

/-- The ring of a queue lies in core stores. -/
def State.inStore (s : State) (qid : Qid) : Bool := match s.queue qid with
  | some q => q.memCs
  | none => false

/-- The oldest item that has not passed passes, with its record where NCQ is enabled, once the descriptors of both queues are there
(R221). -/
def State.passItem (s : State) (qid : Qid) : State :=
  match s.queue qid with
  | none => s
  | some q => match q.item q.cpos with
    | none => s
    | some i =>
      if !i.ready || i.passed || !s.cached qid || (q.ncqEn && !s.cached q.ncq) then s
      else
        let t := if q.isRxf then i.ts else s.aon.time
        let put := fun (z : State) => match z.queue qid with
          | some r => z.setQueue qid { (r.putItem { i with passed := true, ts := t }) with
              cpos := r.cpos + 1
              dpos := if r.posted then max r.dpos (r.cpos + 1) else r.dpos
              lastTs := t }.tidy
          | none => z
        if q.ncqEn && (q.isRxf || q.isPf) && (s.queue q.ncq).isSome then
          match s.postRecord q.ncq (itemRecord q i t) with
          | (true, true, s1) => put s1
          | (true, false, s1) => put (s1.partFault q.part (if s.inStore q.ncq then 1 else 5) none)
          | (false, _, _) => s
        else put s

/-- ITEM_COMPLETE (10 R223). -/
def execItemComplete (q : Qid) (s : State) : Host.Outcome State Fault Refusal := .next (s.passItem q).settle

/-! ### Update engine (09) -/

/-- SUPERBLOCK_COMPLETE (09 R195). -/
def execSuperblockComplete (ctx : Nat) (s : State) : Host.Outcome State Fault Refusal := .next (s.completeSb ctx).settle

/-- PRECOND_PHASE2 (09 R208). -/
def execPrecondPhase2 (p : PartId) (s : State) : Host.Outcome State Fault Refusal := .next (s.precondPhase2 p).settle

/-- UPD_PENDING_APPLY (09 R198): the waiting commands of a core are tried, a UPD that waited for earlier steps among them. -/
def execUpdPendingApply (core : CoreId) (s : State) : Host.Outcome State Fault Refusal := .next (s.progressCore core).settle

/-- Another request that can be served, of a real-time partition within its share, comes before one of partition `p` (01 R16). -/
def State.gatherYields (s : State) (p : PartId) : Bool :=
  !s.inShare pointColl collCap p && s.eng.gathers.any fun g => s.gatherReady g && s.inShare pointColl collCap g.part

/-- GATHER_SERVE (01 R17, 13 R304): a held request whose super-block has been recorded; it yields to a real-time one (01 R16). -/
def execGatherServe (n : Nat) (s : State) : Host.Outcome State Fault Refusal :=
  match s.eng.gathers[n]? with
  | none => .next s
  | some g =>
    if s.gatherReady g && !s.gatherYields g.part then
      .next ((({ s with eng := { s.eng with gathers := s.eng.gathers.eraseIdx n } }).gatherServe g).useShare pointColl g.part 2048).settle
    else .next s

end Sys2Proof.Machine
end

