-- ==== Sys2Proof/Machine/Power.lean ====
section
/-! DEFINITION. Thermal and power control, sleep and wake, sensors, patrol scrub and mesh parity (16 R369 to R382, 11 R244,
R261 to R263, 17 R389). -/

namespace Sys2Proof.Machine

/-! ### Readings -/

/-- Die sensors and stack sensors of 16 Table 16.2. -/
def isDie (id : Nat) : Bool := decide (id ≤ 0x3B)
def isStack (id : Nat) : Bool := decide (0x28 ≤ id ∧ id ≤ 0x2F)

/-- A value lies above a bound in whole degrees. -/
def above (x : Ext) (n : Nat) : Bool := Ext.lt (Ext.ofNat n) x

/-- A die sensor lies above `die`, or a stack above `stk`. -/
def State.hotter (s : State) (die stk : Nat) (r : Reading) : Bool :=
  let x := s.calibrated r
  (isDie r.id.toNat && above x die) || (isStack r.id.toNat && above x stk)

/-- Mean input power over the last 10 ms as energy in nJ and time in units of 10 µs. -/
def Aon.meanNum (a : Aon) : Nat := a.p10.sum
def Aon.meanDen (a : Aon) : Nat := 10000 * a.p10.length

/-- The mean exceeds `num / den` of PWR_LIMIT. -/
def State.powerAbove (s : State) (num den : Nat) : Bool :=
  decide (num * s.reg.pwrLimit.toNat * s.aon.meanDen < den * s.aon.meanNum)

/-! ### The control loop (16 R371, 11 R244) -/

/-- A controller above 95 °C halves its request rate; each crossing logs EV_HBM_HOT once. -/
def State.heatStacks (s : State) : List Reading → State
  | [] => s
  | r :: rs =>
    if isStack r.id.toNat then
      let h : StackId := Fin.ofNat 8 (r.id.toNat - 0x28)
      let hot := above (s.calibrated r) 95
      let s1 := if hot && !(s.stack h).hot then s.logEvent evHbmHot (27 + h.val) srcNone (bytesLE 1 h.val) else s
      State.heatStacks (s1.modStack h fun k => { k with hot := hot }) rs
    else State.heatStacks s rs

/-- Log a change of the thermal levels: both levels and the cause (log 28). -/
def State.logLevels (s : State) (code cause : Nat) : State :=
  s.logEvent code 51 srcNone (bytesLE 1 s.reg.tlevelT.toNat ++ bytesLE 1 s.reg.tlevelR.toNat ++ bytesLE 1 cause)

/-- Reduce by one level: throughput cores first. -/
def State.reduceLevel (s : State) (code cause : Nat) : State :=
  if s.reg.tlevelT.toNat < 5 then (s.modReg fun r => { r with tlevelT := r.tlevelT + 1 }).logLevels code cause
  else if s.reg.tlevelR.toNat < 5 then (s.modReg fun r => { r with tlevelR := r.tlevelR + 1 }).logLevels code cause
  else s

/-- Release by one level: real-time cores and module-level islands first. -/
def State.releaseLevel (s : State) : State :=
  if s.reg.tlevelR ≠ 0 then (s.modReg fun r => { r with tlevelR := r.tlevelR - 1 }).logLevels evThermLimit 0
  else if s.reg.tlevelT ≠ 0 then (s.modReg fun r => { r with tlevelT := r.tlevelT - 1 }).logLevels evThermLimit 0
  else s

/-- One step of the loop. -/
def State.loopStep (s : State) (rs : List Reading) : State :=
  let die := rs.any (s.hotter 100 1000)
  let stk := rs.any (s.hotter 1000 95)
  let pow := s.powerAbove 1 1
  if die || stk || pow then
    (s.modReg fun r => { r with relMs := 0 }).reduceLevel (if die || stk then evThermLimit else evPwrLimit) (if die then 1 else if stk then 2 else 3)
  else if (rs.any (s.hotter 95 90)) || s.powerAbove 95 100 then s.modReg fun r => { r with relMs := 0 }
  else
    let n := min 50 (s.reg.relMs + 1)
    let s1 := s.modReg fun r => { r with relMs := n }
    if 50 ≤ n then s1.releaseLevel else s1

/-- CONTROL_LOOP_TICK (16 R371): while the measures of R372 hold, the loop changes nothing. -/
def execControlLoopTick (readings : List Reading) (s : State) : Host.Outcome State Fault Refusal :=
  if s.regRuns then
    let s1 := s.heatStacks readings
    .next (if s1.aon.crit then s1 else (s1.loopStep readings).retarget).settle
  else .next s

/-! ### Critical temperatures (16 R372) -/

/-- THERM_CRIT (16 R372): a die sensor above 110 °C or a stack above 105 °C. -/
def execThermCrit (r : Reading) (s : State) : Host.Outcome State Fault Refusal :=
  if s.powered && !s.aon.crit && s.hotter 110 105 r then
    .next (((s.modAon fun a => { a with crit := true }).logEvent evThermCrit 53 srcNone []).retarget).settle
  else .next s

/-- THERM_CRIT_RELEASE (16 R372): control goes back to the loop with both levels at 5. -/
def execThermCritRelease (readings : List Reading) (s : State) : Host.Outcome State Fault Refusal :=
  if s.aon.crit && !(readings.any (s.hotter 100 95)) then
    .next (((s.modAon fun a => { a with crit := false }).modReg fun r => { r with tlevelT := 5, tlevelR := 5, relMs := 0 }).retarget).settle
  else .next s

/-- THERM_SHUTDOWN (16 R372): a die sensor above 120 °C turns off the supplies of groups 2 to 6 until the input power is
removed. -/
def execThermShutdown (r : Reading) (s : State) : Host.Outcome State Fault Refusal :=
  if s.powered && isDie r.id.toNat && above (s.calibrated r) 120 then
    let t := s.resetGroups.loseHbm
    .next { t with
      flash := { s.flash with shutdown := true }
      aon := { s.aon with
        supply := .thermalOff, mstate := .booting, group := min 1 s.aon.group, hbmTrained := false, hbmTested := false
        retained := false, quiescing := none, crit := false, wasReady := false } }
  else .next s

/-! ### Performance level changes (16 R370) -/

/-- LEVEL_CHANGE_COMPLETE (16 R370): the change in progress completes, and the island moves to a newer target. The five
module-level islands change together (log 35). -/
def execLevelChangeComplete (isl : BitVec 8) (s : State) : Host.Outcome State Fault Refusal :=
  if isl.toNat < 24 then
    let c : CoreId := Fin.ofNat 24 isl.toNat
    let hot := decide (s.levelWanted c < (s.core c).target.toNat ∧ (s.core c).target.toNat ≤ s.levelTarget c)
    .next ((s.modCore c fun k => { k with level := k.target, hot := hot }).retarget).settle
  else if [24, 25, 26, 49, 50].contains isl.toNat then .next ((s.modReg fun r => { r with modCur := r.modTarget }).retarget).settle
  else .next s

/-! ### Telemetry and the power meter (16 R377, R378) -/

/-- A sensor of 16 Table 16.5. -/
def sensorId (id : Nat) : Bool :=
  decide (id ≤ 0x1C) || decide (0x20 ≤ id ∧ id ≤ 0x3B) || decide (0x40 ≤ id ∧ id ≤ 0x42) || decide (0x50 ≤ id ∧ id ≤ 0x52) ||
    decide (0x58 ≤ id ∧ id ≤ 0x5D) || decide (0x60 ≤ id ∧ id ≤ 0x65)

/-- TELEMETRY_SAMPLE (16 R378). -/
def execTelemetrySample (readings : List Reading) (s : State) : Host.Outcome State Fault Refusal :=
  if s.regRuns then
    let put := fun (m : Smap (Option Sample)) (r : Reading) =>
      if sensorId r.id.toNat then m.set none r.id.toNat (some ⟨BitVec.ofNat 32 (toB32 (s.calibrated r)), s.aon.time⟩) else m
    .next (s.modAon fun a => { a with samples := readings.foldl put a.samples })
  else .next s

/-- A non-negative value times `k`, rounded down to a whole number. -/
def floorTimes (x : Ext) (k : Nat) : Nat := match x with
  | .fin false m e => shiftI (m * k) e
  | _ => 0

/-- The energy of a sample over 10 µs, in nJ (R377). -/
def State.sampleEnergy (s : State) (volts amps : BitVec 32) : Nat :=
  floorTimes ((s.calibrated ⟨0x50, volts⟩).mul (s.calibrated ⟨0x51, amps⟩)) 10000

/-- POWER_METER_SAMPLE (16 R377): the product of voltage and current over 10 µs is integrated; the controller's VIN and IIN show the
same input, with the switch on or off (18 R409, R410, log 65). -/
def execPowerMeterSample (volts : BitVec 32) (amps : BitVec 32) (s : State) : Host.Outcome State Fault Refusal :=
  let seen := s.modHs fun h => { h with
    vin := BitVec.ofNat 16 (floorTimes (ofB32 volts.toNat) 100), iin := BitVec.ofNat 16 (floorTimes (ofB32 amps.toNat) 1000) }
  if s.powered then
    let nj := s.sampleEnergy volts amps
    .next (seen.modAon fun a => { a with energy := a.energy + nj, p10 := (nj :: a.p10).take 1000 })
  else .next seen

/-! ### Wake (16 R375, 11 R263) -/

/-- The event wakes a state (16 Table 16.4). -/
def State.wakes (s : State) (st : MState) (e : WakeEvent) : Bool := match st, e with
  | .s1, .mailbox | .s1, .transport | .s1, .frame | .s2, .mailbox | .s2, .transport | .s2, .frame => true
  | .s3, .mpSegment src mb | .s4, .mpSegment src mb => mb == 0 && src == s.reg.mpOwner && src != 0
  | .s4, .mrst => true
  | _, _ => false

/-- The test of R355 on a wake from S3: some stack's last sample lies too far from the temperature of its training (log 62). -/
def State.trainingStale (s : State) : Bool := allStacks.any fun h => match s.aon.samples.get none (0x28 + h.val) with
  | some d => tempsApart d.value (s.stack h).trainTemp
  | none => false

/-- A retraining start that leaves RST_CAUSE and the count of module resets unchanged (16 R375). -/
def State.wakeRetraining (s : State) : State :=
  (s.moduleReset s.aon.rstCause .retrain false).modAon fun a => { a with warmCnt := s.aon.warmCnt }

/-- The wake itself: S4 makes a retraining start, and so does S3 when its training fails the test of R355. -/
def State.wakeFrom (s : State) (st : MState) : State :=
  let log := fun (t : State) => t.logEvent evWake 53 srcNone (bytesLE 1 st.code)
  let ready := fun (t : State) => t.modAon fun a => { a with mstate := .ready }
  match st with
  | .s4 => log s.wakeRetraining
  | .s3 =>
    if s.trainingStale then log s.wakeRetraining
    else log { ready s.clearWoken with stk := s.stk.map fun k => { k with selfRefresh := false } }
  | .s2 => log (ready s.clearWoken)
  | _ => log (ready s)

/-- WAKE (16 R375). -/
def execWake (e : WakeEvent) (s : State) : Host.Outcome State Fault Refusal :=
  if s.powered && s.wakes s.aon.mstate e then .next (s.wakeFrom s.aon.mstate).settle else .next s

/-- A request segment on MP that wakes the module: from MP_OWNER to MB0 in S3 and S4 (16 Table 16.4). -/
def State.segmentWakes (s : State) (g : MpSegment) : Bool :=
  s.powered && g.kind == 2 && (s.aon.mstate == .s3 || s.aon.mstate == .s4) && s.wakes s.aon.mstate (.mpSegment g.src g.mb)

/-- MP_REQUEST_SEGMENT (14 R325): one that wakes the module from S3 is then handled, one that wakes it from S4 is not executed (16
R375). -/
def execMpRequestSegment (g : MpSegment) (s : State) : Host.Outcome State Fault Refusal :=
  let s1 := if s.segmentWakes g then s.wakeFrom s.aon.mstate else s
  if s.aon.mstate != .s4 && (s1.regRuns || s1.romRuns) then .next (s1.takeSegment g).settle
  else if s.segmentWakes g then .next s1.settle
  else .next s

/-- MRST_N_ASSERT (15 R353): it acts in every module state; in S4 it wakes the module, which leaves RST_CAUSE (16 R375). A level that
comes before the supplies are valid holds the module from then on (18 R411). -/
def execMrstNAssert (lowNs : Nat) (s : State) : Host.Outcome State Fault Refusal :=
  let s1 := s.freeNext
  if s.mrstTaken lowNs then
    let s2 := s1.modPins fun p => { p with mrstLow := true }
    if s.powered && !s.aon.inReset then
      (if s.aon.mstate = .s4 then .next ((s2.wakeFrom .s4).modAon fun a => { a with inReset := true }).settle
       else .next (s2.moduleReset 1 .warm true).settle)
    else .next s2
  else .next s1

/-! ### Patrol scrub (11 R261, R262, 16 R382) -/

/-- A codeword's byte offset in the address order of its stack (11 Table 11.2). -/
def Hbm.stackOffset (h : Hbm) (pa : Nat) : Nat := bitsOf pa 24 14 * 2 ^ 21 + h.unitOffset pa

/-- The listed codewords in a stored state of the pieces of a stack's slot that lie on some pseudo-channels (R247). -/
def Hbm.slotWords (h : Hbm) (k : StackId) (slot : Nat) (pcs : List Nat) (st : Ecc) : List Nat :=
  (h.ecc.filter fun e => e.2 == st && h.stackOf (e.1 * 64) == k && h.stackOffset (e.1 * 64) / 2 ^ 19 == slot &&
    pcs.contains (h.pseudo (e.1 * 64))).map (·.1)

/-- The owner of a codeword's page, for PART of an entry. -/
def Hbm.ownerOf (h : Hbm) (w : Nat) : Nat := match h.pages.get .free (w * 64 / pageBytes) with
  | .mapped p | .stash p => p.val
  | .free => srcNone

/-- The codeword lies in the Regulator region (11 R248). -/
def regulatorWord (w : Nat) : Bool := decide (98048 * pageBytes ≤ w * 64)

/-- Log the uncorrectable codewords that scrub meets, by owner. -/
def State.scrubUes (s : State) : List Nat → State
  | [] => s
  | w :: ws => State.scrubUes (s.logUe (s.hbm.ownerOf w) 2 [w]) ws

/-- The next slot of a stack; a wrap completes a pass. -/
def Stack.nextSlot (q : Stack) : Stack :=
  if q.scrubSlot + 1 < 49152 then { q with scrubSlot := q.scrubSlot + 1, scrubDue := none, scrubGot := 0 }
  else { q with scrubSlot := 0, scrubPass := q.scrubPass + 1, scrubDue := none, scrubGot := 0 }

/-- The 32 pseudo-channels of a stack (R247). -/
def allPcs : List Nat := List.range 32

/-- The pieces of the slot that is due have been read on these pseudo-channels; with all of them the slot is complete. -/
def Stack.markPcs (q : Stack) (pcs : List Nat) : Stack :=
  let got := pcs.foldl (fun (b : BitVec 32) n => b ||| BitVec.ofNat 32 (2 ^ n)) q.scrubGot
  if got = BitVec.allOnes 32 then q.nextSlot else { q with scrubGot := got }

/-- Pseudo-channels whose pieces of the slot have still to be read. -/
def Stack.pcsLeft (q : Stack) : List Nat := allPcs.filter fun n => !q.scrubGot.getLsbD n

/-- A transfer that reads this module's HBM has bytes on a pseudo-channel of a stack. -/
def State.readsPc (s : State) (p : PartId) (x : Xdesc) (k : StackId) (pc : Nat) : Bool :=
  (List.range (ceilDiv x.len 256 + 1)).any fun i =>
    match (s.part p).paOf (x.saddr.toNat + min (256 * i) (x.len - 1)) with
    | some pa => s.hbm.stackOf pa == k && s.hbm.pseudo pa == pc
    | none => false

/-- A foreground request waits for a pseudo-channel: a transfer of KIND 0 that reads it is issued and has not landed (log 64). -/
def State.pcBusy (s : State) (k : StackId) (pc : Nat) : Bool := s.qids.any fun q => match s.queue q with
  | some d => d.items.any fun i => i.descs.any fun x => x.issued && !x.landed && x.kind == 0 && s.readsPc d.part x k pc
  | none => false

/-- Read the pieces of the slot that is due on some pseudo-channels: single errors are corrected and counted, uncorrectable
codewords are left and logged, and one in the Regulator region is a fatal error (11 Table 11.7). -/
def State.scrubPcs (s : State) (k : StackId) (pcs : List Nat) : State :=
  let slot := (s.stack k).scrubSlot
  let ce := s.hbm.slotWords k slot pcs .single
  let ue := s.hbm.slotWords k slot pcs .double
  let s1 := (((s.countWords .scrubCe ce).clearWords ce).scrubUes ue).modStack k fun q => q.markPcs pcs
  if ue.any regulatorWord then s1.fatalError .regulatorHbm else s1

/-- Read the pieces for whose pseudo-channels no foreground request waits (R261). -/
def State.scrubIdle (s : State) (k : StackId) : State := s.scrubPcs k ((s.stack k).pcsLeft.filter fun n => !s.pcBusy k n)

/-- Scrub runs: the stack is up and the module is not in S3 or S4. -/
def State.scrubRuns (s : State) (k : StackId) : Bool := s.powered && s.aon.hbmTested && !(s.stack k).selfRefresh && (match s.aon.mstate with
  | .s3 | .s4 => false
  | _ => true)

/-- SCRUB_SLOT_DUE (11 R261): the slot is read on every pseudo-channel for which no foreground request waits; the rest stays
due. -/
def execScrubSlotDue (stack : StackId) (s : State) : Host.Outcome State Fault Refusal :=
  if s.scrubRuns stack then
    .next ((s.modStack stack fun q => { q with scrubDue := some (q.scrubDue.getD s.aon.time) }).scrubIdle stack).settle
  else .next s

/-- SCRUB_FLOOR (11 R261, 16 R382): 1 s after the slot fell due its remainder is forced, and its time counts. -/
def execScrubFloor (stack : StackId) (ns : Nat) (s : State) : Host.Outcome State Fault Refusal :=
  if s.scrubRuns stack then match (s.stack stack).scrubDue with
    | none => .next s
    | some t =>
      let s1 := s.advanceTo (t.toNat + 1000000000)
      .next (((s1.countStack stack .floorScrub 1).countStack stack .floorScrubNs ns).scrubPcs stack (s1.stack stack).pcsLeft).settle
  else .next s

/-- Slots that are due go on where the foreground leaves pseudo-channels free. -/
def State.scrubTicks (s : State) : List StackId → State
  | [] => s
  | k :: ks => State.scrubTicks (if s.scrubRuns k && (s.stack k).scrubDue.isSome then s.scrubIdle k else s) ks

/-- STACK_TEMPERATURE_CROSSING (11 R244). -/
def execStackTemperatureCrossing (stack : StackId) (above : Bool) (s : State) : Host.Outcome State Fault Refusal :=
  .next (s.modStack stack fun k => { k with refreshDoubled := above })

/-- The next edge of the pulse of GPIO code 4: a whole second of the timebase, or 100 ms after it (18 Table 18.12). -/
def State.nextPulse (s : State) (high : Bool) : Nat :=
  if high then (s.now / 1000000000 + 1) * 1000000000 else s.now / 1000000000 * 1000000000 + 100000000

/-- GPIO_SECOND_PULSE (18 R419): time comes to that edge, unless the pulse has that level already. -/
def execGpioSecondPulse (high : Bool) (s : State) : Host.Outcome State Fault Refusal :=
  if s.pulse = high then .next s else .next (s.advanceTo (s.nextPulse high))

/-! ### Mesh parity (17 R389) -/

/-- The eighth failure of a flit, by what it carries; an abandoned scrub read, on a pseudo-channel that
is a free value, is read again on the next pass. -/
def State.flitLost (s : State) : FlitKind → State
  | .regulator => s.fatalError .meshCommandPath
  | .partition p => if s.partExists p then s.partFault p 6 none else s
  | .scrub k => if (s.stack k).scrubDue.isSome then (s.modStack k fun q => q.markPcs [s.freeVal % 32]).freeNext else s
  | .telemetry _ => s

/-- MESH_PARITY_RETRY (17 R389): each resend is logged; the eighth failure ends the flit. -/
def execMeshParityRetry (receiver : BitVec 8) (sender : BitVec 8) (attempt : Nat) (kind : FlitKind) (s : State) :
    Host.Outcome State Fault Refusal :=
  if s.powered && decide (3 ≤ s.aon.group) then
    (if attempt < 8 then .next (s.logEvent evMeshParity receiver.toNat srcNone
        (bytesLE 1 receiver.toNat ++ bytesLE 1 sender.toNat ++ bytesLE 1 attempt))
     else .next (s.flitLost kind).settle)
  else .next s

/-! ### The tick of an empty queue -/

/-- One tick: 1 ns passes, every running core decodes a line, scrub slots that are due are read, window requests that gave way to a
step are made again, and what waits goes on (log 5). -/
def State.tick (s : State) : State :=
  (((((s.advance 1).mpOutTick).fetchDecodes allCores).scrubTicks allStacks).askAgain allPorts).settle

end Sys2Proof.Machine
end

