-- ==== Sys2Proof/Machine/Caches.lean ====
section
/-! DEFINITION. The caches of queue descriptors and of translations, and what waits for a descriptor (10 R221, 11 R251, R258). -/

namespace Sys2Proof.Machine

/-! ### What waits for a descriptor -/

/-- What waited goes on, as if it arrived now; a frame keeps the time it arrived at. -/
def State.goOn (s : State) : Missed → State
  | .data k => s.takeReliable k fun t i d => t.dataIn i d k
  | .a2a p src m => s.a2aDeliver p src m
  | .a2aBack p src m => s.a2aReturned p src m
  | .frame p sub q asm at_ f => s.frameIn p sub q asm at_ f

def State.goOnAll (s : State) : List Missed → State
  | [] => s
  | h :: hs => State.goOnAll (s.goOn h) hs

/-- Everything that waits for a descriptor is offered again, in order of arrival; what still misses one waits on. -/
def State.releaseHeld (s : State) : State := (s.modEng fun e => { e with held := [] }).goOnAll s.eng.held

/-! ### Reads of the Regulator region (11 R258, Table 11.7) -/

/-- Codeword of a queue's descriptor: the table lies first in the Regulator region (11 Table 11.3, log 79), 64 bytes each (R219). -/
def descWord (q : Qid) : Nat := 98048 * pageBytes / 64 + q.toNat

/-- Codewords that a walk reads: of the level-1 entry, and of the level-2 entry where level 1 names a table (R249, R251). -/
def State.walkWords (s : State) (p : PartId) (vpn : Nat) : List Nat :=
  (l1Addr p + 8 * (vpn / 8192)) / 64 :: (match (s.part p).l1.get none (vpn / 8192) with
    | some k => [(l2Addr k + 8 * (vpn % 8192)) / 64]
    | none => [])

/-- A demand read of codewords of the Regulator region: correctable ones are counted and corrected; an uncorrectable one is logged and
is a fatal error. -/
def State.readOwn (s : State) (ws : List Nat) : Bool × State :=
  let ce := ws.filter fun w => s.hbm.ecc.get .good w == .single
  let ue := ws.filter fun w => s.hbm.ecc.get .good w == .double
  let s1 := (s.countWords .ce ce).clearWords ce
  if ue.isEmpty then (true, s1) else (false, (s1.logUe srcNone 0 ue).fatalError .regulatorHbm)

/-! ### The caches -/

/-- The element that leaves a full cache for another: the free value picks it among those that may go (log 1). -/
def evictee {α : Type} [DecidableEq α] (cap n : Nat) (stays : α → Bool) (l : List α) : Option α :=
  let may := l.filter fun x => !stays x
  if l.length < cap then none else may[n % max 1 may.length]?

/-- Drop the element that leaves. -/
def evict {α : Type} [DecidableEq α] (cap n : Nat) (stays : α → Bool) (l : List α) : List α :=
  match evictee cap n stays l with
  | some x => l.erase x
  | none => l

/-- A descriptor that is never evicted. -/
def State.pinned (s : State) (q : Qid) : Bool := match s.queue q with
  | some d => d.pin || s.isRt d.part
  | none => false

/-- Enter a descriptor; one that is evicted is written back, with fresh check symbols (11 R257). -/
def State.enterDesc (s : State) (q : Qid) : State :=
  let s1 := match evictee 16384 s.freeVal s.pinned s.eng.qcache with
    | some x => s.clearWords [descWord x]
    | none => s
  s1.freeNext.modEng fun e => { e with qcache := q :: evict 16384 s.freeVal s.pinned e.qcache }

/-- DESCRIPTOR_CACHE_FILL (10 R221): the miss counts, the descriptor is read and entered, and what waited for it goes on. -/
def execDescriptorCacheFill (q : Qid) (s : State) : Host.Outcome State Fault Refusal :=
  match s.queue q with
  | none => .next s
  | some d =>
    if s.eng.qcache.contains q then .next s
    else match (s.countPart d.part .qdMiss 1).readOwn [descWord q] with
      | (false, s1) => .next s1
      | (true, s1) => .next (s1.enterDesc q).releaseHeld.settle

/-- TRANSLATION_WALK (11 R251): the miss counts, the tables are read, and the translation of a mapped page is entered. -/
def execTranslationWalk (p : PartId) (vpn : BitVec 27) (s : State) : Host.Outcome State Fault Refusal :=
  if s.eng.tlb.contains (p, vpn.toNat) then .next s
  else match (s.countPart p .tlbMiss 1).readOwn (s.walkWords p vpn.toNat) with
    | (false, s1) => .next s1
    | (true, s1) =>
      if ((s.part p).pages.get none vpn.toNat).isNone then .next s1
      else .next (s1.freeNext.modEng fun e => { e with tlb := (p, vpn.toNat) :: evict 8192 s1.freeVal (fun x => s.isRt x.1) e.tlb }).settle

end Sys2Proof.Machine
end

