-- ==== Sys2Proof/Machine/MbOwner.lean ====
section
/-! DEFINITION. The owner's module commands (14 Table 14.8, 0x0001 to 0x000B, R333): authority, roles, hosts, module, ports,
steering, levels, sleep, reset and flash. -/

namespace Sys2Proof.Machine

/-! ### Running a request -/

/-- Run the request of a mailbox when it carries command `cmd`, is the form `sel` names, has not been executed yet, and
nothing holds an object it needs (14 R330). -/
def State.mbRun (s : State) (m : MbId) (cmd : Nat) (sel : MbReq → Bool) (f : MbReq → State) : Host.Outcome State Fault Refusal :=
  match (s.mb m).busy with
  | none => .next s
  | some r => if r.cmd.toNat == cmd && sel r && r.wait.isNone && !s.objectBusy m r then .next (f r).settle else .next s

/-- The first failing check of a list: its status and INFO. -/
def firstFail : List (Bool × BitVec 16 × Nat) → Option (BitVec 16 × Nat)
  | [] => none
  | (b, st, i) :: t => if b then some (st, i) else firstFail t

/-- Answer with the first failing check, else go on. -/
def State.guarded (s : State) (m : MbId) (checks : List (Bool × BitVec 16 × Nat)) (go : State) : State :=
  match firstFail checks with
  | some (st, i) => s.respond m st i []
  | none => go

/-- A field of a payload. -/
def MbReq.u (r : MbReq) (o n : Nat) : Nat := fieldLE r.payload o n

/-- A field that must be zero: `n` bytes from `o` on (R335; log 34 for reserved bytes). -/
def MbReq.zero (r : MbReq) (o n : Nat) : Bool × BitVec 16 × Nat := (r.u o n != 0, stBadField, o)

/-- The field at `o` is an 8-byte address of which [47:0] hold the address. -/
def MbReq.wide (r : MbReq) (o : Nat) : Bool × BitVec 16 × Nat := (r.u (o + 6) 2 != 0, stBadField, o)

/-- The request is executed and answers later (14 R343, 16 R370). -/
def State.awaitWith (s : State) (m : MbId) (b : List Byte) : State :=
  s.modMb m fun x => { x with busy := x.busy.map fun r => { r with wait := some b } }

/-! ### MB_ABORT (R333) -/

/-- The mailbox serves partition `p`. -/
def State.serves (s : State) (t : MbId) (p : PartId) : Bool :=
  (decide (1 ≤ t.val ∧ t.val ≤ 8) && t.val == p.val + 1) || (decide (9 ≤ t.val ∧ t.val ≤ 14) && (s.mb t).role == .partition && (s.mb t).rpart == p)

/-- The mailbox may abort requests of `t`. -/
def State.mayAbort (s : State) (m t : MbId) : Bool := s.hasOwner m || allParts.any fun p => s.serves t p && s.hasPart m p

/-- A request has passed its commit point: it has been executed, and it is no CHECKPOINT whose header is still to be written
(Table 14.6). -/
def MbReq.committed (q : MbReq) : Bool := q.wait.isSome && (match q.copy with
  | .data _ _ _ _ => false
  | _ => true)

/-- The abort is decided at the target's commit point; a request executes whole, but for a CHECKPOINT's copy. -/
def State.abortRequest (s : State) (m t : MbId) (seq : Nat) : State :=
  match (s.mb t).busy with
  | some q =>
    if q.seq.toNat = seq then
      (if t = m ∨ q.committed = true then s.respond m stAlreadyDone 0 []
       else (s.respond t stAborted 0 []).respond m stOk 0 [])
    else if (s.mb t).lseq.toNat = seq then s.respond m stAlreadyDone 0 []
    else s.respond m stNotFound 0 []
  | none => if (s.mb t).lseq.toNat = seq then s.respond m stAlreadyDone 0 [] else s.respond m stNotFound 0 []

/-- MB_ABORT (R333). -/
def execMbAbort (mb : MbId) (s : State) : Host.Outcome State Fault Refusal :=
  s.mbRun mb 0x0001 (fun _ => true) fun r =>
    let t : MbId := Fin.ofNat 16 (r.u 0 1)
    s.guarded mb [(decide (16 ≤ r.u 0 1), stBadField, 0), r.zero 1 1, (!s.mayAbort mb t, stAccess, 0)] (s.abortRequest mb t (r.u 2 2))

/-! ### MB_ROLE, HOST_TABLE, MODULE_SET (R321, R322, 12 R267) -/

/-- MB_ROLE (R321). -/
def execMbRole (mb : MbId) (s : State) : Host.Outcome State Fault Refusal :=
  s.mbRun mb 0x0002 (fun _ => true) fun r =>
    let t : MbId := Fin.ofNat 16 (r.u 0 1)
    let role : Role := if r.u 1 1 = 1 then .owner else if r.u 1 1 = 2 then .partition else .none
    s.guarded mb
      [(decide (r.u 0 1 < 9 ∨ 14 < r.u 0 1), stBadField, 0), (decide (2 < r.u 1 1), stBadField, 1), (decide (7 < r.u 2 1), stBadField, 2),
       r.zero 3 1, ((s.mb t).busy.isSome, stState, r.u 0 1)]
      ((s.modMb t fun b => { b with role := role, rpart := Fin.ofNat 8 (r.u 2 1) }).respond mb stOk 0 [])

/-- Entry `i` of a table in a payload. -/
def entryAt (b : List Byte) (base size i : Nat) : List Byte := (b.drop (base + size * i)).take size

/-- The offset of the field that refuses a host entry: FAM, MBMASK for MB9 to MB15, and the zero bytes (13 R315). -/
def hostBad (e : List Byte) : Option Nat :=
  let f := fieldLE e 16 1
  if f ≠ 0 ∧ f ≠ 4 ∧ f ≠ 6 then some 16 else if 128 ≤ fieldLE e 17 1 then some 17 else if fieldLE e 19 5 ≠ 0 then some 19 else none

/-- The offset of the first field that refuses one of the `n` host entries at `base`. -/
def hostsBad (b : List Byte) (base n : Nat) : Option Nat :=
  (List.range n).findSome? fun i => (hostBad (entryAt b base 24 i)).map fun o => base + 24 * i + o

/-- The first entry of a list whose field is bad: its place. -/
def badAt (n : Nat) (bad : Nat → Bool) : Option Nat := (List.range n).find? bad

/-- Write host entries into the table and the configuration region. -/
def State.putHosts (s : State) (b : List Byte) (first : Nat) : Nat → State
  | 0 => s
  | n + 1 =>
    let t := State.putHosts s b first n
    let e := entryAt b 4 24 n
    { t.modReg fun r => { r with hosts := r.hosts.set none (first + n) (hostEntOf e) } with
      flash := t.flash.setCfg (0x60 + 24 * (first + n)) e }

/-- HOST_TABLE (13 R315, R322). -/
def execHostTable (mb : MbId) (s : State) : Host.Outcome State Fault Refusal :=
  s.mbRun mb 0x0003 (fun _ => true) fun r =>
    let first := r.u 0 2
    let n := r.u 2 2
    let bad := hostsBad r.payload 4 n
    s.guarded mb
      [(decide (64 ≤ first), stBadField, 0), (decide (64 < first + n ∨ r.payload.length < 4 + 24 * n), stBadField, 2),
       (bad.isSome, stBadField, bad.getD 0)]
      ((s.putHosts r.payload first n).respond mb stOk 0 [])

/-- The lowest enabled port. -/
def State.enabledPort (s : State) : Option PortId := allPorts.find? fun p => (s.port p).en

/-- MODULE_SET (12 R267, R322, 17 R398). -/
def execModuleSet (mb : MbId) (s : State) : Host.Outcome State Fault Refusal :=
  s.mbRun mb 0x0004 (fun _ => true) fun r =>
    let id := r.u 0 2
    let change := decide (id ≠ s.moduleId.toNat)
    let port := match s.enabledPort with
      | some p => p.val
      | none => 0
    s.guarded mb
      [(decide (2 ^ 14 ≤ id), stBadField, 0), (change && s.enabledPort.isSome, stState, port)]
      ({ s.modReg fun g => { g with
          moduleId := BitVec.ofNat 14 id, assigned := true, tport := BitVec.ofNat 16 (r.u 2 2), midConflict := g.midConflict && !change } with
        flash := s.flash.setCfg 0x10 (bytesLE 2 (id + 0x8000) ++ bytesLE 2 (r.u 2 2)) }.respond mb stOk 0 [])

/-! ### PORT_SET, STEER_SET, FWD_SET (12 R266, R276, R277, R281) -/

/-- Enter PORT_CFG; a change of MODE, MEDIA or EN takes the port down and starts bring-up again (12 R266). -/
def State.setPortCfg (s : State) (p : PortId) (cfg : Word) : State :=
  let q := s.port p
  if (q.cfg &&& 0xF#32) = (cfg &&& 0xF#32) then s.setPort p { q with cfg := cfg }
  else
    let s1 := if q.state = .training ∨ q.state.isUp = true then s.takePortDown p .reconfigured else s
    let z := { s1.port p with cfg := cfg }
    s1.setPort p (z.drop (if z.en ∧ s.portsRun = true then .waitPeer else .disabled))

/-- PORT_SET (12 R266). -/
def execPortSet (mb : MbId) (s : State) : Host.Outcome State Fault Refusal :=
  s.mbRun mb 0x0005 (fun _ => true) fun r =>
    let n := r.u 0 1
    let p : PortId := Fin.ofNat 12 n
    let cfg := portCfgOf (r.u 4 4)
    s.guarded mb [(decide (12 ≤ n), stBadField, 0), r.zero 1 3, (decide (128 ≤ r.u 4 4), stBadField, 4)]
      (let t := s.setPortCfg p cfg
       { t with flash := t.flash.setCfg (0x30 + 4 * n) (bytesLE 4 cfg.toNat) }.respond mb stOk 0 (bytesLE 4 (t.port p).sts))

/-- The partitions that own queues of a queue group. -/
def State.groupParts (s : State) (g : Nat) : List PartId := match s.fabric.qgroups.get none g with
  | none => []
  | some d => d.qids.filterMap fun q => (s.queue q).map (·.part)

/-- A group holds queues of a partition other than `p`. -/
def State.groupForeign (s : State) (g : Nat) (p : PartId) : Bool := (s.groupParts g).any fun q => q != p

/-- A filter rule (12 Table 12.9). -/
def ruleOf (b : List Byte) : FilterRule where
  matchEn := BitVec.ofNat 8 (fieldLE b 0 1)
  action := BitVec.ofNat 8 (fieldLE b 1 1)
  part := Fin.ofNat 8 (fieldLE b 2 1)
  pcpset := BitVec.ofNat 8 (fieldLE b 3 1)
  vid := BitVec.ofNat 12 (fieldLE b 4 2)
  vidmask := BitVec.ofNat 12 (fieldLE b 6 2)
  etype := BitVec.ofNat 16 (fieldLE b 8 2)
  udpdp := BitVec.ofNat 16 (fieldLE b 0xA 2)
  tpset := BitVec.ofNat 8 (fieldLE b 0xC 1)
  ports := BitVec.ofNat 12 (fieldLE b 0xE 2)
  qgrp := BitVec.ofNat 10 (fieldLE b 0x10 2)

/-- A perfect-match entry (12 Table 12.8). -/
def perfectOf (b : List Byte) : PerfectEnt where
  addr := BitVec.ofNat 48 (fieldBE b 0 6)
  en := (fieldLE b 6 1).testBit 0
  part := Fin.ofNat 8 (fieldLE b 7 1)
  qgrp := BitVec.ofNat 10 (fieldLE b 8 2)
  ports := BitVec.ofNat 12 (fieldLE b 0xA 2)

/-- The offset of the field that refuses a rule: a field out of its range or not zero where Table 12.9 has it so, or one of the
cases of 12 R277. -/
def State.ruleBad (s : State) (b : List Byte) : Option Nat :=
  let r := ruleOf b
  let act := fieldLE b 1 1
  if 32 ≤ fieldLE b 0 1 then some 0
  else if 3 ≤ act then some 1
  else if 8 ≤ fieldLE b 2 1 then some 2
  else if 4096 ≤ fieldLE b 4 2 then some 4
  else if 4096 ≤ fieldLE b 6 2 then some 6
  else if fieldLE b 0xD 1 ≠ 0 then some 0xD
  else if 4096 ≤ fieldLE b 0xE 2 then some 0xE
  else if 1024 ≤ fieldLE b 0x10 2 then some 0x10
  else if fieldLE b 0x12 14 ≠ 0 then some 0x12
  else if act = 2 ∧ s.partExists r.part = false then some 2
  else if act = 1 ∧ s.groupForeign r.qgrp.toNat r.part = true then some 0x10
  else none

/-- The offset of the field that refuses a perfect-match entry: its range in Table 12.8, or a case of 12 R276. -/
def State.perfectBad (s : State) (b : List Byte) : Option Nat :=
  let e := perfectOf b
  if (fieldLE b 0 1).testBit 0 then some 0
  else if 2 ≤ fieldLE b 6 1 then some 6
  else if 8 ≤ fieldLE b 7 1 then some 7
  else if 1024 ≤ fieldLE b 8 2 then some 8
  else if 4096 ≤ fieldLE b 0xA 2 then some 0xA
  else if fieldLE b 0xC 4 ≠ 0 then some 0xC
  else if s.groupForeign e.qgrp.toNat e.part then some 8
  else none

/-- Enter rules or perfect-match entries in the shadow set. -/
def State.putSteer (s : State) (kind : Nat) (b : List Byte) (first : Nat) : Nat → State
  | 0 => s
  | n + 1 =>
    let t := State.putSteer s kind b first n
    { t with fabric :=
        if kind = 0 then { t.fabric with rulesShadow := t.fabric.rulesShadow.set none (first + n) (some (ruleOf (entryAt b 8 32 n))) }
        else { t.fabric with perfectShadow := t.fabric.perfectShadow.set none (first + n) (some (perfectOf (entryAt b 8 16 n))) } }

/-- Make a whole shadow set active. -/
def State.commitSteer (s : State) (kind : Nat) : State :=
  { s with fabric := if kind = 0 then { s.fabric with rules := s.fabric.rulesShadow } else { s.fabric with perfect := s.fabric.perfectShadow } }

/-- STEER_SET (12 R276, R277). -/
def execSteerSet (mb : MbId) (s : State) : Host.Outcome State Fault Refusal :=
  s.mbRun mb 0x0006 (fun _ => true) fun r =>
    let kind := r.u 0 1
    let first := r.u 2 2
    let n := r.u 4 2
    let size := if kind = 0 then 32 else 16
    let cap := if kind = 0 then 256 else 8
    let badOf := fun i => if kind = 0 then s.ruleBad (entryAt r.payload 8 32 i) else s.perfectBad (entryAt r.payload 8 16 i)
    let bad := badAt n fun i => (badOf i).isSome
    let o := match bad with
      | some i => 8 + size * i + (badOf i).getD 0
      | none => 0
    s.guarded mb
      [(decide (1 < kind), stBadField, 0), (decide (1 < r.u 1 1), stBadField, 1), (decide (cap < first), stBadField, 2),
       (decide (cap < first + n ∨ r.payload.length < 8 + size * n), stBadField, 4), r.zero 6 2, (bad.isSome, stBadField, o)]
      (let t := s.putSteer kind r.payload first n
       (if r.u 1 1 = 1 then t.commitSteer kind else t).respond mb stOk 0 [])

/-- Enter forwarding entries; reserved bits read as zero. -/
def State.putFwd (s : State) (b : List Byte) (first : Nat) : Nat → State
  | 0 => s
  | n + 1 =>
    let t := State.putFwd s b first n
    { t with fabric := { t.fabric with fwd := t.fabric.fwd.set 0 (first + n) (BitVec.ofNat 16 (fieldLE b (4 + 2 * n) 2 % 256)) } }

/-- FWD_SET (12 R281). -/
def execFwdSet (mb : MbId) (s : State) : Host.Outcome State Fault Refusal :=
  s.mbRun mb 0x0007 (fun _ => true) fun r =>
    let first := r.u 0 2
    let n := r.u 2 2
    let bad := badAt n fun i => decide (256 ≤ r.u (4 + 2 * i) 2)
    s.guarded mb
      [(decide (16384 ≤ first), stBadField, 0),
       (decide (2030 < n ∨ 16384 < first + n ∨ r.payload.length < 4 + 2 * n), stBadField, 2), (bad.isSome, stBadField, 4 + 2 * bad.getD 0)]
      ((s.putFwd r.payload first n).respond mb stOk 0 [])

/-! ### PL_CAP and SLEEP (R339, 16 R374) -/

/-- PL_CAP (R339): the response follows every level change it causes. -/
def execPlCap (mb : MbId) (s : State) : Host.Outcome State Fault Refusal :=
  s.mbRun mb 0x0008 (fun _ => true) fun r =>
    let bad := badAt 9 fun i => decide (5 < r.u i 1)
    s.guarded mb [(bad.isSome, stBadField, bad.getD 0)]
      (let t : State := { s with parts := s.parts.mapIdx fun i q => ({ q with cap := BitVec.ofNat 3 (r.u (1 + (i : Nat)) 1) } : Partition) }
       ((t.modReg fun g => { g with modLevel := BitVec.ofNat 3 (r.u 0 1) }).retarget).awaitWith mb [])

/-- A stream of the module runs. -/
def State.anyRunning (s : State) : Bool := allCores.any fun c => (s.core c).ctl.stream == .running

/-- An update step is open. -/
def State.anyOpenStep (s : State) : Bool := allParts.any fun p => (s.part p).ue.steps.any UeStep.isOpen

/-- The entry condition of a sleep state (16 Table 16.3). -/
def State.maySleep (s : State) (n : Nat) : Bool :=
  if n = 4 then !(allParts.any s.partExists)
  else !s.anyRunning && !s.anyOpenStep && (n != 3 || s.sessions.isEmpty)

/-- Enter a sleep state: below S2 every fabric port goes down with cause SLEEP, and HBM is in self-refresh in S3; S4
loses it, so the start that ends S4 retrains (15 R355). -/
def State.enterSleep (s : State) (n : Nat) : State :=
  let st : MState := if n = 1 then .s1 else if n = 2 then .s2 else if n = 3 then .s3 else .s4
  let s1 := (s.modAon fun a => { a with mstate := st, retained := a.retained && n != 4 }).logEvent evSleep 53 srcNone []
  if n < 3 then s1
  else
    let s2 := s1.takePortsDown .sleep allPorts
    { s2 with stk := s2.stk.map fun k => { k with selfRefresh := true } }

/-- SLEEP (16 R374): a level change under way completes first; the response precedes the transition. -/
def execSleep (mb : MbId) (s : State) : Host.Outcome State Fault Refusal :=
  s.mbRun mb 0x0009 (fun _ => s.levelsSettled) fun r =>
    let n := r.u 0 1
    s.guarded mb
      [(decide (n < 1 ∨ 4 < n), stBadField, 0), (s.aon.mstate != .ready || !s.maySleep n, stState, n)]
      ((s.respond mb stOk 0 []).enterSleep n)

/-! ### RESET (15 R349, R356) -/

/-- RESET_WARM (15 R350): KIND 0; a KIND that is no code is refused here. -/
def execResetWarm (mb : MbId) (s : State) : Host.Outcome State Fault Refusal :=
  s.mbRun mb 0x000A (fun r => r.u 0 1 == 0 || decide (2 < r.u 0 1)) fun r =>
    s.guarded mb [(decide (2 < r.u 0 1), stBadField, 0)] ((s.respond mb stOk 0 []).moduleReset 4 .warm false)

/-- RESET_RETRAIN (15 R349): KIND 1. -/
def execResetRetrain (mb : MbId) (s : State) : Host.Outcome State Fault Refusal :=
  s.mbRun mb 0x000A (fun r => r.u 0 1 == 1) fun _ => (s.respond mb stOk 0 []).moduleReset 5 .retrain false

/-- Clear a core as R120 of chapter 05 states, its counters with it; it keeps its partition, its level and its residency. A FAULTED stream stays
FAULTED unless `unfault`. -/
def Core.cleared (k : Core) (unfault : Bool) : Core :=
  { Core.reset with
    part := k.part, granted := k.granted, level := k.level, target := k.target, cycFrac := k.cycFrac, resPl := k.resPl, hot := k.hot
    ctl := { CoreCtl.reset with stream := if k.ctl.stream = .faulted ∧ unfault = false then .faulted else .idle } }

/-- A core may be reset or reassigned: its stream does not run and no command is in flight (05 R120). -/
def Core.settled (k : Core) : Bool := k.ctl.stream != .running && k.quiet

/-- A port island reset clears its counters and starts bring-up (15 R356). -/
def State.resetPort (s : State) (p : PortId) : State :=
  let q := s.port p
  let s1 := if q.state = .training ∨ q.state.isUp = true then s.takePortDown p .islandReset else s
  s1.modPort p fun z => { (z.drop (if z.en ∧ s.portsRun = true then .waitPeer else .disabled)) with
    subs := Vector.replicate 4 SubPort.reset, floorAdapt := 0, floorAdaptNs := 0 }

/-- ISLAND_RESET (15 R356): KIND 2, core and port islands only; the stash stays (08 R182). -/
def execIslandReset (mb : MbId) (s : State) : Host.Outcome State Fault Refusal :=
  s.mbRun mb 0x000A (fun r => r.u 0 1 == 2) fun r =>
    let isl := r.u 1 1
    let c : CoreId := Fin.ofNat 24 isl
    let p : PortId := Fin.ofNat 12 (isl - 36)
    s.guarded mb
      [(!(decide (isl < 24) || decide (36 ≤ isl ∧ isl ≤ 47)), stBadField, 1),
       (decide (isl < 24) && (s.core c).part.isSome && !(s.core c).settled, stState, isl)]
      (let t := (s.respond mb stOk 0 []).logEvent evIslReset isl srcNone (bytesLE 1 (if isl < 24 then isl else isl - 36))
       if isl < 24 then t.modCore c fun k => { k.cleared false with stash := k.stash, ctl := { (k.cleared false).ctl with tokens := k.ctl.tokens } } else t.resetPort p)

/-! ### FLASH_WRITE (R322, 15 R363, 16 R379) -/

/-- The bytes that a FLASH_WRITE names in its partition's space; the checks are on PART, LEN, VA and its pages. -/
def State.flashChecks (s : State) (r : MbReq) (most : Nat) : List (Bool × BitVec 16 × Nat) :=
  let bad := (s.part r.part).checkRange (r.u 8 8) (r.u 4 4) .r
  [(decide (2 < r.u 0 1), stBadField, 0), r.zero 1 3, (!s.partExists r.part, stNotFound, 0),
   (decide (r.u 4 4 = 0 ∨ most < r.u 4 4), stBadField, 4), r.wide 8,
   (bad.isSome, stAccess, 0)]

/-- Read the bytes of a FLASH_WRITE; an uncorrectable codeword faults the partition and the command stops. -/
def State.flashRead (s : State) (m : MbId) (r : MbReq) (go : State → List Byte → State) : State :=
  match s.readHbm r.part (r.u 8 8) (r.u 4 4) with
  | (some b, s1) => go s1 b
  | (none, s1) => (s1.partFault r.part 5 none).respond m stFaulted 0 []

/-- The slot that FLASH_WRITE writes: the one that is not ACTIVE, and never the running one (log 36). -/
def State.writeSlot (s : State) : Bool := if s.aon.slotB = some (!s.flash.activeB) then s.flash.activeB else !s.flash.activeB

/-- FLASH_WRITE_FIRMWARE (15 R363): REGION 0; a REGION that is no code is refused here. -/
def execFlashWriteFirmware (mb : MbId) (s : State) : Host.Outcome State Fault Refusal :=
  s.mbRun mb 0x000B (fun r => r.u 0 1 == 0 || decide (2 < r.u 0 1)) fun r =>
    s.guarded mb (s.flashChecks r (4 * 2 ^ 20)) (s.flashRead mb r fun t b =>
      if t.flash.badSlot t.writeSlot = true ∨ t.fuses.verify b ≠ 1 then t.respond mb stBadImage 0 []
      else
        let w := t.writeSlot
        { t with flash := { t.flash with
            slotA := if w then t.flash.slotA else b, slotB := if w then b else t.flash.slotB, activeB := w } }.respond mb stOk 0 [])

/-- The unit of a sensor as a KIND of 16 R378: 0 °C, 1 V, 2 A, 3 W. -/
def sensorUnit (id : Nat) : Nat :=
  if id = 0x50 ∨ (0x58 ≤ id ∧ id ≤ 0x5D) then 1 else if id = 0x51 ∨ (0x60 ≤ id ∧ id ≤ 0x65) then 2 else if id = 0x52 then 3 else 0

/-- A bound as a ratio of whole numbers: `lo/1000 ≤ x ≤ hi/1000`. -/
def within (x : Ext) (lo hi : Int) : Bool :=
  let k := x.mulX (Ext.ofNat 1000)
  let z := fun (v : Int) => if v < 0 then Ext.fin true v.natAbs 0 else Ext.fin false v.natAbs 0
  Ext.le (z lo) k && Ext.le k (z hi)

/-- A whole number from -4 to 4. -/
def steps4 (x : Ext) : Bool := (List.range 9).any fun i =>
  Ext.veq x (if i < 4 then .fin true (4 - i) 0 else .fin false (i - 4) 0)

/-- The offset in the region of a field that 16 Table 16.8 refuses in entry `i`. -/
def calBad (b : List Byte) (i : Nat) : Option Nat :=
  let o := 16 + 12 * i
  let tgt := fieldLE b o 2
  let kind := fieldLE b (o + 2) 1
  let g := ofB32 (fieldLE b (o + 4) 4)
  let f := ofB32 (fieldLE b (o + 8) 4)
  let twin := (List.range i).any fun j => fieldLE b (16 + 12 * j) 3 == fieldLE b o 3
  let tgtOk := if kind = 0 then sensorId tgt else if kind = 1 then decide (0x100 ≤ tgt ∧ tgt < 0x130) else decide (0x200 ≤ tgt ∧ tgt < 0x300)
  let lim : Int := match sensorUnit tgt with
    | 0 => 5000
    | 1 => 20
    | 2 => 2000
    | _ => 20000
  if 2 < kind then some (o + 2)
  else if !tgtOk || twin then some o
  else if !(if kind = 0 then within g 950 1050 else Ext.veq g .one) then some (o + 4)
  else if !(if kind = 0 then within f (-lim) lim else steps4 f) then some (o + 8)
  else none

/-- FLASH_WRITE_CALIBRATION (16 R379): REGION 1; the next start retrains HBM (15 R355). -/
def execFlashWriteCalibration (mb : MbId) (s : State) : Host.Outcome State Fault Refusal :=
  s.mbRun mb 0x000B (fun r => r.u 0 1 == 1) fun r =>
    s.guarded mb (s.flashChecks r (16 + 12 * 1024)) (s.flashRead mb r fun t b =>
      let n := fieldLE b 6 2
      let bad := badAt n fun i => (calBad b i).isSome
      t.guarded mb
        [(fieldLE b 0 4 != 0x4C414355, stBadField, 0), (fieldLE b 4 2 != 1, stBadField, 4),
         (decide (1024 < n ∨ b.length < 16 + 12 * n), stBadField, 6), (!calValid b, stBadField, 8),
         (bad.isSome, stBadField, (calBad b (bad.getD 0)).getD 0)]
        ({ t with flash := { t.flash with userCal := b }, aon := { t.aon with retained := false } }.respond mb stOk 0 []))

/-- The offset of the first field of a configuration region that its rule refuses (Table 14.17). -/
def cfgFieldBad (b : List Byte) : Option Nat :=
  let w := fieldLE b 0x14 2
  if fieldLE b 0 4 ≠ 0x47464344 then some 0
  else if fieldLE b 4 2 ≠ 1 then some 4
  else if fieldLE b 6 2 ≠ 0 then some 6
  else if cfgValid b = false then some 8
  else if fieldLE b 0xC 4 ≠ 0 then some 0xC
  else if (fieldLE b 0x10 2).testBit 14 then some 0x10
  else if w < 400 ∨ 1000 < w then some 0x14
  else if fieldLE b 0x16 2 ≠ 0 then some 0x16
  else if fieldLE b 0x22 14 ≠ 0 then some 0x22
  else match badAt 12 fun i => decide (128 ≤ fieldLE b (0x30 + 4 * i) 4) with
    | some i => some (0x30 + 4 * i)
    | none => hostsBad b 0x60 64

/-- FLASH_WRITE_CONFIG (R322): REGION 2. -/
def execFlashWriteConfig (mb : MbId) (s : State) : Host.Outcome State Fault Refusal :=
  s.mbRun mb 0x000B (fun r => r.u 0 1 == 2) fun r =>
    s.guarded mb (s.flashChecks r cfgBytes) (s.flashRead mb r fun t b =>
      let bad := cfgFieldBad b
      t.guarded mb [(b.length != cfgBytes, stBadField, 4), (bad.isSome, stBadField, bad.getD 0)]
        ({ t with flash := { t.flash with config := b } }.respond mb stOk 0 []))

end Sys2Proof.Machine
end

