-- ==== Sys2Proof/Machine/MbPart.lean ====
section
/-! DEFINITION. The owner's partition commands (14 Table 14.8, 0x0101 to 0x0107, R337 to R340): partitions, cores, pages,
the stash region and queues. -/

namespace Sys2Proof.Machine

/-! ### Physical pages (11 R246, R248, R253) -/

/-- The pages that partitions may be given (11 R248). -/
def partPages : Nat := 98048

/-- A page is free and its mode may be the wanted one: its unit row has no mode yet or has that mode, and a local page lies
on its stack (11 R246). -/
def Hbm.offers (h : Hbm) (loc : Option StackId) (p : Nat) : Bool :=
  h.pages.get .free p == .free &&
    (match h.rowLocal.get none (p / 8) with
      | none => true
      | some m => m == loc.isSome) &&
    (match loc with
      | some k => p % 8 == k.val
      | none => true)

/-- The lowest pages on offer from `p` on, at most `need`. -/
def Hbm.pick (h : Hbm) (loc : Option StackId) (need p : Nat) : Nat → List Nat
  | 0 => []
  | fuel + 1 =>
    if need = 0 then []
    else if h.offers loc p then p :: Hbm.pick h loc (need - 1) (p + 1) fuel
    else Hbm.pick h loc need (p + 1) fuel

/-- The lowest `need` pages on offer, or fewer when the free pages fall short. -/
def Hbm.pickPages (h : Hbm) (loc : Option StackId) (need : Nat) : List Nat := h.pick loc need 0 partPages

/-- Fill a page with zeros under a key and with fresh check symbols (11 R253, R254). -/
def Hbm.zeroPage (h : Hbm) (key : Option Nat) (p : Nat) : Hbm :=
  { h with
    mem := h.mem.filter fun e => e.1 / pageBytes != p
    ecc := h.ecc.filter fun e => e.1 * 64 / pageBytes != p
    keys := h.keys.set none p key }

/-- Allot pages under the key of their partition: they are zeroed, and their unit rows take the mode. -/
def Hbm.allot (h : Hbm) (key : Option Nat) (loc : Bool) (use : PageUse) : List Nat → Hbm
  | [] => h
  | p :: ps =>
    let z := h.zeroPage key p
    Hbm.allot { z with pages := z.pages.set .free p use, rowLocal := z.rowLocal.set none (p / 8) (some loc) } key loc use ps

/-- Free a page without clearing it; a unit row whose pages are all free has no mode (11 R246, R253). -/
def Hbm.release (h : Hbm) (p : Nat) : Hbm :=
  let pg := h.pages.set .free p .free
  let empty := (List.range 8).all fun j => pg.get .free (8 * (p / 8) + j) == .free
  { h with pages := pg, rowLocal := if empty then h.rowLocal.set none (p / 8) none else h.rowLocal }

def Hbm.releaseAll (h : Hbm) : List Nat → Hbm
  | [] => h
  | p :: ps => Hbm.releaseAll (h.release p) ps

/-- The pages that hold a region of `n` bytes. -/
def pagesFor (n : Nat) : Nat := ceilDiv n pageBytes

/-! ### PART_CREATE, PART_RESET, PART_DELETE (R337, R338) -/

/-- SHARE of all real-time partitions together. -/
def State.shares (s : State) : Nat := (allParts.map fun p => match (s.part p).cfg with
  | some c => if c.rt then c.share.toNat else 0
  | none => 0).sum

/-- The values of a PART_CREATE payload. -/
def partCfgOf (b : List Byte) : PartCfg where
  rt := fieldLE b 0 1 == 1
  compact := fieldLE b 1 1 == 1
  enc := (fieldLE b 2 1).testBit 0
  share := BitVec.ofNat 8 (fieldLE b 3 1)
  jobid := BitVec.ofNat 32 (fieldLE b 4 4)
  vid := BitVec.ofNat 12 (fieldLE b 8 2)
  pcp := BitVec.ofNat 3 (fieldLE b 0xA 1)
  plcap := BitVec.ofNat 8 (fieldLE b 0xB 1)
  s := BitVec.ofNat 64 (fieldLE b 0x10 8)
  h := BitVec.ofNat 64 (fieldLE b 0x18 8)
  payload := padTo 32 b

/-- The partition just after PART_CREATE, with its stash region allotted and zeroed, and its key from the random source
(R337, 11 R254; the key is a free value, log 1). -/
def State.freshPart (s : State) (p : PartId) (c : PartCfg) : State :=
  let pg := s.hbm.pickPages none (pagesFor c.s.toNat)
  let key := if c.enc then some s.freeVal else none
  let s1 := { s with hbm := s.hbm.allot key false (.stash p) pg }
  (s1.setPart p { Partition.reset with
    cfg := some c, key := key, cap := c.plcap.truncate 3, stashPages := pg }).freeNext

/-- PART_CREATE (R337). -/
def execPartCreate (mb : MbId) (s : State) : Host.Outcome State Fault Refusal :=
  s.mbRun mb 0x0101 (fun _ => true) fun r =>
    let c := partCfgOf r.payload
    let share := r.u 3 1
    s.guarded mb
      [(s.partExists r.part, stState, r.part.val), (decide (1 < r.u 0 1), stBadField, 0), (decide (1 < r.u 1 1), stBadField, 1),
       (decide (1 < r.u 2 1), stBadField, 2), (decide (4096 ≤ r.u 8 2), stBadField, 8), (decide (8 ≤ r.u 0xA 1), stBadField, 0xA),
       r.zero 0xC 4,
       (if c.rt then decide (share < 1 ∨ 192 < share) else share != 0, stBadField, 3), (decide (5 < r.u 0xB 1), stBadField, 0xB),
       (r.u 0x10 8 % 6144 != 0, stBadField, 0x10), (r.u 0x18 8 % 6144 != 0 || decide (r.u 0x10 8 < r.u 0x18 8), stBadField, 0x18),
       (decide (192 < s.shares + (if c.rt then share else 0)), stNoResource, 1),
       ((s.hbm.pickPages none (pagesFor c.s.toNat)).length != pagesFor c.s.toNat, stNoResource, 2)]
      ((s.freshPart r.part c).respond mb stOk 0 [])

/-- End the running commands of a partition that take no object (R332). -/
def State.endRunning (s : State) (m : MbId) (p : PartId) : List MbId → State
  | [] => s
  | n :: ns =>
    let hit := n != m && (match (s.mb n).busy with
      | some q => decide (0x0205 ≤ q.cmd.toNat ∧ q.cmd.toNat ≤ 0x020D) && q.part == p
      | none => false)
    State.endRunning (if hit then s.respond n stAborted 0 [] else s) m p ns

/-- Remove the queues of a partition; queue groups no longer name them. -/
def State.dropQueues (s : State) (p : PartId) : State :=
  let mine := s.qidsOf p
  { s.modEng fun e => { e with
      queues := e.queues.filter fun q => !mine.contains (BitVec.ofNat 20 q.1)
      qcache := e.qcache.filter fun q => !mine.contains q } with
    fabric := { s.fabric with qgroups := s.fabric.qgroups.map fun g =>
      (g.1, g.2.map fun d =>
        let ids := d.qids.filter fun q => !mine.contains q
        { d with qids := ids, nq := ids.length }) } }

/-- What waits for a descriptor belongs to a partition, or to a queue that is gone. -/
def State.heldOf (s : State) (p : PartId) : Missed → Bool
  | .data k => k.tpart == p
  | .a2a q _ _ | .a2aBack q _ _ => q == p
  | .frame _ _ q _ _ _ => (match s.queue q with
    | some d => d.part == p
    | none => true)

/-- Clear what the shared engines keep of a partition (R338, 01 R15). -/
def State.dropShared (s : State) (p : PartId) : State :=
  s.modEng fun e => { e with
    held := e.held.filter fun h => !s.heldOf p h
    tlb := e.tlb.filter fun t => t.1 != p
    rounds := e.rounds.filter fun r => r.part != p
    cgroups := e.cgroups.filter fun g => (match g.2 with
      | some d => d.part != p
      | none => true)
    ctxs := e.ctxs.filter fun x => x.part != p
    gathers := e.gathers.filter fun g => g.part != p
    xfers := e.xfers.filter fun x => x.part != p
    localA2a := e.localA2a.filter fun a => a.1 != p }

/-- The pages a partition holds, its stash region included. -/
def Partition.held (q : Partition) : List Nat := q.pages.filterMap (fun e => e.2.map (·.ppn)) ++ q.stashPages

/-- Clear the cores of a list under 05 R120. -/
def State.clearCores (s : State) (keep : Bool) : List CoreId → State
  | [] => s
  | c :: cs => State.clearCores (s.modCore c fun k => { k.cleared true with part := if keep then k.part else none, granted := 0 }) keep cs

/-- The four steps of R338; `keep` for a reset, which keeps the cores. -/
def State.endPart (s : State) (m : MbId) (p : PartId) (keep : Bool) : State :=
  let mine := s.coresOf p
  let pages := (s.part p).held
  let s1 := (s.partFault p 7 none).endRunning m p allMbs
  let s2 := ((s1.closeAll (some 1) (s1.sessOf p)).dropQueues p).dropShared p
  let s3 := { s2 with hbm := s2.hbm.releaseAll pages }
  (s3.setPart p Partition.reset).clearCores keep mine

/-- PART_DELETE (R338). -/
def execPartDelete (mb : MbId) (s : State) : Host.Outcome State Fault Refusal :=
  s.mbRun mb 0x0102 (fun _ => true) fun r =>
    s.guarded mb [(!s.partExists r.part, stNotFound, 0)] ((s.endPart mb r.part false).respond mb stOk 0 [])

/-- PART_RESET (R338): the partition as just after PART_CREATE, with its cores. -/
def execPartReset (mb : MbId) (s : State) : Host.Outcome State Fault Refusal :=
  s.mbRun mb 0x0103 (fun _ => true) fun r =>
    match (s.part r.part).cfg with
    | none => s.respond mb stNotFound 0 []
    | some c => (((s.endPart mb r.part true).freshPart r.part c).retarget).respond mb stOk 0 []

/-! ### CORE_ASSIGN (05 R120) -/

/-- The cores that CMASK names. -/
def MbReq.mask (r : MbReq) (o : Nat) : List CoreId := allCores.filter fun c => (r.u o 4).testBit c.val

/-- Give cores to a partition or to none: each is reset under 05 R120; one that the partition holds stays as it is. -/
def State.giveCores (s : State) (to' : Option PartId) : List CoreId → State
  | [] => s
  | c :: cs => State.giveCores
      (if (s.core c).part = to' then s else s.modCore c fun k => { k.cleared true with part := to', granted := 0 }) to' cs

/-- The first core of a list that may not be reassigned. -/
def State.busyCore (s : State) (l : List CoreId) : Option CoreId := l.find? fun c => !(s.core c).settled

/-- The number of a core, 0 for none. -/
def coreNo : Option CoreId → Nat
  | some c => c.val
  | none => 0

/-- CORE_ASSIGN with MODE 0 (05 R120); a MODE that is no code is refused here. -/
def execCoreAssign (mb : MbId) (s : State) : Host.Outcome State Fault Refusal :=
  s.mbRun mb 0x0104 (fun r => r.u 0 1 != 1) fun r =>
    let l := r.mask 4
    let all := allCores.filter fun c => l.contains c || (s.core c).part == some r.part
    s.guarded mb
      [(r.u 0 1 != 0, stBadField, 0), r.zero 1 3, (decide (2 ^ 24 ≤ r.u 4 4), stBadField, 4), (!s.partExists r.part, stNotFound, 0),
       (s.isRt r.part && decide (8 < all.length), stBadField, 4),
       ((s.busyCore l).isSome, stState, coreNo (s.busyCore l))]
      (((s.giveCores (some r.part) l).retarget).respond mb stOk 0 [])

/-- CORE_ASSIGN with MODE 1: the cores belong to no partition. -/
def execCoreUnassign (mb : MbId) (s : State) : Host.Outcome State Fault Refusal :=
  s.mbRun mb 0x0104 (fun r => r.u 0 1 == 1) fun r =>
    let l := r.mask 4
    let other := l.find? fun c => (s.core c).part != some r.part
    s.guarded mb
      [r.zero 1 3, (decide (2 ^ 24 ≤ r.u 4 4), stBadField, 4), (!s.partExists r.part, stNotFound, 0), (other.isSome, stState, coreNo other),
       ((s.busyCore l).isSome, stState, coreNo (s.busyCore l))]
      (((s.giveCores none l).retarget).respond mb stOk 0 [])

/-! ### REGION_MAP (R340, 11 R251, R252) -/

/-- The page numbers of a REGION_MAP in the partition's space. -/
def MbReq.vpns (r : MbReq) : List Nat := (List.range (r.u 4 4)).map fun i => r.u 8 6 / pageBytes + i

/-- What every REGION_MAP checks of its payload. -/
def State.regionChecks (s : State) (r : MbReq) : List (Bool × BitVec 16 × Nat) :=
  [(decide (2 < r.u 0 1), stBadField, 0), (decide (15 < r.u 1 1), stBadField, 1), (decide (31 < r.u 2 1), stBadField, 2),
   r.zero 3 1, (decide (r.u 4 4 < 1 ∨ partPages < r.u 4 4), stBadField, 4),
   r.wide 8, (r.u 8 6 % pageBytes != 0 || decide (2 ^ 48 < r.u 8 6 + r.u 4 4 * pageBytes), stBadField, 8),
   (!s.partExists r.part, stNotFound, 0)]

/-- A translation with the rights of Table 11.5. -/
def pteWith (rights ppn : Nat) : Pte :=
  ⟨rights.testBit 0, rights.testBit 1, rights.testBit 2, rights.testBit 3, rights.testBit 4, ppn⟩

/-- Level-1 entries that the pages of a REGION_MAP need and the partition has not. -/
def MbReq.l1Wanted (r : MbReq) (q : Partition) : List Nat :=
  let a := r.u 8 6 / l2Bytes
  let z := (r.u 8 6 + (r.u 4 4 - 1) * pageBytes) / l2Bytes
  ((List.range (z - a + 1)).map (a + ·)).filter fun i => (q.l1.get none i).isNone

/-- Level-2 tables that no level-1 entry names: the region holds 512 (11 Table 11.3). -/
def State.l2Free (s : State) : List Nat :=
  let used := allParts.flatMap fun p => (s.part p).l1.filterMap (·.2)
  (List.range 512).filter fun k => !used.contains k

/-- Enter level-1 entries: each names a table of its own (11 Table 11.4). -/
def Partition.enterL1 (q : Partition) : List (Nat × Nat) → Partition
  | [] => q
  | e :: es => Partition.enterL1 { q with l1 := q.l1.set none e.1 (some e.2) } es

/-- Enter translations. -/
def Partition.enter (q : Partition) (rights : Nat) : List (Nat × Nat) → Partition
  | [] => q
  | e :: es => Partition.enter { q with pages := q.pages.set none e.1 (some (pteWith rights e.2)) } rights es

/-- Mapped pages of the real-time partitions, which are the pinned translations (11 R251). -/
def State.pinnedPages (s : State) : Nat := (allParts.map fun p => if s.isRt p then (s.part p).pages.length else 0).sum

/-- The wanted mode of a REGION_MAP: interleaved, or local on a stack. -/
def MbReq.mapMode (r : MbReq) : Option StackId :=
  if (r.u 1 1).testBit 0 then some (Fin.ofNat 8 (r.u 1 1 / 2)) else none

/-- REGION_MAP with OP 0 (R340); an OP that is no code is refused here. -/
def execRegionMap (mb : MbId) (s : State) : Host.Outcome State Fault Refusal :=
  s.mbRun mb 0x0105 (fun r => r.u 0 1 != 1 && r.u 0 1 != 2) fun r =>
    let n := r.u 4 4
    let pg := s.hbm.pickPages r.mapMode n
    let q := s.part r.part
    let tabs := (r.l1Wanted q).zip s.l2Free
    s.guarded mb
      (s.regionChecks r ++
        [(q.pages.any fun e => decide (r.u 8 6 / pageBytes ≤ e.1 ∧ e.1 < r.u 8 6 / pageBytes + n), stState, r.part.val),
         (s.isRt r.part && decide (4096 < s.pinnedPages + n), stNoResource, 3), (pg.length != n, stNoResource, 2),
         (tabs.length != (r.l1Wanted q).length, stNoResource, 2)])
      ((({ s with hbm := s.hbm.allot q.key r.mapMode.isSome (.mapped r.part) pg }).modPart r.part fun q =>
          (q.enterL1 tabs).enter (r.u 2 1) (r.vpns.zip pg)).respond mb stOk 0 (bytesLE 4 n))

/-- The partition may lose pages or rights: streams IDLE or FAULTED, queues disabled (11 R252). -/
def State.mapQuiet (s : State) (p : PartId) : Bool :=
  ((s.coresOf p).all fun c => (s.core c).ctl.stream == .idle || (s.core c).ctl.stream == .faulted) &&
    (s.qidsOf p).all fun q => match s.queue q with
      | some d => !d.en
      | none => true

/-- Every page of the range is mapped. -/
def State.allMapped (s : State) (r : MbReq) : Bool := r.vpns.all fun v => ((s.part r.part).pages.get none v).isSome

/-- Drop cached translations of pages (11 R252). -/
def State.dropTlb (s : State) (p : PartId) (vs : List Nat) : State :=
  s.modEng fun e => { e with tlb := e.tlb.filter fun t => !(t.1 == p && vs.contains t.2) }

/-- Drop the level-1 entries whose tables hold no page: their tables are free again (log 79). -/
def Partition.trimL1 (q : Partition) : Partition :=
  { q with l1 := q.l1.filter fun e => q.pages.any fun g => g.1 / 8192 == e.1 }

/-- Remove translations. -/
def Partition.leave (q : Partition) : List Nat → Partition
  | [] => q
  | v :: vs => Partition.leave { q with pages := q.pages.set none v none } vs

/-- REGION_MAP with OP 1: unmap and free (R340). -/
def execRegionUnmap (mb : MbId) (s : State) : Host.Outcome State Fault Refusal :=
  s.mbRun mb 0x0105 (fun r => r.u 0 1 == 1) fun r =>
    let pg := r.vpns.filterMap fun v => ((s.part r.part).pages.get none v).map (·.ppn)
    s.guarded mb
      (s.regionChecks r ++ [(!s.allMapped r, stBadField, 8), (s.longRuns mb r.part || !s.mapQuiet r.part, stState, r.part.val)])
      (let t := (({ s with hbm := s.hbm.releaseAll pg }).modPart r.part fun q => (q.leave r.vpns).trimL1).dropTlb r.part r.vpns
       t.respond mb stOk 0 (bytesLE 4 (r.u 4 4)))

/-- A translation has a right that `e` lacks. -/
def Pte.loses (e f : Pte) : Bool := (e.r && !f.r) || (e.w && !f.w) || (e.x && !f.x) || (e.pr && !f.pr) || (e.pw && !f.pw)

/-- REGION_MAP with OP 2: replace the rights (R340). -/
def execRegionSetRights (mb : MbId) (s : State) : Host.Outcome State Fault Refusal :=
  s.mbRun mb 0x0105 (fun r => r.u 0 1 == 2) fun r =>
    let q := s.part r.part
    let old := r.vpns.filterMap fun v => (q.pages.get none v).map fun e => (v, e.ppn)
    let loses := r.vpns.any fun v => match q.pages.get none v with
      | some e => e.loses (pteWith (r.u 2 1) e.ppn)
      | none => false
    s.guarded mb
      (s.regionChecks r ++
        [(!s.allMapped r, stBadField, 8), (s.longRuns mb r.part || (loses && !s.mapQuiet r.part), stState, r.part.val)])
      (((s.modPart r.part fun q => q.enter (r.u 2 1) old).dropTlb r.part r.vpns).respond mb stOk 0 (bytesLE 4 (r.u 4 4)))

/-! ### STASH_SET (08 R178) -/

/-- The partition with another stash size: it keeps its first `need` pages and takes the new ones. -/
def Partition.stashSized (q : Partition) (need : Nat) (pg : List Nat) (sz hi : Nat) : Partition :=
  { q with
    stashPages := q.stashPages.take need ++ pg
    cfg := q.cfg.map fun c => { c with s := BitVec.ofNat 64 sz, h := BitVec.ofNat 64 hi } }

/-- STASH_SET (08 R178): pages added are zeroed, pages no longer needed are freed. -/
def execStashSet (mb : MbId) (s : State) : Host.Outcome State Fault Refusal :=
  s.mbRun mb 0x0106 (fun _ => true) fun r =>
    let q := s.part r.part
    let need := pagesFor (r.u 0 8)
    let more := need - q.stashPages.length
    let pg := s.hbm.pickPages none more
    s.guarded mb
      [(r.u 0 8 % 6144 != 0, stBadField, 0), (r.u 8 8 % 6144 != 0 || decide (r.u 0 8 < r.u 8 8), stBadField, 8),
       (!s.partExists r.part, stNotFound, 0),
       (s.longRuns mb r.part || (s.coresOf r.part).any fun c => (s.core c).ctl.stream != .idle, stState, r.part.val),
       (pg.length != more, stNoResource, 2)]
      (({ s with hbm := (s.hbm.allot q.key false (.stash r.part) pg).releaseAll (q.stashPages.drop need) }.setPart r.part
          (q.stashSized need pg (r.u 0 8) (r.u 8 8))).respond mb stOk 0 [])

/-! ### QUEUE_CTL (10 R219 to R221) -/

/-- The fields of a queue descriptor up to 0x1F (10 Table 10.2); the rest is zero at creation. -/
def queueOf (b : List Byte) : Queue where
  cls := BitVec.ofNat 3 (fieldLE b 0 1)
  part := Fin.ofNat 8 (fieldLE b 1 1)
  en := (fieldLE b 2 2).testBit 0
  rt := (fieldLE b 2 2).testBit 1
  late := (fieldLE b 2 2).testBit 2
  memCs := (fieldLE b 2 2).testBit 3
  posted := (fieldLE b 2 2).testBit 4
  pin := (fieldLE b 2 2).testBit 5
  depth := fieldLE b 4 2
  nbuf := fieldLE b 6 1
  rlag := fieldLE b 7 1
  base := BitVec.ofNat 48 (fieldLE b 8 6)
  slotb := fieldLE b 0x10 4
  maxout := fieldLE b 0x14 2
  qgrp := BitVec.ofNat 16 (fieldLE b 0x16 2)
  cmask := BitVec.ofNat 24 (fieldLE b 0x18 4)
  ncqEn := (fieldLE b 0x1C 4).testBit 31
  ncq := BitVec.ofNat 20 (fieldLE b 0x1C 4)
  ppos := 0
  cpos := 0
  dpos := 0
  lastMissDl := 0
  dlMiss := 0
  qDrop := 0
  lastTs := 0
  items := []
  drainOpen := false
  waiters := []
  grants := 0
  a2aGrants := []
  held := []
  asmDrop := none

/-- The offset in Table 10.2 of the first field that breaks its limits. -/
def queueBad (b : List Byte) (rtPart : Bool) : Option Nat :=
  let q := queueOf b
  let ring := q.isCq || q.isJq
  let ones := (allCores.filter fun c => q.cmask.getLsbD c.val).length
  if 4 < fieldLE b 0 1 then some 0
  else if 7 < fieldLE b 1 1 then some 1
  else if 63 < fieldLE b 2 2 ∨ (q.rt && !rtPart) = true ∨ (q.posted && !q.isRxp) = true then some 2
  else if (if ring then !([64, 128, 256, 512, 1024, 2048, 4096, 8192, 16384].contains q.depth) else q.depth != 0) then some 4
  else if (if q.slotted then decide (q.nbuf < 2) else q.nbuf != 0) then some 6
  else if q.slotted && decide (q.rlag < 1 ∨ q.nbuf ≤ q.rlag) then some 7
  else if fieldLE b 0xE 2 ≠ 0 then some 8
  else if (if q.memCs then decide (2 ^ 20 ≤ q.base.toNat) else q.base.toNat % 32 != 0) then some 8
  else if q.slotb % 32 != 0 || decide (2 ^ 24 < q.slotb) || (q.slotted && q.slotb == 0) then some 0x10
  else if (if q.isPf then decide (q.maxout < 1 ∨ 256 < q.maxout) else q.maxout != 0) then some 0x14
  else if (if q.isRxf then decide (1024 ≤ q.qgrp.toNat) else q.qgrp != 0) then some 0x16
  else if (if q.isPf then ones != 1 else if q.memCs then ones == 0 else ones != 0) then some 0x18
  else if fieldLE b 0x1B 1 ≠ 0 then some 0x18
  else if bitsOf (fieldLE b 0x1C 4) 20 11 != 0 then some 0x1C
  else none

/-- Bytes of the queue's ring or slots (R220); a posted RXP queue has none. -/
def Queue.area (q : Queue) : Nat := if q.isCq || q.isJq then q.depth * q.recBytes else if q.slotted then q.nbuf * q.slotb else 0

/-- NCQ names an existing CQ of the partition, when it is enabled (R220). -/
def State.ncqOk (s : State) (q : Queue) : Bool := !q.ncqEn || (match s.queue q.ncq with
  | some d => d.isCq && d.part == q.part
  | none => false)

/-- The queue's producers can write its whole area (R220): pages mapped with W, or lines of the cores of its partition
below line 0xC_0000. -/
def State.areaOk (s : State) (q : Queue) : Bool :=
  if q.memCs then
    decide (q.base.toNat * 32 + q.area ≤ 32 * csLines) && q.cores.all fun c => (s.core c).part == some q.part
  else ((s.part q.part).checkRange q.base.toNat q.area .w).isNone

/-- What creation and enabling check (R220); INFO is the offset of NCQ or BASE in the descriptor. -/
def State.queueChecks (s : State) (q : Queue) : List (Bool × BitVec 16 × Nat) :=
  [(!s.ncqOk q, stBadField, 0x1C), (!s.areaOk q, stAccess, 8)]

/-- Pinned descriptors: those with PIN, and those of real-time partitions (R221). -/
def State.pinnedQueues (s : State) : Nat := (s.qids.filter fun i => match s.queue i with
  | some q => q.pin || s.isRt q.part
  | none => false).length

/-- Checks that every QUEUE_CTL makes. -/
def State.qctlChecks (s : State) (r : MbReq) : List (Bool × BitVec 16 × Nat) :=
  [(decide (3 < r.u 0 1), stBadField, 0), r.zero 1 3, (decide (2 ^ 20 ≤ r.u 4 4), stBadField, 4), (decide (0xFFFF0 ≤ r.u 4 4), stAccess, 0),
   (!s.partExists r.part, stNotFound, 0)]

def MbReq.qid (r : MbReq) (o : Nat) : Qid := BitVec.ofNat 20 (r.u o 4)

/-- The queue that a request names, when it is its partition's. -/
def State.ownQueue (s : State) (r : MbReq) (o : Nat) : Option Queue := match s.queue (r.qid o) with
  | some q => if q.part = r.part then some q else none
  | none => none

/-- Checks for a queue that must exist and belong to the partition. -/
def State.ownChecks (s : State) (r : MbReq) (o : Nat) : List (Bool × BitVec 16 × Nat) :=
  [((s.queue (r.qid o)).isNone, stNotFound, 0), ((s.ownQueue r o).isNone, stAccess, 0)]

/-- A created RXF queue would give its group a 17th queue or queues of two partitions (12 R278). -/
def State.groupRefuses (s : State) (q : Queue) : Bool := q.isRxf && (s.groupForeign q.qgrp.toNat q.part ||
  (match s.fabric.qgroups.get none q.qgrp.toNat with
    | some g => decide (16 ≤ g.qids.length)
    | none => false))

/-- Enter a created RXF queue in its queue group (12 R278). FLAGS and ATMO of a new group are free values (log 14). -/
def State.joinGroup (s : State) (id : Qid) (q : Queue) : State :=
  if !q.isRxf then s
  else
    let put := fun (t : State) (g : QueueGroup) =>
      ({ t with fabric := { t.fabric with qgroups := t.fabric.qgroups.set none q.qgrp.toNat (some g) } } : State)
    match s.fabric.qgroups.get none q.qgrp.toNat with
    | some g =>
      let ids := g.qids ++ [id]
      put s { g with qids := ids, nq := ids.length }
    | none =>
      let v := s.freeVal
      put s.freeNext ⟨1, v.testBit 0, v.testBit 1, v.testBit 2, BitVec.ofNat 16 (v / 8), [id]⟩

/-- Take a deleted queue out of its group. -/
def State.leaveGroup (s : State) (id : Qid) (q : Queue) : State :=
  match s.fabric.qgroups.get none q.qgrp.toNat with
  | some g =>
    if q.isRxf then
      let ids := g.qids.filter fun i => i != id
      { s with fabric := { s.fabric with qgroups := s.fabric.qgroups.set none q.qgrp.toNat (if ids.isEmpty then none else some { g with qids := ids, nq := ids.length }) } }
    else s
  | none => s

/-- QUEUE_CTL with OP 0: create (10 R219, R220); an OP that is no code is refused here. -/
def execQueueCreate (mb : MbId) (s : State) : Host.Outcome State Fault Refusal :=
  s.mbRun mb 0x0107 (fun r => r.u 0 1 == 0 || decide (3 < r.u 0 1)) fun r =>
    let b := (r.payload.drop 8).take 32
    let q := queueOf b
    let bad := queueBad b (s.isRt r.part)
    let pins := q.pin || s.isRt r.part
    s.guarded mb
      (s.qctlChecks r ++
        [((s.queue (r.qid 4)).isSome, stState, r.u 4 4 % 65536), (bad.isSome, stBadField, 8 + bad.getD 0),
         (q.part != r.part, stAccess, 0), (s.groupRefuses q, stBadField, 8 + 0x16)] ++ s.queueChecks q ++ [(pins && decide (4096 ≤ s.pinnedQueues), stNoResource, 3)])
      (((s.setQueue (r.qid 4) q).joinGroup (r.qid 4) q).respond mb stOk 0 [])

/-- QUEUE_CTL with OP 1: enable, with the checks of creation again (R220). -/
def execQueueEnable (mb : MbId) (s : State) : Host.Outcome State Fault Refusal :=
  s.mbRun mb 0x0107 (fun r => r.u 0 1 == 1) fun r =>
    match s.ownQueue r 4 with
    | none => s.guarded mb (s.qctlChecks r ++ s.ownChecks r 4) s
    | some q => s.guarded mb (s.qctlChecks r ++ s.queueChecks q) ((s.setQueue (r.qid 4) { q with en := true }).respond mb stOk 0 [])

/-- QUEUE_CTL with OP 2: disable. -/
def execQueueDisable (mb : MbId) (s : State) : Host.Outcome State Fault Refusal :=
  s.mbRun mb 0x0107 (fun r => r.u 0 1 == 2) fun r =>
    match s.ownQueue r 4 with
    | none => s.guarded mb (s.qctlChecks r ++ s.ownChecks r 4) s
    | some q => s.guarded mb (s.qctlChecks r) ((s.setQueue (r.qid 4) { q with en := false }).respond mb stOk 0 [])

/-- An existing queue sends its item records to a CQ. -/
def State.ncqNames (s : State) (id : Qid) : Bool := s.qids.any fun i => match s.queue i with
  | some q => q.ncqEn && q.ncq == id
  | none => false

/-- Remove a queue. -/
def State.dropQueue (s : State) (id : Qid) : State :=
  s.modEng fun e => { e with queues := e.queues.set none id.toNat none, qcache := e.qcache.filter fun i => i != id }

/-- QUEUE_CTL with OP 3: delete (R220); what waited for the descriptor finds no queue. -/
def execQueueDelete (mb : MbId) (s : State) : Host.Outcome State Fault Refusal :=
  s.mbRun mb 0x0107 (fun r => r.u 0 1 == 3) fun r =>
    match s.ownQueue r 4 with
    | none => s.guarded mb (s.qctlChecks r ++ s.ownChecks r 4) s
    | some q => s.guarded mb (s.qctlChecks r ++ [(q.isCq && s.ncqNames (r.qid 4), stState, r.u 4 4 % 65536)])
        (((s.leaveGroup (r.qid 4) q).dropQueue (r.qid 4)).releaseHeld.respond mb stOk 0 [])

end Sys2Proof.Machine
end

