-- ==== Sys2Proof/Machine/MbProgram.lean ====
section
/-! DEFINITION. The partition commands on programs and streams (14 R341 to R343, R339): the tables of PROGRAM_LOAD with
their rules, STREAM_START, STREAM_CANCEL, PL_REQUEST. -/

namespace Sys2Proof.Machine

/-! ### Tables (Table 14.12) -/

/-- One descriptor of PROGRAM_LOAD. -/
structure LoadDesc where
  index : Nat
  kind : Nat
  first : Nat
  count : Nat
  va : Nat
  deriving DecidableEq, Repr

def loadDescOf (b : List Byte) (i : Nat) : LoadDesc :=
  let e := entryAt b 0x10 16 i
  ⟨i, fieldLE e 0 1, fieldLE e 2 2, fieldLE e 4 4, fieldLE e 8 6⟩

/-- The offset in a descriptor of a field that must be zero and is not. -/
def descBad (b : List Byte) (i : Nat) : Option Nat :=
  let e := entryAt b 0x10 16 i
  if fieldLE e 1 1 ≠ 0 then some 1 else if fieldLE e 14 2 ≠ 0 then some 8 else none

/-- Bytes of one entry of a table kind. -/
def loadEntry (kind : Nat) : Nat := match kind with
  | 1 => 88
  | 2 => 64
  | 4 => 128
  | _ => 16

/-- Bytes of the staged table. -/
def LoadDesc.bytes (d : LoadDesc) : Nat := (if d.kind = 0 then 16 else 0) + loadEntry d.kind * d.count

/-- The offset in the descriptor of a code or a number out of its range. -/
def LoadDesc.bad (d : LoadDesc) : Option Nat :=
  let most := if d.kind = 0 then 256 else if d.kind = 1 then 1024 else if d.kind = 2 then 16384 else if d.kind = 3 then 1
    else if d.kind = 6 then 65536 else 4096
  if 6 < d.kind then some 0
  else if d.kind = 0 ∧ 255 < d.first then some 2
  else if 1 ≤ d.kind ∧ d.kind ≤ 3 ∧ d.first ≠ 0 then some 2
  else if (if 4 ≤ d.kind then decide (most < d.first + d.count) else decide (most < d.count)) then some 4
  else if d.kind = 3 ∧ d.count ≠ 1 then some 4
  else none

/-- Where a table breaks its rules: the entry index, 0xFFFF_FFFF for a header field, and the field offset (R336). -/
abbrev TableBad := Nat × Nat

def headerIndex : Nat := 0xFFFFFFFF

/-- INFO of ST_REFUSED_TABLE (Table 14.9). -/
def LoadDesc.info (d : LoadDesc) (b : TableBad) : Nat := d.index % 256 + d.kind * 2 ^ 8 + b.1 * 2 ^ 16 + b.2 * 2 ^ 48

/-- The first entry of a table that a check refuses. -/
def firstBadEntry (n : Nat) (check : Nat → Option Nat) : Option TableBad :=
  match (List.range n).find? fun i => (check i).isSome with
  | some i => some (i, (check i).getD 0)
  | none => none

/-! ### Placement tables (07 R144) -/

/-- A placement entry (07 Table 7.3). -/
def placeOf (e : List Byte) : PlaceEnt where
  mod := BitVec.ofNat 14 (fieldLE e 0 2)
  null := (fieldLE e 0 2).testBit 14
  altmod := BitVec.ofNat 14 (fieldLE e 2 2)
  noAlt := (fieldLE e 2 2).testBit 14
  cores := BitVec.ofNat 24 (fieldLE e 4 4)
  dq := BitVec.ofNat 20 (fieldLE e 8 4)
  altdq := BitVec.ofNat 20 (fieldLE e 0xC 4)

/-- The field of a placement entry that R144 refuses. -/
def placeBad (e : List Byte) : Option Nat :=
  let x := placeOf e
  if (fieldLE e 0 2).testBit 15 ∨ (x.null = true ∧ x.mod ≠ 0) then some 0
  else if (fieldLE e 2 2).testBit 15 ∨ (x.noAlt = true ∧ x.altmod ≠ 0) ∨ (x.null = true ∧ x.noAlt = false) ∨
      (x.null = false ∧ x.noAlt = false ∧ x.altmod = x.mod) then some 2
  else if 2 ^ 24 ≤ fieldLE e 4 4 ∨ (x.null = false ∧ x.cores = 0) then some 4
  else none

/-- Entries of the placement tables of the module but for one table. -/
def State.placeCount (s : State) (p : PartId) (idx : Nat) : Nat :=
  (allParts.map fun q => ((s.part q).place.map fun e => if q = p ∧ e.1 = idx then 0 else match e.2 with
    | some t => t.ents.length
    | none => 0).sum).sum

/-- The rules of a placement table (07 R144). -/
def State.placeTabBad (s : State) (p : PartId) (d : LoadDesc) (b : List Byte) : Option TableBad :=
  let n := fieldLE b 0 2
  let src := fieldLE b 2 1
  if n = 0 ∨ 256 < n ∨ n ≠ d.count ∨ 65536 < s.placeCount p d.first + n then some (headerIndex, 0)
  else if src = 0 ∨ (s.coresOf p).length < src then some (headerIndex, 2)
  else if 1 < fieldLE b 3 1 then some (headerIndex, 3)
  else firstBadEntry n fun i => placeBad (entryAt b 16 16 i)

def placeTabOf (b : List Byte) : PlaceTab :=
  let n := fieldLE b 0 2
  ⟨n, fieldLE b 2 1, (fieldLE b 3 1).testBit 0, (List.range n).map fun i => placeOf (entryAt b 16 16 i)⟩

/-! ### Gradient rules (08 R175) -/

/-- A gradient rule entry (08 Table 8.4). -/
def ruleEntOf (e : List Byte) : GradRule where
  amx := BitVec.ofNat 10 (fieldLE e 0 2)
  ncand := fieldLE e 2 1
  defv := fieldLE e 3 1
  cand := (List.range 4).map fun i => BitVec.ofNat 8 (fieldLE e (4 + i) 1)
  spread := (List.range 4).map fun i => BitVec.ofNat 8 (fieldLE e (8 + i) 1)
  margin := BitVec.ofNat 8 (fieldLE e 0xC 1)
  inite := BitVec.ofNat 8 (fieldLE e 0xD 1)
  nrec := fieldLE e 0xE 1
  sel := BitVec.ofNat 48 (fieldLE e 0x10 6)
  vt := (List.range 4).map fun i => BitVec.ofNat 48 (fieldLE e (0x18 + 8 * i) 6)
  recs := (List.range 8).map fun i => BitVec.ofNat 32 (fieldLE e (0x38 + 4 * i) 4)
  prev := none

/-- The field of entry `i` that R175 refuses, the entries before it being known. -/
def ruleEntBad (b : List Byte) (i : Nat) : Option Nat :=
  let e := entryAt b 0 88 i
  let x := ruleEntOf e
  let before := (List.range i).map fun j => ruleEntOf (entryAt b 0 88 j)
  let candBad := (List.range x.ncand).find? fun k => !([2, 3, 8, 9].contains (fieldLE e (4 + k) 1))
  let vtBad := (List.range x.ncand).find? fun k => fieldLE e (0x18 + 8 * k) 8 % 32 != 0 || decide (2 ^ 48 ≤ fieldLE e (0x18 + 8 * k) 8)
  let recBad := (List.range x.nrec).find? fun k => decide (2 ^ 21 ≤ fieldLE e (0x38 + 4 * k) 4)
  if 1024 ≤ fieldLE e 0 2 ∨ (before.any fun y => y.amx == x.amx) = true then some 0
  else if x.ncand = 0 ∨ 4 < x.ncand then some 2
  else if x.ncand ≤ x.defv then some 3
  else if candBad.isSome then some (4 + candBad.getD 0)
  else if 15 < x.margin.toNat then some 0xC
  else if x.nrec = 0 ∨ 8 < x.nrec then some 0xE
  else if fieldLE e 0x10 8 % 32 ≠ 0 ∨ 2 ^ 48 ≤ fieldLE e 0x10 8 ∨ (before.any fun y => y.sel == x.sel) = true then some 0x10
  else if vtBad.isSome then some (0x18 + 8 * vtBad.getD 0)
  else if recBad.isSome then some (0x38 + 4 * recBad.getD 0)
  else none

/-! ### Shards, the update configuration and groups (09 R186, R188, R196) -/

/-- A shard entry (09 Table 9.1). -/
def shardOf (e : List Byte) : Shard where
  group := BitVec.ofNat 12 (fieldLE e 0 2)
  ncontrib := fieldLE e 2 2
  nsb := fieldLE e 4 4
  first := BitVec.ofNat 40 (fieldLE e 8 5)
  whi := BitVec.ofNat 48 (fieldLE e 0x10 6)
  wlo := BitVec.ofNat 48 (fieldLE e 0x18 6)
  maddr := BitVec.ofNat 48 (fieldLE e 0x20 6)
  vaddr := BitVec.ofNat 48 (fieldLE e 0x28 6)
  paddr := BitVec.ofNat 48 (fieldLE e 0x30 6)
  collen := fieldLE e 0x38 4
  pk := fieldLE e 0x3C 2
  pn := fieldLE e 0x3E 2

/-- The state tensors of a shard: field offset and address. -/
def Shard.spans (d : Shard) : List (Nat × Nat) :=
  [(0x10, d.whi.toNat), (0x18, d.wlo.toNat), (0x20, d.maddr.toNat), (0x28, d.vaddr.toNat)].filter fun x =>
    x.1 == 0x10 || x.1 == 0x20 || x.2 != 0

/-- The field of a shard whose tensor shares bytes with a tensor of an earlier entry. -/
def Shard.overlap (d : Shard) (before : List Shard) : Option Nat :=
  (d.spans.find? fun x => before.any fun y => y.spans.any fun z =>
    decide (x.2 < z.2 + 2112 * y.nsb ∧ z.2 < x.2 + 2112 * d.nsb)).map (·.1)

/-- The field of entry `i` that R186 refuses. -/
def shardBad (compact : Bool) (b : List Byte) (i : Nat) : Option Nat :=
  let d := shardOf (entryAt b 0 64 i)
  let before := (List.range i).map fun j => shardOf (entryAt b 0 64 j)
  let run := d.pn * d.collen
  if 4096 ≤ fieldLE (entryAt b 0 64 i) 0 2 then some 0
  else if d.ncontrib < 1 ∨ 16384 < d.ncontrib then some 2
  else if d.nsb < 1 ∨ 2 ^ 24 < d.nsb then some 4
  else if d.first.toNat % 1024 ≠ 0 then some 8
  else if d.whi.toNat % 64 ≠ 0 then some 0x10
  else if d.wlo.toNat % 64 ≠ 0 ∨ (d.wlo = 0 ↔ compact = false) then some 0x18
  else if d.maddr.toNat % 64 ≠ 0 then some 0x20
  else if d.vaddr.toNat % 64 ≠ 0 then some 0x28
  else if d.paddr.toNat % 2 ^ 21 ≠ 0 then some 0x30
  else if d.collen = 0 ∨ d.collen % 32 ≠ 0 then some 0x38
  else if d.paddr ≠ 0 ∧ (d.pk % 32 ≠ 0 ∨ d.pk < 32 ∨ 256 < d.pk) then some 0x3C
  else if d.paddr ≠ 0 ∧ (d.pn < 1 ∨ 256 < d.pn) then some 0x3E
  else if d.paddr ≠ 0 ∧ d.collen % d.pk ≠ 0 then some 0x38
  else if d.paddr ≠ 0 ∧ (d.first.toNat % run ≠ 0 ∨ 1024 * d.nsb % run ≠ 0) then some 0x3E
  else d.overlap before

def updCfgOf (b : List Byte) : UpdCfg :=
  ⟨BitVec.ofNat 16 (fieldLE b 0 2), BitVec.ofNat 9 (fieldLE b 2 2), BitVec.ofNat 20 (fieldLE b 4 4), BitVec.ofNat 20 (fieldLE b 8 4)⟩

/-- `n` words of a table as a map by place. -/
def wordsAt (b : List Byte) (o n : Nat) : Smap Word :=
  (List.range n).foldl (fun m k => m.set 0#32 k (BitVec.ofNat 32 (fieldLE b (o + 4 * k) 4))) []

/-- A group entry (09 Table 9.5), PMASK cleared. -/
def updGroupOf (e : List Byte) : UpdGroup :=
  ⟨wordsAt e 0 12, BitVec.ofNat 32 (fieldLE e 0x30 4), wordsAt e 0x34 13, 0, BitVec.ofNat 32 (fieldLE e 0x6C 4)⟩

/-! ### Collective groups and the exchange table (13 R297, R298) -/

/-- The member list of a group entry. -/
def State.memberList (s : State) (p : PartId) (e : List Byte) : List (BitVec 14) :=
  (List.range (fieldLE e 0 2)).map fun i => BitVec.ofNat 14 (s.peekHbm p (fieldLE e 8 6 + 2 * i) 2)

/-- The member list can be read. -/
def State.listReadable (s : State) (p : PartId) (e : List Byte) : Bool :=
  ((s.part p).checkRange (fieldLE e 8 6) (2 * fieldLE e 0 2) .r).isNone

/-- The field of a group entry that R297, Table 14.12 or 01 R15 refuses: the entry of another partition stays. -/
def State.cgroupBad (s : State) (p : PartId) (first i : Nat) (e : List Byte) : Option Nat :=
  let n := fieldLE e 0 2
  let ms := s.memberList p e
  let foreign := match s.eng.cgroups.get none (first + i) with
    | some g => g.nmem != 0 && g.part != p
    | none => false
  if n < 1 ∨ 16384 < n then some 0
  else if n ≤ fieldLE e 2 2 then some 2
  else if fieldLE e 4 1 ≠ p.val ∨ foreign = true then some 4
  else if 3 < fieldLE e 5 1 then some 5
  else if 512 ≤ fieldLE e 6 2 then some 6
  else if 2 ^ 48 ≤ fieldLE e 8 8 ∨ s.listReadable p e = false ∨ ms[fieldLE e 2 2]? ≠ some s.moduleId ∨ ms.dedup.length ≠ n then some 8
  else none

/-- A loaded group entry; loading clears LOST. -/
def State.cgroupOfEnt (s : State) (p : PartId) (e : List Byte) : CGroup :=
  ⟨fieldLE e 0 2, fieldLE e 2 2, p, (fieldLE e 5 1).testBit 0, false, BitVec.ofNat 9 (fieldLE e 6 2), BitVec.ofNat 48 (fieldLE e 8 6),
   s.memberList p e⟩

/-- Modules that no group entry holds as lost are no longer lost (17 R396). -/
def State.reviveMods (s : State) : State :=
  s.modEng fun e => { e with lostMods := e.lostMods.filter fun m => e.cgroups.any fun g => match g.2 with
    | some d => d.lost && d.members.contains m
    | none => false }

def exchOfEnt (e : List Byte) : ExchEnt :=
  ⟨BitVec.ofNat 14 (fieldLE e 0 2), BitVec.ofNat 16 (fieldLE e 2 2), fieldLE e 4 4, fieldLE e 8 4⟩

/-- The field of an exchange entry outside 13 Table 13.4. -/
def exchBad (e : List Byte) : Option Nat :=
  if 2 ^ 14 ≤ fieldLE e 0 2 then some 0 else if fieldLE e 8 4 < 1 ∨ 2 ^ 24 < fieldLE e 8 4 then some 8 else none

/-! ### PROGRAM_LOAD (R341) -/

/-- The partition's class is compact. -/
def State.isCompact (s : State) (p : PartId) : Bool := match (s.part p).cfg with
  | some c => c.compact
  | none => false

/-- Where a staged table breaks its rules. -/
def State.tableBad (s : State) (p : PartId) (d : LoadDesc) (b : List Byte) : Option TableBad :=
  match d.kind with
  | 0 => s.placeTabBad p d b
  | 1 => firstBadEntry d.count (ruleEntBad b)
  | 2 => firstBadEntry d.count (shardBad (s.isCompact p) b)
  | 3 => if 512 ≤ fieldLE b 2 2 then some (0, 2) else none
  | 4 => firstBadEntry d.count fun i => if flagsOk (s.isCompact p) (BitVec.ofNat 32 (fieldLE (entryAt b 0 128 i) 0x30 4)) then none else some 0x30
  | 5 => firstBadEntry d.count fun i => s.cgroupBad p d.first i (entryAt b 0 16 i)
  | _ => firstBadEntry d.count fun i => exchBad (entryAt b 0 16 i)

/-- Enter `n` entries of a map from `first` on. -/
def enterAll {α : Type} [DecidableEq α] (dflt : α) (m : Smap α) (first : Nat) (f : Nat → α) : Nat → Smap α
  | 0 => m
  | n + 1 => (enterAll dflt m first f n).set dflt (first + n) (f n)

/-- Replace a table by its staged contents (Table 14.12). -/
def State.loadTable (s : State) (p : PartId) (d : LoadDesc) (b : List Byte) : State :=
  match d.kind with
  | 0 => s.modPart p fun q => { q with place := q.place.set none d.first (some (placeTabOf b)) }
  | 1 => s.modPart p fun q => { q with rules := (List.range d.count).map fun i => ruleEntOf (entryAt b 0 88 i) }
  | 2 => s.modUe p fun u => { u with
      shards := (List.range d.count).map fun i => shardOf (entryAt b 0 64 i), recStep := [], staged := [] }
  | 3 => s.modUe p fun u => { u with cfg := some (updCfgOf b) }
  | 4 => s.modUe p fun u => { u with groups := enterAll UpdGroup.reset u.groups d.first (fun i => updGroupOf (entryAt b 0 128 i)) d.count }
  | 5 => (s.modEng fun e => { e with
      cgroups := enterAll none e.cgroups d.first (fun i => some (s.cgroupOfEnt p (entryAt b 0 16 i))) d.count }).reviveMods
  | _ => s.modPart p fun q => { q with exch := enterAll none q.exch d.first (fun i => some (exchOfEnt (entryAt b 0 16 i))) d.count }

/-- Check and load the tables in order; the first that breaks its rules ends the load. -/
def State.loadTables (s : State) (p : PartId) : List (LoadDesc × List Byte) → Except Nat State
  | [] => .ok s
  | e :: es => match s.tableBad p e.1 e.2 with
    | some b => .error (e.1.info b)
    | none => State.loadTables (s.loadTable p e.1 e.2) p es

/-- Read byte ranges of a partition's space in turn, stopping at an uncorrectable codeword. -/
def State.readMany (s : State) (p : PartId) : List (Nat × Nat) → Option (List (List Byte)) × State
  | [] => (some [], s)
  | r :: rs => match s.readHbm p r.1 r.2 with
    | (none, s1) => (none, s1)
    | (some b, s1) => match State.readMany s1 p rs with
      | (none, s2) => (none, s2)
      | (some bs, s2) => (some (b :: bs), s2)

/-- The member lists that a staged group table names and that can be read. -/
def State.listReads (s : State) (p : PartId) (d : LoadDesc) (b : List Byte) : List (Nat × Nat) :=
  if d.kind = 5 then (List.range d.count).filterMap fun i =>
    let e := entryAt b 0 16 i
    if s.listReadable p e then some (fieldLE e 8 6, 2 * fieldLE e 0 2) else none
  else []

/-- No stream of the partition runs. -/
def State.noneRunning (s : State) (p : PartId) : Bool := (s.coresOf p).all fun c => (s.core c).ctl.stream != .running

/-- The partition faults on an uncorrectable codeword and the command stops (Table 14.9). -/
def State.stopFaulted (s : State) (m : MbId) (p : PartId) : State := (s.partFault p 5 none).respond m stFaulted 0 []

/-- Load read tables, or refuse them all. -/
def State.finishLoad (s : State) (m : MbId) (p : PartId) (l : List (LoadDesc × List Byte)) : State :=
  match s.loadTables p l with
  | .ok t => t.respond m stOk 0 []
  | .error i => s.respond m stRefusedTable i []

/-- PROGRAM_LOAD (R341). -/
def execProgramLoad (mb : MbId) (s : State) : Host.Outcome State Fault Refusal :=
  s.mbRun mb 0x0201 (fun _ => true) fun r =>
    let n := r.u 0 2
    let p := r.part
    let ds := (List.range n).map (loadDescOf r.payload)
    let badOf := fun (d : LoadDesc) => match descBad r.payload d.index with
      | some o => some o
      | none => d.bad
    let bad := ds.find? fun d => (badOf d).isSome
    let off := match bad with
      | some d => 0x10 + 16 * d.index + (badOf d).getD 0
      | none => 0
    s.guarded mb
      [(decide (n < 1 ∨ 253 < n), stBadField, 0), r.zero 2 14, (bad.isSome, stBadField, off), (!s.partExists p, stNotFound, 0),
       (s.longRuns mb p || !s.noneRunning p || (s.part p).ue.steps.any UeStep.isOpen, stState, p.val),
       (ds.any fun d => ((s.part p).checkRange d.va d.bytes .r).isSome, stAccess, 0)]
      (match s.readMany p (ds.map fun d => (d.va, d.bytes)) with
        | (none, s1) => s1.stopFaulted mb p
        | (some bs, s1) =>
          let l := ds.zip bs
          match s1.readMany p (l.flatMap fun e => s1.listReads p e.1 e.2) with
          | (none, s2) => s2.stopFaulted mb p
          | (some _, s2) => s2.finishLoad mb p l)

/-! ### STREAM_START and STREAM_CANCEL (R342, R343) -/

/-- Entry `i` of STREAM_START: core, completion queue, address. -/
def startEnt (b : List Byte) (i : Nat) : Nat × Qid × BitVec 48 :=
  let e := entryAt b 4 16 i
  (fieldLE e 0 1, BitVec.ofNat 20 (fieldLE e 4 4), BitVec.ofNat 48 (fieldLE e 8 6))

/-- The core that an entry names is the partition's and may start (R342). -/
def State.mayStart (s : State) (p : PartId) (c : CoreId) : Bool :=
  (s.core c).part == some p && ((s.core c).ctl.stream == .idle || (s.core c).ctl.stream == .halted)

/-- The offset of a field of entry `i` that R342 or the line size refuses; a core named twice is refused. -/
def State.startBad (s : State) (p : PartId) (b : List Byte) (i : Nat) : Option Nat :=
  let e := startEnt b i
  let cq := match s.queue e.2.1 with
    | some q => q.isCq && q.part == p
    | none => false
  if 24 ≤ e.1 ∨ ((List.range i).any fun j => (startEnt b j).1 == e.1) = true then some 0
  else if fieldLE (entryAt b 4 16 i) 1 3 ≠ 0 then some 1
  else if 2 ^ 20 ≤ fieldLE (entryAt b 4 16 i) 4 4 ∨ cq = false then some 4
  else if e.2.2.toNat % 32 ≠ 0 ∨ fieldLE (entryAt b 4 16 i) 14 2 ≠ 0 then some 8
  else none

/-- Start the stream of a core (05 R94, R95). -/
def State.startStream (s : State) (c : CoreId) (cq : Qid) (va : BitVec 48) : State :=
  s.modCtl c fun t => { t with stream := .running, pc := va, cq := cq, ending := false }

def State.startStreams (s : State) (b : List Byte) : List Nat → State
  | [] => s
  | i :: is =>
    let e := startEnt b i
    State.startStreams (s.startStream (Fin.ofNat 24 e.1) e.2.1 e.2.2) b is

/-- STREAM_START (R342). -/
def execStreamStart (mb : MbId) (s : State) : Host.Outcome State Fault Refusal :=
  s.mbRun mb 0x0202 (fun _ => true) fun r =>
    let n := r.u 0 1
    let p := r.part
    let bad := badAt n fun i => (s.startBad p r.payload i).isSome
    let off := match bad with
      | some i => 4 + 16 * i + (s.startBad p r.payload i).getD 0
      | none => 0
    let stuck := (List.range n).find? fun i => !s.mayStart p (Fin.ofNat 24 (startEnt r.payload i).1)
    let no := match stuck with
      | some i => (startEnt r.payload i).1
      | none => 0
    s.guarded mb
      [(decide (n < 1), stBadField, 0), r.zero 1 3, (!s.partExists p, stNotFound, 0), (bad.isSome, stBadField, off),
       (stuck.isSome, stState, no), (s.longRuns mb p, stState, p.val)]
      ((s.startStreams r.payload (List.range n)).respond mb stOk 0 [])

/-- A running core halts and its unstarted commands are cancelled. -/
def State.cancelStream (s : State) (c : CoreId) : State :=
  (s.cancelUnstarted c).modCtl c fun t => { t with stream := .halted, ending := false }

def State.cancelStreams (s : State) : List CoreId → State
  | [] => s
  | c :: cs => State.cancelStreams (s.cancelStream c) cs

/-- Cancel the items of PF queues that the MARKs of cores fed and that have not passed (10 R238; an item is fed by the cores whose
descriptors it has taken, log 70). -/
def State.cancelFed (s : State) (p : PartId) (l : List CoreId) : State :=
  s.overQueues (fun q t => match t.queue q with
    | some d => if d.isPf then t.cancelItems q (fun i => i.fed.any fun c => l.contains c) else t
    | none => t) (s.qidsOf p)

/-- Commands of a core that have not started, a held one included. -/
def Core.unstartedCount (k : Core) : Nat := k.unstarted.length + (if k.ctl.hold.isSome then 1 else 0)

/-- STREAM_CANCEL (R343): the response follows the retirement of the last command in flight. -/
def execStreamCancel (mb : MbId) (s : State) : Host.Outcome State Fault Refusal :=
  s.mbRun mb 0x0203 (fun _ => true) fun r =>
    let l := (r.mask 0).filter fun c => (s.core c).part == some r.part && (s.core c).ctl.stream == .running
    s.guarded mb [(decide (2 ^ 24 ≤ r.u 0 4), stBadField, 0), (!s.partExists r.part, stNotFound, 0), (l.isEmpty, stAlreadyDone, 0)]
      (((s.cancelStreams l).cancelFed r.part l).awaitWith mb (bytesLE 4 (l.map fun c => (s.core c).unstartedCount).sum))

/-! ### PL_REQUEST (R339) -/

/-- The level that PL_REQUEST grants: the highest-numbered of LEVEL, CAP and MODLEVEL. -/
def State.grantLevel (s : State) (p : PartId) (level : Nat) : Nat := max level (max (s.part p).cap.toNat s.reg.modLevel.toNat)

def State.grantCores (s : State) (g : Nat) : List CoreId → State
  | [] => s
  | c :: cs => State.grantCores (s.modCore c fun k => { k with granted := BitVec.ofNat 3 g }) g cs

/-- PL_REQUEST (R339, 16 R370): the response follows the level change. -/
def execPlRequest (mb : MbId) (s : State) : Host.Outcome State Fault Refusal :=
  s.mbRun mb 0x0204 (fun _ => true) fun r =>
    let l := r.mask 0
    let g := s.grantLevel r.part (r.u 4 1)
    s.guarded mb
      [(decide (2 ^ 24 ≤ r.u 0 4), stBadField, 0), (decide (5 < r.u 4 1), stBadField, 4), (!s.partExists r.part, stNotFound, 0),
       (l.any fun c => (s.core c).part != some r.part, stAccess, 0)]
      (((s.grantCores g l).retarget).awaitWith mb (bytesLE 1 g))

end Sys2Proof.Machine
end

