-- ==== Sys2Proof/Machine/MbRead.lean ====
section
/-! DEFINITION. The mailbox commands that read the module and its queues (14 R343 to R348, 10 R239, 16 R376 to R385,
15 R368), checkpoints (13 R319) and undefined commands (R335). -/

namespace Sys2Proof.Machine

/-! ### Queues (R344, 10 R239) -/

/-- Checks of a command that names a queue of its partition at offset 0. -/
def State.queueNamed (s : State) (r : MbReq) : List (Bool × BitVec 16 × Nat) :=
  [(decide (2 ^ 20 ≤ r.u 0 4), stBadField, 0), (decide (0xFFFF0 ≤ r.u 0 4), stAccess, 0), (!s.partExists r.part, stNotFound, 0)] ++
    s.ownChecks r 0

/-- FLAGS of a descriptor. -/
def Queue.flags (q : Queue) : Nat :=
  q.en.toNat + 2 * q.rt.toNat + 4 * q.late.toNat + 8 * q.memCs.toNat + 16 * q.posted.toNat + 32 * q.pin.toNat

/-- The 64 bytes of a descriptor (10 Table 10.2). -/
def Queue.descriptor (q : Queue) : List Byte :=
  bytesLE 1 q.cls.toNat ++ bytesLE 1 q.part.val ++ bytesLE 2 q.flags ++ bytesLE 2 q.depth ++ bytesLE 1 q.nbuf ++ bytesLE 1 q.rlag ++
    bytesLE 8 q.base.toNat ++ bytesLE 4 q.slotb ++ bytesLE 2 q.maxout ++ bytesLE 2 q.qgrp.toNat ++ bytesLE 4 q.cmask.toNat ++
    bytesLE 4 (q.ncq.toNat + (if q.ncqEn then 2 ^ 31 else 0)) ++ bytesLE 2 q.pseq ++ bytesLE 2 q.cseq ++ bytesLE 2 q.dseq ++
    bytesLE 1 (q.slotOf q.ppos) ++ bytesLE 1 (q.slotOf q.dpos) ++ bytesLE 8 q.lastMissDl.toNat ++ bytesLE 4 q.dlMiss ++
    bytesLE 4 q.qDrop ++ bytesLE 8 q.lastTs.toNat

/-- QUEUE_READ (R344): the counters are returned and cleared in one operation. -/
def execQueueRead (mb : MbId) (s : State) : Host.Outcome State Fault Refusal :=
  s.mbRun mb 0x0205 (fun _ => true) fun r =>
    match s.ownQueue r 0 with
    | none => s.guarded mb (s.queueNamed r) s
    | some q => s.guarded mb (s.queueNamed r) ((s.setQueue (r.qid 0) { q with dlMiss := 0, qDrop := 0 }).respond mb stOk 0 q.descriptor)

/-- QUEUE_DOORBELL (R344): CQ and JQ only; the new DSEQ lies from DSEQ to PSEQ. -/
def execQueueDoorbell (mb : MbId) (s : State) : Host.Outcome State Fault Refusal :=
  s.mbRun mb 0x0206 (fun _ => true) fun r =>
    match s.ownQueue r 0 with
    | none => s.guarded mb (s.queueNamed r) s
    | some q =>
      let k := ahead16 (r.u 4 2) q.dseq
      s.guarded mb
        (s.queueNamed r ++
          [(!(q.isCq || q.isJq), stBadField, 0), (decide (32768 ≤ k ∨ q.ppos < q.dpos + k), stBadField, 4)])
        ((s.setQueue (r.qid 0) ({ q with dpos := q.dpos + k }).tidy).respond mb stOk 0 [])

/-- The items that an abort from sequence number `n` cancels (10 R239). -/
def Queue.abortHits (q : Queue) (n : Nat) : List Item :=
  q.items.filter fun i => !i.passed && !i.cancelled && atOrAfter16 (i.n % 65536) n

/-- Cancel items from a sequence number on; a RECV that owns a posted item ends with ST_CANCELLED. -/
def State.abortItems (s : State) (id : Qid) (q : Queue) (n : Nat) : State :=
  let own := (q.abortHits n).filterMap (·.recv)
  (s.cancelItems id fun i => atOrAfter16 (i.n % 65536) n).endTransfers
    (fun c x => own.contains (c, x.token)) (Report.bad stCancelled 0)

/-- The sequence number of the first item of a list. -/
def firstSeq (l : List Item) : Nat := match l with
  | i :: _ => i.n % 65536
  | [] => 0

/-- QUEUE_ABORT (10 R239): decided where the abort reaches the completion sequence point. -/
def execQueueAbort (mb : MbId) (s : State) : Host.Outcome State Fault Refusal :=
  s.mbRun mb 0x0207 (fun _ => true) fun r =>
    match s.ownQueue r 0 with
    | none => s.guarded mb (s.queueNamed r) s
    | some q =>
      let hit := q.abortHits (r.u 4 2)
      s.guarded mb (s.queueNamed r ++ [(hit.isEmpty, stAlreadyDone, 0)])
        ((s.abortItems (r.qid 0) q (r.u 4 2)).respond mb stOk 0 (bytesLE 2 (firstSeq hit) ++ bytesLE 2 hit.length))

/-! ### COUNTER_READ (R345) -/

/-- Values of a map of counters from place `i` on, `n` of them. -/
def cntRange (m : Smap Nat) (i n : Nat) : List Nat := (List.range n).map fun k => m.get 0 (i + k)

/-- Clear counters. -/
def cntClear (m : Smap Nat) (i n : Nat) : Smap Nat := m.filter fun e => !decide (i ≤ e.1 ∧ e.1 < i + n)

def bytes8 (l : List Nat) : List Byte := l.flatMap fun v => bytesLE 8 v

/-- Clear the counters of cores. -/
def State.clearCoreCnt (s : State) : List CoreId → State
  | [] => s
  | c :: cs => State.clearCoreCnt (s.modCore c fun k => { k with cnt := cntClear k.cnt 0 11 }) cs

/-- The sum of one core counter, saturating at its width. -/
def State.sumCnt (s : State) (l : List CoreId) (k : CoreCnt) : Nat :=
  satAdd k.width 0 ((l.map fun c => (s.core c).cnt.get 0 k.idx).sum)

/-- The counters of group 0 in order. -/
def coreCnts : List CoreCnt :=
  [.stallHbm, .stallPeer, .stallTile, .stallStash, .stallCredit, .stallWload, .stallRouter, .stallThermal, .depWait, .csConflict, .csCe]

/-- First place and number of the counters of groups 2 to 5 among a partition's. -/
def partGroup (g : Nat) : Nat × Nat := match g with
  | 2 => (0, 9)
  | 3 => (9, 5)
  | 4 => (14, 6)
  | _ => (20, 8)

/-- Residency counters hold ns; the whole µs are read and cleared (log 13). -/
def subValues (m : Smap Nat) : List Nat := (cntRange m 0 16) ++ ((cntRange m 16 3).map fun v => v / 1000)
def subClear (m : Smap Nat) : Smap Nat :=
  (m.filter fun e => decide (16 ≤ e.1 ∧ e.2 % 1000 ≠ 0)).map fun e => (e.1, e.2 % 1000)

/-- Cores whose counters group 0 returns. -/
def State.cntCores (s : State) (r : MbReq) : List CoreId :=
  if r.u 1 1 = 1 then s.coresOf r.part else [Fin.ofNat 24 (r.u 2 2)]

/-- The values of a group, and the state with them cleared. What the FEC of a sub-port and the on-die ECC of a stack have counted
since the last read is a free value (log 55, 64). -/
def State.readGroup (s : State) (r : MbReq) : List Nat × State :=
  let p := r.part
  let ix := r.u 2 2
  match r.u 0 1 with
  | 0 => (coreCnts.map (s.sumCnt (s.cntCores r)), s.clearCoreCnt (s.cntCores r))
  | 1 => (cntRange (s.part p).statusCnt 0 statusOrder.length, s.modPart p fun q => { q with statusCnt := [] })
  | 6 =>
    let q : PortId := Fin.ofNat 12 (ix / 4)
    let i : SubId := Fin.ofNat 4 ix
    let t := ((s.countSub q i .fecCorr s.freeVal).countSub q i .fecUncorr s.freeNext.freeVal).freeNext.freeNext
    (subValues ((t.port q).sub i).cnt, t.modSub q i fun b => { b with cnt := subClear b.cnt })
  | 7 =>
    let h : StackId := Fin.ofNat 8 ix
    let t := (s.countStack h .ode s.freeVal).freeNext
    (cntRange (t.stack h).cnt 0 4 ++ [(t.stack h).scrubPass.toNat], t.modStack h fun k => { k with cnt := cntClear k.cnt 0 4 })
  | 8 =>
    let m : MbId := Fin.ofNat 16 ix
    ([(s.mb m).ignored, (s.mb m).err, s.reg.mpExcess],
      (s.modMb m fun b => { b with ignored := 0, err := 0 }).modReg fun g => { g with mpExcess := 0 })
  | g =>
    let w := partGroup g
    (cntRange (s.part p).cnt w.1 w.2, s.modPart p fun q => { q with cnt := cntClear q.cnt w.1 w.2 })

/-- INDEX lies outside its group. -/
def indexBad (g ix : Nat) : Bool :=
  (g == 0 && decide (24 ≤ ix)) || (g == 6 && decide (48 ≤ ix)) || (g == 7 && decide (8 ≤ ix)) || (g == 8 && decide (16 ≤ ix))

/-- COUNTER_READ (R345). -/
def execCounterRead (mb : MbId) (s : State) : Host.Outcome State Fault Refusal :=
  s.mbRun mb 0x0208 (fun _ => true) fun r =>
    let g := r.u 0 1
    let one := g == 0 && r.u 1 1 == 0
    s.guarded mb
      [(decide (8 < g), stBadField, 0), (decide (1 < r.u 1 1), stBadField, 1),
       (indexBad g (r.u 2 2) && (g != 0 || r.u 1 1 == 0), stBadField, 2), (decide (g ≤ 5) && !s.partExists r.part, stNotFound, 0),
       (one && (s.core (Fin.ofNat 24 (r.u 2 2))).part != some r.part, stAccess, 0)]
      (let x := s.readGroup r
       x.2.respond mb stOk 0 (bytes8 x.1))

/-! ### STEP_LOG_READ and PART_STATUS (09 R217, Table 14.8) -/

/-- The 32 bytes of a step record (09 Table 9.12). -/
def UeStep.bytes (t : UeStep) : List Byte :=
  bytesLE 4 t.step.toNat ++ bytesLE 1 t.status.toNat ++ bytesLE 1 (t.norm2Valid.toNat + 2 * t.noticeReceived.toNat) ++ bytesLE 2 0 ++
    bytesLE 4 t.updated ++ bytesLE 4 t.skipped ++ bytesLE 4 t.dropped ++ bytesLE 2 t.nfShard.toNat ++ bytesLE 2 t.nfBlock.toNat ++
    bytesLE 4 t.nfSb.toNat ++ bytesLE 4 0

/-- STEP_LOG_READ (09 R217): 16 records, oldest first; places not used yet are zero (log 2). -/
def execStepLogRead (mb : MbId) (s : State) : Host.Outcome State Fault Refusal :=
  s.mbRun mb 0x0209 (fun _ => true) fun r =>
    s.guarded mb [(!s.partExists r.part, stNotFound, 0)]
      (s.respond mb stOk 0 (padTo 512 ((s.part r.part).ue.steps.flatMap UeStep.bytes)))

/-- The number of a stream state (05 Table 5.3). -/
def StreamState.code (t : StreamState) : Nat := t.ctorIdx

/-- The earliest step still open. -/
def State.openStep (s : State) (p : PartId) : Option (BitVec 32) := ((s.part p).ue.steps.find? UeStep.isOpen).map (·.step)

/-- PART_STATUS (Table 14.8). Without an open step OPENSTEP is a free value (log 1). -/
def execPartStatus (mb : MbId) (s : State) : Host.Outcome State Fault Refusal :=
  s.mbRun mb 0x020D (fun _ => true) fun r =>
    let p := r.part
    let fault := match (s.part p).fault with
      | some f => f.2.toNat
      | none => 0
    let step := match s.openStep p with
      | some t => t.toNat
      | none => s.freeVal
    let states := allCores.flatMap fun c => bytesLE 1 (if (s.core c).part = some p then (s.core c).ctl.stream.code else 0xFF)
    s.guarded mb [(!s.partExists p, stNotFound, 0)]
      (s.freeNext.respond mb stOk 0 (bytesLE 1 (s.isRt p).toNat ++ bytesLE 1 0 ++ bytesLE 2 fault ++ bytesLE 4 step ++ states))

/-! ### AUDIT_STATE (R346, 09 R211) -/

/-- A block's class by its stamps in the write order of R191. -/
inductive BlockClass where
  | consistent (stamp : Nat) | torn | corrupt
  deriving DecidableEq, Repr

/-- The class of a block (09 Table 9.10). -/
def classOf : List Nat → BlockClass
  | [] => .corrupt
  | t :: ts =>
    if ts.all (· == t) then .consistent t
    else
      let rest := (t :: ts).dropWhile (· == t)
      if rest.all fun x => (x + 1) % 65536 == t then .torn else .corrupt

/-- The state tensors of a shard in the write order V, M, W_LO, W_HI (09 R191), with their bits of TMASK. -/
def Shard.writeOrder (d : Shard) (compact : Bool) : List (Nat × Nat) :=
  (if compact ∨ d.vaddr = 0 then [] else [(3, d.vaddr.toNat)]) ++ [(2, d.maddr.toNat)] ++
    (if compact then [] else [(1, d.wlo.toNat)]) ++ [(0, d.whi.toNat)]

/-- The super-blocks of a list of shards: shard number, super-block number, tensors with bit and address. -/
def auditSbs (compact : Bool) (first : Nat) (ds : List Shard) : List (Nat × Nat × List (Nat × Nat)) :=
  (ds.zipIdx).flatMap fun d => (List.range d.1.nsb).map fun k =>
    (first + d.2, k, (d.1.writeOrder compact).map fun t => (t.1, t.2 + 2112 * k))

/-- What an audit has found. -/
structure Audit where
  consistent : Nat
  torn : Nat
  corrupt : Nat
  slate : Option Nat
  stamps : List Nat
  locs : List (Nat × Nat × Nat)
  deriving DecidableEq, Repr

/-- Count one block. -/
def Audit.add (a : Audit) (shard sb b : Nat) (c : BlockClass) : Audit :=
  match c with
  | .consistent t => { a with
      consistent := a.consistent + 1
      slate := match a.slate with
        | none => some t
        | some u => some (if atOrAfter16 t u then t else u)
      stamps := if a.stamps.contains t then a.stamps else a.stamps ++ [t] }
  | .torn => { a with torn := a.torn + 1, locs := if a.locs.length < 256 then a.locs ++ [(shard, b, sb)] else a.locs }
  | .corrupt => { a with corrupt := a.corrupt + 1, locs := if a.locs.length < 256 then a.locs ++ [(shard, b, sb)] else a.locs }

/-- Classify the blocks of one super-block, whose tensors were read in write order. -/
def Audit.superBlock (a : Audit) (shard sb : Nat) (tensors : List (List Byte)) : Audit :=
  (List.range 32).foldl (fun a b => a.add shard sb b (classOf (tensors.map fun t => fieldLE t (2 * b) 2))) a

/-- Classify the super-blocks of a list against the bytes read for their tensors, in order. -/
def auditAll (a : Audit) : List (Nat × Nat × List (Nat × Nat)) → List (List Byte) → Audit
  | [], _ => a
  | e :: es, bs => auditAll (a.superBlock e.1 e.2.1 (bs.take e.2.2.length)) es (bs.drop e.2.2.length)

/-- The bytes that TMASK names, in tensor order W_HI, W_LO, M, V. -/
def digestBytes (mask : Nat) : List (Nat × Nat × List (Nat × Nat)) → List (List Byte) → List Byte
  | [], _ => []
  | e :: es, bs =>
    let mine := (e.2.2.zip (bs.take e.2.2.length)).reverse.filter fun x => mask.testBit x.1.1
    mine.flatMap (·.2) ++ digestBytes mask es (bs.drop e.2.2.length)

/-- The payload of Table 14.15. -/
def Audit.bytes (a : Audit) (sdig vdig : List Byte) : List Byte :=
  bytesLE 8 a.consistent ++ bytesLE 8 a.torn ++ bytesLE 8 a.corrupt ++ bytesLE 2 (a.slate.getD 0) ++
    bytesLE 2 (min a.stamps.length 65535) ++ bytesLE 2 a.locs.length ++ bytesLE 2 0 ++ padTo 48 sdig ++ padTo 48 vdig ++
    a.locs.flatMap fun l => bytesLE 2 l.1 ++ bytesLE 2 l.2.1 ++ bytesLE 4 l.2.2

def Audit.none : Audit := ⟨0, 0, 0, Option.none, [], []⟩

/-- AUDIT_STATE (R346). -/
def execAuditState (mb : MbId) (s : State) : Host.Outcome State Fault Refusal :=
  s.mbRun mb 0x020A (fun _ => true) fun r =>
    let p := r.part
    let mode := r.u 0 1
    let fs := r.u 2 2
    let ns := r.u 4 2
    let va := r.u 8 6
    let vlen := if mode.testBit 1 then r.u 0x10 8 else 0
    let sbs := auditSbs (s.isCompact p) fs (((s.part p).ue.shards.drop fs).take ns)
    let reads := sbs.flatMap fun e => e.2.2.map fun t => (t.2, 2112)
    s.guarded mb
      [(decide (3 < mode), stBadField, 0), (decide (15 < r.u 1 1), stBadField, 1), (!s.partExists p, stNotFound, 0),
       r.zero 6 2, r.wide 8, (ns != 0 && decide ((s.part p).ue.shards.length ≤ fs), stBadField, 2),
       (ns != 0 && decide ((s.part p).ue.shards.length < fs + ns), stBadField, 4), (va % 32 != 0, stBadField, 8),
       (s.longRuns mb p || !s.noneRunning p, stState, p.val),
       ((reads ++ [(va, vlen)]).any fun x => ((s.part p).checkRange x.1 x.2 .r).isSome, stAccess, 0)]
      (match s.readMany p (reads ++ [(va, vlen)]) with
        | (none, s1) => s1.stopFaulted mb p
        | (some bs, s1) =>
          let a := if mode.testBit 0 then auditAll Audit.none sbs bs else Audit.none
          let sdig := if mode.testBit 1 then sha384 (digestBytes (r.u 1 1) sbs bs) else []
          let vdig := if vlen = 0 then [] else sha384 (bs.getLastD [])
          s1.respond mb stOk 0 (a.bytes sdig vdig))

/-! ### CHECKPOINT and RESTORE (R347, 13 R319; the image layout is log 37) -/

/-- The tensors of every owned super-block, as address and length, in shard, super-block and tensor order. -/
def State.stateRuns (s : State) (p : PartId) : List (Nat × Nat) :=
  (auditSbs (s.isCompact p) 0 (s.part p).ue.shards).flatMap fun e => e.2.2.reverse.map fun t => (t.2, 2112)

/-- JOBID of a partition. -/
def State.jobId (s : State) (p : PartId) : BitVec 32 := match (s.part p).cfg with
  | some c => c.jobid
  | none => 0

/-- The image header: step, JOBID, module ID (13 R319, log 37). -/
def State.imageHeader (s : State) (p : PartId) (step : Nat) : List Byte :=
  padTo 32 (bytesLE 4 step ++ bytesLE 4 (s.jobId p).toNat ++ bytesLE 2 s.moduleId.toNat ++ bytesLE 2 1)

/-- A header is of this job and module. -/
def State.headerOurs (s : State) (p : PartId) (h : List Byte) : Bool := h.take 32 == s.imageHeader p (fieldLE h 0 4)

/-- A step has closed on the module: it has a closed record, or a later record was made for every super-block. -/
def UpdEng.hasClosed (u : UpdEng) (t : BitVec 32) : Bool := match u.stepOf t with
  | some r => !r.isOpen
  | none => match u.allRec with
    | some b => !before32 b t
    | none => false

/-- A step closed ABORTED. -/
def UpdEng.wasAborted (u : UpdEng) (t : BitVec 32) : Bool := match u.stepOf t with
  | some r => r.status == 4
  | none => false

/-- The image that does not hold the newer whole step, by the headers of the two. -/
def State.olderImage (s : State) (p : PartId) (h0 h1 : List Byte) : Nat :=
  if !s.headerOurs p h0 then 0
  else if !s.headerOurs p h1 then 1
  else if before32 (BitVec.ofNat 32 (fieldLE h0 0 4)) (BitVec.ofNat 32 (fieldLE h1 0 4)) then 0
  else 1

/-- Read the headers of the two images of a region on this module. -/
def State.withHeaders (s : State) (m : MbId) (p : PartId) (bva len : Nat) (go : State → List Byte → List Byte → State) : State :=
  match s.readMany p [(bva, 32), (bva + len, 32)] with
  | (none, s1) => s1.stopFaulted m p
  | (some hs, s1) => go s1 (hs.headD []) (hs.getD 1 [])

/-- The E tensor's bytes that the partition has mapped (13 R319; its place is open, log 37). -/
def State.residuals (s : State) (p : PartId) : List (Nat × Nat) :=
  (Config.residualRuns p.val).filter fun x => match (s.part p).checkRange x.1 x.2 .r with
    | some e => e.1 != stBadAddress
    | none => true

/-- What a checkpoint copies: the state super-blocks of every owned shard, then the E tensor (13 R319). -/
def State.copyRuns (s : State) (p : PartId) : List (Nat × Nat) := s.stateRuns p ++ s.residuals p

/-- The bytes of an image: its header and what it copies. -/
def State.imageBytes (s : State) (p : PartId) : Nat := 32 + ((s.copyRuns p).map (·.2)).sum

/-- The response payload of a CHECKPOINT. -/
def imageReply (img bytes : Nat) : List Byte := bytesLE 1 img ++ List.replicate 7 0 ++ bytesLE 8 bytes

/-- Write an image on this module; the header is written last. -/
def State.writeImage (s : State) (m : MbId) (p : PartId) (at_ step img : Nat) (data : List Byte) : State :=
  match s.writeHbm p (at_ + 32) data with
  | (false, s2) => s2.stopFaulted m p
  | (true, s2) => match s2.writeHbm p at_ (s2.imageHeader p step) with
    | (false, s3) => s3.stopFaulted m p
    | (true, s3) => s3.respond m stOk 0 (imageReply img (32 + data.length))

/-- Send an image to the buddy: the data first, the header when all of it is acknowledged (13 R319, log 23). -/
def State.sendImage (s : State) (m : MbId) (p : PartId) (dst : BitVec 14) (at_ step img : Nat) (data : List Byte) : State :=
  match s.needSess p dst with
  | (none, s1) => s1.respond m stNoResource 0 []
  | (some i, s1) =>
    let w := s1.sendList i fun k => permPackets k 3 0 (at_ + 32) 0 data (data.length / 8160 + 1)
    (w.2.awaitWith m (imageReply img (32 + data.length))).setCopy m (.data i w.1 at_ (w.2.imageHeader p step))

/-- Read what a checkpoint copies, and go on with its bytes. -/
def State.withCopy (s : State) (m : MbId) (p : PartId) (go : State → List Byte → State) : State :=
  match s.readMany p (s.copyRuns p) with
  | (none, s1) => s1.stopFaulted m p
  | (some bs, s1) => go s1 bs.flatten

/-- What CHECKPOINT and RESTORE check of their payload. -/
def State.imageChecks (s : State) (mb : MbId) (r : MbReq) : List (Bool × BitVec 16 × Nat) :=
  [(decide (2 ^ 14 ≤ r.u 4 2), stBadField, 4), r.zero 6 2, r.wide 8, (!s.partExists r.part, stNotFound, 0),
   (s.longRuns mb r.part, stState, r.part.val), (s.eng.lostMods.contains (BitVec.ofNat 14 (r.u 4 2)), stPeerLost, 0)]

/-- Ask a buddy elsewhere for ranges of its checkpoint region, each with its image: the message that asks (R347, log 23). -/
def State.askImages (s : State) (m : MbId) (p : PartId) (dst : BitVec 14) (runs : List (Nat × Nat × Nat)) (k : Nat → BitVec 32 → Copy) :
    State :=
  match s.needSess p dst with
  | (none, s1) => s1.respond m stNoResource 0 []
  | (some i, s1) =>
    let w := s1.sendList i fun z => runs.map fun r => { z with
      coll := 5, first := r == runs.headD r, last := r == runs.getLastD r, payload := permHeader r.2.1 r.2.2 (imageTag m r.1) 1 }
    w.2.setCopy m (k i w.1)

/-- The headers of the two images at a buddy elsewhere: they are asked for first, the request waits until both have come, and one whose
session is gone has lost its buddy (14 Table 14.9). -/
def State.withFarHeaders (s : State) (m : MbId) (r : MbReq) (go : List Byte → List Byte → State) : State :=
  let bva := r.u 8 6
  match r.copy with
  | .probe i _ hs =>
    if (s.sess i).isNone then s.respond m stPeerLost 0 []
    else match hs.find? (·.1 == 0), hs.find? (·.1 == 1) with
      | some a, some b => go a.2 b.2
      | _, _ => s
  | _ => s.askImages m r.part (BitVec.ofNat 14 (r.u 4 2)) [(0, bva, 32), (1, bva + r.u 16 8, 32)] fun i k => .probe i k []

/-- CHECKPOINT (R347): a step that has not closed is waited for; the images of a buddy elsewhere are told apart by their headers, which
the buddy sends (log 37). -/
def execCheckpoint (mb : MbId) (s : State) : Host.Outcome State Fault Refusal :=
  s.mbRun mb 0x020B (fun _ => true) fun r =>
    let p := r.part
    let t := BitVec.ofNat 32 (r.u 0 4)
    let bva := r.u 8 6
    let len := r.u 16 8
    let self := decide (r.u 4 2 = s.moduleId.toNat)
    s.guarded mb (s.imageChecks mb r)
      (if !(s.part p).ue.hasClosed t then s.setCopy mb .closing
       else s.guarded mb
        [((s.part p).ue.wasAborted t, stState, p.val), (decide (len < s.imageBytes p), stBadField, 16),
         ((s.copyRuns p).any fun x => ((s.part p).checkRange x.1 x.2 .pr).isSome, stAccess, 0),
         (self && ((s.part p).checkRange bva (2 * len) .pw).isSome, stAccess, 0)]
        (if self then s.withHeaders mb p bva len fun s1 h0 h1 =>
            let img := s1.olderImage p h0 h1
            s1.withCopy mb p fun s2 b => s2.writeImage mb p (bva + img * len) (r.u 0 4) img b
         else s.withFarHeaders mb r fun h0 h1 =>
            let img := s.olderImage p h0 h1
            s.withCopy mb p fun s1 b => s1.sendImage mb p (BitVec.ofNat 14 (r.u 4 2)) (bva + img * len) (r.u 0 4) img b))

/-- Write the bytes of an image back, a tensor of a super-block at a time. -/
def State.writeTensors (s : State) (p : PartId) : List (Nat × Nat) → List Byte → Bool × State
  | [], _ => (true, s)
  | r :: rs, b => match s.writeHbm p r.1 (padTo r.2 b) with
    | (false, s1) => (false, s1)
    | (true, s1) => State.writeTensors s1 p rs (b.drop r.2)

/-- Restore a partition from an image: its header is checked, its tensors are written, and the step log is cleared (R347). -/
def State.restoreFrom (s : State) (m : MbId) (p : PartId) (step : Nat) (b : List Byte) : State :=
  s.guarded m
    [(!s.headerOurs p b || fieldLE b 0 4 != step, stNotFound, 0),
     ((s.copyRuns p).any fun x => ((s.part p).checkRange x.1 x.2 .w).isSome, stAccess, 0)]
    (match s.writeTensors p (s.copyRuns p) (b.drop 32) with
      | (false, s1) => s1.stopFaulted m p
      | (true, s1) => (s1.modUe p fun u => { u with
          steps := [], begun := none, recStep := [], staged := [], known := [], seeds := u.seeds.filter fun k => !before32 (BitVec.ofNat 32 step) k.step
          norm2 := u.norm2.filter fun n => !before32 (BitVec.ofNat 32 step) n.1, allRec := some (BitVec.ofNat 32 step) }).respond m stOk 0
            (bytesLE 8 (s.imageBytes p)))

/-- Read the image of a step on this module. -/
def State.withImage (s : State) (m : MbId) (p : PartId) (bva len step : Nat) (go : State → List Byte → State) : State :=
  s.withHeaders m p bva len fun s1 h0 _ =>
    let i := if s1.headerOurs p h0 && fieldLE h0 0 4 == step then 0 else 1
    match s1.readHbm p (bva + i * len) (min len (s1.imageBytes p)) with
    | (none, s2) => s2.stopFaulted m p
    | (some b, s2) => go s2 b

/-- The image of a header pair that holds a step of this job and module. -/
def State.imageOf (s : State) (p : PartId) (step : Nat) (h0 h1 : List Byte) : Option Nat :=
  if s.headerOurs p h0 && fieldLE h0 0 4 == step then some 0
  else if s.headerOurs p h1 && fieldLE h1 0 4 == step then some 1
  else none

/-- RESTORE from a buddy elsewhere: the headers of its images, then the image of the step, are asked for; what it answers with is
`image` (log 37). -/
def State.restoreFar (s : State) (m : MbId) (r : MbReq) (image : List Byte) : State :=
  match r.copy with
  | .fetch i _ => if (s.sess i).isNone then s.respond m stPeerLost 0 [] else s.restoreFrom m r.part (r.u 0 4) image
  | _ => s.withFarHeaders m r fun h0 h1 => match s.imageOf r.part (r.u 0 4) h0 h1 with
    | none => s.respond m stNotFound 0 []
    | some n => s.askImages m r.part (BitVec.ofNat 14 (r.u 4 2))
        [(n, r.u 8 6 + n * r.u 16 8, min (r.u 16 8) (s.imageBytes r.part))] fun i k => .fetch i k

/-- RESTORE (R347): `image` is what the buddy sends; on the module itself the region is read. -/
def execRestore (mb : MbId) (image : List Byte) (s : State) : Host.Outcome State Fault Refusal :=
  s.mbRun mb 0x020C (fun _ => true) fun r =>
    let p := r.part
    let self := decide (r.u 4 2 = s.moduleId.toNat)
    s.guarded mb
      (s.imageChecks mb r ++
        [(!s.noneRunning p, stState, p.val), (self && ((s.part p).checkRange (r.u 8 6) (2 * r.u 16 8) .r).isSome, stAccess, 0)])
      (if self then s.withImage mb p (r.u 8 6) (r.u 16 8) (r.u 0 4) fun s1 b => s1.restoreFrom mb p (r.u 0 4) b
       else s.restoreFar mb r image)

/-! ### The module (Table 14.8, 16 R376 to R378, R384) -/

/-- MB_STS (Table 14.5). -/
def Mailbox.sts (b : Mailbox) : Nat :=
  b.lseq.toNat + (if b.busy.isSome then 2 ^ 16 else 0) + b.role.ctorIdx * 2 ^ 17 + b.rpart.val * 2 ^ 19

/-- MODULE_STATUS (Table 14.8). -/
def execModuleStatus (mb : MbId) (s : State) : Host.Outcome State Fault Refusal :=
  s.mbRun mb 0x0301 (fun _ => true) fun _ =>
    s.respond mb stOk 0 (padTo 16 s.fuses.partno ++ bytesLE 2 s.moduleId.toNat ++ bytesLE 2 s.stateWord ++
      bytesLE 4 (if s.aon.mstate = .bootHalt then 0 else s.reg.fwver.toNat) ++ bytesLE 8 s.fuses.arcCount ++
      bytesLE 12 s.fuses.arrayEn.toNat ++ (allMbs.flatMap fun m => bytesLE 4 (s.mb m).sts) ++
      allPorts.flatMap fun p => bytesLE 4 (s.port p).sts)

/-- The bytes of an event log entry (16 Table 16.10). -/
def Event.bytes (e : Event) : List Byte :=
  bytesLE 8 e.time.toNat ++ bytesLE 4 e.seq.toNat ++ bytesLE 2 e.code.toNat ++ bytesLE 2 e.rep.toNat ++ bytesLE 1 e.src.toNat ++
    bytesLE 1 e.part.toNat ++ bytesLE 2 0 ++ padTo 12 e.arg

/-- The bytes of a trace record (16 R385). -/
def TraceRec.bytes (t : TraceRec) : List Byte :=
  bytesLE 8 t.time.toNat ++ bytesLE 1 t.origin.toNat ++ bytesLE 1 t.mark.layer.toNat ++ bytesLE 1 t.mark.mb.toNat ++
    bytesLE 1 t.mark.phase.toNat ++ bytesLE 4 t.step.toNat ++ bytesLE 4 t.seq.toNat ++ bytesLE 4 t.stall.toNat ++
    bytesLE 4 t.lines.toNat ++ bytesLE 4 0

/-- Entries of a ring, newest first as SEQ and bytes, from a SEQ on, oldest first. -/
def ringFrom (l : List (BitVec 32 × List Byte)) (start : BitVec 32) (most : Nat) : List (BitVec 32 × List Byte) :=
  (l.reverse.filter fun e => !before32 e.1 start).take (min most 126)

/-- NEXT, OLDEST and the entries of a ring (16 R384): a FROM before the oldest starts there. NEXT without an entry is the
free value `nx` (log 1). -/
def ringRead (l : List (BitVec 32 × List Byte)) (next : BitVec 32) (start : BitVec 32) (most nx : Nat) :
    BitVec 32 × BitVec 32 × List (BitVec 32 × List Byte) :=
  let oldest := match l.getLast? with
    | some e => e.1
    | none => next
  let es := ringFrom l (if before32 start oldest then oldest else start) most
  (match es.getLast? with
    | some e => e.1 + 1
    | none => BitVec.ofNat 32 nx, oldest, es)

/-- EVENT_READ (16 R384, 18 R419): a read from a mailbox with O authority passes the entries before NEXT; one that returns no entry
passes none. -/
def execEventRead (mb : MbId) (s : State) : Host.Outcome State Fault Refusal :=
  s.mbRun mb 0x0302 (fun _ => true) fun r =>
    let g := s.reg.logs
    let tr := (r.u 4 2).testBit 15
    let start := BitVec.ofNat 32 (r.u 0 4)
    let x := if tr then ringRead (g.trace.map fun t => (t.seq, t.bytes)) g.traceSeq start (r.u 4 2 % 2 ^ 15) s.freeVal
      else ringRead (g.events.map fun e => (e.seq, e.bytes)) g.nextSeq start (r.u 4 2 % 2 ^ 15) s.freeVal
    let s1 := if !tr && s.hasOwner mb && !x.2.2.isEmpty && before32 g.ownerRead x.1 then
        s.modReg fun q => { q with logs := { q.logs with ownerRead := x.1 } } else s
    s1.freeNext.respond mb stOk 0 (bytesLE 4 x.1.toNat ++ bytesLE 4 x.2.1.toNat ++ bytesLE 4 (if tr then 0 else g.lostcnt) ++
      bytesLE 2 x.2.2.length ++ bytesLE 2 0 ++ x.2.2.flatMap (·.2))

/-- The sensors in ascending ID (16 Table 16.5). -/
def sensorIds : List Nat := (List.range 0x66).filter sensorId

/-- A sample lies above its reduce threshold (16 Table 16.2). -/
def State.overReduce (s : State) (id : Nat) (v : Word) : Bool :=
  let x := ofB32 v.toNat
  (isDie id && above x 100) || (isStack id && above x 95) || (id == 0x52 && above x s.reg.pwrLimit.toNat)

/-- A sensor record of 8 bytes (16 R378). A sensor that was never sampled has a free VALUE (log 1) and the greatest AGE. -/
def State.sensorRec (s : State) (id : Nat) : List Byte :=
  let cal := if (calOf s.reg.cal id).isSome then 4 else 0
  match s.aon.samples.get none id with
  | some x =>
    let flags := 1 + (if s.overReduce id x.value then 2 else 0) + cal
    bytesLE 1 id ++ bytesLE 1 (sensorUnit id) ++ bytesLE 1 flags ++ bytesLE 1 (min 255 ((s.now - x.time.toNat) / 1000000)) ++
      bytesLE 4 x.value.toNat
  | none => bytesLE 1 id ++ bytesLE 1 (sensorUnit id) ++ bytesLE 1 cal ++ bytesLE 1 255 ++ bytesLE 4 (Config.freeValue (s.free + id))

/-- Mean input power over 10 ms in W, as B32. -/
def State.p10 (s : State) : Nat :=
  if s.aon.meanDen = 0 then toB32 (Ext.ofNat 0) else toB32 ((Ext.ofNat s.aon.meanNum).div (Ext.ofNat s.aon.meanDen))

/-- The payload of a set of 16 Table 16.6. -/
def State.telemetrySet (s : State) (set : Nat) : List Byte :=
  match set with
  | 0 => bytesLE 8 s.now ++ bytesLE 2 sensorIds.length ++ List.replicate 6 0 ++ sensorIds.flatMap s.sensorRec
  | 1 => bytes8 ((s.aon.resAct / 1000) :: (List.range 4).map fun i => s.aon.resS.get 0 (i + 1) / 1000) ++
      allCores.flatMap fun c => bytes8 ((List.range 6).map fun l => (s.core c).resPl.get 0 l / 1000)
  | 2 => bytesLE 1 s.reg.modLevel.toNat ++ bytesLE 1 s.reg.tlevelT.toNat ++ bytesLE 1 s.reg.tlevelR.toNat ++ bytesLE 1 0 ++
      bytesLE 2 s.reg.pwrLimit.toNat ++ bytesLE 2 0 ++ bytesLE 8 (s.aon.energy / 1000) ++ bytesLE 4 s.p10 ++
      allParts.flatMap fun p => bytesLE 1 (s.part p).cap.toNat
  | 3 => bytes8 ((List.range 256).map fun i => s.fabric.ruleHits.get 0 i)
  | _ => (allStacks.flatMap fun h => bytes8 [(s.stack h).cnt.get 0 StackCnt.floorScrub.idx, (s.stack h).cnt.get 0 StackCnt.floorScrubNs.idx]) ++
      allPorts.flatMap fun p => bytes8 [(s.port p).floorAdapt, (s.port p).floorAdaptNs]

/-- Clear the counters of a set. -/
def State.telemetryClear (s : State) (set : Nat) : State :=
  match set with
  | 3 => { s with fabric := { s.fabric with ruleHits := [] } }
  | 4 => { s with
      stk := s.stk.map fun k => ({ k with cnt := cntClear k.cnt 4 2 } : Stack)
      fabric := { s.fabric with ports := s.fabric.ports.map fun q => ({ q with floorAdapt := 0, floorAdaptNs := 0 } : Port) } }
  | _ => s

/-- TELEMETRY_READ (16 R378): only a mailbox with O authority clears what it reads. -/
def execTelemetryRead (mb : MbId) (s : State) : Host.Outcome State Fault Refusal :=
  s.mbRun mb 0x0303 (fun _ => true) fun r =>
    let k := r.u 0 1
    let s1 := if s.hasOwner mb then s.telemetryClear k else s
    let s2 : State := { s1 with free := s1.free + 256 }
    s.guarded mb [(decide (4 < k), stBadField, 0)] (s2.respond mb stOk 0 (s.telemetrySet k))

/-- FRU_READ (18 R409). -/
def execFruRead (mb : MbId) (s : State) : Host.Outcome State Fault Refusal :=
  s.mbRun mb 0x0304 (fun _ => true) fun r =>
    s.guarded mb [(decide (4064 < r.u 2 2), stBadField, 2)] (s.respond mb stOk 0 (padTo (r.u 2 2) (s.fuses.fru.drop (r.u 0 2))))

/-! ### ATTEST (R348, 15 R368) -/

/-- The bytes of the running image. -/
def State.runningImage (s : State) : List Byte := match s.aon.slotB with
  | some b => s.flash.slot b
  | none => []

/-- The signed part of the report (15 Table 15.11). -/
def State.reportBody (s : State) (nonce : List Byte) : List Byte :=
  let part := fun (p : PartId) => match (s.part p).cfg with
    | some c => padTo 32 c.payload
    | none => List.replicate 32 0
  bytesLE 4 0x5241444B ++ bytesLE 2 1 ++ bytesLE 2 0 ++ bytesLE 4 17440 ++ bytesLE 4 0 ++ padTo 32 nonce ++
    bytesLE 2 s.moduleId.toNat ++ bytesLE 1 (if s.aon.slotB = some true then 1 else 0) ++ bytesLE 1 s.aon.rstCause.toNat ++
    bytesLE 4 s.aon.warmCnt.toNat ++ bytesLE 8 s.now ++ padTo 16 s.fuses.partno ++ padTo 16 s.fuses.serial ++
    bytesLE 12 s.fuses.arrayEn.toNat ++ bytesLE 1 s.reg.svn.toNat ++ bytesLE 3 0 ++ bytesLE 8 s.fuses.arcCount ++
    bytesLE 4 s.reg.fwver.toNat ++ bytesLE 4 0 ++ sha384 s.fuses.rom ++ sha384 (s.runningImage.take 512) ++
    sha384 (s.fuses.otpCal ++ s.flash.userCal) ++ sha384 s.flash.config ++ sha384 (allParts.flatMap part) ++
    List.replicate 16 0 ++ padTo 384 s.fuses.idPubRsa ++ padTo 48 (s.fuses.idkSlh.drop 48) ++ List.replicate 16 0

/-- The report with its two signatures; the salt and the random bytes that RFC 8017 and FIPS 205 take are free values (log 10). -/
def State.report (s : State) (nonce : List Byte) : List Byte :=
  let b := s.reportBody nonce
  b ++ pssSign (padTo 384 s.fuses.idkRsa) b (bytesBE 48 s.freeVal) ++ slhSign (padTo 96 s.fuses.idkSlh) b (bytesBE 24 s.freeNext.freeVal)

/-- ATTEST (R348): the last report is kept until another NONCE arrives. -/
def execAttest (mb : MbId) (s : State) : Host.Outcome State Fault Refusal :=
  s.mbRun mb 0x0305 (fun _ => true) fun r =>
    let nonce := padTo 32 (r.payload.take 32)
    let o := r.u 32 4
    let x := match s.reg.report with
      | some k => if k.1 = nonce then (k.2, s) else (s.report nonce, s.freeNext.freeNext)
      | none => (s.report nonce, s.freeNext.freeNext)
    s.guarded mb [(decide (17440 < o), stBadField, 32)]
      ((x.2.modReg fun g => { g with report := some (nonce, x.1) }).respond mb stOk 0
        (bytesLE 4 17440 ++ bytesLE 4 o ++ (x.1.drop o).take 4056))

/-! ### Undefined commands (R335) -/

/-- A request with an undefined command code (R335, Table 14.9). -/
def execBadCommand (mb : MbId) (s : State) : Host.Outcome State Fault Refusal :=
  match (s.mb mb).busy with
  | some r => if (mbClass r.cmd.toNat r.payload).isNone && r.wait.isNone then .next (s.respond mb stBadCommand 0 []).settle else .next s
  | none => .next s

end Sys2Proof.Machine
end

