-- ==== Sys2Proof/Machine/Stream.lean ====
section
/-! DEFINITION. The meanings of the command lines (05): the escapement of a core decodes the line, and everything that can go
on goes on. The line is the command's operand: what the fetch of R94 delivers is not compared with HBM here (log 6). -/

namespace Sys2Proof.Machine

/-- LDW (R99, 04 R76). -/
def execLdw (core : CoreId) (l : LdwLine) (s : State) : Host.Outcome State Fault Refusal :=
  .next (s.decodeLine core (.ldw l)).settle

/-- MMA (R100, 03 R56). -/
def execMma (core : CoreId) (l : MmaLine) (s : State) : Host.Outcome State Fault Refusal :=
  .next (s.decodeLine core (.mma l)).settle

/-- DIST (R100, 04 R85). -/
def execDist (core : CoreId) (l : MmaLine) (s : State) : Host.Outcome State Fault Refusal :=
  .next (s.decodeLine core (.dist l)).settle

/-- RED (R101, 03 R64, R65). -/
def execRed (core : CoreId) (l : RedLine) (s : State) : Host.Outcome State Fault Refusal :=
  .next (s.decodeLine core (.red l)).settle

/-- EPI (R102). -/
def execEpi (core : CoreId) (l : EpiLine) (s : State) : Host.Outcome State Fault Refusal :=
  .next (s.decodeLine core (.epi l)).settle

/-- An exchange EPI: CVT.FMT is G8 (09 R192, R193). -/
def execExchangeEpi (core : CoreId) (l : EpiLine) (s : State) : Host.Outcome State Fault Refusal :=
  .next (s.decodeLine core (.epi { l with cvt := (l.cvt &&& 0x0F#8) ||| 0xB0#8 })).settle

/-- VEC (R103). -/
def execVec (core : CoreId) (l : VecLine) (s : State) : Host.Outcome State Fault Refusal :=
  .next (s.decodeLine core (.vec l)).settle

/-- XPOSE (R104). -/
def execXpose (core : CoreId) (l : XposeLine) (s : State) : Host.Outcome State Fault Refusal :=
  .next (s.decodeLine core (.xpose l)).settle

/-- ROUTE, top-k and dispatch; a line with another RFN keeps it (R105, 07 R138 to R151). -/
def execRouteDispatch (core : CoreId) (l : RouteLine) (s : State) : Host.Outcome State Fault Refusal :=
  .next (s.decodeLine core (.route l)).settle

/-- ROUTE RFN 0 whose header asks for the reuse of a map (07 R157). -/
def execRouteReuse (core : CoreId) (l : RouteLine) (s : State) : Host.Outcome State Fault Refusal :=
  .next (s.decodeLine core (.route { l with rfn := 0 })).settle

/-- ROUTE RFN 1, combine (07 R153 to R155). -/
def execRouteCombine (core : CoreId) (l : RouteLine) (s : State) : Host.Outcome State Fault Refusal :=
  .next (s.decodeLine core (.route { l with rfn := 1 })).settle

/-- SEND, point to point or as its COLL says (R106). -/
def execSend (core : CoreId) (l : SendLine) (s : State) : Host.Outcome State Fault Refusal :=
  .next (s.decodeLine core (.send l)).settle

/-- SEND with COLL = reduce-scatter (13 R299). -/
def execSendReduceScatter (core : CoreId) (l : SendLine) (s : State) : Host.Outcome State Fault Refusal :=
  .next (s.decodeLine core (.send { l with coll := 1 })).settle

/-- SEND with COLL = all-to-all: the return leg (13 R307). -/
def execSendA2aReturn (core : CoreId) (l : SendLine) (s : State) : Host.Outcome State Fault Refusal :=
  .next (s.decodeLine core (.send { l with coll := 3 })).settle

/-- SEND with COLL = broadcast (13 R308). -/
def execSendBroadcast (core : CoreId) (l : SendLine) (s : State) : Host.Outcome State Fault Refusal :=
  .next (s.decodeLine core (.send { l with coll := 4 })).settle

/-- SEND with COLL = PERMUTE (13 R310). -/
def execPermute (core : CoreId) (l : SendLine) (s : State) : Host.Outcome State Fault Refusal :=
  .next (s.decodeLine core (.send { l with coll := 5 })).settle

/-- RECV (R106). -/
def execRecv (core : CoreId) (l : RecvLine) (s : State) : Host.Outcome State Fault Refusal :=
  .next (s.decodeLine core (.recv l)).settle

/-- RECV with COLL = all-gather (13 R304). -/
def execRecvAllGather (core : CoreId) (l : RecvLine) (s : State) : Host.Outcome State Fault Refusal :=
  .next (s.decodeLine core (.recv { l with coll := 2 })).settle

/-- STASH (R107, 08 R180). -/
def execStash (core : CoreId) (l : StashLine) (s : State) : Host.Outcome State Fault Refusal :=
  .next (s.decodeLine core (.stash l)).settle

/-- UNSTASH (R107, 08 R181). -/
def execUnstash (core : CoreId) (l : StashLine) (s : State) : Host.Outcome State Fault Refusal :=
  .next (s.decodeLine core (.unstash l)).settle

/-- FENCE (R108). -/
def execFence (core : CoreId) (l : FenceLine) (s : State) : Host.Outcome State Fault Refusal :=
  .next (s.decodeLine core (.fence l)).settle

/-- WAITQ (R109, 10 R224). -/
def execWaitq (core : CoreId) (l : WaitqLine) (s : State) : Host.Outcome State Fault Refusal :=
  .next (s.decodeLine core (.waitq l)).settle

/-- MARK (R110, 10 R230). -/
def execMark (core : CoreId) (l : MarkLine) (s : State) : Host.Outcome State Fault Refusal :=
  .next (s.decodeLine core (.mark l)).settle

/-- DEADLINE (R111). -/
def execDeadline (core : CoreId) (l : DeadlineLine) (s : State) : Host.Outcome State Fault Refusal :=
  .next (s.decodeLine core (.deadline l)).settle

/-- SEED (R112, R116). -/
def execSeed (core : CoreId) (l : SeedLine) (s : State) : Host.Outcome State Fault Refusal :=
  .next (s.decodeLine core (.seed l)).settle

/-- UPD (R112, 09 R198). -/
def execUpd (core : CoreId) (l : UpdLine) (s : State) : Host.Outcome State Fault Refusal :=
  .next (s.decodeLine core (.upd l)).settle

/-- BRANCH JUMP (R113); the reserved KIND 7 is kept and refused. -/
def execJump (core : CoreId) (l : BranchLine) (s : State) : Host.Outcome State Fault Refusal :=
  .next (s.decodeLine core (.branch (if l.kind = 7 then l else { l with kind := 0 }))).settle

/-- BRANCH CALL (R113). -/
def execCall (core : CoreId) (l : BranchLine) (s : State) : Host.Outcome State Fault Refusal :=
  .next (s.decodeLine core (.branch { l with kind := 1 })).settle

/-- BRANCH RETURN (R113). -/
def execRet (core : CoreId) (l : BranchLine) (s : State) : Host.Outcome State Fault Refusal :=
  .next (s.decodeLine core (.branch { l with kind := 2 })).settle

/-- BRANCH LOOP (R113). -/
def execLoop (core : CoreId) (l : BranchLine) (s : State) : Host.Outcome State Fault Refusal :=
  .next (s.decodeLine core (.branch { l with kind := 3 })).settle

/-- BRANCH SETLC (R113). -/
def execSetlc (core : CoreId) (l : BranchLine) (s : State) : Host.Outcome State Fault Refusal :=
  .next (s.decodeLine core (.branch { l with kind := 4 })).settle

/-- BRANCH LOSS_GUARD (R113, 09 R213). -/
def execLossGuard (core : CoreId) (l : BranchLine) (s : State) : Host.Outcome State Fault Refusal :=
  .next (s.decodeLine core (.branch { l with kind := 5 })).settle

/-- BRANCH END (R113, Table 5.3). -/
def execEndStream (core : CoreId) (l : BranchLine) (s : State) : Host.Outcome State Fault Refusal :=
  .next (s.decodeLine core (.branch { l with kind := 6 })).settle

/-- An undefined opcode: ST_BAD_OPCODE, and the stream halts (R96, R95). A defined opcode is no undefined one: it is decoded
as a line of its fields' zeros would be. -/
def execBadOpcode (core : CoreId) (opcode : BitVec 8) (hdr : Hdr) (s : State) : Host.Outcome State Fault Refusal :=
  .next (s.decodeLine core (decodeLine ((hdr.toBits opcode).setWidth 256))).settle

/-- A stream line cannot be read: ST_FETCH_ERROR, and the stream halts (R95). -/
def execFetchError (core : CoreId) (s : State) : Host.Outcome State Fault Refusal := .next (s.fetchFails core).settle

end Sys2Proof.Machine
end

