-- ==== Sys2Proof/Machine/Dispatch.lean ====
section
/-! DEFINITION. One arm per command: a direct call of its meaning. -/

namespace Sys2Proof.Machine

/-- The effect of a command on everything but the queue of waiting commands. -/
def exec (i : Instr) (s : State) : Host.Outcome State Fault Refusal :=
  match i with
  | .ldw core l => Sys2Proof.Machine.execLdw core l s
  | .mma core l => Sys2Proof.Machine.execMma core l s
  | .dist core l => Sys2Proof.Machine.execDist core l s
  | .red core l => Sys2Proof.Machine.execRed core l s
  | .epi core l => Sys2Proof.Machine.execEpi core l s
  | .exchangeEpi core l => Sys2Proof.Machine.execExchangeEpi core l s
  | .vec core l => Sys2Proof.Machine.execVec core l s
  | .xpose core l => Sys2Proof.Machine.execXpose core l s
  | .routeDispatch core l => Sys2Proof.Machine.execRouteDispatch core l s
  | .routeReuse core l => Sys2Proof.Machine.execRouteReuse core l s
  | .routeCombine core l => Sys2Proof.Machine.execRouteCombine core l s
  | .send core l => Sys2Proof.Machine.execSend core l s
  | .sendReduceScatter core l => Sys2Proof.Machine.execSendReduceScatter core l s
  | .sendA2aReturn core l => Sys2Proof.Machine.execSendA2aReturn core l s
  | .sendBroadcast core l => Sys2Proof.Machine.execSendBroadcast core l s
  | .permute core l => Sys2Proof.Machine.execPermute core l s
  | .recv core l => Sys2Proof.Machine.execRecv core l s
  | .recvAllGather core l => Sys2Proof.Machine.execRecvAllGather core l s
  | .stash core l => Sys2Proof.Machine.execStash core l s
  | .unstash core l => Sys2Proof.Machine.execUnstash core l s
  | .fence core l => Sys2Proof.Machine.execFence core l s
  | .waitq core l => Sys2Proof.Machine.execWaitq core l s
  | .mark core l => Sys2Proof.Machine.execMark core l s
  | .deadline core l => Sys2Proof.Machine.execDeadline core l s
  | .seed core l => Sys2Proof.Machine.execSeed core l s
  | .upd core l => Sys2Proof.Machine.execUpd core l s
  | .jump core l => Sys2Proof.Machine.execJump core l s
  | .call core l => Sys2Proof.Machine.execCall core l s
  | .ret core l => Sys2Proof.Machine.execRet core l s
  | .loop core l => Sys2Proof.Machine.execLoop core l s
  | .setlc core l => Sys2Proof.Machine.execSetlc core l s
  | .lossGuard core l => Sys2Proof.Machine.execLossGuard core l s
  | .endStream core l => Sys2Proof.Machine.execEndStream core l s
  | .badOpcode core opcode hdr => Sys2Proof.Machine.execBadOpcode core opcode hdr s
  | .fetchError core => Sys2Proof.Machine.execFetchError core s
  | .commandRetire core => Sys2Proof.Machine.execCommandRetire core s
  | .deadlinePassed core tag => Sys2Proof.Machine.execDeadlinePassed core tag s
  | .waitqTimeout core => Sys2Proof.Machine.execWaitqTimeout core s
  | .roundAdmission round => Sys2Proof.Machine.execRoundAdmission round s
  | .amaxPush p => Sys2Proof.Machine.execAmaxPush p s
  | .stashRelease core => Sys2Proof.Machine.execStashRelease core s
  | .descriptorTake core => Sys2Proof.Machine.execDescriptorTake core s
  | .descriptorIssue q => Sys2Proof.Machine.execDescriptorIssue q s
  | .transferLanded q n data refused => Sys2Proof.Machine.execTransferLanded q n data refused s
  | .itemComplete q => Sys2Proof.Machine.execItemComplete q s
  | .descriptorCacheFill q => Sys2Proof.Machine.execDescriptorCacheFill q s
  | .translationWalk p vpn => Sys2Proof.Machine.execTranslationWalk p vpn s
  | .superblockComplete ctx => Sys2Proof.Machine.execSuperblockComplete ctx s
  | .precondPhase2 p => Sys2Proof.Machine.execPrecondPhase2 p s
  | .updPendingApply core => Sys2Proof.Machine.execUpdPendingApply core s
  | .gatherServe n => Sys2Proof.Machine.execGatherServe n s
  | .dataReceive k => Sys2Proof.Machine.execDataReceive k s
  | .ackReceive k => Sys2Proof.Machine.execAckReceive k s
  | .keepaliveReceive k => Sys2Proof.Machine.execKeepaliveReceive k s
  | .openReceive k addr => Sys2Proof.Machine.execOpenReceive k addr s
  | .openAckReceive k => Sys2Proof.Machine.execOpenAckReceive k s
  | .closeReceive k => Sys2Proof.Machine.execCloseReceive k s
  | .creditReceive k => Sys2Proof.Machine.execCreditReceive k s
  | .noticeSkip k => Sys2Proof.Machine.execNoticeSkip k s
  | .noticeNorm k => Sys2Proof.Machine.execNoticeNorm k s
  | .noticePeerLost k => Sys2Proof.Machine.execNoticePeerLost k s
  | .noticeReady k => Sys2Proof.Machine.execNoticeReady k s
  | .rsContributionReceive k => Sys2Proof.Machine.execRsContributionReceive k s
  | .gatherRequestReceive k => Sys2Proof.Machine.execGatherRequestReceive k s
  | .a2aMessageReceive m => Sys2Proof.Machine.execA2aMessageReceive m s
  | .a2aReturnReceive m => Sys2Proof.Machine.execA2aReturnReceive m s
  | .ackTimer sess => Sys2Proof.Machine.execAckTimer sess s
  | .retransmitTimer sess psn => Sys2Proof.Machine.execRetransmitTimer sess psn s
  | .keepaliveTimer sess => Sys2Proof.Machine.execKeepaliveTimer sess s
  | .keepaliveSilence sess => Sys2Proof.Machine.execKeepaliveSilence sess s
  | .portSignalDetect p => Sys2Proof.Machine.execPortSignalDetect p s
  | .autonegComplete p => Sys2Proof.Machine.execAutonegComplete p s
  | .linkTrainingComplete p => Sys2Proof.Machine.execLinkTrainingComplete p s
  | .pcsLock p => Sys2Proof.Machine.execPcsLock p s
  | .portDown p cause => Sys2Proof.Machine.execPortDown p cause s
  | .helloReceive p d => Sys2Proof.Machine.execHelloReceive p d s
  | .helloTimer p => Sys2Proof.Machine.execHelloTimer p s
  | .directTimeout p => Sys2Proof.Machine.execDirectTimeout p s
  | .stepWindow p sent qb => Sys2Proof.Machine.execStepWindow p sent qb s
  | .stepReqReceive p d => Sys2Proof.Machine.execStepReqReceive p d s
  | .stepAckReceive p d => Sys2Proof.Machine.execStepAckReceive p d s
  | .stepNakReceive p d => Sys2Proof.Machine.execStepNakReceive p d s
  | .stepReqTimeout p => Sys2Proof.Machine.execStepReqTimeout p s
  | .laneSwitch p => Sys2Proof.Machine.execLaneSwitch p s
  | .adaptWindowDue p => Sys2Proof.Machine.execAdaptWindowDue p s
  | .adaptFloorForced p => Sys2Proof.Machine.execAdaptFloorForced p s
  | .adaptReqReceive p d => Sys2Proof.Machine.execAdaptReqReceive p d s
  | .adaptAckReceive p d => Sys2Proof.Machine.execAdaptAckReceive p d s
  | .adaptWindowEnd p ns => Sys2Proof.Machine.execAdaptWindowEnd p ns s
  | .frameReceive p sub frame fcsOk => Sys2Proof.Machine.execFrameReceive p sub frame fcsOk s
  | .assemblyTimeout q => Sys2Proof.Machine.execAssemblyTimeout q s
  | .frameTransmit p sub => Sys2Proof.Machine.execFrameTransmit p sub s
  | .announceTimer => Sys2Proof.Machine.execAnnounceTimer s
  | .announceReceive a => Sys2Proof.Machine.execAnnounceReceive a s
  | .announceAbsence m => Sys2Proof.Machine.execAnnounceAbsence m s
  | .mpCollision => Sys2Proof.Machine.execMpCollision s
  | .mpRequestSegment g => Sys2Proof.Machine.execMpRequestSegment g s
  | .mpRequestTimeout mb => Sys2Proof.Machine.execMpRequestTimeout mb s
  | .hostMessage m => Sys2Proof.Machine.execHostMessage m s
  | .mbDoorbell mb seq => Sys2Proof.Machine.execMbDoorbell mb seq s
  | .mbAbort mb => Sys2Proof.Machine.execMbAbort mb s
  | .mbRole mb => Sys2Proof.Machine.execMbRole mb s
  | .hostTable mb => Sys2Proof.Machine.execHostTable mb s
  | .moduleSet mb => Sys2Proof.Machine.execModuleSet mb s
  | .portSet mb => Sys2Proof.Machine.execPortSet mb s
  | .steerSet mb => Sys2Proof.Machine.execSteerSet mb s
  | .fwdSet mb => Sys2Proof.Machine.execFwdSet mb s
  | .plCap mb => Sys2Proof.Machine.execPlCap mb s
  | .sleep mb => Sys2Proof.Machine.execSleep mb s
  | .resetWarm mb => Sys2Proof.Machine.execResetWarm mb s
  | .resetRetrain mb => Sys2Proof.Machine.execResetRetrain mb s
  | .islandReset mb => Sys2Proof.Machine.execIslandReset mb s
  | .flashWriteFirmware mb => Sys2Proof.Machine.execFlashWriteFirmware mb s
  | .flashWriteCalibration mb => Sys2Proof.Machine.execFlashWriteCalibration mb s
  | .flashWriteConfig mb => Sys2Proof.Machine.execFlashWriteConfig mb s
  | .partCreate mb => Sys2Proof.Machine.execPartCreate mb s
  | .partDelete mb => Sys2Proof.Machine.execPartDelete mb s
  | .partReset mb => Sys2Proof.Machine.execPartReset mb s
  | .coreAssign mb => Sys2Proof.Machine.execCoreAssign mb s
  | .coreUnassign mb => Sys2Proof.Machine.execCoreUnassign mb s
  | .regionMap mb => Sys2Proof.Machine.execRegionMap mb s
  | .regionUnmap mb => Sys2Proof.Machine.execRegionUnmap mb s
  | .regionSetRights mb => Sys2Proof.Machine.execRegionSetRights mb s
  | .stashSet mb => Sys2Proof.Machine.execStashSet mb s
  | .queueCreate mb => Sys2Proof.Machine.execQueueCreate mb s
  | .queueEnable mb => Sys2Proof.Machine.execQueueEnable mb s
  | .queueDisable mb => Sys2Proof.Machine.execQueueDisable mb s
  | .queueDelete mb => Sys2Proof.Machine.execQueueDelete mb s
  | .programLoad mb => Sys2Proof.Machine.execProgramLoad mb s
  | .streamStart mb => Sys2Proof.Machine.execStreamStart mb s
  | .streamCancel mb => Sys2Proof.Machine.execStreamCancel mb s
  | .plRequest mb => Sys2Proof.Machine.execPlRequest mb s
  | .queueRead mb => Sys2Proof.Machine.execQueueRead mb s
  | .queueDoorbell mb => Sys2Proof.Machine.execQueueDoorbell mb s
  | .queueAbort mb => Sys2Proof.Machine.execQueueAbort mb s
  | .counterRead mb => Sys2Proof.Machine.execCounterRead mb s
  | .stepLogRead mb => Sys2Proof.Machine.execStepLogRead mb s
  | .auditState mb => Sys2Proof.Machine.execAuditState mb s
  | .checkpoint mb => Sys2Proof.Machine.execCheckpoint mb s
  | .restore mb image => Sys2Proof.Machine.execRestore mb image s
  | .partStatus mb => Sys2Proof.Machine.execPartStatus mb s
  | .moduleStatus mb => Sys2Proof.Machine.execModuleStatus mb s
  | .eventRead mb => Sys2Proof.Machine.execEventRead mb s
  | .telemetryRead mb => Sys2Proof.Machine.execTelemetryRead mb s
  | .fruRead mb => Sys2Proof.Machine.execFruRead mb s
  | .attest mb => Sys2Proof.Machine.execAttest mb s
  | .badCommand mb => Sys2Proof.Machine.execBadCommand mb s
  | .suppliesValid => Sys2Proof.Machine.execSuppliesValid s
  | .mrstNAssert lowNs => Sys2Proof.Machine.execMrstNAssert lowNs s
  | .mrstNRelease => Sys2Proof.Machine.execMrstNRelease s
  | .mrstNLong => Sys2Proof.Machine.execMrstNLong s
  | .selfRefreshTimeout stack => Sys2Proof.Machine.execSelfRefreshTimeout stack s
  | .watchdogExpiry control => Sys2Proof.Machine.execWatchdogExpiry control s
  | .fatalError cause => Sys2Proof.Machine.execFatalError cause s
  | .groupRelease => Sys2Proof.Machine.execGroupRelease s
  | .hbmTrainingComplete failed => Sys2Proof.Machine.execHbmTrainingComplete failed s
  | .hbmSelfTestComplete failed => Sys2Proof.Machine.execHbmSelfTestComplete failed s
  | .warmTrainingCheck ok temps => Sys2Proof.Machine.execWarmTrainingCheck ok temps s
  | .moduleReady => Sys2Proof.Machine.execModuleReady s
  | .rmvReq lowUs => Sys2Proof.Machine.execRmvReq lowUs s
  | .quiesced => Sys2Proof.Machine.execQuiesced s
  | .seatAssert => Sys2Proof.Machine.execSeatAssert s
  | .debounceComplete => Sys2Proof.Machine.execDebounceComplete s
  | .seatDeassert => Sys2Proof.Machine.execSeatDeassert s
  | .vinPowerUp => Sys2Proof.Machine.execVinPowerUp s
  | .inputUndervoltage => Sys2Proof.Machine.execInputUndervoltage s
  | .railsFall => Sys2Proof.Machine.execRailsFall s
  | .inputOvervoltage => Sys2Proof.Machine.execInputOvervoltage s
  | .inputOvercurrent => Sys2Proof.Machine.execInputOvercurrent s
  | .inputShortCircuit => Sys2Proof.Machine.execInputShortCircuit s
  | .pcycle => Sys2Proof.Machine.execPcycle s
  | .pcycleRestart => Sys2Proof.Machine.execPcycleRestart s
  | .registerWrite offset value => Sys2Proof.Machine.execRegisterWrite offset value s
  | .controlLoopTick readings => Sys2Proof.Machine.execControlLoopTick readings s
  | .thermCrit r => Sys2Proof.Machine.execThermCrit r s
  | .thermCritRelease readings => Sys2Proof.Machine.execThermCritRelease readings s
  | .thermShutdown r => Sys2Proof.Machine.execThermShutdown r s
  | .levelChangeComplete isl => Sys2Proof.Machine.execLevelChangeComplete isl s
  | .telemetrySample readings => Sys2Proof.Machine.execTelemetrySample readings s
  | .powerMeterSample volts amps => Sys2Proof.Machine.execPowerMeterSample volts amps s
  | .wake e => Sys2Proof.Machine.execWake e s
  | .scrubSlotDue stack => Sys2Proof.Machine.execScrubSlotDue stack s
  | .scrubFloor stack ns => Sys2Proof.Machine.execScrubFloor stack ns s
  | .meshParityRetry receiver sender attempt kind => Sys2Proof.Machine.execMeshParityRetry receiver sender attempt kind s
  | .inputReturn => Sys2Proof.Machine.execInputReturn s
  | .mpBackoffEnd => Sys2Proof.Machine.execMpBackoffEnd s
  | .gpioSecondPulse high => Sys2Proof.Machine.execGpioSecondPulse high s
  | .stackTemperatureCrossing stack above => Sys2Proof.Machine.execStackTemperatureCrossing stack above s

end Sys2Proof.Machine
end

