-- ==== Sys2Proof/WellFormed.lean ====
section
/-! DEFINITION. Which commands a sender can give: each row's fixed fields have the row's values, and lengths stay inside the
bounds that the spec gives the carrier of the command. -/

namespace Sys2Proof

/-- An opcode of 05 Table 5.5. -/
def opcodeDefined (op : BitVec 8) : Bool := decide (1 ≤ op.toNat ∧ op.toNat ≤ 19)

/-- A payload of whole 32-byte units up to 8,192 bytes (13 R289). -/
def payloadOk (bs : List Byte) : Bool := decide (bs.length ≤ 8192 ∧ bs.length % 32 = 0)

/-- A packet of one type with a legal payload. -/
def pktOk (type : BitVec 4) (k : Pkt) : Bool := k.type == type && payloadOk k.payload

/-- A NOTICE of a kind: the first word of its payload (13 Table 13.5). -/
def noticeOk (kind : BitVec 8) (k : Pkt) : Bool :=
  pktOk 8 k && decide (32 ≤ k.payload.length) && k.payload.take 4 == [kind, 0#8, 0#8, 0#8]

/-- A message has one record count and one row length: its rows are those its records bring (13 R305). -/
def a2aOk (m : A2aMsg) : Bool :=
  (m.rows.all fun r => r.length == m.rowb.toNat) &&
    m.rows.length == (m.recs.map fun r => if r.refused then 0 else r.count.toNat).sum

/-- An MP segment carries at most 1,024 bytes inside TOTAL (14 R325). -/
def segmentOk (g : MpSegment) : Bool := decide (g.data.length ≤ 1024 ∧ g.ofs.toNat + g.data.length ≤ g.total.toNat)

/-- A frame has its two addresses and an EtherType (12 R274). -/
def frameOk (bs : List Byte) : Bool := decide (14 ≤ bs.length)

/-- A command that a sender can give. -/
def Instr.wf : Instr → Bool
  | .exchangeEpi _ l => l.cvt.extractLsb' 4 4 == 11
  | .routeReuse _ l => l.rfn == 0
  | .routeDispatch _ l => l.rfn != 1
  | .routeCombine _ l => l.rfn == 1
  | .send _ l => !(l.coll == 1 || l.coll == 3 || l.coll == 4 || l.coll == 5)
  | .sendReduceScatter _ l => l.coll == 1
  | .sendA2aReturn _ l => l.coll == 3
  | .sendBroadcast _ l => l.coll == 4
  | .permute _ l => l.coll == 5
  | .recv _ l => l.coll != 2
  | .recvAllGather _ l => l.coll == 2
  | .jump _ l => l.kind == 0 || l.kind == 7
  | .call _ l => l.kind == 1
  | .ret _ l => l.kind == 2
  | .loop _ l => l.kind == 3
  | .setlc _ l => l.kind == 4
  | .lossGuard _ l => l.kind == 5
  | .endStream _ l => l.kind == 6
  | .badOpcode _ op _ => !opcodeDefined op
  | .dataReceive k | .rsContributionReceive k | .gatherRequestReceive k => pktOk 1 k
  | .ackReceive k => pktOk 2 k && decide (32 ≤ k.payload.length)
  | .keepaliveReceive k => pktOk 3 k
  | .openReceive k _ => pktOk 4 k && decide (32 ≤ k.payload.length)
  | .openAckReceive k => pktOk 5 k && decide (32 ≤ k.payload.length)
  | .closeReceive k => pktOk 6 k && decide (32 ≤ k.payload.length)
  | .creditReceive k => pktOk 7 k && decide (32 ≤ k.payload.length)
  | .noticeSkip k => noticeOk 1 k
  | .noticeNorm k => noticeOk 2 k
  | .noticePeerLost k => noticeOk 3 k
  | .noticeReady k => noticeOk 4 k
  | .a2aMessageReceive m | .a2aReturnReceive m => a2aOk m
  | .mpRequestSegment g => segmentOk g
  | .frameReceive _ _ f _ => frameOk f
  | .meshParityRetry _ _ n _ => decide (1 ≤ n ∧ n ≤ 8)
  | .transferLanded _ _ d _ => decide (d.length ≤ 2 ^ 48)
  | _ => true

end Sys2Proof
end

