-- ==== Sys2Proof/Safety.lean ====
section
/-! DEFINITION. The terms in which claims speak of the machine: memories in canonical form, the order of the hot-swap
controller, and a state in which nothing waits. -/

namespace Sys2Proof.Machine

/-- Both byte memories of a core are in canonical form. -/
def CoreMem.Ok (m : CoreMem) : Prop := Memory.wf m.cs = true ∧ Memory.wf m.xb = true

/-- The HBM and the memories of every core are in canonical form. -/
def State.MemOk (s : State) : Prop := Memory.wf s.hbm.mem = true ∧ ∀ c : CoreId, (s.core c).mem.Ok

/-- The hot-swap controller is in order: it debounces and it is on only where 18 R411 to R413 let it, and the supplies
stand only behind a seated module whose switch is on or has been turned off by its input. -/
def State.HsOk (s : State) : Prop :=
  (s.hs.debouncing = true → s.hs.seated = true ∧ s.hs.on = false ∧ s.hs.uv = false ∧ s.hs.ov = false ∧ s.hs.latched = false ∧
    s.hs.pcycling = false) ∧
  (s.hs.on = true → s.hs.seated = true ∧ s.hs.ov = false ∧ s.hs.latched = false ∧ s.hs.pcycling = false) ∧
  (s.aon.supply ≠ .off → s.hs.seated = true ∧ s.hs.pcycling = false ∧
    (s.hs.on = true ∨ s.hs.ov = true ∨ s.hs.latched = true))

/-- No command of a core waits: none is held at decode and every command in flight has started. -/
def Core.still (k : Core) : Bool := k.ctl.hold.isNone && k.ctl.slots.all fun x => x.stage != .waiting

/-- Nothing of a core waits: no command, and no REUSE that has started (07 R140). -/
def State.coreStill (s : State) (c : CoreId) : Bool := (s.core c).still && (s.core c).ctl.slots.all fun x => !s.reuseWaits c x

/-- Nothing waits: no command of a core, no relayed message, no refusal, no transfer, no local message, no request for credit, no
response and no wait of a mailbox. -/
def State.still (s : State) : Bool :=
  (allCores.all fun c => s.coreStill c) && (s.reg.relayed.isEmpty && s.reg.relays.isEmpty && s.refusers.isEmpty) &&
    s.eng.localA2a.isEmpty && s.eng.xfers.isEmpty &&
    (s.qids.all fun q => match s.queue q with
      | some d => d.waiters.isEmpty
      | none => true) &&
    allMbs.all fun m => (s.mb m).owed.isNone && (match (s.mb m).busy with
      | some r => r.wait.isNone
      | none => true)

/-! ### A core that runs one command -/

/-- No word of a core's memories holds an error. -/
abbrev CoreMem.Clean (m : CoreMem) : Prop := m.csEcc = [] ∧ m.xbEcc = []

/-- Core `c` of partition `p` runs, nothing waits anywhere, the core has no command in flight, the line at its pc is no
selector line that must wait (08 R177), and the deadline in force has not passed. -/
abbrev State.Idle (s : State) (c : CoreId) (p : PartId) : Prop :=
  s.still = true ∧ (s.core c).part = some p ∧ (s.core c).ctl.stream = .running ∧ (s.core c).ctl.ending = false ∧
    (s.core c).ctl.slots = [] ∧ s.selWaits c = false ∧
    ((s.core c).ctl.deadline.all fun d => decide (s.now ≤ d.at_.toNat)) = true

/-- The escapement has taken a line (05 R94, R114): the pc has moved past it, and the command is in flight with what it
captured (05 R116). -/
def State.enter (s : State) (c : CoreId) (x : Line) : State :=
  s.modCtl c fun t => { t with pc := t.pc + 32, tokens := t.tokens + 1, slots := t.slots ++ [t.capture x] }

/-- The slot of a command that has finished with a report (05 R118). -/
def CoreCtl.finished (t : CoreCtl) (x : Line) (r : Report) (now : BitVec 64) : InFlight :=
  { t.capture x with
    stage := .done t.finCount, status := r.status, acc := BitVec.ofNat 8 r.acc, cvt := BitVec.ofNat 8 r.cvt,
    info0 := BitVec.ofNat 32 r.info0, info1 := BitVec.ofNat 64 r.info1, time := now }

/-- The partition's counters after a report: SCALE_RANGE and ACC_OVERFLOW follow its flags (03 R59). -/
def State.counted (s : State) (p : PartId) (r : Report) : State :=
  let a := if r.acc.testBit 3 then s.countPart p .scaleRange 1 else s
  if r.acc.testBit 1 then a.countPart p .accOverflow 1 else a

/-- Core `c` has decoded line `x`, run it and finished it with ST_OK and the report `r`; its memory is `m`. The pc is past the
line, one slot is in flight and has finished; apart from the partition's counters of the report's flags and what is said here, the
machine is as it was. -/
abbrev State.Ran (s t : State) (c : CoreId) (p : PartId) (x : Line) (r : Report) (m : CoreMem) : Prop :=
  r.status = stOk ∧
  t = { s.counted p r with cores := t.cores } ∧
  (∀ d : CoreId, d ≠ c → t.core d = s.core d) ∧
  t.core c = { s.core c with
    mem := m
    ctl := { (s.core c).ctl with
      pc := (s.core c).ctl.pc + 32
      tokens := (s.core c).ctl.tokens + 1
      finCount := (s.core c).ctl.finCount + 1
      slots := [(s.core c).ctl.finished x r s.aon.time] } }

/-- Core `c` of partition `p` can take line `x` at once: it runs, nothing waits anywhere, a slot and the line's TAG are free,
its slots are numbered below the next one, the line at its pc is no selector line that must wait, and the deadline in force has
not passed (05 R95, R97, R114). -/
abbrev State.Ready (s : State) (c : CoreId) (p : PartId) (x : Line) : Prop :=
  s.still = true ∧ (s.core c).part = some p ∧ (s.core c).ctl.stream = .running ∧ (s.core c).ctl.ending = false ∧
    (s.core c).ctl.slots.length < 64 ∧
    (∀ y ∈ (s.core c).ctl.slots, (lineHdr y.line).tag ≠ (lineHdr x).tag ∧ y.token < (s.core c).ctl.tokens) ∧
    s.selWaits c = false ∧ ((s.core c).ctl.deadline.all fun d => decide (s.now ≤ d.at_.toNat)) = true

/-- Core `c` has decoded line `x`, which completed at decode with report `r`: the pc is past the line, a slot holds the
finished command, the stream has halted if the status halts it (05 R95), and the control state then changed by `f`. The status
and the flags are counted in the partition; all else is as it was. -/
abbrev State.Decoded (s t : State) (c : CoreId) (p : PartId) (x : Line) (r : Report) (f : CoreCtl → CoreCtl) : Prop :=
  t = { (s.countStatus p r.status).counted p r with cores := t.cores } ∧
  (∀ d : CoreId, d ≠ c → t.core d = s.core d) ∧
  t.core c = { s.core c with
    ctl := f { (s.core c).ctl with
      stream := if haltsStream x r.status then .halted else (s.core c).ctl.stream
      pc := (s.core c).ctl.pc + 32
      tokens := (s.core c).ctl.tokens + 1
      finCount := (s.core c).ctl.finCount + 1
      slots := (s.core c).ctl.slots ++ [(s.core c).ctl.finished x r s.aon.time] } }

/-- Core `c` of partition `p` is idle, and no other core has a command in flight. -/
abbrev State.Lone (s : State) (c : CoreId) (p : PartId) : Prop :=
  s.Idle c p ∧ ∀ d : CoreId, d ≠ c → (s.core d).ctl.slots = []

/-- Once a core has gone on, what waits elsewhere goes on, and then everything once more. -/
def State.carryOn (s : State) : State :=
  let a := s.progressEngines
  (a.progressCores a.busyCores).progressEngines

/-- Store runs of bytes in turn. -/
def CoreMem.putRuns (m : CoreMem) : Runs → CoreMem
  | [] => m
  | r :: rs => CoreMem.putRuns (if r.1 then { m with xb := m.xb.writeN r.2.1 r.2.2 } else { m with cs := m.cs.writeN r.2.1 r.2.2 }) rs

/-- The candidates of row `r` of a RED (03 R65, R66): the running pair when the command continues one, then the row's
elements under their codes, E8 values and indexes. -/
def CoreMem.redCands (m : CoreMem) (l : RedLine) (f : Fmt) (r : Nat) : List Cand :=
  let scales := ceilDiv l.len.toNat 32
  let e8s := if l.bs then m.scales false (l.ssrc.toNat + r * planeLines scales) scales else []
  (if l.cont && (m.redRec.get none l.vreg.toNat).isSome then [m.running f l.vreg.toNat r] else []) ++
    (m.rowCodes false f (l.src.toNat + r * l.rstr.toNat) l.len.toNat).zipIdx.map fun x =>
      Cand.mk x.1 (e8s.getD (x.2 / 32) 0x7F) ((l.indexBase.toNat + x.2) % 2 ^ 32)

/-- The rows of an EPI, array by array (05 R102), with what they write, their flags and their largest magnitude. -/
def State.epiOut (s : State) (c : CoreId) (x : InFlight) (l : EpiLine) (n : Nat) (v : Cvt) : EpiOut :=
  let m := (s.core c).mem
  let w := fun o => ofB32 (natLE (m.csN (l.scl.toNat * 32 + o) 4))
  ((arraysOf l.amask).flatMap fun a => (List.range l.rows.toNat).map fun r => (a, r)).foldl
    (epiStep l v m n ((w 0).mul (w 4)) (w 8) (m.actTable l.tbl.toNat) fun j => x.rnd s .rounding l.tid.toNat j)
    ⟨[], 0, .zero, false, none⟩

/-- Between `s` and `t` only port `p` has changed. -/
abbrev State.OnlyPort (s t : State) (p : PortId) : Prop :=
  (∀ q : PortId, q ≠ p → t.port q = s.port q) ∧ t = { s with fabric := { s.fabric with ports := t.fabric.ports } }

/-- Between `s` and `t` only port `p` and the event log, which took one entry from that port, have changed. -/
abbrev State.OnlyPortLogged (s t : State) (p : PortId) (code : Nat) (arg : List Byte) : Prop :=
  (∀ q : PortId, q ≠ p → t.port q = s.port q) ∧
  t = { s with
    fabric := { s.fabric with ports := t.fabric.ports }
    reg := { s.reg with logs := s.reg.logs.write s.now code (36 + p.val) srcNone arg } }

/-- The frame of Direct link control that port `p` of this module sends, its flags those of port `q` (12 Table 12.5). -/
def State.dlcFrame (s : State) (p : PortId) (q : Port) (type : BitVec 8) (seq : BitVec 16) (lanes : BitVec 8) (amc : BitVec 32) :
    TxFrame :=
  ⟨1, srcRegulator, .dlc type ⟨s.moduleId, BitVec.ofNat 8 p.val, s.reg.assigned, q.stepEn, q.heard, seq, lanes, amc⟩, 0, false⟩

/-- A port with one frame more in the queue of its first sub-port. -/
def Port.withFrame (q : Port) (f : TxFrame) : Port := q.modSub 0 fun b => { b with txq := b.txq ++ [f] }

/-- The bytes a SEND sends: from the partition's HBM or from the store of its core (05 Table 5.15). -/
def State.sendBytes (s : State) (c : CoreId) (p : PartId) (l : SendLine) : List Byte :=
  if l.smem then s.hbm.readVa (s.part p) l.saddr.toNat l.count else (s.core c).mem.csN (l.saddr.toNat % 2 ^ 20 * 32) l.count

/-- Session `i` of partition `p` with module `m` is open and holds a credit for a message of `count` bytes to queue `dq` of that
module, which is not lost (10 R240, 13 R295). -/
abbrev State.HasCredit (s : State) (p : PartId) (m : BitVec 14) (dq : Qid) (count i : Nat) : Prop :=
  s.eng.lostMods.contains m = false ∧ s.findSess p m = some i ∧ ∃ d, s.sess i = some d ∧ d.opened = true ∧
    d.slotbs.get 0 dq.toNat ≠ refusedSlotb ∧ d.credits.get 0 dq.toNat ≠ 0 ∧
    (d.slotbs.get 0 dq.toNat = 0 ∨ count ≤ d.slotbs.get 0 dq.toNat)

/-- No byte of any memory holds an error: in the cores' memories and in HBM. -/
abbrev State.Sound (s : State) : Prop := (∀ d : CoreId, (s.core d).mem.Clean) ∧ s.hbm.ecc = []

/-! ### A packet that arrives -/

/-- The ports and the engines run, and packet `k` is whole, of a known header, and belongs to the open session `i`, whose state is `d`
(13 R290, R291, 15 R351). -/
abbrev State.Arrives (s : State) (k : Pkt) (i : Nat) (d : Session) : Prop :=
  s.portsRun = true ∧ k.tcrcOk = true ∧ k.ver = 1 ∧ k.sess.toNat = i ∧ i < 8192 ∧ s.sess i = some d ∧ d.opened = true ∧
    d.part = k.tpart ∧ d.peer = k.smod ∧ d.hostBit = k.host

/-- Its PSN is new and within the receive window of the session (13 R292), and it is none that waits for its refusal's own
acknowledgement (log 23). -/
abbrev Session.Fresh (d : Session) (k : Pkt) : Prop :=
  (k.psn - d.rxNext).toNat < 1024 ∧ d.rxGot.contains k.psn = false ∧ d.refuses k.psn = false

/-- What follows the act of an accepted packet: it is booked, the window sends what it allows, and what can go on goes on. -/
def State.booked (s : State) (i : Nat) (k : Pkt) : State := ((s.book i k).pumpAll i).settle

/-! ### A mailbox that executes a request -/

/-- Mailbox `m` holds request `r` with command code `cmd`, accepted and not yet executed, and no earlier request holds an object
it needs (14 R328, R330). -/
abbrev State.Asks (s : State) (m : MbId) (cmd : Nat) (r : MbReq) : Prop :=
  (s.mb m).busy = some r ∧ r.cmd.toNat = cmd ∧ r.wait = none ∧ s.objectBusy m r = false

/-- The request of mailbox `m` has completed with a status, INFO and a response payload (14 R327, R328, R336), and what waited
for it has gone on. -/
def State.answered (s : State) (m : MbId) (st : BitVec 16) (info : Nat) (payload : List Byte) : State :=
  (s.respond m st info payload).settle

end Sys2Proof.Machine

namespace Sys2Proof

/-- The core and the line that a stream row carries. -/
def Instr.lineOf : Instr → Option (CoreId × Line)
  | .ldw c l => some (c, .ldw l)
  | .mma c l => some (c, .mma l)
  | .dist c l => some (c, .dist l)
  | .red c l => some (c, .red l)
  | .epi c l | .exchangeEpi c l => some (c, .epi l)
  | .vec c l => some (c, .vec l)
  | .xpose c l => some (c, .xpose l)
  | .routeDispatch c l | .routeReuse c l | .routeCombine c l => some (c, .route l)
  | .send c l | .sendReduceScatter c l | .sendA2aReturn c l | .sendBroadcast c l | .permute c l => some (c, .send l)
  | .recv c l | .recvAllGather c l => some (c, .recv l)
  | .stash c l => some (c, .stash l)
  | .unstash c l => some (c, .unstash l)
  | .fence c l => some (c, .fence l)
  | .waitq c l => some (c, .waitq l)
  | .mark c l => some (c, .mark l)
  | .deadline c l => some (c, .deadline l)
  | .seed c l => some (c, .seed l)
  | .upd c l => some (c, .upd l)
  | .jump c l | .call c l | .ret c l | .loop c l | .setlc c l | .lossGuard c l | .endStream c l => some (c, .branch l)
  | .badOpcode c op h => some (c, .bad op h)
  | _ => none

/-- The commands that may turn the hot-swap switch or the supplies on or off, or write a register of the controller (18 R410 to
R413, 16 R372, R377). -/
def Instr.movesSwitch : Instr → Bool
  | .seatAssert | .debounceComplete | .seatDeassert | .vinPowerUp | .inputUndervoltage | .railsFall | .inputOvervoltage
  | .inputOvercurrent | .inputShortCircuit | .inputReturn | .pcycle | .pcycleRestart | .registerWrite _ _
  | .powerMeterSample _ _ | .thermShutdown _ | .suppliesValid => true
  | _ => false

/-- The packet that a transport row carries. -/
def Instr.packetOf : Instr → Option Pkt
  | .dataReceive k | .ackReceive k | .keepaliveReceive k | .openReceive k _ | .openAckReceive k | .closeReceive k
  | .creditReceive k | .noticeSkip k | .noticeNorm k | .noticePeerLost k | .noticeReady k | .rsContributionReceive k
  | .gatherRequestReceive k => some k
  | _ => none

/-- The TYPE of 13 Table 13.1 that a transport row fixes; 0 for every other row. -/
def Instr.packetType : Instr → BitVec 4
  | .dataReceive _ | .rsContributionReceive _ | .gatherRequestReceive _ => 1
  | .ackReceive _ => 2
  | .keepaliveReceive _ => 3
  | .openReceive _ _ => 4
  | .openAckReceive _ => 5
  | .closeReceive _ => 6
  | .creditReceive _ => 7
  | .noticeSkip _ | .noticeNorm _ | .noticePeerLost _ | .noticeReady _ => 8
  | _ => 0

/-- A line of an undefined opcode. -/
def Line.isBad : Line → Bool
  | .bad .. => true
  | _ => false

end Sys2Proof
end

