-- ==== Sys2Proof/Certificates/Slice0/Obligations.lean ====
section
/-! DEFINITION. The statements for the provers, one definition each; the docstrings name the rules of spec/. -/

open Sys2Proof Sys2Proof.Machine

/-- 02 R25 and R26. -/
def Obligations.ReservedCodesAreReadAndNeverWritten : Prop :=
  (∀ f : Fmt, f = .f8a ∨ f = .f8b → Fmt.decode f 0x80 = .nan ∧ ∀ (c : Nat) (e : Int), Fmt.decode f c ≠ .fin true 0 e) ∧
  Fmt.decode .f6 0x20 = .fin false 0 0 ∧ Fmt.decode .f4 8 = .fin false 0 0 ∧
  Fmt.decode .q8 0x80 = .zero ∧ Fmt.decode .q4 8 = .zero ∧
  (∀ c < 128, Fmt.decode .q8 c = .fin false c 0) ∧ (∀ c, 128 < c → c < 256 → Fmt.decode .q8 c = .fin true (256 - c) 0) ∧
  (∀ c < 8, Fmt.decode .q4 c = .fin false c 0) ∧ (∀ c, 8 < c → c < 16 → Fmt.decode .q4 c = .fin true (16 - c) 0) ∧
  let barred := fun (f : Fmt) => match f with
    | .q8 => 0x80
    | .q4 => 8
    | .f6 => 0x20
    | _ => 8
  let short := fun (f : Fmt) => f.isLong = false ∧ f ≠ .g8
  (∀ (f : Fmt) (rnd : Rnd) (satNan : Bool) (r : Nat) (x : Ext), f = .q8 ∨ f = .q4 ∨ f = .f6 ∨ f = .f4 →
    (narrow f rnd satNan r x).1 ≠ barred f) ∧
  (∀ (f : Fmt) (rnd : Rnd) (satNan : Bool) (r : Nat) (x : Ext), f = .f8a ∨ f = .f8b → (narrow f rnd satNan r x).1 = 0x80 →
    x.isFin = false ∨ (satNan = true ∧ (narrow f rnd satNan r x).2 = cfOverflow)) ∧
  (∀ (f : Fmt) (rnd : Rnd) (satNan : Bool) (xs : List Ext) (rs : List Nat), f = .q8 ∨ f = .q4 ∨ f = .f6 ∨ f = .f4 →
    ∀ c ∈ (convBlock f rnd satNan xs rs).2.1, c ≠ barred f) ∧
  (∀ (f : Fmt) (rnd : Rnd) (satNan : Bool) (xs : List Ext) (rs : List Nat),
    let b := convBlock f rnd satNan xs rs
    (f = .f8a ∨ f = .f8b → 0x80 ∈ b.2.1 →
      xs.any (fun x => !x.isFin || beyondB32 x) = true ∨ (satNan = true ∧ b.2.2.testBit 0 = true)) ∧
    (short f → (∀ c ∈ b.2.1, (Fmt.decode f c).isZero = true → c = 0) ∧
      ∀ i : Nat, xs.any (fun x => !x.isFin || beyondB32 x) = false → (xs.getD i .nan).isZero = true → b.2.1.getD i 1 = 0)) ∧
  ∀ (f : Fmt) (rnd : Rnd) (satNan : Bool) (r : Nat) (x : Ext), short f → (x.isZero = true ∨ (narrow f rnd satNan r x).2 = cfUnderflow) →
    (narrow f rnd satNan r x).1 = 0

/-- 03 R49. -/
def Obligations.CoreResetZeroesTheTiles : Prop :=
  let zeroed := fun (m : CoreMem) => ∀ n : Nat, m.entry n = ⟨0, 0, false⟩ ∧ m.tileOfs n = 0
  (∀ (k : Core) (u : Bool), zeroed k.afterReset.mem ∧ zeroed (k.cleared u).mem ∧ zeroed k.mem.retain) ∧
  ∀ s : State, s.still = true → s.powered = true → s.aon.inReset = false → s.aon.mstate = .booting → s.aon.quiescing = none →
    s.aon.group = 4 → s.aon.hbmTested = true → ∃ t, exec .groupRelease s = .next t ∧ t.aon.group = 5 ∧
      ∀ c : CoreId, zeroed (t.core c).mem

/-- A step is `exec` of the command at the front on the state with the queue's rest; an empty queue ticks (model's choice, log 5). -/
def Obligations.StepRunsTheFrontCommand : Prop :=
  (∀ (c : Instr) (cs : List Instr) (s : State), s.pending = c :: cs → step s = exec c { s with pending := cs }) ∧
  ∀ s : State, s.pending = [] → step s = .next s.tick

/-- No command ends in a fault or a refusal, and none touches the queue of waiting commands. -/
def Obligations.EveryCommandCompletesAndKeepsTheQueue : Prop :=
  (∀ (c : Instr) (s : State), ∃ t : State, exec c s = .next t ∧ t.pending = s.pending) ∧
  ∀ s : State, s.tick.pending = s.pending

/-- The invariant of memory: every step keeps the canonical form of the HBM and of the memories of all 24 cores. -/
def Obligations.MemoryStaysCanonical : Prop :=
  ∀ s t : State, s.MemOk → step s = .next t → t.MemOk

/-- The invariant of the hot-swap controller, from 18 Tables 18.7 and 18.8. -/
def Obligations.HotSwapStaysInOrder : Prop :=
  ∀ s t : State, s.HsOk → step s = .next t → t.HsOk

/-- The invariants hold at reset. -/
def Obligations.ResetMeetsTheInvariants : Prop :=
  State.reset.MemOk ∧ State.reset.HsOk ∧ State.reset.still = true ∧ State.reset.pending = [] ∧ State.reset.fuses.arcCount = 0

/-- 15 R366: fuses are only blown, in ascending order. -/
def Obligations.FusesOnlyBlow : Prop :=
  ∀ s t : State, step s = .next t →
    (∀ i : Nat, s.fuses.arc.getLsbD i = true → t.fuses.arc.getLsbD i = true) ∧
    s.fuses.arcCount ≤ t.fuses.arcCount ∧
    t.fuses = { s.fuses with arc := t.fuses.arc } ∧
    (s.fuses.arc = BitVec.ofNat 64 (2 ^ s.fuses.arcCount - 1) → t.fuses.arc = BitVec.ofNat 64 (2 ^ t.fuses.arcCount - 1))

/-- The commands that may change the hot-swap controller or the supplies. -/
def Obligations.OnlyInputCommandsMoveTheSwitch : Prop :=
  ∀ (c : Instr) (s t : State), c.movesSwitch = false → exec c s = .next t →
    t.hs = s.hs ∧ t.aon.supply = s.aon.supply

/-- Decode and encode agree on every command line. -/
def Obligations.LinesDecodeToWhatWasEncoded : Prop :=
  ∀ x : Line, opcodeDefined (lineOpcode x) = !x.isBad → lineOfBytes (lineBytes x) = x ∧ (lineBytes x).length = 32

/-- A few lines written out from the tables. -/
def Obligations.WrittenOutLinesDecode : Prop :=
  decodeLine (0#188 ++ 0x12345#20 ++ 0#1 ++ 0#1 ++ 0#1 ++ 3#4 ++ 9#4 ++ 1#2 ++ 1#1 ++ 1#2 ++ 0#6 ++ 0#1 ++ 1#1 ++ 0x0102#16 ++ 1#8) =
    .ldw ⟨⟨0x0102, true, false⟩, 1, true, 1, 9, 3, false, false, false, 0x12345, 0⟩ ∧
  decodeLine (0#214 ++ 2#2 ++ 0#1 ++ 0x41#7 ++ 0#6 ++ 1#1 ++ 0#1 ++ 7#16 ++ 13#8) = .fence ⟨⟨7, false, true⟩, 0x41, 2⟩ ∧
  decodeLine (0#155 ++ 1000#32 ++ 1#1 ++ 5#16 ++ 0xABCDE#20 ++ 0#8 ++ 9#16 ++ 14#8) =
    .waitq ⟨⟨9, false, false⟩, 0xABCDE, 5, true, 1000⟩ ∧
  decodeLine (0#118 ++ 0#20 ++ 0#32 ++ 0x123456780#48 ++ 0#3 ++ 1#3 ++ 0#8 ++ 3#16 ++ 19#8) =
    .branch ⟨⟨3, false, false⟩, 1, 0, 0x123456780, 0, 0⟩

/-- 05 R99, 04 R74, R76: what LDW leaves in the bank, and its frame. -/
def Obligations.LdwRecordsTheImage : Prop :=
  ∀ (s : State) (c : CoreId) (p : PartId) (l : LdwLine) (h : Shape), s.Idle c p → (s.core c).mem.Clean →
    s.checkLdw c l = none → ldwShape l = some h →
    let k := l.bskip.toNat
    let bytes := (s.core c).mem.read (Span.lines l.wsrc l.img.toNat (h.imageBytes k / 32))
    let elem := bytes.take (h.eb k)
    let pos := (bytes.drop (h.eb k)).take (h.mbLen k)
    let bsc := bytes.drop (h.eb k + h.mbLen k)
    (l.sparse = true → Tile.sparseOk ⟨h, k, natLE elem, natLE pos, natLE bsc⟩ = true) →
    ∃ t : State, exec (.ldw c l) s = .next t ∧
      s.Ran t c p (.ldw l) Report.ok ((s.core c).mem.setBank l.arr.toNat l.bank.toNat
        ⟨true, l.form, l.wfmt, l.afmt, l.sparse, l.wbs, l.bskip, elem, pos, bsc⟩)

/-- 05 R100 with 03 R48 to R56 and 04 R70 to R85: the value of every entry after MMA or DIST, and the frame. -/
def Obligations.MmaAndDistAccumulate : Prop :=
  ∀ (s : State) (c : CoreId) (p : PartId) (dist : Bool) (l : MmaLine) (h : Shape) (f : Fmt),
    let m := (s.core c).mem
    let inRegion := fun (a e : Nat) => a ∈ arraysOf l.amask ∧ e < l.rows.toNat * h.n
    s.Idle c p → m.Clean → s.checkMma c dist l = none → mmaShape l = some h → Fmt.ofCode l.afmt = some f →
    (l.stream = false → ∀ a ∈ arraysOf l.amask, bankCheck dist l (m.bank a (l.bankOf a)) = none) →
    (l.acc = true → m.ofsDiffers l h.n = false ∧ ∀ a e, inRegion a e → (m.entry (regionKey a l.tile.toNat e)).bad = false) →
    ∃ (t : State) (r : Report) (w : CoreMem),
      exec (if dist then .dist c l else .mma c l) s = .next t ∧
      (if l.stream then { s with free := s.free + 2 ^ 24 } else s).Ran t c p (if dist then .dist l else .mma l) r w ∧ r.cvt = 0 ∧ r.info0 = 0 ∧ r.info1 = 0 ∧
      (∀ j ∈ m.jobs l h, ∀ i n : Nat, i < l.rows.toNat → n < h.n →
        w.entry (regionKey j.a l.tile.toNat (i * h.n + n)) =
          (let old := m.entry (regionKey j.a l.tile.toNat (i * h.n + n))
           if (j.skipAll && l.acc) = true then old
           else (AccEntry.update l.acc old
            (entryUpdate dist l f j.scaled l.wofs.toInt j.cols h.kl (m.actRow l f h i) n l.tiles).1).1)) ∧
      (∀ a n : Nat, a ∈ arraysOf l.amask → n < regionTiles l.rows.toNat h.n → w.tileOfs (tileKey a (l.tile.toNat + n)) = l.wofs) ∧
      (∀ k : Nat, (∀ a e, inRegion a e → k ≠ regionKey a l.tile.toNat e) → w.entry k = m.entry k) ∧
      (∀ k : Nat, (∀ a n, a ∈ arraysOf l.amask → n < regionTiles l.rows.toNat h.n → k ≠ tileKey a (l.tile.toNat + n)) →
        w.tileOfs k = m.tileOfs k) ∧
      w.banks = (if l.stream then (m.staged s.free (arraysOf l.amask)).banks else m.banks) ∧
      w = { m with acc := w.acc, ofs := w.ofs, banks := w.banks }

/-- 03 R64 to R66, 05 R101: the result of RED and its frame. -/
def Obligations.RedWritesTheWinners : Prop :=
  ∀ (s : State) (c : CoreId) (p : PartId) (l : RedLine) (f : Fmt),
    let m := (s.core c).mem
    let won := fun (r : Nat) => (winner f l.bs l.mode (m.redCands l f r)).getD ⟨0, 0x7F, 0⟩
    s.Idle c p → m.Clean → s.checkRed l = none → Fmt.ofCode l.fmt = some f →
    (l.cont = true → ∀ g b, m.redRec.get none l.vreg.toNat = some (g, b) → g = l.fmt ∧ b = l.bs) →
    ∃ (t : State) (w : CoreMem),
      exec (.red c l) s = .next t ∧ s.Ran t c p (.red l) Report.ok w ∧
      (∀ r : Nat, r < l.rows.toNat →
        w.lane (l.vreg.toNat * 512 + r) = BitVec.ofNat 32 (winWord f l.bs (won r)) ∧
        w.lane ((l.vreg.toNat + 1) * 512 + r) = BitVec.ofNat 32 (won r).index) ∧
      (∀ g : Nat, (∀ r, r < l.rows.toNat → g ≠ l.vreg.toNat * 512 + r ∧ g ≠ (l.vreg.toNat + 1) * 512 + r) →
        w.lane g = m.lane g) ∧
      w.cs = (if l.wb then m.cs.writeN (l.dst.toNat * 32)
          ((List.range l.rows.toNat).flatMap fun r => bytesLE 4 (winWord f l.bs (won r)) ++ bytesLE 4 (won r).index)
        else m.cs) ∧
      w.redRec = m.redRec.set none l.vreg.toNat (some (l.fmt, l.bs)) ∧
      w = { m with cs := w.cs, vr := w.vr, redRec := w.redRec }

/-- 05 R103, 06 R121 to R128, R135: the result of VEC and its frame. -/
def Obligations.VecWritesItsResult : Prop :=
  ∀ (s : State) (c : CoreId) (p : PartId) (l : VecLine) (q : Cvt),
    let m := (s.core c).mem
    let x := (s.core c).ctl.capture (.vec l)
    let f := (Fmt.ofCode l.sfmt).getD .b32
    let n := l.len.toNat
    let as := if vopUsesS1 l.vop.toNat then m.vecSrc l.s1k l.s1 f n else []
    let bs := if vopUsesS2 l.vop.toNat then m.vecSrc l.s2k l.s2 f n else []
    let ys := vecResult l as bs fun z j => x.rnd s z l.tid.toNat j
    let rs := if q.rnd == .sr then (List.range ys.length).map fun j => x.rnd s .rounding l.tid.toNat (l.ebase.toNat + j) else []
    let b := if q.rnd == .sr || l.vop.toNat == 0x20 || l.vop.toNat == 0x21 then s.spend x else s
    s.Idle c p → m.Clean → s.checkVec l = none → Cvt.ofByte l.cvt = some q →
    ∃ t : State, exec (.vec c l) s = .next t ∧
      if l.dk then
        b.Ran t c p (.vec l) ⟨stOk, 0, (convRun q ys rs).2, 0, 0⟩
          (m.setLanes ((l.d.toNat % 32) * 512) ((convRun q ys rs).1.map (BitVec.ofNat 32 ·)))
      else
        b.Ran t c p (.vec l) ⟨stOk, 0, (runOut q l.d.toNat ys rs).2, 0, 0⟩ (m.putRuns (runOut q l.d.toNat ys rs).1)

/-- 05 R104, 08 R164, R165: the result of XPOSE and its frame. -/
def Obligations.XposeTransposes : Prop :=
  ∀ (s : State) (c : CoreId) (p : PartId) (l : XposeLine) (f : Fmt),
    let m := (s.core c).mem
    let r := l.rows.toNat
    let k := l.cols.toNat
    let lines := rowLines f r
    s.Idle c p → m.Clean → s.checkXpose l = none → Fmt.ofCode l.fmt = some f →
    ∃ t : State, exec (.xpose c l) s = .next t ∧
      s.Ran t c p (.xpose l) Report.ok (m.putRuns
        ((List.range k).map (fun j => (true, (l.dst.toNat + j * lines) * 32, padTo (lines * 32) (pack f.bits
            ((List.range r).map fun i => (m.rowCodes false f (l.src.toNat + i * l.srstr.toNat) k).getD j 0)))) ++
          if l.sq then (List.range k).map fun j => (true, (l.dsc.toNat + j) * 32, padTo 32
            ((List.range (r / 32)).map fun b => BitVec.ofNat 8
              ((m.scales false (l.ssc.toNat + b * planeLines (k / 32)) (k / 32)).getD (j / 32) 0)))
          else []))

/-- 05 R102, 06 R129 to R134, 09 R192, R193: the result of an EPI and its frame. -/
def Obligations.EpiDrainsItsRegion : Prop :=
  ∀ (s : State) (c : CoreId) (p : PartId) (exchange : Bool) (l : EpiLine) (n : Nat) (v : Cvt),
    let i : Instr := if exchange then .exchangeEpi c l else .epi c l
    let m := (s.core c).mem
    let x := (s.core c).ctl.capture (.epi l)
    let o := s.epiOut c x l n v
    let b := (s.spend x).mergeAmax p l.amxEn l.amx.toNat (x.amaxStep s) (upB32 o.amax) o.nan
    i.wf = true → s.Idle c p → m.Clean → s.checkEpi c l = none → formN l.form = some n → Cvt.ofByte l.cvt = some v →
    o.bad = none → s.amaxWaits p x = false →
    ∃ t : State, exec i s = .next t ∧
      b.Ran t c p (.epi l) ⟨stOk, 0, o.flags, 0, 0⟩ (m.putRuns o.runs)

/-- 05 R112, 09 R197, R198: the effect of UPD and its frame. That the engine keeps the 16 newest steps of UPDs (`known`) is the model's
choice (log 48). -/
def Obligations.UpdWritesTheGroups : Prop :=
  ∀ (s : State) (c : CoreId) (p : PartId) (l : UpdLine),
    let u := (s.part p).ue
    let cases := l.groups.map fun g => (g, u.updCase (s.sumSteps p) (u.group g) l.step)
    s.Idle c p → s.checkUpd p l = none → (∀ e ∈ cases, e.2 ≠ .bad ∧ e.2 ≠ .wait) →
    ∃ (t : State) (gs : Smap UpdGroup), exec (.upd c l) s = .next t ∧
      (s.modUe p fun u => { u with groups := gs, known := l.step :: (u.known.filter (· != l.step)).take 15 }).Ran t c p (.upd l)
        Report.ok (s.core c).mem ∧
      (∀ e ∈ cases, ∀ g, e.2 = .write g →
        gs.get UpdGroup.reset e.1 = l.coefs.foldl (fun a v => a.write l.step v.1 v.2) g) ∧
      (∀ n : Nat, (∀ e ∈ cases, ∀ g, e.2 = .write g → e.1 ≠ n) → gs.get UpdGroup.reset n = u.groups.get UpdGroup.reset n)

/-- 05 R107, 08 R179, R180: the effect of STASH and its frame. 05 R107, 08 R181: UNSTASH, with its frame. That the bytes count against a
real-time partition's shares (`charge`) over a window is the model's choice (log 80). -/
def Obligations.StashCopiesAndUnstashReturns : Prop :=
  (∀ (s : State) (c : CoreId) (p : PartId) (l : StashLine),
     let k := (s.core c).stash
     let id := l.sid.extractLsb' 0 23
     let z := roundUp l.len.toNat 256
     let limit := if l.sid.getLsbD 23 then (s.stashShares p).1 else (s.stashShares p).2
     s.Idle c p → (s.core c).mem.Clean → s.hbm.ecc = [] → s.checkStash p false l = none → k.releaseDue = [] →
     (∀ e ∈ k.dir, e.id ≠ id) → k.dir.length < 8192 →
     ∃ t : State, exec (.stash c l) s = .next t ∧
       if k.fill + z ≤ limit then
         (((s.modStash c fun q => { q with
           fill := k.fill + z
           dir := k.dir ++ [⟨id, l.len, true, k.fill⟩]
           bytes := k.bytes.writeN k.fill ((s.core c).mem.csN (l.csa.toNat * 32) l.len.toNat) }).stashPeak p (k.fill + z)).charge
             p (.stash l)).Ran t c p (.stash l) Report.ok (s.core c).mem
       else
         (((s.modStash c fun q => { q with dir := k.dir ++ [⟨id, l.len, false, 0⟩] }).countPart p .stashDiscard 1).charge
           p (.stash l)).Ran t c p (.stash l) Report.ok (s.core c).mem) ∧
  (∀ (s : State) (c : CoreId) (p : PartId) (l : StashLine) (e : StashEntry), s.Idle c p → (s.core c).mem.Clean →
     s.hbm.ecc = [] → s.checkStash p true l = none → (s.core c).stash.releaseDue = [] →
     (s.core c).stash.dir.find? (fun e => e.id == l.sid.extractLsb' 0 23) = some e → e.len = l.len →
     ∃ t, exec (.unstash c l) s = .next t ∧
       (e.present = true → (s.charge p (.unstash l)).Ran t c p (.unstash l) Report.ok ((s.core c).mem.putRuns
         [(false, l.csa.toNat * 32, Mem.readN (s.core c).stash.bytes e.off l.len.toNat)])) ∧
       (e.present = false → l.rseg ≠ 0 → (s.core c).ctl.stack.length < 16 →
         (s.countPart p .stashRecompute 1).Decoded t c p (.unstash l) ⟨stOk, 0, 0, 1, 0⟩ fun k =>
           { k with stack := k.pc :: k.stack, pc := l.rseg }))

/-- 05 R113, Table 5.25: the branches that resolve at decode, with their frame. 05 R113, 09 R213: LOSS_GUARD, with its frame. 05 R95, R96: the statuses that halt a stream, with their frame. -/
def Obligations.BranchesSteerTheStream : Prop :=
  (∀ (s : State) (c : CoreId) (p : PartId) (l : BranchLine),
     let line := fun (kind : BitVec 3) => Line.branch { l with kind := kind }
     let i := l.lci.toNat
     s.Ready c p (.branch l) →
     (s.checkVa p l.target.toNat 32 .x = none →
       (∃ t, exec (.jump c { l with kind := 0 }) s = .next t ∧
         s.Decoded t c p (line 0) Report.ok fun k => { k with pc := l.target }) ∧
       ((s.core c).ctl.stack.length < 16 → ∃ t, exec (.call c l) s = .next t ∧
         s.Decoded t c p (line 1) Report.ok fun k => { k with stack := k.pc :: k.stack, pc := l.target }) ∧
       ∃ t, exec (.loop c l) s = .next t ∧
         s.Decoded t c p (line 3) Report.ok fun k => { k with
           lc := k.lc.set 0#32 i (k.lc.get 0#32 i - 1)
           pc := if k.lc.get 0#32 i - 1 = 0 then k.pc else l.target }) ∧
     (∀ a rest, (s.core c).ctl.stack = a :: rest → ∃ t, exec (.ret c l) s = .next t ∧
       s.Decoded t c p (line 2) Report.ok fun k => { k with stack := rest, pc := a }) ∧
     (∃ t, exec (.setlc c l) s = .next t ∧
       s.Decoded t c p (line 4) Report.ok fun k => { k with lc := k.lc.set 0#32 i l.cnt }) ∧
     ∃ t, exec (.endStream c l) s = .next t ∧
       s.Decoded t c p (line 6) Report.ok fun k => { k with ending := true }) ∧
  (∀ (s : State) (c : CoreId) (p : PartId) (l : BranchLine),
     let finite := (ofB32 (natLE ((s.core c).mem.csN (l.laddr.toNat * 32) 4))).isFin
     let a := match (s.core c).ctl.seed with
       | some k => if finite then s else s.lossSkip p k.step
       | none => s
     s.Idle c p → (s.core c).mem.Clean → s.checkVa p l.target.toNat 32 .x = none → l.laddr.toNat < csLines → a.eng = s.eng →
     ∃ t : State, exec (.lossGuard c l) s = .next t ∧
       a.Decoded t c p (.branch { l with kind := 5 })
         ⟨stOk, 0, 0, if finite then 0 else 1, 0⟩ fun k => if finite then k else { k with pc := l.target }) ∧
  (∀ (s : State) (c : CoreId) (p : PartId),
     (∀ (op : BitVec 8) (h : Hdr), opcodeDefined op = false → s.Ready c p (.bad op h) →
       ∃ t, exec (.badOpcode c op h) s = .next t ∧ (t.core c).ctl.stream = .halted ∧
         s.Decoded t c p (.bad op h) (Report.bad stBadOpcode 0) id) ∧
     (s.Idle c p →
       ∃ t, exec (.fetchError c) s = .next t ∧ (t.core c).ctl.stream = .halted ∧
         s.Decoded t c p (.bad 0 ⟨0, false, false⟩) (Report.bad stFetchError 0) fun k => { k with pc := (s.core c).ctl.pc }))

/-- 05 R111, R112, 08 R182: SEED and DEADLINE, with their frame. 05 R110, 10 R230, 16 R385: MARK, with its frame and its trace record.
That the update engine keeps the newest 16 SEEDs of the lowest core is the model's choice (log 48, DEDUCED; 09 R201 gives no number). -/
def Obligations.SeedDeadlineAndMarkTakeEffectAtDecode : Prop :=
  (∀ (s : State) (c : CoreId) (p : PartId),
     (∀ l : SeedLine, s.Ready c p (.seed l) →
       let due := match (s.core c).stash.seedStep with
         | some k => k != l.step
         | none => false
       let a := s.modStash c fun q => { q with
         seedStep := some l.step, releaseDue := if due then q.releaseDue ++ [(s.core c).ctl.tokens] else q.releaseDue }
       let b := if (s.coresOf p).head? = some c then a.modUe p fun u => { u with seeds := ⟨l.seed, l.step⟩ :: u.seeds.take 15 } else a
       ∃ t, exec (.seed c l) s = .next t ∧
         b.Decoded t c p (.seed l) Report.ok fun k => { k with
           seed := some ⟨l.seed, l.step⟩
           seedQ := seedQueued k.seedQ (s.part p).amaxStep (s.core c).ctl.tokens l.step }) ∧
     ∀ l : DeadlineLine, s.Ready c p (.deadline l) → s.isRt p = true → l.mode ≠ 3 → (l.mode = 1 → l.dl.toNat < 2 ^ 32) →
       ∃ t, exec (.deadline c l) s = .next t ∧
         s.Decoded t c p (.deadline l) Report.ok fun k => { k with deadline :=
           (if l.mode = 0 then some ⟨l.dl, l.qid⟩ else if l.mode = 1 then some ⟨k.latch + l.dl, l.qid⟩ else none) }) ∧
  (∀ (s : State) (c : CoreId) (p : PartId) (l : MarkLine), s.Ready c p (.mark l) → l.phase ≠ 3 →
     (l.pdn = 0 ∨ l.pdl.toNat % 32 = 0 ∧ ((s.core c).stash.lists.filter fun q => q.next == 0).length < 4) →
     let k := (s.core c).ctl
     let traced := l.trace && (match k.traceTime with
       | some z => decide (z.toNat + 1000 ≤ s.now)
       | none => true)
     let step := match k.seed with
       | some d => d.step
       | none => 0
     let r : TraceRec := ⟨s.aon.time, BitVec.ofNat 8 (originByte c.val p.val), ⟨l.layer, l.mb, l.phase⟩, step, s.reg.logs.traceSeq,
       BitVec.ofNat 32 (min k.traceStall (2 ^ 32 - 1)), BitVec.ofNat 32 (k.tokens + 1 - k.traceLines)⟩
     let a := if l.pdn = 0 then s else s.modStash c fun k => { k with lists := k.lists ++ [⟨p, l.pdl, 0, l.pdn.toNat, false⟩] }
     let b := if traced then a.modReg fun g => { g with logs := { g.logs with
       trace := (r :: g.logs.trace).take 2097152, traceSeq := g.logs.traceSeq + 1 } } else a
     ∃ t, exec (.mark c l) s = .next t ∧
       b.Decoded t c p (.mark l) Report.ok fun k => { k with
         mark := ⟨l.layer, l.mb, l.phase⟩
         traceTime := if traced then some s.aon.time else k.traceTime
         traceStall := if traced then 0 else k.traceStall
         traceLines := if traced then k.tokens else k.traceLines })

/-- 05 R108, Table 5.19: FENCE, with its frame. 05 R109, 10 R224: WAITQ, with its frame; an item that its queue has released already
is what the core has kept of it, or holds nothing (the model's choice, log 51). -/
def Obligations.FenceAndWaitqHoldOrComplete : Prop :=
  (∀ (s : State) (c : CoreId) (p : PartId) (l : FenceLine), s.Ready c p (.fence l) → l.cmask ≠ 0 → l.scope ≠ 3 →
     ∃ t, exec (.fence c l) s = .next t ∧
       if fenceWaits l.cmask (s.core c).ctl.slots then
         t = s.modCtl c fun k => { k with
           pc := k.pc + 32, tokens := k.tokens + 1, hold := some (k.capture (.fence l), s.aon.time) }
       else s.Decoded t c p (.fence l) Report.ok id) ∧
  (∀ (s : State) (c : CoreId) (p : PartId) (l : WaitqLine) (q : Queue), s.Ready c p (.waitq l) → s.queue l.qid = some q →
     q.part = p → (q.isPf = true → q.cmask.getLsbD c.val = true) → l.qid ∈ s.eng.qcache →
     ∃ t, exec (.waitq c l) s = .next t ∧
       match (if l.cond then q.waitItem else q.waitSeq l.seq.toNat) with
       | some d =>
         let pos := q.seqPos l.seq.toNat
         let kept := fun (n : Nat) => match q.item n, (s.core c).ctl.item with
           | some i, _ => i
           | none, some (z, i) => if z = l.qid ∧ i.n = n then i else Item.fresh n
           | none, none => Item.fresh n
         let item := if l.cond then some (l.qid, kept (d.pos.getD 0)) else if pos = 0 then none else some (l.qid, kept (pos - 1))
         (s.setQueue l.qid d.q).Decoded t c p (.waitq l)
           ⟨stOk, 0, 0, d.q.dseq, if l.cond then q.slotOf (d.pos.getD 0) else 0⟩ fun k => { k with latch := d.ts, item := item }
       | none => t = (if l.cond then s.passOver l.qid else s).modCtl c fun k => { k with
           pc := k.pc + 32, tokens := k.tokens + 1, hold := some (k.capture (.waitq l), s.aon.time) })

/-- 05 R106, R425, 10 R228, R240, 13 R295, 14 R326: SEND point to point. 05 R106, 10 R224, R240: RECV. What a transfer moves counts
against a real-time partition's shares (`charge`, 01 R16; over a window, the model's choice, log 80). -/
def Obligations.SendAndRecvMoveTheirMessages : Prop :=
  (∀ (s : State) (c : CoreId) (p : PartId) (l : SendLine),
     let bs := s.sendBytes c p l
     let e := s.enter c (.send l)
     let tok := (s.core c).ctl.tokens
     s.Lone c p → s.Sound → s.checkSend c p l = none → l.coll = 0 → (s.cgroupOf p l.cgrp).any (·.lost) = false →
     (∀ q : Queue, l.dmod = s.moduleId → isMbQueue l.dq = false → s.queue l.dq = some q → q.part = p →
       l.dq ∈ s.eng.qcache →
       (q.isJq = true → l.count = 16 → q.room = true → (s.writeQueue q (q.recOff q.ppos) bs).1 = true →
         let b := (s.writeQueue q (q.recOff q.ppos) bs).2.setQueue l.dq (Queue.tidy { q with
           ppos := q.ppos + 1, cpos := q.cpos + 1, lastTs := s.aon.time
           items := q.items ++ [({ Item.fresh q.ppos with
             closed := true, full := true, passed := true, bytes := 16, ts := s.aon.time, cancelled := decide (q.ppos < q.dpos) })] })
         ∃ t, exec (.send c l) s = .next t ∧ (b.charge p (.send l)).Ran t c p (.send l) Report.ok (b.core c).mem) ∧
       (q.isRxp = true → q.slotted = true → l.count ≤ q.slotb → q.room = true → q.canGrant = true → q.slotFree q.ppos = true →
         (s.writeQueue q (q.slotOff q.ppos) bs).1 = true →
         let b := (s.writeQueue q (q.slotOff q.ppos) bs).2.setQueue l.dq { q with
           ppos := q.ppos + 1, grants := q.grants + 1
           items := q.items ++ [({ Item.fresh q.ppos with
             closed := true, full := true, bytes := bs.length, src := some s.moduleId, ts := s.aon.time
             cancelled := decide (q.ppos < q.dpos) })] }
         ∃ t, exec (.send c l) s = .next t ∧ (b.charge p (.send l)).Ran t c p (.send l) Report.ok (b.core c).mem)) ∧
     (l.dmod = s.moduleId → l.dq.toNat = 0xFFFF1 + p.val →
       exec (.send c l) s =
         .next (((e.deliverRequest (Fin.ofNat 16 (p.val + 1)) (.stream c) bs).complete c tok Report.ok).charge p (.send l)).carryOn) ∧
     ∀ i : Nat, l.dmod ≠ s.moduleId → s.HasCredit p l.dmod l.dq l.count i →
       let w := e.sendCredited i l.dq 0 l.cgrp l.fmt bs
       exec (.send c l) s =
         .next (((w.2.addXfer ⟨c, tok, p, none, [l.dmod], [(i, w.1)], [], false, none, []⟩).startSlot c tok).charge p (.send l)).carryOn) ∧
  (∀ (s : State) (c : CoreId) (p : PartId) (l : RecvLine) (q : Queue),
     let e := s.enter c (.recv l)
     let tok := (s.core c).ctl.tokens
     s.Lone c p → s.Sound → s.checkRecv c p l = none → l.coll = 0 → (s.cgroupOf p l.cgrp).any (·.lost) = false → (l.sany = true ∨ s.eng.lostMods.contains l.smod = false) →
     s.queue l.sq = some q → q.isRxp = true → q.part = p → isMbQueue l.sq = false → l.sq ∈ s.eng.qcache →
     (q.posted = true → q.room = true → (∀ i ∈ q.items, i.recv ≠ some (c, tok)) →
       exec (.recv c l) s = .next (((e.setQueue l.sq { q with
         ppos := q.ppos + 1
         items := q.items ++ [({ Item.fresh q.ppos with
           recv := some (c, tok), ts := s.aon.time, cancelled := decide (q.ppos < q.dpos) })] }).startSlot c tok).charge
             p (.recv l))) ∧
     ∀ i : Item, q.posted = false → q.pendingItem = some i → (l.sany = true ∨ i.src = some l.smod) → l.rfmt = l.dfmt →
       i.bytes ≤ l.count → l.dmem = false →
       (q.memCs = false → (s.part p).checkRange (q.base.toNat + q.slotOff i.n) i.bytes .r = none) →
       let bs := s.readQueue q (some c) (q.slotOff i.n) i.bytes
       let b := s.setQueue l.sq (Queue.tidy { q with dpos := i.n + 1 })
       ∃ t, exec (.recv c l) s = .next t ∧
         (b.charge p (.recv l)).Ran t c p (.recv l) ⟨stOk, 0, 0, i.bytes % 2 ^ 32, i.bytes / 2 ^ 32⟩
           ((s.core c).mem.putRuns [(false, l.daddr.toNat % 2 ^ 20 * 32, bs)]))

/-- 13 R299, R307, R308, R310: the collective SENDs. A contribution to a shard of this module is taken packet by packet, and one that
finds no context is offered again (log 50); what a transfer moves counts against a real-time partition's shares (log 80). -/
def Obligations.CollectiveSendsGoOut : Prop :=
  ∀ (s : State) (c : CoreId) (p : PartId) (l : SendLine) (g : CGroup),
    let bs := s.sendBytes c p l
    let tok := (s.core c).ctl.tokens
    let line := fun (coll : BitVec 3) => { l with coll := coll }
    let e := fun (coll : BitVec 3) => s.enter c (.send (line coll))
    let begun := fun (coll : BitVec 3) (x : Xfer) (t : State) => (((t.addXfer x).startSlot c tok).charge p (.send (line coll))).carryOn
    s.Lone c p → s.Sound → s.cgroupOf p l.cgrp = some g → g.lost = false →
    (∀ (x : ExchEnt) (k : SeedReg), s.checkSend c p (line 1) = none → s.exchOf p l.dq = some x → (s.core c).ctl.seed = some k →
      s.eng.lostMods.contains x.owner = false →
      (∀ i d, x.owner ≠ s.moduleId → s.findSess p x.owner = some i → s.sess i = some d →
        let w := (e 1).sendList i fun m => rsPackets { m with
          dq := BitVec.ofNat 20 x.shard.toNat, coll := 1, cgrp := l.cgrp, fmt := l.fmt, step := k.step } x.firstsb true
            (cutSbs bs x.nsb) (x.nsb + 1)
        exec (.sendReduceScatter c l) s = .next (begun 1 ⟨c, tok, p, some l.cgrp, [x.owner], [(i, w.1)], [], false, none, []⟩ w.2)) ∧
      (x.owner = s.moduleId →
        let ks := rsPackets { s.ownPkt p with
          dq := BitVec.ofNat 20 x.shard.toNat, coll := 1, cgrp := l.cgrp, fmt := l.fmt, step := k.step } x.firstsb true
            (cutSbs bs x.nsb) (x.nsb + 1)
        let w := (e 1).takeOwn p (ks.map fun z => (z, false))
        exec (.sendReduceScatter c l) s =
          .next (begun 1 ⟨c, tok, p, some l.cgrp, [], [], [], w.2.1, none, w.1⟩ w.2.2))) ∧
    (∀ i : Item, s.checkSend c p (line 3) = none → (s.core c).ctl.item = some (l.dq, i) → i.rows ≠ 0 →
      l.count % i.rows = 0 →
      let to_ := ((i.heard ++ i.table.map (·.src)).dedup).filter fun m => !s.eng.lostMods.contains m
      let w := (e 3).sendReturns p (fun m =>
        let mine := i.table.filter fun r => r.src == m
        ⟨0, l.dq, l.cgrp, BitVec.ofNat 32 (l.count / i.rows), mine.map (·.record),
          mine.flatMap fun r => if r.record.refused then [] else (List.range r.record.count.toNat).map fun k =>
            (bs.drop ((r.row + k) * (l.count / i.rows))).take (l.count / i.rows)⟩) to_
      exec (.sendA2aReturn c l) s = .next (begun 3 ⟨c, tok, p, some l.cgrp, to_, w.1, [], false, none, []⟩ w.2)) ∧
    (∀ is : List Nat, s.checkSend c p (line 4) = none →
      List.Forall₂ (fun m i => s.HasCredit p m l.dq l.count i) (g.members.filter (· != s.moduleId)) is →
      let w := (e 4).sendEach l bs is
      exec (.sendBroadcast c l) s =
        .next (begun 4 ⟨c, tok, p, some l.cgrp, g.members.filter (· != s.moduleId), w.1, [], false, none, []⟩ w.2)) ∧
    (let b := s.hbm.readVa (s.part p) l.saddr.toNat l.count
     let n := fieldLE b 4 4
     let scratch := fieldLE b 8 8 % 2 ^ 48
     let ms := planMoves (b.drop 32) n
     s.checkSend c p (line 5) = none → 32 + 24 * n ≤ l.count → (ms.map (·.len)).sum ≤ fieldLE b 0x10 8 →
     s.planBad p scratch (ms.map (·.len)).sum ms = none →
     let w := ((e 5).copyMoves p scratch 0 ms).2.notifyAll p 4 0 (bytesLE 4 (fieldLE b 0 4)) g.members
     exec (.permute c l) s = .next (begun 5 ⟨c, tok, p, some l.cgrp, g.members.filter (· != s.moduleId), [], [], false,
       some ⟨BitVec.ofNat 32 (fieldLE b 0 4), scratchMoves 0 ms, BitVec.ofNat 48 scratch, fieldLE b 0x18 8, []⟩, []⟩ w))

/-- 13 R304, 01 R17: the all-gather at the module that asks, and the held requests at the owner. The wire form of the request (DQ the
shard, COLL 2, OFS the first super-block, the payload NSB) is the model's choice (log 23); so are the session it goes on (log 21), the
service of a request whose super-block was recorded before any step (log 22) and the window of the shares (log 80). -/
def Obligations.GathersAskTheOwner : Prop :=
  (∀ (s : State) (c : CoreId) (p : PartId) (l : RecvLine) (x : ExchEnt) (k : SeedReg) (g : CGroup),
    let line : RecvLine := { l with coll := 2 }
    let e := s.enter c (.recv line)
    let tok := (s.core c).ctl.tokens
    let step := if (s.core c).ctl.mark.phase = 2 then k.step else k.step - 1
    let sbs := (List.range x.nsb).map (x.firstsb + ·)
    let xf : Xfer := ⟨c, tok, p, some l.cgrp, [x.owner], [], sbs, false, none, []⟩
    s.Lone c p → s.Sound → s.checkRecv c p line = none → s.cgroupOf p l.cgrp = some g → g.lost = false →
    s.exchOf p l.sq = some x → (s.core c).ctl.seed = some k → s.eng.lostMods.contains x.owner = false →
    (x.owner = s.moduleId →
      exec (.recvAllGather c l) s = .next ((((e.addXfer xf).gatherTake
        (sbs.map fun b => ⟨p, none, c, tok, x.shard.toNat, b, b - x.firstsb, step⟩)).startSlot c tok).charge p (.recv line)).carryOn) ∧
    ∀ i d, x.owner ≠ s.moduleId → s.findSess p x.owner = some i → s.sess i = some d →
      exec (.recvAllGather c l) s = .next (((((e.sendList i fun m => [{ m with
        dq := BitVec.ofNat 20 x.shard.toNat, coll := 2, cgrp := l.cgrp, fmt := l.rfmt, step := step, first := true, last := true
        ofs := BitVec.ofNat 32 x.firstsb, payload := padTo 32 (bytesLE 4 x.nsb) }]).2.addXfer xf).startSlot c tok).charge p (.recv line)).carryOn)) ∧
  ∀ (s : State) (n : Nat),
    (∀ g, s.eng.gathers[n]? = some g → (∀ d, (s.part g.part).ue.shards[g.shard]? = some d → g.sb < d.nsb →
        atOrAfter32 ((s.part g.part).ue.recorded g.shard g.sb) g.step = true →
        let first := fun (x : GatherReq) => s.gatherReady x && s.inShare pointColl collCap x.part
        (s.inShare pointColl collCap g.part = true ∨ s.eng.gathers.any first = false → exec (.gatherServe n) s =
          .next ((({ s with eng := { s.eng with gathers := s.eng.gathers.eraseIdx n } } : State).gatherServe g).useShare pointColl
            g.part 2048).settle) ∧
        (s.inShare pointColl collCap g.part = false → s.eng.gathers.any first = true → exec (.gatherServe n) s = .next s)) ∧
      (∀ d, (s.part g.part).ue.shards[g.shard]? = some d → g.sb < d.nsb →
        atOrAfter32 ((s.part g.part).ue.recorded g.shard g.sb) g.step = false → exec (.gatherServe n) s = .next s)) ∧
    (s.eng.gathers[n]? = none → exec (.gatherServe n) s = .next s)

/-- 07 R138 to R157: the three forms of ROUTE. The window of the router's shares is the model's choice (log 80). -/
def Obligations.RoutesJoinDispatchAndCombine : Prop :=
  ∀ (s : State) (c : CoreId) (p : PartId) (l : RouteLine) (tab : PlaceTab),
    let m := (s.core c).mem
    let tok := (s.core c).ctl.tokens
    let k := l.k.toNat
    s.Lone c p → s.Sound → s.ptab p l = some tab →
    (∀ line : RouteLine, line = { l with rfn := 0 } → s.checkRoute p line = none →
      let h := m.routeHdr l.dst.toNat
      let e := s.enter c (.route line)
      let mark := (s.core c).ctl.mark
      let mem : RoundMember := ⟨c, tok, line, m.select line, m.selectFlags line⟩
      s.checkRouteHdr p line h = none →
      (h.reuse = false →
        (s.eng.rounds.length < 16 → (∀ r ∈ s.eng.rounds, r.matches p line mark = false) →
          exec (.routeDispatch c line) s = .next ((e.modEng fun e => { e with
            rounds := e.rounds ++ [⟨p, l.ptab, l.layer, mark.mb, mark.phase, tab.nsrc, [mem], false, false⟩] }).startSlot c tok)) ∧
        ∀ r, s.eng.rounds.find? (fun r => r.matches p line mark) = some r → (∀ y ∈ r.members, y.core ≠ c) →
          r.members.length < r.nsrc → (∀ y ∈ r.members.head?, roundDiffers line y.line = none) →
          exec (.routeDispatch c line) s = .next ((e.modEng fun e => { e with
            rounds := e.rounds.map fun q => if q.matches p line mark then { q with members := q.members ++ [mem] } else q }).startSlot c tok)) ∧
      (h.reuse = true → s.routerYields p = false → ∀ q, s.queue l.a2aq = some q → l.a2aq ∈ s.eng.qcache → q.en = true → q.ppos + 1 ≤ q.dpos + q.limit → q.slotFree q.ppos = true →
        let v := fun (t r : Nat) => natLE (m.csN ((h.map + t * mapLines k) * 32 + 8 * r) 8)
        let here := fun (x : Nat × Nat) => decide (x.1 < l.tokens.toNat ∧ x.2 < k)
        let live := fun (x : Nat × Nat) => here x && (v x.1 x.2).testBit 8 && !(v x.1 x.2).testBit 9
        let seg := fun (x : Nat × Nat) => bitsOf (v x.1 x.2) 0 8 + if (v x.1 x.2).testBit 10 then tab.nexp else 0
        let slot := fun (x : Nat × Nat) => bitsOf (v x.1 x.2) 16 16
        let all := (List.range l.tokens.toNat).flatMap fun t => (List.range k).map fun r => (t, r)
        let f := (Fmt.ofCode h.xfmt).getD .b32
        let row := fun (t : Nat) => m.csN ((h.xaddr + t * h.xstr) * 32) h.rowb
        ∃ (g : Segs) (r : Report), g.core = c ∧ g.token = tok ∧ g.line = line ∧ g.hdr = h ∧
          (∀ j < 2 * tab.nexp, (g.rows.getD j []).length = (all.filter fun x => live x && seg x == j).length) ∧
          (∀ x, live x = true → seg x < 2 * tab.nexp →
            (∀ y, live y = true → seg y = seg x → slot y = slot x → y = x) →
            slot x < (all.filter fun y => live y && seg y == seg x).length →
            (g.rows.getD (seg x) []).getD (slot x) [] =
              if h.scalew then padTo h.rowb (pack f.bits ((unpack f.bits (h.rowb * 8 / f.bits) (row x.1)).map fun b =>
                (narrow f .rne false 0 ((f.decode b).mul (ofB32 (bitsOf (v x.1 x.2) 32 32)))).1))
              else row x.1) ∧
          r.status = stOk ∧ r.info0 = (all.filter fun x => !(v x.1 x.2).testBit 8 && !(v x.1 x.2).testBit 9).length ∧
          r.info1 = ((List.range l.tokens.toNat).filter fun t => !(all.any fun x => x.1 == t && live x)).length ∧
          exec (.routeReuse c l) s = .next (((e.useShare pointRouter p ((g.rows.map List.length).sum * h.rowb)).dispatch p tab
            l.cgrp [g]).2.finishSlot c tok r).carryOn)) ∧
    ∀ (line : RouteLine) (f : Fmt) (q : Cvt), line = { l with rfn := 1 } → s.checkRoute p line = none →
      let b := m.csN (l.src.toNat * 32) 64
      let yrowb := fieldLE b 4 2
      let ostr := fieldLE b 8 2
      let n := yrowb * 8 / f.bits
      let recs := (List.range l.tokens.toNat).map fun t => readMap m (fieldLE b 0 4 % 2 ^ 20) k l.experts t
      let count := fun j => (recs.flatten.filter fun r => r.j == some j).length
      let base := fun j => segBase l.experts + yrowb * ((List.range j).map count).sum
      let ys := recs.map fun r =>
        combineRow m l.src.toNat n yrowb f ((fieldLE b 0x0A 1).testBit 0) base (fun j => m.retState l.src.toNat j) r
      fieldLE b 6 1 < 16 → Fmt.ofCode (BitVec.ofNat 4 (fieldLE b 6 1)) = some f → f.isArray = true →
      Cvt.ofByte (BitVec.ofNat 8 (fieldLE b 7 1)) = some q → q.rnd ≠ .sr → q.fmt ≠ .g8 → yrowb ≠ 0 → yrowb % 32 = 0 →
      fieldLE b 0 4 % 2 ^ 20 + l.tokens.toNat * mapLines k ≤ csLines →
      (∀ r ∈ recs.flatten, ∀ j, r.j = some j → m.retState l.src.toNat j = 1) →
      let cs := ys.zipIdx.map fun y =>
        let at_ := l.dst.toNat + y.2 * ostr
        if q.bscale then
          let d := convBlocks q.fmt q y.1 [] (ceilDiv n 32)
          (([(false, at_ * 32, pack q.fmt.bits d.1),
            (false, (l.dst.toNat + l.tokens.toNat * ostr + y.2 * planeLines (ceilDiv n 32)) * 32,
              padTo (32 * planeLines (ceilDiv n 32)) (d.2.1.map (BitVec.ofNat 8 ·)))] : Runs), d.2.2)
        else
          let d := convRun q y.1 []
          ([(false, at_ * 32, pack q.fmt.bits d.1)], d.2)
      spansBad ((cs.flatMap (·.1)).map fun r => ⟨r.1, r.2.1, r.2.2.length⟩) = none → s.routerYields p = false →
      ∃ t, exec (.routeCombine c l) s = .next t ∧
        (s.useShare pointRouter p ((recs.flatten.filter fun r => r.j.isSome).length * yrowb)).Ran t c p (.route line) ⟨stOk, 0, cs.foldl (fun a d => a ||| d.2) 0, 0, 0⟩ (m.putRuns (cs.flatMap (·.1)))

/-- 12 R268, R270: bring-up of a port. 12 R270: Direct link control. -/
def Obligations.PortsComeUp : Prop :=
  (∀ (s : State) (p : PortId),
     let q := s.port p
     (s.portsRun = true → q.en = true → q.state = .waitPeer ∨ q.state = .fault →
       ∃ t : State, exec (.portSignalDetect p) s = .next t ∧ t.port p = { q with state := .training } ∧ s.OnlyPort t p) ∧
     (q.state = .training → ∃ t : State, exec (.autonegComplete p) s = .next t ∧ t.port p = { q with autoneg := true } ∧
       s.OnlyPort t p) ∧
     (q.state = .training → q.autoneg = true → ∃ t : State, exec (.linkTrainingComplete p) s = .next t ∧
       t.port p = { q with trained := true } ∧ s.OnlyPort t p) ∧
     (s.still = true → q.state = .training → q.trained = true → q.locked = false → ∃ t : State, exec (.pcsLock p) s = .next t ∧
       let k := { q with locked := true, lockTime := s.aon.time }
       if q.mode = 3 then t.port p = k.withFrame (s.dlcFrame p q 1 0 0 0) ∧ s.OnlyPort t p
       else t.port p = { k with state := .upSwitched, width := 0, noDirect := false } ∧
         s.OnlyPortLogged t p evPortUp [BitVec.ofNat 8 p.val]) ∧
     (q.mode = 3 → q.locked = true → ∃ t : State, exec (.helloTimer p) s = .next t ∧
       t.port p = q.withFrame (s.dlcFrame p q 1 0 0 0) ∧ s.OnlyPort t p)) ∧
  (∀ (s : State) (p : PortId) (d : Dlc), s.still = true → (s.port p).mode = 3 → (s.port p).locked = true →
     let q := s.port p
     let peer := d.port.extractLsb' 0 4
     let noDirect := s.reg.logs.write s.now evPortNodirect (36 + p.val) srcNone [BitVec.ofNat 8 p.val]
     (q.state = .training → s.reg.assigned = true → d.directOk = true → d.heard = true →
       ∃ t : State, exec (.helloReceive p d) s = .next t ∧
         t.port p = { q with
           heard := true, state := .upDirect, width := 0, peerMid := d.mid, peerPort := peer, peerStepOk := d.stepOk
           lastAdapt := s.aon.time } ∧
         s.OnlyPortLogged t p evPortUp [BitVec.ofNat 8 p.val]) ∧
     (q.state = .training → ¬(s.reg.assigned = true ∧ d.directOk = true ∧ d.heard = true) →
       ∃ t : State, exec (.helloReceive p d) s = .next t ∧ t.port p = { q with heard := q.heard || d.directOk } ∧ s.OnlyPort t p) ∧
     (q.state = .upDirect → q.peerMid = d.mid → q.peerPort = peer →
       ∃ t : State, exec (.helloReceive p d) s = .next t ∧ t.port p = { q with peerStepOk := d.stepOk } ∧ s.OnlyPort t p) ∧
     (q.state = .upDirect → q.peerMid ≠ d.mid ∨ q.peerPort ≠ peer →
       exec (.helloReceive p d) s = .next (s.takePortDown p .peerChanged).settle) ∧
     (q.state = .training → q.lockTime.toNat + 10000000 ≤ s.now →
       ∃ t : State, exec (.directTimeout p) s = .next t ∧
         t.port p = { q with state := .upSwitched, width := 0, noDirect := true } ∧
         (∀ o : PortId, o ≠ p → t.port o = s.port o) ∧
         t = { s with
           fabric := { s.fabric with ports := t.fabric.ports }
           reg := { s.reg with logs := (noDirect.write s.now evPortUp (36 + p.val) srcNone [BitVec.ofNat 8 p.val]) } }))

/-- 12 R269, 13 R317: a port goes down. -/
def Obligations.PortsGoDownAndDiscard : Prop :=
  ∀ (s : State) (p : PortId) (c : DownCause), s.still = true → (s.port p).state.isUp = true ∨ ((s.port p).state = .training ∧ (s.port p).locked = true) →
    let q := s.port p
    let arg := [BitVec.ofNat 8 p.val, BitVec.ofNat 8 (downCode c)]
    let k : SubId := Fin.ofNat 4 (s.freeNext.freeVal % q.subCount)
    (¬(q.state = .upDirect ∧ s.portLoss q.peerMid = true) → ∃ t : State, exec (.portDown p c) s = .next t ∧
      t.port p = { q with
        state := .fault, width := 0, stepping := false, peerMid := 0, peerPort := 0, autoneg := false, trained := false
        locked := false, heard := false, peerStepOk := false, noDirect := false, stepReq := none, stepAgreed := none
        idleWins := 0, lastBusy := false, lastQb := 0, adaptReq := none, adaptForced := false, adaptAgreed := none
        adaptLost := none, fwdBuf := 0, subs := (t.port p).subs } ∧
      (∀ i : SubId, (t.port p).sub i = { q.sub i with txq := [], cnt := ((t.port p).sub i).cnt } ∧
        ((t.port p).sub i).cnt.get 0 PortCnt.txDiscard.idx =
          satAdd 48 ((q.sub i).cnt.get 0 PortCnt.txDiscard.idx) (q.sub i).txq.length ∧
        ∀ n, n ≠ PortCnt.txDiscard.idx → ¬(n = PortCnt.fecUncorr.idx ∧ c = .fecErrors ∧ i = k) →
          ((t.port p).sub i).cnt.get 0 n = (q.sub i).cnt.get 0 n) ∧
      (c ≠ .fecErrors → s.OnlyPortLogged t p evPortDown arg) ∧
      (c = .fecErrors → { t with free := s.free } = { s with
          fabric := { s.fabric with ports := t.fabric.ports }
          reg := { s.reg with logs := s.reg.logs.write s.now evPortDown (36 + p.val) srcNone arg } } ∧
        ((t.port p).sub k).cnt.get 0 PortCnt.fecUncorr.idx =
          satAdd 48 ((q.sub k).cnt.get 0 PortCnt.fecUncorr.idx) (16 + s.freeVal))) ∧
    (q.state = .upDirect → s.portLoss q.peerMid = true → c ≠ .fecErrors →
      exec (.portDown p c) s = .next (({ s.setPort p (q.drop .fault) with
        reg := { s.reg with logs := s.reg.logs.write s.now evPortDown (36 + p.val) srcNone arg } }).declareLost q.peerMid 1).settle)

/-- 12 R271, R272, Table 12.6: lane stepping. 12 R272, 16 R380 to R382: re-adaptation. -/
def Obligations.LanesStepAndAdapt : Prop :=
  (∀ (s : State) (p : PortId) (d : Dlc) (sent qb : Nat), (s.port p).state = .upDirect →
     let q := s.port p
     let w := q.window sent qb
     let amc := BitVec.ofNat 32 s.freeVal
     let free := q.stepEn = true ∧ q.peerStepOk = true ∧ q.stepping = false ∧ q.stepReq = none ∧ q.adaptAgreed = none
     let wins := fun (lanes : BitVec 8) (m : BitVec 32) => { q with
       stepReq := none, stepping := true, stepAgreed := some (lanes, m), adaptReq := none, adaptAgreed := none
       adaptForced := if q.adaptReq = none then q.adaptForced else false
       adaptLost := if q.adaptReq = none then q.adaptLost else some q.adaptForced }
     let acked := fun (t : State) => t.port p = (wins d.width amc).withFrame (s.dlcFrame p q 3 d.seq d.width amc) ∧ ({ s with free := s.free + 1 } : State).OnlyPort t p
     (∀ n, free → s.stepTarget w sent qb = some n → ∃ t : State, exec (.stepWindow p sent qb) s = .next t ∧
       t.port p = { ({ w with dlcSeq := q.dlcSeq + 1 }.withFrame (s.dlcFrame p q 2 (q.dlcSeq + 1) (BitVec.ofNat 8 n) 0)) with
         stepReq := some (q.dlcSeq + 1, BitVec.ofNat 8 n) } ∧ s.OnlyPort t p) ∧
     (¬free ∨ s.stepTarget w sent qb = none → ∃ t : State, exec (.stepWindow p sent qb) s = .next t ∧ t.port p = w ∧ s.OnlyPort t p) ∧
     (q.stepReq = none → s.stepGranted q d.width.toNat d.stepOk = true → ∃ t : State, exec (.stepReqReceive p d) s = .next t ∧ acked t) ∧
     (q.stepReq = none → s.stepGranted q d.width.toNat d.stepOk = false → ∃ t : State, exec (.stepReqReceive p d) s = .next t ∧
       t.port p = q.withFrame (s.dlcFrame p q 4 d.seq d.width 0) ∧ s.OnlyPort t p) ∧
     (∀ n v, q.stepReq = some (n, v) →
       (d.width.toNat < v.toNat → ∃ t : State, exec (.stepReqReceive p d) s = .next t ∧
         t.port p = q.withFrame (s.dlcFrame p q 4 d.seq d.width 0) ∧ s.OnlyPort t p) ∧
       (v.toNat < d.width.toNat → s.stepGranted q d.width.toNat d.stepOk = true → ∃ t : State, exec (.stepReqReceive p d) s = .next t ∧ acked t) ∧
       (v.toNat < d.width.toNat ∧ s.stepGranted q d.width.toNat d.stepOk = false ∨ d.width = v ∧ d.stepOk = false → ∃ t : State, exec (.stepReqReceive p d) s = .next t ∧
         t.port p = { q with stepReq := none }.withFrame (s.dlcFrame p q 4 d.seq d.width 0) ∧ s.OnlyPort t p) ∧
       (d.width = v → d.stepOk = true → s.moduleId.toNat < q.peerMid.toNat → exec (.stepReqReceive p d) s = .next s) ∧
       (d.width = v → d.stepOk = true → q.peerMid.toNat ≤ s.moduleId.toNat → ∃ t : State, exec (.stepReqReceive p d) s = .next t ∧ acked t) ∧
       (d.seq = n → (∃ t : State, exec (.stepAckReceive p d) s = .next t ∧
           t.port p = wins v d.amc ∧ s.OnlyPort t p) ∧
         ∃ t : State, exec (.stepNakReceive p d) s = .next t ∧ t.port p = { q with stepReq := none } ∧ s.OnlyPort t p)) ∧
     (∃ t : State, exec (.stepReqTimeout p) s = .next t ∧ t.port p = { q with stepReq := none } ∧ s.OnlyPort t p) ∧
     (∀ v m, q.stepAgreed = some (v, m) → ∃ t : State, exec (.laneSwitch p) s = .next t ∧ s.OnlyPort t p ∧
       t.port p = { q with
         width := widthOf v.toNat, stepping := false, stepAgreed := none, idleWins := 0, stepEnd := s.aon.time
         lastStepUp := if lanesOf q.width < v.toNat then some s.aon.time else q.lastStepUp
         subs := (t.port p).subs } ∧
       (∀ i : SubId, i ≠ 0 → (t.port p).sub i = q.sub i) ∧
       (t.port p).sub 0 = { q.sub 0 with cnt := ((t.port p).sub 0).cnt } ∧
       (∀ n, n ≠ PortCnt.laneStep.idx → ((t.port p).sub 0).cnt.get 0 n = (q.sub 0).cnt.get 0 n) ∧
       ((t.port p).sub 0).cnt.get 0 PortCnt.laneStep.idx = satAdd 32 ((q.sub 0).cnt.get 0 PortCnt.laneStep.idx) 1)) ∧
  (∀ (s : State) (p : PortId) (d : Dlc) (ns : Nat), (s.port p).state = .upDirect →
     let q := s.port p
     let amc := BitVec.ofNat 32 s.freeVal
     let none_ := q.stepping = false ∧ q.stepReq = none ∧ q.adaptReq = none ∧ q.adaptAgreed = none
     let asked := fun (forced : Bool) => { ({ q with dlcSeq := q.dlcSeq + 1 }.withFrame (s.dlcFrame p q 5 (q.dlcSeq + 1) 0 0)) with
       adaptReq := some (q.dlcSeq + 1), adaptForced := forced }
     (none_ → q.busy = false → ∃ t : State, exec (.adaptWindowDue p) s = .next t ∧ t.port p = asked false ∧ s.OnlyPort t p) ∧
     (q.lastAdapt.toNat + 10000000000 ≤ s.now →
       (none_ → ∃ t : State, exec (.adaptFloorForced p) s = .next t ∧ t.port p = asked true ∧ s.OnlyPort t p) ∧
       (q.adaptReq.isSome = true → ∃ t : State, exec (.adaptFloorForced p) s = .next t ∧
         t.port p = { q with adaptForced := true } ∧ s.OnlyPort t p)) ∧
     (q.stepping = false → ∃ t : State, exec (.adaptReqReceive p d) s = .next t ∧
       t.port p = { q with adaptReq := none, adaptAgreed := some amc }.withFrame (s.dlcFrame p q 6 d.seq 0 amc) ∧
       ({ s with free := s.free + 1 } : State).OnlyPort t p) ∧
     (q.stepping = true → exec (.adaptReqReceive p d) s = .next s) ∧
     (q.adaptReq = some d.seq → q.stepping = false → ∃ t : State, exec (.adaptAckReceive p d) s = .next t ∧
       t.port p = { q with adaptReq := none, adaptAgreed := some d.amc } ∧ s.OnlyPort t p) ∧
     (q.adaptAgreed.isSome = true → ∃ t : State, exec (.adaptWindowEnd p ns) s = .next t ∧ s.OnlyPort t p ∧
       t.port p = { q with
         adaptAgreed := none, adaptForced := false, lastAdapt := s.aon.time
         floorAdapt := if q.adaptForced then satAdd 48 q.floorAdapt 1 else q.floorAdapt
         floorAdaptNs := if q.adaptForced then satAdd 48 q.floorAdaptNs ns else q.floorAdaptNs }))

/-- 12 R273 to R283, 10 R220, R221, R241, 17 R392: the receive order, the filter rules, the images and the crossbar. That a frame waits for
its queue's descriptor is log 44; which UDP ports and messages are PTP, and which are neighbour discovery, is log 12; what ends an image
and the item whose segments are dropped, log 30. -/
def Obligations.FramesAreDisposedInOrder : Prop :=
  ∀ (s : State) (p : PortId) (b : SubId) (f : List Byte), s.still = true → (s.port p).receives b f = true →
    let z := parseFrame f
    let mid := z.dst % 65536
    let word := s.fabric.fwd.get 0 mid
    let act := (word.extractLsb' 0 2).toNat
    let legal := 64 ≤ f.length + 4 ∧ f.length + 4 ≤ 9216
    let fwd := s.foreign z.dst = true ∧ (s.port p).fwdIn = true
    let dlc := z.dst = dlcAddr ∧ (s.port p).mode = 3
    let c0 := (s.countSub p b .rxFrames 1).countSub p b .rxBytes (f.length + 4)
    let hit := fun (j : Nat) => { c0 with fabric := { c0.fabric with
      ruleHits := c0.fabric.ruleHits.set 0 j (satAdd 48 (c0.fabric.ruleHits.get 0 j) 1) } }
    let other := legal ∧ isPause f z = false ∧ ¬dlc ∧ (fwd → act = 0)
    let ptp := isPtp f z = true ∧ (s.port p).ptpEn = true
    let own := other ∧ ¬ptp ∧ isNeighbour f z = false
    let named := s.perfects.find? fun e => e.en && e.addr.toNat == z.dst && e.ports.getLsbD p.val
    let steered := fun (y : State) (n : Nat) => own ∧
      ((∃ e, named = some e ∧ y = c0 ∧ n = e.qgrp.toNat) ∨
        ∃ j r, named = none ∧ s.firstRule p f z = some (j, r) ∧ r.action.toNat % 4 = 1 ∧ y = hit j ∧ n = r.qgrp.toNat)
    let goes := fun (t : State) => exec (.frameReceive p b f true) s = .next t
    -- the crossbar
    let fits := fun (e : PortId) (k : SubId) (need : Nat) => e ≠ p ∧ (s.port e).state.isUp = true ∧ (s.port e).subLanes k ≠ 0 ∧
      (s.port e).fwdBuf + need ≤ 2 ^ 20
    let cut := fun (e : PortId) (k : SubId) => ((s.port e).sub k).txq = [] ∧ (s.port e).subLanes k ≤ (s.port p).subLanes b
    let passed := fun (y : State) (e : PortId) (k : SubId) (need : Nat) (stomped : Bool) =>
      (y.modPort e fun q => { q with fwdBuf := q.fwdBuf + need }).modSub e k fun q => { q with
        txq := q.txq ++ [⟨if 6 ≤ z.pcp then 3 else 4, 8 + p.val, .raw f, need, stomped⟩] }
    let egress := fun (e : PortId) (k : SubId) => act = 1 ∧ (word.extractLsb' 2 4).toNat = e.val ∧ (word.extractLsb' 6 2).toNat = k.val
    (¬(fwd ∧ legal ∧ ∃ e k, egress e k ∧ cut e k ∧ fits e k 9216) → exec (.frameReceive p b f false) s = .next (s.countSub p b .rxFcs 1)) ∧
    (fwd → legal → ∀ e k, egress e k → cut e k → fits e k 9216 →
      exec (.frameReceive p b f false) s = .next ((passed (s.countSub p b .rxFcs 1) e k 9216 true).countSub e k .fwdStomp 1)) ∧
    (¬legal → goes (s.countSub p b .rxSize 1)) ∧
    (legal → isPause f z = true → ¬dlc → goes (c0.countSub p b .rxPause 1)) ∧
    (legal → isPause f z = false → fwd →
      (∀ e k, egress e k → ∀ need, (cut e k → need = 9216) → (¬cut e k → need = f.length + 4) →
        (fits e k need → goes (passed c0 e k need false)) ∧ (¬fits e k need → goes (c0.countSub p b .fwdDrop 1))) ∧
      (act ≠ 0 → (∀ e k, ¬egress e k) → goes (c0.countSub p b .fwdDrop 1))) ∧
    (other → ptp → ∃ t : State, goes t ∧ t.reg.ptp = ⟨p, b, s.rxStamp p b, f⟩ :: s.reg.ptp) ∧
    (other → ¬ptp → isNeighbour f z = true → goes c0) ∧
    -- filter rules
    (own → named = none → s.firstRule p f z = none → goes (c0.countSub p b .rxNomatch 1)) ∧
    (∀ j r, own → named = none → s.firstRule p f z = some (j, r) →
      (r.action.toNat % 4 = 0 ∨ r.action.toNat % 4 = 3 → goes (hit j)) ∧
      (r.action.toNat % 4 = 2 → ∀ k : Option Pkt,
        k = (z.udp.bind fun u => if udpPort f u = s.reg.tport.toNat then pktOfBytes (udpPayload f u) else none).filter
          (fun k => k.tpart == r.part && (k.host || k.dmod == s.moduleId)) →
        (k = none → goes (hit j)) ∧
        ∀ x c, k = some x →
          (match x.type.toNat with
            | 1 => some (Instr.dataReceive x)
            | 2 => some (.ackReceive x)
            | 3 => some (.keepaliveReceive x)
            | 4 => some (.openReceive x (ipSource f z))
            | 5 => some (.openAckReceive x)
            | 6 => some (.closeReceive x)
            | 7 => some (.creditReceive x)
            | 8 => (match fieldLE x.payload 0 4 with
              | 1 => some (.noticeSkip x)
              | 2 => some (.noticeNorm x)
              | 3 => some (.noticePeerLost x)
              | 4 => some (.noticeReady x)
              | _ => none)
            | _ => none) = some c → ∃ t : State, exec c (hit j) = .next t ∧ goes t.settle)) ∧
    -- queue groups
    (∀ y n, steered y n → ((s.fabric.qgroups.get none n).bind fun g => (g.pick f z).bind s.queue) = none → goes y) ∧
    ∀ y n g i d, steered y n → s.fabric.qgroups.get none n = some g → g.pick f z = some i → s.queue i = some d →
      let w := y.wakeShallow
      let at_ := s.rxStamp p b
      let dropped := w.setQueue i { d with qDrop := satAdd 32 d.qDrop 1 }
      let put := fun (v : Bool × State) (q : Queue) (lands fails : Item → Item) (k : Nat) =>
        if v.1 = true then v.2.setQueue i (q.putItem (lands ((q.item k).getD (Item.fresh k))))
        else (v.2.setQueue i (q.putItem (fails ((q.item k).getD (Item.fresh k))))).partFault q.part (if q.memCs then 1 else 5) none
      let item0 := { Item.fresh d.ppos with ts := at_, cancelled := decide (d.ppos < d.dpos) }
      let grown := fun (x : Item) => { d with ppos := d.ppos + 1, items := d.items ++ [x] }
      (i ∉ s.eng.qcache → goes (w.hold (.frame p b i g.asm at_ f)).settle) ∧
      (i ∈ s.eng.qcache → (∀ x ∈ d.items, x.n < d.ppos) →
        (g.asm = false →
          (s.rxfOpen d = true ∧ f.length ≤ d.slotb →
            let v := w.writeQueue d (d.slotOff d.ppos) f
            goes (put v (grown item0) (fun x => { x with closed := true, full := true, bytes := f.length })
              (fun x => { x with closed := true, bytes := f.length }) d.ppos).settle) ∧
          (¬(s.rxfOpen d = true ∧ f.length ≤ d.slotb) → goes dropped.settle)) ∧
        (g.asm = true →
          let pay := (z.udp.map (udpPayload f)).getD []
          let item := fieldLE pay 0 4
          let ofs := fieldLE pay 4 4
          let total := fieldLE pay 8 4
          let data := pay.drop 16
          (s.faulted d.part = true → goes dropped.settle) ∧
          (s.faulted d.part = false → pay.length < 16 → goes (w.countSub p b .rxAsmFail 1).settle) ∧
          (s.faulted d.part = false → 16 ≤ pay.length →
            let segment := fun (y : State) (q : Queue) (x : Item) =>
              if x.total.getD 0 < ofs + data.length ∨ (x.ranges.any fun r => rangesMeet r (ofs, data.length)) = true then
                y.countSub p b .rxAsmFail 1
              else put (y.writeQueue q (q.slotOff x.n + ofs) data) q (fun _ => { x with
                bytes := x.bytes + data.length, ranges := x.ranges ++ [(ofs, data.length)]
                full := decide (x.bytes + data.length = x.total.getD 0), closed := decide (x.bytes + data.length = x.total.getD 0) })
                (fun _ => x) x.n
            let opens := fun (y : State) (q : Queue) =>
              let x := { item0 with asmItem := some item, total := some total }
              if q.asmDrop = some item then y
              else if s.rxfOpen d = false then y.setQueue i { q with qDrop := satAdd 32 q.qDrop 1, asmDrop := some item }
              else if d.slotb < total ∨ d.ppos < d.dpos then y.setQueue i { q with
                ppos := q.ppos + 1, asmDrop := some item
                items := q.items ++ [{ x with cancelled := true, closed := true, full := true }] }
              else
                let r := { q with ppos := q.ppos + 1, items := q.items ++ [x], asmDrop := none }
                segment (y.setQueue i r) r x
            (d.image = none → goes (opens w d).settle) ∧
            ∀ x, d.image = some x →
              let ended := d.putItem { x with cancelled := true, closed := true, full := true }
              (x.asmItem = some item → goes (segment w d x).settle) ∧
              (x.asmItem ≠ some item → goes (opens ((w.setQueue i ended).countSub p b .rxAsmFail 1) ended).settle))))

/-- 12 R273, R279, R280: the transmit scheduler with its timestamps, and the assembly timeout. Which source goes first in rotation is
the model's choice (log 27), as are the window of the share and its booking (log 80), the item whose segments are dropped (log 30) and
the form of the PTP messages (logs 12, 56). -/
def Obligations.FramesLeaveByClassAndTurn : Prop :=
  (∀ (s : State) (p : PortId) (b : SubId) (f : TxFrame), s.nextFrame p b = some f →
     let q := (s.port p).sub b
     let may := q.txq.filter fun g => (s.port p).sends b g
     let cls := s.classNow p b
     (f ∈ may ∧ (may.find? fun g => cls g == cls f && g.src == f.src) = some f ∧ (∀ g ∈ may, cls f ≤ cls g) ∧
       ∀ g ∈ may, cls g = cls f → turn (q.lastSrc.get 63 (cls f)) f.src ≤ turn (q.lastSrc.get 63 (cls f)) g.src) ∧
     ∃ t : State, exec (.frameTransmit p b) s = .next t ∧ (∀ i : PortId, i ≠ p → t.port i = s.port i) ∧
       let tx := s.txStamp p b
       let clk := match f.body with
         | .ptp m => if ptpType m.bytes = 1 ∨ ptpType m.bytes = 2 then { s.reg.clock with t3 := some (tx.toNat * 65536) } else s.reg.clock
         | _ => s.reg.clock
       let later := match f.body with
         | .ptp m => if ptpType m.bytes = 3 ∧ m.since = none then [(⟨1, srcRegulator, .ptp { m with
             event := false
             bytes := ptpMessage 10 (fieldBE m.bytes 4 1) 0 m.corr (s.ptpId p b) (ptpSeq m.bytes) 5 tx.toNat ((m.bytes.drop 44).take 10) },
             0, false⟩ : TxFrame)] else []
         | _ => []
       t = { s with
         fabric := { s.fabric with ports := t.fabric.ports }
         reg := { s.reg with clock := clk }
         eng := if f.src < 8 then (s.useShare (pointOfSub p b) (Fin.ofNat 8 f.src) (s.wireSize f)).eng else s.eng } ∧
       (∀ i : SubId, i ≠ b → (t.port p).sub i = (s.port p).sub i) ∧
       let r := (t.port p).sub b
       let n := fun (k : PortCnt) => q.cnt.get 0 k.idx
       let counts := !f.isDlc && !f.stomped
       r.txq = q.txq.erase f ++ later ∧ r.lastSent = some f ∧ r.lastSrc = q.lastSrc.set 63 (cls f) f.src ∧
       r.lastSentAt = tx ∧ r.wire = s.wireBytes p b f ∧
       r.cnt.get 0 PortCnt.txFrames.idx = (if counts then satAdd 48 (n .txFrames) 1 else n .txFrames) ∧
       r.cnt.get 0 PortCnt.txBytes.idx = (if counts then satAdd 64 (n .txBytes) (s.wireSize f) else n .txBytes) ∧
       r.cnt.get 0 PortCnt.fwdFrames.idx = (if counts && f.isFwd then satAdd 48 (n .fwdFrames) 1 else n .fwdFrames) ∧
       t.port p = { s.port p with
         subs := (t.port p).subs, fwdBuf := if f.isFwd then (s.port p).fwdBuf - f.stored else (s.port p).fwdBuf }) ∧
  (∀ (s : State) (q : Qid) (d : Queue) (g : QueueGroup), s.queue q = some d → s.fabric.qgroups.get none d.qgrp.toNat = some g →
     (∀ i, d.image = some i → g.atmo ≠ 0 → i.ts.toNat + g.atmo.toNat * 1000 ≤ s.now →
       exec (.assemblyTimeout q) s = .next (s.setQueue q { d.putItem { i with cancelled := true, closed := true, full := true } with
         asmDrop := i.asmItem }).settle) ∧
     (d.image = none ∨ g.atmo = 0 → exec (.assemblyTimeout q) s = .next s))

/-- 05 R118, R109, R112, 08 R182, 09 R198, 10 R235, 17 R392: retirement, release, deadlines, timeouts and a pending UPD. That the commands
imply their times is log 7, and the 16 steps that the engine remembers of its UPDs are log 48. -/
def Obligations.CommandsRetireAndTimersExpire : Prop :=
  (∀ (s : State) (c : CoreId) (p : PartId) (x : InFlight) (n : Nat),
    let t := (s.core c).ctl
    let left := fun (y : InFlight) => t.slots.filter fun z => z.token != y.token
    let gone := fun (y : InFlight) (z : State) => (z.modCtl c fun t => { t with
      slots := left y
      stream := if t.ending = true ∧ left y = [] ∧ t.stream = .running then .idle else t.stream
      ending := t.ending && !(decide (left y = []) && t.stream == .running) }).freeRounds
    (s.core c).part = some p → x ∈ t.slots → x.stage = .done n →
    (∀ y ∈ t.slots, ∀ k, y.stage = .done k → y ≠ x → n < k) →
    (x.recordDue = false → exec (.commandRetire c) s = .next (gone x s).settle) ∧
    ∀ q, x.recordDue = true → s.queue t.cq = some q → q.depth ≠ 0 →
      let w := s.writeQueue q (q.recOff q.ppos) (x.record c p (q.ppos % 65536) (decide (q.ppos / q.depth % 2 = 0)))
      (q.room = true → t.cq ∈ s.eng.qcache → w.1 = true → exec (.commandRetire c) s = .next (gone x (w.2.setQueue t.cq (Queue.tidy { q with
        ppos := q.ppos + 1, cpos := q.cpos + 1, lastTs := s.aon.time
        items := q.items ++ [({ Item.fresh q.ppos with
          closed := true, full := true, passed := true, bytes := q.recBytes, ts := s.aon.time
          cancelled := decide (q.ppos < q.dpos) })] }))).settle) ∧
      (q.room = false ∨ t.cq ∉ s.eng.qcache →
        ((∀ y ∈ t.slots, y.stage.isDone = true → y.recordDue = true) → exec (.commandRetire c) s = .next s.settle) ∧
        ∀ y m, y ∈ t.slots → y.stage = .done m → y.recordDue = false →
          (∀ z ∈ t.slots, z.recordDue = false → ∀ k, z.stage = .done k → z ≠ y → m < k) →
          exec (.commandRetire c) s = .next (gone y s).settle)) ∧
  (∀ (s : State) (c : CoreId) (tok : Nat) (rest : List Nat), (s.core c).stash.releaseDue = tok :: rest →
    (∀ x t0, (s.core c).ctl.hold = some (x, t0) → x.stashBefore tok = false) →
    (∀ x ∈ (s.core c).ctl.slots, x.stashBefore tok = false) →
    ((∀ p, (s.core c).part = some p → s.faulted p = false) →
      exec (.stashRelease c) s = .next (s.modStash c fun q => { q with fill := 0, dir := [], bytes := [], releaseDue := rest }).settle) ∧
    ∀ p, (s.core c).part = some p → s.faulted p = true → exec (.stashRelease c) s = .next s.settle) ∧
  (∀ (s : State) (c : CoreId) (tag : BitVec 16) (x : InFlight) (d : DeadlineReg), (s.core c).tagged tag = some x →
    x.deadline = some d → ∃ r < 64, exec (.deadlinePassed c tag) s = .next (s.freeNext.advanceTo (d.at_.toNat + 1 + r)).settle) ∧
  (∀ (s : State) (c : CoreId) (x : InFlight) (t0 : BitVec 64) (l : WaitqLine), (s.core c).ctl.hold = some (x, t0) →
    x.line = .waitq l → l.tmo ≠ 0 → exec (.waitqTimeout c) s = .next (s.advanceTo (t0.toNat + l.tmo.toNat)).settle) ∧
  ∀ (s : State) (c : CoreId) (p : PartId) (x : InFlight) (l : UpdLine),
    let u := (s.part p).ue
    let cases := l.groups.map fun g => (g, u.updCase (s.sumSteps p) (u.group g) l.step)
    (s.core c).part = some p → (s.core c).ctl.hold = none → (s.core c).ctl.slots = [x] → x.line = .upd l → x.stage = .waiting →
    x.deadline = none → (∀ e ∈ cases, e.2 ≠ .bad ∧ e.2 ≠ .wait) →
    let known := l.step :: (u.known.filter (· != l.step)).take 15
    ∃ gs, exec (.updPendingApply c) s = .next ((s.modUe p fun u => { u with groups := gs, known := known }).complete c x.token Report.ok).settle ∧
      (∀ e ∈ cases, ∀ g, e.2 = .write g →
        gs.get UpdGroup.reset e.1 = l.coefs.foldl (fun a v => a.write l.step v.1 v.2) g) ∧
      ∀ n : Nat, n ∉ l.groups → gs.get UpdGroup.reset n = u.groups.get UpdGroup.reset n

/-- 10 R221 to R233, 11 R251, R252, R258: descriptors, items and the caches. The form of a read request and its answer as the command's
operand are log 26, the share's window is log 80, the place of the queue descriptors in HBM is log 79, what waits for a descriptor is
log 44, and the victim of a full cache is free (log 1). -/
def Obligations.DescriptorsFillTheirItems : Prop :=
  (∀ (s : State) (c : CoreId) (l : PrologueList) (ls : List PrologueList) (q : Queue),
    let va := l.addr.toNat + 32 * l.next
    let b := s.hbm.readVa (s.part l.part) va 32
    let qid := BitVec.ofNat 20 (fieldLE b 0 4)
    let d := Xdesc.ofBytes b
    let on := fun (t : State) => t.modStash c fun k => { k with
      lists := if l.next + 1 < l.count then { l with next := l.next + 1 } :: ls else ls }
    s.Sound → (s.core c).stash.lists = l :: ls → (s.part l.part).checkRange va 32 .r = none → fieldLE b 0 4 < 2 ^ 20 →
    s.queue qid = some q → q.isPf = true → q.part = l.part → s.xdescOk q b d = true → l.skip = false →
    q.drainOpen = false → (qid ∉ s.eng.qcache → exec (.descriptorTake c) s = .next s.settle) ∧ (qid ∈ s.eng.qcache →
    (∀ i, q.items.find? (fun i => !i.closed) = some i → i.cancelled = false →
      exec (.descriptorTake c) s = .next (on (s.setQueue qid
        (q.putItem { i with descs := i.descs ++ [d], closed := d.last, bytes := i.bytes + d.len, fed := c :: i.fed.erase c }))).settle) ∧
    ((∀ i ∈ q.items, i.closed = true ∧ i.n < q.ppos) → q.room = true → q.dpos ≤ q.ppos →
      exec (.descriptorTake c) s = .next (on (s.setQueue qid { q with
        ppos := q.ppos + 1
        items := q.items ++ [({ Item.fresh q.ppos with
          full := true, ts := s.aon.time, descs := [d], closed := d.last, bytes := d.len, fed := [c] })] })).settle))) ∧
  (∀ (s : State) (qid : Qid) (q : Queue) (before after : List Item) (i : Item) (ds es : List Xdesc) (d : Xdesc),
    s.queue qid = some q → q.items = before ++ i :: after → i.descs = ds ++ d :: es → (∀ x ∈ before ++ after, x.n ≠ i.n) →
    let with_ := fun (z : Xdesc) => { q with items := before ++ { i with descs := ds ++ z :: es } :: after }
    (∀ t : State, q.isPf = true → q.outstanding < q.maxout → (∀ x ∈ before, ∀ y ∈ x.descs, y.issued = true) →
      (∀ y ∈ ds, y.issued = true) → d.issued = false → q.slotFree i.n = true → qid ∈ s.eng.qcache →
      let share := s.inShare pointStream streamCap q.part
      let kind := if share then 0 else 1
      let last := s.eng.lastChan.get 23 kind
      (∀ j r, s.queue j = some r → s.streamWants true r = true → share = true) →
      (∀ j r, s.queue j = some r → s.streamWants share r = true → chanAfter last q.channel ≤ chanAfter last r.channel) →
      (t = s ∧ (d.kind = 0 ∨ d.smod = s.moduleId) ∨
        ∃ n b, d.kind ≠ 0 ∧ d.smod ≠ s.moduleId ∧ s.needSess q.part d.smod = (some n, b) ∧
          t = (b.sendList n fun k => readPackets k qid d).2) →
      exec (.descriptorIssue qid) s = .next (((t.setQueue qid (with_ { d with issued := true, maps := t.descMaps q i.n d })).useShare pointStream q.part d.len).modEng
        fun e => { e with lastChan := e.lastChan.set 23 kind q.channel }).settle) ∧
    ∀ (data : List Byte) (refused : Bool),
      let flying := fun (l : List Xdesc) => (l.filter fun x => x.issued && !x.landed).length
      let own := d.kind = 0 ∨ d.smod = s.moduleId
      let then_ := (s.part q.part).under d.maps
      let bytes := if own then s.hbm.readVa then_ d.saddr.toNat d.len else padTo d.len data
      let w := s.underMaps q.part d.maps fun z => z.writeQueue q (q.slotOff i.n + d.dofs) bytes
      let granted := d.kind ≠ 0 → if d.smod = s.moduleId then then_.checkRange d.saddr.toNat d.len .pr = none else refused = false
      let lands := exec (.transferLanded qid ((before.map fun x => flying x.descs).sum + flying ds) data refused) s
      s.Sound → d.issued = true → d.landed = false →
      (granted → w.1 = true → lands = .next (w.2.setQueue qid (with_ { d with landed := true })).settle) ∧
      (¬granted → lands = .next ((s.setQueue qid { q with
        items := before ++ { i with descs := ds ++ { d with landed := true } :: es, refused := true } :: after }).cancelItems qid
          fun j => j.n == i.n).settle)) ∧
  (∀ (s : State) (qid : Qid) (q : Queue) (i : Item), s.queue qid = some q → q.item q.cpos = some i → i.ready = true →
    i.passed = false → (qid ∉ s.eng.qcache → exec (.itemComplete qid) s = .next s.settle) ∧
    let ts := if q.isRxf then i.ts else s.aon.time
    let z := Queue.tidy { q.putItem { i with passed := true, ts := ts } with
      cpos := q.cpos + 1, dpos := (if q.posted then max q.dpos (q.cpos + 1) else q.dpos), lastTs := ts }
    (qid ∈ s.eng.qcache → q.ncqEn = false → exec (.itemComplete qid) s = .next (s.setQueue qid z).settle) ∧
    ∀ r, qid ∈ s.eng.qcache → q.ncq ∈ s.eng.qcache → q.ncqEn = true → (q.isRxf || q.isPf) = true → q.ncq ≠ qid → s.queue q.ncq = some r → r.depth ≠ 0 → r.room = true →
      let w := s.writeQueue r (r.recOff r.ppos) (itemRecord q i ts (r.ppos % 65536) (decide (r.ppos / r.depth % 2 = 0)))
      w.1 = true → exec (.itemComplete qid) s = .next ((w.2.setQueue q.ncq (Queue.tidy { r with
        ppos := r.ppos + 1, cpos := r.cpos + 1, lastTs := s.aon.time
        items := r.items ++ [({ Item.fresh r.ppos with
          closed := true, full := true, passed := true, bytes := r.recBytes, ts := s.aon.time
          cancelled := decide (r.ppos < r.dpos) })] })).setQueue qid z).settle) ∧
  ∀ (s : State),
    (∀ qid q, s.queue qid = some q →
      let missed := s.countPart q.part .qdMiss 1
      (qid ∈ s.eng.qcache → exec (.descriptorCacheFill qid) s = .next s) ∧
      (qid ∉ s.eng.qcache → s.hbm.ecc = [] → exec (.descriptorCacheFill qid) s = .next ((missed.freeNext).modEng fun e =>
        { e with qcache := qid :: evict 16384 s.freeVal s.pinned e.qcache }).releaseHeld.settle) ∧
      (qid ∉ s.eng.qcache → s.hbm.ecc.get .good (descWord qid) = .double → exec (.descriptorCacheFill qid) s =
        .next ((missed.logUe srcNone 0 [descWord qid]).fatalError .regulatorHbm))) ∧
    ∀ (p : PartId) (vpn : BitVec 27),
      let missed := s.countPart p .tlbMiss 1
      ((p, vpn.toNat) ∈ s.eng.tlb → exec (.translationWalk p vpn) s = .next s) ∧
      ((p, vpn.toNat) ∉ s.eng.tlb → s.hbm.ecc = [] →
        (∀ e : Pte, (s.part p).pages.get none vpn.toNat = some e → exec (.translationWalk p vpn) s = .next ((missed.freeNext).modEng fun g =>
          { g with tlb := (p, vpn.toNat) :: evict 8192 s.freeVal (fun x => s.isRt x.1) g.tlb }).settle) ∧
        ((s.part p).pages.get none vpn.toNat = none → exec (.translationWalk p vpn) s = .next missed)) ∧
      ((p, vpn.toNat) ∉ s.eng.tlb → (∃ w ∈ s.walkWords p vpn.toNat, s.hbm.ecc.get .good w = .double) →
        (∀ w ∈ s.walkWords p vpn.toNat, s.hbm.ecc.get .good w ≠ .single) → exec (.translationWalk p vpn) s =
          .next ((missed.logUe srcNone 0 ((s.walkWords p vpn.toNat).filter fun w => s.hbm.ecc.get .good w == .double)).fatalError
            .regulatorHbm))

/-- 07 R146, R151, 06 R133, R134, 08 R176, 09 R195 to R214, 13 R319: the router, the amax push and the update engine. How a share is
measured and booked is the model's choice (log 80), as are a frozen block before a skip notice (log 48), the CGRP of the member that
started first (log 81) and when a push is due and where its selector line may be written (log 49). -/
def Obligations.EnginesTakeWhatIsComplete : Prop :=
  (∀ (s : State) (n : Nat) (r : Round) (first : RoundMember) (rest : List RoundMember) (tab : PlaceTab),
    let ms := allCores.flatMap fun c => r.members.filter fun m => m.core == c
    let as := ms.flatMap (memberAssigns tab)
    let order := fun (j : Nat) => (List.range first.line.k.toNat).flatMap fun k => allCores.flatMap fun c =>
      as.filter fun a => a.dir == some j && a.rank == k && a.core == c
    let ad : Admission := ⟨(List.range (2 * tab.nexp)).map fun j => (order j).take first.line.cap.toNat,
      (List.range (2 * tab.nexp)).map fun j => (order j).length⟩
    let gs := ms.map fun m => memberSegs (s.core m.core).mem tab ad m
    s.Sound → s.eng.rounds[n]? = some r → r.admitted = false → r.ended = false → r.members = first :: rest →
    r.nsrc ≤ r.members.length → (s.part r.part).place.get none r.ptab.toNat = some tab → s.returnsFree gs = true →
    (s.inShare pointRouter routerCap r.part = true ∨
      ∀ q ∈ s.eng.rounds, q.admitted = false → q.ended = false → q.nsrc ≤ q.members.length →
        s.inShare pointRouter routerCap q.part = false) →
    exec (.roundAdmission n) s = .next ((((((s.modEng fun e => { e with
        rounds := e.rounds.set n { r with admitted := true } }).useShare pointRouter r.part
          (gs.map fun g => (g.rows.map List.length).sum * g.hdr.rowb).sum).writeMaps tab ad ms).2.dispatch r.part tab
            first.line.cgrp gs).2.finishRound r.part tab ad true ms)).settle) ∧
  (∀ (s : State) (p : PartId), s.pushDue p = true → ((s.part p).amax.map (·.1)).Nodup →
    let t := s.pushStep p
    ∃ m : Smap AmaxSlot, (∀ k : Nat, m.get AmaxSlot.reset k =
        AmaxSlot.push ((s.part p).amax.get AmaxSlot.reset k) (decide (t = (s.part p).amaxStep + 1))) ∧
      let z := (s.modPart p fun q => { q with amax := m }).selectRules p (List.range (s.part p).rules.length)
      exec (.amaxPush p) s = .next ((z.modPart p fun q => { q with amaxStep := t }).seedsReached t (z.coresOf p)).settle) ∧
  (∀ (s : State) (n : Nat) (x : RCtx) (d : Shard) (g : PartCfg),
    let p := x.part
    let t := x.step
    let c := ((s.part p).ue.group d.group.toNat).coefs t
    let gin := fun (i : Nat) => ((x.entries.get AccEntry.zero i).exact x.rofs.toInt).rto
    let ts := d.tensors g.compact
    let taken := (s.modEng fun e => { e with ctxs := e.ctxs.filter fun y => y != x }).modUe p fun u => u.begin t
    let noticed := match (s.part p).ue.stepOf t with
      | some r => r.noticed
      | none => false
    s.hbm.ecc = [] → s.eng.ctxs[n]? = some x → (s.part p).cfg = some g → (s.part p).ue.shards[x.shard]? = some d →
    d.ncontrib ≤ x.heard.length → (∀ y ∈ s.eng.ctxs.take n, y.part = p → s.ctxComplete y = false) →
    s.faulted p = false → s.copyHolds p t = false → (∀ r, (s.part p).ue.stepOf t = some r → r.status ≠ 4) →
    (c.frozen = true → exec (.superblockComplete n) s = .next (((taken.modUe p fun u => u.modStep t fun r =>
      { r with dropped := satAdd 32 r.dropped 32 }).countPart p .updFrozen 32).recordSb p t x.shard x.sb).settle) ∧
    (c.frozen = false → noticed = true →
      exec (.superblockComplete n) s = .next (taken.skipSb p t x.shard x.sb true).settle) ∧
    ∀ cf, c.frozen = false → noticed = false → c.rule ≠ 3 → (c.rule = 2 → d.vaddr ≠ 0) → s.sbReach p x.sb ts = true →
      s.clipFactor p t c = some cf → (∀ i < 1024, (gin i).isFin = true) →
      let kept := d.vKept g.compact
      let old := ts.map fun b => StateSb.ofBytes (s.hbm.readVa (s.part p) (sbAddr b x.sb) 2112)
      let new := fun (i : Nat) => c.update cf g.compact kept (gin i) (elemAt kept g.compact old i)
        (if g.compact then taken.updRnd p t x.shard (1024 * x.sb + i) else 0)
      let squares := if c.cmode = 1 then (List.range 1024).map fun i => (gin i).mul c.gscale else []
      ∃ xs : List StateSb, xs.length = ts.length ∧
        (∀ k < ts.length, (xs.getD k ⟨[], []⟩).stamps = List.replicate 32 (t.toNat % 65536) ∧
          ∀ i < 1024, (xs.getD k ⟨[], []⟩).elems.getD i 0 = ((new i).codes kept g.compact).getD k 0) ∧
        let w := ((((taken.writeSbs p x.sb (ts.zip xs)).modUe p fun u => u.modStep t fun q => { q with
          updated := satAdd 32 q.updated 32, skipped := satAdd 32 q.skipped 0
          norm := addNorm u.nofs q.norm squares }).countPart p .updBlocks 32).countPart p .updSkipped 0).countPart p .updStateNf
            ((List.range 1024).filter fun i => (new i).nonfinite g.compact kept).length
        let v := if g.compact && ((s.part p).ue.seeds.find? fun k => k.step == t).isNone then { w with free := w.free + 2 ^ 35 } else w
        exec (.superblockComplete n) s = .next (v.recordSb p t x.shard x.sb).settle) ∧
  ∀ (s : State) (p : PartId) (u : UpdCfg) (q : Queue) (i : Item) (d : Shard),
    let b := s.readQueue q none (q.recOff i.n) 16
    let shard := fieldLE b 0 2
    let n := fieldLE b 4 4
    let t := BitVec.ofNat 32 (fieldLE b 8 4)
    let hdr := s.hbm.readVa (s.part p) (d.region n) 64
    let taken := s.setQueue u.aq (Queue.tidy { q with dpos := i.n + 1 })
    let reach := (s.part p).checkRange (d.region n) regionBytes .r = none ∧ (s.part p).checkRange (d.region n) regionBytes .w = none ∧
      ∀ c sb, (s.part p).cfg = some c → sb ∈ ((d.blocksOf n).map (·.1)).dedup → s.sbReach p sb (d.tensors c.compact) = true
    s.Sound → s.faulted p = false → (s.part p).cfg.isSome = true → (s.part p).ue.cfg = some u → s.queue u.aq = some q →
    q.pendingItem = some i → (s.part p).ue.shards[shard]? = some d → u.aq ∈ s.eng.qcache →
    (q.memCs = true ∨ (s.part p).checkRange (q.base.toNat + q.recOff i.n) 16 .r = none) →
    (s.copyHolds p t = true → exec (.precondPhase2 p) s = .next s.settle) ∧ (s.copyHolds p t = false →
    (∀ r, (s.part p).ue.stepOf t = some r → (r.status = 3 ∨ r.status = 4) → exec (.precondPhase2 p) s = .next taken.settle) ∧
    ((∀ r, (s.part p).ue.stepOf t = some r → r.status ≠ 3 ∧ r.status ≠ 4) → reach →
     (fieldLE hdr 4 1 ≠ 2 ∨ fieldLE hdr 0 4 ≠ t.toNat → exec (.precondPhase2 p) s = .next taken.settle) ∧
     (fieldLE hdr 4 1 = 2 → fieldLE hdr 0 4 = t.toNat →
      let bs := d.blocksOf n
      let z := (taken.phase2Sbs p t shard d n (((s.part p).ue.group d.group.toNat).coefs t) bs ((bs.map (·.1)).dedup)).2
      let y : State := { z with hbm := z.hbm.writeVa (z.part p) [] (d.region n) (patch hdr 4 [3#8]) }
      let lout := fieldLE hdr 6 1
      let rout := fieldLE hdr 7 1
      exec (.precondPhase2 p) s = .next (State.settle (if (1 ≤ lout ∧ lout ≤ 3) ∨ (1 ≤ rout ∧ rout ≤ 3) then
        (y.logEvent evPrecondFallback 50 p.val (bytesLE 2 shard ++ bytesLE 4 n ++ bytesLE 1 lout ++ bytesLE 1 rout)).countPart p
          .precondFallback 1
      else y)))))

/-- 18 R410 to R413, Tables 18.3 to 18.8, 16 R376: insertion, return of the input, what each input condition does, removal, power cycle
and the controller's registers. Which event removes power when is log 60. -/
def Obligations.HotSwapActsAsTabled : Prop :=
  (∀ s : State,
     exec .seatAssert s = .next { s with hs := { s.hs with
       seated := true
       debouncing := !s.hs.uv && !s.hs.ov && !s.hs.on && !s.hs.latched && !s.hs.pcycling } } ∧
     (s.hs.debouncing = true → exec .debounceComplete s = .next { s with hs := { s.hs with debouncing := false, on := true } }) ∧
     (s.aon.supply ≠ .off ∧ s.hs.latched = false ∧ s.hs.seated = true →
       exec .inputReturn s = .next { s with hs := { s.hs with uv := false, ov := false, on := true } }) ∧
     (¬(s.aon.supply ≠ .off ∧ s.hs.latched = false ∧ s.hs.seated = true) →
       exec .inputReturn s = .next { s with hs := { s.hs with
         uv := false, ov := false, debouncing := s.hs.seated && !s.hs.on && !s.hs.latched && !s.hs.pcycling } }) ∧
     (s.hs.pcycling = true → exec .pcycleRestart s = .next { s with hs := { s.hs with
       pcycling := false, debouncing := s.hs.seated && !s.hs.uv && !s.hs.ov && !s.hs.on && !s.hs.latched } }) ∧
     (s.hs.on = true → s.aon.supply = .off → exec .suppliesValid s = .next { s with
       aon := { Aon.reset with supply := .on, inReset := s.pins.mrstLow }, cores := s.cores.map fun k => { k with resPl := [] } })) ∧
  (∀ s : State,
     exec .inputUndervoltage s = .next { s with hs := { s.hs with uv := true, uvSeen := s.hs.uvSeen || s.hs.on, debouncing := false } } ∧
     exec .inputOvervoltage s = .next { s with hs := { s.hs with
       on := false, ov := true, ovSeen := s.hs.ovSeen || s.hs.on, debouncing := false } } ∧
     (s.hs.on = true →
       exec .inputOvercurrent s = .next { s with hs := { s.hs with on := false, oc := true, ocSeen := true, latched := true } } ∧
       exec .inputShortCircuit s = .next { s with hs := { s.hs with on := false, scSeen := true, latched := true } }) ∧
     exec .railsFall s = .next { State.reset with
       pending := s.pending, free := s.free, fuses := s.fuses, flash := s.flash, pins := s.pins
       hs := { s.hs with on := false, debouncing := s.hs.seated && !s.hs.uv && !s.hs.ov && !s.hs.latched && !s.hs.pcycling } }) ∧
  (∀ (s : State) (o v : BitVec 8),
     let dark := fun (h : HotSwap) => ({ State.reset with
       pending := s.pending, free := s.free, fuses := s.fuses, flash := s.flash, pins := s.pins, hs := h } : State)
     let cycled := dark { s.hs with on := false, oc := false, latched := false, debouncing := false, pcycling := true }
     exec .seatDeassert s = .next (dark { s.hs with seated := false, on := false, debouncing := false, oc := false, latched := false }) ∧
     exec .vinPowerUp s = .next (dark HotSwap.reset) ∧
     exec .pcycle s = .next cycled ∧
     exec (.registerWrite 1 v) s = .next (if v.getLsbD 0 then { cycled with hs := { cycled.hs with nack := false } }
       else { s with hs := { s.hs with nack := false } }) ∧
     exec (.registerWrite 6 v) s = .next { s with hs := { s.hs with
       nack := false
       uvSeen := s.hs.uvSeen && !v.getLsbD 0
       ovSeen := s.hs.ovSeen && !v.getLsbD 1
       ocSeen := s.hs.ocSeen && !v.getLsbD 2
       scSeen := s.hs.scSeen && !v.getLsbD 3 } } ∧
     (o ≠ 1 → o ≠ 6 → exec (.registerWrite o v) s = .next { s with hs := { s.hs with nack := decide (6 < o.toNat) } }))

/-- 15 R352, R362 to R365: one group after the other, and at group 2 the choice of an image and its start. -/
def Obligations.GroupsReleaseInOrder : Prop :=
  (∀ s : State, s.still = true → s.powered = true → s.aon.inReset = false → s.aon.mstate = .booting → s.aon.quiescing = none →
     (s.aon.group = 0 ∨ s.aon.group = 2 → exec .groupRelease s = .next { s with aon := { s.aon with group := s.aon.group + 1 } }) ∧
     (s.aon.group = 3 → exec .groupRelease s = .next { s with
       aon := { s.aon with group := 4 }, stk := s.stk.map fun k => { k with selfRefresh := false } }) ∧
     (s.aon.group = 4 → s.aon.hbmTested = true → exec .groupRelease s = .next { s with
       aon := { s.aon with group := 5 }, cores := s.cores.map fun k => { Core.reset with resPl := k.resPl } }) ∧
     (s.aon.group = 5 → exec .groupRelease s = .next { s with
       aon := { s.aon with group := 6 }
       fabric := { s.fabric with ports := s.fabric.ports.map fun q => { q with state := if q.en then .waitPeer else .disabled } } }) ∧
     (s.aon.group = 6 → exec .groupRelease s = .next s)) ∧
  (∀ s : State, s.still = true → s.powered = true → s.aon.inReset = false → s.aon.mstate = .booting → s.aon.group = 1 →
     let code := fun (b : Bool) => if s.flash.badSlot b then 8 else s.fuses.verify (s.flash.slot b)
     let good := s.slotOrder.find? fun b => code b == 1
     ∃ t : State, exec .groupRelease s = .next t ∧
       t.aon.group = 2 ∧ t.aon.fusesSensed = true ∧ t.aon.pinmap = s.fuses.pinmap ∧
       t.reg.annSeq = s.reg.annSeq + 1 ∧ t.reg.mpOut.length = s.reg.mpOut.length + 1 ∧
       (∀ b : Bool, good = some b → t.aon.slotB = some b ∧ t.aon.mstate = .booting ∧
         (if b then t.aon.haltB else t.aon.haltA) = 1 ∧
         t.reg.fwver = BitVec.ofNat 32 (imgFwver (s.flash.slot b)) ∧ t.reg.svn = BitVec.ofNat 8 (imgSvn (s.flash.slot b)) ∧
         t.reg.image = some (imgEntry (s.flash.slot b), imgBody (s.flash.slot b))) ∧
       (good = none → t.aon.mstate = .bootHalt ∧ t.aon.slotB = s.aon.slotB ∧ t.reg.moduleId = s.loadIds.reg.moduleId ∧
         t.aon.haltA = BitVec.ofNat 4 (code false) ∧ t.aon.haltB = BitVec.ofNat 4 (code true)))

/-- 11 R245, 15 R354, R355: the ends of HBM training. The temperature stored at training is the last sample or free (log 1); the SRC byte
of the events is log 19. -/
def Obligations.HbmStartEndsInTrainedStacksOrFailure : Prop :=
  ∀ (s : State) (h : StackId) (temps : List Word),
    s.aon.mstate = .booting → s.aon.group = 4 → s.aon.hbmTested = false →
    let failed := { s with
      aon := { s.aon with mstate := .failed }
      reg := { s.reg with logs := s.reg.logs.write s.now evHbmInitFail (27 + h.val) srcNone [BitVec.ofNat 8 h.val] } }
    let apart := ∃ k : StackId, ∃ x, temps[k.val]? = some x ∧ tempsApart x (s.stack k).trainTemp = true
    let lost := ({ s with
      hbm := .reset, stk := s.stk.map fun k => { k with trained := false }, reg := { s.reg with logs := .reset }
      aon := { s.aon with retained := false, start := .retrain, hbmTrained := false } } : State)
    (s.aon.start ≠ .warm → s.aon.hbmTrained = false →
      exec (.hbmTrainingComplete none) s = .next { s with aon := { s.aon with hbmTrained := true } } ∧
      exec (.hbmTrainingComplete (some h)) s = .next failed) ∧
    (s.aon.start ≠ .warm → s.aon.hbmTrained = true →
      exec (.hbmSelfTestComplete (some h)) s = .next failed ∧
      ∃ t : State, exec (.hbmSelfTestComplete none) s = .next t ∧
        (∀ k : StackId, (t.stack k).trained = true ∧ ∃ w, t.stack k = { s.stack k with trained := true, trainTemp := w }) ∧
        t = { s with
          aon := { s.aon with hbmTested := true, retained := true }, hbm := .reset, stk := t.stk, free := t.free }) ∧
    (s.aon.start = .warm →
      (apart → ∀ ok, exec (.warmTrainingCheck ok temps) s = .next lost) ∧
      (¬apart → exec (.warmTrainingCheck true temps) s = .next { s with aon := { s.aon with hbmTrained := true, hbmTested := true } } ∧
        exec (.warmTrainingCheck false temps) s =
          .next { lost with reg := { lost.reg with logs := lost.reg.logs.write s.now evHbmRetrain 53 srcNone [] } }))

/-- 15 R349, R358, R362, R366, 16 R372: the module becomes ready. The SRC byte of the events is log 19. -/
def Obligations.ReadyLogsTheStartAndAdvancesTheFuses : Prop :=
  ∀ s : State, s.still = true → s.aon.mstate = .booting → s.aon.group = 6 → s.aon.quiescing = none → s.aon.inReset = false →
    let cold := s.flash.shutdown && s.aon.start == .cold
    let l1 := s.reg.logs.write s.now evReset 53 srcNone [s.aon.rstCause]
    let l2 := match s.aon.fatal with
      | some c => l1.write s.now evFatal 53 srcNone [c]
      | none => l1
    let l3 := if cold then l2.write s.now evThermShutdown 53 srcNone [] else l2
    let l4 := if s.fuses.arcCount < s.reg.svn.toNat then l3.write s.now evArcAdvance 52 srcNone [] else l3
    ∃ t : State, exec .moduleReady s = .next t ∧
      t.aon = { s.aon with mstate := .ready, wdogCount := 0, fatal := none, wasReady := true } ∧
      t.fuses.arcCount = max s.fuses.arcCount (min 64 s.reg.svn.toNat) ∧ t.fuses = { s.fuses with arc := t.fuses.arc } ∧
      t.flash = { s.flash with shutdown := s.flash.shutdown && !cold } ∧
      t.reg.logs = l4 ∧ t.reg.mpOut.length = s.reg.mpOut.length + 1 ∧
      t.reg = { s.reg with logs := l4, mpOut := t.reg.mpOut, annSeq := s.reg.annSeq + 1, modTarget := t.reg.modTarget } ∧
      (∀ c : CoreId, t.core c = { s.core c with target := (t.core c).target }) ∧
      t = { s with cores := t.cores, reg := t.reg, aon := t.aon, fuses := t.fuses, flash := t.flash }

/-- 15 R349 to R358, 16 R375: module resets, and the pin that is remembered while it cannot act. -/
def Obligations.ResetsStartTheModuleAgain : Prop :=
  ∀ (s : State) (ns : Nat) (k : Fin 2) (f : FatalCause) (r : BitVec 8), s.powered = true →
    let fresh := fun (cause : BitVec 8) (warm held : Bool) (t : State) =>
      t.parts = Vector.replicate 8 Partition.reset ∧ t.eng = .reset ∧ t.fabric = .reset ∧
      (∀ c : CoreId, t.core c = { Core.reset with resPl := (s.core c).resPl }) ∧
      (∀ m : MbId, t.mb m = Regulator.reset.mbs[m]) ∧
      t.aon.mstate = .booting ∧ t.aon.group = min 1 s.aon.group ∧ t.aon.inReset = held ∧ t.aon.rstCause = cause ∧
      t.aon.warmCnt = s.aon.warmCnt + 1 ∧ t.aon.time = s.aon.time ∧ t.aon.supply = s.aon.supply ∧
      t.hbm.pages = [] ∧ t.fuses = s.fuses ∧ t.flash = s.flash ∧ t.hs = s.hs ∧
      t.pins = (if held then { s.pins with mrstLow := true } else s.pins) ∧
      (if (warm && s.aon.retained) = true then t.hbm.mem = s.hbm.mem ∧ t.hbm.ecc = s.hbm.ecc ∧ t.reg.logs = s.reg.logs ∧
          t.aon.start = .warm ∧ t.aon.retained = true
        else t.hbm = .reset ∧ t.reg.logs = .reset ∧ t.aon.start = .retrain ∧ t.aon.retained = false)
    (10000 ≤ ns → s.aon.inReset = false → s.aon.mstate ≠ .s4 → ∃ t : State, exec (.mrstNAssert ns) s = .next t ∧ fresh 1 true true t) ∧
    (10000 ≤ ns → s.aon.inReset = false → s.aon.mstate = .s4 → ∃ t : State, exec (.mrstNAssert ns) s = .next t ∧
      t.aon.mstate = .booting ∧ t.aon.inReset = true ∧ t.aon.start = .retrain ∧ t.aon.retained = false ∧ t.aon.group = min 1 s.aon.group ∧
      t.aon.rstCause = s.aon.rstCause ∧ t.aon.warmCnt = s.aon.warmCnt ∧ t.pins = { s.pins with mrstLow := true } ∧
      t.eng = .reset ∧ t.fabric = .reset ∧ t.hbm = .reset ∧
      t.reg.logs = Regulator.reset.logs.write s.now evWake 53 srcNone [BitVec.ofNat 8 MState.s4.code]) ∧
    (10000 ≤ ns → ∀ dark : State, dark.powered = false → exec (.mrstNAssert ns) dark =
      .next { dark with free := dark.free + 1, pins := { dark.pins with mrstLow := true } }) ∧
    exec .mrstNRelease s = .next { s with aon := { s.aon with inReset := false }, pins := { s.pins with mrstLow := false } } ∧
    (s.aon.inReset = true → exec .mrstNLong s = .next { s with
      hbm := .reset, stk := s.stk.map fun q => { q with trained := false }, reg := { s.reg with logs := .reset }
      aon := { s.aon with retained := false, start := .retrain, hbmTrained := false, rstCause := 2 } }) ∧
    (s.regRuns = true → ∃ t : State, exec (.watchdogExpiry k) s = .next t ∧ fresh 3 true false t ∧
      t.aon.wdogCount = (if s.aon.wasReady then s.aon.wdogCount else s.aon.wdogCount + 1)) ∧
    (2 ≤ s.aon.group → fatalReset f = some r → ∃ t : State, exec (.fatalError f) s = .next t ∧
      fresh r (r != 7) false t ∧ t.aon.fatal = some (fatalCode f))

/-- 17 R399, 18 R414, 15 R350, R361: quiesce. That BOOT_HALT and FAILED stand against a request is log 61, and the SRC byte of the events
is log 19. -/
def Obligations.QuiesceEndsInQuiesced : Prop :=
  ∀ (s : State) (us : Nat) (h : StackId), s.powered = true →
    (s.aon.mstate = .bootHalt ∨ s.aon.mstate = .failed → exec (.rmvReq us) s = .next { s with free := s.free + 1 } ∧ exec .quiesced s = .next s) ∧
    (s.aon.quiescing = none → s.aon.mstate ≠ .quiesced → s.aon.mstate ≠ .bootHalt → s.aon.mstate ≠ .failed → 10000 ≤ us →
      let asked := ({ s with
        free := s.free + 1, aon := { s.aon with quiescing := some s.aon.time }
        reg := { s.reg with logs := s.reg.logs.write s.now evRmvReq 53 srcNone [] } } : State)
      (s.pinsTaken = true → exec (.rmvReq us) s = .next (asked.faultAll 8 allParts).settle) ∧
      (s.pinsTaken = false → s.still = true → ∃ t : State, exec (.rmvReq us) s = .next t ∧
        t.aon = { s.aon with quiescing := some s.aon.time, group := min 2 s.aon.group, hbmTrained := false } ∧
        t.parts = Vector.replicate 8 Partition.reset ∧ t.eng = .reset ∧ t.fabric = .reset ∧
        (∀ c : CoreId, t.core c = { Core.reset with resPl := (s.core c).resPl }) ∧
        t.hbm = { s.hbm with pages := [], rowLocal := [] } ∧ t.reg = asked.reg ∧
        t.fuses = s.fuses ∧ t.flash = s.flash ∧ t.pins = s.pins ∧ t.hs = s.hs)) ∧
    (∀ t0, s.aon.quiescing = some t0 → s.aon.inReset = false → s.allEnded = true → s.aon.mstate ≠ .bootHalt → s.aon.mstate ≠ .failed →
      let down := s.takePortsDown .removal allPorts
      exec .quiesced s = .next ((({ down with
          aon := { down.aon with mstate := .quiesced, quiescing := none }
          stk := down.stk.map fun k => { k with selfRefresh := true } } : State).logEvent evQuiesced 53 srcNone
        (bytesLE 4 ((s.now - t0.toNat) / 1000))).announce).settle) ∧
    (s.aon.mstate = .booting → s.aon.start = .warm → s.aon.group < 4 → (s.stack h).selfRefresh = true →
      ∃ t : State, exec (.selfRefreshTimeout h) s = .next t ∧ t.stack h = { s.stack h with selfRefresh := false, trained := false } ∧
        (∀ k : StackId, k ≠ h → t.stack k = { s.stack k with trained := false }) ∧
        t = { s with
          hbm := .reset, reg := { s.reg with logs := .reset }, stk := t.stk
          aon := { s.aon with retained := false, start := .retrain, hbmTrained := false } })

/-- 16 R371 with R369: one step of the loop. -/
def Obligations.ControlLoopMovesOneLevel : Prop :=
  ∀ (s : State) (rs : List Reading), s.still = true → s.regRuns = true →
    let up := rs.any (s.hotter 100 1000) || rs.any (s.hotter 1000 95) || s.powerAbove 1 1
    let near := rs.any (s.hotter 95 90) || s.powerAbove 95 100
    let held := min 50 (s.reg.relMs + 1)
    let lt := s.reg.tlevelT
    let lr := s.reg.tlevelR
    let levels :=
      if up then (if lt.toNat < 5 then (lt + 1, lr) else if lr.toNat < 5 then (lt, lr + 1) else (lt, lr))
      else if near = false ∧ 50 ≤ held then (if lr ≠ 0 then (lt, lr - 1) else if lt ≠ 0 then (lt - 1, lr) else (lt, lr))
      else (lt, lr)
    ∃ t : State, exec (.controlLoopTick rs) s = .next t ∧
      (s.aon.crit = false → (t.reg.tlevelT, t.reg.tlevelR) = levels ∧ t.reg.relMs = (if up || near then 0 else held) ∧
        ∀ c : CoreId, (s.core c).level = (s.core c).target → (t.core c).target = BitVec.ofNat 3 (t.levelTarget c)) ∧
      (s.aon.crit = true → (t.reg.tlevelT, t.reg.tlevelR) = (lt, lr) ∧ t.cores = s.cores) ∧
      (∀ h : StackId, (t.stack h).hot = (rs.foldl (fun b r =>
        if isStack r.id.toNat && r.id.toNat == 0x28 + h.val then above (s.calibrated r) 95 else b) (s.stack h).hot)) ∧
      (∀ h : StackId, t.stack h = { s.stack h with hot := (t.stack h).hot }) ∧
      (∀ c : CoreId, t.core c = { s.core c with target := (t.core c).target }) ∧
      t.reg = { s.reg with
        logs := t.reg.logs, tlevelT := t.reg.tlevelT, tlevelR := t.reg.tlevelR, relMs := t.reg.relMs, modTarget := t.reg.modTarget } ∧
      t = { s with reg := t.reg, stk := t.stk, cores := t.cores }

/-- 16 R370, R372: the hardware measures, and the end of a level change. The SRC byte of the event is log 19; that the islands of the module
change together is log 35. -/
def Obligations.CriticalHeatAndLevelChanges : Prop :=
  (∀ (s : State) (r : Reading) (rs : List Reading), s.powered = true →
     (s.still = true → s.aon.crit = false → s.hotter 110 105 r = true → ∃ t : State, exec (.thermCrit r) s = .next t ∧
       t.aon = { s.aon with crit := true } ∧ t.thermAsserted = true ∧
       (∀ c : CoreId, t.core c = { s.core c with target := if (s.core c).level = (s.core c).target then 5 else (s.core c).target }) ∧
       t.reg = { s.reg with
         logs := s.reg.logs.write s.now evThermCrit 53 srcNone []
         modTarget := if s.reg.modCur = s.reg.modTarget then 5 else s.reg.modTarget } ∧
       t = { s with aon := t.aon, reg := t.reg, cores := t.cores }) ∧
     (s.still = true → s.aon.crit = true → rs.any (s.hotter 100 95) = false → ∃ t : State, exec (.thermCritRelease rs) s = .next t ∧
       t.aon = { s.aon with crit := false } ∧
       (∀ c : CoreId, t.core c = { s.core c with
         target := if (s.core c).level = (s.core c).target then BitVec.ofNat 3 (max (s.levelWanted c) 5) else (s.core c).target }) ∧
       t.reg = { s.reg with tlevelT := 5, tlevelR := 5, relMs := 0, modTarget := t.reg.modTarget } ∧
       (s.reg.modCur = s.reg.modTarget → t.reg.modTarget = BitVec.ofNat 3 (max s.reg.modLevel.toNat 5)) ∧
       t = { s with aon := t.aon, reg := t.reg, cores := t.cores }) ∧
     (isDie r.id.toNat = true → above (s.calibrated r) 120 = true → ∃ t : State, exec (.thermShutdown r) s = .next t ∧
       t.aon = { s.aon with
         supply := .thermalOff, mstate := .booting, group := min 1 s.aon.group, hbmTrained := false, hbmTested := false
         retained := false, quiescing := none, crit := false, wasReady := false } ∧
       t.faultAsserted = true ∧ t.thermAsserted = true ∧ t.flash = { s.flash with shutdown := true } ∧
       t.parts = Vector.replicate 8 Partition.reset ∧ t.eng = .reset ∧ t.fabric = .reset ∧ t.hbm = .reset ∧
       (∀ c : CoreId, t.core c = { Core.reset with resPl := (s.core c).resPl }) ∧
       t.fuses = s.fuses ∧ t.hs = s.hs ∧ t.pins = s.pins)) ∧
  (∀ (s : State) (i : BitVec 8), s.still = true →
     (i.toNat < 24 → ∃ t : State, exec (.levelChangeComplete i) s = .next t ∧
       (∀ c : CoreId, t.core c = { s.core c with
         level := if c.val = i.toNat then (s.core c).target else (s.core c).level
         target := if c.val = i.toNat ∨ (s.core c).level = (s.core c).target then BitVec.ofNat 3 (s.levelTarget c) else (s.core c).target
         hot := if c.val = i.toNat then decide (s.levelWanted c < (s.core c).target.toNat ∧ (s.core c).target.toNat ≤ s.levelTarget c)
           else (s.core c).hot }) ∧
       t = { s with cores := t.cores, reg := { s.reg with modTarget := t.reg.modTarget } }) ∧
     (i.toNat ∈ [24, 25, 26, 49, 50] → ∃ t : State, exec (.levelChangeComplete i) s = .next t ∧
       t.reg = { s.reg with modCur := s.reg.modTarget, modTarget := BitVec.ofNat 3 s.modTargetLevel } ∧
       (∀ c : CoreId, t.core c = { s.core c with target := (t.core c).target }) ∧
       t = { s with cores := t.cores, reg := t.reg }))

/-- 16 R377, R378, 18 R409, R410, R419, 11 R244: sensors, the power meter, the pulse of GPIO code 4 and the refresh rate. What the readings
carry is log 65. -/
def Obligations.SamplesAndPinsAreRecorded : Prop :=
  ∀ (s : State) (rs : List Reading) (u a : Word) (b : Bool) (h : StackId),
    let seen := { s.hs with
      vin := BitVec.ofNat 16 (floorTimes (ofB32 u.toNat) 100), iin := BitVec.ofNat 16 (floorTimes (ofB32 a.toNat) 1000) }
    (s.regRuns = true → ∃ t : State, exec (.telemetrySample rs) s = .next t ∧
      (∀ id : Nat, t.aon.samples.get none id =
        match (rs.filter fun r => r.id.toNat == id && sensorId id).getLast? with
        | some r => some ⟨BitVec.ofNat 32 (toB32 (s.calibrated r)), s.aon.time⟩
        | none => s.aon.samples.get none id) ∧
      t = { s with aon := { s.aon with samples := t.aon.samples } }) ∧
    (s.powered = true →
      let v := s.calibrated ⟨0x50, u⟩
      let i := s.calibrated ⟨0x51, a⟩
      let nj := floorTimes (v.mul i) 10000
      exec (.powerMeterSample u a) s = .next { s with
        aon := { s.aon with energy := s.aon.energy + nj, p10 := nj :: s.aon.p10.take 999 }
        hs := seen }) ∧
    (s.powered = false → exec (.powerMeterSample u a) s = .next { s with hs := seen }) ∧
    exec (.gpioSecondPulse b) s = .next (if decide (s.now % 1000000000 < 100000000) = b then s
      else s.advanceTo (if b then (s.now / 1000000000 + 1) * 1000000000 else s.now / 1000000000 * 1000000000 + 100000000)) ∧
    ∃ t : State, exec (.stackTemperatureCrossing h b) s = .next t ∧
      t.stack h = { s.stack h with refreshDoubled := b } ∧ (∀ k : StackId, k ≠ h → t.stack k = s.stack k) ∧ t = { s with stk := t.stk }

/-- 16 R375, 11 R263, 15 R355: wake. The SRC byte of the event is log 19; the test of the training on a wake from S3 is log 62. -/
def Obligations.WakeEndsTheSleepState : Prop :=
  ∀ (s : State) (e : WakeEvent), s.powered = true → s.still = true → s.wakes s.aon.mstate e = true →
    let log := s.reg.logs.write s.now evWake 53 srcNone [BitVec.ofNat 8 s.aon.mstate.code]
    let kept := fun (m w : CoreMem) => w.acc = [] ∧ w.ofs = [] ∧ w.banks = [] ∧ w.vr = [] ∧ w.xb = [] ∧ w.xbEcc = [] ∧ w.redRec = [] ∧
      (∀ a : Nat, w.cs.read a = if a < 0x20000 * 32 then m.cs.read a else 0)
    (s.aon.mstate = .s1 → exec (.wake e) s = .next { s with aon := { s.aon with mstate := .ready }, reg := { s.reg with logs := log } }) ∧
    let stale := allStacks.any fun h => match s.aon.samples.get none (0x28 + h.val) with
      | some d => tempsApart d.value (s.stack h).trainTemp
      | none => false
    (s.aon.mstate = .s2 ∨ (s.aon.mstate = .s3 ∧ stale = false) → ∃ t : State, exec (.wake e) s = .next t ∧
      t.aon = { s.aon with mstate := .ready } ∧ t.reg = { s.reg with logs := log } ∧
      (∀ c : CoreId, kept (s.core c).mem (t.core c).mem ∧ t.core c = { s.core c with mem := (t.core c).mem }) ∧
      (∀ h : StackId, t.stack h = { s.stack h with
        selfRefresh := if s.aon.mstate = .s3 then false else (s.stack h).selfRefresh }) ∧
      t = { s with cores := t.cores, aon := t.aon, reg := t.reg, stk := t.stk }) ∧
    (s.aon.mstate = .s4 ∨ (s.aon.mstate = .s3 ∧ stale = true) → ∃ t : State, exec (.wake e) s = .next t ∧
      t.aon.mstate = .booting ∧ t.aon.retained = false ∧ t.aon.start = .retrain ∧ t.aon.rstCause = s.aon.rstCause ∧ t.aon.warmCnt = s.aon.warmCnt ∧
      t.aon.group = min 1 s.aon.group ∧ t.aon.inReset = false ∧
      (∀ m : MbId, t.mb m = Regulator.reset.mbs[m]) ∧ t.eng = .reset ∧ t.parts = Vector.replicate 8 Partition.reset ∧
      t.fabric = .reset ∧ t.hbm = .reset ∧ t.fuses = s.fuses ∧ t.flash = s.flash ∧ t.hs = s.hs ∧ t.pins = s.pins)

/-- 11 R247, R261, 16 R382, 17 R389: patrol scrub of one slot, by pseudo-channels, and mesh parity. What the foreground of a slot is is
log 64; the SRC byte of the events is log 19. -/
def Obligations.ScrubAndMeshParity : Prop :=
  (∀ (s : State) (k : StackId) (ns : Nat), s.still = true → s.scrubRuns k = true →
     let q := s.stack k
     let since := q.scrubDue.getD s.aon.time
     let quiet := (List.range 32).filter fun n => !q.scrubGot.getLsbD n && !s.pcBusy k n
     let rest := (List.range 32).filter fun n => !q.scrubGot.getLsbD n
     let read := fun (pcs : List Nat) (due : BitVec 64) (t : State) =>
       let ce := s.hbm.slotWords k q.scrubSlot pcs .single
       ∃ got : BitVec 32, (∀ n : Nat, n < 32 → got.getLsbD n = (q.scrubGot.getLsbD n || pcs.contains n)) ∧
         (∀ w : Nat, t.hbm.ecc.get .good w = if w ∈ ce then .good else s.hbm.ecc.get .good w) ∧
         t.hbm = { s.hbm with ecc := t.hbm.ecc } ∧
         (t.stack k).cnt.get 0 StackCnt.scrubCe.idx = ce.foldl (fun m _ => satAdd 32 m 1) (q.cnt.get 0 StackCnt.scrubCe.idx) ∧
         (let whole := got = BitVec.allOnes 32
          t.stack k = { q with
            cnt := (t.stack k).cnt
            scrubGot := if whole then 0 else got
            scrubSlot := if whole then (if q.scrubSlot + 1 < 49152 then q.scrubSlot + 1 else 0) else q.scrubSlot
            scrubPass := if whole ∧ 49152 ≤ q.scrubSlot + 1 then q.scrubPass + 1 else q.scrubPass
            scrubDue := if whole then none else some due }) ∧
         (∀ h : StackId, h ≠ k → t.stack h = s.stack h) ∧ t = { s with hbm := t.hbm, stk := t.stk }
     (s.hbm.slotWords k q.scrubSlot quiet .double = [] → ∃ t : State, exec (.scrubSlotDue k) s = .next t ∧ read quiet since t ∧
       ∀ n, n ≠ StackCnt.scrubCe.idx → (t.stack k).cnt.get 0 n = q.cnt.get 0 n) ∧
     (∀ d, s.hbm.slotWords k q.scrubSlot rest .double = [] → q.scrubDue = some d → d.toNat + 1000000000 ≤ s.now →
       ∃ t : State, exec (.scrubFloor k ns) s = .next t ∧ read rest d t ∧
         (t.stack k).cnt.get 0 StackCnt.floorScrub.idx = satAdd 48 (q.cnt.get 0 StackCnt.floorScrub.idx) 1 ∧
         (t.stack k).cnt.get 0 StackCnt.floorScrubNs.idx = satAdd 48 (q.cnt.get 0 StackCnt.floorScrubNs.idx) ns)) ∧
  (∀ (s : State) (a b : BitVec 8) (n : Nat) (k : FlitKind) (p : PartId) (h : StackId), s.powered = true → 3 ≤ s.aon.group →
     (n < 8 → exec (.meshParityRetry a b n k) s = .next { s with reg := { s.reg with
       logs := s.reg.logs.write s.now evMeshParity a.toNat srcNone [a, b, BitVec.ofNat 8 n] } }) ∧
     (8 ≤ n →
       exec (.meshParityRetry a b n .regulator) s = .next (s.fatalError .meshCommandPath).settle ∧
       exec (.meshParityRetry a b n (.partition p)) s = .next (if s.partExists p then s.partFault p 6 none else s).settle ∧
       exec (.meshParityRetry a b n (.scrub h)) s = .next (State.settle (if (s.stack h).scrubDue.isSome then
         (s.modStack h fun q => q.markPcs [s.freeVal % 32]).freeNext else s))))

/-- 14 R323, R325 to R328, R336, 15 R361, 16 R375: the doorbell, and how a request completes. That a refused request becomes the last
completed one, and the order of the checks (LEN, CRC, VER, RESP, STATUS, INFO, RQ, module state, authority), are the model's choice
(log 58). -/
def Obligations.DoorbellsAndResponses : Prop :=
  (∀ (s : State) (m : MbId) (q : BitVec 16), s.still = true → s.regRuns = true ∨ s.romRuns = true →
     let b := s.mb m
     let len := fieldLE b.reqArea 6 2
     let msg := padTo (32 + len) b.reqArea
     let r : MbReq := ⟨q, BitVec.ofNat 16 (fieldLE msg 4 2), Fin.ofNat 8 (fieldLE msg 8 1), BitVec.ofNat 20 (fieldLE msg 24 4),
       msg.drop 32, b.reqPath, s.reg.doorbells, none, .idle⟩
     let taken : State := { s with reg := { s.reg with mbs := s.reg.mbs.set m { b with busy := some r }, doorbells := s.reg.doorbells + 1 } }
     let ignored : State := { s with reg := { s.reg with mbs := s.reg.mbs.set m { b with ignored := satAdd 32 b.ignored 1 } } }
     let k := mbClass r.cmd.toNat r.payload
     let rqBad : Bool := match b.reqPath with
       | .stream _ => !s.rqOk (Fin.ofNat 8 (m.val + 7)) r.rq
       | _ => r.rq != 0
     let refused : Option (BitVec 16 × Nat) :=
       if 4064 < len then some (stBadField, 6)
       else if mbCrcOk msg = false then some (stMbCrc, 0)
       else if fieldLE msg 0 1 ≠ 1 then some (stBadField, 0)
       else if fieldLE msg 1 1 % 2 ≠ 0 then some (stBadField, 1)
       else if fieldLE msg 12 2 ≠ 0 then some (stBadField, 12)
       else if fieldLE msg 16 8 ≠ 0 then some (stBadField, 16)
       else if rqBad = true then some (stBadField, 24)
       else if s.stateAccepts m b.reqPath k r.cmd.toNat = false then some (stState, 0)
       else none
     let awake := if k = some .diag then taken else taken.wakeShallow
     (b.busy = none → q = b.lseq + 1 →
       (∀ st info, refused = some (st, info) → exec (.mbDoorbell m q) s = .next (taken.answered m st info [])) ∧
       (refused = none →
         (k = none → exec (.mbDoorbell m q) s = .next taken) ∧
         (∀ c, k = some c → s.mayDo m c r.part = true → exec (.mbDoorbell m q) s = .next awake) ∧
         (∀ c, k = some c → s.mayDo m c r.part = false → exec (.mbDoorbell m q) s = .next (awake.answered m stAccess 0 [])))) ∧
     (q = b.lseq → (b.respArea = [] → exec (.mbDoorbell m q) s = .next s) ∧
       (b.respArea ≠ [] → exec (.mbDoorbell m q) s =
         .next (s.sendResponse m b.reqPath q.toNat (BitVec.ofNat 20 (fieldLE b.reqArea 24 4)) b.respArea).settle)) ∧
     (∀ x, b.busy = some x → q ≠ b.lseq → exec (.mbDoorbell m q) s = .next (if x.seq = q then s else ignored)) ∧
     (b.busy = none → q ≠ b.lseq → q ≠ b.lseq + 1 → exec (.mbDoorbell m q) s = .next ignored)) ∧
  (∀ (s : State) (m : MbId) (r : MbReq) (st : BitVec 16) (info : Nat) (b : List Byte),
     (s.mb m).busy = some r → b.length ≤ 4064 → info < 2 ^ 64 →
     let msg := mbMessage true r.seq.toNat r.cmd.toNat r.part.val st.toNat info (r.path.rq r.rq) b
     let t := s.respond m st info b
     let u : State := { s with reg := { s.reg with mbs := s.reg.mbs.set m { s.mb m with
       respArea := msg, lseq := r.seq, busy := none, err := if st = stOk then (s.mb m).err else satAdd 32 (s.mb m).err 1 } } }
     (msg.length = 32 + b.length ∧ fieldLE msg 0 1 = 1 ∧ fieldLE msg 1 1 = 1 ∧ fieldLE msg 2 2 = r.seq.toNat ∧
       fieldLE msg 4 2 = r.cmd.toNat ∧ fieldLE msg 6 2 = b.length ∧ fieldLE msg 8 4 = r.part.val ∧ fieldLE msg 12 2 = st.toNat ∧
       fieldLE msg 16 8 = info ∧ fieldLE msg 24 4 = r.path.rq r.rq ∧ mbCrcOk msg = true ∧ msg.drop 32 = b) ∧
     t = u.sendResponse m r.path r.seq.toNat r.rq msg ∧
     (r.path = .none → t = u) ∧
     (∀ src, r.path = .mp src →
       t = { u with reg := { u.reg with mpOut := s.reg.mpOut ++ ((List.range (ceilDiv msg.length 1024)).map fun k =>
           s.mpFrameTo src (mpHeader 3 m.val r.seq.toNat (1024 * k) msg.length ++ (msg.drop (1024 * k)).take 1024)) } }))

/-- 14 Table 14.8, commands 0x0002 to 0x0007. -/
def Obligations.OwnerTablesTakeEffectAndAreStored : Prop :=
  ∀ (s : State) (m : MbId) (r : MbReq),
    let ok := fun (u : State) (b : List Byte) => u.answered m stOk 0 b
    let at_ := fun (o n : Nat) => fieldLE r.payload o n
    (s.Asks m 0x0002 r → at_ 1 1 ≤ 2 → at_ 2 1 ≤ 7 → at_ 3 1 = 0 →
      (9 ≤ at_ 0 1 → at_ 0 1 ≤ 14 →
        let x : MbId := Fin.ofNat 16 (at_ 0 1)
        ((s.mb x).busy = none → exec (.mbRole m) s = .next (ok (s.setMb x { s.mb x with
          role := if at_ 1 1 = 1 then .owner else if at_ 1 1 = 2 then .partition else .none, rpart := Fin.ofNat 8 (at_ 2 1) }) [])) ∧
        ((s.mb x).busy.isSome = true → exec (.mbRole m) s = .next (s.answered m stState (at_ 0 1) []))) ∧
      (at_ 0 1 < 9 ∨ 14 < at_ 0 1 → exec (.mbRole m) s = .next (s.answered m stBadField 0 []))) ∧
    (s.Asks m 0x0003 r → at_ 0 2 < 64 → at_ 0 2 + at_ 2 2 ≤ 64 → 4 + 24 * at_ 2 2 ≤ r.payload.length →
      (∀ i o, i < at_ 2 2 → hostBad (entryAt r.payload 4 24 i) = some o → (∀ j, j < i → hostBad (entryAt r.payload 4 24 j) = none) →
        exec (.hostTable m) s = .next (s.answered m stBadField (4 + 24 * i + o) [])) ∧
      ((∀ i, i < at_ 2 2 → hostBad (entryAt r.payload 4 24 i) = none) →
      ∃ u : State, exec (.hostTable m) s = .next (ok u []) ∧
        (∀ k, u.reg.hosts.get none k = if at_ 0 2 ≤ k ∧ k < at_ 0 2 + at_ 2 2 then hostEntOf (entryAt r.payload 4 24 (k - at_ 0 2))
          else s.reg.hosts.get none k) ∧
        u = { s with
          reg := { s.reg with hosts := u.reg.hosts }
          flash := (List.range (at_ 2 2)).foldl (fun f i => f.setCfg (0x60 + 24 * (at_ 0 2 + i)) (entryAt r.payload 4 24 i)) s.flash })) ∧
    (s.Asks m 0x0004 r → at_ 0 2 < 2 ^ 14 → at_ 0 2 = s.moduleId.toNat ∨ s.enabledPort = none →
      exec (.moduleSet m) s = .next (ok { s with
        reg := { s.reg with
          moduleId := BitVec.ofNat 14 (at_ 0 2), assigned := true, tport := BitVec.ofNat 16 (at_ 2 2)
          midConflict := s.reg.midConflict && decide (at_ 0 2 = s.moduleId.toNat) }
        flash := s.flash.setCfg 0x10 (bytesLE 2 (at_ 0 2 + 0x8000) ++ bytesLE 2 (at_ 2 2)) } [])) ∧
    (s.Asks m 0x0004 r → 2 ^ 14 ≤ at_ 0 2 → exec (.moduleSet m) s = .next (s.answered m stBadField 0 [])) ∧
    (s.Asks m 0x0004 r → at_ 0 2 < 2 ^ 14 → at_ 0 2 ≠ s.moduleId.toNat → ∀ p, s.enabledPort = some p →
      exec (.moduleSet m) s = .next (s.answered m stState p.val [])) ∧
    (s.Asks m 0x0005 r →
      (at_ 0 1 < 12 → at_ 1 3 = 0 → 128 ≤ at_ 4 4 → exec (.portSet m) s = .next (s.answered m stBadField 4 [])) ∧
      (at_ 0 1 < 12 → at_ 1 3 = 0 → at_ 4 4 < 128 →
        let p : PortId := Fin.ofNat 12 (at_ 0 1)
        let cfg := BitVec.ofNat 32 (at_ 4 4)
        let u := s.setPortCfg p cfg
        (u.port p).cfg = cfg ∧ ((s.port p).cfg &&& 15#32 = cfg &&& 15#32 → u = s.setPort p { s.port p with cfg := cfg }) ∧
        exec (.portSet m) s = .next (ok { u with flash := u.flash.setCfg (0x30 + 4 * at_ 0 1) (bytesLE 4 cfg.toNat) } (bytesLE 4 (u.port p).sts))) ∧
      (12 ≤ at_ 0 1 → exec (.portSet m) s = .next (s.answered m stBadField 0 []))) ∧
    (s.Asks m 0x0006 r → at_ 0 1 = 0 → at_ 1 1 ≤ 1 → at_ 2 2 + at_ 4 2 ≤ 256 → 8 + 32 * at_ 4 2 ≤ r.payload.length → at_ 6 2 = 0 →
      (∀ i, i < at_ 4 2 → s.ruleBad (entryAt r.payload 8 32 i) = none) →
      ∃ u : State, exec (.steerSet m) s = .next (ok u []) ∧
        (∀ k, u.fabric.rulesShadow.get none k = if at_ 2 2 ≤ k ∧ k < at_ 2 2 + at_ 4 2 then some (ruleOf (entryAt r.payload 8 32 (k - at_ 2 2)))
          else s.fabric.rulesShadow.get none k) ∧
        u = { s with fabric := { s.fabric with
          rulesShadow := u.fabric.rulesShadow, rules := if at_ 1 1 = 1 then u.fabric.rulesShadow else s.fabric.rules } }) ∧
    (s.Asks m 0x0006 r → at_ 0 1 = 1 → at_ 1 1 ≤ 1 → at_ 2 2 + at_ 4 2 ≤ 8 → 8 + 16 * at_ 4 2 ≤ r.payload.length → at_ 6 2 = 0 →
      (∀ i, i < at_ 4 2 → s.perfectBad (entryAt r.payload 8 16 i) = none) →
      ∃ u : State, exec (.steerSet m) s = .next (ok u []) ∧
        (∀ k, u.fabric.perfectShadow.get none k = if at_ 2 2 ≤ k ∧ k < at_ 2 2 + at_ 4 2 then
          some (perfectOf (entryAt r.payload 8 16 (k - at_ 2 2))) else s.fabric.perfectShadow.get none k) ∧
        u = { s with fabric := { s.fabric with
          perfectShadow := u.fabric.perfectShadow, perfect := if at_ 1 1 = 1 then u.fabric.perfectShadow else s.fabric.perfect } }) ∧
    (s.Asks m 0x0007 r → at_ 0 2 < 16384 → at_ 2 2 ≤ 2030 → at_ 0 2 + at_ 2 2 ≤ 16384 → 4 + 2 * at_ 2 2 ≤ r.payload.length →
      (∀ i, i < at_ 2 2 → 256 ≤ at_ (4 + 2 * i) 2 → (∀ j, j < i → at_ (4 + 2 * j) 2 < 256) →
        exec (.fwdSet m) s = .next (s.answered m stBadField (4 + 2 * i) [])) ∧
      ((∀ i, i < at_ 2 2 → at_ (4 + 2 * i) 2 < 256) → ∃ u : State, exec (.fwdSet m) s = .next (ok u []) ∧
        (∀ k, u.fabric.fwd.get 0 k = if at_ 0 2 ≤ k ∧ k < at_ 0 2 + at_ 2 2 then BitVec.ofNat 16 (at_ (4 + 2 * (k - at_ 0 2)) 2)
          else s.fabric.fwd.get 0 k) ∧
        u = { s with fabric := { s.fabric with fwd := u.fabric.fwd } }))

/-- 14 Table 14.8, commands 0x0008 to 0x000B. Which slot a firmware image is written to while the other runs is log 36; the SRC byte of
EV_ISL_RESET is log 19. -/
def Obligations.OwnerControlsActOnTheModule : Prop :=
  ∀ (s : State) (m : MbId) (r : MbReq) (b : List Byte),
    let at_ := fun (o n : Nat) => fieldLE r.payload o n
    let told := s.respond m stOk 0 []
    let c : CoreId := Fin.ofNat 24 (at_ 1 1)
    let p : PortId := Fin.ofNat 12 (at_ 1 1 - 36)
    let reads := s.partExists r.part = true ∧ 0 < at_ 4 4 ∧ ((s.part r.part).checkRange (at_ 8 8) (at_ 4 4) .r) = none ∧
      s.hbm.ecc = [] ∧ b = s.hbm.readVa (s.part r.part) (at_ 8 8) (at_ 4 4)
    let w := if s.aon.slotB = some (!s.flash.activeB) then s.flash.activeB else !s.flash.activeB
    (s.Asks m 0x0008 r → (∀ i, i < 9 → at_ i 1 ≤ 5) →
      exec (.plCap m) s = .next ((({ s with
        parts := s.parts.mapIdx fun i q => { q with cap := BitVec.ofNat 3 (at_ (1 + (i : Nat)) 1) }
        reg := { s.reg with modLevel := BitVec.ofNat 3 (at_ 0 1) } } : State).retarget).awaitWith m []).settle) ∧
    (s.Asks m 0x0009 r → s.levelsSettled = true → 1 ≤ at_ 0 1 → at_ 0 1 ≤ 4 →
      (s.aon.mstate = .ready → s.maySleep (at_ 0 1) = true → exec (.sleep m) s = .next (told.enterSleep (at_ 0 1)).settle) ∧
      (s.aon.mstate ≠ .ready ∨ s.maySleep (at_ 0 1) = false → exec (.sleep m) s = .next (s.answered m stState (at_ 0 1) []))) ∧
    (s.Asks m 0x000A r →
      (at_ 0 1 = 0 → exec (.resetWarm m) s = .next (told.moduleReset 4 .warm false).settle) ∧
      (at_ 0 1 = 1 → exec (.resetRetrain m) s = .next (told.moduleReset 5 .retrain false).settle) ∧
      (at_ 0 1 = 2 → at_ 1 1 < 24 → (s.core c).part = none ∨ (s.core c).settled = true →
        let u := told.logEvent evIslReset (at_ 1 1) srcNone (bytesLE 1 (at_ 1 1))
        exec (.islandReset m) s = .next (u.modCore c fun k => { k.cleared false with
          stash := k.stash, ctl := { (k.cleared false).ctl with tokens := k.ctl.tokens } }).settle) ∧
      (at_ 0 1 = 2 → 36 ≤ at_ 1 1 → at_ 1 1 ≤ 47 →
        exec (.islandReset m) s = .next ((told.logEvent evIslReset (at_ 1 1) srcNone (bytesLE 1 (at_ 1 1 - 36))).resetPort p).settle) ∧
      (at_ 0 1 = 2 → ¬(at_ 1 1 < 24) → ¬(36 ≤ at_ 1 1 ∧ at_ 1 1 ≤ 47) →
        exec (.islandReset m) s = .next (s.answered m stBadField 1 []))) ∧
    (s.Asks m 0x000B r → at_ 1 3 = 0 → at_ 14 2 = 0 → reads →
      (at_ 0 1 = 0 → at_ 4 4 ≤ 4 * 2 ^ 20 →
        (s.fuses.verify b = 1 → s.flash.badSlot w = false → exec (.flashWriteFirmware m) s = .next (({ s with flash := { s.flash with
          slotA := if w then s.flash.slotA else b, slotB := if w then b else s.flash.slotB, activeB := w } } : State).answered m stOk 0 [])) ∧
        (s.fuses.verify b ≠ 1 ∨ s.flash.badSlot w = true → exec (.flashWriteFirmware m) s = .next (s.answered m stBadImage 0 []))) ∧
      (at_ 0 1 = 1 → at_ 4 4 ≤ 16 + 12 * 1024 → calValid b = true → (∀ i, i < fieldLE b 6 2 → calBad b i = none) →
        exec (.flashWriteCalibration m) s = .next (({ s with
          flash := { s.flash with userCal := b }, aon := { s.aon with retained := false } } : State).answered m stOk 0 [])) ∧
      (at_ 0 1 = 2 → at_ 4 4 = cfgBytes → cfgValid b = true → fieldLE b 6 2 = 0 → fieldLE b 0xC 4 = 0 →
        (fieldLE b 0x10 2).testBit 14 = false → 400 ≤ fieldLE b 0x14 2 → fieldLE b 0x14 2 ≤ 1000 → fieldLE b 0x16 2 = 0 →
        fieldLE b 0x22 14 = 0 → (∀ i, i < 12 → fieldLE b (0x30 + 4 * i) 4 < 128) →
        (∀ i, i < 64 → hostBad (entryAt b 0x60 24 i) = none) →
        exec (.flashWriteConfig m) s = .next (({ s with flash := { s.flash with config := b } } : State).answered m stOk 0 [])))

/-- 14 R337, R338, 05 R120. -/
def Obligations.PartitionsAndCoresAreMade : Prop :=
  ∀ (s : State) (m : MbId) (r : MbReq),
    let p := r.part
    let at_ := fun (o n : Nat) => fieldLE r.payload o n
    let c := partCfgOf r.payload
    let pg := s.hbm.pickPages none (pagesFor c.s.toNat)
    let named := allCores.filter fun k => (at_ 4 4).testBit k.val
    (s.Asks m 0x0101 r →
      (s.partExists p = true → exec (.partCreate m) s = .next (s.answered m stState p.val [])) ∧
      (s.partExists p = false → at_ 0 1 ≤ 1 → at_ 1 1 ≤ 1 → at_ 2 1 ≤ 1 → at_ 8 2 < 4096 → at_ 0xA 1 < 8 → at_ 0xC 4 = 0 →
        (if c.rt then 1 ≤ at_ 3 1 ∧ at_ 3 1 ≤ 192 else at_ 3 1 = 0) →
        at_ 0xB 1 ≤ 5 → at_ 0x10 8 % 6144 = 0 → at_ 0x18 8 % 6144 = 0 → at_ 0x18 8 ≤ at_ 0x10 8 →
        s.shares + (if c.rt then at_ 3 1 else 0) ≤ 192 → pg.length = pagesFor c.s.toNat →
        ∃ u : State, exec (.partCreate m) s = .next (u.answered m stOk 0 []) ∧
          u.part p = { Partition.reset with
            cfg := some c, key := if c.enc then some s.freeVal else none, cap := c.plcap.truncate 3, stashPages := pg } ∧
          (∀ q : PartId, q ≠ p → u.part q = s.part q) ∧
          (∀ a : Nat, u.hbm.mem.read a = if a / pageBytes ∈ pg then 0 else s.hbm.mem.read a) ∧
          (∀ k : Nat, u.hbm.pages.get .free k = if k ∈ pg then .stash p else s.hbm.pages.get .free k) ∧
          (∀ k : Nat, u.hbm.keys.get none k = if k ∈ pg then (if c.enc then some s.freeVal else none) else s.hbm.keys.get none k) ∧
          u = { s with parts := u.parts, hbm := u.hbm, free := s.free + 1 })) ∧
    (s.Asks m 0x0104 r → s.partExists p = true → at_ 1 3 = 0 → at_ 4 4 < 2 ^ 24 →
      (at_ 0 1 = 0 → (∀ k ∈ named, (s.core k).settled = true) →
        (s.isRt p = true → (allCores.filter fun k => named.contains k || (s.core k).part == some p).length ≤ 8) →
        ∃ u : State, exec (.coreAssign m) s = .next (u.retarget.answered m stOk 0 []) ∧
          (∀ k : CoreId, u.core k = if k ∈ named ∧ (s.core k).part ≠ some p then
            { (s.core k).cleared true with part := some p, granted := 0 } else s.core k) ∧ u = { s with cores := u.cores }) ∧
      (at_ 0 1 = 1 → (∀ k ∈ named, (s.core k).settled = true ∧ (s.core k).part = some p) →
        ∃ u : State, exec (.coreUnassign m) s = .next (u.retarget.answered m stOk 0 []) ∧
          (∀ k : CoreId, u.core k = if k ∈ named then { (s.core k).cleared true with part := none, granted := 0 } else s.core k) ∧
          u = { s with cores := u.cores }) ∧
      (∀ k, at_ 0 1 = 0 → (s.isRt p = true → (allCores.filter fun k => named.contains k || (s.core k).part == some p).length ≤ 8) →
        named.find? (fun j => !(s.core j).settled) = some k → exec (.coreAssign m) s = .next (s.answered m stState k.val [])) ∧
      (∀ k, at_ 0 1 = 1 → (∀ j ∈ named, (s.core j).part = some p) → named.find? (fun j => !(s.core j).settled) = some k →
        exec (.coreUnassign m) s = .next (s.answered m stState k.val []))) ∧
    (s.Asks m 0x0102 r →
      (s.partExists p = false → exec (.partDelete m) s = .next (s.answered m stNotFound 0 [])) ∧
      (s.partExists p = true → (s.endPart m p false).partExists p = false ∧
        exec (.partDelete m) s = .next ((s.endPart m p false).answered m stOk 0 []))) ∧
    (s.Asks m 0x0103 r →
      (s.partExists p = false → exec (.partReset m) s = .next (s.answered m stNotFound 0 [])) ∧
      (∀ q, (s.part p).cfg = some q →
        (((s.endPart m p true).freshPart p q).part p).cfg = some q ∧ (((s.endPart m p true).freshPart p q).part p).pages = [] ∧
        exec (.partReset m) s = .next ((((s.endPart m p true).freshPart p q).retarget).answered m stOk 0 [])))

/-- 14 R340, 11 R246, R252, R253, 08 R178. The status of a creation that finds too few level-2 tables is log 41, and where tables
and their lines stand is log 79: the model's choices. -/
def Obligations.RegionsAreMappedAndUnmapped : Prop :=
  ∀ (s : State) (m : MbId) (r : MbReq),
    let p := r.part
    let at_ := fun (o n : Nat) => fieldLE r.payload o n
    let n := at_ 4 4
    let v0 := at_ 8 6 / pageBytes
    let legal := at_ 1 1 ≤ 15 ∧ at_ 2 1 ≤ 31 ∧ 1 ≤ n ∧ n ≤ partPages ∧ at_ 3 1 = 0 ∧ at_ 14 2 = 0 ∧ at_ 8 6 % pageBytes = 0 ∧
      at_ 8 6 + n * pageBytes ≤ 2 ^ 48
    let pg := s.hbm.pickPages r.mapMode n
    let mapped := fun (u : State) (v : Nat) => (u.part p).pages.get none v
    let table := fun (u : State) (i : Nat) => (u.part p).l1.get none i
    let others := fun (u : State) => (∀ q : PartId, q ≠ p → u.part q = s.part q) ∧
      u.part p = { s.part p with pages := (u.part p).pages, l1 := (u.part p).l1 }
    let wanted := r.l1Wanted (s.part p)
    let dropped := fun (u : State) => u.eng = { s.eng with tlb := s.eng.tlb.filter fun t => !(t.1 == p && decide (v0 ≤ t.2 ∧ t.2 < v0 + n)) }
    s.partExists p = true →
    (s.Asks m 0x0105 r → legal →
      (at_ 0 1 = 0 → ((s.part p).pages.any fun e => decide (v0 ≤ e.1 ∧ e.1 < v0 + n)) = false →
        (s.isRt p = true → s.pinnedPages + n ≤ 4096) → pg.length = n →
        (s.l2Free.length < wanted.length → exec (.regionMap m) s = .next (s.answered m stNoResource 2 [])) ∧
        (wanted.length ≤ s.l2Free.length → ∃ u : State, exec (.regionMap m) s = .next (u.answered m stOk 0 (bytesLE 4 n)) ∧
          (∀ i, i < n → mapped u (v0 + i) = some (pteWith (at_ 2 1) (pg.getD i 0))) ∧
          (∀ v, v < v0 ∨ v0 + n ≤ v → mapped u v = mapped s v) ∧
          (∀ a : Nat, u.hbm.mem.read a = if a / pageBytes ∈ pg then 0 else s.hbm.mem.read a) ∧
          (∀ k : Nat, u.hbm.pages.get .free k = if k ∈ pg then .mapped p else s.hbm.pages.get .free k) ∧
          (∀ k : Nat, u.hbm.keys.get none k = if k ∈ pg then (s.part p).key else s.hbm.keys.get none k) ∧
          (∀ j, j < wanted.length → table u (wanted.getD j 0) = s.l2Free[j]?) ∧
          (∀ i, i ∉ wanted → table u i = table s i) ∧ others u ∧ u = { s with parts := u.parts, hbm := u.hbm })) ∧
      (at_ 0 1 = 1 → s.allMapped r = true → s.longRuns m p = false → s.mapQuiet p = true →
        ∃ u : State, exec (.regionUnmap m) s = .next (u.answered m stOk 0 (bytesLE 4 n)) ∧
          (∀ i, i < n → mapped u (v0 + i) = none) ∧ (∀ v, v < v0 ∨ v0 + n ≤ v → mapped u v = mapped s v) ∧
          (∀ i e, i < n → mapped s (v0 + i) = some e → u.hbm.pages.get .free e.ppn = .free) ∧
          (∀ i, table u i = if (u.part p).pages.any (fun g => g.1 / 8192 == i) then table s i else none) ∧
          u.hbm.mem = s.hbm.mem ∧ dropped u ∧ others u ∧ u = { s with parts := u.parts, hbm := u.hbm, eng := u.eng }) ∧
      (at_ 0 1 = 2 → s.allMapped r = true → s.longRuns m p = false → s.mapQuiet p = true →
        ∃ u : State, exec (.regionSetRights m) s = .next (u.answered m stOk 0 (bytesLE 4 n)) ∧
          (∀ i e, i < n → mapped s (v0 + i) = some e → mapped u (v0 + i) = some (pteWith (at_ 2 1) e.ppn)) ∧
          (∀ v, v < v0 ∨ v0 + n ≤ v → mapped u v = mapped s v) ∧ (u.part p).l1 = (s.part p).l1 ∧ dropped u ∧ others u ∧
          u = { s with parts := u.parts, eng := u.eng }) ∧
      (at_ 0 1 = 1 ∨ at_ 0 1 = 2 → s.allMapped r = true → s.longRuns m p = true →
        exec (if at_ 0 1 = 1 then .regionUnmap m else .regionSetRights m) s = .next (s.answered m stState p.val []))) ∧
    (s.Asks m 0x0106 r → at_ 0 8 % 6144 = 0 → at_ 8 8 % 6144 = 0 → at_ 8 8 ≤ at_ 0 8 → s.longRuns m p = false →
      (∀ c ∈ s.coresOf p, (s.core c).ctl.stream = .idle) →
      let old := (s.part p).stashPages
      let need := pagesFor (at_ 0 8)
      let add := s.hbm.pickPages none (need - old.length)
      add.length = need - old.length →
      ∃ u : State, exec (.stashSet m) s = .next (u.answered m stOk 0 []) ∧
        u.part p = { s.part p with
          stashPages := old.take need ++ add
          cfg := (s.part p).cfg.map fun c => { c with s := BitVec.ofNat 64 (at_ 0 8), h := BitVec.ofNat 64 (at_ 8 8) } } ∧
        (∀ q : PartId, q ≠ p → u.part q = s.part q) ∧
        (∀ a : Nat, u.hbm.mem.read a = if a / pageBytes ∈ add then 0 else s.hbm.mem.read a) ∧
        (∀ k : Nat, u.hbm.keys.get none k = if k ∈ add then (s.part p).key else s.hbm.keys.get none k) ∧
        u = { s with parts := u.parts, hbm := u.hbm })

/-- 10 R219 to R221, R239, 14 R344: queue commands. What waited for the descriptor of a deleted queue goes on without one (log 44). -/
def Obligations.QueuesAreMadeReadAndEnded : Prop :=
  ∀ (s : State) (m : MbId) (r : MbReq) (q : Queue), s.partExists r.part = true →
    let p := r.part
    let at_ := fun (o n : Nat) => fieldLE r.payload o n
    let fresh := queueOf ((r.payload.drop 8).take 32)
    let id := r.qid 4
    let id0 := r.qid 0
    (s.Asks m 0x0107 r → at_ 1 3 = 0 →
      (at_ 0 1 ≤ 3 → 0xFFFF0 ≤ at_ 4 4 → at_ 4 4 < 2 ^ 20 →
        (at_ 0 1 = 0 → exec (.queueCreate m) s = .next (s.answered m stAccess 0 [])) ∧
        (at_ 0 1 = 3 → s.ownQueue r 4 = some q → exec (.queueDelete m) s = .next (s.answered m stAccess 0 []))) ∧
      (at_ 4 4 < 0xFFFF0 →
        (at_ 0 1 = 0 → s.queue id = none → queueBad ((r.payload.drop 8).take 32) (s.isRt p) = none → fresh.part = p →
          s.groupRefuses fresh = true → exec (.queueCreate m) s = .next (s.answered m stBadField 30 [])) ∧
        (at_ 0 1 = 0 → s.queue id = none → queueBad ((r.payload.drop 8).take 32) (s.isRt p) = none → fresh.part = p →
          s.groupRefuses fresh = false → s.ncqOk fresh = true → s.areaOk fresh = true → ((fresh.pin || s.isRt p) = true → s.pinnedQueues < 4096) →
          fresh.items = [] ∧ fresh.ppos = 0 ∧ fresh.dpos = 0 ∧
          exec (.queueCreate m) s = .next (((s.setQueue id fresh).joinGroup id fresh).answered m stOk 0 [])) ∧
        (s.ownQueue r 4 = some q →
          (at_ 0 1 = 1 → s.ncqOk q = true → s.areaOk q = true →
            exec (.queueEnable m) s = .next ((s.setQueue id { q with en := true }).answered m stOk 0 [])) ∧
          (at_ 0 1 = 2 → exec (.queueDisable m) s = .next ((s.setQueue id { q with en := false }).answered m stOk 0 [])) ∧
          (at_ 0 1 = 3 → (q.isCq && s.ncqNames id) = false →
            ((s.leaveGroup id q).dropQueue id).queue id = none ∧
            exec (.queueDelete m) s = .next (((s.leaveGroup id q).dropQueue id).releaseHeld.answered m stOk 0 []))) ∧
        (at_ 0 1 = 1 → s.queue id = none → exec (.queueEnable m) s = .next (s.answered m stNotFound 0 [])))) ∧
    (at_ 0 4 < 0xFFFF0 →
      (s.Asks m 0x0205 r →
        (s.ownQueue r 0 = some q →
          exec (.queueRead m) s = .next ((s.setQueue id0 { q with dlMiss := 0, qDrop := 0 }).answered m stOk 0 q.descriptor)) ∧
        (s.queue id0 = none → exec (.queueRead m) s = .next (s.answered m stNotFound 0 []))) ∧
      (s.Asks m 0x0206 r → s.ownQueue r 0 = some q → q.isCq = true ∨ q.isJq = true →
        let k := ahead16 (at_ 4 2) q.dseq
        (k < 32768 → q.dpos + k ≤ q.ppos →
          exec (.queueDoorbell m) s = .next ((s.setQueue id0 ({ q with dpos := q.dpos + k }).tidy).answered m stOk 0 [])) ∧
        (32768 ≤ k ∨ q.ppos < q.dpos + k → exec (.queueDoorbell m) s = .next (s.answered m stBadField 4 []))) ∧
      (s.Asks m 0x0207 r → s.ownQueue r 0 = some q →
        let hit := q.abortHits (at_ 4 2)
        (hit = [] → exec (.queueAbort m) s = .next (s.answered m stAlreadyDone 0 [])) ∧
        (hit ≠ [] → exec (.queueAbort m) s = .next ((s.abortItems id0 q (at_ 4 2)).answered m stOk 0
          (bytesLE 2 (firstSeq hit) ++ bytesLE 2 hit.length)))))

/-- 14 R333, R335, R339, R342, R343. -/
def Obligations.StreamsStartAndStop : Prop :=
  ∀ (s : State) (m : MbId) (r : MbReq),
    let p := r.part
    let at_ := fun (o n : Nat) => fieldLE r.payload o n
    let ent := startEnt r.payload
    let who := fun (i : Nat) => (Fin.ofNat 24 (ent i).1 : CoreId)
    let named := allCores.filter fun c => (at_ 0 4).testBit c.val
    let running := named.filter fun c => (s.core c).part == some p && (s.core c).ctl.stream == .running
    let g := max (at_ 4 1) (max (s.part p).cap.toNat s.reg.modLevel.toNat)
    let x : MbId := Fin.ofNat 16 (at_ 0 1)
    (s.Asks m 0x0202 r → 1 ≤ at_ 0 1 → at_ 1 3 = 0 → s.partExists p = true → s.longRuns m p = false →
      (∀ i, i < at_ 0 1 → s.startBad p r.payload i = none) →
      ((∀ i, i < at_ 0 1 → s.mayStart p (who i) = true) → ∃ u : State, exec (.streamStart m) s = .next (u.answered m stOk 0 []) ∧
        (∀ i, i < at_ 0 1 → u.core (who i) = { s.core (who i) with ctl := { (s.core (who i)).ctl with
          stream := .running, pc := (ent i).2.2, cq := (ent i).2.1, ending := false } }) ∧
        (∀ c : CoreId, (∀ i, i < at_ 0 1 → c ≠ who i) → u.core c = s.core c) ∧ u = { s with cores := u.cores }) ∧
      (∀ i, i < at_ 0 1 → s.mayStart p (who i) = false → (∀ j, j < i → s.mayStart p (who j) = true) →
        exec (.streamStart m) s = .next (s.answered m stState (ent i).1 []))) ∧
    (s.Asks m 0x0203 r → s.partExists p = true → at_ 0 4 < 2 ^ 24 →
      (running = [] → exec (.streamCancel m) s = .next (s.answered m stAlreadyDone 0 [])) ∧
      (running ≠ [] → exec (.streamCancel m) s = .next ((((s.cancelStreams running).cancelFed p running).awaitWith m
        (bytesLE 4 (running.map fun c => (s.core c).unstartedCount).sum)).settle))) ∧
    (s.Asks m 0x0204 r → s.partExists p = true → at_ 0 4 < 2 ^ 24 → at_ 4 1 ≤ 5 →
      ((∀ c ∈ named, (s.core c).part = some p) → ∃ u : State,
        exec (.plRequest m) s = .next ((u.retarget.awaitWith m (bytesLE 1 g)).settle) ∧
        (∀ c : CoreId, u.core c = if c ∈ named then { s.core c with granted := BitVec.ofNat 3 g } else s.core c) ∧
        u = { s with cores := u.cores }) ∧
      ((∃ c ∈ named, (s.core c).part ≠ some p) → exec (.plRequest m) s = .next (s.answered m stAccess 0 []))) ∧
    (s.Asks m 0x0001 r → at_ 0 1 < 16 → at_ 1 1 = 0 →
      (s.mayAbort m x = false → exec (.mbAbort m) s = .next (s.answered m stAccess 0 [])) ∧
      (s.mayAbort m x = true →
        (∀ q, x ≠ m → (s.mb x).busy = some q → q.seq.toNat = at_ 2 2 → q.committed = false →
          exec (.mbAbort m) s = .next ((s.respond x stAborted 0 []).answered m stOk 0 [])) ∧
        (∀ q, (s.mb x).busy = some q → q.seq.toNat = at_ 2 2 → (x = m ∨ q.committed = true) →
          exec (.mbAbort m) s = .next (s.answered m stAlreadyDone 0 [])) ∧
        ((s.mb x).busy = none → (s.mb x).lseq.toNat = at_ 2 2 → exec (.mbAbort m) s = .next (s.answered m stAlreadyDone 0 [])) ∧
        ((s.mb x).busy = none → (s.mb x).lseq.toNat ≠ at_ 2 2 → exec (.mbAbort m) s = .next (s.answered m stNotFound 0 [])))) ∧
    ((s.mb m).busy = some r → r.wait = none → mbClass r.cmd.toNat r.payload = none →
      exec (.badCommand m) s = .next (s.answered m stBadCommand 0 []))

/-- 14 R341: PROGRAM_LOAD. -/
def Obligations.ProgramsLoadAllOrNothing : Prop :=
  ∀ (s : State) (m : MbId) (r : MbReq), s.Asks m 0x0201 r → s.partExists r.part = true →
    let p := r.part
    let n := fieldLE r.payload 0 2
    let ds := (List.range n).map (loadDescOf r.payload)
    let l := ds.zip (ds.map fun d => s.hbm.readVa (s.part p) d.va d.bytes)
    1 ≤ n → n ≤ 253 → fieldLE r.payload 2 14 = 0 → (∀ i, i < n → descBad r.payload i = none) → (∀ d ∈ ds, d.bad = none) →
    (s.longRuns m p = true ∨ s.noneRunning p = false ∨ ((s.part p).ue.steps.any UeStep.isOpen) = true →
      exec (.programLoad m) s = .next (s.answered m stState p.val [])) ∧
    (s.longRuns m p = false → s.noneRunning p = true → ((s.part p).ue.steps.any UeStep.isOpen) = false →
      (∀ d ∈ ds, (s.part p).checkRange d.va d.bytes .r = none) → s.hbm.ecc = [] →
      (∀ t, s.loadTables p l = .ok t → exec (.programLoad m) s = .next (t.answered m stOk 0 [])) ∧
      (∀ i, s.loadTables p l = .error i → exec (.programLoad m) s = .next (s.answered m stRefusedTable i [])))

/-- 14 R345 to R348, 16 R378, R384: reads. -/
def Obligations.ReadsReturnAndClearWhatTheySay : Prop :=
  ∀ (s : State) (m : MbId) (r : MbReq),
    let p := r.part
    let at_ := fun (o n : Nat) => fieldLE r.payload o n
    let ok := fun (u : State) (b : List Byte) => u.answered m stOk 0 b
    let free := fun (n : Nat) => ({ s with free := s.free + n } : State)
    let trace := (at_ 4 2).testBit 15
    let ring := if trace then s.reg.logs.trace.map (fun t => (t.seq, t.bytes)) else s.reg.logs.events.map fun e => (e.seq, e.bytes)
    let got := ringRead ring (if trace then s.reg.logs.traceSeq else s.reg.logs.nextSeq) (BitVec.ofNat 32 (at_ 0 4)) (at_ 4 2 % 2 ^ 15) s.freeVal
    let passes := trace = false ∧ s.hasOwner m = true ∧ got.2.2 ≠ [] ∧ before32 s.reg.logs.ownerRead got.1 = true
    let nonce := padTo 32 (r.payload.take 32)
    (s.Asks m 0x0208 r → at_ 0 1 ≤ 8 → at_ 1 1 ≤ 1 → indexBad (at_ 0 1) (at_ 2 2) = false → (at_ 0 1 ≤ 5 → s.partExists p = true) →
      (at_ 0 1 = 0 → at_ 1 1 = 0 → (s.core (Fin.ofNat 24 (at_ 2 2))).part = some p) →
      exec (.counterRead m) s = .next (ok (s.readGroup r).2 (bytes8 (s.readGroup r).1))) ∧
    (s.Asks m 0x0209 r → s.partExists p = true →
      exec (.stepLogRead m) s = .next (ok s (padTo 512 ((s.part p).ue.steps.flatMap UeStep.bytes)))) ∧
    (s.Asks m 0x020D r → s.partExists p = true →
      exec (.partStatus m) s = .next (ok (free 1) (bytesLE 1 (s.isRt p).toNat ++ bytesLE 1 0 ++
        bytesLE 2 (((s.part p).fault.map fun f => f.2.toNat).getD 0) ++ bytesLE 4 (((s.openStep p).map BitVec.toNat).getD s.freeVal) ++
        allCores.flatMap fun c => bytesLE 1 (if (s.core c).part = some p then (s.core c).ctl.stream.code else 0xFF)))) ∧
    (s.Asks m 0x0301 r → exec (.moduleStatus m) s = .next (ok s (padTo 16 s.fuses.partno ++ bytesLE 2 s.moduleId.toNat ++
      bytesLE 2 s.stateWord ++ bytesLE 4 (if s.aon.mstate = .bootHalt then 0 else s.reg.fwver.toNat) ++ bytesLE 8 s.fuses.arcCount ++
      bytesLE 12 s.fuses.arrayEn.toNat ++ (allMbs.flatMap fun x => bytesLE 4 (s.mb x).sts) ++
      allPorts.flatMap fun q => bytesLE 4 (s.port q).sts))) ∧
    (s.Asks m 0x0302 r → ∃ u : State, exec (.eventRead m) s = .next (ok u (bytesLE 4 got.1.toNat ++ bytesLE 4 got.2.1.toNat ++
        bytesLE 4 (if trace then 0 else s.reg.logs.lostcnt) ++ bytesLE 2 got.2.2.length ++ bytesLE 2 0 ++ got.2.2.flatMap (·.2))) ∧
      (passes → u = { free 1 with reg := { s.reg with logs := { s.reg.logs with ownerRead := got.1 } } }) ∧ (¬passes → u = free 1)) ∧
    (s.Asks m 0x0303 r → at_ 0 1 ≤ 4 →
      (s.hasOwner m = false → exec (.telemetryRead m) s = .next (ok (free 256) (s.telemetrySet (at_ 0 1)))) ∧
      (s.hasOwner m = true → exec (.telemetryRead m) s =
        .next (ok ({ s.telemetryClear (at_ 0 1) with free := s.free + 256 }) (s.telemetrySet (at_ 0 1))))) ∧
    (s.Asks m 0x0304 r → at_ 2 2 ≤ 4064 → exec (.fruRead m) s = .next (ok s (padTo (at_ 2 2) (s.fuses.fru.drop (at_ 0 2))))) ∧
    (s.Asks m 0x0305 r → at_ 32 4 ≤ 17440 →
      (∀ b, s.reg.report = some (nonce, b) → exec (.attest m) s =
        .next (ok s (bytesLE 4 17440 ++ bytesLE 4 (at_ 32 4) ++ (b.drop (at_ 32 4)).take 4056))) ∧
      ((∀ b, s.reg.report ≠ some (nonce, b)) → exec (.attest m) s =
        .next (ok { free 2 with reg := { s.reg with report := some (nonce, s.report nonce) } }
          (bytesLE 4 17440 ++ bytesLE 4 (at_ 32 4) ++ ((s.report nonce).drop (at_ 32 4)).take 4056))))

/-- 14 R346, R347, 13 R319: audit, checkpoint, restore. The layout of an image, the reads of a buddy elsewhere and the place of the E tensor
are the model's choices (logs 37, 23). -/
def Obligations.CheckpointsCopyAndRestoreTheState : Prop :=
  ∀ (s : State) (m : MbId) (r : MbReq) (image : List Byte), s.partExists r.part = true → s.longRuns m r.part = false →
    let p := r.part
    let at_ := fun (o n : Nat) => fieldLE r.payload o n
    let q := s.part p
    let readable := fun (l : List (Nat × Nat)) => ∀ x ∈ l, q.checkRange x.1 x.2 .r = none
    let mode := at_ 0 1
    let sbs := auditSbs (s.isCompact p) (at_ 2 2) ((q.ue.shards.drop (at_ 2 2)).take (at_ 4 2))
    let vlen := if mode.testBit 1 then at_ 0x10 8 else 0
    let reads := (sbs.flatMap fun e => e.2.2.map fun t => (t.2, 2112)) ++ [(at_ 8 6, vlen)]
    let bs := reads.map fun x => s.hbm.readVa q x.1 x.2
    let audit := if mode.testBit 0 then auditAll Audit.none sbs bs else Audit.none
    let form := at_ 4 2 < 2 ^ 14 ∧ at_ 6 2 = 0 ∧ at_ 14 2 = 0
    let peerOk := form ∧ s.eng.lostMods.contains (BitVec.ofNat 14 (at_ 4 2)) = false
    let self := at_ 4 2 = s.moduleId.toNat
    let bva := at_ 8 6
    let len := at_ 16 8
    let step := BitVec.ofNat 32 (at_ 0 4)
    let runs := s.copyRuns p
    let h0 := s.hbm.readVa q bva 32
    let img := s.olderImage p h0 (s.hbm.readVa q (bva + len) 32)
    let far := BitVec.ofNat 14 (at_ 4 2)
    let ask := State.settle (s.askImages m p far [(0, bva, 32), (1, bva + len, 32)] fun i k => .probe i k [])
    let heads := fun (hs : List (Nat × List Byte)) (a b : List Byte) =>
      (hs.find? (·.1 == 0)).map (·.2) = some a ∧ (hs.find? (·.1 == 1)).map (·.2) = some b
    let found := if s.headerOurs p h0 && fieldLE h0 0 4 == at_ 0 4 then 0 else 1
    let ready := q.ue.hasClosed step = true ∧ q.ue.wasAborted step = false ∧ s.imageBytes p ≤ len ∧
      (∀ x ∈ runs, q.checkRange x.1 x.2 .pr = none) ∧ s.hbm.ecc = []
    let body := (runs.map fun x => s.hbm.readVa q x.1 x.2).flatten
    (s.Asks m 0x020A r → mode ≤ 3 → at_ 1 1 ≤ 15 → at_ 6 2 = 0 → at_ 14 2 = 0 →
      at_ 4 2 = 0 ∨ at_ 2 2 + at_ 4 2 ≤ q.ue.shards.length → bva % 32 = 0 → s.noneRunning p = true →
      readable reads → s.hbm.ecc = [] →
      exec (.auditState m) s = .next (s.answered m stOk 0 (audit.bytes
        (if mode.testBit 1 then sha384 (digestBytes (at_ 1 1) sbs bs) else []) (if vlen = 0 then [] else sha384 (bs.getLastD []))))) ∧
    (s.Asks m 0x020B r → peerOk → ready →
      (self → q.checkRange bva (2 * len) .pw = none →
        let a := s.hbm.writeVa q [] (bva + img * len + 32) body
        exec (.checkpoint m) s = .next (({ s with
          hbm := a.writeVa q [] (bva + img * len) (s.imageHeader p (at_ 0 4)) } : State).answered m stOk 0
            (bytesLE 1 img ++ List.replicate 7 0 ++ bytesLE 8 (s.imageBytes p)))) ∧
      (¬self → (∀ i k hs, r.copy ≠ .probe i k hs) → exec (.checkpoint m) s = .next ask) ∧
      ∀ i k hs, ¬self → r.copy = .probe i k hs →
        (s.sess i = none → exec (.checkpoint m) s = .next (s.answered m stPeerLost 0 [])) ∧
        ((s.sess i).isSome = true →
          (∀ a b, heads hs a b → exec (.checkpoint m) s = .next (s.sendImage m p far (bva + s.olderImage p a b * len) (at_ 0 4)
            (s.olderImage p a b) body).settle) ∧
          ((∀ a b, ¬heads hs a b) → exec (.checkpoint m) s = .next s.settle))) ∧
    (s.Asks m 0x020B r → peerOk → q.ue.hasClosed step = false → exec (.checkpoint m) s = .next (s.setCopy m .closing).settle) ∧
    (s.Asks m 0x020B r → form → s.eng.lostMods.contains (BitVec.ofNat 14 (at_ 4 2)) = true →
      exec (.checkpoint m) s = .next (s.answered m stPeerLost 0 [])) ∧
    (s.Asks m 0x020C r → peerOk → s.noneRunning p = true → ¬self →
      ((∀ i k hs, r.copy ≠ .probe i k hs) → (∀ i k, r.copy ≠ .fetch i k) → exec (.restore m image) s = .next ask) ∧
      (∀ i k hs a b, r.copy = .probe i k hs → (s.sess i).isSome = true → heads hs a b →
        (s.imageOf p (at_ 0 4) a b = none → exec (.restore m image) s = .next (s.answered m stNotFound 0 [])) ∧
        ∀ n, s.imageOf p (at_ 0 4) a b = some n → exec (.restore m image) s =
          .next (s.askImages m p far [(n, bva + n * len, min len (s.imageBytes p))] fun i k => .fetch i k).settle) ∧
      ∀ i k, r.copy = .fetch i k → s.sess i = none → exec (.restore m image) s = .next (s.answered m stPeerLost 0 [])) ∧
    (s.Asks m 0x020C r → peerOk → s.noneRunning p = true → (self → q.checkRange bva (2 * len) .r = none ∧ s.hbm.ecc = []) →
      (¬self → ∃ i k, r.copy = .fetch i k ∧ (s.sess i).isSome = true) →
      let b := if self then s.hbm.readVa q (bva + found * len) (min len (s.imageBytes p)) else image
      ((s.headerOurs p b = false ∨ fieldLE b 0 4 ≠ at_ 0 4) → exec (.restore m image) s = .next (s.answered m stNotFound 0 [])) ∧
      (s.headerOurs p b = true → fieldLE b 0 4 = at_ 0 4 → (∀ x ∈ runs, q.checkRange x.1 x.2 .w = none) →
        (s.writeTensors p runs (b.drop 32)).1 = true →
        let u := (s.writeTensors p runs (b.drop 32)).2
        exec (.restore m image) s = .next ((u.modUe p fun e => { e with
          steps := [], begun := none, recStep := [], staged := [], known := [], seeds := e.seeds.filter fun k => !before32 step k.step
          norm2 := e.norm2.filter fun n => !before32 step n.1, allRec := some step }).answered m stOk 0 (bytesLE 8 (s.imageBytes p)))))

/-- 13 R290, R292: the checks of packets and exactly-once delivery. 13 R292, R293: acknowledgement, retransmission and the window.
That a packet which was refused stays out of the books until its refusal is acknowledged is log 23, and that the CLOSE of a closed
session is kept until then and given up on silence is log 52, both the model's choices (R290 says that no chunk is abandoned). -/
def Obligations.PacketsAreTakenOnceAndAcknowledged : Prop :=
  (∀ (s : State) (row : Instr) (k : Pkt), row.packetOf = some k →
     (s.portsRun = false → exec row s = .next s.settle) ∧
     (s.portsRun = true → k.tcrcOk = false → exec row s = .next (s.countPart k.tpart .tpCksum 1).settle) ∧
     (s.portsRun = true → k.tcrcOk = true → k.ver ≠ 1 → exec row s = .next (s.countPart k.tpart .tpBadhdr 1).settle) ∧
     (s.portsRun = true → k.tcrcOk = true → k.ver = 1 → row.packetType ≠ tyOpen → s.closing k.sess.toNat = none →
       (∀ d, s.sess k.sess.toNat = some d → ¬(d.part = k.tpart ∧ d.peer = k.smod ∧ d.hostBit = k.host)) →
       exec row s = .next s.settle) ∧
     ∀ i d, s.Arrives k i d → row.packetType ≠ tyAck → row.packetType ≠ tyKeepalive → row.packetType ≠ tyOpen →
       let h := s.wakeShallow.heardOn i d k
       let ahead := (k.psn - d.rxNext).toNat
       (2 ^ 31 ≤ ahead ∨ d.rxGot.contains k.psn = true → exec row s = .next ((h.sendAck i).pumpAll i).settle) ∧
       (ahead < 2 ^ 31 → d.rxGot.contains k.psn = false → (1024 ≤ ahead ∨ d.refuses k.psn = true) →
         exec row s = .next (h.pumpAll i).settle)) ∧
  ((∀ (s : State) (k : Pkt) (i : Nat) (d : Session), s.Arrives k i d →
     let left := d.unacked.filter fun u => !before32 u.pkt.psn k.apsn
     let n := d.ackedInWin + (d.unacked.length - left.length)
     let bit := fun (u : Unacked) => let j := (u.pkt.psn - k.apsn).toNat; decide (1 ≤ j ∧ j ≤ 64) && (fieldLE k.payload 0 8).testBit (j - 1)
     let marked := left.map fun u => if bit u then { u with sacked := true } else u
     let miss := marked.filter fun u => !u.sacked && !u.resent &&
       decide (3 ≤ (marked.filter fun v => v.sacked && before32 u.pkt.psn v.pkt.psn).length)
     let grown := if d.cwnd ≤ n then min 1024 (d.cwnd + 1) else d.cwnd
     ∃ g : Session,
       g = { d with
         lastHeard := s.aon.time
         unacked := (marked.map fun u => if (miss.any fun v => v.pkt.psn == u.pkt.psn) then { u with resent := true } else u)
         cwnd := (fun w => max 8 (w / 2))^[miss.length] grown
         ackedInWin := g.ackedInWin } ∧
       (miss = [] → g.ackedInWin = if d.cwnd ≤ n then n - d.cwnd else n) ∧ (miss ≠ [] → g.ackedInWin = 0) ∧
       (8 ≤ d.cwnd → d.cwnd ≤ 1024 → 8 ≤ g.cwnd ∧ g.cwnd ≤ 1024) ∧
       exec (.ackReceive k) s = .next ((((s.wakeShallow.heardOn i d k).setSess i (some g)).resend d.part miss).pumpAll i).settle) ∧
   ∀ (s : State) (sess : BitVec 13) (d : Session), s.sess sess.toNat = some d →
     (d.opened = true → 0 < d.sinceAck → exec (.ackTimer sess) s = .next (s.sendAck sess.toNat).settle) ∧
     ∀ (psn : BitVec 32) (u : Unacked), d.unacked.find? (fun u => u.pkt.psn == psn && !u.sacked) = some u →
       exec (.retransmitTimer sess psn) s = .next (((s.setSess sess.toNat (some { d with
         cwnd := max 8 (d.cwnd / 2)
         ackedInWin := 0
         unacked := (d.unacked.map fun v => if v.pkt.psn = psn then { v with expiries := v.expiries + 1 } else v) })).txPkt d.part
           u.pkt).countPart d.part .tpRetx 1).settle) ∧
  ∀ (s : State) (d : Session) (u : Unacked),
    (∀ (sess : BitVec 13) (psn : BitVec 32), s.sess sess.toNat = none → s.closing sess.toNat = some d → d.unacked = [u] →
      (u.pkt.psn = psn → exec (.retransmitTimer sess psn) s = .next ((s.txPkt d.part u.pkt).countPart d.part .tpRetx 1).settle) ∧
      exec (.keepaliveSilence sess) s = .next (s.dropClosing sess.toNat)) ∧
    ∀ k : Pkt, s.portsRun = true → k.tcrcOk = true → k.ver = 1 → s.sess k.sess.toNat = none →
      s.closing k.sess.toNat = some d → d.unacked = [u] → d.part = k.tpart → d.peer = k.smod → d.hostBit = k.host →
      exec (.ackReceive k) s = .next (State.settle (if before32 u.pkt.psn k.apsn then s.dropClosing k.sess.toNat else s))

/-- 13 R292 to R317: what an accepted packet does. The form of gather requests and refusals, and the COLL of a credit, are log 23. -/
def Obligations.AcceptedPacketsAct : Prop :=
  ∀ (s : State) (k : Pkt) (i : Nat) (d : Session), s.Arrives k i d → d.Fresh k →
    let h := s.wakeShallow.heardOn i d k
    let e : Session := { d.ackTo k.apsn with lastHeard := s.aon.time }
    (d.host = none → k.ret = false → k.coll ≠ 3 → (6 ≤ k.coll.toNat ∨ Fmt.ofCode k.fmt = none) →
      exec (.dataReceive k) s = .next ((h.refuse i { k with type := tyData } k.msg).pumpAll i).settle) ∧
    (∀ q : Queue, d.host = none → d.relay = false → k.ret = false → (k.coll = 0 ∨ k.coll = 4) → (Fmt.ofCode k.fmt).isSome = true →
      s.cached k.dq = true → s.queue k.dq = some q → q.isRxp = true → q.posted = false → q.part = d.part → isMbQueue k.dq = false → q.room = true → q.slotFree q.ppos = true →
      (∀ x ∈ q.items, x.n ≠ q.ppos ∧ x.msg ≠ some (i, k.msg)) →
      let n := k.payload.length
      let w := h.writeQueue q (q.slotOff q.ppos + k.ofs.toNat) (k.payload.take (q.slotb - k.ofs.toNat))
      w.1 = true →
      exec (.dataReceive k) s = .next ((w.2.setQueue k.dq { q with
        ppos := q.ppos + 1
        held := q.held.set 0 i (q.held.get 0 i - 1)
        items := q.items ++ [({ Item.fresh q.ppos with
          closed := true, msg := some (i, k.msg), src := some d.peer, ts := s.aon.time, cancelled := decide (q.ppos < q.dpos)
          ranges := [(k.ofs.toNat, n)], bytes := n
          total := if k.last then some (k.ofs.toNat + n) else none, full := k.last && k.ofs.toNat == 0 })] }).booked i
            { k with type := tyData })) ∧
    (∀ (c : Shard) (g : CGroup), bitsOf k.arg.toNat 16 3 = 1 → (s.part d.part).ue.shards[k.dq.toNat]? = some c →
      s.cgroupOf d.part k.cgrp = some g → g.lost = false → k.ofs.toNat < c.nsb → (s.part d.part).ue.closed k.step = false →
      (s.part d.part).ue.recStep.get none (sbKey k.dq.toNat k.ofs.toNat) ≠ some k.step →
      let b := k.payload.take 1056
      let here := fun (x : RCtx) => x.part == d.part && x.shard == k.dq.toNat && x.sb == k.ofs.toNat && x.step == k.step
      let put := fun (x : RCtx) => (((h.putCtx { x with
        heard := x.heard ++ [d.peer], entries := addEntries x.rofs.toInt x.entries 0 (rsAddends b) }).countPart d.part .rsRange
          (rsOutside x.rofs c.ncontrib b)).booked i { k with type := tyData })
      (∀ x, s.eng.ctxs.find? here = some x → x.heard.contains d.peer = false →
        exec (.rsContributionReceive k) s = .next (put x)) ∧
      (s.eng.ctxs.find? here = none → s.eng.ctxs.length < 512 → exec (.rsContributionReceive k) s =
        .next (put ⟨d.part, k.dq.toNat, k.ofs.toNat, k.step, k.cgrp, g.rofs, [], []⟩))) ∧
    exec (.gatherRequestReceive k) s = .next ((h.gatherTake ((List.range (fieldLE k.payload 0 4)).map fun j =>
      ⟨d.part, some i, 0, 0, k.dq.toNat, k.ofs.toNat + j, j, k.step⟩)).booked i { k with type := tyData }) ∧
    (let dq : Qid := BitVec.ofNat 20 (fieldLE k.payload 0 4)
     let n := fieldLE k.payload 4 4
     let z := { k with type := tyCredit }
     (∀ q, n = 0 → s.queue dq = some q → q.isRxp = true → q.part = d.part → isMbQueue dq = false → (k.coll = 3 → q.slotted = true) →
       exec (.creditReceive k) s = .next ((h.setQueue dq { q with waiters := q.waiters ++ [(i, k.coll == 3)] }).booked i z)) ∧
     (n ≠ 0 → k.coll ≠ 3 → exec (.creditReceive k) s = .next ((h.setSess i (some { e with
       credits := e.credits.set 0 dq.toNat (e.credits.get 0 dq.toNat + n)
       slotbs := e.slotbs.set 0 dq.toNat (fieldLE k.payload 8 4)
       asked := e.asked.erase dq })).booked i z)) ∧
     (n ≠ 0 → k.coll = 3 → (∀ m ∈ d.a2aWait, m.dq ≠ dq) → exec (.creditReceive k) s = .next ((h.setSess i (some { e with
       credits := e.credits.set 0 dq.toNat (e.credits.get 0 dq.toNat + n) })).booked i z))) ∧
    (let z := { k with type := tyNotice }
     exec (.noticeSkip k) s = .next ((h.noteSkip d.part k.step).booked i z) ∧
     exec (.noticeNorm k) s = .next (((h.noteNorm d.part d.peer k.step
       ⟨BitVec.ofNat 128 (fieldLE k.payload 4 16), BitVec.ofNat 2 (fieldLE k.payload 20 1), false⟩).closeIfDone d.part k.step).booked i z) ∧
     exec (.noticePeerLost k) s =
       .next ((h.declareLost (BitVec.ofNat 14 (fieldLE k.payload 4 2)) (fieldLE k.payload 6 2)).booked i z) ∧
     exec (.noticeReady k) s = .next ((h.modEng fun g => { g with
       ready := (d.part, fieldLE k.payload 4 4, d.peer) :: g.ready.erase (d.part, fieldLE k.payload 4 4, d.peer) }).booked i z))

/-- 13 R291, R294, R315, R317, 15 R351, 17 R393, R398: sessions and keepalives. That an OPEN on an open session is only acknowledged
again, and that a host session closes on silence, is log 52; that a repetition of a refused OPEN is not answered anew is log 21; a
relay session is log 33; timers imply their times (log 7) and first PSNs are free (log 1): all the model's choices. -/
def Obligations.SessionsOpenCloseAndStayAlive : Prop :=
  (∀ (s : State) (k : Pkt) (addr : BitVec 128), k.tcrcOk = true → k.ver = 1 →
    let relay := k.host && k.coll == collRelay
    let host := if k.host && !relay then s.hostAt addr else none
    let wrongJob := (s.jobid k.tpart).toNat ≠ k.jobid
    let bad := if relay then s.directTo k.smod = none
      else wrongJob ∨ (if k.host then host = none else s.partExists k.tpart = false)
    let old := if relay then s.findRelay k.smod else match host with
      | some h => s.hostSess h
      | none => s.findSess k.tpart k.smod
    let plain : Session := ⟨k.tpart, k.smod, none, 0xFFFF, false, BitVec.ofNat 32 s.freeVal, 0, [], 64, 0, [], [], 0, s.aon.time,
      s.aon.time, 0, [], [], [], [], false, []⟩
    let fresh := { plain with part := if relay then 0 else k.tpart, host := host, relay := relay }
    let open_ := fun (d : Session) => ({ d with
      peerSess := k.index, rxNext := k.psn + 1, rxGot := [], opened := true, sinceAck := d.sinceAck + 1, lastHeard := s.aon.time } : Session)
    let shut := fun (t : State) (u reason : Nat) => ((t.setSess u none).freeNext.sendClose u { plain with
      host := if k.host then some 0 else none, peerSess := k.index, rxNext := k.psn + 1 } reason).settle
    let logged := s.logEvent evSessionRefused 49 k.tpart.val (bytesLE 2 k.smod.toNat ++ bytesLE 1 k.tpart.val ++ bytesLE 4 2)
    (s.portsRun = false → exec (.openReceive k addr) s = .next s.settle) ∧
    (s.portsRun = true → s.reg.midConflict = true ∨ bad →
      ((s.refusing k).isSome = true → exec (.openReceive k addr) s = .next s.settle) ∧
      ∀ u, s.refusing k = none → s.freeSess = some u →
        exec (.openReceive k addr) s = .next (if s.reg.midConflict then shut s u 1 else shut logged u 2)) ∧
    (s.portsRun = true → s.reg.midConflict = false → ¬bad →
      (∀ u, old = none → s.freeSess = some u →
        let b := (s.setSess u (some fresh)).freeNext
        exec (.openReceive k addr) s =
          .next ((b.emit u (open_ fresh) (b.mkPkt (open_ fresh) tyOpenAck (openPayload (s.jobid fresh.part) u))).pumpAll u).settle) ∧
      ∀ i d, old = some i → s.sess i = some d →
        ((k.host = true ∧ relay = false) ∨ d.opened = true →
          exec (.openReceive k addr) s = .next (State.settle (if d.peerSess = k.index then s.sendAck i else s))) ∧
        ((k.host = false ∨ relay = true) → d.opened = false → exec (.openReceive k addr) s =
          .next ((s.emit i (open_ d) (s.mkPkt (open_ d) tyOpenAck (openPayload (s.jobid d.part) i))).pumpAll i).settle)) ∧
    ∀ i d, s.portsRun = true → s.sess i = some d → k.sess.toNat = i → i < 8192 → d.part = k.tpart → d.peer = k.smod →
      d.hostBit = k.host →
      let h := State.heardOn (if d.opened then s.wakeShallow else s) i d k
      (d.opened = false → exec (.openAckReceive k) s = .next ((s.setSess i (some { d.ackTo k.apsn with
        peerSess := k.index, rxNext := k.psn + 1, rxGot := [], opened := true, sinceAck := d.sinceAck + 1
        lastHeard := s.aon.time })).pumpAll i).settle) ∧
      (d.opened = true → d.Fresh k → exec (.openAckReceive k) s = .next (h.booked i { k with type := tyOpenAck })) ∧
      (let reason := fieldLE k.payload 0 4
       let gone := reason = 1 ∨ reason = 4
       let t := if d.opened then (h.book i { k with type := tyClose, acknow := true }).pumpAll i else s
       let lose := fun (a : State) => (a.applyLoss d.peer (fun g => g.part == d.part && g.members.contains d.peer) [i] (some d.part)).settle
       let refused := (t.closeSess i none).endTransfers (fun c x => (t.core c).part == some d.part && x.isTransfer &&
         (t.needsPeer x d.peer || t.eng.xfers.any fun y => y.core == c && y.token == x.token && y.peers.contains d.peer && y.part == d.part))
         (Report.bad stAccess 0)
       (d.opened = true → d.Fresh k) →
         (reason = 0 ∨ 4 < reason → exec (.closeReceive k) s = .next t.settle) ∧
         (1 ≤ reason → reason ≤ 4 →
           (d.hostBit = true → exec (.closeReceive k) s = .next (t.closeSess i none).settle) ∧
           (d.hostBit = false → d.opened = true → gone → exec (.closeReceive k) s = .next (lose t)) ∧
           (d.hostBit = false → d.opened = false → gone → exec (.closeReceive k) s = .next (lose refused)) ∧
           (d.hostBit = false → ¬gone → exec (.closeReceive k) s = .next refused.settle))) ∧
      exec (.keepaliveReceive k) s = .next (h.pumpAll i).settle) ∧
  ∀ (s : State) (sess : BitVec 13) (d : Session), s.sess sess.toNat = some d →
    (d.opened = true →
      let b := s.advanceTo (d.lastSent.toNat + 50000)
      exec (.keepaliveTimer sess) s = .next (((b.setSess sess.toNat (some { d with lastSent := b.aon.time })).txPkt d.part
        { b.mkPkt d tyKeepalive (List.replicate 32 0) with apsn := d.rxNext, sess := d.peerSess })).settle) ∧
    (let b := s.advanceTo (d.lastHeard.toNat + 200000)
     exec (.keepaliveSilence sess) s =
      .next (State.settle (if d.host.isSome then b.closeSess sess.toNat none else b.declareLost d.peer 2)))

/-- 13 R305 to R307, 07 R153: all-to-all messages at the receiver, and their return at the source. Which hand-off an answer counts
for is log 81. -/
def Obligations.AllToAllMessagesFillTheirItems : Prop :=
  ∀ (s : State) (m : A2aMsg) (d : Session), s.portsRun = true → s.sess m.sess.toNat = some d → d.opened = true → d.hostBit = false →
    s.hbm.ecc = [] → let v := s.wakeShallow
    (∀ (q : Queue) (g : CGroup), s.queue m.dq = some q → s.cached m.dq = true → q.isRxp = true → q.posted = false →
      q.part = d.part → q.memCs = false →
      q.room = true → (∀ i ∈ q.items, i.takes d.peer = false ∧ i.n ≠ q.ppos) → s.cgroup m.cgrp = some g →
      (∀ r ∈ m.recs, r.refused = false) → m.rows.length = (m.recs.map fun r => r.count.toNat).sum →
      (∀ row ∈ m.rows, row.length = m.rowb.toNat) → m.rows.length * m.rowb.toNat ≤ q.slotb →
      (m.recs.filter fun r => r.count != 0).length ≤ 1024 →
      let used := m.rows.length * m.rowb.toNat
      let whole := g.members.all fun x => x == d.peer
      let first := fun (j : Nat) => ((m.recs.take j).map fun r => r.count.toNat).sum
      let bytes := m.rows.flatten ++ if whole then List.replicate (q.slotb - used) 0 else []
      exec (.a2aMessageReceive m) s = .next (({ v with
        hbm := s.hbm.writeVa (s.part d.part) [] (q.base.toNat + q.slotOff q.ppos) bytes } : State).setQueue m.dq { q with
          ppos := q.ppos + 1
          items := q.items ++ [({ Item.fresh q.ppos with
            heard := [d.peer], missing := (g.members.filter (· != d.peer)).map fun x => (x, false), rowb := m.rowb.toNat, rows := m.rows.length, closed := whole, full := whole, bytes := used
            cancelled := decide (q.ppos < q.dpos)
            table := m.recs.zipIdx.map fun r => ⟨d.peer, r.1, first r.2⟩ })] }).settle) ∧
    ∀ (r : A2aRec) (q : Queue) (i : Item) (e : RetRec), m.recs = [r] → r.refused = false →
      m.rows.length = r.count.toNat → s.queue r.a2aq = some q → s.cached r.a2aq = true → q.part = d.part → q.memCs = false →
      q.items.find? (fun i => i.n % 65536 == r.item.toNat && i.expect.isSome) = some i →
      i.table.find? (fun t => t.record.j == r.j) = some e →
      let at_ := q.base.toNat + q.slotOff i.n
      let h1 := s.hbm.writeVa (s.part d.part) [] (at_ + segBase (i.total.getD 0) + e.row * m.rowb.toNat) m.rows.flatten
      let h2 := h1.writeVa (s.part d.part) [] (at_ + 0x40 + 8 * r.j.toNat) (bytesLE 8 (r.count.toNat + 2 ^ 16))
      let t := ({ v with hbm := h2 } : State).setQueue r.a2aq (q.putItem { i with back := i.back ++ [r.j.toNat] })
      let waits := fun (x : Item) => x.expect.isSome && x.hand == i.hand && !x.passed
      exec (.a2aReturnReceive m) s = .next (State.settle { t with eng := { t.eng with
        queues := t.eng.queues.map fun e => (e.1, e.2.map fun z =>
          if z.part = d.part then { z with items := z.items.map fun x => if waits x then x.answered d.peer else x } else z) } })

/-- 12 R286 to R288, 13 R316, 14 R325, 16 R375, 17 R398: the management port and host messages. The model's choices: a segment of
another sender is ignored (log 32), only modules heard and peers count as absent (log 57), the refusal of an unknown OP and the
statuses of DMA (log 72), the layout of the records (log 31), what a segment does in S3 and S4 (log 62), and the relay's sessions and
form (log 33). -/
def Obligations.ManagementPortActs : Prop :=
  (∀ s : State, (s.regRuns = true ∨ s.romRuns = true ∨ s.aon.mstate = .s4) →
    exec .announceTimer s = .next ((s.mpSend (s.mpFrameTo (BitVec.allOnes 48)
      (mpHeader 1 0 s.reg.annSeq.toNat 0 64 ++ s.announcePayload))).modReg fun r => { r with annSeq := r.annSeq + 1 })) ∧
  (∀ (s : State) (a : Announce), s.regRuns = true →
    (a.src = s.mpAddr → exec (.announceReceive a) s = .next ((s.modReg fun r => { r with midConflict := true }).logEvent
      evMidConflict 51 srcNone (bytesLE 2 s.moduleId.toNat))) ∧
    (a.src ≠ s.mpAddr → exec (.announceReceive a) s =
      .next (s.modReg fun r => { r with heardMods := r.heardMods.set none a.moduleId.toNat (some a.state) }))) ∧
  (∀ (s : State) (m : BitVec 14), s.regRuns = true → (s.reg.heardMods.get none m.toNat).isSome = true →
    let b := s.modReg fun r => { r with heardMods := r.heardMods.set none m.toNat none }
    exec (.announceAbsence m) s = .next (State.settle (if s.isPeer m then b.declareLost m 3 else b))) ∧
  (∀ (s : State) (f : List Byte), s.reg.mpFrame = some f →
    (s.reg.mpTries < 15 → ∃ r < 2 ^ min (s.reg.mpTries + 1) 10, exec .mpCollision s =
      .next (s.modReg fun g => { g with mpTries := s.reg.mpTries + 1, mpBackoff := r }).freeNext) ∧
    (15 ≤ s.reg.mpTries → exec .mpCollision s = .next (s.modReg fun g => { g with
      mpFrame := none, mpTries := 0, mpBackoff := 0, mpExcess := satAdd 32 g.mpExcess 1 }))) ∧
  (∀ s : State, exec .mpBackoffEnd s = .next (s.modReg fun r => { r with mpBackoff := 0 })) ∧
  (∀ (s : State) (g : MpSegment), s.powered = true → g.kind = 2 → g.mb = 0 → g.src = s.reg.mpOwner → g.src ≠ 0 →
    (s.aon.mstate = .s4 → exec (.mpRequestSegment g) s = .next (s.wakeFrom .s4).settle) ∧
    (s.aon.mstate = .s3 → s.trainingStale = false → 2 ≤ s.aon.group →
      exec (.mpRequestSegment g) s = .next ((s.wakeFrom .s3).takeSegment g).settle)) ∧
  (∀ (s : State) (g : MpSegment) (m : MbId), (s.regRuns = true ∨ s.romRuns = true) → s.aon.mstate ≠ .s3 → s.aon.mstate ≠ .s4 →
    g.kind = 2 → g.mb.toNat = m.val →
    32 ≤ g.total.toNat → g.total.toNat ≤ 4096 → s.mpMay m g.src = true →
    (∀ a, mpAsmFor (s.mb m).mpAsm g = some a →
      let b := a.add g.ofs.toNat g.data
      exec (.mpRequestSegment g) s = .next (State.settle (if b.complete then
        (s.modMb m fun x => { x with mpAsm := none }).deliverRequest m (.mp g.src) b.bytes
      else s.modMb m fun x => { x with mpAsm := some b }))) ∧
    (∀ a, (s.mb m).mpAsm = some a → a.src ≠ g.src → exec (.mpRequestSegment g) s = .next s.settle)) ∧
  (∀ (s : State) (m : MbId), exec (.mpRequestTimeout m) s = .next (s.modMb m fun b => { b with mpAsm := none })) ∧
  (∀ (s : State) (k : Pkt) (i : Nat) (d : Session) (answer : Bool), s.Arrives k i d → d.Fresh k → d.host = none → k.ret = false →
    k.coll = 5 → (Fmt.ofCode k.fmt).isSome = true → fieldLE k.payload 16 1 = (if answer then 5 else 4) →
    let host : Fin 64 := Fin.ofNat 64 (fieldLE k.payload 12 4)
    let piece := (k.payload.drop 32).take (fieldLE k.payload 8 4)
    let a := (s.reg.relayFor i host answer k.msg).add k piece
    let got := Mem.readN a.data 0 (a.total.getD 0)
    let z := hostMsgOf host s.moduleId d.part got
    let h := s.wakeShallow.heardOn i d k
    let t := h.putRelay a false
    let done := fun (b : State) => exec (.dataReceive k) s = .next (b.booked i { k with type := tyData })
    (a.whole = false → done (h.putRelay a true)) ∧
    (∀ x : Nat × HostMsg, a.whole = true → answer = true →
      s.reg.relayed.find? (fun y => y.1 == i && y.2.host == host && hostBytes { y.2 with len := 0 } ==
        hostBytes { hostMsgOf host y.2.dmod y.2.tpart got with len := 0, data := [] }) = some x →
      done ((t.modReg fun r => { r with relayed := r.relayed.erase x }).toHost host got)) ∧
    (a.whole = true → answer = false → d.relay = true → z.op = 1 →
      done (t.deliverRequest (Fin.ofNat 16 z.mb.toNat) (.bridge d.peer host) z.data)) ∧
    (a.whole = true → answer = false → d.relay = false → z.op ≠ 1 → done (t.hostDma (.bridge d.peer host) z)) ∧
    (a.whole = true → answer = false → (d.relay = true ↔ z.op ≠ 1) → done (t.relaySend i host true (hostRecord z stAccess [])))) ∧
  ∀ (s : State) (m : HostMsg) (e : HostEnt) (i : Nat), s.regRuns = true → s.reg.hosts.get none m.host.val = some e →
    s.hostSess m.host = some i →
    let answer := fun (t : State) (st : BitVec 16) (b : List Byte) => (t.toHost m.host (hostRecord m st b)).settle
    (m.op = 0 ∨ 3 < m.op.toNat → exec (.hostMessage m) s = .next (answer s stBadField [])) ∧
    (m.op ≠ 0 → m.op.toNat ≤ 3 → e.allows m = false → exec (.hostMessage m) s = .next (answer s stAccess [])) ∧
    (m.op ≠ 0 → m.op.toNat ≤ 3 → e.allows m = true → m.dmod ≠ s.moduleId →
      let lead := if m.op = 1 then s.findRelay m.dmod else s.findSess m.tpart m.dmod
      (s.directTo m.dmod = none ∨ (m.op ≠ 1 ∧ s.partExists m.tpart = false) →
        exec (.hostMessage m) s = .next (answer s stAccess [])) ∧
      ((s.directTo m.dmod).isSome = true → (m.op = 1 ∨ s.partExists m.tpart = true) →
        (s.eng.lostMods.contains m.dmod = true → exec (.hostMessage m) s = .next (answer s stPeerLost [])) ∧
        (s.eng.lostMods.contains m.dmod = false →
          (lead = none → s.freeSess = none → exec (.hostMessage m) s = .next (answer s stAccess [])) ∧
          ∀ j, lead = some j → exec (.hostMessage m) s = .next (((s.modReg fun r => { r with
            relayed := r.relayed ++ [(j, { m with data := [] })] }).relaySend j m.host false (hostBytes m)).settle)))) ∧
    (e.allows m = true → m.dmod = s.moduleId →
      (m.op = 1 → exec (.hostMessage m) s = .next (s.deliverRequest (Fin.ofNat 16 m.mb.toNat) (.host m.host) m.data).settle) ∧
      (∀ right : Right, right = (if m.op = 2 then .pw else .pr) → s.hbm.ecc = [] → s.partExists m.tpart = true →
        (s.part m.tpart).checkRange m.va.toNat m.len.toNat right = none →
        (m.op = 2 → exec (.hostMessage m) s = .next (answer { s with
          hbm := s.hbm.writeVa (s.part m.tpart) [] m.va.toNat (padTo m.len.toNat m.data) } stOk [])) ∧
        (m.op = 3 → exec (.hostMessage m) s =
          .next (answer s stOk (s.hbm.readVa (s.part m.tpart) m.va.toNat m.len.toNat)))))
end

