-- ==== Sys2Proof/Laws/Store.lean ====
section
/-! SUPPORT. The laws of sparse maps and of memory: a read after a write, and that every operation keeps the canonical
form. -/

namespace Sys2Proof.Machine

theorem Smap.get_put_same {α : Type} (d v : α) (m : Smap α) (a : Nat) : Smap.get d (Smap.put m a v) a = v := by
  induction m with
  | nil => simp [Smap.put, Smap.get]
  | cons e t ih => unfold Smap.put; split <;> [skip; split] <;> simp_all [Smap.get]

theorem Smap.get_put_other {α : Type} (d v : α) (m : Smap α) (a b : Nat) (h : b ≠ a) :
    Smap.get d (Smap.put m a v) b = Smap.get d m b := by
  induction m with
  | nil => simp [Smap.put, Smap.get, h]
  | cons e t ih =>
    unfold Smap.put
    split <;> [skip; split] <;> simp_all [Smap.get]

theorem Smap.get_erase_same {α : Type} (d : α) (m : Smap α) (a : Nat) : Smap.get d (Smap.erase m a) a = d := by
  induction m with
  | nil => simp [Smap.erase, Smap.get]
  | cons e t ih => unfold Smap.erase; split <;> simp_all [Smap.get]

theorem Smap.get_erase_other {α : Type} (d : α) (m : Smap α) (a b : Nat) (h : b ≠ a) :
    Smap.get d (Smap.erase m a) b = Smap.get d m b := by
  induction m with
  | nil => simp [Smap.erase]
  | cons e t ih => unfold Smap.erase; split <;> simp_all [Smap.get]

@[simp] theorem Smap.get_set_same {α : Type} [DecidableEq α] (d v : α) (m : Smap α) (a : Nat) :
    Smap.get d (Smap.set d m a v) a = v := by
  unfold Smap.set
  split
  · rw [Smap.get_erase_same]; simp_all
  · exact Smap.get_put_same d v m a

theorem Smap.get_set_other {α : Type} [DecidableEq α] (d v : α) (m : Smap α) (a b : Nat) (h : b ≠ a) :
    Smap.get d (Smap.set d m a v) b = Smap.get d m b := by
  unfold Smap.set
  split
  · exact Smap.get_erase_other d m a b h
  · exact Smap.get_put_other d v m a b h

theorem Smap.wfFrom_weaken {α : Type} [DecidableEq α] (d : α) {m : Smap α} {lo hi : Nat} (h : lo ≤ hi)
    (w : Smap.wfFrom d hi m = true) : Smap.wfFrom d lo m = true := by
  cases m with
  | nil => rfl
  | cons e t => simp_all [Smap.wfFrom]; omega

theorem Smap.wfFrom_put {α : Type} [DecidableEq α] (d v : α) (hv : v ≠ d) (m : Smap α) (a lo : Nat) (hl : lo ≤ a)
    (w : Smap.wfFrom d lo m = true) : Smap.wfFrom d lo (Smap.put m a v) = true := by
  induction m generalizing lo with
  | nil => simp [Smap.put, Smap.wfFrom, hl, hv]
  | cons e t ih =>
    simp only [Smap.wfFrom, Bool.and_eq_true, decide_eq_true_eq] at w
    unfold Smap.put
    split
    · simp only [Smap.wfFrom, Bool.and_eq_true, decide_eq_true_eq]
      exact ⟨⟨hl, hv⟩, ⟨by omega, w.1.2⟩, w.2⟩
    · split
      · subst_vars
        simp only [Smap.wfFrom, Bool.and_eq_true, decide_eq_true_eq]
        exact ⟨⟨hl, hv⟩, w.2⟩
      · simp only [Smap.wfFrom, Bool.and_eq_true, decide_eq_true_eq]
        exact ⟨w.1, ih _ (by omega) w.2⟩

theorem Smap.wfFrom_erase {α : Type} [DecidableEq α] (d : α) (m : Smap α) (a lo : Nat)
    (w : Smap.wfFrom d lo m = true) : Smap.wfFrom d lo (Smap.erase m a) = true := by
  induction m generalizing lo with
  | nil => rfl
  | cons e t ih =>
    simp only [Smap.wfFrom, Bool.and_eq_true, decide_eq_true_eq] at w
    unfold Smap.erase
    split
    · exact Smap.wfFrom_weaken d (Nat.le_trans w.1.1 (Nat.le_succ _)) (ih _ w.2)
    · simp only [Smap.wfFrom, Bool.and_eq_true, decide_eq_true_eq]
      exact ⟨w.1, ih _ w.2⟩

theorem Smap.wfFrom_filter {α : Type} [DecidableEq α] (d : α) (f : Nat × α → Bool) (m : Smap α) (lo : Nat)
    (w : Smap.wfFrom d lo m = true) : Smap.wfFrom d lo (m.filter f) = true := by
  induction m generalizing lo with
  | nil => rfl
  | cons e t ih =>
    simp only [Smap.wfFrom, Bool.and_eq_true, decide_eq_true_eq] at w
    rw [List.filter_cons]
    split
    · simp only [Smap.wfFrom, Bool.and_eq_true, decide_eq_true_eq]
      exact ⟨w.1, ih _ w.2⟩
    · exact Smap.wfFrom_weaken d (Nat.le_trans w.1.1 (Nat.le_succ _)) (ih _ w.2)

/-- A write keeps the canonical form. -/
theorem Smap.wf_set {α : Type} [DecidableEq α] (d v : α) (m : Smap α) (a : Nat) (w : Smap.wf d m = true) :
    Smap.wf d (Smap.set d m a v) = true := by
  unfold Smap.set
  split
  · exact Smap.wfFrom_erase d m a 0 w
  · exact Smap.wfFrom_put d v ‹_› m a 0 (Nat.zero_le a) w

theorem Memory.wf_nil : Memory.wf [] = true := rfl

theorem Memory.wf_filter (f : Host.Cell → Bool) (m : Mem) (w : Memory.wf m = true) : Memory.wf (m.filter f) = true :=
  Smap.wfFrom_filter 0#8 f m 0 w

/-- Storing a byte keeps the canonical form. -/
theorem Mem.wf_write (m : Mem) (a : Nat) (b : Byte) (w : Memory.wf m = true) : Memory.wf (Mem.write m a b) = true :=
  Smap.wf_set 0#8 b m a w

/-- Storing bytes keeps the canonical form. -/
theorem Mem.wf_writeN (bs : List Byte) (m : Mem) (a : Nat) (w : Memory.wf m = true) : Memory.wf (Mem.writeN m a bs) = true := by
  induction bs generalizing m a with
  | nil => exact w
  | cons b t ih => exact ih _ _ (Mem.wf_write m a b w)

@[simp] theorem Mem.read_write_same (m : Mem) (a : Nat) (b : Byte) : Mem.read (Mem.write m a b) a = b :=
  Smap.get_set_same 0#8 b m a

theorem Mem.read_write_other (m : Mem) (a b : Nat) (v : Byte) (h : b ≠ a) : Mem.read (Mem.write m a v) b = Mem.read m b :=
  Smap.get_set_other 0#8 v m a b h

/-- Bytes outside a store are unchanged. -/
theorem Mem.read_writeN_other (bs : List Byte) (m : Mem) (a b : Nat) (h : b < a ∨ a + bs.length ≤ b) :
    Mem.read (Mem.writeN m a bs) b = Mem.read m b := by
  induction bs generalizing m a with
  | nil => rfl
  | cons v t ih =>
    simp only [List.length_cons] at h
    rw [Mem.writeN, ih _ _ (by omega), Mem.read_write_other _ _ _ _ (by omega)]

/-- A byte of a store reads back. -/
theorem Mem.read_writeN_inside (bs : List Byte) (m : Mem) (a i : Nat) (h : i < bs.length) :
    Mem.read (Mem.writeN m a bs) (a + i) = bs[i] := by
  induction bs generalizing m a i with
  | nil => simp at h
  | cons v t ih =>
    cases i with
    | zero => rw [Mem.writeN, Mem.read_writeN_other _ _ _ _ (Or.inl (by omega))]; simp
    | succ n =>
      simp only [List.length_cons] at h
      have := ih (Mem.write m a v) (a + 1) n (by omega)
      rw [Mem.writeN, List.getElem_cons_succ, ← this]
      congr 1; omega

end Sys2Proof.Machine
end

