-- ==== Sys2Proof/Laws/Keeps.lean ====
section
/-! SUPPORT. The relation that all but the commands of the hot-swap controller keep to, and its rules for the operations
that change one part of the state. -/

namespace Sys2Proof.Machine

/-- `t` has the queue, the hot-swap controller, the supply and the fuses of `s`, and its memories stay in canonical form. -/
structure Keeps (s t : State) : Prop where
  pending : t.pending = s.pending
  hs : t.hs = s.hs
  supply : t.aon.supply = s.aon.supply
  fuses : t.fuses = s.fuses
  mem : s.MemOk → t.MemOk

theorem Keeps.refl (s : State) : Keeps s s := ⟨rfl, rfl, rfl, rfl, id⟩

theorem Keeps.trans {r s t : State} (h : Keeps r s) (k : Keeps s t) : Keeps r t :=
  ⟨k.pending.trans h.pending, k.hs.trans h.hs, k.supply.trans h.supply, k.fuses.trans h.fuses, fun m => k.mem (h.mem m)⟩

/-- A change of parts that hold no memory, no supply and no fuses. -/
theorem Keeps.upd {r s : State} {n : Nat} {a : Vector Partition 8} {b : Engines} {c : Vector Stack 8} {d : Fabric} {e : Regulator}
    {f : Flash} {g : Pins} (h : Keeps r s) :
    Keeps r ⟨s.pending, n, s.cores, a, b, s.hbm, c, d, e, s.aon, s.fuses, f, g, s.hs⟩ :=
  ⟨h.pending, h.hs, h.supply, h.fuses, fun m => h.mem m⟩

/-- A change that keeps the supply and the canonical form of the memories. -/
theorem Keeps.updAll {r s : State} {n : Nat} {k : Vector Core 24} {a : Vector Partition 8} {b : Engines} {m : Hbm}
    {c : Vector Stack 8} {d : Fabric} {e : Regulator} {o : Aon} {f : Flash} {g : Pins} (e1 : o.supply = s.aon.supply)
    (e2 : Memory.wf s.hbm.mem = true → Memory.wf m.mem = true)
    (e3 : (∀ c : CoreId, s.cores[c].mem.Ok) → ∀ c : CoreId, k[c].mem.Ok) (h : Keeps r s) :
    Keeps r ⟨s.pending, n, k, a, b, m, c, d, e, o, s.fuses, f, g, s.hs⟩ :=
  ⟨h.pending, h.hs, e1.trans h.supply, h.fuses, fun w => ⟨e2 (h.mem w).1, e3 (h.mem w).2⟩⟩

theorem coresMap_ok {f : Core → Core} (e : ∀ k : Core, k.mem.Ok → (f k).mem.Ok) {k : Vector Core 24}
    (h : ∀ c : CoreId, k[c].mem.Ok) (c : CoreId) : (k.map f)[c].mem.Ok := by
  have := e _ (h c)
  simpa using this

/-- A change of the HBM that keeps its canonical form. -/
theorem Keeps.hbm {r s : State} {m : Hbm} (e : Memory.wf s.hbm.mem = true → Memory.wf m.mem = true) (h : Keeps r s) :
    Keeps r { s with hbm := m } := Keeps.updAll rfl e id h

theorem Keeps.snd {α : Type} {r t : State} {p : α × State} {b : α} (e : p = (b, t)) (h : Keeps r p.2) : Keeps r t := by
  subst e; exact h

theorem Keeps.snd3 {α β : Type} {r t : State} {p : α × β × State} {b : α} {c : β} (e : p = (b, c, t)) (h : Keeps r p.2.2) :
    Keeps r t := by
  subst e; exact h

theorem some_of_ite {α : Type} {c : Prop} [Decidable c] {o : Option α} {x : α} (e : (if c then o else none) = some x) : o = some x := by
  split at e
  · exact e
  · cases e

theorem Keeps.foldl {α : Type} {r s : State} {f : State → α → State} {l : List α} (e : ∀ t x, Keeps r t → Keeps r (f t x))
    (h : Keeps r s) : Keeps r (l.foldl f s) := by
  induction l generalizing s with
  | nil => exact h
  | cons x t ih => exact ih (e s x h)

theorem State.setCore_keeps {r s : State} {c : CoreId} {q : Core} (e : (s.core c).mem.Ok → q.mem.Ok) (h : Keeps r s) :
    Keeps r (s.setCore c q) :=
  ⟨h.pending, h.hs, h.supply, h.fuses, fun m => ⟨(h.mem m).1, fun d => by
    have k := (h.mem m).2
    simp only [State.core, State.setCore] at k e ⊢
    simp only [Fin.getElem_fin, Vector.getElem_set]
    split
    · exact e (k c)
    · exact k d⟩⟩

theorem State.modCore_keeps {r s : State} {c : CoreId} {f : Core → Core} (e : (s.core c).mem.Ok → (f (s.core c)).mem.Ok)
    (h : Keeps r s) : Keeps r (s.modCore c f) := State.setCore_keeps e h

theorem State.modCtl_keeps {r s : State} {c : CoreId} {f : CoreCtl → CoreCtl} (h : Keeps r s) : Keeps r (s.modCtl c f) :=
  State.modCore_keeps (fun k => k) h

theorem State.modStash_keeps {r s : State} {c : CoreId} {f : CoreStash → CoreStash} (h : Keeps r s) : Keeps r (s.modStash c f) :=
  State.modCore_keeps (fun k => k) h

theorem State.modMem_keeps {r s : State} {c : CoreId} {f : CoreMem → CoreMem}
    (e : (s.core c).mem.Ok → (f (s.core c).mem).Ok) (h : Keeps r s) : Keeps r (s.modMem c f) := State.modCore_keeps e h

theorem State.modAon_keeps {r s : State} {f : Aon → Aon} (e : (f s.aon).supply = s.aon.supply) (h : Keeps r s) :
    Keeps r (s.modAon f) := Keeps.updAll e id id h

theorem State.modEng_keeps {r s : State} {f : Engines → Engines} (h : Keeps r s) : Keeps r (s.modEng f) :=
  Keeps.upd h

theorem State.modReg_keeps {r s : State} {f : Regulator → Regulator} (h : Keeps r s) : Keeps r (s.modReg f) :=
  Keeps.upd h

theorem State.modPins_keeps {r s : State} {f : Pins → Pins} (h : Keeps r s) : Keeps r (s.modPins f) :=
  Keeps.upd h

/-- The state an outcome of a start leaves. -/
def Run.Keeps (r : State) : Run → Prop
  | .done _ s | .lone _ s | .started s | .blocked s | .gone s => Machine.Keeps r s

/-- The state a step of a held command leaves. -/
def Held.Keeps (r : State) : Held → Prop
  | .waits s | .finished _ s | .dispatched s => Machine.Keeps r s

theorem Run.keeps_done {r t : State} {x : Report} (h : Machine.Keeps r t) : Run.Keeps r (.done x t) := h
theorem Run.keeps_lone {r t : State} {x : Report} (h : Machine.Keeps r t) : Run.Keeps r (.lone x t) := h
theorem Run.keeps_started {r t : State} (h : Machine.Keeps r t) : Run.Keeps r (.started t) := h
theorem Run.keeps_blocked {r t : State} (h : Machine.Keeps r t) : Run.Keeps r (.blocked t) := h
theorem Run.keeps_gone {r t : State} (h : Machine.Keeps r t) : Run.Keeps r (.gone t) := h
theorem Keeps.ite {r x y : State} {c : Prop} [Decidable c] (hx : Keeps r x) (hy : Keeps r y) : Keeps r (if c then x else y) := by
  split
  · exact hx
  · exact hy
theorem Run.keeps_ite {r : State} {c : Prop} [Decidable c] {x y : Run} (hx : Run.Keeps r x) (hy : Run.Keeps r y) :
    Run.Keeps r (if c then x else y) := by
  split
  · exact hx
  · exact hy
theorem Held.keeps_waits {r t : State} (h : Machine.Keeps r t) : Held.Keeps r (.waits t) := h
theorem Held.keeps_finished {r t : State} {x : Report} (h : Machine.Keeps r t) : Held.Keeps r (.finished x t) := h
theorem Held.keeps_dispatched {r t : State} (h : Machine.Keeps r t) : Held.Keeps r (.dispatched t) := h

/-- The state that reading a source leaves. -/
def Source.Keeps (r : State) : Source → Prop
  | .bytes _ s => Machine.Keeps r s
  | .ended x => x.Keeps r

theorem Source.keeps_bytes {r t : State} {x : List Byte} (h : Machine.Keeps r t) : Source.Keeps r (.bytes x t) := h
theorem Source.keeps_ended {r : State} {x : Run} (h : Run.Keeps r x) : Source.Keeps r (.ended x) := h

/-- The state that looking for a credit leaves. -/
def Credit.Keeps (r : State) : Credit → Prop
  | .lost s | .noAccess s | .wait s | .tooLong s | .ready _ s => Machine.Keeps r s

theorem Credit.keeps_lost {r t : State} (h : Machine.Keeps r t) : Credit.Keeps r (.lost t) := h
theorem Credit.keeps_noAccess {r t : State} (h : Machine.Keeps r t) : Credit.Keeps r (.noAccess t) := h
theorem Credit.keeps_wait {r t : State} (h : Machine.Keeps r t) : Credit.Keeps r (.wait t) := h
theorem Credit.keeps_tooLong {r t : State} (h : Machine.Keeps r t) : Credit.Keeps r (.tooLong t) := h
theorem Credit.keeps_ready {r t : State} {x : Nat} (h : Machine.Keeps r t) : Credit.Keeps r (.ready x t) := h

/-- The state that a move of a PERMUTE leaves. -/
def Moved.Keeps (r : State) : Moved → Prop
  | .waits s | .sent _ s | .refused _ s | .faulted s => Machine.Keeps r s

theorem Moved.keeps_waits {r t : State} (h : Machine.Keeps r t) : Moved.Keeps r (.waits t) := h
theorem Moved.keeps_sent {r t : State} {x : Option (Nat × BitVec 32)} (h : Machine.Keeps r t) : Moved.Keeps r (.sent x t) := h
theorem Moved.keeps_refused {r t : State} {x : Report} (h : Machine.Keeps r t) : Moved.Keeps r (.refused x t) := h
theorem Moved.keeps_faulted {r t : State} (h : Machine.Keeps r t) : Moved.Keeps r (.faulted t) := h

/-- The state a command leaves, where it runs. -/
def OutKeeps (r : State) : Host.Outcome State Fault Refusal → Prop
  | .next t => Keeps r t
  | _ => True

theorem OutKeeps.next {r t : State} (h : Keeps r t) : OutKeeps r (.next t) := h

theorem Keeps.getD {r d : State} {o : Option State} (e : ∀ t, o = some t → Keeps r t) (h : Keeps r d) : Keeps r (o.getD d) := by
  cases o with
  | none => exact h
  | some t => exact e t rfl

/-! ### What a match on an outcome gives -/

theorem Run.of_done {r t : State} {y : Run} {x : _} (e : y = .done x t) (h : Run.Keeps r y) : Machine.Keeps r t := by
  subst e; exact h
theorem Run.of_lone {r t : State} {y : Run} {x : _} (e : y = .lone x t) (h : Run.Keeps r y) : Machine.Keeps r t := by
  subst e; exact h
theorem Run.of_started {r t : State} {y : Run} (e : y = .started t) (h : Run.Keeps r y) : Machine.Keeps r t := by
  subst e; exact h
theorem Run.of_blocked {r t : State} {y : Run} (e : y = .blocked t) (h : Run.Keeps r y) : Machine.Keeps r t := by
  subst e; exact h
theorem Run.of_gone {r t : State} {y : Run} (e : y = .gone t) (h : Run.Keeps r y) : Machine.Keeps r t := by
  subst e; exact h
theorem Held.of_waits {r t : State} {y : Held} (e : y = .waits t) (h : Held.Keeps r y) : Machine.Keeps r t := by
  subst e; exact h
theorem Held.of_finished {r t : State} {y : Held} {x : _} (e : y = .finished x t) (h : Held.Keeps r y) : Machine.Keeps r t := by
  subst e; exact h
theorem Held.of_dispatched {r t : State} {y : Held} (e : y = .dispatched t) (h : Held.Keeps r y) : Machine.Keeps r t := by
  subst e; exact h
theorem Source.of_bytes {r t : State} {y : Source} {x : _} (e : y = .bytes x t) (h : Source.Keeps r y) : Machine.Keeps r t := by
  subst e; exact h
theorem Source.of_ended {r : State} {t : Run} {y : Source} (e : y = .ended t) (h : Source.Keeps r y) : Run.Keeps r t := by
  subst e; exact h
theorem Credit.of_lost {r t : State} {y : Credit} (e : y = .lost t) (h : Credit.Keeps r y) : Machine.Keeps r t := by
  subst e; exact h
theorem Credit.of_noAccess {r t : State} {y : Credit} (e : y = .noAccess t) (h : Credit.Keeps r y) : Machine.Keeps r t := by
  subst e; exact h
theorem Credit.of_wait {r t : State} {y : Credit} (e : y = .wait t) (h : Credit.Keeps r y) : Machine.Keeps r t := by
  subst e; exact h
theorem Credit.of_tooLong {r t : State} {y : Credit} (e : y = .tooLong t) (h : Credit.Keeps r y) : Machine.Keeps r t := by
  subst e; exact h
theorem Credit.of_ready {r t : State} {y : Credit} {x : _} (e : y = .ready x t) (h : Credit.Keeps r y) : Machine.Keeps r t := by
  subst e; exact h
theorem Moved.of_waits {r t : State} {y : Moved} (e : y = .waits t) (h : Moved.Keeps r y) : Machine.Keeps r t := by
  subst e; exact h
theorem Moved.of_sent {r t : State} {y : Moved} {x : _} (e : y = .sent x t) (h : Moved.Keeps r y) : Machine.Keeps r t := by
  subst e; exact h
theorem Moved.of_refused {r t : State} {y : Moved} {x : _} (e : y = .refused x t) (h : Moved.Keeps r y) : Machine.Keeps r t := by
  subst e; exact h
theorem Moved.of_faulted {r t : State} {y : Moved} (e : y = .faulted t) (h : Moved.Keeps r y) : Machine.Keeps r t := by
  subst e; exact h

theorem Credit.of1_lost {r t : State} {y : Credit × List Nat} {l : List Nat} (e : y = (.lost t, l)) (h : Credit.Keeps r y.1) :
    Machine.Keeps r t := by
  subst e; exact h
theorem Credit.of1_noAccess {r t : State} {y : Credit × List Nat} {l : List Nat} (e : y = (.noAccess t, l)) (h : Credit.Keeps r y.1) :
    Machine.Keeps r t := by
  subst e; exact h
theorem Credit.of1_wait {r t : State} {y : Credit × List Nat} {l : List Nat} (e : y = (.wait t, l)) (h : Credit.Keeps r y.1) :
    Machine.Keeps r t := by
  subst e; exact h
theorem Credit.of1_tooLong {r t : State} {y : Credit × List Nat} {l : List Nat} (e : y = (.tooLong t, l)) (h : Credit.Keeps r y.1) :
    Machine.Keeps r t := by
  subst e; exact h
theorem Credit.of1_ready {r t : State} {y : Credit × List Nat} {l : List Nat} {x : Nat} (e : y = (.ready x t, l)) (h : Credit.Keeps r y.1) :
    Machine.Keeps r t := by
  subst e; exact h

theorem Run.ofWrite_keeps {r : State} {w : Bool × State} {x : Report} (h : Machine.Keeps r w.2) : Run.Keeps r (Run.ofWrite w x) := by
  unfold Run.ofWrite
  split
  · exact h
  · exact h

/-! ### The memories -/

theorem CoreMem.fix_ok {m : CoreMem} {xb : Bool} (qs : List Nat) (h : m.Ok) : (m.fix xb qs).Ok := by
  induction qs generalizing m with
  | nil => exact h
  | cons q t ih => unfold CoreMem.fix; apply ih; split <;> exact h

theorem Mem.wf_writeSkip (bs : List Byte) (m : Mem) (skip : List Nat) (a : Nat) (w : Memory.wf m = true) :
    Memory.wf (m.writeSkip skip a bs) = true := by
  induction bs generalizing m a with
  | nil => exact w
  | cons b t ih =>
    unfold Mem.writeSkip
    apply ih
    split
    · exact w
    · exact Mem.wf_write m a b w

theorem CoreMem.setLanes_ok {m : CoreMem} (g : Nat) (vs : List Word) (h : m.Ok) : (m.setLanes g vs).Ok := by
  induction vs generalizing m g with
  | nil => exact h
  | cons v t ih => exact ih _ h

theorem Hbm.wf_forget (h : Hbm) (page : Nat) (w : Memory.wf h.mem = true) : Memory.wf (h.forget page).mem = true := by
  unfold Hbm.forget
  generalize pageBytes = n
  exact Mem.wf_writeN _ _ _ w

theorem Hbm.wf_writePa (h : Hbm) (key : Option Nat) (pa : Nat) (b : Byte) (w : Memory.wf h.mem = true) :
    Memory.wf (h.writePa key pa b).mem = true := by
  unfold Hbm.writePa
  refine Mem.wf_write _ _ _ ?_
  split
  · exact w
  · exact h.wf_forget _ w

theorem Hbm.wf_writeVa (bs : List Byte) (h : Hbm) (q : Partition) (skip : List Nat) (va : Nat) (w : Memory.wf h.mem = true) :
    Memory.wf (h.writeVa q skip va bs).mem = true := by
  induction bs generalizing h va with
  | nil => exact w
  | cons b t ih =>
    unfold Hbm.writeVa
    apply ih
    split
    · split
      · exact w
      · exact h.wf_writePa _ _ _ w
    · exact w

end Sys2Proof.Machine
end

