-- ==== Sys2Proof/Laws/KeepsOps.lean ====
section
/-! SUPPORT. What the functions of Sys2Proof/Machine/Ops.lean keep. -/

set_option linter.all false

namespace Sys2Proof.Machine

theorem State.setPart_keeps {r s : State} (h : Keeps r s) (p : PartId) (q : Partition) :
    Keeps r (State.setPart s p q) := by
  unfold State.setPart
  repeat'
    first
      | with_reducible assumption | dsimp only | split | with_reducible apply Keeps.upd

theorem State.modPart_keeps {r s : State} (h : Keeps r s) (p : PartId) (f : Partition → Partition) :
    Keeps r (State.modPart s p f) := by
  unfold State.modPart
  repeat'
    first
      | with_reducible assumption | with_reducible apply State.setPart_keeps | dsimp only | split

theorem State.modUe_keeps {r s : State} (h : Keeps r s) (p : PartId) (f : UpdEng → UpdEng) :
    Keeps r (State.modUe s p f) := by
  unfold State.modUe
  repeat'
    first
      | with_reducible assumption | with_reducible apply State.modPart_keeps | dsimp only | split

theorem State.setPort_keeps {r s : State} (h : Keeps r s) (p : PortId) (q : Port) :
    Keeps r (State.setPort s p q) := by
  unfold State.setPort
  repeat'
    first
      | with_reducible assumption | dsimp only | split | with_reducible apply Keeps.upd

theorem State.modPort_keeps {r s : State} (h : Keeps r s) (p : PortId) (f : Port → Port) :
    Keeps r (State.modPort s p f) := by
  unfold State.modPort
  repeat'
    first
      | with_reducible assumption | with_reducible apply State.setPort_keeps | dsimp only | split

theorem State.modSub_keeps {r s : State} (h : Keeps r s) (p : PortId) (i : SubId) (f : SubPort → SubPort) :
    Keeps r (State.modSub s p i f) := by
  unfold State.modSub
  repeat'
    first
      | with_reducible assumption | with_reducible apply State.modPort_keeps | dsimp only | split

theorem State.setStack_keeps {r s : State} (h : Keeps r s) (x2 : StackId) (q : Stack) :
    Keeps r (State.setStack s x2 q) := by
  unfold State.setStack
  repeat'
    first
      | with_reducible assumption | dsimp only | split | with_reducible apply Keeps.upd

theorem State.modStack_keeps {r s : State} (h : Keeps r s) (x2 : StackId) (f : Stack → Stack) :
    Keeps r (State.modStack s x2 f) := by
  unfold State.modStack
  repeat'
    first
      | with_reducible assumption | with_reducible apply State.setStack_keeps | dsimp only | split

theorem State.setMb_keeps {r s : State} (h : Keeps r s) (m : MbId) (b : Mailbox) :
    Keeps r (State.setMb s m b) := by
  unfold State.setMb
  repeat'
    first
      | with_reducible assumption | dsimp only | split | with_reducible apply Keeps.upd

theorem State.modMb_keeps {r s : State} (h : Keeps r s) (m : MbId) (f : Mailbox → Mailbox) :
    Keeps r (State.modMb s m f) := by
  unfold State.modMb
  repeat'
    first
      | with_reducible assumption | with_reducible apply State.setMb_keeps | dsimp only | split

theorem State.setQueue_keeps {r s : State} (h : Keeps r s) (q : Qid) (d : Queue) :
    Keeps r (State.setQueue s q d) := by
  unfold State.setQueue
  repeat'
    first
      | with_reducible assumption | with_reducible apply State.modEng_keeps | dsimp only | split

theorem State.setSess_keeps {r s : State} (h : Keeps r s) (i : ℕ) (d : Option Session) :
    Keeps r (State.setSess s i d) := by
  unfold State.setSess
  repeat'
    first
      | with_reducible assumption | with_reducible apply State.modEng_keeps | dsimp only | split

theorem State.countCore_keeps {r s : State} (h : Keeps r s) (c : CoreId) (k : CoreCnt) (n : ℕ) :
    Keeps r (State.countCore s c k n) := by
  unfold State.countCore
  repeat'
    first
      | with_reducible assumption | with_reducible apply State.modCore_keeps | (intro k; exact k)
      | (intro k; exact ⟨(CoreMem.setLanes_ok _ _ k).1, (CoreMem.setLanes_ok _ _ k).2⟩) | dsimp only | split

theorem State.countPart_keeps {r s : State} (h : Keeps r s) (p : PartId) (k : PartCnt) (n : ℕ) :
    Keeps r (State.countPart s p k n) := by
  unfold State.countPart
  repeat'
    first
      | with_reducible assumption | with_reducible apply State.modPart_keeps | dsimp only | split

theorem State.countStack_keeps {r s : State} (h : Keeps r s) (x2 : StackId) (k : StackCnt) (n : ℕ) :
    Keeps r (State.countStack s x2 k n) := by
  unfold State.countStack
  repeat'
    first
      | with_reducible assumption | with_reducible apply State.modStack_keeps | dsimp only | split

theorem State.countSub_keeps {r s : State} (h : Keeps r s) (p : PortId) (i : SubId) (k : PortCnt) (n : ℕ) :
    Keeps r (State.countSub s p i k n) := by
  unfold State.countSub
  repeat'
    first
      | with_reducible assumption | with_reducible apply State.modSub_keeps | dsimp only | split

theorem State.countStatus_keeps {r s : State} (h : Keeps r s) (p : PartId) (st : BitVec 16) :
    Keeps r (State.countStatus s p st) := by
  unfold State.countStatus
  repeat'
    first
      | with_reducible assumption | with_reducible apply State.modPart_keeps | dsimp only | split

theorem State.freeNext_keeps {r s : State} (h : Keeps r s)  :
    Keeps r (State.freeNext s) := by
  unfold State.freeNext
  repeat'
    first
      | with_reducible assumption | dsimp only | split | with_reducible apply Keeps.upd

theorem State.useShare_keeps {r s : State} (h : Keeps r s) (point : ℕ) (p : PartId) (n : ℕ) :
    Keeps r (State.useShare s point p n) := by
  unfold State.useShare
  repeat'
    first
      | with_reducible assumption | with_reducible apply State.modEng_keeps | dsimp only | split

theorem State.logEvent_keeps {r s : State} (h : Keeps r s) (code : ℕ) (src : ℕ) (part : ℕ) (arg : List Byte) :
    Keeps r (State.logEvent s code src part arg) := by
  unfold State.logEvent
  repeat'
    first
      | with_reducible assumption | with_reducible apply State.modReg_keeps | dsimp only | split

theorem State.countWords_keeps {r s : State} (h : Keeps r s) (k : StackCnt) (x3 : List ℕ) :
    Keeps r (State.countWords s k x3) := by
  revert h
  fun_induction State.countWords s k x3
  all_goals intro h
  repeat'
    first
      | with_reducible assumption | with_reducible apply State.countStack_keeps | apply_assumption | dsimp only
      | dsimp +zetaDelta only | split

theorem State.clearWords_keeps {r s : State} (h : Keeps r s) (x2 : List ℕ) :
    Keeps r (State.clearWords s x2) := by
  revert h
  fun_induction State.clearWords s x2
  all_goals intro h
  repeat'
    first
      | with_reducible assumption | (intro k; exact k) | apply_assumption | dsimp only | dsimp +zetaDelta only
      | split | with_reducible apply Keeps.hbm | with_reducible apply Keeps.upd

theorem State.logUe_keeps {r s : State} (h : Keeps r s) (part : ℕ) (source : ℕ) (x4 : List ℕ) :
    Keeps r (State.logUe s part source x4) := by
  revert h
  fun_induction State.logUe s part source x4
  all_goals intro h
  repeat'
    first
      | with_reducible assumption | with_reducible apply State.logEvent_keeps
      | with_reducible apply State.countStack_keeps | apply_assumption | dsimp only | dsimp +zetaDelta only | split

theorem State.readHbm_keeps {r s : State} (h : Keeps r s) (p : PartId) (va : ℕ) (len : ℕ) :
    Keeps r (State.readHbm s p va len).2 := by
  unfold State.readHbm
  repeat'
    first
      | with_reducible assumption | with_reducible apply State.clearWords_keeps
      | with_reducible apply State.countWords_keeps | with_reducible apply State.logUe_keeps | dsimp only | split

theorem State.underMaps_keeps {r s : State} {α : Type} (h : Keeps r s) (p : PartId) (maps : List (ℕ × Pte)) (f : State → α × State)
    (k : ∀ t, Keeps r t → Keeps r (f t).2) : Keeps r (State.underMaps s p maps f).2 := by
  unfold State.underMaps
  dsimp only
  exact State.modPart_keeps (k _ (State.modPart_keeps h _ _)) _ _

theorem State.writeHbm_keeps {r s : State} (h : Keeps r s) (p : PartId) (va : ℕ) (bs : List Byte) :
    Keeps r (State.writeHbm s p va bs).2 := by
  unfold State.writeHbm
  repeat'
    first
      | with_reducible assumption | (intro k; exact Hbm.wf_writeVa _ _ _ _ _ k)
      | with_reducible apply State.clearWords_keeps | with_reducible apply State.countWords_keeps
      | with_reducible apply State.logUe_keeps | dsimp only | split | with_reducible apply Keeps.hbm
      | with_reducible apply Keeps.upd

theorem State.countCe_keeps {r s : State} (h : Keeps r s) (c : CoreId) (n : ℕ) :
    Keeps r (State.countCe s c n) := by
  unfold State.countCe
  repeat'
    first
      | with_reducible assumption | with_reducible apply State.countCore_keeps | dsimp only | split

theorem State.checkSpans_keeps {r s : State} (h : Keeps r s) (c : CoreId) (x3 : List Span) :
    Keeps r (State.checkSpans s c x3).2 := by
  revert h
  fun_induction State.checkSpans s c x3
  all_goals intro h
  repeat'
    first
      | with_reducible assumption | (intro k; exact CoreMem.fix_ok _ k) | with_reducible apply State.countCe_keeps
      | with_reducible apply State.modMem_keeps | with_reducible refine Keeps.snd ‹_ = (_, _)› ?_ | apply_assumption
      | (intro k; exact k) | (intro k; exact ⟨(CoreMem.setLanes_ok _ _ k).1, (CoreMem.setLanes_ok _ _ k).2⟩)
      | dsimp only | dsimp +zetaDelta only | split

theorem State.writeCore_keeps {r s : State} (h : Keeps r s) (c : CoreId) (xb : Bool) (a : ℕ) (bs : List Byte) :
    Keeps r (State.writeCore s c xb a bs).2 := by
  unfold State.writeCore
  repeat'
    first
      | with_reducible assumption
      | (intro k; dsimp only; split <;> exact ⟨by first | exact Mem.wf_writeSkip _ _ _ _ (CoreMem.fix_ok _ k).1 | exact (CoreMem.fix_ok _ k).1, by first | exact Mem.wf_writeSkip _ _ _ _ (CoreMem.fix_ok _ k).2 | exact (CoreMem.fix_ok _ k).2⟩)
      | with_reducible apply State.modMem_keeps | with_reducible apply State.countCe_keeps | (intro k; exact k)
      | (intro k; exact ⟨(CoreMem.setLanes_ok _ _ k).1, (CoreMem.setLanes_ok _ _ k).2⟩) | dsimp only | split

theorem State.writeRuns_keeps {r s : State} (h : Keeps r s) (c : CoreId) (x3 : List (Bool × ℕ × List Byte)) :
    Keeps r (State.writeRuns s c x3).2 := by
  revert h
  fun_induction State.writeRuns s c x3
  all_goals intro h
  repeat'
    first
      | with_reducible assumption | with_reducible apply State.writeCore_keeps
      | with_reducible refine Keeps.snd ‹_ = (_, _)› ?_ | apply_assumption | dsimp only | dsimp +zetaDelta only
      | split

end Sys2Proof.Machine
end

