-- ==== Sys2Proof/Laws/KeepsQueues.lean ====
section
/-! SUPPORT. What the functions of Sys2Proof/Machine/Queues.lean keep. -/

set_option linter.all false

namespace Sys2Proof.Machine

theorem State.writeQueueCores_keeps {r s : State} (h : Keeps r s) (a : ℕ) (bs : List Byte) (x4 : List CoreId) :
    Keeps r (State.writeQueueCores s a bs x4).2 := by
  revert h
  fun_induction State.writeQueueCores s a bs x4
  all_goals intro h
  repeat'
    first
      | with_reducible assumption | with_reducible apply State.writeCore_keeps
      | with_reducible refine Keeps.snd ‹_ = (_, _)› ?_ | apply_assumption | dsimp only | dsimp +zetaDelta only
      | split

theorem State.writeQueue_keeps {r s : State} (h : Keeps r s) (q : Queue) (off : ℕ) (bs : List Byte) :
    Keeps r (State.writeQueue s q off bs).2 := by
  unfold State.writeQueue
  repeat'
    first
      | with_reducible assumption | with_reducible apply State.writeQueueCores_keeps
      | with_reducible refine Keeps.snd ‹_ = (_, _)› ?_ | with_reducible apply State.writeHbm_keeps | dsimp only
      | split

theorem State.takeQueue_keeps {r s : State} (h : Keeps r s) (q : Queue) (c : Option CoreId) (off : ℕ) (n : ℕ) :
    Keeps r (State.takeQueue s q c off n).2 := by
  unfold State.takeQueue
  repeat'
    first
      | with_reducible assumption | with_reducible apply State.checkSpans_keeps
      | with_reducible refine Keeps.snd ‹_ = (_, _)› ?_ | with_reducible apply State.readHbm_keeps | dsimp only
      | split

theorem State.postRecord_keeps {r s : State} (h : Keeps r s) (qid : Qid) (bytes : ℕ → Bool → List Byte) :
    Keeps r (State.postRecord s qid bytes).2.2 := by
  unfold State.postRecord
  repeat'
    first
      | with_reducible assumption | with_reducible apply State.writeQueue_keeps
      | with_reducible refine Keeps.snd ‹_ = (_, _)› ?_ | with_reducible apply State.setQueue_keeps | dsimp only
      | split

theorem State.passOver_keeps {r s : State} (h : Keeps r s) (qid : Qid) :
    Keeps r (State.passOver s qid) := by
  unfold State.passOver
  repeat'
    first
      | with_reducible assumption | with_reducible apply State.setQueue_keeps | dsimp only | split

theorem State.cancelItems_keeps {r s : State} (h : Keeps r s) (qid : Qid) (sel : Item → Bool) :
    Keeps r (State.cancelItems s qid sel) := by
  unfold State.cancelItems
  repeat'
    first
      | with_reducible assumption | with_reducible apply State.countPart_keeps
      | with_reducible apply State.setQueue_keeps | dsimp only | split

theorem State.overQueues_keeps {r s : State} (h : Keeps r s) (f : Qid → State → State) (k : ∀ q t, Keeps r t → Keeps r (f q t))
    (qs : List Qid) : Keeps r (s.overQueues f qs) := by
  induction qs generalizing s with
  | nil => exact h
  | cons q t ih => exact ih (k q s h)

end Sys2Proof.Machine
end

