-- ==== Sys2Proof/Laws/KeepsCmds.lean ====
section
/-! SUPPORT. What the functions of Sys2Proof/Machine/Cmds.lean keep. -/

set_option linter.all false

namespace Sys2Proof.Machine

theorem State.modSlot_keeps {r s : State} (h : Keeps r s) (c : CoreId) (tok : ℕ) (f : InFlight → InFlight) :
    Keeps r (State.modSlot s c tok f) := by
  unfold State.modSlot
  repeat'
    first
      | with_reducible assumption | with_reducible apply State.modCtl_keeps | dsimp only | split

theorem State.startSlot_keeps {r s : State} (h : Keeps r s) (c : CoreId) (tok : ℕ) :
    Keeps r (State.startSlot s c tok) := by
  unfold State.startSlot
  repeat'
    first
      | with_reducible assumption | with_reducible apply State.modSlot_keeps | dsimp only | split

theorem State.countMiss_keeps {r s : State} (h : Keeps r s) (p : PartId) (d : DeadlineReg) :
    Keeps r (State.countMiss s p d) := by
  unfold State.countMiss
  repeat'
    first
      | with_reducible assumption | with_reducible apply State.setQueue_keeps | dsimp only | split

theorem State.finishSlot_keeps {r s : State} (h : Keeps r s) (c : CoreId) (tok : ℕ) (x4 : Report) :
    Keeps r (State.finishSlot s c tok x4) := by
  unfold State.finishSlot
  repeat'
    first
      | with_reducible assumption | with_reducible apply State.modSlot_keeps
      | with_reducible apply State.modCtl_keeps | with_reducible apply State.countStatus_keeps
      | with_reducible apply State.countPart_keeps | with_reducible apply State.countMiss_keeps | dsimp only | split

theorem State.finishMembers_keeps {r s : State} (h : Keeps r s) (rep : Report) (x3 : List RoundMember) :
    Keeps r (State.finishMembers s rep x3) := by
  revert h
  fun_induction State.finishMembers s rep x3
  all_goals intro h
  repeat'
    first
      | with_reducible assumption | with_reducible apply State.finishSlot_keeps | apply_assumption | dsimp only
      | dsimp +zetaDelta only | split

theorem State.endRound_keeps {r s : State} (h : Keeps r s) (p : PartId) (l : RouteLine) (m : MarkReg) (rep : Report) :
    Keeps r (State.endRound s p l m rep) := by
  unfold State.endRound
  repeat'
    first
      | with_reducible assumption | with_reducible apply State.finishMembers_keeps
      | with_reducible apply State.modEng_keeps | dsimp only | split

theorem State.withdraw_keeps {r s : State} (h : Keeps r s) (c : CoreId) (tok : ℕ) :
    Keeps r (State.withdraw s c tok) := by
  unfold State.withdraw
  repeat'
    first
      | with_reducible assumption | with_reducible apply State.modEng_keeps | dsimp only | split

theorem State.finishCmd_keeps {r s : State} (h : Keeps r s) (c : CoreId) (tok : ℕ) (x4 : Report) :
    Keeps r (State.finishCmd s c tok x4) := by
  unfold State.finishCmd
  repeat'
    first
      | with_reducible assumption | with_reducible apply State.finishSlot_keeps
      | with_reducible apply State.endRound_keeps | with_reducible apply State.withdraw_keeps | dsimp only | split

theorem State.finishAll_keeps {r s : State} (h : Keeps r s) (c : CoreId) (x3 : Report) (x4 : List ℕ) :
    Keeps r (State.finishAll s c x3 x4) := by
  revert h
  fun_induction State.finishAll s c x3 x4
  all_goals intro h
  repeat'
    first
      | with_reducible assumption | with_reducible apply State.finishCmd_keeps | apply_assumption | dsimp only
      | dsimp +zetaDelta only | split

theorem State.dropHold_keeps {r s : State} (h : Keeps r s) (c : CoreId) :
    Keeps r (State.dropHold s c) := by
  unfold State.dropHold
  repeat'
    first
      | with_reducible assumption | with_reducible apply State.modCtl_keeps | dsimp only | split

theorem State.cancelUnstarted_keeps {r s : State} (h : Keeps r s) (c : CoreId) :
    Keeps r (State.cancelUnstarted s c) := by
  unfold State.cancelUnstarted
  repeat'
    first
      | with_reducible assumption | with_reducible apply State.dropHold_keeps
      | with_reducible apply State.finishAll_keeps | dsimp only | split

theorem State.hold_keeps {r s : State} (h : Keeps r s) (x2 : Missed) :
    Keeps r (State.hold s x2) := by
  unfold State.hold
  repeat'
    first
      | with_reducible assumption | with_reducible apply State.modEng_keeps | dsimp only | split

theorem State.freeRounds_keeps {r s : State} (h : Keeps r s)  :
    Keeps r (State.freeRounds s) := by
  unfold State.freeRounds
  repeat'
    first
      | with_reducible assumption | with_reducible apply State.modEng_keeps | dsimp only | split

end Sys2Proof.Machine
end

