-- ==== Sys2Proof/Laws/KeepsTransport.lean ====
section
/-! SUPPORT. What the functions of Sys2Proof/Machine/Transport.lean keep. -/

set_option linter.all false

namespace Sys2Proof.Machine

theorem State.clearWoken_keeps {r s : State} (h : Keeps r s) : Keeps r s.clearWoken :=
  Keeps.updAll rfl id (coresMap_ok fun _ k => ⟨Memory.wf_filter _ _ k.1, rfl⟩) h

theorem State.logWake_keeps {r s : State} (h : Keeps r s) (st : MState) :
    Keeps r (State.logWake s st) := by
  unfold State.logWake
  repeat'
    first
      | with_reducible assumption | with_reducible apply State.logEvent_keeps | dsimp only | split

theorem State.readied_keeps {r s : State} (h : Keeps r s)  :
    Keeps r (State.readied s) := by
  unfold State.readied
  repeat'
    first
      | with_reducible assumption | with_reducible apply State.modAon_keeps | with_reducible rfl | rfl | dsimp only
      | split

theorem State.wakeShallow_keeps {r s : State} (h : Keeps r s)  :
    Keeps r (State.wakeShallow s) := by
  unfold State.wakeShallow
  repeat'
    first
      | with_reducible assumption | with_reducible apply State.logWake_keeps
      | with_reducible apply State.readied_keeps | with_reducible apply State.clearWoken_keeps | dsimp only | split

theorem State.queueFrame_keeps {r s : State} (h : Keeps r s) (p : PortId) (i : SubId) (f : TxFrame) :
    Keeps r (State.queueFrame s p i f) := by
  unfold State.queueFrame
  repeat'
    first
      | with_reducible assumption | with_reducible apply State.modSub_keeps | dsimp only | split

theorem State.txPkt_keeps {r s : State} (h : Keeps r s) (p : PartId) (k : Pkt) :
    Keeps r (State.txPkt s p k) := by
  unfold State.txPkt
  repeat'
    first
      | with_reducible assumption | with_reducible apply State.queueFrame_keeps | dsimp only | split

theorem State.emit_keeps {r s : State} (h : Keeps r s) (i : ℕ) (d : Session) (k : Pkt) :
    Keeps r (State.emit s i d k) := by
  unfold State.emit
  repeat'
    first
      | with_reducible assumption | with_reducible apply State.txPkt_keeps
      | with_reducible apply State.setSess_keeps | dsimp only | split

theorem State.pump_keeps {r s : State} (h : Keeps r s) (i : ℕ) (x3 : ℕ) :
    Keeps r (State.pump s i x3) := by
  revert h
  fun_induction State.pump s i x3
  all_goals intro h
  repeat'
    first
      | with_reducible assumption | with_reducible apply State.emit_keeps | apply_assumption | dsimp only
      | dsimp +zetaDelta only | split

theorem State.send_keeps {r s : State} (h : Keeps r s) (i : ℕ) (ks : List Pkt) :
    Keeps r (State.send s i ks) := by
  unfold State.send
  repeat'
    first
      | with_reducible assumption | with_reducible apply State.pump_keeps | with_reducible apply State.setSess_keeps
      | dsimp only | split

theorem State.newSess_keeps {r s : State} (h : Keeps r s) (p : PartId) (m : BitVec 14) (x4 : Option (Fin 64)) (relay : Bool) :
    Keeps r (State.newSess s p m x4 relay).2 := by
  unfold State.newSess
  repeat'
    first
      | with_reducible assumption | with_reducible apply State.freeNext_keeps
      | with_reducible apply State.setSess_keeps | dsimp only | split

theorem State.needSess_keeps {r s : State} (h : Keeps r s) (p : PartId) (m : BitVec 14) :
    Keeps r (State.needSess s p m).2 := by
  unfold State.needSess
  repeat'
    first
      | with_reducible assumption | with_reducible apply State.newSess_keeps
      | with_reducible refine Keeps.snd ‹_ = (_, _)› ?_ | with_reducible apply State.emit_keeps | dsimp only | split

theorem State.needRelay_keeps {r s : State} (h : Keeps r s) (m : BitVec 14) :
    Keeps r (State.needRelay s m).2 := by
  unfold State.needRelay
  repeat'
    first
      | with_reducible assumption | with_reducible apply State.newSess_keeps
      | with_reducible refine Keeps.snd ‹_ = (_, _)› ?_ | with_reducible apply State.emit_keeps | dsimp only | split

theorem State.sendMsg_keeps {r s : State} (h : Keeps r s) (i : ℕ) (mk : Pkt → Pkt) (bs : List Byte) :
    Keeps r (State.sendMsg s i mk bs).2 := by
  unfold State.sendMsg
  repeat'
    first
      | with_reducible assumption | with_reducible apply State.send_keeps | with_reducible apply State.setSess_keeps
      | dsimp only | split

theorem State.sendList_keeps {r s : State} (h : Keeps r s) (i : ℕ) (mk : Pkt → List Pkt) :
    Keeps r (State.sendList s i mk).2 := by
  unfold State.sendList
  repeat'
    first
      | with_reducible assumption | with_reducible apply State.send_keeps | with_reducible apply State.setSess_keeps
      | dsimp only | split

theorem State.relaySend_keeps {r s : State} (h : Keeps r s) (i : ℕ) (x3 : Fin 64) (answer : Bool) (bytes : List Byte) :
    Keeps r (State.relaySend s i x3 answer bytes) := by
  unfold State.relaySend
  repeat'
    first
      | with_reducible assumption | with_reducible apply State.sendList_keeps
      | with_reducible refine Keeps.snd ‹_ = (_, _)› ?_ | dsimp only | split

theorem State.sendNotice_keeps {r s : State} (h : Keeps r s) (i : ℕ) (kind : ℕ) (step : BitVec 32) (body : List Byte) :
    Keeps r (State.sendNotice s i kind step body) := by
  unfold State.sendNotice
  repeat'
    first
      | with_reducible assumption | with_reducible apply State.send_keeps | dsimp only | split

theorem State.notifyAll_keeps {r s : State} (h : Keeps r s) (p : PartId) (kind : ℕ) (step : BitVec 32) (body : List Byte) (x6 : List (BitVec 14)) :
    Keeps r (State.notifyAll s p kind step body x6) := by
  revert h
  fun_induction State.notifyAll s p kind step body x6
  all_goals intro h
  repeat'
    first
      | with_reducible assumption | with_reducible apply State.needSess_keeps
      | with_reducible refine Keeps.snd ‹_ = (_, _)› ?_ | with_reducible apply State.sendNotice_keeps
      | apply_assumption | dsimp only | dsimp +zetaDelta only | split

theorem State.sendCredit_keeps {r s : State} (h : Keeps r s) (i : ℕ) (dq : Qid) (count : ℕ) (slotb : ℕ) (a2a : Bool) :
    Keeps r (State.sendCredit s i dq count slotb a2a) := by
  unfold State.sendCredit
  repeat'
    first
      | with_reducible assumption | with_reducible apply State.send_keeps | dsimp only | split

theorem State.sendAck_keeps {r s : State} (h : Keeps r s) (i : ℕ) :
    Keeps r (State.sendAck s i) := by
  unfold State.sendAck
  repeat'
    first
      | with_reducible assumption | with_reducible apply State.emit_keeps | dsimp only | split

theorem State.resend_keeps {r s : State} (h : Keeps r s) (p : PartId) (x3 : List Unacked) :
    Keeps r (State.resend s p x3) := by
  revert h
  fun_induction State.resend s p x3
  all_goals intro h
  repeat'
    first
      | with_reducible assumption | with_reducible apply State.countPart_keeps
      | with_reducible apply State.txPkt_keeps | apply_assumption | dsimp only | dsimp +zetaDelta only | split

theorem State.sweepList_keeps {r s : State} (h : Keeps r s) (x2 : List Xfer) :
    Keeps r (State.sweepList s x2) := by
  revert h
  fun_induction State.sweepList s x2
  all_goals intro h
  repeat'
    first
      | with_reducible assumption | with_reducible apply State.finishCmd_keeps | apply_assumption | dsimp only
      | dsimp +zetaDelta only | split

theorem State.sweepXfers_keeps {r s : State} (h : Keeps r s)  :
    Keeps r (State.sweepXfers s) := by
  unfold State.sweepXfers
  repeat'
    first
      | with_reducible assumption | with_reducible apply State.sweepList_keeps
      | with_reducible apply State.modEng_keeps | dsimp only | split

theorem State.endXfers_keeps {r s : State} (h : Keeps r s) (sel : Xfer → Bool) (x3 : Report) :
    Keeps r (State.endXfers s sel x3) := by
  unfold State.endXfers
  repeat'
    first
      | with_reducible assumption | with_reducible apply State.finishCmd_keeps
      | with_reducible apply State.modEng_keeps | with_reducible refine Keeps.foldl (fun _ _ _ => ?_) ?_
      | dsimp only | split

theorem State.endTransfers_keeps {r s : State} (h : Keeps r s) (sel : CoreId → InFlight → Bool) (x3 : Report) :
    Keeps r (State.endTransfers s sel x3) := by
  unfold State.endTransfers
  repeat'
    first
      | with_reducible assumption | with_reducible apply State.finishCmd_keeps
      | with_reducible apply State.modEng_keeps | with_reducible refine Keeps.foldl (fun _ _ _ => ?_) ?_
      | dsimp only | split

theorem State.book_keeps {r s : State} (h : Keeps r s) (i : ℕ) (k : Pkt) :
    Keeps r (State.book s i k) := by
  unfold State.book
  repeat'
    first
      | with_reducible assumption | with_reducible apply State.setSess_keeps
      | with_reducible apply State.sendAck_keeps | dsimp only | split

theorem State.bookRefused_keeps {r s : State} (h : Keeps r s) (i : ℕ) :
    Keeps r (State.bookRefused s i) := by
  unfold State.bookRefused
  repeat'
    first
      | with_reducible assumption | with_reducible apply State.setSess_keeps | with_reducible apply State.book_keeps
      | with_reducible refine Keeps.foldl (fun _ _ _ => ?_) ?_ | dsimp only | split

theorem State.bookAllRefused_keeps {r s : State} (h : Keeps r s) (x2 : List ℕ) :
    Keeps r (State.bookAllRefused s x2) := by
  revert h
  fun_induction State.bookAllRefused s x2
  all_goals intro h
  repeat'
    first
      | with_reducible assumption | with_reducible apply State.bookRefused_keeps | apply_assumption | dsimp only
      | dsimp +zetaDelta only | split

theorem State.sendClose_keeps {r s : State} (h : Keeps r s) (i : ℕ) (d : Session) (reason : ℕ) :
    Keeps r (State.sendClose s i d reason) := by
  unfold State.sendClose
  repeat'
    first
      | with_reducible assumption | with_reducible apply State.txPkt_keeps | with_reducible apply State.modEng_keeps
      | dsimp only | split

theorem State.closeSess_keeps {r s : State} (h : Keeps r s) (i : ℕ) (reason : Option ℕ) :
    Keeps r (State.closeSess s i reason) := by
  unfold State.closeSess
  repeat'
    first
      | with_reducible assumption | with_reducible apply State.modEng_keeps
      | with_reducible apply State.setSess_keeps | with_reducible apply State.sendClose_keeps | dsimp only | split

theorem State.dropClosing_keeps {r s : State} (h : Keeps r s) (i : ℕ) :
    Keeps r (State.dropClosing s i) := by
  unfold State.dropClosing
  repeat'
    first
      | with_reducible assumption | with_reducible apply State.modEng_keeps | dsimp only | split

theorem State.closeAll_keeps {r s : State} (h : Keeps r s) (reason : Option ℕ) (x3 : List ℕ) :
    Keeps r (State.closeAll s reason x3) := by
  revert h
  fun_induction State.closeAll s reason x3
  all_goals intro h
  repeat'
    first
      | with_reducible assumption | with_reducible apply State.closeSess_keeps | apply_assumption | dsimp only
      | dsimp +zetaDelta only | split

end Sys2Proof.Machine
end

