-- ==== Sys2Proof/Laws/KeepsFault.lean ====
section
/-! SUPPORT. What the functions of Sys2Proof/Machine/Fault.lean keep. -/

set_option linter.all false

namespace Sys2Proof.Machine

theorem State.faultCore_keeps {r s : State} (h : Keeps r s) (c : CoreId) :
    Keeps r (State.faultCore s c) := by
  unfold State.faultCore
  repeat'
    first
      | with_reducible assumption | with_reducible apply State.cancelUnstarted_keeps
      | with_reducible apply State.modCtl_keeps | dsimp only | split

theorem State.faultCores_keeps {r s : State} (h : Keeps r s) (x2 : List CoreId) :
    Keeps r (State.faultCores s x2) := by
  revert h
  fun_induction State.faultCores s x2
  all_goals intro h
  repeat'
    first
      | with_reducible assumption | with_reducible apply State.faultCore_keeps | apply_assumption | dsimp only
      | dsimp +zetaDelta only | split

theorem State.dropLists_keeps {r s : State} (h : Keeps r s) (p : PartId) (x3 : List CoreId) :
    Keeps r (State.dropLists s p x3) := by
  revert h
  fun_induction State.dropLists s p x3
  all_goals intro h
  repeat'
    first
      | with_reducible assumption | with_reducible apply State.countPart_keeps
      | with_reducible apply State.modStash_keeps | apply_assumption | dsimp only | dsimp +zetaDelta only | split

theorem State.endOpenRounds_keeps {r s : State} (h : Keeps r s) (p : PartId) :
    Keeps r (State.endOpenRounds s p) := by
  unfold State.endOpenRounds
  repeat'
    first
      | with_reducible assumption | with_reducible apply State.modEng_keeps
      | with_reducible apply State.finishMembers_keeps | with_reducible refine Keeps.foldl (fun _ _ _ => ?_) ?_
      | dsimp only | split

theorem State.cancelPart_keeps {r s : State} (h : Keeps r s) (p : PartId) :
    Keeps r (State.cancelPart s p) := by
  unfold State.cancelPart
  repeat'
    first
      | with_reducible assumption | with_reducible refine State.overQueues_keeps ?_ _ (fun _ _ _ => ?_) _
      | with_reducible apply State.cancelItems_keeps | dsimp only | split

theorem State.endExpected_keeps {r s : State} (h : Keeps r s) (p : PartId) :
    Keeps r (State.endExpected s p) := by
  unfold State.endExpected
  repeat'
    first
      | with_reducible assumption | with_reducible apply State.modEng_keeps | dsimp only | split

theorem State.partFault_keeps {r s : State} (h : Keeps r s) (p : PartId) (cause : ℕ) (core : Option CoreId) :
    Keeps r (State.partFault s p cause core) := by
  unfold State.partFault
  repeat'
    first
      | with_reducible assumption | with_reducible apply State.logEvent_keeps
      | with_reducible apply State.modPart_keeps | with_reducible apply State.dropLists_keeps
      | with_reducible apply State.faultCores_keeps | with_reducible apply State.cancelPart_keeps
      | with_reducible apply State.endOpenRounds_keeps | with_reducible apply State.modUe_keeps
      | with_reducible apply State.modEng_keeps | with_reducible apply State.endExpected_keeps
      | with_reducible apply State.closeAll_keeps | with_reducible apply State.endTransfers_keeps | dsimp only
      | split

theorem State.fillQueue_keeps {r s : State} (h : Keeps r s) (q : Queue) (off : ℕ) (bs : List Byte) :
    Keeps r (State.fillQueue s q off bs).2 := by
  unfold State.fillQueue
  repeat'
    first
      | with_reducible assumption | with_reducible apply State.writeQueue_keeps
      | with_reducible refine Keeps.snd ‹_ = (_, _)› ?_ | with_reducible apply State.partFault_keeps | dsimp only
      | split

theorem State.complete_keeps {r s : State} (h : Keeps r s) (c : CoreId) (tok : ℕ) (x4 : Report) :
    Keeps r (State.complete s c tok x4) := by
  unfold State.complete
  repeat'
    first
      | with_reducible assumption | with_reducible apply State.finishCmd_keeps
      | with_reducible apply State.partFault_keeps | dsimp only | split

theorem State.loseGroups_keeps {r s : State} (h : Keeps r s) (sel : CGroup → Bool) :
    Keeps r (State.loseGroups s sel) := by
  unfold State.loseGroups
  repeat'
    first
      | with_reducible assumption | with_reducible apply State.modEng_keeps | dsimp only | split

theorem State.writeLost_keeps {r s : State} (h : Keeps r s) (q : Queue) (n : ℕ) (j : ℕ) :
    Keeps r (State.writeLost s q n j) := by
  unfold State.writeLost
  repeat'
    first
      | with_reducible assumption | with_reducible apply State.fillQueue_keeps
      | with_reducible refine Keeps.snd ‹_ = (_, _)› ?_ | dsimp only | split

theorem State.loseReturns_keeps {r s : State} (h : Keeps r s) (m : BitVec 14) (only : Option PartId) (qid : Qid) :
    Keeps r (State.loseReturns s m only qid) := by
  unfold State.loseReturns
  repeat'
    first
      | with_reducible assumption | with_reducible apply State.writeLost_keeps
      | with_reducible apply State.setQueue_keeps | with_reducible refine Keeps.foldl (fun _ _ _ => ?_) ?_
      | dsimp only | split

theorem State.dropContexts_keeps {r s : State} (h : Keeps r s) (sel : CGroup → Bool) :
    Keeps r (State.dropContexts s sel) := by
  unfold State.dropContexts
  repeat'
    first
      | with_reducible assumption | with_reducible apply State.modEng_keeps | dsimp only | split
      | with_reducible apply Keeps.upd

theorem State.applyLoss_keeps {r s : State} (h : Keeps r s) (m : BitVec 14) (sel : CGroup → Bool) (sess : List ℕ) (only : Option PartId) :
    Keeps r (State.applyLoss s m sel sess only) := by
  unfold State.applyLoss
  repeat'
    first
      | with_reducible assumption | with_reducible apply State.loseGroups_keeps
      | with_reducible apply State.closeAll_keeps | with_reducible apply State.endTransfers_keeps
      | with_reducible refine State.overQueues_keeps ?_ _ (fun _ _ _ => ?_) _
      | with_reducible apply State.loseReturns_keeps | with_reducible apply State.dropContexts_keeps
      | with_reducible apply State.modEng_keeps | dsimp only | split

theorem State.notifyLoss_keeps {r s : State} (h : Keeps r s) (m : BitVec 14) (cause : ℕ) (x4 : List PartId) :
    Keeps r (State.notifyLoss s m cause x4) := by
  revert h
  fun_induction State.notifyLoss s m cause x4
  all_goals intro h
  repeat'
    first
      | with_reducible assumption | with_reducible apply State.notifyAll_keeps | apply_assumption | dsimp only
      | dsimp +zetaDelta only | split

theorem State.declareLost_keeps {r s : State} (h : Keeps r s) (m : BitVec 14) (cause : ℕ) :
    Keeps r (State.declareLost s m cause) := by
  unfold State.declareLost
  repeat'
    first
      | with_reducible assumption | with_reducible apply State.logEvent_keeps
      | with_reducible apply State.notifyLoss_keeps | with_reducible apply State.modEng_keeps
      | with_reducible apply State.applyLoss_keeps | dsimp only | split

theorem State.peerPartLost_keeps {r s : State} (h : Keeps r s) (i : ℕ) :
    Keeps r (State.peerPartLost s i) := by
  unfold State.peerPartLost
  repeat'
    first
      | with_reducible assumption | with_reducible apply State.applyLoss_keeps | dsimp only | split

end Sys2Proof.Machine
end

