-- ==== Sys2Proof/Laws/KeepsArrays.lean ====
section
/-! SUPPORT. What the functions of Sys2Proof/Machine/Arrays.lean keep. -/

set_option linter.all false

namespace Sys2Proof.Machine

theorem State.spend_keeps {r s : State} (h : Keeps r s) (x : InFlight) :
    Keeps r (State.spend s x) := by
  unfold State.spend
  repeat'
    first
      | with_reducible assumption | dsimp only | split | with_reducible apply Keeps.upd

theorem State.runLdw_keeps {r s : State} (h : Keeps r s) (c : CoreId) (l : LdwLine) :
    Run.Keeps r (State.runLdw s c l) := by
  unfold State.runLdw
  repeat'
    first
      | with_reducible assumption | with_reducible apply State.modMem_keeps
      | with_reducible apply State.checkSpans_keeps | with_reducible refine Keeps.snd ‹_ = (_, _)› ?_
      | with_reducible apply Run.keeps_done | with_reducible apply Run.keeps_lone
      | with_reducible apply Run.keeps_started | with_reducible apply Run.keeps_blocked
      | with_reducible apply Run.keeps_gone | (intro k; exact k)
      | (intro k; exact ⟨(CoreMem.setLanes_ok _ _ k).1, (CoreMem.setLanes_ok _ _ k).2⟩) | dsimp only | split

theorem State.logParity_keeps {r s : State} (h : Keeps r s) (c : CoreId) (p : ℕ) (a : ℕ) (tile : ℕ) (e : ℕ) :
    Keeps r (State.logParity s c p a tile e) := by
  unfold State.logParity
  repeat'
    first
      | with_reducible assumption | with_reducible apply State.logEvent_keeps | dsimp only | split

theorem State.stage_keeps {r s : State} (h : Keeps r s) (c : CoreId) (l : MmaLine) :
    Keeps r (State.stage s c l) := by
  unfold State.stage
  repeat'
    first
      | with_reducible assumption | with_reducible apply State.modMem_keeps | (intro k; exact k)
      | (intro k; exact ⟨(CoreMem.setLanes_ok _ _ k).1, (CoreMem.setLanes_ok _ _ k).2⟩) | dsimp only | split
      | with_reducible apply Keeps.upd

theorem foldl_ok {α β : Type} {f : CoreMem × β → α → CoreMem × β} (e : ∀ q x, q.1.Ok → (f q x).1.Ok) (l : List α) (q : CoreMem × β)
    (h : q.1.Ok) : (l.foldl f q).1.Ok := by
  induction l generalizing q with
  | nil => exact h
  | cons x t ih => exact ih _ (e q x h)

theorem CoreMem.putRow_ok {m : CoreMem} (acc : Bool) (a tile n r : Nat) (us : List (Sum × Nat)) (h : m.Ok) :
    (m.putRow acc a tile n r us).1.Ok := by
  unfold CoreMem.putRow
  apply foldl_ok
  · intro q x k; exact k
  · exact h

theorem CoreMem.setOfs_ok {m : CoreMem} (l : MmaLine) (n : Nat) (h : m.Ok) : (m.setOfs l n).Ok := h

theorem mmaRows_ok (dist : Bool) (l : MmaLine) (f : Fmt) (h : Shape) (ofs : Int) (jobs : List ArrayJob) (k : Nat) (n : Nat)
    {m : CoreMem} (flags r : Nat) (w : m.Ok) : (mmaRows dist l f h ofs jobs k m flags r n).1.Ok := by
  induction n generalizing m flags r with
  | zero => exact w
  | succ n ih =>
    unfold mmaRows
    dsimp only
    split
    · exact w
    · apply ih
      apply foldl_ok
      · intro q x k; exact CoreMem.putRow_ok _ _ _ _ _ _ k
      · exact w

theorem mmaRows_ok_of {dist : Bool} {l : MmaLine} {f : Fmt} {h : Shape} {ofs : Int} {jobs : List ArrayJob} {k n : Nat}
    {m z : CoreMem} {b : Bool} {flags r : Nat} {y : Nat × Option (Nat × Nat)}
    (e : mmaRows dist l f h ofs jobs k (if b = true then m else m.setOfs l h.n) flags r n = (z, y)) (w : m.Ok) : z.Ok := by
  have q := mmaRows_ok dist l f h ofs jobs k n flags r (m := if b = true then m else m.setOfs l h.n) (by split <;> exact w)
  rw [e] at q; exact q

theorem State.runMma_keeps {r s : State} (h : Keeps r s) (c : CoreId) (dist : Bool) (l : MmaLine) :
    Run.Keeps r (State.runMma s c dist l) := by
  unfold State.runMma
  repeat'
    first
      | with_reducible assumption | with_reducible apply State.checkSpans_keeps
      | with_reducible refine Keeps.snd ‹_ = (_, _)› ?_ | with_reducible apply State.logParity_keeps
      | with_reducible apply Run.keeps_done | with_reducible apply State.stage_keeps | with_reducible apply State.modMem_keeps
      | (intro k; exact mmaRows_ok_of ‹mmaRows _ _ _ _ _ _ _ _ _ _ _ = _› k) | dsimp only | split

end Sys2Proof.Machine
end

