-- ==== Sys2Proof/Laws/KeepsVector.lean ====
section
/-! SUPPORT. What the functions of Sys2Proof/Machine/Vector.lean keep. -/

set_option linter.all false

namespace Sys2Proof.Machine

theorem State.runRed_keeps {r s : State} (h : Keeps r s) (c : CoreId) (l : RedLine) :
    Run.Keeps r (State.runRed s c l) := by
  unfold State.runRed
  repeat'
    first
      | with_reducible assumption
      | (intro k; exact ⟨(CoreMem.setLanes_ok _ _ (CoreMem.setLanes_ok _ _ k)).1, (CoreMem.setLanes_ok _ _ (CoreMem.setLanes_ok _ _ k)).2⟩)
      | with_reducible apply State.checkSpans_keeps | with_reducible refine Keeps.snd ‹_ = (_, _)› ?_
      | with_reducible apply State.modMem_keeps | with_reducible apply State.writeCore_keeps
      | with_reducible apply Run.ofWrite_keeps | with_reducible apply Run.keeps_done
      | with_reducible apply Run.keeps_lone | with_reducible apply Run.keeps_started
      | with_reducible apply Run.keeps_blocked | with_reducible apply Run.keeps_gone | (intro k; exact k)
      | (intro k; exact ⟨(CoreMem.setLanes_ok _ _ k).1, (CoreMem.setLanes_ok _ _ k).2⟩) | dsimp only | split

theorem State.runVec_keeps {r s : State} (h : Keeps r s) (c : CoreId) (x : InFlight) (l : VecLine) :
    Run.Keeps r (State.runVec s c x l) := by
  unfold State.runVec
  repeat'
    first
      | with_reducible assumption | with_reducible apply State.checkSpans_keeps
      | with_reducible refine Keeps.snd ‹_ = (_, _)› ?_ | with_reducible apply State.spend_keeps
      | with_reducible apply State.modMem_keeps | with_reducible apply State.writeRuns_keeps
      | with_reducible apply Run.ofWrite_keeps | with_reducible apply Run.keeps_done
      | with_reducible apply Run.keeps_lone | with_reducible apply Run.keeps_started
      | with_reducible apply Run.keeps_blocked | with_reducible apply Run.keeps_gone | (intro k; exact k)
      | (intro k; exact ⟨(CoreMem.setLanes_ok _ _ k).1, (CoreMem.setLanes_ok _ _ k).2⟩) | dsimp only | split

theorem State.runXpose_keeps {r s : State} (h : Keeps r s) (c : CoreId) (l : XposeLine) :
    Run.Keeps r (State.runXpose s c l) := by
  unfold State.runXpose
  repeat'
    first
      | with_reducible assumption | with_reducible apply State.checkSpans_keeps
      | with_reducible refine Keeps.snd ‹_ = (_, _)› ?_ | with_reducible apply State.writeRuns_keeps
      | with_reducible apply Run.ofWrite_keeps | with_reducible apply Run.keeps_done
      | with_reducible apply Run.keeps_lone | with_reducible apply Run.keeps_started
      | with_reducible apply Run.keeps_blocked | with_reducible apply Run.keeps_gone | dsimp only | split

theorem State.mergeAmax_keeps {r s : State} (h : Keeps r s) (p : PartId) (en : Bool) (i : ℕ) (step : BitVec 32) (v : ℕ) (nan : Bool) :
    Keeps r (State.mergeAmax s p en i step v nan) := by
  unfold State.mergeAmax
  repeat'
    first
      | with_reducible assumption | with_reducible apply State.countPart_keeps
      | with_reducible apply State.modPart_keeps | dsimp only | split

theorem State.runEpi_keeps {r s : State} (h : Keeps r s) (c : CoreId) (x : InFlight) (l : EpiLine) :
    Run.Keeps r (State.runEpi s c x l) := by
  unfold State.runEpi
  repeat'
    first
      | with_reducible assumption | with_reducible apply State.checkSpans_keeps
      | with_reducible refine Keeps.snd ‹_ = (_, _)› ?_ | with_reducible apply State.mergeAmax_keeps
      | with_reducible apply State.spend_keeps | with_reducible apply State.writeRuns_keeps
      | with_reducible apply State.logParity_keeps | with_reducible refine Keeps.foldl (fun _ _ _ => ?_) ?_
      | with_reducible apply Run.ofWrite_keeps | with_reducible apply Run.keeps_done
      | with_reducible apply Run.keeps_lone | with_reducible apply Run.keeps_started
      | with_reducible apply Run.keeps_blocked | with_reducible apply Run.keeps_gone | dsimp only | split

end Sys2Proof.Machine
end

