-- ==== Sys2Proof/Laws/KeepsA2a.lean ====
section
/-! SUPPORT. What the functions of Sys2Proof/Machine/A2a.lean keep. -/

set_option linter.all false

namespace Sys2Proof.Machine

theorem State.takeReturn_keeps {r s : State} (h : Keeps r s) (p : PartId) (rowb : ℕ) (x4 : A2aRec) (rows : List (List Byte)) :
    Keeps r (State.takeReturn s p rowb x4 rows).2 := by
  unfold State.takeReturn
  repeat'
    first
      | with_reducible assumption | with_reducible apply State.fillQueue_keeps
      | with_reducible refine Keeps.snd ‹_ = (_, _)› ?_ | with_reducible apply State.setQueue_keeps | dsimp only
      | split

theorem State.answerHand_keeps {r s : State} (h : Keeps r s) (p : PartId) (src : BitVec 14) (x4 : ℕ) :
    Keeps r (State.answerHand s p src x4) := by
  unfold State.answerHand
  repeat'
    first
      | with_reducible assumption | with_reducible apply State.modEng_keeps | dsimp only | split

theorem State.takeReturns_keeps {r s : State} (h : Keeps r s) (p : PartId) (rowb : ℕ) (x4 : List (A2aRec × List (List Byte))) :
    Keeps r (State.takeReturns s p rowb x4).2 := by
  revert h
  fun_induction State.takeReturns s p rowb x4
  all_goals intro h
  repeat'
    first
      | with_reducible assumption | with_reducible apply State.takeReturn_keeps
      | with_reducible refine Keeps.snd ‹_ = (_, _)› ?_ | apply_assumption | dsimp only | dsimp +zetaDelta only
      | split

theorem State.a2aReturned_keeps {r s : State} (h : Keeps r s) (p : PartId) (src : BitVec 14) (m : A2aMsg) :
    Keeps r (State.a2aReturned s p src m) := by
  unfold State.a2aReturned
  repeat'
    first
      | with_reducible assumption | with_reducible apply State.hold_keeps
      | with_reducible apply State.takeReturns_keeps | with_reducible refine Keeps.snd ‹_ = (_, _)› ?_
      | with_reducible apply State.answerHand_keeps | dsimp only | split

theorem State.a2aSend_keeps {r s : State} (h : Keeps r s) (p : PartId) (dst : BitVec 14) (ret : Bool) (m : A2aMsg) :
    Keeps r (State.a2aSend s p dst ret m) := by
  unfold State.a2aSend
  repeat'
    first
      | with_reducible assumption | with_reducible apply State.a2aReturned_keeps
      | with_reducible apply State.modEng_keeps | with_reducible apply State.needSess_keeps
      | with_reducible refine Keeps.snd ‹_ = (_, _)› ?_ | with_reducible apply State.sendMsg_keeps
      | with_reducible apply State.setSess_keeps | with_reducible apply State.sendCredit_keeps | dsimp only | split

theorem State.logA2a_keeps {r s : State} (h : Keeps r s) (p : PartId) (q : Qid) (item : ℕ) (src : BitVec 14) :
    Keeps r (State.logA2a s p q item src) := by
  unfold State.logA2a
  repeat'
    first
      | with_reducible assumption | with_reducible apply State.logEvent_keeps | dsimp only | split

theorem State.a2aRefuse_keeps {r s : State} (h : Keeps r s) (p : PartId) (src : BitVec 14) (m : A2aMsg) :
    Keeps r (State.a2aRefuse s p src m) := by
  unfold State.a2aRefuse
  repeat'
    first
      | with_reducible assumption | with_reducible apply State.a2aSend_keeps
      | with_reducible apply State.logA2a_keeps | dsimp only | split

theorem appendRec_keeps {r : State} {a : Append} (q : Queue) (src : BitVec 14) (n : Nat) (x : A2aRec × List (List Byte))
    (h : Keeps r a.s) : Keeps r (appendRec a q src n x).s := by
  unfold appendRec
  split
  · exact h
  · dsimp only
    split
    · exact h
    · exact State.fillQueue_keeps h _ _ _

theorem appendAll_keeps {r : State} {a : Append} {q : Queue} {src : BitVec 14} {n : Nat} {l : List (A2aRec × List (List Byte))}
    (h : Keeps r a.s) : Keeps r (l.foldl (fun a x => appendRec a q src n x) a).s := by
  induction l generalizing a with
  | nil => exact h
  | cons x t ih => exact ih (appendRec_keeps q src n x h)

theorem State.a2aDeliver_keeps {r s : State} (h : Keeps r s) (p : PartId) (src : BitVec 14) (m : A2aMsg) :
    Keeps r (State.a2aDeliver s p src m) := by
  unfold State.a2aDeliver
  repeat'
    first
      | with_reducible assumption | with_reducible apply appendAll_keeps
      | with_reducible apply State.a2aRefuse_keeps | with_reducible apply State.hold_keeps
      | with_reducible apply State.logA2a_keeps | with_reducible apply State.fillQueue_keeps
      | with_reducible refine Keeps.snd ‹_ = (_, _)› ?_ | with_reducible apply State.setQueue_keeps
      | with_reducible refine Keeps.foldl (fun _ _ _ => ?_) ?_ | dsimp only | split
      | with_reducible refine Keeps.ite ?_ ?_

theorem State.drainLocal_keeps {r s : State} (h : Keeps r s) (x2 : List (PartId × A2aMsg)) :
    Keeps r (State.drainLocal s x2) := by
  revert h
  fun_induction State.drainLocal s x2
  all_goals intro h
  repeat'
    first
      | with_reducible assumption | with_reducible apply State.modEng_keeps
      | with_reducible apply State.setQueue_keeps | with_reducible apply State.a2aDeliver_keeps | apply_assumption
      | dsimp only | dsimp +zetaDelta only | split

theorem State.localA2a_keeps {r s : State} (h : Keeps r s)  :
    Keeps r (State.localA2a s) := by
  unfold State.localA2a
  repeat'
    first
      | with_reducible assumption | with_reducible apply State.drainLocal_keeps | dsimp only | split

end Sys2Proof.Machine
end

