-- ==== Sys2Proof/Laws/KeepsRoute.lean ====
section
/-! SUPPORT. What the functions of Sys2Proof/Machine/Route.lean keep. -/

set_option linter.all false

namespace Sys2Proof.Machine

theorem State.writeBuffer_keeps {r s : State} (h : Keeps r s) (g : Segs) :
    Keeps r (State.writeBuffer s g).2 := by
  unfold State.writeBuffer
  repeat'
    first
      | with_reducible assumption | with_reducible apply State.writeRuns_keeps
      | with_reducible refine Keeps.snd ‹_ = (_, _)› ?_ | dsimp only | split

theorem State.openReturn_keeps {r s : State} (h : Keeps r s) (tab : PlaceTab) (hand : ℕ) (g : Segs) :
    Keeps r (State.openReturn s tab hand g) := by
  unfold State.openReturn
  repeat'
    first
      | with_reducible assumption | with_reducible apply State.setQueue_keeps
      | with_reducible apply State.writeLost_keeps | with_reducible refine Keeps.foldl (fun _ _ _ => ?_) ?_
      | dsimp only | split

theorem State.handoff_keeps {r s : State} (h : Keeps r s) (p : PartId) (tab : PlaceTab) (cgrp : BitVec 16) (gs : List (Segs × ℕ)) (x6 : List (BitVec 14 × Qid)) :
    Keeps r (State.handoff s p tab cgrp gs x6) := by
  revert h
  fun_induction State.handoff s p tab cgrp gs x6
  all_goals intro h
  repeat'
    first
      | with_reducible assumption | with_reducible apply State.a2aSend_keeps | apply_assumption | dsimp only
      | dsimp +zetaDelta only | split

theorem State.openReturns_keeps {r s : State} (h : Keeps r s) (tab : PlaceTab) (hand : ℕ) (x4 : List Segs) :
    Keeps r (State.openReturns s tab hand x4).2 := by
  revert h
  fun_induction State.openReturns s tab hand x4
  all_goals intro h
  repeat'
    first
      | with_reducible assumption | with_reducible apply State.openReturn_keeps
      | with_reducible refine Keeps.snd ‹_ = (_, _)› ?_ | apply_assumption | dsimp only | dsimp +zetaDelta only
      | split

theorem State.writeBuffers_keeps {r s : State} (h : Keeps r s) (x2 : List Segs) :
    Keeps r (State.writeBuffers s x2).2 := by
  revert h
  fun_induction State.writeBuffers s x2
  all_goals intro h
  repeat'
    first
      | with_reducible assumption | with_reducible apply State.writeBuffer_keeps
      | with_reducible refine Keeps.snd ‹_ = (_, _)› ?_ | apply_assumption | dsimp only | dsimp +zetaDelta only
      | split

theorem State.dispatch_keeps {r s : State} (h : Keeps r s) (p : PartId) (tab : PlaceTab) (cgrp : BitVec 16) (gs : List Segs) :
    Keeps r (State.dispatch s p tab cgrp gs).2 := by
  unfold State.dispatch
  repeat'
    first
      | with_reducible assumption | with_reducible apply State.writeBuffers_keeps
      | with_reducible refine Keeps.snd ‹_ = (_, _)› ?_ | with_reducible apply State.openReturns_keeps
      | with_reducible apply State.localA2a_keeps | with_reducible apply State.handoff_keeps | dsimp only | split

theorem State.runReuse_keeps {r s : State} (h : Keeps r s) (c : CoreId) (p : PartId) (x : InFlight) (l : RouteLine) (tab : PlaceTab) (x7 : RouteHdr) :
    Run.Keeps r (State.runReuse s c p x l tab x7) := by
  unfold State.runReuse
  repeat'
    first
      | with_reducible assumption | with_reducible apply State.checkSpans_keeps
      | with_reducible refine Keeps.snd ‹_ = (_, _)› ?_ | with_reducible apply State.dispatch_keeps
      | with_reducible apply State.useShare_keeps | with_reducible refine Keeps.foldl (fun _ _ _ => ?_) ?_
      | with_reducible apply Run.keeps_done | with_reducible apply Run.keeps_lone
      | with_reducible apply Run.keeps_started | with_reducible apply Run.keeps_blocked
      | with_reducible apply Run.keeps_gone | dsimp only | split

theorem State.runDispatch_keeps {r s : State} (h : Keeps r s) (c : CoreId) (p : PartId) (x : InFlight) (l : RouteLine) :
    Run.Keeps r (State.runDispatch s c p x l) := by
  unfold State.runDispatch
  repeat'
    first
      | with_reducible assumption | with_reducible apply State.checkSpans_keeps
      | with_reducible refine Keeps.snd ‹_ = (_, _)› ?_ | with_reducible apply State.runReuse_keeps
      | with_reducible refine Run.of_done (by assumption) ?_ | with_reducible refine Run.of_lone (by assumption) ?_
      | with_reducible refine Run.of_started (by assumption) ?_
      | with_reducible refine Run.of_blocked (by assumption) ?_
      | with_reducible refine Run.of_gone (by assumption) ?_ | with_reducible apply State.modEng_keeps
      | with_reducible apply Run.keeps_done | with_reducible apply Run.keeps_lone
      | with_reducible apply Run.keeps_started | with_reducible apply Run.keeps_blocked
      | with_reducible apply Run.keeps_gone | dsimp only | split

theorem State.writeMaps_keeps {r s : State} (h : Keeps r s) (tab : PlaceTab) (ad : Admission) (x4 : List RoundMember) :
    Keeps r (State.writeMaps s tab ad x4).2 := by
  revert h
  fun_induction State.writeMaps s tab ad x4
  all_goals intro h
  repeat'
    first
      | with_reducible assumption | with_reducible apply State.writeRuns_keeps
      | with_reducible refine Keeps.snd ‹_ = (_, _)› ?_ | apply_assumption | dsimp only | dsimp +zetaDelta only
      | split

theorem State.completeAll_keeps {r s : State} (h : Keeps r s) (rep : Report) (x3 : List RoundMember) :
    Keeps r (State.completeAll s rep x3) := by
  revert h
  fun_induction State.completeAll s rep x3
  all_goals intro h
  repeat'
    first
      | with_reducible assumption | with_reducible apply State.complete_keeps | apply_assumption | dsimp only
      | dsimp +zetaDelta only | split

theorem State.finishRound_keeps {r s : State} (h : Keeps r s) (p : PartId) (tab : PlaceTab) (ad : Admission) (ok : Bool) (x6 : List RoundMember) :
    Keeps r (State.finishRound s p tab ad ok x6) := by
  revert h
  fun_induction State.finishRound s p tab ad ok x6
  all_goals intro h
  repeat'
    first
      | with_reducible assumption | with_reducible apply State.countPart_keeps
      | with_reducible apply State.complete_keeps | apply_assumption | dsimp only | dsimp +zetaDelta only | split

theorem State.checkRows_keeps {r s : State} (h : Keeps r s) (ad : Admission) (x3 : List RoundMember) :
    Keeps r (State.checkRows s ad x3).2 := by
  revert h
  fun_induction State.checkRows s ad x3
  all_goals intro h
  repeat'
    first
      | with_reducible assumption | with_reducible apply State.checkSpans_keeps
      | with_reducible refine Keeps.snd ‹_ = (_, _)› ?_ | apply_assumption | dsimp only | dsimp +zetaDelta only
      | split

theorem State.admitRound_keeps {r s : State} (h : Keeps r s) (n : ℕ) :
    Keeps r (State.admitRound s n) := by
  unfold State.admitRound
  repeat'
    first
      | with_reducible assumption | with_reducible apply State.checkRows_keeps
      | with_reducible refine Keeps.snd ‹_ = (_, _)› ?_ | with_reducible apply State.completeAll_keeps
      | with_reducible apply State.modEng_keeps | with_reducible apply State.useShare_keeps
      | with_reducible apply State.writeMaps_keeps | with_reducible apply State.dispatch_keeps
      | with_reducible apply State.finishRound_keeps | dsimp only | split

theorem State.runCombine_keeps {r s : State} (h : Keeps r s) (c : CoreId) (x : InFlight) (l : RouteLine) :
    Run.Keeps r (State.runCombine s c x l) := by
  unfold State.runCombine
  repeat'
    first
      | with_reducible assumption | with_reducible apply State.checkSpans_keeps
      | with_reducible refine Keeps.snd ‹_ = (_, _)› ?_ | with_reducible apply State.writeRuns_keeps
      | with_reducible apply State.useShare_keeps | with_reducible apply State.spend_keeps
      | with_reducible refine Keeps.foldl (fun _ _ _ => ?_) ?_ | with_reducible apply Run.ofWrite_keeps
      | with_reducible apply Run.keeps_done | with_reducible apply Run.keeps_lone
      | with_reducible apply Run.keeps_started | with_reducible apply Run.keeps_blocked
      | with_reducible apply Run.keeps_gone | dsimp only | split | with_reducible refine Run.keeps_ite ?_ ?_

theorem State.runRoute_keeps {r s : State} (h : Keeps r s) (c : CoreId) (x : InFlight) (l : RouteLine) :
    Run.Keeps r (State.runRoute s c x l) := by
  unfold State.runRoute
  repeat'
    first
      | with_reducible assumption | with_reducible apply State.runDispatch_keeps
      | with_reducible refine Run.of_done (by assumption) ?_ | with_reducible refine Run.of_lone (by assumption) ?_
      | with_reducible refine Run.of_started (by assumption) ?_
      | with_reducible refine Run.of_blocked (by assumption) ?_
      | with_reducible refine Run.of_gone (by assumption) ?_ | with_reducible apply State.runCombine_keeps
      | with_reducible apply Run.keeps_done | with_reducible apply Run.keeps_lone
      | with_reducible apply Run.keeps_started | with_reducible apply Run.keeps_blocked
      | with_reducible apply Run.keeps_gone | dsimp only | split

end Sys2Proof.Machine
end

