-- ==== Sys2Proof/Laws/KeepsDeliver.lean ====
section
/-! SUPPORT. What the functions of Sys2Proof/Machine/Deliver.lean keep. -/

set_option linter.all false

namespace Sys2Proof.Machine

theorem State.storeRecv_keeps {r s : State} (h : Keeps r s) (c : CoreId) (p : PartId) (l : RecvLine) (ofs : ℕ) (bs : List Byte) :
    Keeps r (State.storeRecv s c p l ofs bs).2 := by
  unfold State.storeRecv
  repeat'
    first
      | with_reducible assumption | with_reducible apply State.writeHbm_keeps
      | with_reducible refine Keeps.snd ‹_ = (_, _)› ?_ | with_reducible apply State.writeCore_keeps | dsimp only
      | split

theorem State.storePieces_keeps {r s : State} (h : Keeps r s) (c : CoreId) (p : PartId) (l : RecvLine) (x5 : List (ℕ × List Byte)) :
    Keeps r (State.storePieces s c p l x5).2 := by
  revert h
  fun_induction State.storePieces s c p l x5
  all_goals intro h
  repeat'
    first
      | with_reducible assumption | with_reducible apply State.storeRecv_keeps
      | with_reducible refine Keeps.snd ‹_ = (_, _)› ?_ | apply_assumption | dsimp only | dsimp +zetaDelta only
      | split

theorem State.recvPiece_keeps {r s : State} (h : Keeps r s) (c : CoreId) (p : PartId) (l : RecvLine) (data : Mem) (ranges : List (ℕ × ℕ)) (total : Option ℕ) (ofs : ℕ) (bs : List Byte) :
    Keeps r (State.recvPiece s c p l data ranges total ofs bs).2 := by
  unfold State.recvPiece
  repeat'
    first
      | with_reducible assumption | with_reducible apply State.storeRecv_keeps
      | with_reducible refine Keeps.snd ‹_ = (_, _)› ?_ | with_reducible apply State.storePieces_keeps | dsimp only
      | split

theorem State.recvFailed_keeps {r s : State} (h : Keeps r s) (c : CoreId) (p : PartId) (tok : ℕ) (l : RecvLine) :
    Keeps r (State.recvFailed s c p tok l) := by
  unfold State.recvFailed
  repeat'
    first
      | with_reducible assumption | with_reducible apply State.partFault_keeps
      | with_reducible apply State.complete_keeps | dsimp only | split

theorem State.postRecv_keeps {r s : State} (h : Keeps r s) (c : CoreId) (p : PartId) (tok : ℕ) (l : RecvLine) :
    Keeps r (State.postRecv s c p tok l) := by
  unfold State.postRecv
  repeat'
    first
      | with_reducible assumption | with_reducible apply State.setQueue_keeps | dsimp only | split

theorem State.storeSoFar_keeps {r s : State} (h : Keeps r s) (c : CoreId) (p : PartId) (l : RecvLine) (i : Item) (x6 : List (ℕ × ℕ)) :
    Keeps r (State.storeSoFar s c p l i x6).2 := by
  revert h
  fun_induction State.storeSoFar s c p l i x6
  all_goals intro h
  repeat'
    first
      | with_reducible assumption | with_reducible apply State.recvPiece_keeps
      | with_reducible refine Keeps.snd ‹_ = (_, _)› ?_ | apply_assumption | dsimp only | dsimp +zetaDelta only
      | split

theorem State.deliverLocal_keeps {r s t : State} {qid : Qid} {q : Queue} {bytes : List Byte} (e : State.deliverLocal s qid q bytes = some t) (h : Keeps r s) : Keeps r t := by
  revert e
  unfold State.deliverLocal
  repeat'
    first
      | with_reducible assumption | with_reducible apply State.writeQueue_keeps
      | with_reducible refine Keeps.snd ‹_ = (_, _)› ?_ | with_reducible apply State.setQueue_keeps
      | with_reducible apply State.partFault_keeps | with_reducible apply State.recvPiece_keeps
      | with_reducible apply State.complete_keeps | with_reducible apply State.recvFailed_keeps | (intro e; cases e)
      | dsimp only | split

end Sys2Proof.Machine
end

