-- ==== Sys2Proof/Laws/KeepsMailbox.lean ====
section
/-! SUPPORT. What the functions of Sys2Proof/Machine/Mailbox.lean keep. -/

set_option linter.all false

namespace Sys2Proof.Machine

theorem State.mpSend_keeps {r s : State} (h : Keeps r s) (frame : List Byte) :
    Keeps r (State.mpSend s frame) := by
  unfold State.mpSend
  repeat'
    first
      | with_reducible assumption | with_reducible apply State.modReg_keeps | dsimp only | split

theorem State.mpResponse_keeps {r s : State} (h : Keeps r s) (dst : BitVec 48) (mb : ℕ) (seq : ℕ) (bytes : List Byte) (x6 : ℕ) (x7 : ℕ) :
    Keeps r (State.mpResponse s dst mb seq bytes x6 x7) := by
  revert h
  fun_induction State.mpResponse s dst mb seq bytes x6 x7
  all_goals intro h
  repeat'
    first
      | with_reducible assumption | with_reducible apply State.mpSend_keeps | apply_assumption | dsimp only
      | dsimp +zetaDelta only | split

theorem State.toHost_keeps {r s : State} (h : Keeps r s) (x2 : Fin 64) (bytes : List Byte) :
    Keeps r (State.toHost s x2 bytes) := by
  unfold State.toHost
  repeat'
    first
      | with_reducible assumption | with_reducible apply State.sendMsg_keeps
      | with_reducible refine Keeps.snd ‹_ = (_, _)› ?_ | dsimp only | split

theorem State.postResponse_keeps {r s : State} (h : Keeps r s) (m : MbId) (rq : Qid) (bytes : List Byte) :
    Keeps r (State.postResponse s m rq bytes) := by
  unfold State.postResponse
  repeat'
    first
      | with_reducible assumption | with_reducible refine State.deliverLocal_keeps (some_of_ite (by assumption)) ?_
      | with_reducible apply State.modMb_keeps | with_reducible refine State.deliverLocal_keeps (by assumption) ?_
      | dsimp only | split

theorem State.sendResponse_keeps {r s : State} (h : Keeps r s) (m : MbId) (path : ReqPath) (seq : ℕ) (rq : Qid) (bytes : List Byte) :
    Keeps r (State.sendResponse s m path seq rq bytes) := by
  unfold State.sendResponse
  repeat'
    first
      | with_reducible assumption | with_reducible apply State.toHost_keeps
      | with_reducible apply State.relaySend_keeps | with_reducible apply State.mpResponse_keeps
      | with_reducible apply State.postResponse_keeps | dsimp only | split

theorem State.oweResponses_keeps {r s : State} (h : Keeps r s) (x2 : List MbId) :
    Keeps r (State.oweResponses s x2) := by
  revert h
  fun_induction State.oweResponses s x2
  all_goals intro h
  repeat'
    first
      | with_reducible assumption | with_reducible apply State.postResponse_keeps | apply_assumption | dsimp only
      | dsimp +zetaDelta only | split

theorem State.respond_keeps {r s : State} (h : Keeps r s) (m : MbId) (st : BitVec 16) (info : ℕ) (payload : List Byte) :
    Keeps r (State.respond s m st info payload) := by
  unfold State.respond
  repeat'
    first
      | with_reducible assumption | with_reducible apply State.modMb_keeps
      | with_reducible apply State.sendResponse_keeps | dsimp only | split

theorem State.acceptRequest_keeps {r s : State} (h : Keeps r s) (m : MbId) (seq : BitVec 16) :
    Keeps r (State.acceptRequest s m seq) := by
  unfold State.acceptRequest
  repeat'
    first
      | with_reducible assumption | with_reducible apply State.modReg_keeps | with_reducible apply State.modMb_keeps
      | with_reducible apply State.respond_keeps | with_reducible apply State.wakeShallow_keeps | dsimp only | split
      | with_reducible refine Keeps.ite ?_ ?_

theorem State.repeatResponse_keeps {r s : State} (h : Keeps r s) (m : MbId) :
    Keeps r (State.repeatResponse s m) := by
  unfold State.repeatResponse
  repeat'
    first
      | with_reducible assumption | with_reducible apply State.sendResponse_keeps | dsimp only | split

theorem State.ringDoorbell_keeps {r s : State} (h : Keeps r s) (m : MbId) (seq : BitVec 16) :
    Keeps r (State.ringDoorbell s m seq) := by
  unfold State.ringDoorbell
  repeat'
    first
      | with_reducible assumption | with_reducible apply State.acceptRequest_keeps
      | with_reducible apply State.repeatResponse_keeps | with_reducible apply State.modMb_keeps | dsimp only
      | split

theorem State.deliverRequest_keeps {r s : State} (h : Keeps r s) (m : MbId) (path : ReqPath) (bytes : List Byte) :
    Keeps r (State.deliverRequest s m path bytes) := by
  unfold State.deliverRequest
  repeat'
    first
      | with_reducible assumption | with_reducible apply State.ringDoorbell_keeps
      | with_reducible apply State.modMb_keeps | dsimp only | split

end Sys2Proof.Machine
end

