-- ==== Sys2Proof/Laws/KeepsBridge.lean ====
section
/-! SUPPORT. What the functions of Sys2Proof/Machine/Bridge.lean keep. -/

set_option linter.all false

namespace Sys2Proof.Machine

theorem State.answerHost_keeps {r s : State} (h : Keeps r s) (path : ReqPath) (m : HostMsg) (st : BitVec 16) (data : List Byte) :
    Keeps r (State.answerHost s path m st data) := by
  unfold State.answerHost
  repeat'
    first
      | with_reducible assumption | with_reducible apply State.toHost_keeps
      | with_reducible apply State.relaySend_keeps | dsimp only | split

theorem State.hostDma_keeps {r s : State} (h : Keeps r s) (path : ReqPath) (m : HostMsg) :
    Keeps r (State.hostDma s path m) := by
  unfold State.hostDma
  repeat'
    first
      | with_reducible assumption | with_reducible apply State.answerHost_keeps
      | with_reducible apply State.writeHbm_keeps | with_reducible refine Keeps.snd ‹_ = (_, _)› ?_
      | with_reducible apply State.partFault_keeps | with_reducible apply State.readHbm_keeps | dsimp only | split

theorem State.hostAct_keeps {r s : State} (h : Keeps r s) (path : ReqPath) (m : HostMsg) :
    Keeps r (State.hostAct s path m) := by
  unfold State.hostAct
  repeat'
    first
      | with_reducible assumption | with_reducible apply State.deliverRequest_keeps
      | with_reducible apply State.hostDma_keeps | dsimp only | split

theorem State.putRelay_keeps {r s : State} (h : Keeps r s) (a : RelayAsm) (keep : Bool) :
    Keeps r (State.putRelay s a keep) := by
  unfold State.putRelay
  repeat'
    first
      | with_reducible assumption | with_reducible apply State.modReg_keeps | dsimp only | split

theorem State.relayAnswered_keeps {r s : State} (h : Keeps r s) (i : ℕ) (x3 : Fin 64) (bytes : List Byte) :
    Keeps r (State.relayAnswered s i x3 bytes) := by
  unfold State.relayAnswered
  repeat'
    first
      | with_reducible assumption | with_reducible apply State.toHost_keeps
      | with_reducible apply State.modReg_keeps | dsimp only | split

theorem State.relayDone_keeps {r s : State} (h : Keeps r s) (d : Session) (a : RelayAsm) :
    Keeps r (State.relayDone s d a) := by
  unfold State.relayDone
  repeat'
    first
      | with_reducible assumption | with_reducible apply State.relayAnswered_keeps
      | with_reducible apply State.hostAct_keeps | with_reducible apply State.relaySend_keeps | dsimp only | split

theorem State.relayPiece_keeps {r s : State} (h : Keeps r s) (i : ℕ) (d : Session) (k : Pkt) (x5 : Fin 64) (answer : Bool) (bs : List Byte) :
    Keeps r (State.relayPiece s i d k x5 answer bs) := by
  unfold State.relayPiece
  repeat'
    first
      | with_reducible assumption | with_reducible apply State.relayDone_keeps
      | with_reducible apply State.putRelay_keeps | dsimp only | split

theorem State.relayOut_keeps {r s : State} (h : Keeps r s) (m : HostMsg) :
    Keeps r (State.relayOut s m) := by
  unfold State.relayOut
  repeat'
    first
      | with_reducible assumption | with_reducible apply State.toHost_keeps
      | with_reducible apply State.needRelay_keeps | with_reducible refine Keeps.snd ‹_ = (_, _)› ?_
      | with_reducible apply State.needSess_keeps | with_reducible apply State.relaySend_keeps
      | with_reducible apply State.modReg_keeps | dsimp only | split

theorem State.relayFailed_keeps {r s : State} (h : Keeps r s) (x2 : List (ℕ × HostMsg)) :
    Keeps r (State.relayFailed s x2) := by
  revert h
  fun_induction State.relayFailed s x2
  all_goals intro h
  repeat'
    first
      | with_reducible assumption | with_reducible apply State.toHost_keeps
      | with_reducible apply State.modReg_keeps | apply_assumption | dsimp only | dsimp +zetaDelta only | split

theorem State.sweepRelays_keeps {r s : State} (h : Keeps r s)  :
    Keeps r (State.sweepRelays s) := by
  unfold State.sweepRelays
  repeat'
    first
      | with_reducible assumption | with_reducible apply State.relayFailed_keeps
      | with_reducible apply State.modReg_keeps | dsimp only | split

theorem State.takeHostMessage_keeps {r s : State} (h : Keeps r s) (m : HostMsg) :
    Keeps r (State.takeHostMessage s m) := by
  unfold State.takeHostMessage
  repeat'
    first
      | with_reducible assumption | with_reducible apply State.toHost_keeps
      | with_reducible apply State.hostAct_keeps | with_reducible apply State.relayOut_keeps | dsimp only | split

end Sys2Proof.Machine
end

