-- ==== Sys2Proof/Laws/KeepsCollect.lean ====
section
/-! SUPPORT. What the functions of Sys2Proof/Machine/Collect.lean keep. -/

set_option linter.all false

namespace Sys2Proof.Machine

theorem State.putCtx_keeps {r s : State} (h : Keeps r s) (y : RCtx) :
    Keeps r (State.putCtx s y) := by
  unfold State.putCtx
  repeat'
    first
      | with_reducible assumption | with_reducible apply State.modEng_keeps | dsimp only | split

theorem State.rsContribute_keeps {r s : State} (h : Keeps r s) (p : PartId) (src : BitVec 14) (shard : ℕ) (sb : ℕ) (step : BitVec 32) (cgrp : BitVec 16) (bytes : List Byte) :
    Keeps r (State.rsContribute s p src shard sb step cgrp bytes).2 := by
  unfold State.rsContribute
  repeat'
    first
      | with_reducible assumption | with_reducible apply State.countPart_keeps
      | with_reducible apply State.logEvent_keeps | with_reducible apply State.putCtx_keeps | dsimp only | split

theorem State.rsRun_keeps {r s t : State} {p : PartId} {src : BitVec 14} {shard : ℕ} {step : BitVec 32} {cgrp : BitVec 16} {x7 : ℕ} {x8 : List (List Byte)} {x9 : Bool} {b : Bool} (e : State.rsRun s p src shard step cgrp x7 x8 x9 = some (b, t)) (h : Keeps r s) : Keeps r t := by
  revert e
  revert h
  fun_induction State.rsRun s p src shard step cgrp x7 x8 x9
  all_goals intro h
  repeat'
    first
      | with_reducible assumption | with_reducible apply State.rsContribute_keeps
      | with_reducible refine Keeps.snd ‹_ = (_, _)› ?_ | (intro e; cases e) | apply_assumption | dsimp only
      | dsimp +zetaDelta only | split

theorem State.gatherRead_keeps {r s : State} (h : Keeps r s) (p : PartId) (peer : Bool) (shard : ℕ) (sb : ℕ) :
    Keeps r (State.gatherRead s p peer shard sb).2 := by
  unfold State.gatherRead
  repeat'
    first
      | with_reducible assumption | with_reducible apply State.readHbm_keeps
      | with_reducible refine Keeps.snd ‹_ = (_, _)› ?_ | dsimp only | split

theorem State.gatherAnswer_keeps {r s : State} (h : Keeps r s) (x : Xfer) (sb : ℕ) (out : GatherOut) :
    Keeps r (State.gatherAnswer s x sb out) := by
  unfold State.gatherAnswer
  repeat'
    first
      | with_reducible assumption | with_reducible apply State.modEng_keeps
      | with_reducible apply State.endXfers_keeps | with_reducible apply State.storeRecv_keeps
      | with_reducible refine Keeps.snd ‹_ = (_, _)› ?_ | with_reducible apply State.recvFailed_keeps | dsimp only
      | split

theorem State.gatherReply_keeps {r s : State} (h : Keeps r s) (i : ℕ) (shard : ℕ) (sb : ℕ) (bytes : List Byte) (denied : Bool) :
    Keeps r (State.gatherReply s i shard sb bytes denied) := by
  unfold State.gatherReply
  repeat'
    first
      | with_reducible assumption | with_reducible apply State.sendList_keeps
      | with_reducible refine Keeps.snd ‹_ = (_, _)› ?_ | dsimp only | split

theorem State.gatherServe_keeps {r s : State} (h : Keeps r s) (g : GatherReq) :
    Keeps r (State.gatherServe s g) := by
  unfold State.gatherServe
  repeat'
    first
      | with_reducible assumption | with_reducible apply State.gatherRead_keeps
      | with_reducible refine Keeps.snd ‹_ = (_, _)› ?_ | with_reducible apply State.partFault_keeps
      | with_reducible apply State.gatherAnswer_keeps | with_reducible apply State.gatherReply_keeps | dsimp only
      | split

theorem State.gatherTake_keeps {r s : State} (h : Keeps r s) (x2 : List GatherReq) :
    Keeps r (State.gatherTake s x2) := by
  revert h
  fun_induction State.gatherTake s x2
  all_goals intro h
  repeat'
    first
      | with_reducible assumption | with_reducible apply State.gatherServe_keeps
      | with_reducible apply State.modEng_keeps | apply_assumption | dsimp only | dsimp +zetaDelta only | split

end Sys2Proof.Machine
end

