-- ==== Sys2Proof/Laws/KeepsTransfer.lean ====
section
/-! SUPPORT. What the functions of Sys2Proof/Machine/Transfer.lean keep. -/

set_option linter.all false

namespace Sys2Proof.Machine

theorem State.grantQueue_keeps {r s : State} (h : Keeps r s) (qid : Qid) (x3 : ℕ) :
    Keeps r (State.grantQueue s qid x3) := by
  revert h
  fun_induction State.grantQueue s qid x3
  all_goals intro h
  repeat'
    first
      | with_reducible assumption | with_reducible apply State.setQueue_keeps
      | with_reducible apply State.sendCredit_keeps | apply_assumption | dsimp only | dsimp +zetaDelta only | split

theorem State.grantAll_keeps {r s : State} (h : Keeps r s) (x2 : List Qid) :
    Keeps r (State.grantAll s x2) := by
  revert h
  fun_induction State.grantAll s x2
  all_goals intro h
  repeat'
    first
      | with_reducible assumption | with_reducible apply State.grantQueue_keeps | apply_assumption | dsimp only
      | dsimp +zetaDelta only | split

theorem State.sourceOf_keeps {r s : State} (h : Keeps r s) (c : CoreId) (p : PartId) (hbm : Bool) (addr : ℕ) (len : ℕ) :
    Source.Keeps r (State.sourceOf s c p hbm addr len) := by
  unfold State.sourceOf
  repeat'
    first
      | with_reducible assumption | with_reducible apply State.readHbm_keeps
      | with_reducible refine Keeps.snd ‹_ = (_, _)› ?_ | with_reducible apply State.partFault_keeps
      | with_reducible apply State.checkSpans_keeps | with_reducible apply Source.keeps_bytes
      | with_reducible apply Source.keeps_ended | with_reducible apply Run.keeps_done
      | with_reducible apply Run.keeps_lone | with_reducible apply Run.keeps_started
      | with_reducible apply Run.keeps_blocked | with_reducible apply Run.keeps_gone
      | with_reducible refine Source.of_bytes (by assumption) ?_
      | with_reducible refine Source.of_ended (by assumption) ?_ | dsimp only | split

theorem State.sendSource_keeps {r s : State} (h : Keeps r s) (c : CoreId) (p : PartId) (l : SendLine) :
    Source.Keeps r (State.sendSource s c p l) := by
  unfold State.sendSource
  repeat'
    first
      | with_reducible assumption | with_reducible apply State.sourceOf_keeps
      | with_reducible refine Source.of_bytes (by assumption) ?_
      | with_reducible refine Source.of_ended (by assumption) ?_ | with_reducible apply Source.keeps_bytes
      | with_reducible apply Source.keeps_ended | with_reducible apply Run.keeps_done
      | with_reducible apply Run.keeps_lone | with_reducible apply Run.keeps_started
      | with_reducible apply Run.keeps_blocked | with_reducible apply Run.keeps_gone | dsimp only | split

theorem State.addXfer_keeps {r s : State} (h : Keeps r s) (x : Xfer) :
    Keeps r (State.addXfer s x) := by
  unfold State.addXfer
  repeat'
    first
      | with_reducible assumption | with_reducible apply State.modEng_keeps | dsimp only | split

theorem State.sendLocal_keeps {r s : State} (h : Keeps r s) (c : CoreId) (p : PartId) (l : SendLine) :
    Run.Keeps r (State.sendLocal s c p l) := by
  unfold State.sendLocal
  repeat'
    first
      | with_reducible assumption | with_reducible apply State.sendSource_keeps
      | with_reducible refine Source.of_bytes (by assumption) ?_
      | with_reducible refine Source.of_ended (by assumption) ?_ | with_reducible apply State.deliverRequest_keeps
      | with_reducible apply State.postRecord_keeps | with_reducible refine Keeps.snd3 ‹_ = (_, _, _)› ?_
      | with_reducible apply State.partFault_keeps
      | with_reducible refine State.deliverLocal_keeps (by assumption) ?_ | with_reducible apply Run.keeps_done
      | with_reducible apply Run.keeps_lone | with_reducible apply Run.keeps_started
      | with_reducible apply Run.keeps_blocked | with_reducible apply Run.keeps_gone
      | with_reducible apply Source.keeps_bytes | with_reducible apply Source.keeps_ended | dsimp only | split

theorem State.creditFor_keeps {r s : State} (h : Keeps r s) (p : PartId) (m : BitVec 14) (dq : Qid) (count : ℕ) :
    Credit.Keeps r (State.creditFor s p m dq count) := by
  unfold State.creditFor
  repeat'
    first
      | with_reducible assumption | with_reducible apply State.needSess_keeps
      | with_reducible refine Keeps.snd ‹_ = (_, _)› ?_ | with_reducible apply State.setSess_keeps
      | with_reducible apply State.sendCredit_keeps | with_reducible apply Credit.keeps_lost
      | with_reducible apply Credit.keeps_noAccess | with_reducible apply Credit.keeps_wait
      | with_reducible apply Credit.keeps_tooLong | with_reducible apply Credit.keeps_ready | dsimp only | split

theorem State.sendCredited_keeps {r s : State} (h : Keeps r s) (i : ℕ) (dq : Qid) (coll : BitVec 3) (cgrp : BitVec 16) (fmt : BitVec 4) (bs : List Byte) :
    Keeps r (State.sendCredited s i dq coll cgrp fmt bs).2 := by
  unfold State.sendCredited
  repeat'
    first
      | with_reducible assumption | with_reducible apply State.setSess_keeps
      | with_reducible apply State.sendMsg_keeps | with_reducible refine Keeps.snd ‹_ = (_, _)› ?_ | dsimp only
      | split

theorem State.sendRemote_keeps {r s : State} (h : Keeps r s) (c : CoreId) (p : PartId) (x : InFlight) (l : SendLine) :
    Run.Keeps r (State.sendRemote s c p x l) := by
  unfold State.sendRemote
  repeat'
    first
      | with_reducible assumption | with_reducible apply State.creditFor_keeps
      | with_reducible refine Credit.of_lost (by assumption) ?_
      | with_reducible refine Credit.of_noAccess (by assumption) ?_
      | with_reducible refine Credit.of_wait (by assumption) ?_
      | with_reducible refine Credit.of_tooLong (by assumption) ?_
      | with_reducible refine Credit.of_ready (by assumption) ?_ | with_reducible apply State.sendSource_keeps
      | with_reducible refine Source.of_bytes (by assumption) ?_
      | with_reducible refine Source.of_ended (by assumption) ?_ | with_reducible apply State.sendCredited_keeps
      | with_reducible refine Keeps.snd ‹_ = (_, _)› ?_ | with_reducible apply State.addXfer_keeps
      | with_reducible apply Run.keeps_done | with_reducible apply Run.keeps_lone
      | with_reducible apply Run.keeps_started | with_reducible apply Run.keeps_blocked
      | with_reducible apply Run.keeps_gone | dsimp only | split

theorem State.creditsFor_keeps {r s : State} (h : Keeps r s) (p : PartId) (dq : Qid) (count : ℕ) (x5 : List (BitVec 14)) (x6 : List ℕ) :
    Credit.Keeps r (State.creditsFor s p dq count x5 x6).1 := by
  revert h
  fun_induction State.creditsFor s p dq count x5 x6
  all_goals intro h
  repeat'
    first
      | with_reducible assumption | with_reducible apply State.creditFor_keeps
      | with_reducible refine Credit.of_lost (by assumption) ?_
      | with_reducible refine Credit.of_noAccess (by assumption) ?_
      | with_reducible refine Credit.of_wait (by assumption) ?_
      | with_reducible refine Credit.of_tooLong (by assumption) ?_
      | with_reducible refine Credit.of_ready (by assumption) ?_
      | with_reducible refine Credit.of1_lost (by assumption) ?_
      | with_reducible refine Credit.of1_noAccess (by assumption) ?_
      | with_reducible refine Credit.of1_wait (by assumption) ?_
      | with_reducible refine Credit.of1_tooLong (by assumption) ?_
      | with_reducible refine Credit.of1_ready (by assumption) ?_ | with_reducible apply Credit.keeps_lost
      | with_reducible apply Credit.keeps_noAccess | with_reducible apply Credit.keeps_wait
      | with_reducible apply Credit.keeps_tooLong | with_reducible apply Credit.keeps_ready | apply_assumption
      | dsimp only | dsimp +zetaDelta only | split

theorem State.sendEach_keeps {r s : State} (h : Keeps r s) (l : SendLine) (bs : List Byte) (x4 : List ℕ) :
    Keeps r (State.sendEach s l bs x4).2 := by
  revert h
  fun_induction State.sendEach s l bs x4
  all_goals intro h
  repeat'
    first
      | with_reducible assumption | with_reducible apply State.sendCredited_keeps
      | with_reducible refine Keeps.snd ‹_ = (_, _)› ?_ | apply_assumption | dsimp only | dsimp +zetaDelta only
      | split

theorem State.sendBcast_keeps {r s : State} (h : Keeps r s) (c : CoreId) (p : PartId) (x : InFlight) (l : SendLine) (g : CGroup) :
    Run.Keeps r (State.sendBcast s c p x l g) := by
  unfold State.sendBcast
  repeat'
    first
      | with_reducible assumption | with_reducible apply State.creditsFor_keeps
      | with_reducible refine Credit.of1_lost (by assumption) ?_
      | with_reducible refine Credit.of1_noAccess (by assumption) ?_
      | with_reducible refine Credit.of1_wait (by assumption) ?_
      | with_reducible refine Credit.of1_tooLong (by assumption) ?_
      | with_reducible refine Credit.of1_ready (by assumption) ?_ | with_reducible apply State.sendSource_keeps
      | with_reducible refine Source.of_bytes (by assumption) ?_
      | with_reducible refine Source.of_ended (by assumption) ?_ | with_reducible apply State.sendEach_keeps
      | with_reducible refine Keeps.snd ‹_ = (_, _)› ?_ | with_reducible apply State.addXfer_keeps
      | with_reducible apply Run.keeps_done | with_reducible apply Run.keeps_lone
      | with_reducible apply Run.keeps_started | with_reducible apply Run.keeps_blocked
      | with_reducible apply Run.keeps_gone | dsimp only | split

theorem State.takeOwn_keeps {r s : State} (h : Keeps r s) (p : PartId) (x3 : List (Pkt × Bool)) :
    Keeps r (State.takeOwn s p x3).2.2 := by
  revert h
  fun_induction State.takeOwn s p x3
  all_goals intro h
  repeat'
    first
      | with_reducible assumption | with_reducible refine State.rsRun_keeps (by assumption) ?_
      | with_reducible apply State.countPart_keeps | apply_assumption | dsimp only | dsimp +zetaDelta only | split

theorem State.sendRs_keeps {r s : State} (h : Keeps r s) (c : CoreId) (p : PartId) (x : InFlight) (l : SendLine) (e : ExchEnt) :
    Run.Keeps r (State.sendRs s c p x l e) := by
  unfold State.sendRs
  repeat'
    first
      | with_reducible assumption | with_reducible apply State.sendSource_keeps
      | with_reducible refine Source.of_bytes (by assumption) ?_
      | with_reducible refine Source.of_ended (by assumption) ?_ | with_reducible apply State.takeOwn_keeps
      | with_reducible refine Keeps.snd3 ‹_ = (_, _, _)› ?_ | with_reducible apply State.addXfer_keeps
      | with_reducible apply State.needSess_keeps | with_reducible refine Keeps.snd ‹_ = (_, _)› ?_
      | with_reducible apply State.sendList_keeps | with_reducible apply Run.keeps_done
      | with_reducible apply Run.keeps_lone | with_reducible apply Run.keeps_started
      | with_reducible apply Run.keeps_blocked | with_reducible apply Run.keeps_gone | dsimp only | split

theorem State.sendReturns_keeps {r s : State} (h : Keeps r s) (p : PartId) (mk : BitVec 14 → A2aMsg) (x4 : List (BitVec 14)) :
    Keeps r (State.sendReturns s p mk x4).2 := by
  revert h
  fun_induction State.sendReturns s p mk x4
  all_goals intro h
  repeat'
    first
      | with_reducible assumption | with_reducible apply State.needSess_keeps
      | with_reducible refine Keeps.snd ‹_ = (_, _)› ?_ | with_reducible apply State.a2aSend_keeps
      | apply_assumption | dsimp only | dsimp +zetaDelta only | split

theorem State.sendReturn_keeps {r s : State} (h : Keeps r s) (c : CoreId) (p : PartId) (x : InFlight) (l : SendLine) :
    Run.Keeps r (State.sendReturn s c p x l) := by
  unfold State.sendReturn
  repeat'
    first
      | with_reducible assumption | with_reducible apply State.sendSource_keeps
      | with_reducible refine Source.of_bytes (by assumption) ?_
      | with_reducible refine Source.of_ended (by assumption) ?_ | with_reducible apply State.sendReturns_keeps
      | with_reducible refine Keeps.snd ‹_ = (_, _)› ?_ | with_reducible apply State.addXfer_keeps
      | with_reducible apply Run.keeps_done | with_reducible apply Run.keeps_lone
      | with_reducible apply Run.keeps_started | with_reducible apply Run.keeps_blocked
      | with_reducible apply Run.keeps_gone | dsimp only | split

theorem State.copyHbm_keeps {r s : State} (h : Keeps r s) (p : PartId) (src : ℕ) (dst : ℕ) (len : ℕ) :
    Keeps r (State.copyHbm s p src dst len).2 := by
  unfold State.copyHbm
  repeat'
    first
      | with_reducible assumption | with_reducible apply State.readHbm_keeps
      | with_reducible refine Keeps.snd ‹_ = (_, _)› ?_ | with_reducible apply State.writeHbm_keeps | dsimp only
      | split

theorem State.copyMoves_keeps {r s : State} (h : Keeps r s) (p : PartId) (scratch : ℕ) (x4 : ℕ) (x5 : List PlanMove) :
    Keeps r (State.copyMoves s p scratch x4 x5).2 := by
  revert h
  fun_induction State.copyMoves s p scratch x4 x5
  all_goals intro h
  repeat'
    first
      | with_reducible assumption | with_reducible apply State.copyHbm_keeps
      | with_reducible refine Keeps.snd ‹_ = (_, _)› ?_ | apply_assumption | dsimp only | dsimp +zetaDelta only
      | split

theorem State.sendMove_keeps {r s : State} (h : Keeps r s) (p : PartId) (cgrp : BitVec 16) (x4 : PermRun) (m : PermMove) :
    Moved.Keeps r (State.sendMove s p cgrp x4 m) := by
  unfold State.sendMove
  repeat'
    first
      | with_reducible assumption | with_reducible apply State.copyHbm_keeps
      | with_reducible refine Keeps.snd ‹_ = (_, _)› ?_ | with_reducible apply State.needSess_keeps
      | with_reducible apply State.readHbm_keeps | with_reducible apply State.sendList_keeps
      | with_reducible apply Moved.keeps_waits | with_reducible apply Moved.keeps_sent
      | with_reducible apply Moved.keeps_refused | with_reducible apply Moved.keeps_faulted | dsimp only | split

theorem State.modXfer_keeps {r s : State} (h : Keeps r s) (c : CoreId) (tok : ℕ) (f : Xfer → Xfer) :
    Keeps r (State.modXfer s c tok f) := by
  unfold State.modXfer
  repeat'
    first
      | with_reducible assumption | with_reducible apply State.modEng_keeps | dsimp only | split

theorem State.ownAll_keeps {r s : State} (h : Keeps r s) (x2 : List Xfer) :
    Keeps r (State.ownAll s x2) := by
  revert h
  fun_induction State.ownAll s x2
  all_goals intro h
  repeat'
    first
      | with_reducible assumption | with_reducible apply State.takeOwn_keeps
      | with_reducible refine Keeps.snd3 ‹_ = (_, _, _)› ?_ | with_reducible apply State.modXfer_keeps
      | apply_assumption | dsimp only | dsimp +zetaDelta only | split

theorem State.sendMoves_keeps {r s : State} (h : Keeps r s) (x : Xfer) (x3 : PermRun) (x4 : List PermMove) :
    Keeps r (State.sendMoves s x x3 x4) := by
  revert h
  fun_induction State.sendMoves s x x3 x4
  all_goals intro h
  repeat'
    first
      | with_reducible assumption | with_reducible apply State.sendMove_keeps
      | with_reducible refine Moved.of_waits (by assumption) ?_
      | with_reducible refine Moved.of_sent (by assumption) ?_
      | with_reducible refine Moved.of_refused (by assumption) ?_
      | with_reducible refine Moved.of_faulted (by assumption) ?_ | with_reducible apply State.modXfer_keeps
      | with_reducible apply State.complete_keeps | with_reducible apply State.modEng_keeps
      | with_reducible apply State.partFault_keeps | apply_assumption | dsimp only | dsimp +zetaDelta only | split

theorem State.takeReady_keeps {r s : State} (h : Keeps r s) (x : Xfer) (x3 : PermRun) :
    Keeps r (State.takeReady s x x3).2 := by
  unfold State.takeReady
  repeat'
    first
      | with_reducible assumption | with_reducible apply State.modXfer_keeps
      | with_reducible apply State.modEng_keeps | dsimp only | split

theorem State.permAll_keeps {r s : State} (h : Keeps r s) (x2 : List Xfer) :
    Keeps r (State.permAll s x2) := by
  revert h
  fun_induction State.permAll s x2
  all_goals intro h
  repeat'
    first
      | with_reducible assumption | with_reducible apply State.takeReady_keeps
      | with_reducible refine Keeps.snd ‹_ = (_, _)› ?_ | with_reducible apply State.sendMoves_keeps
      | apply_assumption | dsimp only | dsimp +zetaDelta only | split

theorem State.startPermute_keeps {r s : State} (h : Keeps r s) (c : CoreId) (p : PartId) (x : InFlight) (l : SendLine) (g : CGroup) :
    Run.Keeps r (State.startPermute s c p x l g) := by
  unfold State.startPermute
  repeat'
    first
      | with_reducible assumption | with_reducible apply State.readHbm_keeps
      | with_reducible refine Keeps.snd ‹_ = (_, _)› ?_ | with_reducible apply State.partFault_keeps
      | with_reducible apply State.copyMoves_keeps | with_reducible apply State.notifyAll_keeps
      | with_reducible apply State.addXfer_keeps | with_reducible apply Run.keeps_done
      | with_reducible apply Run.keeps_lone | with_reducible apply Run.keeps_started
      | with_reducible apply Run.keeps_blocked | with_reducible apply Run.keeps_gone | dsimp only | split

theorem State.runSend_keeps {r s : State} (h : Keeps r s) (c : CoreId) (p : PartId) (x : InFlight) (l : SendLine) :
    Run.Keeps r (State.runSend s c p x l) := by
  unfold State.runSend
  repeat'
    first
      | with_reducible assumption | with_reducible apply State.sendLocal_keeps
      | with_reducible refine Run.of_done (by assumption) ?_ | with_reducible refine Run.of_lone (by assumption) ?_
      | with_reducible refine Run.of_started (by assumption) ?_
      | with_reducible refine Run.of_blocked (by assumption) ?_
      | with_reducible refine Run.of_gone (by assumption) ?_ | with_reducible apply State.sendRemote_keeps
      | with_reducible apply State.sendRs_keeps | with_reducible apply State.sendReturn_keeps
      | with_reducible apply State.sendBcast_keeps | with_reducible apply State.startPermute_keeps
      | with_reducible apply Run.keeps_done | with_reducible apply Run.keeps_lone
      | with_reducible apply Run.keeps_started | with_reducible apply Run.keeps_blocked
      | with_reducible apply Run.keeps_gone | dsimp only | split

theorem State.runGather_keeps {r s : State} (h : Keeps r s) (c : CoreId) (p : PartId) (x : InFlight) (l : RecvLine) (e : ExchEnt) :
    Run.Keeps r (State.runGather s c p x l e) := by
  unfold State.runGather
  repeat'
    first
      | with_reducible assumption | with_reducible apply State.gatherTake_keeps
      | with_reducible apply State.addXfer_keeps | with_reducible apply State.needSess_keeps
      | with_reducible refine Keeps.snd ‹_ = (_, _)› ?_ | with_reducible apply State.sendList_keeps
      | with_reducible apply Run.keeps_done | with_reducible apply Run.keeps_lone
      | with_reducible apply Run.keeps_started | with_reducible apply Run.keeps_blocked
      | with_reducible apply Run.keeps_gone | dsimp only | split

theorem State.recvSlotted_keeps {r s : State} (h : Keeps r s) (c : CoreId) (p : PartId) (l : RecvLine) (q : Queue) :
    Run.Keeps r (State.recvSlotted s c p l q) := by
  unfold State.recvSlotted
  repeat'
    first
      | with_reducible assumption | with_reducible apply State.takeQueue_keeps
      | with_reducible refine Keeps.snd ‹_ = (_, _)› ?_ | with_reducible apply State.partFault_keeps
      | with_reducible apply State.recvPiece_keeps | with_reducible apply State.setQueue_keeps
      | with_reducible apply State.passOver_keeps | with_reducible apply Run.keeps_done
      | with_reducible apply Run.keeps_lone | with_reducible apply Run.keeps_started
      | with_reducible apply Run.keeps_blocked | with_reducible apply Run.keeps_gone | dsimp only | split

theorem State.startPosted_keeps {r s : State} (h : Keeps r s) (c : CoreId) (p : PartId) (l : RecvLine) (i : Item) :
    Run.Keeps r (State.startPosted s c p l i) := by
  unfold State.startPosted
  repeat'
    first
      | with_reducible assumption | with_reducible apply State.storeSoFar_keeps
      | with_reducible refine Keeps.snd ‹_ = (_, _)› ?_ | with_reducible apply State.partFault_keeps
      | with_reducible apply Run.keeps_done | with_reducible apply Run.keeps_lone
      | with_reducible apply Run.keeps_started | with_reducible apply Run.keeps_blocked
      | with_reducible apply Run.keeps_gone | dsimp only | split

theorem State.runRecv_keeps {r s : State} (h : Keeps r s) (c : CoreId) (p : PartId) (x : InFlight) (l : RecvLine) :
    Run.Keeps r (State.runRecv s c p x l) := by
  unfold State.runRecv
  repeat'
    first
      | with_reducible assumption | with_reducible apply State.runGather_keeps
      | with_reducible refine Run.of_done (by assumption) ?_ | with_reducible refine Run.of_lone (by assumption) ?_
      | with_reducible refine Run.of_started (by assumption) ?_
      | with_reducible refine Run.of_blocked (by assumption) ?_
      | with_reducible refine Run.of_gone (by assumption) ?_ | with_reducible apply State.recvSlotted_keeps
      | with_reducible apply State.startPosted_keeps | with_reducible apply State.postRecv_keeps
      | with_reducible apply Run.keeps_done | with_reducible apply Run.keeps_lone
      | with_reducible apply Run.keeps_started | with_reducible apply Run.keeps_blocked
      | with_reducible apply Run.keeps_gone | dsimp only | split

theorem State.stashPeak_keeps {r s : State} (h : Keeps r s) (p : PartId) (fill : ℕ) :
    Keeps r (State.stashPeak s p fill) := by
  unfold State.stashPeak
  repeat'
    first
      | with_reducible assumption | with_reducible apply State.modPart_keeps | dsimp only | split

theorem State.runStash_keeps {r s : State} (h : Keeps r s) (c : CoreId) (p : PartId) (x : InFlight) (l : StashLine) :
    Run.Keeps r (State.runStash s c p x l) := by
  unfold State.runStash
  repeat'
    first
      | with_reducible assumption | with_reducible apply State.countPart_keeps
      | with_reducible apply State.checkSpans_keeps | with_reducible refine Keeps.snd ‹_ = (_, _)› ?_
      | with_reducible apply State.clearWords_keeps | with_reducible apply State.countWords_keeps
      | with_reducible apply State.stashPeak_keeps | with_reducible apply State.modStash_keeps
      | with_reducible apply State.partFault_keeps | with_reducible apply State.logUe_keeps
      | with_reducible apply Run.keeps_done | with_reducible apply Run.keeps_lone
      | with_reducible apply Run.keeps_started | with_reducible apply Run.keeps_blocked
      | with_reducible apply Run.keeps_gone | dsimp only | split

theorem State.runUnstash_keeps {r s : State} (h : Keeps r s) (c : CoreId) (p : PartId) (x : InFlight) (l : StashLine) :
    Run.Keeps r (State.runUnstash s c p x l) := by
  unfold State.runUnstash
  repeat'
    first
      | with_reducible assumption | with_reducible apply State.clearWords_keeps
      | with_reducible apply State.countWords_keeps | with_reducible apply State.partFault_keeps
      | with_reducible apply State.logUe_keeps | with_reducible apply State.writeCore_keeps
      | with_reducible refine Keeps.snd ‹_ = (_, _)› ?_ | with_reducible apply State.countPart_keeps
      | with_reducible apply State.modCtl_keeps | with_reducible apply Run.keeps_done
      | with_reducible apply Run.keeps_lone | with_reducible apply Run.keeps_started
      | with_reducible apply Run.keeps_blocked | with_reducible apply Run.keeps_gone | dsimp only | split

end Sys2Proof.Machine
end

