-- ==== Sys2Proof/Laws/KeepsUpdate.lean ====
section
/-! SUPPORT. What the functions of Sys2Proof/Machine/Update.lean keep. -/

set_option linter.all false

namespace Sys2Proof.Machine

theorem State.sumNorm_keeps {r s : State} (h : Keeps r s) (p : PartId) (t : BitVec 32) :
    Keeps r (State.sumNorm s p t) := by
  unfold State.sumNorm
  repeat'
    first
      | with_reducible assumption | with_reducible apply State.modUe_keeps
      | with_reducible refine Keeps.foldl (fun _ _ _ => ?_) ?_ | dsimp only | split

theorem State.noteNorm_keeps {r s : State} (h : Keeps r s) (p : PartId) (m : BitVec 14) (t : BitVec 32) (v : AccEntry) :
    Keeps r (State.noteNorm s p m t v) := by
  unfold State.noteNorm
  repeat'
    first
      | with_reducible assumption | with_reducible apply State.sumNorm_keeps
      | with_reducible apply State.modUe_keeps | dsimp only | split

theorem State.closeIfDone_keeps {r s : State} (h : Keeps r s) (p : PartId) (t : BitVec 32) :
    Keeps r (State.closeIfDone s p t) := by
  unfold State.closeIfDone
  repeat'
    first
      | with_reducible assumption | with_reducible apply State.modUe_keeps
      | with_reducible apply State.noteNorm_keeps | with_reducible apply State.notifyAll_keeps | dsimp only | split

theorem State.recordSb_keeps {r s : State} (h : Keeps r s) (p : PartId) (t : BitVec 32) (shard : ℕ) (sb : ℕ) :
    Keeps r (State.recordSb s p t shard sb) := by
  unfold State.recordSb
  repeat'
    first
      | with_reducible assumption | with_reducible apply State.closeIfDone_keeps
      | with_reducible apply State.modUe_keeps | dsimp only | split

theorem State.settleBlocks_keeps {r s : State} (h : Keeps r s) (p : PartId) (t : BitVec 32) (shard : ℕ) (sb : ℕ) (k : ℕ) :
    Keeps r (State.settleBlocks s p t shard sb k) := by
  unfold State.settleBlocks
  repeat'
    first
      | with_reducible assumption | with_reducible apply State.modUe_keeps
      | with_reducible apply State.recordSb_keeps | dsimp only | split

theorem State.skipBlocks_keeps {r s : State} (h : Keeps r s) (p : PartId) (t : BitVec 32) (shard : ℕ) (count : Bool) (bs : List (ℕ × ℕ)) :
    Keeps r (State.skipBlocks s p t shard count bs) := by
  unfold State.skipBlocks
  repeat'
    first
      | with_reducible assumption | with_reducible apply State.modUe_keeps
      | with_reducible apply State.countPart_keeps | with_reducible apply State.settleBlocks_keeps
      | with_reducible refine Keeps.foldl (fun _ _ _ => ?_) ?_ | dsimp only | split

theorem State.poison_keeps {r s : State} (h : Keeps r s) (p : PartId) (t : BitVec 32) (shard : ℕ) (d : Shard) (n : ℕ) :
    Keeps r (State.poison s p t shard d n) := by
  unfold State.poison
  repeat'
    first
      | with_reducible assumption | with_reducible apply State.skipBlocks_keeps
      | with_reducible apply State.modUe_keeps | dsimp only | split

theorem State.dropStages_keeps {r s : State} (h : Keeps r s) (p : PartId) (t : BitVec 32) :
    Keeps r (State.dropStages s p t) := by
  unfold State.dropStages
  repeat'
    first
      | with_reducible assumption | with_reducible apply State.poison_keeps
      | with_reducible refine Keeps.foldl (fun _ _ _ => ?_) ?_ | dsimp only | split

theorem State.sendSkip_keeps {r s : State} (h : Keeps r s) (p : PartId) (t : BitVec 32) :
    Keeps r (State.sendSkip s p t) := by
  unfold State.sendSkip
  repeat'
    first
      | with_reducible assumption | with_reducible apply State.notifyAll_keeps | dsimp only | split

theorem State.skipClosed_keeps {r s : State} (h : Keeps r s) (p : PartId) (t : BitVec 32) (received : Bool) :
    Keeps r (State.skipClosed s p t received) := by
  unfold State.skipClosed
  repeat'
    first
      | with_reducible assumption | with_reducible apply State.modUe_keeps
      | with_reducible apply State.countPart_keeps | with_reducible apply State.modEng_keeps | dsimp only | split

theorem State.lossSkip_keeps {r s : State} (h : Keeps r s) (p : PartId) (t : BitVec 32) :
    Keeps r (State.lossSkip s p t) := by
  unfold State.lossSkip
  repeat'
    first
      | with_reducible assumption | with_reducible apply State.sendSkip_keeps
      | with_reducible apply State.logEvent_keeps | with_reducible apply State.modUe_keeps
      | with_reducible apply State.skipClosed_keeps | dsimp only | split

theorem State.noteSkip_keeps {r s : State} (h : Keeps r s) (p : PartId) (t : BitVec 32) :
    Keeps r (State.noteSkip s p t) := by
  unfold State.noteSkip
  repeat'
    first
      | with_reducible assumption | with_reducible apply State.skipClosed_keeps
      | with_reducible apply State.dropStages_keeps | with_reducible apply State.modUe_keeps | dsimp only | split

theorem State.runUpd_keeps {r s : State} (h : Keeps r s) (p : PartId) (l : UpdLine) :
    Run.Keeps r (State.runUpd s p l) := by
  unfold State.runUpd
  repeat'
    first
      | with_reducible assumption | with_reducible apply State.modUe_keeps
      | with_reducible refine Keeps.foldl (fun _ _ _ => ?_) ?_ | with_reducible apply Run.keeps_done
      | with_reducible apply Run.keeps_lone | with_reducible apply Run.keeps_started
      | with_reducible apply Run.keeps_blocked | with_reducible apply Run.keeps_gone | dsimp only | split

theorem State.readSbs_keeps {r s : State} (h : Keeps r s) (p : PartId) (k : ℕ) (x4 : List (BitVec 48)) :
    Keeps r (State.readSbs s p k x4).2 := by
  revert h
  fun_induction State.readSbs s p k x4
  all_goals intro h
  repeat'
    first
      | with_reducible assumption | with_reducible apply State.readHbm_keeps
      | with_reducible refine Keeps.snd ‹_ = (_, _)› ?_ | apply_assumption | dsimp only | dsimp +zetaDelta only
      | split

theorem State.writeSbs_keeps {r s : State} (h : Keeps r s) (p : PartId) (k : ℕ) (x4 : List (BitVec 48 × StateSb)) :
    Keeps r (State.writeSbs s p k x4) := by
  revert h
  fun_induction State.writeSbs s p k x4
  all_goals intro h
  repeat'
    first
      | with_reducible assumption | with_reducible apply State.writeHbm_keeps
      | with_reducible refine Keeps.snd ‹_ = (_, _)› ?_ | apply_assumption | dsimp only | dsimp +zetaDelta only
      | split

theorem State.skipSb_keeps {r s : State} (h : Keeps r s) (p : PartId) (t : BitVec 32) (shard : ℕ) (sb : ℕ) (count : Bool) :
    Keeps r (State.skipSb s p t shard sb count) := by
  unfold State.skipSb
  repeat'
    first
      | with_reducible assumption | with_reducible apply State.modUe_keeps
      | with_reducible apply State.recordSb_keeps | with_reducible apply State.countPart_keeps | dsimp only | split

theorem State.firstNonfinite_keeps {r s : State} (h : Keeps r s) (p : PartId) (t : BitVec 32) (shard : ℕ) (sb : ℕ) (i : ℕ) :
    Keeps r (State.firstNonfinite s p t shard sb i) := by
  unfold State.firstNonfinite
  repeat'
    first
      | with_reducible assumption | with_reducible apply State.modUe_keeps
      | with_reducible apply State.dropStages_keeps | with_reducible apply State.sendSkip_keeps
      | with_reducible apply State.logEvent_keeps | dsimp only | split

theorem State.writeAll_keeps {r s : State} (h : Keeps r s) (p : PartId) (x3 : List (ℕ × List Byte)) :
    Keeps r (State.writeAll s p x3).2 := by
  revert h
  fun_induction State.writeAll s p x3
  all_goals intro h
  repeat'
    first
      | with_reducible assumption | with_reducible apply State.writeHbm_keeps
      | with_reducible refine Keeps.snd ‹_ = (_, _)› ?_ | apply_assumption | dsimp only | dsimp +zetaDelta only
      | split

theorem State.postJob_keeps {r s : State} (h : Keeps r s) (p : PartId) (t : BitVec 32) (shard : ℕ) (d : Shard) (n : ℕ) (pintv : ℕ) :
    Keeps r (State.postJob s p t shard d n pintv).2 := by
  unfold State.postJob
  repeat'
    first
      | with_reducible assumption | with_reducible apply State.readHbm_keeps
      | with_reducible refine Keeps.snd ‹_ = (_, _)› ?_ | with_reducible apply State.writeHbm_keeps
      | with_reducible apply State.postRecord_keeps | with_reducible refine Keeps.snd3 ‹_ = (_, _, _)› ?_
      | dsimp only | split

theorem State.stageBlock_keeps {r s : State} (h : Keeps r s) (p : PartId) (t : BitVec 32) (shard : ℕ) (sb : ℕ) (d : Shard) (c : Coefs) (cf : Ext) (gin : ℕ → Ext) (ms : List ℕ) (b : ℕ) :
    Keeps r (State.stageBlock s p t shard sb d c cf gin ms b).2 := by
  unfold State.stageBlock
  repeat'
    first
      | with_reducible assumption | with_reducible apply State.writeAll_keeps
      | with_reducible refine Keeps.snd ‹_ = (_, _)› ?_ | with_reducible apply State.modUe_keeps
      | with_reducible apply State.postJob_keeps | dsimp only | split

theorem State.stageBlocks_keeps {r s : State} (h : Keeps r s) (p : PartId) (t : BitVec 32) (shard : ℕ) (sb : ℕ) (d : Shard) (c : Coefs) (cf : Ext) (gin : ℕ → Ext) (ms : List ℕ) (x11 : List ℕ) :
    Keeps r (State.stageBlocks s p t shard sb d c cf gin ms x11).2 := by
  revert h
  fun_induction State.stageBlocks s p t shard sb d c cf gin ms x11
  all_goals intro h
  repeat'
    first
      | with_reducible assumption | with_reducible apply State.stageBlock_keeps
      | with_reducible refine Keeps.snd ‹_ = (_, _)› ?_ | apply_assumption | dsimp only | dsimp +zetaDelta only
      | split

theorem State.phase1_keeps {r s : State} (h : Keeps r s) (p : PartId) (t : BitVec 32) (shard : ℕ) (sb : ℕ) (d : Shard) (c : Coefs) (cf : Ext) (gin : ℕ → Ext) (ms : List ℕ) :
    Keeps r (State.phase1 s p t shard sb d c cf gin ms) := by
  unfold State.phase1
  repeat'
    first
      | with_reducible assumption | with_reducible apply State.stageBlocks_keeps
      | with_reducible refine Keeps.snd ‹_ = (_, _)› ?_ | with_reducible apply State.partFault_keeps
      | with_reducible apply State.modUe_keeps | with_reducible apply State.skipBlocks_keeps
      | with_reducible apply State.firstNonfinite_keeps | dsimp only | split

theorem State.takeSb_keeps {r s : State} (h : Keeps r s) (x : RCtx) (d : Shard) :
    Keeps r (State.takeSb s x d) := by
  unfold State.takeSb
  repeat'
    first
      | with_reducible assumption | with_reducible apply State.modEng_keeps | with_reducible apply State.modUe_keeps
      | with_reducible apply State.recordSb_keeps | with_reducible apply State.countPart_keeps
      | with_reducible apply State.skipSb_keeps | with_reducible apply State.logEvent_keeps
      | with_reducible apply State.readSbs_keeps | with_reducible refine Keeps.snd ‹_ = (_, _)› ?_
      | with_reducible apply State.partFault_keeps | with_reducible apply State.phase1_keeps
      | with_reducible apply State.writeSbs_keeps | with_reducible apply State.firstNonfinite_keeps | dsimp only
      | split | with_reducible apply Keeps.upd

theorem State.completeSb_keeps {r s : State} (h : Keeps r s) (n : ℕ) :
    Keeps r (State.completeSb s n) := by
  unfold State.completeSb
  repeat'
    first
      | with_reducible assumption | with_reducible apply State.takeSb_keeps | dsimp only | split

theorem State.readFields_keeps {r s : State} (h : Keeps r s) (p : PartId) (k : ℕ) (x4 : List ℕ) :
    Keeps r (State.readFields s p k x4).2 := by
  revert h
  fun_induction State.readFields s p k x4
  all_goals intro h
  repeat'
    first
      | with_reducible assumption | with_reducible apply State.readHbm_keeps
      | with_reducible refine Keeps.snd ‹_ = (_, _)› ?_ | apply_assumption | dsimp only | dsimp +zetaDelta only
      | split

theorem State.phase2Blocks_keeps {r s : State} (h : Keeps r s) (p : PartId) (t : BitVec 32) (shard : ℕ) (d : Shard) (n : ℕ) (c : Coefs) (compact : Bool) (sb : ℕ) (x10 : List ℕ) (x11 : List StateSb × ℕ) :
    Keeps r (State.phase2Blocks s p t shard d n c compact sb x10 x11).2 := by
  revert h
  fun_induction State.phase2Blocks s p t shard d n c compact sb x10 x11
  all_goals intro h
  repeat'
    first
      | with_reducible assumption | with_reducible apply State.readFields_keeps
      | with_reducible refine Keeps.snd ‹_ = (_, _)› ?_ | apply_assumption | dsimp only | dsimp +zetaDelta only
      | split

theorem State.phase2Sb_keeps {r s : State} (h : Keeps r s) (p : PartId) (t : BitVec 32) (shard : ℕ) (d : Shard) (n : ℕ) (c : Coefs) (sb : ℕ) (bs : List ℕ) :
    Keeps r (State.phase2Sb s p t shard d n c sb bs).2 := by
  unfold State.phase2Sb
  repeat'
    first
      | with_reducible assumption | with_reducible apply State.readSbs_keeps
      | with_reducible refine Keeps.snd ‹_ = (_, _)› ?_ | with_reducible apply State.phase2Blocks_keeps
      | with_reducible apply State.writeSbs_keeps | with_reducible apply State.modUe_keeps
      | with_reducible apply State.settleBlocks_keeps | with_reducible apply State.countPart_keeps | dsimp only
      | split

theorem State.phase2Sbs_keeps {r s : State} (h : Keeps r s) (p : PartId) (t : BitVec 32) (shard : ℕ) (d : Shard) (n : ℕ) (c : Coefs) (all : List (ℕ × ℕ)) (x9 : List ℕ) :
    Keeps r (State.phase2Sbs s p t shard d n c all x9).2 := by
  revert h
  fun_induction State.phase2Sbs s p t shard d n c all x9
  all_goals intro h
  repeat'
    first
      | with_reducible assumption | with_reducible apply State.phase2Sb_keeps
      | with_reducible refine Keeps.snd ‹_ = (_, _)› ?_ | apply_assumption | dsimp only | dsimp +zetaDelta only
      | split

theorem State.applyJob_keeps {r s : State} (h : Keeps r s) (p : PartId) (shard : ℕ) (n : ℕ) (t : BitVec 32) (d : Shard) :
    Keeps r (State.applyJob s p shard n t d) := by
  unfold State.applyJob
  repeat'
    first
      | with_reducible assumption | with_reducible apply State.skipBlocks_keeps
      | with_reducible apply State.logEvent_keeps | with_reducible apply State.readHbm_keeps
      | with_reducible refine Keeps.snd ‹_ = (_, _)› ?_ | with_reducible apply State.partFault_keeps
      | with_reducible apply State.phase2Sbs_keeps | with_reducible apply State.writeHbm_keeps
      | with_reducible apply State.countPart_keeps | dsimp only | split

theorem State.precondPhase2_keeps {r s : State} (h : Keeps r s) (p : PartId) :
    Keeps r (State.precondPhase2 s p) := by
  unfold State.precondPhase2
  repeat'
    first
      | with_reducible assumption | with_reducible apply State.takeQueue_keeps
      | with_reducible refine Keeps.snd ‹_ = (_, _)› ?_ | with_reducible apply State.partFault_keeps
      | with_reducible apply State.setQueue_keeps | with_reducible apply State.applyJob_keeps | dsimp only | split

end Sys2Proof.Machine
end

