-- ==== Sys2Proof/Laws/KeepsProgress.lean ====
section
/-! SUPPORT. What the functions of Sys2Proof/Machine/Progress.lean keep. -/

set_option linter.all false

namespace Sys2Proof.Machine

theorem State.runLine_keeps {r s : State} (h : Keeps r s) (c : CoreId) (p : PartId) (x : InFlight) :
    Run.Keeps r (State.runLine s c p x) := by
  unfold State.runLine
  repeat'
    first
      | with_reducible assumption | with_reducible apply State.runLdw_keeps
      | with_reducible refine Run.of_done (by assumption) ?_ | with_reducible refine Run.of_lone (by assumption) ?_
      | with_reducible refine Run.of_started (by assumption) ?_
      | with_reducible refine Run.of_blocked (by assumption) ?_
      | with_reducible refine Run.of_gone (by assumption) ?_ | with_reducible apply State.runMma_keeps
      | with_reducible apply State.runRed_keeps | with_reducible apply State.runEpi_keeps
      | with_reducible apply State.runVec_keeps | with_reducible apply State.runXpose_keeps
      | with_reducible apply State.runRoute_keeps | with_reducible apply State.runSend_keeps
      | with_reducible apply State.runRecv_keeps | with_reducible apply State.runStash_keeps
      | with_reducible apply State.runUnstash_keeps | with_reducible apply State.runUpd_keeps
      | with_reducible apply Run.keeps_done | with_reducible apply Run.keeps_lone
      | with_reducible apply Run.keeps_started | with_reducible apply Run.keeps_blocked
      | with_reducible apply Run.keeps_gone | dsimp only | split

theorem State.charge_keeps {r s : State} (h : Keeps r s) (p : PartId) (l : Line) :
    Keeps r (State.charge s p l) := by
  unfold State.charge
  repeat'
    first
      | with_reducible assumption | with_reducible apply State.useShare_keeps
      | with_reducible refine Keeps.foldl (fun _ _ _ => ?_) ?_ | dsimp only | split

theorem Run.apply_keeps {r0 : State} {r : Run} {c : CoreId} {tok : Nat} (h : Run.Keeps r0 r) : Machine.Keeps r0 (r.apply c tok) := by
  unfold Run.apply
  split
  · exact State.complete_keeps h _ _ _
  · dsimp only
    split
    · exact State.partFault_keeps (State.finishSlot_keeps h _ _ _) _ _ _
    · exact State.finishSlot_keeps h _ _ _
  · exact State.startSlot_keeps h _ _
  · exact h
  · exact h

theorem State.ran_keeps {r s : State} {y : Run} (h : Keeps r s) (c : CoreId) (p : PartId) (x : InFlight) (k : Run.Keeps r y) :
    Keeps r (State.ran s c p x y) := by
  unfold State.ran
  repeat'
    first
      | with_reducible assumption | with_reducible apply Run.apply_keeps | with_reducible apply State.modSlot_keeps
      | with_reducible apply State.startSlot_keeps | with_reducible apply State.charge_keeps
      | with_reducible refine Run.of_blocked (by with_reducible rfl) k | dsimp only | split

theorem State.tryStart_keeps {r s : State} (h : Keeps r s) (c : CoreId) (p : PartId) (tok : ℕ) :
    Keeps r (State.tryStart s c p tok) := by
  unfold State.tryStart
  repeat'
    first
      | with_reducible assumption | with_reducible apply State.runLine_keeps
      | with_reducible refine Run.of_done (by assumption) ?_ | with_reducible refine Run.of_lone (by assumption) ?_
      | with_reducible refine Run.of_started (by assumption) ?_
      | with_reducible refine Run.of_blocked (by assumption) ?_
      | with_reducible refine Run.of_gone (by assumption) ?_ | with_reducible apply State.complete_keeps
      | with_reducible apply State.ran_keeps | with_reducible apply Run.apply_keeps | dsimp only | split

theorem State.tryStarts_keeps {r s : State} (h : Keeps r s) (c : CoreId) (p : PartId) (x4 : List ℕ) :
    Keeps r (State.tryStarts s c p x4) := by
  revert h
  fun_induction State.tryStarts s c p x4
  all_goals intro h
  repeat'
    first
      | with_reducible assumption | with_reducible apply State.tryStart_keeps | apply_assumption | dsimp only
      | dsimp +zetaDelta only | split

theorem State.satisfy_keeps {r s : State} (h : Keeps r s) (c : CoreId) (qid : Qid) (d : Delivery) (n : Option ℕ) :
    Keeps r (State.satisfy s c qid d n) := by
  unfold State.satisfy
  repeat'
    first
      | with_reducible assumption | with_reducible apply State.modCtl_keeps
      | with_reducible apply State.setQueue_keeps | dsimp only | split

theorem State.skipTo_keeps {r s : State} (h : Keeps r s) (qid : Qid) (seq : ℕ) :
    Keeps r (State.skipTo s qid seq) := by
  unfold State.skipTo
  repeat'
    first
      | with_reducible assumption | with_reducible apply State.cancelItems_keeps
      | with_reducible apply State.setQueue_keeps | dsimp only | split

theorem State.stepWaitq_keeps {r s : State} (h : Keeps r s) (c : CoreId) (p : PartId) (x : InFlight) (t0 : ℕ) (l : WaitqLine) :
    Held.Keeps r (State.stepWaitq s c p x t0 l) := by
  unfold State.stepWaitq
  repeat'
    first
      | with_reducible assumption | with_reducible apply State.satisfy_keeps
      | with_reducible apply State.passOver_keeps | with_reducible apply State.skipTo_keeps
      | with_reducible apply Held.keeps_waits | with_reducible apply Held.keeps_finished
      | with_reducible apply Held.keeps_dispatched | dsimp only | split

theorem State.stepMark_keeps {r s : State} (h : Keeps r s) (c : CoreId) (p : PartId) (x : InFlight) (l : MarkLine) :
    Held.Keeps r (State.stepMark s c p x l) := by
  unfold State.stepMark
  repeat'
    first
      | with_reducible assumption | with_reducible apply State.modStash_keeps
      | with_reducible apply Held.keeps_waits | with_reducible apply Held.keeps_finished
      | with_reducible apply Held.keeps_dispatched | dsimp only | split

theorem State.stepGuard_keeps {r s : State} (h : Keeps r s) (c : CoreId) (p : PartId) (x : InFlight) (l : BranchLine) :
    Held.Keeps r (State.stepGuard s c p x l) := by
  unfold State.stepGuard
  repeat'
    first
      | with_reducible assumption | with_reducible apply State.checkSpans_keeps
      | with_reducible refine Keeps.snd ‹_ = (_, _)› ?_ | with_reducible apply State.modCtl_keeps
      | with_reducible apply State.lossSkip_keeps | with_reducible apply Held.keeps_waits
      | with_reducible apply Held.keeps_finished | with_reducible apply Held.keeps_dispatched | dsimp only | split

theorem State.stepUnstash_keeps {r s : State} (h : Keeps r s) (c : CoreId) (p : PartId) (x : InFlight) (l : StashLine) :
    Held.Keeps r (State.stepUnstash s c p x l) := by
  unfold State.stepUnstash
  repeat'
    first
      | with_reducible assumption | with_reducible apply State.runUnstash_keeps
      | with_reducible refine Run.of_done (by assumption) ?_ | with_reducible refine Run.of_lone (by assumption) ?_
      | with_reducible refine Run.of_started (by assumption) ?_
      | with_reducible refine Run.of_blocked (by assumption) ?_
      | with_reducible refine Run.of_gone (by assumption) ?_ | with_reducible apply Held.keeps_waits
      | with_reducible apply Held.keeps_finished | with_reducible apply Held.keeps_dispatched | dsimp only | split

theorem State.stepHeld_keeps {r s : State} (h : Keeps r s) (c : CoreId) (p : PartId) (x : InFlight) (t0 : ℕ) :
    Held.Keeps r (State.stepHeld s c p x t0) := by
  unfold State.stepHeld
  repeat'
    first
      | with_reducible assumption | with_reducible apply State.stepWaitq_keeps
      | with_reducible refine Held.of_waits (by assumption) ?_
      | with_reducible refine Held.of_finished (by assumption) ?_
      | with_reducible refine Held.of_dispatched (by assumption) ?_ | with_reducible apply State.stepMark_keeps
      | with_reducible apply State.stepGuard_keeps | with_reducible apply State.stepUnstash_keeps
      | with_reducible apply Held.keeps_waits | with_reducible apply Held.keeps_finished
      | with_reducible apply Held.keeps_dispatched | dsimp only | split

theorem State.progressHold_keeps {r s : State} (h : Keeps r s) (c : CoreId) :
    Keeps r (State.progressHold s c) := by
  unfold State.progressHold
  repeat'
    first
      | with_reducible assumption | with_reducible apply State.stepHeld_keeps
      | with_reducible refine Held.of_waits (by assumption) ?_
      | with_reducible refine Held.of_finished (by assumption) ?_
      | with_reducible refine Held.of_dispatched (by assumption) ?_ | with_reducible apply State.complete_keeps
      | with_reducible apply State.dropHold_keeps | dsimp only | split

theorem State.retargetCores_keeps {r s : State} (h : Keeps r s) (cs : List CoreId) : Keeps r (State.retargetCores s cs) := by
  induction cs generalizing s with
  | nil => exact h
  | cons c t ih =>
    rw [State.retargetCores]
    apply ih
    apply State.modCore_keeps _ h
    intro k
    split
    · exact k
    · exact k

theorem State.retarget_keeps {r s : State} (h : Keeps r s)  :
    Keeps r (State.retarget s) := by
  unfold State.retarget
  repeat'
    first
      | with_reducible assumption | with_reducible apply State.modReg_keeps
      | with_reducible apply State.retargetCores_keeps | dsimp only | split

theorem State.setCopy_keeps {r s : State} (h : Keeps r s) (m : MbId) (k : Copy) :
    Keeps r (State.setCopy s m k) := by
  unfold State.setCopy
  repeat'
    first
      | with_reducible assumption | with_reducible apply State.modMb_keeps | dsimp only | split

theorem State.copyOn_keeps {r s : State} (h : Keeps r s) (m : MbId) (x3 : MbReq) (b : List Byte) :
    Keeps r (State.copyOn s m x3 b) := by
  unfold State.copyOn
  repeat'
    first
      | with_reducible assumption | with_reducible apply State.respond_keeps
      | with_reducible apply State.sendList_keeps | with_reducible refine Keeps.snd ‹_ = (_, _)› ?_
      | with_reducible apply State.setCopy_keeps | dsimp only | split

theorem State.sweepWaits_keeps {r s : State} (h : Keeps r s) (x2 : List MbId) :
    Keeps r (State.sweepWaits s x2) := by
  revert h
  fun_induction State.sweepWaits s x2
  all_goals intro h
  repeat'
    first
      | with_reducible assumption | with_reducible apply State.respond_keeps
      | with_reducible apply State.copyOn_keeps | apply_assumption | dsimp only | dsimp +zetaDelta only | split

theorem State.progressCore_keeps {r s : State} (h : Keeps r s) (c : CoreId) :
    Keeps r (State.progressCore s c) := by
  unfold State.progressCore
  repeat'
    first
      | with_reducible assumption | with_reducible apply State.progressHold_keeps
      | with_reducible apply State.tryStarts_keeps | dsimp only | split

theorem State.progressCores_keeps {r s : State} (h : Keeps r s) (x2 : List CoreId) :
    Keeps r (State.progressCores s x2) := by
  revert h
  fun_induction State.progressCores s x2
  all_goals intro h
  repeat'
    first
      | with_reducible assumption | with_reducible apply State.progressCore_keeps | apply_assumption | dsimp only
      | dsimp +zetaDelta only | split

theorem State.progressEngines_keeps {r s : State} (h : Keeps r s)  :
    Keeps r (State.progressEngines s) := by
  unfold State.progressEngines
  repeat'
    first
      | with_reducible assumption | with_reducible apply State.bookAllRefused_keeps
      | with_reducible apply State.sweepRelays_keeps | with_reducible apply State.localA2a_keeps
      | with_reducible apply State.permAll_keeps | with_reducible apply State.ownAll_keeps
      | with_reducible apply State.grantAll_keeps | with_reducible apply State.sweepWaits_keeps
      | with_reducible apply State.sweepXfers_keeps | with_reducible apply State.oweResponses_keeps | dsimp only
      | split

theorem State.settle_keeps {r s : State} (h : Keeps r s)  :
    Keeps r (State.settle s) := by
  unfold State.settle
  repeat'
    first
      | with_reducible assumption | with_reducible apply State.progressEngines_keeps
      | with_reducible apply State.progressCores_keeps | dsimp only | split

theorem State.trace_keeps {r s : State} (h : Keeps r s) (c : CoreId) (p : PartId) (x : InFlight) (m : MarkReg) :
    Keeps r (State.trace s c p x m) := by
  unfold State.trace
  repeat'
    first
      | with_reducible assumption | with_reducible apply State.modReg_keeps
      | with_reducible apply State.modCtl_keeps | dsimp only | split

theorem State.seedIn_keeps {r s : State} (h : Keeps r s) (c : CoreId) (p : PartId) (tok : ℕ) (l : SeedLine) :
    Keeps r (State.seedIn s c p tok l) := by
  unfold State.seedIn
  repeat'
    first
      | with_reducible assumption | with_reducible apply State.modCtl_keeps
      | with_reducible apply State.modStash_keeps | with_reducible apply State.modUe_keeps | dsimp only | split

theorem State.branchIn_keeps {r s : State} (h : Keeps r s) (c : CoreId) (l : BranchLine) :
    Keeps r (State.branchIn s c l).2 := by
  unfold State.branchIn
  repeat'
    first
      | with_reducible assumption | with_reducible apply State.modCtl_keeps | dsimp only | split

theorem State.actAtDecode_keeps {r s : State} (h : Keeps r s) (c : CoreId) (p : PartId) (x : InFlight) :
    Keeps r (State.actAtDecode s c p x).2 := by
  unfold State.actAtDecode
  repeat'
    first
      | with_reducible assumption | with_reducible apply State.modCtl_keeps
      | with_reducible apply State.seedIn_keeps | with_reducible apply State.branchIn_keeps
      | with_reducible refine Keeps.snd ‹_ = (_, _)› ?_ | dsimp only | split

theorem State.markIn_keeps {r s : State} (h : Keeps r s) (c : CoreId) (p : PartId) (x : InFlight) :
    Keeps r (State.markIn s c p x) := by
  unfold State.markIn
  repeat'
    first
      | with_reducible assumption | with_reducible apply State.modCtl_keeps | with_reducible apply State.trace_keeps
      | dsimp only | split

theorem State.decodeLine_keeps {r s : State} (h : Keeps r s) (c : CoreId) (l : Line) :
    Keeps r (State.decodeLine s c l) := by
  unfold State.decodeLine
  repeat'
    first
      | with_reducible assumption | with_reducible apply State.modCtl_keeps
      | with_reducible apply State.complete_keeps | with_reducible apply State.markIn_keeps
      | with_reducible apply State.actAtDecode_keeps | with_reducible refine Keeps.snd ‹_ = (_, _)› ?_
      | with_reducible apply State.postRecv_keeps | dsimp only | split

theorem State.fetchFails_keeps {r s : State} (h : Keeps r s) (c : CoreId) :
    Keeps r (State.fetchFails s c) := by
  unfold State.fetchFails
  repeat'
    first
      | with_reducible assumption | with_reducible apply State.complete_keeps
      | with_reducible apply State.modCtl_keeps | dsimp only | split

theorem State.retireOldest_keeps {r s : State} (h : Keeps r s) (c : CoreId) :
    Keeps r (State.retireOldest s c) := by
  unfold State.retireOldest
  repeat'
    first
      | with_reducible assumption | with_reducible apply State.postRecord_keeps
      | with_reducible refine Keeps.snd3 ‹_ = (_, _, _)› ?_ | with_reducible apply State.freeRounds_keeps
      | with_reducible apply State.modCtl_keeps | with_reducible apply State.partFault_keeps | dsimp only | split

theorem State.spendCore_keeps {r s : State} (h : Keeps r s) (ns : ℕ) (c : CoreId) :
    Keeps r (State.spendCore s ns c) := by
  unfold State.spendCore
  repeat'
    first
      | with_reducible assumption | with_reducible apply State.modCore_keeps
      | with_reducible apply State.modCtl_keeps | with_reducible apply State.countCore_keeps | (intro k; exact k)
      | (intro k; exact ⟨(CoreMem.setLanes_ok _ _ k).1, (CoreMem.setLanes_ok _ _ k).2⟩) | dsimp only | split

theorem State.spendCores_keeps {r s : State} (h : Keeps r s) (ns : ℕ) (x3 : List CoreId) :
    Keeps r (State.spendCores s ns x3) := by
  revert h
  fun_induction State.spendCores s ns x3
  all_goals intro h
  repeat'
    first
      | with_reducible assumption | with_reducible apply State.spendCore_keeps | apply_assumption | dsimp only
      | dsimp +zetaDelta only | split

theorem State.spendPorts_keeps {r s : State} (h : Keeps r s) (ns : ℕ) :
    Keeps r (State.spendPorts s ns) := by
  unfold State.spendPorts
  repeat'
    first
      | with_reducible assumption | dsimp only | split | with_reducible apply Keeps.upd

theorem State.spendUpd_keeps {r s : State} (h : Keeps r s) (ns : ℕ) (p : PartId) :
    Keeps r (State.spendUpd s ns p) := by
  unfold State.spendUpd
  repeat'
    first
      | with_reducible assumption | with_reducible apply State.countPart_keeps | dsimp only | split

theorem State.spendUpds_keeps {r s : State} (h : Keeps r s) (ns : ℕ) (x3 : List PartId) :
    Keeps r (State.spendUpds s ns x3) := by
  revert h
  fun_induction State.spendUpds s ns x3
  all_goals intro h
  repeat'
    first
      | with_reducible assumption | with_reducible apply State.spendUpd_keeps | apply_assumption | dsimp only
      | dsimp +zetaDelta only | split

theorem State.advance_keeps {r s : State} (h : Keeps r s) (ns : ℕ) :
    Keeps r (State.advance s ns) := by
  unfold State.advance
  repeat'
    first
      | with_reducible assumption | with_reducible apply State.spendUpds_keeps
      | with_reducible apply State.spendPorts_keeps | with_reducible apply State.spendCores_keeps
      | with_reducible apply State.modAon_keeps | with_reducible rfl | rfl | dsimp only | split

theorem State.advanceTo_keeps {r s : State} (h : Keeps r s) (t : ℕ) :
    Keeps r (State.advanceTo s t) := by
  unfold State.advanceTo
  repeat'
    first
      | with_reducible assumption | with_reducible apply State.advance_keeps | dsimp only | split

theorem State.fetchDecode_keeps {r s : State} (h : Keeps r s) (c : CoreId) :
    Keeps r (State.fetchDecode s c) := by
  unfold State.fetchDecode
  repeat'
    first
      | with_reducible assumption | with_reducible apply State.fetchFails_keeps
      | with_reducible apply State.readHbm_keeps | with_reducible refine Keeps.snd ‹_ = (_, _)› ?_
      | with_reducible apply State.decodeLine_keeps | with_reducible apply State.partFault_keeps | dsimp only
      | split

theorem State.fetchDecodes_keeps {r s : State} (h : Keeps r s) (x2 : List CoreId) :
    Keeps r (State.fetchDecodes s x2) := by
  revert h
  fun_induction State.fetchDecodes s x2
  all_goals intro h
  repeat'
    first
      | with_reducible assumption | with_reducible apply State.fetchDecode_keeps | apply_assumption | dsimp only
      | dsimp +zetaDelta only | split

theorem State.mpOutTick_keeps {r s : State} (h : Keeps r s)  :
    Keeps r (State.mpOutTick s) := by
  unfold State.mpOutTick
  repeat'
    first
      | with_reducible assumption | with_reducible apply State.modReg_keeps | dsimp only | split

end Sys2Proof.Machine
end

