-- ==== Sys2Proof/Laws/KeepsStream.lean ====
section
/-! SUPPORT. What the functions of Sys2Proof/Machine/Stream.lean keep. -/

set_option linter.all false

namespace Sys2Proof.Machine

theorem execLdw_keeps {r s : State} (h : Keeps r s) (core : CoreId) (l : LdwLine) :
    OutKeeps r (execLdw core l s) := by
  unfold execLdw
  repeat'
    first
      | with_reducible assumption | with_reducible apply State.settle_keeps
      | with_reducible apply State.decodeLine_keeps | with_reducible apply OutKeeps.next | dsimp only | split

theorem execMma_keeps {r s : State} (h : Keeps r s) (core : CoreId) (l : MmaLine) :
    OutKeeps r (execMma core l s) := by
  unfold execMma
  repeat'
    first
      | with_reducible assumption | with_reducible apply State.settle_keeps
      | with_reducible apply State.decodeLine_keeps | with_reducible apply OutKeeps.next | dsimp only | split

theorem execDist_keeps {r s : State} (h : Keeps r s) (core : CoreId) (l : MmaLine) :
    OutKeeps r (execDist core l s) := by
  unfold execDist
  repeat'
    first
      | with_reducible assumption | with_reducible apply State.settle_keeps
      | with_reducible apply State.decodeLine_keeps | with_reducible apply OutKeeps.next | dsimp only | split

theorem execRed_keeps {r s : State} (h : Keeps r s) (core : CoreId) (l : RedLine) :
    OutKeeps r (execRed core l s) := by
  unfold execRed
  repeat'
    first
      | with_reducible assumption | with_reducible apply State.settle_keeps
      | with_reducible apply State.decodeLine_keeps | with_reducible apply OutKeeps.next | dsimp only | split

theorem execEpi_keeps {r s : State} (h : Keeps r s) (core : CoreId) (l : EpiLine) :
    OutKeeps r (execEpi core l s) := by
  unfold execEpi
  repeat'
    first
      | with_reducible assumption | with_reducible apply State.settle_keeps
      | with_reducible apply State.decodeLine_keeps | with_reducible apply OutKeeps.next | dsimp only | split

theorem execExchangeEpi_keeps {r s : State} (h : Keeps r s) (core : CoreId) (l : EpiLine) :
    OutKeeps r (execExchangeEpi core l s) := by
  unfold execExchangeEpi
  repeat'
    first
      | with_reducible assumption | with_reducible apply State.settle_keeps
      | with_reducible apply State.decodeLine_keeps | with_reducible apply OutKeeps.next | dsimp only | split

theorem execVec_keeps {r s : State} (h : Keeps r s) (core : CoreId) (l : VecLine) :
    OutKeeps r (execVec core l s) := by
  unfold execVec
  repeat'
    first
      | with_reducible assumption | with_reducible apply State.settle_keeps
      | with_reducible apply State.decodeLine_keeps | with_reducible apply OutKeeps.next | dsimp only | split

theorem execXpose_keeps {r s : State} (h : Keeps r s) (core : CoreId) (l : XposeLine) :
    OutKeeps r (execXpose core l s) := by
  unfold execXpose
  repeat'
    first
      | with_reducible assumption | with_reducible apply State.settle_keeps
      | with_reducible apply State.decodeLine_keeps | with_reducible apply OutKeeps.next | dsimp only | split

theorem execRouteDispatch_keeps {r s : State} (h : Keeps r s) (core : CoreId) (l : RouteLine) :
    OutKeeps r (execRouteDispatch core l s) := by
  unfold execRouteDispatch
  repeat'
    first
      | with_reducible assumption | with_reducible apply State.settle_keeps
      | with_reducible apply State.decodeLine_keeps | with_reducible apply OutKeeps.next | dsimp only | split

theorem execRouteReuse_keeps {r s : State} (h : Keeps r s) (core : CoreId) (l : RouteLine) :
    OutKeeps r (execRouteReuse core l s) := by
  unfold execRouteReuse
  repeat'
    first
      | with_reducible assumption | with_reducible apply State.settle_keeps
      | with_reducible apply State.decodeLine_keeps | with_reducible apply OutKeeps.next | dsimp only | split

theorem execRouteCombine_keeps {r s : State} (h : Keeps r s) (core : CoreId) (l : RouteLine) :
    OutKeeps r (execRouteCombine core l s) := by
  unfold execRouteCombine
  repeat'
    first
      | with_reducible assumption | with_reducible apply State.settle_keeps
      | with_reducible apply State.decodeLine_keeps | with_reducible apply OutKeeps.next | dsimp only | split

theorem execSend_keeps {r s : State} (h : Keeps r s) (core : CoreId) (l : SendLine) :
    OutKeeps r (execSend core l s) := by
  unfold execSend
  repeat'
    first
      | with_reducible assumption | with_reducible apply State.settle_keeps
      | with_reducible apply State.decodeLine_keeps | with_reducible apply OutKeeps.next | dsimp only | split

theorem execSendReduceScatter_keeps {r s : State} (h : Keeps r s) (core : CoreId) (l : SendLine) :
    OutKeeps r (execSendReduceScatter core l s) := by
  unfold execSendReduceScatter
  repeat'
    first
      | with_reducible assumption | with_reducible apply State.settle_keeps
      | with_reducible apply State.decodeLine_keeps | with_reducible apply OutKeeps.next | dsimp only | split

theorem execSendA2aReturn_keeps {r s : State} (h : Keeps r s) (core : CoreId) (l : SendLine) :
    OutKeeps r (execSendA2aReturn core l s) := by
  unfold execSendA2aReturn
  repeat'
    first
      | with_reducible assumption | with_reducible apply State.settle_keeps
      | with_reducible apply State.decodeLine_keeps | with_reducible apply OutKeeps.next | dsimp only | split

theorem execSendBroadcast_keeps {r s : State} (h : Keeps r s) (core : CoreId) (l : SendLine) :
    OutKeeps r (execSendBroadcast core l s) := by
  unfold execSendBroadcast
  repeat'
    first
      | with_reducible assumption | with_reducible apply State.settle_keeps
      | with_reducible apply State.decodeLine_keeps | with_reducible apply OutKeeps.next | dsimp only | split

theorem execPermute_keeps {r s : State} (h : Keeps r s) (core : CoreId) (l : SendLine) :
    OutKeeps r (execPermute core l s) := by
  unfold execPermute
  repeat'
    first
      | with_reducible assumption | with_reducible apply State.settle_keeps
      | with_reducible apply State.decodeLine_keeps | with_reducible apply OutKeeps.next | dsimp only | split

theorem execRecv_keeps {r s : State} (h : Keeps r s) (core : CoreId) (l : RecvLine) :
    OutKeeps r (execRecv core l s) := by
  unfold execRecv
  repeat'
    first
      | with_reducible assumption | with_reducible apply State.settle_keeps
      | with_reducible apply State.decodeLine_keeps | with_reducible apply OutKeeps.next | dsimp only | split

theorem execRecvAllGather_keeps {r s : State} (h : Keeps r s) (core : CoreId) (l : RecvLine) :
    OutKeeps r (execRecvAllGather core l s) := by
  unfold execRecvAllGather
  repeat'
    first
      | with_reducible assumption | with_reducible apply State.settle_keeps
      | with_reducible apply State.decodeLine_keeps | with_reducible apply OutKeeps.next | dsimp only | split

theorem execStash_keeps {r s : State} (h : Keeps r s) (core : CoreId) (l : StashLine) :
    OutKeeps r (execStash core l s) := by
  unfold execStash
  repeat'
    first
      | with_reducible assumption | with_reducible apply State.settle_keeps
      | with_reducible apply State.decodeLine_keeps | with_reducible apply OutKeeps.next | dsimp only | split

theorem execUnstash_keeps {r s : State} (h : Keeps r s) (core : CoreId) (l : StashLine) :
    OutKeeps r (execUnstash core l s) := by
  unfold execUnstash
  repeat'
    first
      | with_reducible assumption | with_reducible apply State.settle_keeps
      | with_reducible apply State.decodeLine_keeps | with_reducible apply OutKeeps.next | dsimp only | split

theorem execFence_keeps {r s : State} (h : Keeps r s) (core : CoreId) (l : FenceLine) :
    OutKeeps r (execFence core l s) := by
  unfold execFence
  repeat'
    first
      | with_reducible assumption | with_reducible apply State.settle_keeps
      | with_reducible apply State.decodeLine_keeps | with_reducible apply OutKeeps.next | dsimp only | split

theorem execWaitq_keeps {r s : State} (h : Keeps r s) (core : CoreId) (l : WaitqLine) :
    OutKeeps r (execWaitq core l s) := by
  unfold execWaitq
  repeat'
    first
      | with_reducible assumption | with_reducible apply State.settle_keeps
      | with_reducible apply State.decodeLine_keeps | with_reducible apply OutKeeps.next | dsimp only | split

theorem execMark_keeps {r s : State} (h : Keeps r s) (core : CoreId) (l : MarkLine) :
    OutKeeps r (execMark core l s) := by
  unfold execMark
  repeat'
    first
      | with_reducible assumption | with_reducible apply State.settle_keeps
      | with_reducible apply State.decodeLine_keeps | with_reducible apply OutKeeps.next | dsimp only | split

theorem execDeadline_keeps {r s : State} (h : Keeps r s) (core : CoreId) (l : DeadlineLine) :
    OutKeeps r (execDeadline core l s) := by
  unfold execDeadline
  repeat'
    first
      | with_reducible assumption | with_reducible apply State.settle_keeps
      | with_reducible apply State.decodeLine_keeps | with_reducible apply OutKeeps.next | dsimp only | split

theorem execSeed_keeps {r s : State} (h : Keeps r s) (core : CoreId) (l : SeedLine) :
    OutKeeps r (execSeed core l s) := by
  unfold execSeed
  repeat'
    first
      | with_reducible assumption | with_reducible apply State.settle_keeps
      | with_reducible apply State.decodeLine_keeps | with_reducible apply OutKeeps.next | dsimp only | split

theorem execUpd_keeps {r s : State} (h : Keeps r s) (core : CoreId) (l : UpdLine) :
    OutKeeps r (execUpd core l s) := by
  unfold execUpd
  repeat'
    first
      | with_reducible assumption | with_reducible apply State.settle_keeps
      | with_reducible apply State.decodeLine_keeps | with_reducible apply OutKeeps.next | dsimp only | split

theorem execJump_keeps {r s : State} (h : Keeps r s) (core : CoreId) (l : BranchLine) :
    OutKeeps r (execJump core l s) := by
  unfold execJump
  repeat'
    first
      | with_reducible assumption | with_reducible apply State.settle_keeps
      | with_reducible apply State.decodeLine_keeps | with_reducible apply OutKeeps.next | dsimp only | split

theorem execCall_keeps {r s : State} (h : Keeps r s) (core : CoreId) (l : BranchLine) :
    OutKeeps r (execCall core l s) := by
  unfold execCall
  repeat'
    first
      | with_reducible assumption | with_reducible apply State.settle_keeps
      | with_reducible apply State.decodeLine_keeps | with_reducible apply OutKeeps.next | dsimp only | split

theorem execRet_keeps {r s : State} (h : Keeps r s) (core : CoreId) (l : BranchLine) :
    OutKeeps r (execRet core l s) := by
  unfold execRet
  repeat'
    first
      | with_reducible assumption | with_reducible apply State.settle_keeps
      | with_reducible apply State.decodeLine_keeps | with_reducible apply OutKeeps.next | dsimp only | split

theorem execLoop_keeps {r s : State} (h : Keeps r s) (core : CoreId) (l : BranchLine) :
    OutKeeps r (execLoop core l s) := by
  unfold execLoop
  repeat'
    first
      | with_reducible assumption | with_reducible apply State.settle_keeps
      | with_reducible apply State.decodeLine_keeps | with_reducible apply OutKeeps.next | dsimp only | split

theorem execSetlc_keeps {r s : State} (h : Keeps r s) (core : CoreId) (l : BranchLine) :
    OutKeeps r (execSetlc core l s) := by
  unfold execSetlc
  repeat'
    first
      | with_reducible assumption | with_reducible apply State.settle_keeps
      | with_reducible apply State.decodeLine_keeps | with_reducible apply OutKeeps.next | dsimp only | split

theorem execLossGuard_keeps {r s : State} (h : Keeps r s) (core : CoreId) (l : BranchLine) :
    OutKeeps r (execLossGuard core l s) := by
  unfold execLossGuard
  repeat'
    first
      | with_reducible assumption | with_reducible apply State.settle_keeps
      | with_reducible apply State.decodeLine_keeps | with_reducible apply OutKeeps.next | dsimp only | split

theorem execEndStream_keeps {r s : State} (h : Keeps r s) (core : CoreId) (l : BranchLine) :
    OutKeeps r (execEndStream core l s) := by
  unfold execEndStream
  repeat'
    first
      | with_reducible assumption | with_reducible apply State.settle_keeps
      | with_reducible apply State.decodeLine_keeps | with_reducible apply OutKeeps.next | dsimp only | split

theorem execBadOpcode_keeps {r s : State} (h : Keeps r s) (core : CoreId) (opcode : BitVec 8) (hdr : Hdr) :
    OutKeeps r (execBadOpcode core opcode hdr s) := by
  unfold execBadOpcode
  repeat'
    first
      | with_reducible assumption | with_reducible apply State.settle_keeps
      | with_reducible apply State.decodeLine_keeps | with_reducible apply OutKeeps.next | dsimp only | split

theorem execFetchError_keeps {r s : State} (h : Keeps r s) (core : CoreId) :
    OutKeeps r (execFetchError core s) := by
  unfold execFetchError
  repeat'
    first
      | with_reducible assumption | with_reducible apply State.settle_keeps
      | with_reducible apply State.fetchFails_keeps | with_reducible apply OutKeeps.next | dsimp only | split

end Sys2Proof.Machine
end

