-- ==== Sys2Proof/Laws/KeepsEvents.lean ====
section
/-! SUPPORT. What the functions of Sys2Proof/Machine/Events.lean keep. -/

set_option linter.all false

namespace Sys2Proof.Machine

theorem execCommandRetire_keeps {r s : State} (h : Keeps r s) (core : CoreId) :
    OutKeeps r (execCommandRetire core s) := by
  unfold execCommandRetire
  repeat'
    first
      | with_reducible assumption | with_reducible apply State.settle_keeps
      | with_reducible apply State.retireOldest_keeps | with_reducible apply OutKeeps.next | dsimp only | split

theorem execDeadlinePassed_keeps {r s : State} (h : Keeps r s) (core : CoreId) (tag : BitVec 16) :
    OutKeeps r (execDeadlinePassed core tag s) := by
  unfold execDeadlinePassed
  repeat'
    first
      | with_reducible assumption | with_reducible apply State.settle_keeps
      | with_reducible apply State.advanceTo_keeps | with_reducible apply State.freeNext_keeps
      | with_reducible apply OutKeeps.next | dsimp only | split

theorem execWaitqTimeout_keeps {r s : State} (h : Keeps r s) (core : CoreId) :
    OutKeeps r (execWaitqTimeout core s) := by
  unfold execWaitqTimeout
  repeat'
    first
      | with_reducible assumption | with_reducible apply State.settle_keeps
      | with_reducible apply State.advanceTo_keeps | with_reducible apply OutKeeps.next | dsimp only | split

theorem execRoundAdmission_keeps {r s : State} (h : Keeps r s) (round : ℕ) :
    OutKeeps r (execRoundAdmission round s) := by
  unfold execRoundAdmission
  repeat'
    first
      | with_reducible assumption | with_reducible apply State.settle_keeps
      | with_reducible apply State.admitRound_keeps | with_reducible apply OutKeeps.next | dsimp only | split

theorem State.seedsReached_keeps {r s : State} (h : Keeps r s) (step : BitVec 32) (x3 : List CoreId) :
    Keeps r (State.seedsReached s step x3) := by
  revert h
  fun_induction State.seedsReached s step x3
  all_goals intro h
  repeat'
    first
      | with_reducible assumption | with_reducible apply State.modCtl_keeps | apply_assumption | dsimp only
      | dsimp +zetaDelta only | split

theorem State.writeScale_keeps {r s : State} (h : Keeps r s) (p : PartId) (e : ℤ) (w : BitVec 32) (cs : List CoreId) :
    Keeps r (State.writeScale s p e w cs) := by
  induction cs generalizing s with
  | nil => exact h
  | cons c t ih =>
    rw [State.writeScale]
    apply ih
    have k := State.writeCore_keeps h c false (32 * (w.toNat % 2 ^ 20) + if w.getLsbD 20 then 0 else 8)
      (bytesLE 4 (toB32 (.fin false 1 (if w.getLsbD 20 then -e else e))))
    exact Keeps.ite k (State.partFault_keeps k _ _ _)

theorem State.writeScales_keeps {r s : State} (h : Keeps r s) (p : PartId) (e : ℤ) (cores : List CoreId) (x5 : List (BitVec 32)) :
    Keeps r (State.writeScales s p e cores x5) := by
  revert h
  fun_induction State.writeScales s p e cores x5
  all_goals intro h
  repeat'
    first
      | with_reducible assumption | with_reducible apply State.writeScale_keeps | apply_assumption | dsimp only
      | dsimp +zetaDelta only | split

theorem State.selectRule_keeps {r s : State} (h : Keeps r s) (p : PartId) (i : ℕ) :
    Keeps r (State.selectRule s p i) := by
  unfold State.selectRule
  repeat'
    first
      | with_reducible assumption | with_reducible apply State.countPart_keeps
      | with_reducible apply State.modPart_keeps | with_reducible apply State.writeScales_keeps
      | with_reducible apply State.writeHbm_keeps | with_reducible refine Keeps.snd ‹_ = (_, _)› ?_
      | with_reducible apply State.partFault_keeps | dsimp only | split

theorem State.selectRules_keeps {r s : State} (h : Keeps r s) (p : PartId) (x3 : List ℕ) :
    Keeps r (State.selectRules s p x3) := by
  revert h
  fun_induction State.selectRules s p x3
  all_goals intro h
  repeat'
    first
      | with_reducible assumption | with_reducible apply State.selectRule_keeps | apply_assumption | dsimp only
      | dsimp +zetaDelta only | split

theorem State.amaxPush_keeps {r s : State} (h : Keeps r s) (p : PartId) :
    Keeps r (State.amaxPush s p) := by
  unfold State.amaxPush
  repeat'
    first
      | with_reducible assumption | with_reducible apply State.modPart_keeps
      | with_reducible apply State.selectRules_keeps | with_reducible apply State.seedsReached_keeps
      | with_reducible refine Keeps.foldl (fun _ _ _ => ?_) ?_ | dsimp only | split

theorem execAmaxPush_keeps {r s : State} (h : Keeps r s) (p : PartId) :
    OutKeeps r (execAmaxPush p s) := by
  unfold execAmaxPush
  repeat'
    first
      | with_reducible assumption | with_reducible apply State.settle_keeps
      | with_reducible apply State.amaxPush_keeps | with_reducible apply OutKeeps.next | dsimp only | split

theorem State.stashRelease_keeps {r s : State} (h : Keeps r s) (c : CoreId) :
    Keeps r (State.stashRelease s c) := by
  unfold State.stashRelease
  repeat'
    first
      | with_reducible assumption | with_reducible apply State.modStash_keeps | dsimp only | split

theorem execStashRelease_keeps {r s : State} (h : Keeps r s) (core : CoreId) :
    OutKeeps r (execStashRelease core s) := by
  unfold execStashRelease
  repeat'
    first
      | with_reducible assumption | with_reducible apply State.settle_keeps
      | with_reducible apply State.stashRelease_keeps | with_reducible apply OutKeeps.next | dsimp only | split

theorem State.logPdl_keeps {r s : State} (h : Keeps r s) (c : CoreId) (l : PrologueList) (cause : List Byte) :
    Keeps r (State.logPdl s c l cause) := by
  unfold State.logPdl
  repeat'
    first
      | with_reducible assumption | with_reducible apply State.logEvent_keeps | dsimp only | split

theorem State.postDesc_keeps {r s t : State} {c : CoreId} {qid : Qid} {q : Queue} {d : Xdesc} {ok : Bool} {skip : Bool} (e : State.postDesc s c qid q d ok skip = some t) (h : Keeps r s) : Keeps r t := by
  revert e
  unfold State.postDesc
  repeat'
    first
      | with_reducible assumption | rw [id_eq] | with_reducible apply State.countPart_keeps
      | with_reducible apply State.setQueue_keeps | (intro e; cases e) | dsimp only | split

theorem State.countSkipped_keeps {r s : State} (h : Keeps r s) (p : PartId) (skip : Bool) :
    Keeps r (State.countSkipped s p skip) := by
  unfold State.countSkipped
  repeat'
    first
      | with_reducible assumption | with_reducible apply State.countPart_keeps | dsimp only | split

theorem State.takeDesc_keeps {r s : State} (h : Keeps r s) (c : CoreId) :
    Keeps r (State.takeDesc s c) := by
  unfold State.takeDesc
  repeat'
    first
      | with_reducible assumption | with_reducible apply State.modStash_keeps
      | with_reducible apply State.countSkipped_keeps | with_reducible apply State.logPdl_keeps
      | with_reducible apply State.readHbm_keeps | with_reducible refine Keeps.snd ‹_ = (_, _)› ?_
      | with_reducible apply State.partFault_keeps | with_reducible refine State.postDesc_keeps (by assumption) ?_
      | dsimp only | split

theorem execDescriptorTake_keeps {r s : State} (h : Keeps r s) (core : CoreId) :
    OutKeeps r (execDescriptorTake core s) := by
  unfold execDescriptorTake
  repeat'
    first
      | with_reducible assumption | with_reducible apply State.settle_keeps
      | with_reducible apply State.takeDesc_keeps | with_reducible apply OutKeeps.next | dsimp only | split

theorem State.askPeer_keeps {r s : State} (h : Keeps r s) (p : PartId) (qid : Qid) (d : Xdesc) :
    Keeps r (State.askPeer s p qid d).2 := by
  unfold State.askPeer
  repeat'
    first
      | with_reducible assumption | with_reducible apply State.needSess_keeps
      | with_reducible refine Keeps.snd ‹_ = (_, _)› ?_ | with_reducible apply State.sendList_keeps | dsimp only
      | split

theorem State.issueDesc_keeps {r s : State} (h : Keeps r s) (qid : Qid) :
    Keeps r (State.issueDesc s qid) := by
  unfold State.issueDesc
  repeat'
    first
      | with_reducible assumption | with_reducible apply State.askPeer_keeps
      | with_reducible refine Keeps.snd ‹_ = (_, _)› ?_ | with_reducible apply State.setQueue_keeps
      | with_reducible apply State.modEng_keeps | with_reducible apply State.useShare_keeps | dsimp only | split

theorem execDescriptorIssue_keeps {r s : State} (h : Keeps r s) (q : Qid) :
    OutKeeps r (execDescriptorIssue q s) := by
  unfold execDescriptorIssue
  repeat'
    first
      | with_reducible assumption | with_reducible apply State.settle_keeps
      | with_reducible apply State.issueDesc_keeps | with_reducible apply OutKeeps.next | dsimp only | split

theorem State.refuseItem_keeps {r s : State} (h : Keeps r s) (qid : Qid) (n : ℕ) :
    Keeps r (State.refuseItem s qid n) := by
  unfold State.refuseItem
  repeat'
    first
      | with_reducible assumption | with_reducible apply State.cancelItems_keeps
      | with_reducible apply State.setQueue_keeps | dsimp only | split

theorem State.landDesc_keeps {r s : State} (h : Keeps r s) (qid : Qid) (n : ℕ) (data : List Byte) (refused : Bool) :
    Keeps r (State.landDesc s qid n data refused) := by
  unfold State.landDesc
  repeat'
    first
      | with_reducible assumption | with_reducible apply State.setQueue_keeps
      | with_reducible refine State.underMaps_keeps ?_ _ _ _ (fun _ _ => ?_)
      | with_reducible refine Keeps.snd ‹_ = (_, _)› ?_ | with_reducible apply State.writeQueue_keeps
      | with_reducible apply State.partFault_keeps | with_reducible apply State.refuseItem_keeps
      | with_reducible apply State.readHbm_keeps | dsimp only | split

theorem execTransferLanded_keeps {r s : State} (h : Keeps r s) (q : Qid) (n : ℕ) (data : List Byte) (refused : Bool) :
    OutKeeps r (execTransferLanded q n data refused s) := by
  unfold execTransferLanded
  repeat'
    first
      | with_reducible assumption | with_reducible apply State.settle_keeps
      | with_reducible apply State.landDesc_keeps | with_reducible apply OutKeeps.next | dsimp only | split

theorem State.passItem_keeps {r s : State} (h : Keeps r s) (qid : Qid) :
    Keeps r (State.passItem s qid) := by
  unfold State.passItem
  repeat'
    first
      | with_reducible assumption | with_reducible apply State.setQueue_keeps
      | with_reducible apply State.postRecord_keeps | with_reducible refine Keeps.snd3 ‹_ = (_, _, _)› ?_
      | with_reducible apply State.partFault_keeps | dsimp only | split

theorem execItemComplete_keeps {r s : State} (h : Keeps r s) (q : Qid) :
    OutKeeps r (execItemComplete q s) := by
  unfold execItemComplete
  repeat'
    first
      | with_reducible assumption | with_reducible apply State.settle_keeps
      | with_reducible apply State.passItem_keeps | with_reducible apply OutKeeps.next | dsimp only | split

theorem execSuperblockComplete_keeps {r s : State} (h : Keeps r s) (ctx : ℕ) :
    OutKeeps r (execSuperblockComplete ctx s) := by
  unfold execSuperblockComplete
  repeat'
    first
      | with_reducible assumption | with_reducible apply State.settle_keeps
      | with_reducible apply State.completeSb_keeps | with_reducible apply OutKeeps.next | dsimp only | split

theorem execPrecondPhase2_keeps {r s : State} (h : Keeps r s) (p : PartId) :
    OutKeeps r (execPrecondPhase2 p s) := by
  unfold execPrecondPhase2
  repeat'
    first
      | with_reducible assumption | with_reducible apply State.settle_keeps
      | with_reducible apply State.precondPhase2_keeps | with_reducible apply OutKeeps.next | dsimp only | split

theorem execUpdPendingApply_keeps {r s : State} (h : Keeps r s) (core : CoreId) :
    OutKeeps r (execUpdPendingApply core s) := by
  unfold execUpdPendingApply
  repeat'
    first
      | with_reducible assumption | with_reducible apply State.settle_keeps
      | with_reducible apply State.progressCore_keeps | with_reducible apply OutKeeps.next | dsimp only | split

theorem execGatherServe_keeps {r s : State} (h : Keeps r s) (n : ℕ) :
    OutKeeps r (execGatherServe n s) := by
  unfold execGatherServe
  repeat'
    first
      | with_reducible assumption | with_reducible apply State.settle_keeps
      | with_reducible apply State.useShare_keeps | with_reducible apply State.gatherServe_keeps
      | with_reducible apply OutKeeps.next | dsimp only | split | with_reducible apply Keeps.upd

end Sys2Proof.Machine
end

