-- ==== Sys2Proof/Laws/KeepsReceive.lean ====
section
/-! SUPPORT. What the functions of Sys2Proof/Machine/Receive.lean keep. -/

set_option linter.all false

namespace Sys2Proof.Machine

theorem State.checked_keeps {r s f : State} (h : Keeps r s) (k : Pkt) (e : Keeps r f) : Keeps r (State.checked s k f) := by
  unfold State.checked
  repeat' first | with_reducible assumption | with_reducible apply State.countPart_keeps | split

theorem State.wokenBy_keeps {r s : State} (h : Keeps r s) (k : Pkt) :
    Keeps r (State.wokenBy s k) := by
  unfold State.wokenBy
  repeat'
    first
      | with_reducible assumption | with_reducible apply State.wakeShallow_keeps | dsimp only | split

theorem State.heardOn_keeps {r s : State} (h : Keeps r s) (i : ℕ) (d : Session) (k : Pkt) :
    Keeps r (State.heardOn s i d k) := by
  unfold State.heardOn
  repeat'
    first
      | with_reducible assumption | with_reducible apply State.setSess_keeps | dsimp only | split

theorem State.pumpAll_keeps {r s : State} (h : Keeps r s) (i : ℕ) :
    Keeps r (State.pumpAll s i) := by
  unfold State.pumpAll
  repeat'
    first
      | with_reducible assumption | with_reducible apply State.pump_keeps | dsimp only | split

theorem State.takeReliable_keeps {r s : State} (h : Keeps r s) (k : Pkt) {act : State → ℕ → Session → Bool × State}
    (e : ∀ t i d, Keeps r t → Keeps r (act t i d).2) : Keeps r (State.takeReliable s k act) := by
  unfold State.takeReliable
  apply State.checked_keeps h
  split
  · exact h
  · have h1 := State.heardOn_keeps h ‹_› ‹Session› k
    dsimp only
    split
    · exact h1
    · split
      · exact State.pumpAll_keeps (State.sendAck_keeps h1 _) _
      · split
        · exact State.pumpAll_keeps h1 _
        · split
          · rename_i q
            exact State.pumpAll_keeps (Keeps.ite (Keeps.snd q (e _ _ _ h1)) (State.book_keeps (Keeps.snd q (e _ _ _ h1)) _ _)) _
          · rename_i q
            exact State.pumpAll_keeps (Keeps.snd q (e _ _ _ h1)) _

theorem State.refuse_keeps {r s : State} (h : Keeps r s) (i : ℕ) (k : Pkt) (what : BitVec 32) :
    Keeps r (State.refuse s i k what) := by
  unfold State.refuse
  repeat'
    first
      | with_reducible assumption | with_reducible apply State.sendList_keeps
      | with_reducible refine Keeps.snd ‹_ = (_, _)› ?_ | with_reducible apply State.setSess_keeps | dsimp only
      | split

theorem State.messagePacket_keeps {r s : State} (h : Keeps r s) (i : ℕ) (d : Session) (k : Pkt) :
    Keeps r (State.messagePacket s i d k).2 := by
  unfold State.messagePacket
  repeat'
    first
      | with_reducible assumption | with_reducible apply State.refuse_keeps | with_reducible apply State.hold_keeps
      | with_reducible apply State.writeQueue_keeps | with_reducible refine Keeps.snd ‹_ = (_, _)› ?_
      | with_reducible apply State.setQueue_keeps | with_reducible apply State.partFault_keeps
      | with_reducible apply State.recvPiece_keeps | with_reducible apply State.recvFailed_keeps
      | with_reducible apply State.complete_keeps | dsimp only | split

theorem State.rsPacket_keeps {r s : State} (h : Keeps r s) (i : ℕ) (d : Session) (k : Pkt) :
    Keeps r (State.rsPacket s i d k).2 := by
  unfold State.rsPacket
  repeat'
    first
      | with_reducible assumption | with_reducible refine State.rsRun_keeps (by assumption) ?_
      | with_reducible apply State.refuse_keeps | with_reducible apply State.countPart_keeps | dsimp only | split

theorem State.gatherPacket_keeps {r s : State} (h : Keeps r s) (i : ℕ) (d : Session) (k : Pkt) :
    Keeps r (State.gatherPacket s i d k) := by
  unfold State.gatherPacket
  repeat'
    first
      | with_reducible assumption | with_reducible apply State.gatherTake_keeps | dsimp only | split

theorem State.gatherReplyIn_keeps {r s : State} (h : Keeps r s) (d : Session) (k : Pkt) :
    Keeps r (State.gatherReplyIn s d k) := by
  unfold State.gatherReplyIn
  repeat'
    first
      | with_reducible assumption | with_reducible apply State.gatherAnswer_keeps | dsimp only | split

theorem State.serveRead_keeps {r s : State} (h : Keeps r s) (i : ℕ) (d : Session) (k : Pkt) (va : ℕ) (n : ℕ) (tag : BitVec 32) :
    Keeps r (State.serveRead s i d k va n tag) := by
  unfold State.serveRead
  repeat'
    first
      | with_reducible assumption | with_reducible apply State.refuse_keeps
      | with_reducible apply State.readHbm_keeps | with_reducible refine Keeps.snd ‹_ = (_, _)› ?_
      | with_reducible apply State.partFault_keeps | with_reducible apply State.sendList_keeps | dsimp only | split

theorem State.headIn_keeps {r s : State} (h : Keeps r s) (i : ℕ) (tag : BitVec 32) (b : List Byte) :
    Keeps r (State.headIn s i tag b) := by
  unfold State.headIn
  repeat'
    first
      | with_reducible assumption | with_reducible apply State.modMb_keeps | dsimp only | split

theorem State.permPacket_keeps {r s : State} (h : Keeps r s) (i : ℕ) (d : Session) (k : Pkt) :
    Keeps r (State.permPacket s i d k) := by
  unfold State.permPacket
  repeat'
    first
      | with_reducible assumption | with_reducible apply State.relayPiece_keeps
      | with_reducible apply State.refuse_keeps | with_reducible apply State.serveRead_keeps
      | with_reducible apply State.headIn_keeps | with_reducible apply State.writeHbm_keeps
      | with_reducible refine Keeps.snd ‹_ = (_, _)› ?_ | with_reducible apply State.modEng_keeps
      | with_reducible apply State.partFault_keeps | dsimp only | split

theorem State.copyRefused_keeps {r s : State} (h : Keeps r s) (x2 : List MbId) :
    Keeps r (State.copyRefused s x2) := by
  revert h
  fun_induction State.copyRefused s x2
  all_goals intro h
  repeat'
    first
      | with_reducible assumption | with_reducible apply State.respond_keeps | apply_assumption | dsimp only
      | dsimp +zetaDelta only | split

theorem State.refusalIn_keeps {r s : State} (h : Keeps r s) (i : ℕ) (k : Pkt) :
    Keeps r (State.refusalIn s i k) := by
  unfold State.refusalIn
  repeat'
    first
      | with_reducible assumption | with_reducible apply State.setSess_keeps
      | with_reducible apply State.modEng_keeps | with_reducible apply State.endXfers_keeps
      | with_reducible apply State.copyRefused_keeps | dsimp only | split

theorem State.dataIn_keeps {r s : State} (h : Keeps r s) (i : ℕ) (d : Session) (k : Pkt) :
    Keeps r (State.dataIn s i d k).2 := by
  unfold State.dataIn
  repeat'
    first
      | with_reducible assumption | with_reducible apply State.refuse_keeps
      | with_reducible apply State.gatherReplyIn_keeps | with_reducible apply State.refusalIn_keeps
      | with_reducible apply State.rsPacket_keeps | with_reducible refine Keeps.snd ‹_ = (_, _)› ?_
      | with_reducible apply State.gatherPacket_keeps | with_reducible apply State.permPacket_keeps
      | with_reducible apply State.messagePacket_keeps | dsimp only | split

theorem execDataReceive_keeps {r s : State} (h : Keeps r s) (k : Pkt) :
    OutKeeps r (execDataReceive k s) := by
  unfold execDataReceive
  repeat'
    first
      | with_reducible assumption | with_reducible apply State.settle_keeps
      | with_reducible refine State.takeReliable_keeps ?_ _ (fun _ _ _ _ => ?_)
      | with_reducible apply State.wokenBy_keeps | with_reducible apply State.dataIn_keeps
      | with_reducible refine Keeps.snd ‹_ = (_, _)› ?_ | with_reducible apply OutKeeps.next | dsimp only | split

theorem execRsContributionReceive_keeps {r s : State} (h : Keeps r s) (k : Pkt) :
    OutKeeps r (execRsContributionReceive k s) := by
  unfold execRsContributionReceive
  repeat'
    first
      | with_reducible assumption | with_reducible apply State.settle_keeps
      | with_reducible refine State.takeReliable_keeps ?_ _ (fun _ _ _ _ => ?_)
      | with_reducible apply State.wokenBy_keeps | with_reducible apply State.rsPacket_keeps
      | with_reducible refine Keeps.snd ‹_ = (_, _)› ?_ | with_reducible apply OutKeeps.next | dsimp only | split

theorem execGatherRequestReceive_keeps {r s : State} (h : Keeps r s) (k : Pkt) :
    OutKeeps r (execGatherRequestReceive k s) := by
  unfold execGatherRequestReceive
  repeat'
    first
      | with_reducible assumption | with_reducible apply State.settle_keeps
      | with_reducible refine State.takeReliable_keeps ?_ _ (fun _ _ _ _ => ?_)
      | with_reducible apply State.wokenBy_keeps | with_reducible apply State.gatherPacket_keeps
      | with_reducible apply OutKeeps.next | dsimp only | split

theorem execA2aMessageReceive_keeps {r s : State} (h : Keeps r s) (m : A2aMsg) :
    OutKeeps r (execA2aMessageReceive m s) := by
  unfold execA2aMessageReceive
  repeat'
    first
      | with_reducible assumption | with_reducible apply State.settle_keeps
      | with_reducible apply State.a2aDeliver_keeps | with_reducible apply State.wakeShallow_keeps
      | with_reducible apply OutKeeps.next | dsimp only | split

theorem execA2aReturnReceive_keeps {r s : State} (h : Keeps r s) (m : A2aMsg) :
    OutKeeps r (execA2aReturnReceive m s) := by
  unfold execA2aReturnReceive
  repeat'
    first
      | with_reducible assumption | with_reducible apply State.settle_keeps
      | with_reducible apply State.a2aReturned_keeps | with_reducible apply State.wakeShallow_keeps
      | with_reducible apply OutKeeps.next | dsimp only | split

theorem State.closeAcked_keeps {r s : State} (h : Keeps r s) (k : Pkt) :
    Keeps r (State.closeAcked s k) := by
  unfold State.closeAcked
  repeat'
    first
      | with_reducible assumption | with_reducible apply State.dropClosing_keeps | dsimp only | split

theorem State.takeAck_keeps {r s : State} (h : Keeps r s) (k : Pkt) :
    Keeps r (State.takeAck s k) := by
  unfold State.takeAck
  repeat'
    first
      | with_reducible assumption | with_reducible refine State.checked_keeps ?_ _ ?_
      | with_reducible apply State.closeAcked_keeps | with_reducible apply State.heardOn_keeps
      | with_reducible apply State.pumpAll_keeps | with_reducible apply State.resend_keeps
      | with_reducible apply State.setSess_keeps | dsimp only | split

theorem execAckReceive_keeps {r s : State} (h : Keeps r s) (k : Pkt) :
    OutKeeps r (execAckReceive k s) := by
  unfold execAckReceive
  repeat'
    first
      | with_reducible assumption | with_reducible apply State.settle_keeps
      | with_reducible apply State.takeAck_keeps | with_reducible apply State.wokenBy_keeps
      | with_reducible apply OutKeeps.next | dsimp only | split

theorem execKeepaliveReceive_keeps {r s : State} (h : Keeps r s) (k : Pkt) :
    OutKeeps r (execKeepaliveReceive k s) := by
  unfold execKeepaliveReceive
  repeat'
    first
      | with_reducible assumption | with_reducible apply State.wokenBy_keeps
      | with_reducible apply State.settle_keeps | with_reducible refine State.checked_keeps ?_ _ ?_
      | with_reducible apply State.pumpAll_keeps | with_reducible apply State.heardOn_keeps
      | with_reducible apply OutKeeps.next | dsimp only | split

theorem execAckTimer_keeps {r s : State} (h : Keeps r s) (sess : BitVec 13) :
    OutKeeps r (execAckTimer sess s) := by
  unfold execAckTimer
  repeat'
    first
      | with_reducible assumption | with_reducible apply State.settle_keeps
      | with_reducible apply State.sendAck_keeps | with_reducible apply OutKeeps.next | dsimp only | split

theorem State.resendClose_keeps {r s : State} (h : Keeps r s) (i : ℕ) (psn : BitVec 32) :
    Keeps r (State.resendClose s i psn) := by
  unfold State.resendClose
  repeat'
    first
      | with_reducible assumption | with_reducible apply State.resend_keeps | dsimp only | split

theorem execRetransmitTimer_keeps {r s : State} (h : Keeps r s) (sess : BitVec 13) (psn : BitVec 32) :
    OutKeeps r (execRetransmitTimer sess psn s) := by
  unfold execRetransmitTimer
  repeat'
    first
      | with_reducible assumption | with_reducible apply State.settle_keeps
      | with_reducible apply State.resendClose_keeps | with_reducible apply State.resend_keeps
      | with_reducible apply State.setSess_keeps | with_reducible apply OutKeeps.next | dsimp only | split

theorem execKeepaliveTimer_keeps {r s : State} (h : Keeps r s) (sess : BitVec 13) :
    OutKeeps r (execKeepaliveTimer sess s) := by
  unfold execKeepaliveTimer
  repeat'
    first
      | with_reducible assumption | with_reducible apply State.advanceTo_keeps
      | with_reducible apply State.settle_keeps | with_reducible apply State.emit_keeps
      | with_reducible apply OutKeeps.next | dsimp only | split

theorem execKeepaliveSilence_keeps {r s : State} (h : Keeps r s) (sess : BitVec 13) :
    OutKeeps r (execKeepaliveSilence sess s) := by
  unfold execKeepaliveSilence
  repeat'
    first
      | with_reducible assumption | with_reducible apply State.dropClosing_keeps
      | with_reducible apply State.advanceTo_keeps | with_reducible apply State.settle_keeps
      | with_reducible apply State.closeSess_keeps | with_reducible apply State.declareLost_keeps
      | with_reducible apply OutKeeps.next | dsimp only | split

theorem State.refuseOpen_keeps {r s : State} (h : Keeps r s) (k : Pkt) (reason : ℕ) (log : Bool) :
    Keeps r (State.refuseOpen s k reason log) := by
  unfold State.refuseOpen
  repeat'
    first
      | with_reducible assumption | with_reducible apply State.logEvent_keeps
      | with_reducible apply State.newSess_keeps | with_reducible refine Keeps.snd ‹_ = (_, _)› ?_
      | with_reducible apply State.sendClose_keeps | with_reducible apply State.setSess_keeps
      | with_reducible apply State.txPkt_keeps | dsimp only | split

theorem State.ackOpen_keeps {r s : State} (h : Keeps r s) (i : ℕ) (d : Session) (k : Pkt) :
    Keeps r (State.ackOpen s i d k) := by
  unfold State.ackOpen
  repeat'
    first
      | with_reducible assumption | with_reducible apply State.pumpAll_keeps | with_reducible apply State.emit_keeps
      | dsimp only | split

theorem State.openNew_keeps {r s : State} (h : Keeps r s) (k : Pkt) (x3 : Option (Fin 64)) (relay : Bool) :
    Keeps r (State.openNew s k x3 relay) := by
  unfold State.openNew
  repeat'
    first
      | with_reducible assumption | with_reducible apply State.newSess_keeps
      | with_reducible refine Keeps.snd ‹_ = (_, _)› ?_ | with_reducible apply State.ackOpen_keeps
      | with_reducible apply State.refuseOpen_keeps | dsimp only | split

theorem State.openPeer_keeps {r s : State} (h : Keeps r s) (k : Pkt) (i : Option ℕ) (relay : Bool) :
    Keeps r (State.openPeer s k i relay) := by
  unfold State.openPeer
  repeat'
    first
      | with_reducible assumption | with_reducible apply State.openNew_keeps
      | with_reducible apply State.ackOpen_keeps | with_reducible apply State.sendAck_keeps | dsimp only | split

theorem State.takeOpen_keeps {r s : State} (h : Keeps r s) (k : Pkt) (addr : BitVec 128) :
    Keeps r (State.takeOpen s k addr) := by
  unfold State.takeOpen
  repeat'
    first
      | with_reducible assumption | with_reducible refine State.checked_keeps ?_ _ ?_
      | with_reducible apply State.refuseOpen_keeps | with_reducible apply State.openPeer_keeps
      | with_reducible apply State.sendAck_keeps | with_reducible apply State.openNew_keeps | dsimp only | split

theorem execOpenReceive_keeps {r s : State} (h : Keeps r s) (k : Pkt) (addr : BitVec 128) :
    OutKeeps r (execOpenReceive k addr s) := by
  unfold execOpenReceive
  repeat'
    first
      | with_reducible assumption | with_reducible apply State.settle_keeps
      | with_reducible apply State.takeOpen_keeps | with_reducible apply OutKeeps.next | dsimp only | split

theorem execOpenAckReceive_keeps {r s : State} (h : Keeps r s) (k : Pkt) :
    OutKeeps r (execOpenAckReceive k s) := by
  unfold execOpenAckReceive
  repeat'
    first
      | with_reducible assumption | with_reducible apply State.wokenBy_keeps
      | with_reducible apply State.settle_keeps | with_reducible refine State.checked_keeps ?_ _ ?_
      | with_reducible refine State.takeReliable_keeps ?_ _ (fun _ _ _ _ => ?_)
      | with_reducible apply State.pumpAll_keeps | with_reducible apply State.setSess_keeps
      | with_reducible apply OutKeeps.next | dsimp only | split

theorem State.sessionRefused_keeps {r s : State} (h : Keeps r s) (i : ℕ) (d : Session) :
    Keeps r (State.sessionRefused s i d) := by
  unfold State.sessionRefused
  repeat'
    first
      | with_reducible assumption | with_reducible apply State.closeSess_keeps
      | with_reducible apply State.endTransfers_keeps | dsimp only | split

theorem State.closeBy_keeps {r s : State} (h : Keeps r s) (i : ℕ) (d : Session) (reason : ℕ) :
    Keeps r (State.closeBy s i d reason) := by
  unfold State.closeBy
  repeat'
    first
      | with_reducible assumption | with_reducible apply State.closeSess_keeps
      | with_reducible apply State.peerPartLost_keeps | with_reducible apply State.applyLoss_keeps
      | with_reducible apply State.sessionRefused_keeps | dsimp only | split

theorem execCloseReceive_keeps {r s : State} (h : Keeps r s) (k : Pkt) :
    OutKeeps r (execCloseReceive k s) := by
  unfold execCloseReceive
  repeat'
    first
      | with_reducible assumption | with_reducible apply State.wokenBy_keeps
      | with_reducible apply State.settle_keeps | with_reducible refine State.checked_keeps ?_ _ ?_
      | with_reducible refine State.takeReliable_keeps ?_ _ (fun _ _ _ _ => ?_)
      | with_reducible apply State.closeBy_keeps | with_reducible apply OutKeeps.next | dsimp only | split

theorem State.creditAsked_keeps {r s : State} (h : Keeps r s) (i : ℕ) (d : Session) (k : Pkt) (dq : Qid) :
    Keeps r (State.creditAsked s i d k dq) := by
  unfold State.creditAsked
  repeat'
    first
      | with_reducible assumption | with_reducible apply State.setQueue_keeps
      | with_reducible apply State.sendCredit_keeps | with_reducible apply State.refuse_keeps | dsimp only | split

theorem State.creditGranted_keeps {r s : State} (h : Keeps r s) (i : ℕ) (k : Pkt) (dq : Qid) (n : ℕ) (slotb : ℕ) :
    Keeps r (State.creditGranted s i k dq n slotb) := by
  unfold State.creditGranted
  repeat'
    first
      | with_reducible assumption | with_reducible apply State.sendMsg_keeps
      | with_reducible refine Keeps.snd ‹_ = (_, _)› ?_ | with_reducible apply State.setSess_keeps | dsimp only
      | split

theorem execCreditReceive_keeps {r s : State} (h : Keeps r s) (k : Pkt) :
    OutKeeps r (execCreditReceive k s) := by
  unfold execCreditReceive
  repeat'
    first
      | with_reducible assumption | with_reducible apply State.settle_keeps
      | with_reducible refine State.takeReliable_keeps ?_ _ (fun _ _ _ _ => ?_)
      | with_reducible apply State.wokenBy_keeps | with_reducible apply State.creditAsked_keeps
      | with_reducible apply State.creditGranted_keeps | with_reducible apply OutKeeps.next | dsimp only | split

theorem execNoticeSkip_keeps {r s : State} (h : Keeps r s) (k : Pkt) :
    OutKeeps r (execNoticeSkip k s) := by
  unfold execNoticeSkip
  repeat'
    first
      | with_reducible assumption | with_reducible apply State.settle_keeps
      | with_reducible refine State.takeReliable_keeps ?_ _ (fun _ _ _ _ => ?_)
      | with_reducible apply State.wokenBy_keeps | with_reducible apply State.noteSkip_keeps
      | with_reducible apply OutKeeps.next | dsimp only | split

theorem execNoticeNorm_keeps {r s : State} (h : Keeps r s) (k : Pkt) :
    OutKeeps r (execNoticeNorm k s) := by
  unfold execNoticeNorm
  repeat'
    first
      | with_reducible assumption | with_reducible apply State.settle_keeps
      | with_reducible refine State.takeReliable_keeps ?_ _ (fun _ _ _ _ => ?_)
      | with_reducible apply State.wokenBy_keeps | with_reducible apply State.closeIfDone_keeps
      | with_reducible apply State.noteNorm_keeps | with_reducible apply OutKeeps.next | dsimp only | split

theorem execNoticePeerLost_keeps {r s : State} (h : Keeps r s) (k : Pkt) :
    OutKeeps r (execNoticePeerLost k s) := by
  unfold execNoticePeerLost
  repeat'
    first
      | with_reducible assumption | with_reducible apply State.settle_keeps
      | with_reducible refine State.takeReliable_keeps ?_ _ (fun _ _ _ _ => ?_)
      | with_reducible apply State.wokenBy_keeps | with_reducible apply State.declareLost_keeps
      | with_reducible apply OutKeeps.next | dsimp only | split

theorem execNoticeReady_keeps {r s : State} (h : Keeps r s) (k : Pkt) :
    OutKeeps r (execNoticeReady k s) := by
  unfold execNoticeReady
  repeat'
    first
      | with_reducible assumption | with_reducible apply State.settle_keeps
      | with_reducible refine State.takeReliable_keeps ?_ _ (fun _ _ _ _ => ?_)
      | with_reducible apply State.wokenBy_keeps | with_reducible apply State.modEng_keeps
      | with_reducible apply OutKeeps.next | dsimp only | split

end Sys2Proof.Machine
end

