-- ==== Sys2Proof/Laws/KeepsPorts.lean ====
section
/-! SUPPORT. What the functions of Sys2Proof/Machine/Ports.lean keep. -/

set_option linter.all false

namespace Sys2Proof.Machine

theorem State.takePortDown_keeps {r s : State} (h : Keeps r s) (p : PortId) (cause : DownCause) :
    Keeps r (State.takePortDown s p cause) := by
  unfold State.takePortDown
  repeat'
    first
      | with_reducible assumption | with_reducible apply State.logEvent_keeps
      | with_reducible apply State.setPort_keeps | with_reducible apply State.declareLost_keeps | dsimp only | split

theorem State.takePortsDown_keeps {r s : State} (h : Keeps r s) (cause : DownCause) (x3 : List PortId) :
    Keeps r (State.takePortsDown s cause x3) := by
  revert h
  fun_induction State.takePortsDown s cause x3
  all_goals intro h
  repeat'
    first
      | with_reducible assumption | with_reducible apply State.takePortDown_keeps | apply_assumption | dsimp only
      | dsimp +zetaDelta only | split

theorem execPortSignalDetect_keeps {r s : State} (h : Keeps r s) (p : PortId) :
    OutKeeps r (execPortSignalDetect p s) := by
  unfold execPortSignalDetect
  repeat'
    first
      | with_reducible assumption | with_reducible apply State.setPort_keeps | with_reducible apply OutKeeps.next
      | dsimp only | split

theorem execAutonegComplete_keeps {r s : State} (h : Keeps r s) (p : PortId) :
    OutKeeps r (execAutonegComplete p s) := by
  unfold execAutonegComplete
  repeat'
    first
      | with_reducible assumption | with_reducible apply State.setPort_keeps | with_reducible apply OutKeeps.next
      | dsimp only | split

theorem execLinkTrainingComplete_keeps {r s : State} (h : Keeps r s) (p : PortId) :
    OutKeeps r (execLinkTrainingComplete p s) := by
  unfold execLinkTrainingComplete
  repeat'
    first
      | with_reducible assumption | with_reducible apply State.setPort_keeps | with_reducible apply OutKeeps.next
      | dsimp only | split

theorem State.sendDlc_keeps {r s : State} (h : Keeps r s) (p : PortId) (type : BitVec 8) (seq : BitVec 16) (lanes : ℕ) (amc : BitVec 32) :
    Keeps r (State.sendDlc s p type seq lanes amc) := by
  unfold State.sendDlc
  repeat'
    first
      | with_reducible assumption | with_reducible apply State.queueFrame_keeps | dsimp only | split

theorem State.sendHello_keeps {r s : State} (h : Keeps r s) (p : PortId) :
    Keeps r (State.sendHello s p) := by
  unfold State.sendHello
  repeat'
    first
      | with_reducible assumption | with_reducible apply State.sendDlc_keeps | dsimp only | split

theorem State.sendDlcReq_keeps {r s : State} (h : Keeps r s) (p : PortId) (type : BitVec 8) (lanes : ℕ) :
    Keeps r (State.sendDlcReq s p type lanes).2 := by
  unfold State.sendDlcReq
  repeat'
    first
      | with_reducible assumption | with_reducible apply State.sendDlc_keeps
      | with_reducible apply State.modPort_keeps | dsimp only | split

theorem State.upSwitched_keeps {r s : State} (h : Keeps r s) (p : PortId) (noDirect : Bool) :
    Keeps r (State.upSwitched s p noDirect) := by
  unfold State.upSwitched
  repeat'
    first
      | with_reducible assumption | with_reducible apply State.logEvent_keeps
      | with_reducible apply State.modPort_keeps | dsimp only | split

theorem execPcsLock_keeps {r s : State} (h : Keeps r s) (p : PortId) :
    OutKeeps r (execPcsLock p s) := by
  unfold execPcsLock
  repeat'
    first
      | with_reducible assumption | with_reducible apply State.setPort_keeps
      | with_reducible apply State.settle_keeps | with_reducible apply State.sendHello_keeps
      | with_reducible apply State.upSwitched_keeps | with_reducible apply OutKeeps.next | dsimp only | split

theorem State.countFec_keeps {r s : State} (h : Keeps r s) (p : PortId) (cause : DownCause) :
    Keeps r (State.countFec s p cause) := by
  unfold State.countFec
  repeat'
    first
      | with_reducible assumption | with_reducible apply State.freeNext_keeps
      | with_reducible apply State.countSub_keeps | dsimp only | split

theorem execPortDown_keeps {r s : State} (h : Keeps r s) (p : PortId) (cause : DownCause) :
    OutKeeps r (execPortDown p cause s) := by
  unfold execPortDown
  repeat'
    first
      | with_reducible assumption | with_reducible apply State.settle_keeps
      | with_reducible apply State.takePortDown_keeps | with_reducible apply State.countFec_keeps
      | with_reducible apply OutKeeps.next | dsimp only | split

theorem State.takeHello_keeps {r s : State} (h : Keeps r s) (p : PortId) (d : Dlc) :
    Keeps r (State.takeHello s p d) := by
  unfold State.takeHello
  repeat'
    first
      | with_reducible assumption | with_reducible apply State.takePortDown_keeps
      | with_reducible apply State.setPort_keeps | with_reducible apply State.logEvent_keeps | dsimp only | split

theorem execHelloReceive_keeps {r s : State} (h : Keeps r s) (p : PortId) (d : Dlc) :
    OutKeeps r (execHelloReceive p d s) := by
  unfold execHelloReceive
  repeat'
    first
      | with_reducible assumption | with_reducible apply State.settle_keeps
      | with_reducible apply State.takeHello_keeps | with_reducible apply OutKeeps.next | dsimp only | split

theorem execHelloTimer_keeps {r s : State} (h : Keeps r s) (p : PortId) :
    OutKeeps r (execHelloTimer p s) := by
  unfold execHelloTimer
  repeat'
    first
      | with_reducible assumption | with_reducible apply State.sendHello_keeps | with_reducible apply OutKeeps.next
      | dsimp only | split

theorem execDirectTimeout_keeps {r s : State} (h : Keeps r s) (p : PortId) :
    OutKeeps r (execDirectTimeout p s) := by
  unfold execDirectTimeout
  repeat'
    first
      | with_reducible assumption | with_reducible apply State.logEvent_keeps
      | with_reducible apply State.advanceTo_keeps | with_reducible apply State.settle_keeps
      | with_reducible apply State.upSwitched_keeps | with_reducible apply OutKeeps.next | dsimp only | split

theorem execStepWindow_keeps {r s : State} (h : Keeps r s) (p : PortId) (sent : ℕ) (qb : ℕ) :
    OutKeeps r (execStepWindow p sent qb s) := by
  unfold execStepWindow
  repeat'
    first
      | with_reducible assumption | with_reducible apply State.setPort_keeps
      | with_reducible apply State.sendDlcReq_keeps | with_reducible refine Keeps.snd ‹_ = (_, _)› ?_
      | with_reducible apply State.modPort_keeps | with_reducible apply OutKeeps.next | dsimp only | split

theorem State.ackStep_keeps {r s : State} (h : Keeps r s) (p : PortId) (d : Dlc) :
    Keeps r (State.ackStep s p d) := by
  unfold State.ackStep
  repeat'
    first
      | with_reducible assumption | with_reducible apply State.sendDlc_keeps
      | with_reducible apply State.modPort_keeps | with_reducible apply State.freeNext_keeps | dsimp only | split

theorem State.takeStepReq_keeps {r s : State} (h : Keeps r s) (p : PortId) (d : Dlc) :
    Keeps r (State.takeStepReq s p d) := by
  unfold State.takeStepReq
  repeat'
    first
      | with_reducible assumption | with_reducible apply State.sendDlc_keeps
      | with_reducible apply State.ackStep_keeps | with_reducible apply State.modPort_keeps | dsimp only | split

theorem execStepReqReceive_keeps {r s : State} (h : Keeps r s) (p : PortId) (d : Dlc) :
    OutKeeps r (execStepReqReceive p d s) := by
  unfold execStepReqReceive
  repeat'
    first
      | with_reducible assumption | with_reducible apply State.takeStepReq_keeps
      | with_reducible apply OutKeeps.next | dsimp only | split

theorem State.takeStepAck_keeps {r s : State} (h : Keeps r s) (p : PortId) (d : Dlc) :
    Keeps r (State.takeStepAck s p d) := by
  unfold State.takeStepAck
  repeat'
    first
      | with_reducible assumption | with_reducible apply State.setPort_keeps | dsimp only | split

theorem execStepAckReceive_keeps {r s : State} (h : Keeps r s) (p : PortId) (d : Dlc) :
    OutKeeps r (execStepAckReceive p d s) := by
  unfold execStepAckReceive
  repeat'
    first
      | with_reducible assumption | with_reducible apply State.takeStepAck_keeps
      | with_reducible apply OutKeeps.next | dsimp only | split

theorem State.takeStepNak_keeps {r s : State} (h : Keeps r s) (p : PortId) (d : Dlc) :
    Keeps r (State.takeStepNak s p d) := by
  unfold State.takeStepNak
  repeat'
    first
      | with_reducible assumption | with_reducible apply State.setPort_keeps | dsimp only | split

theorem execStepNakReceive_keeps {r s : State} (h : Keeps r s) (p : PortId) (d : Dlc) :
    OutKeeps r (execStepNakReceive p d s) := by
  unfold execStepNakReceive
  repeat'
    first
      | with_reducible assumption | with_reducible apply State.takeStepNak_keeps
      | with_reducible apply OutKeeps.next | dsimp only | split

theorem execStepReqTimeout_keeps {r s : State} (h : Keeps r s) (p : PortId) :
    OutKeeps r (execStepReqTimeout p s) := by
  unfold execStepReqTimeout
  repeat'
    first
      | with_reducible assumption | with_reducible apply State.modPort_keeps | with_reducible apply OutKeeps.next
      | dsimp only | split

theorem execLaneSwitch_keeps {r s : State} (h : Keeps r s) (p : PortId) :
    OutKeeps r (execLaneSwitch p s) := by
  unfold execLaneSwitch
  repeat'
    first
      | with_reducible assumption | with_reducible apply State.countSub_keeps
      | with_reducible apply State.setPort_keeps | with_reducible apply OutKeeps.next | dsimp only | split

theorem State.askAdapt_keeps {r s : State} (h : Keeps r s) (p : PortId) (forced : Bool) :
    Keeps r (State.askAdapt s p forced) := by
  unfold State.askAdapt
  repeat'
    first
      | with_reducible assumption | with_reducible apply State.sendDlcReq_keeps
      | with_reducible refine Keeps.snd ‹_ = (_, _)› ?_ | with_reducible apply State.modPort_keeps | dsimp only
      | split

theorem execAdaptWindowDue_keeps {r s : State} (h : Keeps r s) (p : PortId) :
    OutKeeps r (execAdaptWindowDue p s) := by
  unfold execAdaptWindowDue
  repeat'
    first
      | with_reducible assumption | with_reducible apply State.askAdapt_keeps | with_reducible apply OutKeeps.next
      | dsimp only | split

theorem execAdaptFloorForced_keeps {r s : State} (h : Keeps r s) (p : PortId) :
    OutKeeps r (execAdaptFloorForced p s) := by
  unfold execAdaptFloorForced
  repeat'
    first
      | with_reducible assumption | with_reducible apply State.advanceTo_keeps
      | with_reducible apply State.askAdapt_keeps | with_reducible apply State.modPort_keeps
      | with_reducible apply OutKeeps.next | dsimp only | split

theorem State.askAgain_keeps {r s : State} (h : Keeps r s) (x2 : List PortId) :
    Keeps r (State.askAgain s x2) := by
  revert h
  fun_induction State.askAgain s x2
  all_goals intro h
  repeat'
    first
      | with_reducible assumption | with_reducible apply State.askAdapt_keeps
      | with_reducible apply State.modPort_keeps | apply_assumption | dsimp only | dsimp +zetaDelta only | split

theorem State.takeAdaptReq_keeps {r s : State} (h : Keeps r s) (p : PortId) (d : Dlc) :
    Keeps r (State.takeAdaptReq s p d) := by
  unfold State.takeAdaptReq
  repeat'
    first
      | with_reducible assumption | with_reducible apply State.sendDlc_keeps
      | with_reducible apply State.modPort_keeps | with_reducible apply State.freeNext_keeps | dsimp only | split

theorem execAdaptReqReceive_keeps {r s : State} (h : Keeps r s) (p : PortId) (d : Dlc) :
    OutKeeps r (execAdaptReqReceive p d s) := by
  unfold execAdaptReqReceive
  repeat'
    first
      | with_reducible assumption | with_reducible apply State.takeAdaptReq_keeps
      | with_reducible apply OutKeeps.next | dsimp only | split

theorem State.takeAdaptAck_keeps {r s : State} (h : Keeps r s) (p : PortId) (d : Dlc) :
    Keeps r (State.takeAdaptAck s p d) := by
  unfold State.takeAdaptAck
  repeat'
    first
      | with_reducible assumption | with_reducible apply State.setPort_keeps | dsimp only | split

theorem execAdaptAckReceive_keeps {r s : State} (h : Keeps r s) (p : PortId) (d : Dlc) :
    OutKeeps r (execAdaptAckReceive p d s) := by
  unfold execAdaptAckReceive
  repeat'
    first
      | with_reducible assumption | with_reducible apply State.takeAdaptAck_keeps
      | with_reducible apply OutKeeps.next | dsimp only | split

theorem execAdaptWindowEnd_keeps {r s : State} (h : Keeps r s) (p : PortId) (ns : ℕ) :
    OutKeeps r (execAdaptWindowEnd p ns s) := by
  unfold execAdaptWindowEnd
  repeat'
    first
      | with_reducible assumption | with_reducible apply State.setPort_keeps | with_reducible apply OutKeeps.next
      | dsimp only | split

theorem State.takeDlc_keeps {r s : State} (h : Keeps r s) (p : PortId) (type : ℕ) (d : Dlc) :
    Keeps r (State.takeDlc s p type d) := by
  unfold State.takeDlc
  repeat'
    first
      | with_reducible assumption | with_reducible apply State.takeHello_keeps
      | with_reducible apply State.takeStepReq_keeps | with_reducible apply State.takeStepAck_keeps
      | with_reducible apply State.takeStepNak_keeps | with_reducible apply State.takeAdaptReq_keeps
      | with_reducible apply State.takeAdaptAck_keeps | dsimp only | split

end Sys2Proof.Machine
end

