-- ==== Sys2Proof/Laws/KeepsPtp.lean ====
section
/-! SUPPORT. What the functions of Sys2Proof/Machine/Ptp.lean keep. -/

set_option linter.all false

namespace Sys2Proof.Machine

theorem State.sendPtp_keeps {r s : State} (h : Keeps r s) (p : PortId) (sub : SubId) (m : PtpTx) :
    Keeps r (State.sendPtp s p sub m) := by
  unfold State.sendPtp
  repeat'
    first
      | with_reducible assumption | with_reducible apply State.queueFrame_keeps | dsimp only | split

theorem State.modClock_keeps {r s : State} (h : Keeps r s) (f : PtpClock → PtpClock) :
    Keeps r (State.modClock s f) := by
  unfold State.modClock
  repeat'
    first
      | with_reducible assumption | with_reducible apply State.modReg_keeps | dsimp only | split

theorem State.delayResp_keeps {r s : State} (h : Keeps r s) (p : PortId) (sub : SubId) (rx : BitVec 64) (mac : ℕ) (ip : Option (Bool × ℕ)) (b : List Byte) :
    Keeps r (State.delayResp s p sub rx mac ip b) := by
  unfold State.delayResp
  repeat'
    first
      | with_reducible assumption | with_reducible apply State.sendPtp_keeps | dsimp only | split

theorem State.peerResp_keeps {r s : State} (h : Keeps r s) (p : PortId) (sub : SubId) (rx : BitVec 64) (mac : ℕ) (ip : Option (Bool × ℕ)) (b : List Byte) :
    Keeps r (State.peerResp s p sub rx mac ip b) := by
  unfold State.peerResp
  repeat'
    first
      | with_reducible assumption | with_reducible apply State.freeNext_keeps
      | with_reducible apply State.sendPtp_keeps | dsimp only | split

theorem State.ptpSent_keeps {r s : State} (h : Keeps r s) (p : PortId) (sub : SubId) (tx : BitVec 64) (f : TxFrame) :
    Keeps r (State.ptpSent s p sub tx f) := by
  unfold State.ptpSent
  repeat'
    first
      | with_reducible assumption | with_reducible apply State.modClock_keeps
      | with_reducible apply State.sendPtp_keeps | dsimp only | split

theorem State.takeSync_keeps {r s : State} (h : Keeps r s) (p : PortId) (sub : SubId) (rx : BitVec 64) (mac : ℕ) (ip : Option (Bool × ℕ)) (b : List Byte) :
    Keeps r (State.takeSync s p sub rx mac ip b) := by
  unfold State.takeSync
  repeat'
    first
      | with_reducible assumption | with_reducible apply State.modClock_keeps
      | with_reducible apply State.freeNext_keeps | with_reducible apply State.sendPtp_keeps | dsimp only | split

theorem State.takePtp_keeps {r s : State} (h : Keeps r s) (p : PortId) (sub : SubId) (rx : BitVec 64) (mac : ℕ) (ip : Option (Bool × ℕ)) (b : List Byte) :
    Keeps r (State.takePtp s p sub rx mac ip b) := by
  unfold State.takePtp
  repeat'
    first
      | with_reducible assumption | with_reducible apply State.takeSync_keeps
      | with_reducible apply State.delayResp_keeps | with_reducible apply State.peerResp_keeps
      | with_reducible apply State.modClock_keeps | dsimp only | split

end Sys2Proof.Machine
end

