-- ==== Sys2Proof/Laws/KeepsFrames.lean ====
section
/-! SUPPORT. What the functions of Sys2Proof/Machine/Frames.lean keep. -/

set_option linter.all false

namespace Sys2Proof.Machine

theorem afterOutcome_keeps {r s : State} {o : Host.Outcome State Fault Refusal} (h : Keeps r s) (e : OutKeeps r o) :
    Keeps r (afterOutcome s o) := by
  cases o with
  | next t => exact e
  | _ => exact h

theorem State.takeNotice_keeps {r s : State} (h : Keeps r s) (k : Pkt) :
    Keeps r (State.takeNotice s k) := by
  unfold State.takeNotice
  repeat'
    first
      | with_reducible assumption | with_reducible refine afterOutcome_keeps ?_ ?_
      | with_reducible apply execNoticeSkip_keeps | with_reducible apply execNoticeNorm_keeps
      | with_reducible apply execNoticePeerLost_keeps | with_reducible apply execNoticeReady_keeps
      | with_reducible refine State.takeReliable_keeps ?_ _ (fun _ _ _ _ => ?_) | with_reducible apply OutKeeps.next
      | dsimp only | split

theorem State.takePkt_keeps {r s : State} (h : Keeps r s) (k : Pkt) (addr : BitVec 128) :
    Keeps r (State.takePkt s k addr) := by
  unfold State.takePkt
  repeat'
    first
      | with_reducible assumption | with_reducible refine afterOutcome_keeps ?_ ?_
      | with_reducible apply execDataReceive_keeps | with_reducible apply execAckReceive_keeps
      | with_reducible apply execKeepaliveReceive_keeps | with_reducible apply execOpenReceive_keeps
      | with_reducible apply execOpenAckReceive_keeps | with_reducible apply execCloseReceive_keeps
      | with_reducible apply execCreditReceive_keeps | with_reducible apply State.takeNotice_keeps
      | with_reducible refine State.checked_keeps ?_ _ ?_ | dsimp only | split

theorem State.toTransport_keeps {r s : State} (h : Keeps r s) (p : PartId) (f : List Byte) (q : Parsed) :
    Keeps r (State.toTransport s p f q) := by
  unfold State.toTransport
  repeat'
    first
      | with_reducible assumption | with_reducible apply State.takePkt_keeps | dsimp only | split

theorem State.dropRxf_keeps {r s : State} (h : Keeps r s) (qid : Qid) :
    Keeps r (State.dropRxf s qid) := by
  unfold State.dropRxf
  repeat'
    first
      | with_reducible assumption | with_reducible apply State.setQueue_keeps | dsimp only | split

theorem State.rxfFault_keeps {r s : State} (h : Keeps r s) (q : Queue) (ok : Bool) :
    Keeps r (State.rxfFault s q ok) := by
  unfold State.rxfFault
  repeat'
    first
      | with_reducible assumption | with_reducible apply State.partFault_keeps | dsimp only | split

theorem State.frameItem_keeps {r s : State} (h : Keeps r s) (qid : Qid) (q : Queue) (at_ : BitVec 64) (f : List Byte) :
    Keeps r (State.frameItem s qid q at_ f) := by
  unfold State.frameItem
  repeat'
    first
      | with_reducible assumption | with_reducible apply State.writeQueue_keeps
      | with_reducible refine Keeps.snd ‹_ = (_, _)› ?_ | with_reducible apply State.rxfFault_keeps
      | with_reducible apply State.setQueue_keeps | with_reducible apply State.dropRxf_keeps | dsimp only | split

theorem State.imageSegment_keeps {r s : State} (h : Keeps r s) (p : PortId) (sub : SubId) (qid : Qid) (q : Queue) (i : Item) (ofs : ℕ) (d : List Byte) :
    Keeps r (State.imageSegment s p sub qid q i ofs d) := by
  unfold State.imageSegment
  repeat'
    first
      | with_reducible assumption | with_reducible apply State.countSub_keeps
      | with_reducible apply State.writeQueue_keeps | with_reducible refine Keeps.snd ‹_ = (_, _)› ?_
      | with_reducible apply State.rxfFault_keeps | with_reducible apply State.setQueue_keeps | dsimp only | split

theorem State.imageOpen_keeps {r s : State} (h : Keeps r s) (p : PortId) (sub : SubId) (qid : Qid) (at_ : BitVec 64) (item : ℕ) (ofs : ℕ) (total : ℕ) (d : List Byte) :
    Keeps r (State.imageOpen s p sub qid at_ item ofs total d) := by
  unfold State.imageOpen
  repeat'
    first
      | with_reducible assumption | with_reducible apply State.modEng_keeps
      | with_reducible apply State.dropRxf_keeps | with_reducible apply State.setQueue_keeps
      | with_reducible apply State.imageSegment_keeps | dsimp only | split

theorem State.imageFrame_keeps {r s : State} (h : Keeps r s) (p : PortId) (sub : SubId) (qid : Qid) (q : Queue) (at_ : BitVec 64) (f : List Byte) (z : Parsed) :
    Keeps r (State.imageFrame s p sub qid q at_ f z) := by
  unfold State.imageFrame
  repeat'
    first
      | with_reducible assumption | with_reducible apply State.dropRxf_keeps
      | with_reducible apply State.countSub_keeps | with_reducible apply State.imageSegment_keeps
      | with_reducible apply State.imageOpen_keeps | with_reducible apply State.setQueue_keeps | dsimp only | split

theorem State.frameIn_keeps {r s : State} (h : Keeps r s) (p : PortId) (sub : SubId) (qid : Qid) (asm : Bool) (at_ : BitVec 64) (f : List Byte) :
    Keeps r (State.frameIn s p sub qid asm at_ f) := by
  unfold State.frameIn
  repeat'
    first
      | with_reducible assumption | with_reducible apply State.hold_keeps
      | with_reducible apply State.imageFrame_keeps | with_reducible apply State.frameItem_keeps | dsimp only
      | split

theorem State.steer_keeps {r s : State} (h : Keeps r s) (p : PortId) (sub : SubId) (g : ℕ) (f : List Byte) (z : Parsed) :
    Keeps r (State.steer s p sub g f z) := by
  unfold State.steer
  repeat'
    first
      | with_reducible assumption | with_reducible apply State.frameIn_keeps
      | with_reducible apply State.wakeShallow_keeps | dsimp only | split

theorem State.dispose_keeps {r s : State} (h : Keeps r s) (p : PortId) (sub : SubId) (f : List Byte) (z : Parsed) :
    Keeps r (State.dispose s p sub f z) := by
  unfold State.dispose
  repeat'
    first
      | with_reducible assumption | with_reducible apply State.steer_keeps
      | with_reducible apply State.countSub_keeps | with_reducible apply State.toTransport_keeps | dsimp only
      | split | with_reducible apply Keeps.upd

theorem State.fwdDrop_keeps {r s : State} (h : Keeps r s) (p : PortId) (sub : SubId) :
    Keeps r (State.fwdDrop s p sub) := by
  unfold State.fwdDrop
  repeat'
    first
      | with_reducible assumption | with_reducible apply State.countSub_keeps | dsimp only | split

theorem State.passFrame_keeps {r s : State} (h : Keeps r s) (p : PortId) (e : PortId) (es : SubId) (f : List Byte) (pcp : ℕ) (need : ℕ) (stomped : Bool) :
    Keeps r (State.passFrame s p e es f pcp need stomped) := by
  unfold State.passFrame
  repeat'
    first
      | with_reducible assumption | with_reducible apply State.queueFrame_keeps
      | with_reducible apply State.modPort_keeps | dsimp only | split

theorem State.forward_keeps {r s : State} (h : Keeps r s) (p : PortId) (sub : SubId) (e : PortId) (es : SubId) (f : List Byte) (pcp : ℕ) :
    Keeps r (State.forward s p sub e es f pcp) := by
  unfold State.forward
  repeat'
    first
      | with_reducible assumption | with_reducible apply State.fwdDrop_keeps
      | with_reducible apply State.passFrame_keeps | dsimp only | split

theorem State.crossbar_keeps {r s t : State} {p : PortId} {sub : SubId} {mid : ℕ} {f : List Byte} {pcp : ℕ} (e : State.crossbar s p sub mid f pcp = some t) (h : Keeps r s) : Keeps r t := by
  revert e
  unfold State.crossbar
  repeat'
    first
      | with_reducible assumption | with_reducible apply State.forward_keeps
      | with_reducible apply State.fwdDrop_keeps | (intro e; cases e) | dsimp only | split

theorem State.stompCopy_keeps {r s : State} (h : Keeps r s) (p : PortId) (sub : SubId) (mid : ℕ) (f : List Byte) (pcp : ℕ) :
    Keeps r (State.stompCopy s p sub mid f pcp) := by
  unfold State.stompCopy
  repeat'
    first
      | with_reducible assumption | with_reducible apply State.countSub_keeps
      | with_reducible apply State.passFrame_keeps | dsimp only | split

theorem State.ownFrame_keeps {r s : State} (h : Keeps r s) (p : PortId) (sub : SubId) (f : List Byte) (z : Parsed) :
    Keeps r (State.ownFrame s p sub f z) := by
  unfold State.ownFrame
  repeat'
    first
      | with_reducible assumption | with_reducible apply State.takeDlc_keeps
      | with_reducible apply State.takePtp_keeps | with_reducible apply State.modReg_keeps
      | with_reducible apply State.dispose_keeps | dsimp only | split

theorem State.countRx_keeps {r s : State} (h : Keeps r s) (p : PortId) (sub : SubId) (f : List Byte) (z : Parsed) :
    Keeps r (State.countRx s p sub f z) := by
  unfold State.countRx
  repeat'
    first
      | with_reducible assumption | with_reducible apply State.countSub_keeps | dsimp only | split

theorem State.takeFrame_keeps {r s : State} (h : Keeps r s) (p : PortId) (sub : SubId) (f : List Byte) (fcsOk : Bool) :
    Keeps r (State.takeFrame s p sub f fcsOk) := by
  unfold State.takeFrame
  repeat'
    first
      | with_reducible assumption | with_reducible apply State.countSub_keeps
      | with_reducible apply State.stompCopy_keeps | with_reducible apply State.countRx_keeps
      | with_reducible refine State.crossbar_keeps (by assumption) ?_ | with_reducible apply State.ownFrame_keeps
      | with_reducible refine Keeps.getD (fun _ e => State.crossbar_keeps e ?_) ?_ | dsimp only | split

theorem execFrameReceive_keeps {r s : State} (h : Keeps r s) (p : PortId) (sub : SubId) (frame : List Byte) (fcsOk : Bool) :
    OutKeeps r (execFrameReceive p sub frame fcsOk s) := by
  unfold execFrameReceive
  repeat'
    first
      | with_reducible assumption | with_reducible apply State.settle_keeps
      | with_reducible apply State.takeFrame_keeps | with_reducible apply OutKeeps.next | dsimp only | split

theorem execAssemblyTimeout_keeps {r s : State} (h : Keeps r s) (q : Qid) :
    OutKeeps r (execAssemblyTimeout q s) := by
  unfold execAssemblyTimeout
  repeat'
    first
      | with_reducible assumption | with_reducible apply State.settle_keeps
      | with_reducible apply State.setQueue_keeps | with_reducible apply State.advanceTo_keeps
      | with_reducible apply OutKeeps.next | dsimp only | split

theorem State.countTx_keeps {r s : State} (h : Keeps r s) (p : PortId) (sub : SubId) (f : TxFrame) :
    Keeps r (State.countTx s p sub f) := by
  unfold State.countTx
  repeat'
    first
      | with_reducible assumption | with_reducible apply State.countSub_keeps | dsimp only | split

theorem State.sendFrame_keeps {r s : State} (h : Keeps r s) (p : PortId) (sub : SubId) (f : TxFrame) :
    Keeps r (State.sendFrame s p sub f) := by
  unfold State.sendFrame
  repeat'
    first
      | with_reducible assumption | with_reducible apply State.modSub_keeps
      | with_reducible apply State.ptpSent_keeps | with_reducible apply State.countTx_keeps
      | with_reducible apply State.useShare_keeps | with_reducible apply State.modPort_keeps | dsimp only | split

theorem execFrameTransmit_keeps {r s : State} (h : Keeps r s) (p : PortId) (sub : SubId) :
    OutKeeps r (execFrameTransmit p sub s) := by
  unfold execFrameTransmit
  repeat'
    first
      | with_reducible assumption | with_reducible apply State.sendFrame_keeps | with_reducible apply OutKeeps.next
      | dsimp only | split

end Sys2Proof.Machine
end

