-- ==== Sys2Proof/Laws/KeepsMp.lean ====
section
/-! SUPPORT. What the functions of Sys2Proof/Machine/Mp.lean keep. -/

set_option linter.all false

namespace Sys2Proof.Machine

theorem State.announce_keeps {r s : State} (h : Keeps r s)  :
    Keeps r (State.announce s) := by
  unfold State.announce
  repeat'
    first
      | with_reducible assumption | with_reducible apply State.modReg_keeps
      | with_reducible apply State.mpSend_keeps | dsimp only | split

theorem execAnnounceTimer_keeps {r s : State} (h : Keeps r s)  :
    OutKeeps r (execAnnounceTimer s) := by
  unfold execAnnounceTimer
  repeat'
    first
      | with_reducible assumption | with_reducible apply State.announce_keeps | with_reducible apply OutKeeps.next
      | dsimp only | split

theorem State.takeAnnounce_keeps {r s : State} (h : Keeps r s) (a : Announce) :
    Keeps r (State.takeAnnounce s a) := by
  unfold State.takeAnnounce
  repeat'
    first
      | with_reducible assumption | with_reducible apply State.logEvent_keeps
      | with_reducible apply State.modReg_keeps | dsimp only | split

theorem execAnnounceReceive_keeps {r s : State} (h : Keeps r s) (a : Announce) :
    OutKeeps r (execAnnounceReceive a s) := by
  unfold execAnnounceReceive
  repeat'
    first
      | with_reducible assumption | with_reducible apply State.takeAnnounce_keeps
      | with_reducible apply OutKeeps.next | dsimp only | split

theorem execAnnounceAbsence_keeps {r s : State} (h : Keeps r s) (m : BitVec 14) :
    OutKeeps r (execAnnounceAbsence m s) := by
  unfold execAnnounceAbsence
  repeat'
    first
      | with_reducible assumption | with_reducible apply State.modReg_keeps
      | with_reducible apply State.settle_keeps | with_reducible apply State.declareLost_keeps
      | with_reducible apply OutKeeps.next | dsimp only | split

theorem execMpCollision_keeps {r s : State} (h : Keeps r s)  :
    OutKeeps r (execMpCollision s) := by
  unfold execMpCollision
  repeat'
    first
      | with_reducible assumption | with_reducible apply State.mpOutTick_keeps
      | with_reducible apply State.modReg_keeps | with_reducible apply State.freeNext_keeps
      | with_reducible apply OutKeeps.next | dsimp only | split

theorem execMpBackoffEnd_keeps {r s : State} (h : Keeps r s)  :
    OutKeeps r (execMpBackoffEnd s) := by
  unfold execMpBackoffEnd
  repeat'
    first
      | with_reducible assumption | with_reducible apply State.modReg_keeps | with_reducible apply OutKeeps.next
      | dsimp only | split

theorem State.takeSegment_keeps {r s : State} (h : Keeps r s) (g : MpSegment) :
    Keeps r (State.takeSegment s g) := by
  unfold State.takeSegment
  repeat'
    first
      | with_reducible assumption | with_reducible apply State.deliverRequest_keeps
      | with_reducible apply State.modMb_keeps | dsimp only | split

theorem execMpRequestTimeout_keeps {r s : State} (h : Keeps r s) (mb : MbId) :
    OutKeeps r (execMpRequestTimeout mb s) := by
  unfold execMpRequestTimeout
  repeat'
    first
      | with_reducible assumption | with_reducible apply State.modMb_keeps | with_reducible apply OutKeeps.next
      | dsimp only | split

theorem execMbDoorbell_keeps {r s : State} (h : Keeps r s) (mb : MbId) (seq : BitVec 16) :
    OutKeeps r (execMbDoorbell mb seq s) := by
  unfold execMbDoorbell
  repeat'
    first
      | with_reducible assumption | with_reducible apply State.settle_keeps
      | with_reducible apply State.ringDoorbell_keeps | with_reducible apply OutKeeps.next | dsimp only | split

theorem execHostMessage_keeps {r s : State} (h : Keeps r s) (m : HostMsg) :
    OutKeeps r (execHostMessage m s) := by
  unfold execHostMessage
  repeat'
    first
      | with_reducible assumption | with_reducible apply State.settle_keeps
      | with_reducible apply State.takeHostMessage_keeps | with_reducible apply OutKeeps.next | dsimp only | split

end Sys2Proof.Machine
end

