-- ==== Sys2Proof/Laws/KeepsReset.lean ====
section
/-! SUPPORT. What the functions of Sys2Proof/Machine/Reset.lean keep. -/

set_option linter.all false

namespace Sys2Proof.Machine

theorem State.loseHbm_keeps {r s : State} (h : Keeps r s) : Keeps r s.loseHbm := Keeps.updAll rfl (fun _ => rfl) id h

theorem Core.afterReset_ok (k : Core) : k.afterReset.mem.Ok := ⟨rfl, rfl⟩

theorem State.resetGroups_keeps {r s : State} (h : Keeps r s) : Keeps r s.resetGroups :=
  Keeps.updAll rfl id (coresMap_ok fun k _ => k.afterReset_ok) h

theorem State.beginStart_keeps {r s : State} (h : Keeps r s) (kind : StartKind) (held : Bool) :
    Keeps r (State.beginStart s kind held) := by
  unfold State.beginStart
  repeat'
    first
      | with_reducible assumption | with_reducible apply State.modAon_keeps | with_reducible rfl | rfl | dsimp only
      | split

theorem State.loseTraining_keeps {r s : State} (h : Keeps r s)  :
    Keeps r (State.loseTraining s) := by
  unfold State.loseTraining
  repeat'
    first
      | with_reducible assumption | with_reducible apply State.modAon_keeps
      | with_reducible apply State.loseHbm_keeps | with_reducible rfl | rfl | dsimp only | split

theorem State.moduleReset_keeps {r s : State} (h : Keeps r s) (cause : BitVec 8) (kind : StartKind) (held : Bool) :
    Keeps r (State.moduleReset s cause kind held) := by
  unfold State.moduleReset
  repeat'
    first
      | with_reducible assumption | with_reducible apply State.beginStart_keeps
      | with_reducible apply State.resetGroups_keeps | with_reducible apply State.modAon_keeps
      | with_reducible apply State.loseTraining_keeps | with_reducible rfl | rfl | dsimp only | split

theorem State.fatalError_keeps {r s : State} (h : Keeps r s) (c : FatalCause) :
    Keeps r (State.fatalError s c) := by
  unfold State.fatalError
  repeat'
    first
      | with_reducible assumption | with_reducible apply State.moduleReset_keeps
      | with_reducible apply State.modAon_keeps | with_reducible rfl | rfl | dsimp only | split

theorem execFatalError_keeps {r s : State} (h : Keeps r s) (cause : FatalCause) :
    OutKeeps r (execFatalError cause s) := by
  unfold execFatalError
  repeat'
    first
      | with_reducible assumption | with_reducible apply State.settle_keeps
      | with_reducible apply State.fatalError_keeps | with_reducible apply OutKeeps.next | dsimp only | split

theorem execWatchdogExpiry_keeps {r s : State} (h : Keeps r s) (_control : Fin 2) :
    OutKeeps r (execWatchdogExpiry _control s) := by
  unfold execWatchdogExpiry
  repeat'
    first
      | with_reducible assumption | with_reducible apply State.settle_keeps
      | with_reducible apply State.moduleReset_keeps | with_reducible apply State.modAon_keeps
      | with_reducible apply OutKeeps.next | with_reducible rfl | rfl | dsimp only | split

theorem execMrstNRelease_keeps {r s : State} (h : Keeps r s)  :
    OutKeeps r (execMrstNRelease s) := by
  unfold execMrstNRelease
  repeat'
    first
      | with_reducible assumption | with_reducible apply State.modPins_keeps
      | with_reducible apply State.modAon_keeps | with_reducible apply OutKeeps.next | with_reducible rfl | rfl
      | dsimp only | split

theorem execMrstNLong_keeps {r s : State} (h : Keeps r s)  :
    OutKeeps r (execMrstNLong s) := by
  unfold execMrstNLong
  repeat'
    first
      | with_reducible assumption | with_reducible apply State.modAon_keeps
      | with_reducible apply State.loseTraining_keeps | with_reducible apply OutKeeps.next | with_reducible rfl
      | rfl | dsimp only | split

theorem execSelfRefreshTimeout_keeps {r s : State} (h : Keeps r s) (stack : StackId) :
    OutKeeps r (execSelfRefreshTimeout stack s) := by
  unfold execSelfRefreshTimeout
  repeat'
    first
      | with_reducible assumption | with_reducible apply State.modStack_keeps
      | with_reducible apply State.loseTraining_keeps | with_reducible apply OutKeeps.next | dsimp only | split

theorem State.applyCfg_keeps {r s : State} (h : Keeps r s) (b : List Byte) :
    Keeps r (State.applyCfg s b) := by
  unfold State.applyCfg
  repeat'
    first
      | with_reducible assumption | with_reducible apply State.modReg_keeps
      | with_reducible refine Keeps.foldl (fun _ _ _ => ?_) ?_ | dsimp only | split | with_reducible apply Keeps.upd

theorem State.loadIds_keeps {r s : State} (h : Keeps r s)  :
    Keeps r (State.loadIds s) := by
  unfold State.loadIds
  repeat'
    first
      | with_reducible assumption | with_reducible apply State.modReg_keeps | dsimp only | split

theorem State.loadCfg_keeps {r s : State} (h : Keeps r s)  :
    Keeps r (State.loadCfg s) := by
  unfold State.loadCfg
  repeat'
    first
      | with_reducible assumption | with_reducible apply State.applyCfg_keeps
      | with_reducible apply State.logEvent_keeps | dsimp only | split

theorem State.loadCal_keeps {r s : State} (h : Keeps r s)  :
    Keeps r (State.loadCal s) := by
  unfold State.loadCal
  repeat'
    first
      | with_reducible assumption | with_reducible apply State.modReg_keeps
      | with_reducible apply State.logEvent_keeps | dsimp only | split

end Sys2Proof.Machine
end

