-- ==== Sys2Proof/Laws/KeepsBoot.lean ====
section
/-! SUPPORT. What the functions of Sys2Proof/Machine/Boot.lean keep. -/

set_option linter.all false

namespace Sys2Proof.Machine

theorem State.trySlots_keeps {r s : State} (h : Keeps r s) (bs : List Bool) : Keeps r (State.trySlots s bs).2 := by
  induction bs generalizing s with
  | nil => exact h
  | cons b t ih =>
    rw [State.trySlots]
    have h1 : Keeps r ((if s.verifySlot b = 1 ∨ s.verifySlot b = 7 then
        s.modReg fun g => { g with image := some (imgEntry (s.flash.slot b), imgBody (s.flash.slot b)) } else s).modAon fun a =>
          if b then { a with haltB := BitVec.ofNat 4 (s.verifySlot b) } else { a with haltA := BitVec.ofNat 4 (s.verifySlot b) }) := by
      refine State.modAon_keeps ?_ (Keeps.ite (State.modReg_keeps h) h)
      split <;> rfl
    split
    · exact h1
    · exact ih h1

theorem State.releaseRegulator_keeps {r s : State} (h : Keeps r s)  :
    Keeps r (State.releaseRegulator s) := by
  unfold State.releaseRegulator
  repeat'
    first
      | with_reducible assumption | with_reducible apply State.modAon_keeps
      | with_reducible apply State.trySlots_keeps | with_reducible refine Keeps.snd ‹_ = (_, _)› ?_
      | with_reducible apply State.modReg_keeps | with_reducible apply State.announce_keeps
      | with_reducible apply State.loadCal_keeps | with_reducible apply State.loadCfg_keeps
      | with_reducible apply State.loadIds_keeps | with_reducible rfl | rfl | dsimp only | split

theorem State.releaseNext_keeps {r s : State} (h : Keeps r s) : Keeps r (State.releaseNext s) := by
  have h1 := State.modAon_keeps (f := fun a => { a with group := a.group + 1 }) rfl h
  unfold State.releaseNext
  dsimp only
  split
  · exact State.releaseRegulator_keeps h
  · exact Keeps.upd h1
  · exact Keeps.updAll rfl id (coresMap_ok fun k _ => k.afterReset_ok) h1
  · exact Keeps.upd h1
  · exact h1
  · exact h1
  · exact h

theorem execGroupRelease_keeps {r s : State} (h : Keeps r s)  :
    OutKeeps r (execGroupRelease s) := by
  unfold execGroupRelease
  repeat'
    first
      | with_reducible assumption | with_reducible apply State.settle_keeps
      | with_reducible apply State.releaseNext_keeps | with_reducible apply OutKeeps.next | dsimp only | split

theorem State.hbmFailed_keeps {r s : State} (h : Keeps r s) (x2 : StackId) :
    Keeps r (State.hbmFailed s x2) := by
  unfold State.hbmFailed
  repeat'
    first
      | with_reducible assumption | with_reducible apply State.logEvent_keeps
      | with_reducible apply State.modAon_keeps | with_reducible rfl | rfl | dsimp only | split

theorem execHbmTrainingComplete_keeps {r s : State} (h : Keeps r s) (failed : Option StackId) :
    OutKeeps r (execHbmTrainingComplete failed s) := by
  unfold execHbmTrainingComplete
  repeat'
    first
      | with_reducible assumption | with_reducible apply State.hbmFailed_keeps
      | with_reducible apply State.modAon_keeps | with_reducible apply OutKeeps.next | with_reducible rfl | rfl
      | dsimp only | split

theorem execHbmSelfTestComplete_keeps {r s : State} (h : Keeps r s) (failed : Option StackId) :
    OutKeeps r (execHbmSelfTestComplete failed s) := by
  unfold execHbmSelfTestComplete
  split
  · split
    · exact State.hbmFailed_keeps h _
    · exact Keeps.updAll rfl (fun _ => rfl) id
        (State.modAon_keeps (f := fun a => { a with hbmTested := true, retained := true }) rfl h)
  · exact h

theorem execWarmTrainingCheck_keeps {r s : State} (h : Keeps r s) (ok : Bool) (temps : List (BitVec 32)) :
    OutKeeps r (execWarmTrainingCheck ok temps s) := by
  unfold execWarmTrainingCheck
  repeat'
    first
      | with_reducible assumption | with_reducible apply State.loseTraining_keeps
      | with_reducible apply State.modAon_keeps | with_reducible apply State.logEvent_keeps
      | with_reducible apply OutKeeps.next | with_reducible rfl | rfl | dsimp only | split

theorem State.readyLog_keeps {r s : State} (h : Keeps r s)  :
    Keeps r (State.readyLog s) := by
  unfold State.readyLog
  repeat'
    first
      | with_reducible assumption | with_reducible apply State.logEvent_keeps
      | with_reducible apply State.modAon_keeps | with_reducible rfl | rfl | dsimp only | split

theorem State.readyShutdown_keeps {r s : State} (h : Keeps r s)  :
    Keeps r (State.readyShutdown s) := by
  unfold State.readyShutdown
  repeat'
    first
      | with_reducible assumption | with_reducible apply State.logEvent_keeps | dsimp only | split
      | with_reducible apply Keeps.upd

theorem State.faultAll_keeps {r s : State} (h : Keeps r s) (cause : ℕ) (x3 : List PartId) :
    Keeps r (State.faultAll s cause x3) := by
  revert h
  fun_induction State.faultAll s cause x3
  all_goals intro h
  repeat'
    first
      | with_reducible assumption | with_reducible apply State.partFault_keeps | apply_assumption | dsimp only
      | dsimp +zetaDelta only | split

theorem State.beginQuiesce_keeps {r s : State} (h : Keeps r s) : Keeps r (State.beginQuiesce s) := by
  have h1 := State.logEvent_keeps (State.modAon_keeps (f := fun a => { a with quiescing := some s.aon.time }) rfl h) evRmvReq 53 srcNone []
  unfold State.beginQuiesce
  dsimp only
  split
  · exact State.faultAll_keeps h1 _ _
  · exact Keeps.updAll rfl id id (State.resetGroups_keeps h1)

theorem execRmvReq_keeps {r s : State} (h : Keeps r s) (lowUs : ℕ) :
    OutKeeps r (execRmvReq lowUs s) := by
  unfold execRmvReq
  repeat'
    first
      | with_reducible assumption | with_reducible apply State.settle_keeps
      | with_reducible apply State.beginQuiesce_keeps | with_reducible apply State.freeNext_keeps
      | with_reducible apply OutKeeps.next | dsimp only | split

theorem execQuiesced_keeps {r s : State} (h : Keeps r s) : OutKeeps r (execQuiesced s) := by
  unfold execQuiesced
  split
  · exact h
  · split
    · have h1 := State.takePortsDown_keeps h .removal allPorts
      exact State.settle_keeps (State.announce_keeps (State.logEvent_keeps (Keeps.upd
        (State.modAon_keeps (f := fun a => { a with mstate := .quiesced, quiescing := none }) rfl h1)) _ _ _ _))
    · exact h

end Sys2Proof.Machine
end

