-- ==== Sys2Proof/Laws/KeepsPower.lean ====
section
/-! SUPPORT. What the functions of Sys2Proof/Machine/Power.lean keep. -/

set_option linter.all false

namespace Sys2Proof.Machine

theorem State.heatStacks_keeps {r s : State} (h : Keeps r s) (x2 : List Reading) :
    Keeps r (State.heatStacks s x2) := by
  revert h
  fun_induction State.heatStacks s x2
  all_goals intro h
  repeat'
    first
      | with_reducible assumption | with_reducible apply State.logEvent_keeps
      | with_reducible apply State.modStack_keeps | apply_assumption | dsimp only | dsimp +zetaDelta only | split

theorem State.logLevels_keeps {r s : State} (h : Keeps r s) (code : ℕ) (cause : ℕ) :
    Keeps r (State.logLevels s code cause) := by
  unfold State.logLevels
  repeat'
    first
      | with_reducible assumption | with_reducible apply State.logEvent_keeps | dsimp only | split

theorem State.reduceLevel_keeps {r s : State} (h : Keeps r s) (code : ℕ) (cause : ℕ) :
    Keeps r (State.reduceLevel s code cause) := by
  unfold State.reduceLevel
  repeat'
    first
      | with_reducible assumption | with_reducible apply State.logLevels_keeps
      | with_reducible apply State.modReg_keeps | dsimp only | split

theorem State.releaseLevel_keeps {r s : State} (h : Keeps r s)  :
    Keeps r (State.releaseLevel s) := by
  unfold State.releaseLevel
  repeat'
    first
      | with_reducible assumption | with_reducible apply State.logLevels_keeps
      | with_reducible apply State.modReg_keeps | dsimp only | split

theorem State.loopStep_keeps {r s : State} (h : Keeps r s) (rs : List Reading) :
    Keeps r (State.loopStep s rs) := by
  unfold State.loopStep
  repeat'
    first
      | with_reducible assumption | with_reducible apply State.reduceLevel_keeps
      | with_reducible apply State.modReg_keeps | with_reducible apply State.releaseLevel_keeps | dsimp only | split

theorem execControlLoopTick_keeps {r s : State} (h : Keeps r s) (readings : List Reading) :
    OutKeeps r (execControlLoopTick readings s) := by
  unfold execControlLoopTick
  repeat'
    first
      | with_reducible assumption | with_reducible apply State.heatStacks_keeps
      | with_reducible apply State.settle_keeps | with_reducible apply State.retarget_keeps
      | with_reducible apply State.loopStep_keeps | with_reducible apply OutKeeps.next | dsimp only | split

theorem execThermCrit_keeps {r s : State} (h : Keeps r s) (x1 : Reading) :
    OutKeeps r (execThermCrit x1 s) := by
  unfold execThermCrit
  repeat'
    first
      | with_reducible assumption | with_reducible apply State.settle_keeps
      | with_reducible apply State.retarget_keeps | with_reducible apply State.logEvent_keeps
      | with_reducible apply State.modAon_keeps | with_reducible apply OutKeeps.next | with_reducible rfl | rfl
      | dsimp only | split

theorem execThermCritRelease_keeps {r s : State} (h : Keeps r s) (readings : List Reading) :
    OutKeeps r (execThermCritRelease readings s) := by
  unfold execThermCritRelease
  repeat'
    first
      | with_reducible assumption | with_reducible apply State.settle_keeps
      | with_reducible apply State.retarget_keeps | with_reducible apply State.modReg_keeps
      | with_reducible apply State.modAon_keeps | with_reducible apply OutKeeps.next | with_reducible rfl | rfl
      | dsimp only | split

theorem execLevelChangeComplete_keeps {r s : State} (h : Keeps r s) (isl : BitVec 8) :
    OutKeeps r (execLevelChangeComplete isl s) := by
  unfold execLevelChangeComplete
  repeat'
    first
      | with_reducible assumption | with_reducible apply State.settle_keeps
      | with_reducible apply State.retarget_keeps | with_reducible apply State.modCore_keeps
      | with_reducible apply State.modReg_keeps | with_reducible apply OutKeeps.next | (intro k; exact k)
      | (intro k; exact ⟨(CoreMem.setLanes_ok _ _ k).1, (CoreMem.setLanes_ok _ _ k).2⟩) | dsimp only | split

theorem execTelemetrySample_keeps {r s : State} (h : Keeps r s) (readings : List Reading) :
    OutKeeps r (execTelemetrySample readings s) := by
  unfold execTelemetrySample
  repeat'
    first
      | with_reducible assumption | with_reducible apply State.modAon_keeps
      | with_reducible refine Keeps.foldl (fun _ _ _ => ?_) ?_ | with_reducible apply OutKeeps.next
      | with_reducible rfl | rfl | dsimp only | split

theorem State.wakeRetraining_keeps {r s : State} (h : Keeps r s)  :
    Keeps r (State.wakeRetraining s) := by
  unfold State.wakeRetraining
  repeat'
    first
      | with_reducible assumption | with_reducible apply State.modAon_keeps
      | with_reducible apply State.moduleReset_keeps | with_reducible rfl | rfl | dsimp only | split

theorem State.wakeFrom_keeps {r s : State} (h : Keeps r s) (st : MState) :
    Keeps r (State.wakeFrom s st) := by
  unfold State.wakeFrom
  repeat'
    first
      | with_reducible assumption | with_reducible apply State.logEvent_keeps
      | with_reducible apply State.modAon_keeps | with_reducible apply State.wakeRetraining_keeps
      | with_reducible apply State.clearWoken_keeps | with_reducible rfl | rfl | dsimp only | split
      | with_reducible apply Keeps.upd

theorem execWake_keeps {r s : State} (h : Keeps r s) (e : WakeEvent) :
    OutKeeps r (execWake e s) := by
  unfold execWake
  repeat'
    first
      | with_reducible assumption | with_reducible apply State.settle_keeps
      | with_reducible apply State.wakeFrom_keeps | with_reducible apply OutKeeps.next | dsimp only | split

theorem execMpRequestSegment_keeps {r s : State} (h : Keeps r s) (g : MpSegment) :
    OutKeeps r (execMpRequestSegment g s) := by
  unfold execMpRequestSegment
  repeat'
    first
      | with_reducible assumption | with_reducible apply State.wakeFrom_keeps
      | with_reducible apply State.settle_keeps | with_reducible apply State.takeSegment_keeps
      | with_reducible apply OutKeeps.next | dsimp only | split

theorem execMrstNAssert_keeps {r s : State} (h : Keeps r s) (lowNs : ℕ) :
    OutKeeps r (execMrstNAssert lowNs s) := by
  unfold execMrstNAssert
  repeat'
    first
      | with_reducible assumption | with_reducible apply State.freeNext_keeps
      | with_reducible apply State.modPins_keeps | with_reducible apply State.settle_keeps
      | with_reducible apply State.modAon_keeps | with_reducible apply State.wakeFrom_keeps
      | with_reducible apply State.moduleReset_keeps | with_reducible apply OutKeeps.next | with_reducible rfl | rfl
      | dsimp only | split

theorem State.scrubUes_keeps {r s : State} (h : Keeps r s) (x2 : List ℕ) :
    Keeps r (State.scrubUes s x2) := by
  revert h
  fun_induction State.scrubUes s x2
  all_goals intro h
  repeat'
    first
      | with_reducible assumption | with_reducible apply State.logUe_keeps | apply_assumption | dsimp only
      | dsimp +zetaDelta only | split

theorem State.scrubPcs_keeps {r s : State} (h : Keeps r s) (k : StackId) (pcs : List ℕ) :
    Keeps r (State.scrubPcs s k pcs) := by
  unfold State.scrubPcs
  repeat'
    first
      | with_reducible assumption | with_reducible apply State.modStack_keeps
      | with_reducible apply State.scrubUes_keeps | with_reducible apply State.clearWords_keeps
      | with_reducible apply State.countWords_keeps | with_reducible apply State.fatalError_keeps | dsimp only
      | split

theorem State.scrubIdle_keeps {r s : State} (h : Keeps r s) (k : StackId) :
    Keeps r (State.scrubIdle s k) := by
  unfold State.scrubIdle
  repeat'
    first
      | with_reducible assumption | with_reducible apply State.scrubPcs_keeps | dsimp only | split

theorem execScrubSlotDue_keeps {r s : State} (h : Keeps r s) (stack : StackId) :
    OutKeeps r (execScrubSlotDue stack s) := by
  unfold execScrubSlotDue
  repeat'
    first
      | with_reducible assumption | with_reducible apply State.settle_keeps
      | with_reducible apply State.scrubIdle_keeps | with_reducible apply State.modStack_keeps
      | with_reducible apply OutKeeps.next | dsimp only | split

theorem execScrubFloor_keeps {r s : State} (h : Keeps r s) (stack : StackId) (ns : ℕ) :
    OutKeeps r (execScrubFloor stack ns s) := by
  unfold execScrubFloor
  repeat'
    first
      | with_reducible assumption | with_reducible apply State.advanceTo_keeps
      | with_reducible apply State.settle_keeps | with_reducible apply State.scrubPcs_keeps
      | with_reducible apply State.countStack_keeps | with_reducible apply OutKeeps.next | dsimp only | split

theorem State.scrubTicks_keeps {r s : State} (h : Keeps r s) (x2 : List StackId) :
    Keeps r (State.scrubTicks s x2) := by
  revert h
  fun_induction State.scrubTicks s x2
  all_goals intro h
  repeat'
    first
      | with_reducible assumption | with_reducible apply State.scrubIdle_keeps | apply_assumption | dsimp only
      | dsimp +zetaDelta only | split

theorem execStackTemperatureCrossing_keeps {r s : State} (h : Keeps r s) (stack : StackId) (above : Bool) :
    OutKeeps r (execStackTemperatureCrossing stack above s) := by
  unfold execStackTemperatureCrossing
  repeat'
    first
      | with_reducible assumption | with_reducible apply State.modStack_keeps | with_reducible apply OutKeeps.next
      | dsimp only | split

theorem execGpioSecondPulse_keeps {r s : State} (h : Keeps r s) (high : Bool) :
    OutKeeps r (execGpioSecondPulse high s) := by
  unfold execGpioSecondPulse
  repeat'
    first
      | with_reducible assumption | with_reducible apply State.advanceTo_keeps | with_reducible apply OutKeeps.next
      | dsimp only | split

theorem State.flitLost_keeps {r s : State} (h : Keeps r s) (x2 : FlitKind) :
    Keeps r (State.flitLost s x2) := by
  unfold State.flitLost
  repeat'
    first
      | with_reducible assumption | with_reducible apply State.fatalError_keeps
      | with_reducible apply State.partFault_keeps | with_reducible apply State.freeNext_keeps
      | with_reducible apply State.modStack_keeps | dsimp only | split

theorem execMeshParityRetry_keeps {r s : State} (h : Keeps r s) (receiver : BitVec 8) (sender : BitVec 8) (attempt : ℕ) (kind : FlitKind) :
    OutKeeps r (execMeshParityRetry receiver sender attempt kind s) := by
  unfold execMeshParityRetry
  repeat'
    first
      | with_reducible assumption | with_reducible apply State.logEvent_keeps
      | with_reducible apply State.settle_keeps | with_reducible apply State.flitLost_keeps
      | with_reducible apply OutKeeps.next | dsimp only | split

theorem State.tick_keeps {r s : State} (h : Keeps r s)  :
    Keeps r (State.tick s) := by
  unfold State.tick
  repeat'
    first
      | with_reducible assumption | with_reducible apply State.settle_keeps
      | with_reducible apply State.askAgain_keeps | with_reducible apply State.scrubTicks_keeps
      | with_reducible apply State.fetchDecodes_keeps | with_reducible apply State.mpOutTick_keeps
      | with_reducible apply State.advance_keeps | dsimp only | split

end Sys2Proof.Machine
end

