-- ==== Sys2Proof/Laws/KeepsCaches.lean ====
section
/-! SUPPORT. What the functions of Sys2Proof/Machine/Caches.lean keep. -/

set_option linter.all false

namespace Sys2Proof.Machine

theorem State.goOn_keeps {r s : State} (h : Keeps r s) (x2 : Missed) :
    Keeps r (State.goOn s x2) := by
  unfold State.goOn
  repeat'
    first
      | with_reducible assumption | with_reducible refine State.takeReliable_keeps ?_ _ (fun _ _ _ _ => ?_)
      | with_reducible apply State.dataIn_keeps | with_reducible refine Keeps.snd ‹_ = (_, _)› ?_
      | with_reducible apply State.a2aDeliver_keeps | with_reducible apply State.a2aReturned_keeps
      | with_reducible apply State.frameIn_keeps | dsimp only | split

theorem State.goOnAll_keeps {r s : State} (h : Keeps r s) (x2 : List Missed) :
    Keeps r (State.goOnAll s x2) := by
  revert h
  fun_induction State.goOnAll s x2
  all_goals intro h
  repeat'
    first
      | with_reducible assumption | with_reducible apply State.goOn_keeps | apply_assumption | dsimp only
      | dsimp +zetaDelta only | split

theorem State.releaseHeld_keeps {r s : State} (h : Keeps r s)  :
    Keeps r (State.releaseHeld s) := by
  unfold State.releaseHeld
  repeat'
    first
      | with_reducible assumption | with_reducible apply State.goOnAll_keeps
      | with_reducible apply State.modEng_keeps | dsimp only | split

theorem State.readOwn_keeps {r s : State} (h : Keeps r s) (ws : List ℕ) :
    Keeps r (State.readOwn s ws).2 := by
  unfold State.readOwn
  repeat'
    first
      | with_reducible assumption | with_reducible apply State.clearWords_keeps
      | with_reducible apply State.countWords_keeps | with_reducible apply State.fatalError_keeps
      | with_reducible apply State.logUe_keeps | dsimp only | split

theorem State.enterDesc_keeps {r s : State} (h : Keeps r s) (q : Qid) :
    Keeps r (State.enterDesc s q) := by
  unfold State.enterDesc
  repeat'
    first
      | with_reducible assumption | with_reducible apply State.clearWords_keeps
      | with_reducible apply State.modEng_keeps | with_reducible apply State.freeNext_keeps | dsimp only | split

theorem execDescriptorCacheFill_keeps {r s : State} (h : Keeps r s) (q : Qid) :
    OutKeeps r (execDescriptorCacheFill q s) := by
  unfold execDescriptorCacheFill
  repeat'
    first
      | with_reducible assumption | with_reducible apply State.readOwn_keeps
      | with_reducible refine Keeps.snd ‹_ = (_, _)› ?_ | with_reducible apply State.countPart_keeps
      | with_reducible apply State.settle_keeps | with_reducible apply State.releaseHeld_keeps
      | with_reducible apply State.enterDesc_keeps | with_reducible apply OutKeeps.next | dsimp only | split

theorem execTranslationWalk_keeps {r s : State} (h : Keeps r s) (p : PartId) (vpn : BitVec 27) :
    OutKeeps r (execTranslationWalk p vpn s) := by
  unfold execTranslationWalk
  repeat'
    first
      | with_reducible assumption | with_reducible apply State.readOwn_keeps
      | with_reducible refine Keeps.snd ‹_ = (_, _)› ?_ | with_reducible apply State.countPart_keeps
      | with_reducible apply State.settle_keeps | with_reducible apply State.modEng_keeps
      | with_reducible apply State.freeNext_keeps | with_reducible apply OutKeeps.next | dsimp only | split

end Sys2Proof.Machine
end

