-- ==== Sys2Proof/Laws/KeepsMbOwner.lean ====
section
/-! SUPPORT. What the functions of Sys2Proof/Machine/MbOwner.lean keep. -/

set_option linter.all false

namespace Sys2Proof.Machine

theorem State.mbRun_keeps {r s : State} (h : Keeps r s) (m : MbId) (cmd : Nat) (sel : MbReq → Bool) {f : MbReq → State}
    (e : ∀ q, Keeps r (f q)) : OutKeeps r (State.mbRun s m cmd sel f) := by
  unfold State.mbRun
  split
  · exact h
  · split
    · exact State.settle_keeps (e _)
    · exact h

theorem State.guarded_keeps {r s go : State} (h : Keeps r s) (m : MbId) (checks : List (Bool × BitVec 16 × Nat)) (e : Keeps r go) :
    Keeps r (State.guarded s m checks go) := by
  unfold State.guarded
  split
  · exact State.respond_keeps h _ _ _ _
  · exact e

theorem State.awaitWith_keeps {r s : State} (h : Keeps r s) (m : MbId) (b : List Byte) :
    Keeps r (State.awaitWith s m b) := by
  unfold State.awaitWith
  repeat'
    first
      | with_reducible assumption | with_reducible apply State.modMb_keeps | dsimp only | split

theorem State.abortRequest_keeps {r s : State} (h : Keeps r s) (m : MbId) (t : MbId) (seq : ℕ) :
    Keeps r (State.abortRequest s m t seq) := by
  unfold State.abortRequest
  repeat'
    first
      | with_reducible assumption | with_reducible apply State.respond_keeps | dsimp only | split

theorem execMbAbort_keeps {r s : State} (h : Keeps r s) (mb : MbId) :
    OutKeeps r (execMbAbort mb s) := by
  unfold execMbAbort
  repeat'
    first
      | with_reducible assumption | with_reducible refine State.mbRun_keeps ?_ _ _ _ (fun _ => ?_)
      | with_reducible refine State.guarded_keeps ?_ _ _ ?_ | with_reducible apply State.abortRequest_keeps
      | with_reducible apply OutKeeps.next | dsimp only | split

theorem execMbRole_keeps {r s : State} (h : Keeps r s) (mb : MbId) :
    OutKeeps r (execMbRole mb s) := by
  unfold execMbRole
  repeat'
    first
      | with_reducible assumption | with_reducible refine State.mbRun_keeps ?_ _ _ _ (fun _ => ?_)
      | with_reducible refine State.guarded_keeps ?_ _ _ ?_ | with_reducible apply State.respond_keeps
      | with_reducible apply State.modMb_keeps | with_reducible apply OutKeeps.next | dsimp only | split

theorem State.putHosts_keeps {r s : State} (h : Keeps r s) (b : List Byte) (first : ℕ) (x4 : ℕ) :
    Keeps r (State.putHosts s b first x4) := by
  revert h
  fun_induction State.putHosts s b first x4
  all_goals intro h
  repeat'
    first
      | with_reducible assumption | with_reducible apply State.modReg_keeps | apply_assumption | dsimp only
      | dsimp +zetaDelta only | split | with_reducible apply Keeps.upd

theorem execHostTable_keeps {r s : State} (h : Keeps r s) (mb : MbId) :
    OutKeeps r (execHostTable mb s) := by
  unfold execHostTable
  repeat'
    first
      | with_reducible assumption | with_reducible refine State.mbRun_keeps ?_ _ _ _ (fun _ => ?_)
      | with_reducible refine State.guarded_keeps ?_ _ _ ?_ | with_reducible apply State.respond_keeps
      | with_reducible apply State.putHosts_keeps | with_reducible apply OutKeeps.next | dsimp only | split

theorem execModuleSet_keeps {r s : State} (h : Keeps r s) (mb : MbId) :
    OutKeeps r (execModuleSet mb s) := by
  unfold execModuleSet
  repeat'
    first
      | with_reducible assumption | with_reducible refine State.mbRun_keeps ?_ _ _ _ (fun _ => ?_)
      | with_reducible refine State.guarded_keeps ?_ _ _ ?_ | with_reducible apply State.respond_keeps
      | with_reducible apply State.modReg_keeps | with_reducible apply OutKeeps.next | dsimp only | split
      | with_reducible apply Keeps.upd

theorem State.setPortCfg_keeps {r s : State} (h : Keeps r s) (p : PortId) (cfg : Word) :
    Keeps r (State.setPortCfg s p cfg) := by
  unfold State.setPortCfg
  repeat'
    first
      | with_reducible assumption | with_reducible apply State.setPort_keeps
      | with_reducible apply State.takePortDown_keeps | dsimp only | split

theorem execPortSet_keeps {r s : State} (h : Keeps r s) (mb : MbId) :
    OutKeeps r (execPortSet mb s) := by
  unfold execPortSet
  repeat'
    first
      | with_reducible assumption | with_reducible refine State.mbRun_keeps ?_ _ _ _ (fun _ => ?_)
      | with_reducible refine State.guarded_keeps ?_ _ _ ?_ | with_reducible apply State.setPortCfg_keeps
      | with_reducible apply State.respond_keeps | with_reducible apply OutKeeps.next | dsimp only | split
      | with_reducible apply Keeps.upd

theorem State.putSteer_keeps {r s : State} (h : Keeps r s) (kind : ℕ) (b : List Byte) (first n : ℕ) :
    Keeps r (State.putSteer s kind b first n) := by
  induction n with
  | zero => exact h
  | succ n ih => exact Keeps.upd ih

theorem State.commitSteer_keeps {r s : State} (h : Keeps r s) (kind : ℕ) :
    Keeps r (State.commitSteer s kind) := by
  unfold State.commitSteer
  repeat'
    first
      | with_reducible assumption | dsimp only | split | with_reducible apply Keeps.upd

theorem execSteerSet_keeps {r s : State} (h : Keeps r s) (mb : MbId) :
    OutKeeps r (execSteerSet mb s) := by
  unfold execSteerSet
  repeat'
    first
      | with_reducible assumption | with_reducible refine State.mbRun_keeps ?_ _ _ _ (fun _ => ?_)
      | with_reducible refine State.guarded_keeps ?_ _ _ ?_ | with_reducible apply State.putSteer_keeps
      | with_reducible apply State.respond_keeps | with_reducible apply State.commitSteer_keeps
      | with_reducible apply OutKeeps.next | dsimp only | split

theorem State.putFwd_keeps {r s : State} (h : Keeps r s) (b : List Byte) (first : ℕ) (x4 : ℕ) :
    Keeps r (State.putFwd s b first x4) := by
  revert h
  fun_induction State.putFwd s b first x4
  all_goals intro h
  repeat'
    first
      | with_reducible assumption | apply_assumption | dsimp only | dsimp +zetaDelta only | split
      | with_reducible apply Keeps.upd

theorem execFwdSet_keeps {r s : State} (h : Keeps r s) (mb : MbId) :
    OutKeeps r (execFwdSet mb s) := by
  unfold execFwdSet
  repeat'
    first
      | with_reducible assumption | with_reducible refine State.mbRun_keeps ?_ _ _ _ (fun _ => ?_)
      | with_reducible refine State.guarded_keeps ?_ _ _ ?_ | with_reducible apply State.respond_keeps
      | with_reducible apply State.putFwd_keeps | with_reducible apply OutKeeps.next | dsimp only | split

theorem execPlCap_keeps {r s : State} (h : Keeps r s) (mb : MbId) :
    OutKeeps r (execPlCap mb s) := by
  unfold execPlCap
  repeat'
    first
      | with_reducible assumption | with_reducible refine State.mbRun_keeps ?_ _ _ _ (fun _ => ?_)
      | with_reducible refine State.guarded_keeps ?_ _ _ ?_ | with_reducible apply State.awaitWith_keeps
      | with_reducible apply State.retarget_keeps | with_reducible apply State.modReg_keeps
      | with_reducible apply OutKeeps.next | dsimp only | split | with_reducible apply Keeps.upd

theorem State.enterSleep_keeps {r s : State} (h : Keeps r s) (n : ℕ) : Keeps r (State.enterSleep s n) := by
  unfold State.enterSleep
  extract_lets st s1
  have h1 : Keeps r s1 := State.logEvent_keeps (State.modAon_keeps rfl h) _ _ _ _
  clear_value s1
  split
  · exact h1
  · exact Keeps.upd (State.takePortsDown_keeps h1 .sleep allPorts)

theorem execSleep_keeps {r s : State} (h : Keeps r s) (mb : MbId) :
    OutKeeps r (execSleep mb s) := by
  unfold execSleep
  repeat'
    first
      | with_reducible assumption | with_reducible refine State.mbRun_keeps ?_ _ _ _ (fun _ => ?_)
      | with_reducible refine State.guarded_keeps ?_ _ _ ?_ | with_reducible apply State.enterSleep_keeps
      | with_reducible apply State.respond_keeps | with_reducible apply OutKeeps.next | dsimp only | split

theorem execResetWarm_keeps {r s : State} (h : Keeps r s) (mb : MbId) :
    OutKeeps r (execResetWarm mb s) := by
  unfold execResetWarm
  repeat'
    first
      | with_reducible assumption | with_reducible refine State.mbRun_keeps ?_ _ _ _ (fun _ => ?_)
      | with_reducible refine State.guarded_keeps ?_ _ _ ?_ | with_reducible apply State.moduleReset_keeps
      | with_reducible apply State.respond_keeps | with_reducible apply OutKeeps.next | dsimp only | split

theorem execResetRetrain_keeps {r s : State} (h : Keeps r s) (mb : MbId) :
    OutKeeps r (execResetRetrain mb s) := by
  unfold execResetRetrain
  repeat'
    first
      | with_reducible assumption | with_reducible refine State.mbRun_keeps ?_ _ _ _ (fun _ => ?_)
      | with_reducible apply State.moduleReset_keeps | with_reducible apply State.respond_keeps
      | with_reducible apply OutKeeps.next | dsimp only | split

theorem State.resetPort_keeps {r s : State} (h : Keeps r s) (p : PortId) :
    Keeps r (State.resetPort s p) := by
  unfold State.resetPort
  repeat'
    first
      | with_reducible assumption | with_reducible apply State.takePortDown_keeps
      | with_reducible apply State.modPort_keeps | dsimp only | split

theorem execIslandReset_keeps {r s : State} (h : Keeps r s) (mb : MbId) :
    OutKeeps r (execIslandReset mb s) := by
  unfold execIslandReset
  repeat'
    first
      | with_reducible assumption | (intro _; exact ⟨rfl, rfl⟩)
      | with_reducible refine State.mbRun_keeps ?_ _ _ _ (fun _ => ?_)
      | with_reducible refine State.guarded_keeps ?_ _ _ ?_ | with_reducible apply State.logEvent_keeps
      | with_reducible apply State.respond_keeps | with_reducible apply State.modCore_keeps
      | with_reducible apply State.resetPort_keeps | with_reducible apply OutKeeps.next | (intro k; exact k)
      | (intro k; exact ⟨(CoreMem.setLanes_ok _ _ k).1, (CoreMem.setLanes_ok _ _ k).2⟩) | dsimp only | split

theorem State.flashRead_keeps {r s : State} (h : Keeps r s) (m : MbId) (q : MbReq) {go : State → List Byte → State}
    (e : ∀ t b, Keeps r t → Keeps r (go t b)) : Keeps r (State.flashRead s m q go) := by
  unfold State.flashRead
  split
  · exact e _ _ (Keeps.snd ‹_ = (_, _)› (State.readHbm_keeps h _ _ _))
  · exact State.respond_keeps (State.partFault_keeps (Keeps.snd ‹_ = (_, _)› (State.readHbm_keeps h _ _ _)) _ _ _) _ _ _ _

theorem execFlashWriteFirmware_keeps {r s : State} (h : Keeps r s) (mb : MbId) :
    OutKeeps r (execFlashWriteFirmware mb s) := by
  unfold execFlashWriteFirmware
  repeat'
    first
      | with_reducible assumption | with_reducible refine State.mbRun_keeps ?_ _ _ _ (fun _ => ?_)
      | with_reducible refine State.guarded_keeps ?_ _ _ ?_
      | with_reducible refine State.flashRead_keeps ?_ _ _ (fun _ _ _ => ?_)
      | with_reducible apply State.respond_keeps | with_reducible apply OutKeeps.next | dsimp only | split
      | with_reducible apply Keeps.upd

theorem execFlashWriteCalibration_keeps {r s : State} (h : Keeps r s) (mb : MbId) :
    OutKeeps r (execFlashWriteCalibration mb s) := by
  unfold execFlashWriteCalibration
  repeat'
    first
      | with_reducible assumption | with_reducible refine State.mbRun_keeps ?_ _ _ _ (fun _ => ?_)
      | with_reducible refine State.guarded_keeps ?_ _ _ ?_
      | with_reducible refine State.flashRead_keeps ?_ _ _ (fun _ _ _ => ?_)
      | with_reducible apply State.respond_keeps | with_reducible apply OutKeeps.next | dsimp only | split
      | with_reducible refine Keeps.updAll rfl id id ?_ | with_reducible apply Keeps.upd

theorem execFlashWriteConfig_keeps {r s : State} (h : Keeps r s) (mb : MbId) :
    OutKeeps r (execFlashWriteConfig mb s) := by
  unfold execFlashWriteConfig
  repeat'
    first
      | with_reducible assumption | with_reducible refine State.mbRun_keeps ?_ _ _ _ (fun _ => ?_)
      | with_reducible refine State.guarded_keeps ?_ _ _ ?_
      | with_reducible refine State.flashRead_keeps ?_ _ _ (fun _ _ _ => ?_)
      | with_reducible apply State.respond_keeps | with_reducible apply OutKeeps.next | dsimp only | split
      | with_reducible apply Keeps.upd

end Sys2Proof.Machine
end

