-- ==== Sys2Proof/Laws/KeepsMbPart.lean ====
section
/-! SUPPORT. What the functions of Sys2Proof/Machine/MbPart.lean keep. -/

set_option linter.all false

namespace Sys2Proof.Machine

theorem Hbm.wf_zeroPage {h : Hbm} (key : Option Nat) (p : Nat) (k : Memory.wf h.mem = true) :
    Memory.wf (h.zeroPage key p).mem = true := Memory.wf_filter _ _ k

theorem Hbm.wf_allot {h : Hbm} (key : Option Nat) (loc : Bool) (use : PageUse) (ps : List Nat) (k : Memory.wf h.mem = true) :
    Memory.wf (h.allot key loc use ps).mem = true := by
  induction ps generalizing h with
  | nil => exact k
  | cons p t ih =>
    rw [Hbm.allot]
    exact ih (Hbm.wf_zeroPage key p k)

theorem Hbm.wf_releaseAll {h : Hbm} (ps : List Nat) (k : Memory.wf h.mem = true) : Memory.wf (h.releaseAll ps).mem = true := by
  induction ps generalizing h with
  | nil => exact k
  | cons p t ih =>
    rw [Hbm.releaseAll]
    exact ih k

theorem Core.cleared_ok (k : Core) (b : Bool) : (k.cleared b).mem.Ok := ⟨rfl, rfl⟩

theorem State.freshPart_keeps {r s : State} (h : Keeps r s) (p : PartId) (c : PartCfg) :
    Keeps r (State.freshPart s p c) := by
  unfold State.freshPart
  repeat'
    first
      | with_reducible assumption | (intro k; exact Hbm.wf_allot _ _ _ _ k) | (intro k; exact Hbm.wf_releaseAll _ k)
      | (intro k; exact Hbm.wf_releaseAll _ (Hbm.wf_allot _ _ _ _ k)) | with_reducible apply State.freeNext_keeps
      | with_reducible apply State.setPart_keeps | dsimp only | split | with_reducible apply Keeps.upd
      | with_reducible apply Keeps.hbm

theorem execPartCreate_keeps {r s : State} (h : Keeps r s) (mb : MbId) :
    OutKeeps r (execPartCreate mb s) := by
  unfold execPartCreate
  repeat'
    first
      | with_reducible assumption | with_reducible refine State.mbRun_keeps ?_ _ _ _ (fun _ => ?_)
      | with_reducible refine State.guarded_keeps ?_ _ _ ?_ | with_reducible apply State.respond_keeps
      | with_reducible apply State.freshPart_keeps | with_reducible apply OutKeeps.next | dsimp only | split

theorem State.endRunning_keeps {r s : State} (h : Keeps r s) (m : MbId) (p : PartId) (x4 : List MbId) :
    Keeps r (State.endRunning s m p x4) := by
  revert h
  fun_induction State.endRunning s m p x4
  all_goals intro h
  repeat'
    first
      | with_reducible assumption | with_reducible apply State.respond_keeps | apply_assumption | dsimp only
      | dsimp +zetaDelta only | split

theorem State.dropQueues_keeps {r s : State} (h : Keeps r s) (p : PartId) :
    Keeps r (State.dropQueues s p) := by
  unfold State.dropQueues
  repeat'
    first
      | with_reducible assumption | with_reducible apply State.modEng_keeps | dsimp only | split
      | with_reducible apply Keeps.upd

theorem State.dropShared_keeps {r s : State} (h : Keeps r s) (p : PartId) :
    Keeps r (State.dropShared s p) := by
  unfold State.dropShared
  repeat'
    first
      | with_reducible assumption | with_reducible apply State.modEng_keeps | dsimp only | split

theorem State.clearCores_keeps {r s : State} (h : Keeps r s) (keep : Bool) (x3 : List CoreId) :
    Keeps r (State.clearCores s keep x3) := by
  revert h
  fun_induction State.clearCores s keep x3
  all_goals intro h
  repeat'
    first
      | with_reducible assumption | (intro _; exact Core.cleared_ok _ _) | with_reducible apply State.modCore_keeps
      | apply_assumption | (intro k; exact k)
      | (intro k; exact ⟨(CoreMem.setLanes_ok _ _ k).1, (CoreMem.setLanes_ok _ _ k).2⟩) | dsimp only
      | dsimp +zetaDelta only | split

theorem State.endPart_keeps {r s : State} (h : Keeps r s) (m : MbId) (p : PartId) (keep : Bool) :
    Keeps r (State.endPart s m p keep) := by
  unfold State.endPart
  repeat'
    first
      | with_reducible assumption | (intro k; exact Hbm.wf_allot _ _ _ _ k) | (intro k; exact Hbm.wf_releaseAll _ k)
      | (intro k; exact Hbm.wf_releaseAll _ (Hbm.wf_allot _ _ _ _ k)) | with_reducible apply State.endRunning_keeps
      | with_reducible apply State.partFault_keeps | with_reducible apply State.dropShared_keeps
      | with_reducible apply State.dropQueues_keeps | with_reducible apply State.closeAll_keeps
      | with_reducible apply State.clearCores_keeps | with_reducible apply State.setPart_keeps | dsimp only | split
      | with_reducible apply Keeps.upd | with_reducible apply Keeps.hbm

theorem execPartDelete_keeps {r s : State} (h : Keeps r s) (mb : MbId) :
    OutKeeps r (execPartDelete mb s) := by
  unfold execPartDelete
  repeat'
    first
      | with_reducible assumption | with_reducible refine State.mbRun_keeps ?_ _ _ _ (fun _ => ?_)
      | with_reducible refine State.guarded_keeps ?_ _ _ ?_ | with_reducible apply State.respond_keeps
      | with_reducible apply State.endPart_keeps | with_reducible apply OutKeeps.next | dsimp only | split

theorem execPartReset_keeps {r s : State} (h : Keeps r s) (mb : MbId) :
    OutKeeps r (execPartReset mb s) := by
  unfold execPartReset
  repeat'
    first
      | with_reducible assumption | with_reducible refine State.mbRun_keeps ?_ _ _ _ (fun _ => ?_)
      | with_reducible apply State.respond_keeps | with_reducible apply State.retarget_keeps
      | with_reducible apply State.freshPart_keeps | with_reducible apply State.endPart_keeps
      | with_reducible apply OutKeeps.next | dsimp only | split

theorem State.giveCores_keeps {r s : State} (h : Keeps r s) (who : Option PartId) (cs : List CoreId) :
    Keeps r (State.giveCores s who cs) := by
  induction cs generalizing s with
  | nil => exact h
  | cons c t ih =>
    rw [State.giveCores]
    apply ih
    split
    · exact h
    · exact State.modCore_keeps (fun _ => ⟨rfl, rfl⟩) h

theorem execCoreAssign_keeps {r s : State} (h : Keeps r s) (mb : MbId) :
    OutKeeps r (execCoreAssign mb s) := by
  unfold execCoreAssign
  repeat'
    first
      | with_reducible assumption | with_reducible refine State.mbRun_keeps ?_ _ _ _ (fun _ => ?_)
      | with_reducible refine State.guarded_keeps ?_ _ _ ?_ | with_reducible apply State.respond_keeps
      | with_reducible apply State.retarget_keeps | with_reducible apply State.giveCores_keeps
      | with_reducible apply OutKeeps.next | dsimp only | split

theorem execCoreUnassign_keeps {r s : State} (h : Keeps r s) (mb : MbId) :
    OutKeeps r (execCoreUnassign mb s) := by
  unfold execCoreUnassign
  repeat'
    first
      | with_reducible assumption | with_reducible refine State.mbRun_keeps ?_ _ _ _ (fun _ => ?_)
      | with_reducible refine State.guarded_keeps ?_ _ _ ?_ | with_reducible apply State.respond_keeps
      | with_reducible apply State.retarget_keeps | with_reducible apply State.giveCores_keeps
      | with_reducible apply OutKeeps.next | dsimp only | split

theorem execRegionMap_keeps {r s : State} (h : Keeps r s) (mb : MbId) :
    OutKeeps r (execRegionMap mb s) := by
  unfold execRegionMap
  repeat'
    first
      | with_reducible assumption | (intro k; exact Hbm.wf_allot _ _ _ _ k) | (intro k; exact Hbm.wf_releaseAll _ k)
      | (intro k; exact Hbm.wf_releaseAll _ (Hbm.wf_allot _ _ _ _ k))
      | with_reducible refine State.mbRun_keeps ?_ _ _ _ (fun _ => ?_)
      | with_reducible refine State.guarded_keeps ?_ _ _ ?_ | with_reducible apply State.respond_keeps
      | with_reducible apply State.modPart_keeps | with_reducible apply OutKeeps.next | dsimp only | split
      | with_reducible apply Keeps.upd | with_reducible apply Keeps.hbm

theorem State.dropTlb_keeps {r s : State} (h : Keeps r s) (p : PartId) (vs : List ℕ) :
    Keeps r (State.dropTlb s p vs) := by
  unfold State.dropTlb
  repeat'
    first
      | with_reducible assumption | with_reducible apply State.modEng_keeps | dsimp only | split

theorem execRegionUnmap_keeps {r s : State} (h : Keeps r s) (mb : MbId) :
    OutKeeps r (execRegionUnmap mb s) := by
  unfold execRegionUnmap
  repeat'
    first
      | with_reducible assumption | (intro k; exact Hbm.wf_allot _ _ _ _ k) | (intro k; exact Hbm.wf_releaseAll _ k)
      | (intro k; exact Hbm.wf_releaseAll _ (Hbm.wf_allot _ _ _ _ k))
      | with_reducible refine State.mbRun_keeps ?_ _ _ _ (fun _ => ?_)
      | with_reducible refine State.guarded_keeps ?_ _ _ ?_ | with_reducible apply State.dropTlb_keeps
      | with_reducible apply State.modPart_keeps | with_reducible apply State.respond_keeps
      | with_reducible apply OutKeeps.next | dsimp only | split | with_reducible apply Keeps.upd
      | with_reducible apply Keeps.hbm

theorem execRegionSetRights_keeps {r s : State} (h : Keeps r s) (mb : MbId) :
    OutKeeps r (execRegionSetRights mb s) := by
  unfold execRegionSetRights
  repeat'
    first
      | with_reducible assumption | with_reducible refine State.mbRun_keeps ?_ _ _ _ (fun _ => ?_)
      | with_reducible refine State.guarded_keeps ?_ _ _ ?_ | with_reducible apply State.respond_keeps
      | with_reducible apply State.dropTlb_keeps | with_reducible apply State.modPart_keeps
      | with_reducible apply OutKeeps.next | dsimp only | split

theorem execStashSet_keeps {r s : State} (h : Keeps r s) (mb : MbId) :
    OutKeeps r (execStashSet mb s) := by
  unfold execStashSet
  repeat'
    first
      | with_reducible assumption | (intro k; exact Hbm.wf_allot _ _ _ _ k) | (intro k; exact Hbm.wf_releaseAll _ k)
      | (intro k; exact Hbm.wf_releaseAll _ (Hbm.wf_allot _ _ _ _ k))
      | with_reducible refine State.mbRun_keeps ?_ _ _ _ (fun _ => ?_)
      | with_reducible refine State.guarded_keeps ?_ _ _ ?_ | with_reducible apply State.respond_keeps
      | with_reducible apply State.setPart_keeps | with_reducible apply OutKeeps.next | dsimp only | split
      | with_reducible apply Keeps.upd | with_reducible apply Keeps.hbm

theorem State.joinGroup_keeps {r s : State} (h : Keeps r s) (id : Qid) (q : Queue) :
    Keeps r (State.joinGroup s id q) := by
  unfold State.joinGroup
  repeat'
    first
      | with_reducible assumption | with_reducible apply State.freeNext_keeps | dsimp only | split
      | with_reducible apply Keeps.upd

theorem State.leaveGroup_keeps {r s : State} (h : Keeps r s) (id : Qid) (q : Queue) :
    Keeps r (State.leaveGroup s id q) := by
  unfold State.leaveGroup
  repeat'
    first
      | with_reducible assumption | dsimp only | split | with_reducible apply Keeps.upd

theorem execQueueCreate_keeps {r s : State} (h : Keeps r s) (mb : MbId) :
    OutKeeps r (execQueueCreate mb s) := by
  unfold execQueueCreate
  repeat'
    first
      | with_reducible assumption | with_reducible refine State.mbRun_keeps ?_ _ _ _ (fun _ => ?_)
      | with_reducible refine State.guarded_keeps ?_ _ _ ?_ | with_reducible apply State.respond_keeps
      | with_reducible apply State.joinGroup_keeps | with_reducible apply State.setQueue_keeps
      | with_reducible apply OutKeeps.next | dsimp only | split

theorem execQueueEnable_keeps {r s : State} (h : Keeps r s) (mb : MbId) :
    OutKeeps r (execQueueEnable mb s) := by
  unfold execQueueEnable
  repeat'
    first
      | with_reducible assumption | with_reducible refine State.mbRun_keeps ?_ _ _ _ (fun _ => ?_)
      | with_reducible refine State.guarded_keeps ?_ _ _ ?_ | with_reducible apply State.respond_keeps
      | with_reducible apply State.setQueue_keeps | with_reducible apply OutKeeps.next | dsimp only | split

theorem execQueueDisable_keeps {r s : State} (h : Keeps r s) (mb : MbId) :
    OutKeeps r (execQueueDisable mb s) := by
  unfold execQueueDisable
  repeat'
    first
      | with_reducible assumption | with_reducible refine State.mbRun_keeps ?_ _ _ _ (fun _ => ?_)
      | with_reducible refine State.guarded_keeps ?_ _ _ ?_ | with_reducible apply State.respond_keeps
      | with_reducible apply State.setQueue_keeps | with_reducible apply OutKeeps.next | dsimp only | split

theorem State.dropQueue_keeps {r s : State} (h : Keeps r s) (id : Qid) :
    Keeps r (State.dropQueue s id) := by
  unfold State.dropQueue
  repeat'
    first
      | with_reducible assumption | with_reducible apply State.modEng_keeps | dsimp only | split

theorem execQueueDelete_keeps {r s : State} (h : Keeps r s) (mb : MbId) :
    OutKeeps r (execQueueDelete mb s) := by
  unfold execQueueDelete
  repeat'
    first
      | with_reducible assumption | with_reducible refine State.mbRun_keeps ?_ _ _ _ (fun _ => ?_)
      | with_reducible refine State.guarded_keeps ?_ _ _ ?_ | with_reducible apply State.respond_keeps
      | with_reducible apply State.releaseHeld_keeps | with_reducible apply State.dropQueue_keeps
      | with_reducible apply State.leaveGroup_keeps | with_reducible apply OutKeeps.next | dsimp only | split

end Sys2Proof.Machine
end

