-- ==== Sys2Proof/Laws/KeepsMbProgram.lean ====
section
/-! SUPPORT. What the functions of Sys2Proof/Machine/MbProgram.lean keep. -/

set_option linter.all false

namespace Sys2Proof.Machine

theorem State.reviveMods_keeps {r s : State} (h : Keeps r s)  :
    Keeps r (State.reviveMods s) := by
  unfold State.reviveMods
  repeat'
    first
      | with_reducible assumption | with_reducible apply State.modEng_keeps | dsimp only | split

theorem State.loadTable_keeps {r s : State} (h : Keeps r s) (p : PartId) (d : LoadDesc) (b : List Byte) :
    Keeps r (State.loadTable s p d b) := by
  unfold State.loadTable
  repeat'
    first
      | with_reducible assumption | with_reducible apply State.modPart_keeps
      | with_reducible apply State.modUe_keeps | with_reducible apply State.reviveMods_keeps
      | with_reducible apply State.modEng_keeps | dsimp only | split

theorem State.loadTables_keeps {r s t : State} {p : PartId} {x3 : List (LoadDesc × List Byte)} (e : State.loadTables s p x3 = .ok t) (h : Keeps r s) : Keeps r t := by
  revert e
  revert h
  fun_induction State.loadTables s p x3
  all_goals intro h
  repeat'
    first
      | with_reducible assumption | with_reducible apply State.loadTable_keeps | (intro e; cases e)
      | apply_assumption | dsimp only | dsimp +zetaDelta only | split

theorem State.readMany_keeps {r s : State} (h : Keeps r s) (p : PartId) (x3 : List (ℕ × ℕ)) :
    Keeps r (State.readMany s p x3).2 := by
  revert h
  fun_induction State.readMany s p x3
  all_goals intro h
  repeat'
    first
      | with_reducible assumption | with_reducible apply State.readHbm_keeps
      | with_reducible refine Keeps.snd ‹_ = (_, _)› ?_ | apply_assumption | dsimp only | dsimp +zetaDelta only
      | split

theorem State.stopFaulted_keeps {r s : State} (h : Keeps r s) (m : MbId) (p : PartId) :
    Keeps r (State.stopFaulted s m p) := by
  unfold State.stopFaulted
  repeat'
    first
      | with_reducible assumption | with_reducible apply State.respond_keeps
      | with_reducible apply State.partFault_keeps | dsimp only | split

theorem State.finishLoad_keeps {r s : State} (h : Keeps r s) (m : MbId) (p : PartId) (l : List (LoadDesc × List Byte)) :
    Keeps r (State.finishLoad s m p l) := by
  unfold State.finishLoad
  repeat'
    first
      | with_reducible assumption | with_reducible refine State.loadTables_keeps (by assumption) ?_
      | with_reducible apply State.respond_keeps | dsimp only | split

theorem execProgramLoad_keeps {r s : State} (h : Keeps r s) (mb : MbId) :
    OutKeeps r (execProgramLoad mb s) := by
  unfold execProgramLoad
  repeat'
    first
      | with_reducible assumption | with_reducible refine State.mbRun_keeps ?_ _ _ _ (fun _ => ?_)
      | with_reducible refine State.guarded_keeps ?_ _ _ ?_ | with_reducible apply State.readMany_keeps
      | with_reducible refine Keeps.snd ‹_ = (_, _)› ?_ | with_reducible apply State.stopFaulted_keeps
      | with_reducible apply State.finishLoad_keeps | with_reducible apply OutKeeps.next | dsimp only | split

theorem State.startStream_keeps {r s : State} (h : Keeps r s) (c : CoreId) (cq : Qid) (va : BitVec 48) :
    Keeps r (State.startStream s c cq va) := by
  unfold State.startStream
  repeat'
    first
      | with_reducible assumption | with_reducible apply State.modCtl_keeps | dsimp only | split

theorem State.startStreams_keeps {r s : State} (h : Keeps r s) (b : List Byte) (x3 : List ℕ) :
    Keeps r (State.startStreams s b x3) := by
  revert h
  fun_induction State.startStreams s b x3
  all_goals intro h
  repeat'
    first
      | with_reducible assumption | with_reducible apply State.startStream_keeps | apply_assumption | dsimp only
      | dsimp +zetaDelta only | split

theorem execStreamStart_keeps {r s : State} (h : Keeps r s) (mb : MbId) :
    OutKeeps r (execStreamStart mb s) := by
  unfold execStreamStart
  repeat'
    first
      | with_reducible assumption | with_reducible refine State.mbRun_keeps ?_ _ _ _ (fun _ => ?_)
      | with_reducible refine State.guarded_keeps ?_ _ _ ?_ | with_reducible apply State.respond_keeps
      | with_reducible apply State.startStreams_keeps | with_reducible apply OutKeeps.next | dsimp only | split

theorem State.cancelStream_keeps {r s : State} (h : Keeps r s) (c : CoreId) :
    Keeps r (State.cancelStream s c) := by
  unfold State.cancelStream
  repeat'
    first
      | with_reducible assumption | with_reducible apply State.modCtl_keeps
      | with_reducible apply State.cancelUnstarted_keeps | dsimp only | split

theorem State.cancelStreams_keeps {r s : State} (h : Keeps r s) (x2 : List CoreId) :
    Keeps r (State.cancelStreams s x2) := by
  revert h
  fun_induction State.cancelStreams s x2
  all_goals intro h
  repeat'
    first
      | with_reducible assumption | with_reducible apply State.cancelStream_keeps | apply_assumption | dsimp only
      | dsimp +zetaDelta only | split

theorem State.cancelFed_keeps {r s : State} (h : Keeps r s) (p : PartId) (l : List CoreId) :
    Keeps r (State.cancelFed s p l) := by
  unfold State.cancelFed
  repeat'
    first
      | with_reducible assumption | with_reducible refine State.overQueues_keeps ?_ _ (fun _ _ _ => ?_) _
      | with_reducible apply State.cancelItems_keeps | dsimp only | split

theorem execStreamCancel_keeps {r s : State} (h : Keeps r s) (mb : MbId) :
    OutKeeps r (execStreamCancel mb s) := by
  unfold execStreamCancel
  repeat'
    first
      | with_reducible assumption | with_reducible refine State.mbRun_keeps ?_ _ _ _ (fun _ => ?_)
      | with_reducible refine State.guarded_keeps ?_ _ _ ?_ | with_reducible apply State.awaitWith_keeps
      | with_reducible apply State.cancelFed_keeps | with_reducible apply State.cancelStreams_keeps
      | with_reducible apply OutKeeps.next | dsimp only | split

theorem State.grantCores_keeps {r s : State} (h : Keeps r s) (g : ℕ) (x3 : List CoreId) :
    Keeps r (State.grantCores s g x3) := by
  revert h
  fun_induction State.grantCores s g x3
  all_goals intro h
  repeat'
    first
      | with_reducible assumption | with_reducible apply State.modCore_keeps | apply_assumption | (intro k; exact k)
      | (intro k; exact ⟨(CoreMem.setLanes_ok _ _ k).1, (CoreMem.setLanes_ok _ _ k).2⟩) | dsimp only
      | dsimp +zetaDelta only | split

theorem execPlRequest_keeps {r s : State} (h : Keeps r s) (mb : MbId) :
    OutKeeps r (execPlRequest mb s) := by
  unfold execPlRequest
  repeat'
    first
      | with_reducible assumption | with_reducible refine State.mbRun_keeps ?_ _ _ _ (fun _ => ?_)
      | with_reducible refine State.guarded_keeps ?_ _ _ ?_ | with_reducible apply State.awaitWith_keeps
      | with_reducible apply State.retarget_keeps | with_reducible apply State.grantCores_keeps
      | with_reducible apply OutKeeps.next | dsimp only | split

end Sys2Proof.Machine
end

