-- ==== Sys2Proof/Laws/KeepsMbRead.lean ====
section
/-! SUPPORT. What the functions of Sys2Proof/Machine/MbRead.lean keep. -/

set_option linter.all false

namespace Sys2Proof.Machine

theorem execQueueRead_keeps {r s : State} (h : Keeps r s) (mb : MbId) :
    OutKeeps r (execQueueRead mb s) := by
  unfold execQueueRead
  repeat'
    first
      | with_reducible assumption | with_reducible refine State.mbRun_keeps ?_ _ _ _ (fun _ => ?_)
      | with_reducible refine State.guarded_keeps ?_ _ _ ?_ | with_reducible apply State.respond_keeps
      | with_reducible apply State.setQueue_keeps | with_reducible apply OutKeeps.next | dsimp only | split

theorem execQueueDoorbell_keeps {r s : State} (h : Keeps r s) (mb : MbId) :
    OutKeeps r (execQueueDoorbell mb s) := by
  unfold execQueueDoorbell
  repeat'
    first
      | with_reducible assumption | with_reducible refine State.mbRun_keeps ?_ _ _ _ (fun _ => ?_)
      | with_reducible refine State.guarded_keeps ?_ _ _ ?_ | with_reducible apply State.respond_keeps
      | with_reducible apply State.setQueue_keeps | with_reducible apply OutKeeps.next | dsimp only | split

theorem State.abortItems_keeps {r s : State} (h : Keeps r s) (id : Qid) (q : Queue) (n : ℕ) :
    Keeps r (State.abortItems s id q n) := by
  unfold State.abortItems
  repeat'
    first
      | with_reducible assumption | with_reducible apply State.endTransfers_keeps
      | with_reducible apply State.cancelItems_keeps | dsimp only | split

theorem execQueueAbort_keeps {r s : State} (h : Keeps r s) (mb : MbId) :
    OutKeeps r (execQueueAbort mb s) := by
  unfold execQueueAbort
  repeat'
    first
      | with_reducible assumption | with_reducible refine State.mbRun_keeps ?_ _ _ _ (fun _ => ?_)
      | with_reducible refine State.guarded_keeps ?_ _ _ ?_ | with_reducible apply State.respond_keeps
      | with_reducible apply State.abortItems_keeps | with_reducible apply OutKeeps.next | dsimp only | split

theorem State.clearCoreCnt_keeps {r s : State} (h : Keeps r s) (x2 : List CoreId) :
    Keeps r (State.clearCoreCnt s x2) := by
  revert h
  fun_induction State.clearCoreCnt s x2
  all_goals intro h
  repeat'
    first
      | with_reducible assumption | with_reducible apply State.modCore_keeps | apply_assumption | (intro k; exact k)
      | (intro k; exact ⟨(CoreMem.setLanes_ok _ _ k).1, (CoreMem.setLanes_ok _ _ k).2⟩) | dsimp only
      | dsimp +zetaDelta only | split

theorem State.readGroup_keeps {r s : State} (h : Keeps r s) (x2 : MbReq) :
    Keeps r (State.readGroup s x2).2 := by
  unfold State.readGroup
  repeat'
    first
      | with_reducible assumption | with_reducible apply State.clearCoreCnt_keeps
      | with_reducible apply State.modPart_keeps | with_reducible apply State.freeNext_keeps
      | with_reducible apply State.countSub_keeps | with_reducible apply State.modSub_keeps
      | with_reducible apply State.countStack_keeps | with_reducible apply State.modStack_keeps
      | with_reducible apply State.modReg_keeps | with_reducible apply State.modMb_keeps | dsimp only | split

theorem execCounterRead_keeps {r s : State} (h : Keeps r s) (mb : MbId) :
    OutKeeps r (execCounterRead mb s) := by
  unfold execCounterRead
  repeat'
    first
      | with_reducible assumption | with_reducible refine State.mbRun_keeps ?_ _ _ _ (fun _ => ?_)
      | with_reducible refine State.guarded_keeps ?_ _ _ ?_ | with_reducible apply State.readGroup_keeps
      | with_reducible refine Keeps.snd ‹_ = (_, _)› ?_ | with_reducible apply State.respond_keeps
      | with_reducible apply OutKeeps.next | dsimp only | split

theorem execStepLogRead_keeps {r s : State} (h : Keeps r s) (mb : MbId) :
    OutKeeps r (execStepLogRead mb s) := by
  unfold execStepLogRead
  repeat'
    first
      | with_reducible assumption | with_reducible refine State.mbRun_keeps ?_ _ _ _ (fun _ => ?_)
      | with_reducible refine State.guarded_keeps ?_ _ _ ?_ | with_reducible apply State.respond_keeps
      | with_reducible apply OutKeeps.next | dsimp only | split

theorem execPartStatus_keeps {r s : State} (h : Keeps r s) (mb : MbId) :
    OutKeeps r (execPartStatus mb s) := by
  unfold execPartStatus
  repeat'
    first
      | with_reducible assumption | with_reducible refine State.mbRun_keeps ?_ _ _ _ (fun _ => ?_)
      | with_reducible refine State.guarded_keeps ?_ _ _ ?_ | with_reducible apply State.respond_keeps
      | with_reducible apply State.freeNext_keeps | with_reducible apply OutKeeps.next | dsimp only | split

theorem execAuditState_keeps {r s : State} (h : Keeps r s) (mb : MbId) :
    OutKeeps r (execAuditState mb s) := by
  unfold execAuditState
  repeat'
    first
      | with_reducible assumption | with_reducible refine State.mbRun_keeps ?_ _ _ _ (fun _ => ?_)
      | with_reducible refine State.guarded_keeps ?_ _ _ ?_ | with_reducible apply State.readMany_keeps
      | with_reducible refine Keeps.snd ‹_ = (_, _)› ?_ | with_reducible apply State.stopFaulted_keeps
      | with_reducible apply State.respond_keeps | with_reducible apply OutKeeps.next | dsimp only | split

theorem State.withHeaders_keeps {r s : State} (h : Keeps r s) (m : MbId) (p : PartId) (bva len : Nat)
    {go : State → List Byte → List Byte → State} (e : ∀ t a b, Keeps r t → Keeps r (go t a b)) :
    Keeps r (State.withHeaders s m p bva len go) := by
  unfold State.withHeaders
  split
  · exact State.stopFaulted_keeps (Keeps.snd ‹_ = (_, _)› (State.readMany_keeps h _ _)) _ _
  · exact e _ _ _ (Keeps.snd ‹_ = (_, _)› (State.readMany_keeps h _ _))

theorem State.writeImage_keeps {r s : State} (h : Keeps r s) (m : MbId) (p : PartId) (at_ : ℕ) (step : ℕ) (img : ℕ) (data : List Byte) :
    Keeps r (State.writeImage s m p at_ step img data) := by
  unfold State.writeImage
  repeat'
    first
      | with_reducible assumption | with_reducible apply State.writeHbm_keeps
      | with_reducible refine Keeps.snd ‹_ = (_, _)› ?_ | with_reducible apply State.stopFaulted_keeps
      | with_reducible apply State.respond_keeps | dsimp only | split

theorem State.sendImage_keeps {r s : State} (h : Keeps r s) (m : MbId) (p : PartId) (dst : BitVec 14) (at_ : ℕ) (step : ℕ) (img : ℕ) (data : List Byte) :
    Keeps r (State.sendImage s m p dst at_ step img data) := by
  unfold State.sendImage
  repeat'
    first
      | with_reducible assumption | with_reducible apply State.needSess_keeps
      | with_reducible refine Keeps.snd ‹_ = (_, _)› ?_ | with_reducible apply State.respond_keeps
      | with_reducible apply State.sendList_keeps | with_reducible apply State.setCopy_keeps
      | with_reducible apply State.awaitWith_keeps | dsimp only | split

theorem State.withCopy_keeps {r s : State} (h : Keeps r s) (m : MbId) (p : PartId) {go : State → List Byte → State}
    (e : ∀ t b, Keeps r t → Keeps r (go t b)) : Keeps r (State.withCopy s m p go) := by
  unfold State.withCopy
  split
  · exact State.stopFaulted_keeps (Keeps.snd ‹_ = (_, _)› (State.readMany_keeps h _ _)) _ _
  · exact e _ _ (Keeps.snd ‹_ = (_, _)› (State.readMany_keeps h _ _))

theorem State.askImages_keeps {r s : State} (h : Keeps r s) (m : MbId) (p : PartId) (dst : BitVec 14) (runs : List (ℕ × ℕ × ℕ)) (k : ℕ → BitVec 32 → Copy) :
    Keeps r (State.askImages s m p dst runs k) := by
  unfold State.askImages
  repeat'
    first
      | with_reducible assumption | with_reducible apply State.needSess_keeps
      | with_reducible refine Keeps.snd ‹_ = (_, _)› ?_ | with_reducible apply State.respond_keeps
      | with_reducible apply State.sendList_keeps | with_reducible apply State.setCopy_keeps | dsimp only | split

theorem State.withFarHeaders_keeps {r s : State} (h : Keeps r s) (m : MbId) (x3 : MbReq) {go : List Byte → List Byte → State}
    (e : ∀ a b, Keeps r (go a b)) : Keeps r (State.withFarHeaders s m x3 go) := by
  unfold State.withFarHeaders
  repeat'
    first
      | with_reducible assumption | with_reducible apply State.respond_keeps
      | with_reducible apply State.askImages_keeps | with_reducible apply e | dsimp only | split

theorem execCheckpoint_keeps {r s : State} (h : Keeps r s) (mb : MbId) :
    OutKeeps r (execCheckpoint mb s) := by
  unfold execCheckpoint
  repeat'
    first
      | with_reducible assumption | with_reducible refine State.mbRun_keeps ?_ _ _ _ (fun _ => ?_)
      | with_reducible refine State.guarded_keeps ?_ _ _ ?_ | with_reducible apply State.setCopy_keeps
      | with_reducible refine State.withHeaders_keeps ?_ _ _ _ _ (fun _ _ _ _ => ?_)
      | with_reducible refine State.withCopy_keeps ?_ _ _ (fun _ _ _ => ?_)
      | with_reducible apply State.writeImage_keeps
      | with_reducible refine State.withFarHeaders_keeps ?_ _ _ (fun _ _ => ?_)
      | with_reducible apply State.sendImage_keeps | with_reducible apply OutKeeps.next | dsimp only | split

theorem State.writeTensors_keeps {r s : State} (h : Keeps r s) (p : PartId) (x3 : List (ℕ × ℕ)) (x4 : List Byte) :
    Keeps r (State.writeTensors s p x3 x4).2 := by
  revert h
  fun_induction State.writeTensors s p x3 x4
  all_goals intro h
  repeat'
    first
      | with_reducible assumption | with_reducible apply State.writeHbm_keeps
      | with_reducible refine Keeps.snd ‹_ = (_, _)› ?_ | apply_assumption | dsimp only | dsimp +zetaDelta only
      | split

theorem State.restoreFrom_keeps {r s : State} (h : Keeps r s) (m : MbId) (p : PartId) (step : ℕ) (b : List Byte) :
    Keeps r (State.restoreFrom s m p step b) := by
  unfold State.restoreFrom
  repeat'
    first
      | with_reducible assumption | with_reducible refine State.guarded_keeps ?_ _ _ ?_
      | with_reducible apply State.writeTensors_keeps | with_reducible refine Keeps.snd ‹_ = (_, _)› ?_
      | with_reducible apply State.stopFaulted_keeps | with_reducible apply State.respond_keeps
      | with_reducible apply State.modUe_keeps | dsimp only | split

theorem State.withImage_keeps {r s : State} (h : Keeps r s) (m : MbId) (p : PartId) (bva len step : Nat)
    {go : State → List Byte → State} (e : ∀ t b, Keeps r t → Keeps r (go t b)) :
    Keeps r (State.withImage s m p bva len step go) := by
  unfold State.withImage
  refine State.withHeaders_keeps h _ _ _ _ fun t a b k => ?_
  dsimp only
  split
  · exact State.stopFaulted_keeps (Keeps.snd ‹_ = (_, _)› (State.readHbm_keeps k _ _ _)) _ _
  · exact e _ _ (Keeps.snd ‹_ = (_, _)› (State.readHbm_keeps k _ _ _))

theorem State.restoreFar_keeps {r s : State} (h : Keeps r s) (m : MbId) (x3 : MbReq) (image : List Byte) :
    Keeps r (State.restoreFar s m x3 image) := by
  unfold State.restoreFar
  repeat'
    first
      | with_reducible assumption | with_reducible apply State.respond_keeps
      | with_reducible apply State.restoreFrom_keeps
      | with_reducible refine State.withFarHeaders_keeps ?_ _ _ (fun _ _ => ?_)
      | with_reducible apply State.askImages_keeps | dsimp only | split

theorem execRestore_keeps {r s : State} (h : Keeps r s) (mb : MbId) (image : List Byte) :
    OutKeeps r (execRestore mb image s) := by
  unfold execRestore
  repeat'
    first
      | with_reducible assumption | with_reducible refine State.mbRun_keeps ?_ _ _ _ (fun _ => ?_)
      | with_reducible refine State.guarded_keeps ?_ _ _ ?_
      | with_reducible refine State.withImage_keeps ?_ _ _ _ _ _ (fun _ _ _ => ?_)
      | with_reducible apply State.restoreFrom_keeps | with_reducible apply State.restoreFar_keeps
      | with_reducible apply OutKeeps.next | dsimp only | split

theorem execModuleStatus_keeps {r s : State} (h : Keeps r s) (mb : MbId) :
    OutKeeps r (execModuleStatus mb s) := by
  unfold execModuleStatus
  repeat'
    first
      | with_reducible assumption | with_reducible refine State.mbRun_keeps ?_ _ _ _ (fun _ => ?_)
      | with_reducible apply State.respond_keeps | with_reducible apply OutKeeps.next | dsimp only | split

theorem execEventRead_keeps {r s : State} (h : Keeps r s) (mb : MbId) :
    OutKeeps r (execEventRead mb s) := by
  unfold execEventRead
  repeat'
    first
      | with_reducible assumption | with_reducible refine State.mbRun_keeps ?_ _ _ _ (fun _ => ?_)
      | with_reducible apply State.modReg_keeps | with_reducible apply State.respond_keeps
      | with_reducible apply State.freeNext_keeps | with_reducible apply OutKeeps.next | dsimp only | split

theorem State.telemetryClear_keeps {r s : State} (h : Keeps r s) (set : ℕ) :
    Keeps r (State.telemetryClear s set) := by
  unfold State.telemetryClear
  repeat'
    first
      | with_reducible assumption | dsimp only | split | with_reducible apply Keeps.upd

theorem execTelemetryRead_keeps {r s : State} (h : Keeps r s) (mb : MbId) :
    OutKeeps r (execTelemetryRead mb s) := by
  unfold execTelemetryRead
  repeat'
    first
      | with_reducible assumption | with_reducible refine State.mbRun_keeps ?_ _ _ _ (fun _ => ?_)
      | with_reducible apply State.telemetryClear_keeps | with_reducible refine State.guarded_keeps ?_ _ _ ?_
      | with_reducible apply State.respond_keeps | with_reducible apply OutKeeps.next | dsimp only | split
      | with_reducible apply Keeps.upd

theorem execFruRead_keeps {r s : State} (h : Keeps r s) (mb : MbId) :
    OutKeeps r (execFruRead mb s) := by
  unfold execFruRead
  repeat'
    first
      | with_reducible assumption | with_reducible refine State.mbRun_keeps ?_ _ _ _ (fun _ => ?_)
      | with_reducible refine State.guarded_keeps ?_ _ _ ?_ | with_reducible apply State.respond_keeps
      | with_reducible apply OutKeeps.next | dsimp only | split

theorem execAttest_keeps {r s : State} (h : Keeps r s) (mb : MbId) :
    OutKeeps r (execAttest mb s) := by
  unfold execAttest
  repeat'
    first
      | with_reducible assumption | with_reducible refine State.mbRun_keeps ?_ _ _ _ (fun _ => ?_)
      | with_reducible apply State.freeNext_keeps | with_reducible refine State.guarded_keeps ?_ _ _ ?_
      | with_reducible apply State.respond_keeps | with_reducible apply State.modReg_keeps
      | with_reducible apply OutKeeps.next | dsimp only | split

theorem execBadCommand_keeps {r s : State} (h : Keeps r s) (mb : MbId) :
    OutKeeps r (execBadCommand mb s) := by
  unfold execBadCommand
  repeat'
    first
      | with_reducible assumption | with_reducible apply State.settle_keeps
      | with_reducible apply State.respond_keeps | with_reducible apply OutKeeps.next | dsimp only | split

end Sys2Proof.Machine
end

