-- ==== Sys2Proof/Laws/KeepsExec.lean ====
section
/-! SUPPORT. What every command keeps but those of the hot-swap controller, of the supplies and of the fuses. -/

namespace Sys2Proof.Machine

theorem Core.reset_ok : Core.reset.mem.Ok := ⟨rfl, rfl⟩

/-- The memories at reset are in canonical form. -/
theorem State.reset_mem : State.reset.MemOk :=
  ⟨rfl, fun c => by simpa [State.core, State.reset] using Core.reset_ok⟩

/-- Without power the memories are empty, in canonical form. -/
theorem State.powerOff_mem (s : State) : s.powerOff.MemOk := State.reset_mem

/-- MODULE_READY keeps everything but the anti-rollback counter. -/
theorem execModuleReady_split {s t : State} (e : execModuleReady s = .next t) :
    t = s ∨ ∃ u, Keeps s u ∧ Keeps u.readyArc t := by
  unfold execModuleReady at e
  split at e
  · injection e with e
    subst e
    exact .inr ⟨_, State.readyShutdown_keeps (State.readyLog_keeps (Keeps.refl s)),
      State.settle_keeps (State.announce_keeps (State.retarget_keeps (Keeps.refl _)))⟩
  · injection e with e
    exact .inl e.symm

theorem State.readyArc_mem {s : State} (h : s.MemOk) : s.readyArc.MemOk := by
  unfold State.readyArc
  split
  · exact (State.logEvent_keeps (Keeps.refl s) evArcAdvance 52 srcNone []).mem h
  · exact h

theorem State.readyArc_hs (s : State) : s.readyArc.hs = s.hs ∧ s.readyArc.aon.supply = s.aon.supply ∧ s.readyArc.pending = s.pending := by
  unfold State.readyArc
  split
  · have k := State.logEvent_keeps (Keeps.refl s) evArcAdvance 52 srcNone []
    exact ⟨k.hs, k.supply, k.pending⟩
  · exact ⟨rfl, rfl, rfl⟩

theorem exec_ldw_keeps (s : State) (x0 : _) (x1 : _) : OutKeeps s (exec (.ldw x0 x1) s) :=
  execLdw_keeps (Keeps.refl s) _ _

theorem exec_mma_keeps (s : State) (x0 : _) (x1 : _) : OutKeeps s (exec (.mma x0 x1) s) :=
  execMma_keeps (Keeps.refl s) _ _

theorem exec_dist_keeps (s : State) (x0 : _) (x1 : _) : OutKeeps s (exec (.dist x0 x1) s) :=
  execDist_keeps (Keeps.refl s) _ _

theorem exec_red_keeps (s : State) (x0 : _) (x1 : _) : OutKeeps s (exec (.red x0 x1) s) :=
  execRed_keeps (Keeps.refl s) _ _

theorem exec_epi_keeps (s : State) (x0 : _) (x1 : _) : OutKeeps s (exec (.epi x0 x1) s) :=
  execEpi_keeps (Keeps.refl s) _ _

theorem exec_exchangeEpi_keeps (s : State) (x0 : _) (x1 : _) : OutKeeps s (exec (.exchangeEpi x0 x1) s) :=
  execExchangeEpi_keeps (Keeps.refl s) _ _

theorem exec_vec_keeps (s : State) (x0 : _) (x1 : _) : OutKeeps s (exec (.vec x0 x1) s) :=
  execVec_keeps (Keeps.refl s) _ _

theorem exec_xpose_keeps (s : State) (x0 : _) (x1 : _) : OutKeeps s (exec (.xpose x0 x1) s) :=
  execXpose_keeps (Keeps.refl s) _ _

theorem exec_routeDispatch_keeps (s : State) (x0 : _) (x1 : _) : OutKeeps s (exec (.routeDispatch x0 x1) s) :=
  execRouteDispatch_keeps (Keeps.refl s) _ _

theorem exec_routeReuse_keeps (s : State) (x0 : _) (x1 : _) : OutKeeps s (exec (.routeReuse x0 x1) s) :=
  execRouteReuse_keeps (Keeps.refl s) _ _

theorem exec_routeCombine_keeps (s : State) (x0 : _) (x1 : _) : OutKeeps s (exec (.routeCombine x0 x1) s) :=
  execRouteCombine_keeps (Keeps.refl s) _ _

theorem exec_send_keeps (s : State) (x0 : _) (x1 : _) : OutKeeps s (exec (.send x0 x1) s) :=
  execSend_keeps (Keeps.refl s) _ _

theorem exec_sendReduceScatter_keeps (s : State) (x0 : _) (x1 : _) : OutKeeps s (exec (.sendReduceScatter x0 x1) s) :=
  execSendReduceScatter_keeps (Keeps.refl s) _ _

theorem exec_sendA2aReturn_keeps (s : State) (x0 : _) (x1 : _) : OutKeeps s (exec (.sendA2aReturn x0 x1) s) :=
  execSendA2aReturn_keeps (Keeps.refl s) _ _

theorem exec_sendBroadcast_keeps (s : State) (x0 : _) (x1 : _) : OutKeeps s (exec (.sendBroadcast x0 x1) s) :=
  execSendBroadcast_keeps (Keeps.refl s) _ _

theorem exec_permute_keeps (s : State) (x0 : _) (x1 : _) : OutKeeps s (exec (.permute x0 x1) s) :=
  execPermute_keeps (Keeps.refl s) _ _

theorem exec_recv_keeps (s : State) (x0 : _) (x1 : _) : OutKeeps s (exec (.recv x0 x1) s) :=
  execRecv_keeps (Keeps.refl s) _ _

theorem exec_recvAllGather_keeps (s : State) (x0 : _) (x1 : _) : OutKeeps s (exec (.recvAllGather x0 x1) s) :=
  execRecvAllGather_keeps (Keeps.refl s) _ _

theorem exec_stash_keeps (s : State) (x0 : _) (x1 : _) : OutKeeps s (exec (.stash x0 x1) s) :=
  execStash_keeps (Keeps.refl s) _ _

theorem exec_unstash_keeps (s : State) (x0 : _) (x1 : _) : OutKeeps s (exec (.unstash x0 x1) s) :=
  execUnstash_keeps (Keeps.refl s) _ _

theorem exec_fence_keeps (s : State) (x0 : _) (x1 : _) : OutKeeps s (exec (.fence x0 x1) s) :=
  execFence_keeps (Keeps.refl s) _ _

theorem exec_waitq_keeps (s : State) (x0 : _) (x1 : _) : OutKeeps s (exec (.waitq x0 x1) s) :=
  execWaitq_keeps (Keeps.refl s) _ _

theorem exec_mark_keeps (s : State) (x0 : _) (x1 : _) : OutKeeps s (exec (.mark x0 x1) s) :=
  execMark_keeps (Keeps.refl s) _ _

theorem exec_deadline_keeps (s : State) (x0 : _) (x1 : _) : OutKeeps s (exec (.deadline x0 x1) s) :=
  execDeadline_keeps (Keeps.refl s) _ _

theorem exec_seed_keeps (s : State) (x0 : _) (x1 : _) : OutKeeps s (exec (.seed x0 x1) s) :=
  execSeed_keeps (Keeps.refl s) _ _

theorem exec_upd_keeps (s : State) (x0 : _) (x1 : _) : OutKeeps s (exec (.upd x0 x1) s) :=
  execUpd_keeps (Keeps.refl s) _ _

theorem exec_jump_keeps (s : State) (x0 : _) (x1 : _) : OutKeeps s (exec (.jump x0 x1) s) :=
  execJump_keeps (Keeps.refl s) _ _

theorem exec_call_keeps (s : State) (x0 : _) (x1 : _) : OutKeeps s (exec (.call x0 x1) s) :=
  execCall_keeps (Keeps.refl s) _ _

theorem exec_ret_keeps (s : State) (x0 : _) (x1 : _) : OutKeeps s (exec (.ret x0 x1) s) :=
  execRet_keeps (Keeps.refl s) _ _

theorem exec_loop_keeps (s : State) (x0 : _) (x1 : _) : OutKeeps s (exec (.loop x0 x1) s) :=
  execLoop_keeps (Keeps.refl s) _ _

theorem exec_setlc_keeps (s : State) (x0 : _) (x1 : _) : OutKeeps s (exec (.setlc x0 x1) s) :=
  execSetlc_keeps (Keeps.refl s) _ _

theorem exec_lossGuard_keeps (s : State) (x0 : _) (x1 : _) : OutKeeps s (exec (.lossGuard x0 x1) s) :=
  execLossGuard_keeps (Keeps.refl s) _ _

theorem exec_endStream_keeps (s : State) (x0 : _) (x1 : _) : OutKeeps s (exec (.endStream x0 x1) s) :=
  execEndStream_keeps (Keeps.refl s) _ _

theorem exec_badOpcode_keeps (s : State) (x0 : _) (x1 : _) (x2 : _) : OutKeeps s (exec (.badOpcode x0 x1 x2) s) :=
  execBadOpcode_keeps (Keeps.refl s) _ _ _

theorem exec_fetchError_keeps (s : State) (x0 : _) : OutKeeps s (exec (.fetchError x0) s) :=
  execFetchError_keeps (Keeps.refl s) _

theorem exec_commandRetire_keeps (s : State) (x0 : _) : OutKeeps s (exec (.commandRetire x0) s) :=
  execCommandRetire_keeps (Keeps.refl s) _

theorem exec_deadlinePassed_keeps (s : State) (x0 : _) (x1 : _) : OutKeeps s (exec (.deadlinePassed x0 x1) s) :=
  execDeadlinePassed_keeps (Keeps.refl s) _ _

theorem exec_waitqTimeout_keeps (s : State) (x0 : _) : OutKeeps s (exec (.waitqTimeout x0) s) :=
  execWaitqTimeout_keeps (Keeps.refl s) _

theorem exec_roundAdmission_keeps (s : State) (x0 : _) : OutKeeps s (exec (.roundAdmission x0) s) :=
  execRoundAdmission_keeps (Keeps.refl s) _

theorem exec_amaxPush_keeps (s : State) (x0 : _) : OutKeeps s (exec (.amaxPush x0) s) :=
  execAmaxPush_keeps (Keeps.refl s) _

theorem exec_stashRelease_keeps (s : State) (x0 : _) : OutKeeps s (exec (.stashRelease x0) s) :=
  execStashRelease_keeps (Keeps.refl s) _

theorem exec_descriptorTake_keeps (s : State) (x0 : _) : OutKeeps s (exec (.descriptorTake x0) s) :=
  execDescriptorTake_keeps (Keeps.refl s) _

theorem exec_descriptorIssue_keeps (s : State) (x0 : _) : OutKeeps s (exec (.descriptorIssue x0) s) :=
  execDescriptorIssue_keeps (Keeps.refl s) _

theorem exec_transferLanded_keeps (s : State) (x0 : _) (x1 : _) (x2 : _) (x3 : _) : OutKeeps s (exec (.transferLanded x0 x1 x2 x3) s) :=
  execTransferLanded_keeps (Keeps.refl s) _ _ _ _

theorem exec_itemComplete_keeps (s : State) (x0 : _) : OutKeeps s (exec (.itemComplete x0) s) :=
  execItemComplete_keeps (Keeps.refl s) _

theorem exec_descriptorCacheFill_keeps (s : State) (x0 : _) : OutKeeps s (exec (.descriptorCacheFill x0) s) :=
  execDescriptorCacheFill_keeps (Keeps.refl s) _

theorem exec_translationWalk_keeps (s : State) (x0 : _) (x1 : _) : OutKeeps s (exec (.translationWalk x0 x1) s) :=
  execTranslationWalk_keeps (Keeps.refl s) _ _

theorem exec_superblockComplete_keeps (s : State) (x0 : _) : OutKeeps s (exec (.superblockComplete x0) s) :=
  execSuperblockComplete_keeps (Keeps.refl s) _

theorem exec_precondPhase2_keeps (s : State) (x0 : _) : OutKeeps s (exec (.precondPhase2 x0) s) :=
  execPrecondPhase2_keeps (Keeps.refl s) _

theorem exec_updPendingApply_keeps (s : State) (x0 : _) : OutKeeps s (exec (.updPendingApply x0) s) :=
  execUpdPendingApply_keeps (Keeps.refl s) _

theorem exec_gatherServe_keeps (s : State) (x0 : _) : OutKeeps s (exec (.gatherServe x0) s) :=
  execGatherServe_keeps (Keeps.refl s) _

theorem exec_dataReceive_keeps (s : State) (x0 : _) : OutKeeps s (exec (.dataReceive x0) s) :=
  execDataReceive_keeps (Keeps.refl s) _

theorem exec_ackReceive_keeps (s : State) (x0 : _) : OutKeeps s (exec (.ackReceive x0) s) :=
  execAckReceive_keeps (Keeps.refl s) _

theorem exec_keepaliveReceive_keeps (s : State) (x0 : _) : OutKeeps s (exec (.keepaliveReceive x0) s) :=
  execKeepaliveReceive_keeps (Keeps.refl s) _

theorem exec_openReceive_keeps (s : State) (x0 : _) (x1 : _) : OutKeeps s (exec (.openReceive x0 x1) s) :=
  execOpenReceive_keeps (Keeps.refl s) _ _

theorem exec_openAckReceive_keeps (s : State) (x0 : _) : OutKeeps s (exec (.openAckReceive x0) s) :=
  execOpenAckReceive_keeps (Keeps.refl s) _

theorem exec_closeReceive_keeps (s : State) (x0 : _) : OutKeeps s (exec (.closeReceive x0) s) :=
  execCloseReceive_keeps (Keeps.refl s) _

theorem exec_creditReceive_keeps (s : State) (x0 : _) : OutKeeps s (exec (.creditReceive x0) s) :=
  execCreditReceive_keeps (Keeps.refl s) _

theorem exec_noticeSkip_keeps (s : State) (x0 : _) : OutKeeps s (exec (.noticeSkip x0) s) :=
  execNoticeSkip_keeps (Keeps.refl s) _

theorem exec_noticeNorm_keeps (s : State) (x0 : _) : OutKeeps s (exec (.noticeNorm x0) s) :=
  execNoticeNorm_keeps (Keeps.refl s) _

theorem exec_noticePeerLost_keeps (s : State) (x0 : _) : OutKeeps s (exec (.noticePeerLost x0) s) :=
  execNoticePeerLost_keeps (Keeps.refl s) _

theorem exec_noticeReady_keeps (s : State) (x0 : _) : OutKeeps s (exec (.noticeReady x0) s) :=
  execNoticeReady_keeps (Keeps.refl s) _

theorem exec_rsContributionReceive_keeps (s : State) (x0 : _) : OutKeeps s (exec (.rsContributionReceive x0) s) :=
  execRsContributionReceive_keeps (Keeps.refl s) _

theorem exec_gatherRequestReceive_keeps (s : State) (x0 : _) : OutKeeps s (exec (.gatherRequestReceive x0) s) :=
  execGatherRequestReceive_keeps (Keeps.refl s) _

theorem exec_a2aMessageReceive_keeps (s : State) (x0 : _) : OutKeeps s (exec (.a2aMessageReceive x0) s) :=
  execA2aMessageReceive_keeps (Keeps.refl s) _

theorem exec_a2aReturnReceive_keeps (s : State) (x0 : _) : OutKeeps s (exec (.a2aReturnReceive x0) s) :=
  execA2aReturnReceive_keeps (Keeps.refl s) _

theorem exec_ackTimer_keeps (s : State) (x0 : _) : OutKeeps s (exec (.ackTimer x0) s) :=
  execAckTimer_keeps (Keeps.refl s) _

theorem exec_retransmitTimer_keeps (s : State) (x0 : _) (x1 : _) : OutKeeps s (exec (.retransmitTimer x0 x1) s) :=
  execRetransmitTimer_keeps (Keeps.refl s) _ _

theorem exec_keepaliveTimer_keeps (s : State) (x0 : _) : OutKeeps s (exec (.keepaliveTimer x0) s) :=
  execKeepaliveTimer_keeps (Keeps.refl s) _

theorem exec_keepaliveSilence_keeps (s : State) (x0 : _) : OutKeeps s (exec (.keepaliveSilence x0) s) :=
  execKeepaliveSilence_keeps (Keeps.refl s) _

theorem exec_portSignalDetect_keeps (s : State) (x0 : _) : OutKeeps s (exec (.portSignalDetect x0) s) :=
  execPortSignalDetect_keeps (Keeps.refl s) _

theorem exec_autonegComplete_keeps (s : State) (x0 : _) : OutKeeps s (exec (.autonegComplete x0) s) :=
  execAutonegComplete_keeps (Keeps.refl s) _

theorem exec_linkTrainingComplete_keeps (s : State) (x0 : _) : OutKeeps s (exec (.linkTrainingComplete x0) s) :=
  execLinkTrainingComplete_keeps (Keeps.refl s) _

theorem exec_pcsLock_keeps (s : State) (x0 : _) : OutKeeps s (exec (.pcsLock x0) s) :=
  execPcsLock_keeps (Keeps.refl s) _

theorem exec_portDown_keeps (s : State) (x0 : _) (x1 : _) : OutKeeps s (exec (.portDown x0 x1) s) :=
  execPortDown_keeps (Keeps.refl s) _ _

theorem exec_helloReceive_keeps (s : State) (x0 : _) (x1 : _) : OutKeeps s (exec (.helloReceive x0 x1) s) :=
  execHelloReceive_keeps (Keeps.refl s) _ _

theorem exec_helloTimer_keeps (s : State) (x0 : _) : OutKeeps s (exec (.helloTimer x0) s) :=
  execHelloTimer_keeps (Keeps.refl s) _

theorem exec_directTimeout_keeps (s : State) (x0 : _) : OutKeeps s (exec (.directTimeout x0) s) :=
  execDirectTimeout_keeps (Keeps.refl s) _

theorem exec_stepWindow_keeps (s : State) (x0 : _) (x1 : _) (x2 : _) : OutKeeps s (exec (.stepWindow x0 x1 x2) s) :=
  execStepWindow_keeps (Keeps.refl s) _ _ _

theorem exec_stepReqReceive_keeps (s : State) (x0 : _) (x1 : _) : OutKeeps s (exec (.stepReqReceive x0 x1) s) :=
  execStepReqReceive_keeps (Keeps.refl s) _ _

theorem exec_stepAckReceive_keeps (s : State) (x0 : _) (x1 : _) : OutKeeps s (exec (.stepAckReceive x0 x1) s) :=
  execStepAckReceive_keeps (Keeps.refl s) _ _

theorem exec_stepNakReceive_keeps (s : State) (x0 : _) (x1 : _) : OutKeeps s (exec (.stepNakReceive x0 x1) s) :=
  execStepNakReceive_keeps (Keeps.refl s) _ _

theorem exec_stepReqTimeout_keeps (s : State) (x0 : _) : OutKeeps s (exec (.stepReqTimeout x0) s) :=
  execStepReqTimeout_keeps (Keeps.refl s) _

theorem exec_laneSwitch_keeps (s : State) (x0 : _) : OutKeeps s (exec (.laneSwitch x0) s) :=
  execLaneSwitch_keeps (Keeps.refl s) _

theorem exec_adaptWindowDue_keeps (s : State) (x0 : _) : OutKeeps s (exec (.adaptWindowDue x0) s) :=
  execAdaptWindowDue_keeps (Keeps.refl s) _

theorem exec_adaptFloorForced_keeps (s : State) (x0 : _) : OutKeeps s (exec (.adaptFloorForced x0) s) :=
  execAdaptFloorForced_keeps (Keeps.refl s) _

theorem exec_adaptReqReceive_keeps (s : State) (x0 : _) (x1 : _) : OutKeeps s (exec (.adaptReqReceive x0 x1) s) :=
  execAdaptReqReceive_keeps (Keeps.refl s) _ _

theorem exec_adaptAckReceive_keeps (s : State) (x0 : _) (x1 : _) : OutKeeps s (exec (.adaptAckReceive x0 x1) s) :=
  execAdaptAckReceive_keeps (Keeps.refl s) _ _

theorem exec_adaptWindowEnd_keeps (s : State) (x0 : _) (x1 : _) : OutKeeps s (exec (.adaptWindowEnd x0 x1) s) :=
  execAdaptWindowEnd_keeps (Keeps.refl s) _ _

theorem exec_frameReceive_keeps (s : State) (x0 : _) (x1 : _) (x2 : _) (x3 : _) : OutKeeps s (exec (.frameReceive x0 x1 x2 x3) s) :=
  execFrameReceive_keeps (Keeps.refl s) _ _ _ _

theorem exec_assemblyTimeout_keeps (s : State) (x0 : _) : OutKeeps s (exec (.assemblyTimeout x0) s) :=
  execAssemblyTimeout_keeps (Keeps.refl s) _

theorem exec_frameTransmit_keeps (s : State) (x0 : _) (x1 : _) : OutKeeps s (exec (.frameTransmit x0 x1) s) :=
  execFrameTransmit_keeps (Keeps.refl s) _ _

theorem exec_announceTimer_keeps (s : State) : OutKeeps s (exec .announceTimer s) :=
  execAnnounceTimer_keeps (Keeps.refl s)

theorem exec_announceReceive_keeps (s : State) (x0 : _) : OutKeeps s (exec (.announceReceive x0) s) :=
  execAnnounceReceive_keeps (Keeps.refl s) _

theorem exec_announceAbsence_keeps (s : State) (x0 : _) : OutKeeps s (exec (.announceAbsence x0) s) :=
  execAnnounceAbsence_keeps (Keeps.refl s) _

theorem exec_mpCollision_keeps (s : State) : OutKeeps s (exec .mpCollision s) :=
  execMpCollision_keeps (Keeps.refl s)

theorem exec_mpRequestSegment_keeps (s : State) (x0 : _) : OutKeeps s (exec (.mpRequestSegment x0) s) :=
  execMpRequestSegment_keeps (Keeps.refl s) _

theorem exec_mpRequestTimeout_keeps (s : State) (x0 : _) : OutKeeps s (exec (.mpRequestTimeout x0) s) :=
  execMpRequestTimeout_keeps (Keeps.refl s) _

theorem exec_hostMessage_keeps (s : State) (x0 : _) : OutKeeps s (exec (.hostMessage x0) s) :=
  execHostMessage_keeps (Keeps.refl s) _

theorem exec_mbDoorbell_keeps (s : State) (x0 : _) (x1 : _) : OutKeeps s (exec (.mbDoorbell x0 x1) s) :=
  execMbDoorbell_keeps (Keeps.refl s) _ _

theorem exec_mbAbort_keeps (s : State) (x0 : _) : OutKeeps s (exec (.mbAbort x0) s) :=
  execMbAbort_keeps (Keeps.refl s) _

theorem exec_mbRole_keeps (s : State) (x0 : _) : OutKeeps s (exec (.mbRole x0) s) :=
  execMbRole_keeps (Keeps.refl s) _

theorem exec_hostTable_keeps (s : State) (x0 : _) : OutKeeps s (exec (.hostTable x0) s) :=
  execHostTable_keeps (Keeps.refl s) _

theorem exec_moduleSet_keeps (s : State) (x0 : _) : OutKeeps s (exec (.moduleSet x0) s) :=
  execModuleSet_keeps (Keeps.refl s) _

theorem exec_portSet_keeps (s : State) (x0 : _) : OutKeeps s (exec (.portSet x0) s) :=
  execPortSet_keeps (Keeps.refl s) _

theorem exec_steerSet_keeps (s : State) (x0 : _) : OutKeeps s (exec (.steerSet x0) s) :=
  execSteerSet_keeps (Keeps.refl s) _

theorem exec_fwdSet_keeps (s : State) (x0 : _) : OutKeeps s (exec (.fwdSet x0) s) :=
  execFwdSet_keeps (Keeps.refl s) _

theorem exec_plCap_keeps (s : State) (x0 : _) : OutKeeps s (exec (.plCap x0) s) :=
  execPlCap_keeps (Keeps.refl s) _

theorem exec_sleep_keeps (s : State) (x0 : _) : OutKeeps s (exec (.sleep x0) s) :=
  execSleep_keeps (Keeps.refl s) _

theorem exec_resetWarm_keeps (s : State) (x0 : _) : OutKeeps s (exec (.resetWarm x0) s) :=
  execResetWarm_keeps (Keeps.refl s) _

theorem exec_resetRetrain_keeps (s : State) (x0 : _) : OutKeeps s (exec (.resetRetrain x0) s) :=
  execResetRetrain_keeps (Keeps.refl s) _

theorem exec_islandReset_keeps (s : State) (x0 : _) : OutKeeps s (exec (.islandReset x0) s) :=
  execIslandReset_keeps (Keeps.refl s) _

theorem exec_flashWriteFirmware_keeps (s : State) (x0 : _) : OutKeeps s (exec (.flashWriteFirmware x0) s) :=
  execFlashWriteFirmware_keeps (Keeps.refl s) _

theorem exec_flashWriteCalibration_keeps (s : State) (x0 : _) : OutKeeps s (exec (.flashWriteCalibration x0) s) :=
  execFlashWriteCalibration_keeps (Keeps.refl s) _

theorem exec_flashWriteConfig_keeps (s : State) (x0 : _) : OutKeeps s (exec (.flashWriteConfig x0) s) :=
  execFlashWriteConfig_keeps (Keeps.refl s) _

theorem exec_partCreate_keeps (s : State) (x0 : _) : OutKeeps s (exec (.partCreate x0) s) :=
  execPartCreate_keeps (Keeps.refl s) _

theorem exec_partDelete_keeps (s : State) (x0 : _) : OutKeeps s (exec (.partDelete x0) s) :=
  execPartDelete_keeps (Keeps.refl s) _

theorem exec_partReset_keeps (s : State) (x0 : _) : OutKeeps s (exec (.partReset x0) s) :=
  execPartReset_keeps (Keeps.refl s) _

theorem exec_coreAssign_keeps (s : State) (x0 : _) : OutKeeps s (exec (.coreAssign x0) s) :=
  execCoreAssign_keeps (Keeps.refl s) _

theorem exec_coreUnassign_keeps (s : State) (x0 : _) : OutKeeps s (exec (.coreUnassign x0) s) :=
  execCoreUnassign_keeps (Keeps.refl s) _

theorem exec_regionMap_keeps (s : State) (x0 : _) : OutKeeps s (exec (.regionMap x0) s) :=
  execRegionMap_keeps (Keeps.refl s) _

theorem exec_regionUnmap_keeps (s : State) (x0 : _) : OutKeeps s (exec (.regionUnmap x0) s) :=
  execRegionUnmap_keeps (Keeps.refl s) _

theorem exec_regionSetRights_keeps (s : State) (x0 : _) : OutKeeps s (exec (.regionSetRights x0) s) :=
  execRegionSetRights_keeps (Keeps.refl s) _

theorem exec_stashSet_keeps (s : State) (x0 : _) : OutKeeps s (exec (.stashSet x0) s) :=
  execStashSet_keeps (Keeps.refl s) _

theorem exec_queueCreate_keeps (s : State) (x0 : _) : OutKeeps s (exec (.queueCreate x0) s) :=
  execQueueCreate_keeps (Keeps.refl s) _

theorem exec_queueEnable_keeps (s : State) (x0 : _) : OutKeeps s (exec (.queueEnable x0) s) :=
  execQueueEnable_keeps (Keeps.refl s) _

theorem exec_queueDisable_keeps (s : State) (x0 : _) : OutKeeps s (exec (.queueDisable x0) s) :=
  execQueueDisable_keeps (Keeps.refl s) _

theorem exec_queueDelete_keeps (s : State) (x0 : _) : OutKeeps s (exec (.queueDelete x0) s) :=
  execQueueDelete_keeps (Keeps.refl s) _

theorem exec_programLoad_keeps (s : State) (x0 : _) : OutKeeps s (exec (.programLoad x0) s) :=
  execProgramLoad_keeps (Keeps.refl s) _

theorem exec_streamStart_keeps (s : State) (x0 : _) : OutKeeps s (exec (.streamStart x0) s) :=
  execStreamStart_keeps (Keeps.refl s) _

theorem exec_streamCancel_keeps (s : State) (x0 : _) : OutKeeps s (exec (.streamCancel x0) s) :=
  execStreamCancel_keeps (Keeps.refl s) _

theorem exec_plRequest_keeps (s : State) (x0 : _) : OutKeeps s (exec (.plRequest x0) s) :=
  execPlRequest_keeps (Keeps.refl s) _

theorem exec_queueRead_keeps (s : State) (x0 : _) : OutKeeps s (exec (.queueRead x0) s) :=
  execQueueRead_keeps (Keeps.refl s) _

theorem exec_queueDoorbell_keeps (s : State) (x0 : _) : OutKeeps s (exec (.queueDoorbell x0) s) :=
  execQueueDoorbell_keeps (Keeps.refl s) _

theorem exec_queueAbort_keeps (s : State) (x0 : _) : OutKeeps s (exec (.queueAbort x0) s) :=
  execQueueAbort_keeps (Keeps.refl s) _

theorem exec_counterRead_keeps (s : State) (x0 : _) : OutKeeps s (exec (.counterRead x0) s) :=
  execCounterRead_keeps (Keeps.refl s) _

theorem exec_stepLogRead_keeps (s : State) (x0 : _) : OutKeeps s (exec (.stepLogRead x0) s) :=
  execStepLogRead_keeps (Keeps.refl s) _

theorem exec_auditState_keeps (s : State) (x0 : _) : OutKeeps s (exec (.auditState x0) s) :=
  execAuditState_keeps (Keeps.refl s) _

theorem exec_checkpoint_keeps (s : State) (x0 : _) : OutKeeps s (exec (.checkpoint x0) s) :=
  execCheckpoint_keeps (Keeps.refl s) _

theorem exec_restore_keeps (s : State) (x0 : _) (x1 : _) : OutKeeps s (exec (.restore x0 x1) s) :=
  execRestore_keeps (Keeps.refl s) _ _

theorem exec_partStatus_keeps (s : State) (x0 : _) : OutKeeps s (exec (.partStatus x0) s) :=
  execPartStatus_keeps (Keeps.refl s) _

theorem exec_moduleStatus_keeps (s : State) (x0 : _) : OutKeeps s (exec (.moduleStatus x0) s) :=
  execModuleStatus_keeps (Keeps.refl s) _

theorem exec_eventRead_keeps (s : State) (x0 : _) : OutKeeps s (exec (.eventRead x0) s) :=
  execEventRead_keeps (Keeps.refl s) _

theorem exec_telemetryRead_keeps (s : State) (x0 : _) : OutKeeps s (exec (.telemetryRead x0) s) :=
  execTelemetryRead_keeps (Keeps.refl s) _

theorem exec_fruRead_keeps (s : State) (x0 : _) : OutKeeps s (exec (.fruRead x0) s) :=
  execFruRead_keeps (Keeps.refl s) _

theorem exec_attest_keeps (s : State) (x0 : _) : OutKeeps s (exec (.attest x0) s) :=
  execAttest_keeps (Keeps.refl s) _

theorem exec_badCommand_keeps (s : State) (x0 : _) : OutKeeps s (exec (.badCommand x0) s) :=
  execBadCommand_keeps (Keeps.refl s) _

theorem exec_mrstNAssert_keeps (s : State) (x0 : _) : OutKeeps s (exec (.mrstNAssert x0) s) :=
  execMrstNAssert_keeps (Keeps.refl s) _

theorem exec_mrstNRelease_keeps (s : State) : OutKeeps s (exec .mrstNRelease s) :=
  execMrstNRelease_keeps (Keeps.refl s)

theorem exec_mrstNLong_keeps (s : State) : OutKeeps s (exec .mrstNLong s) :=
  execMrstNLong_keeps (Keeps.refl s)

theorem exec_selfRefreshTimeout_keeps (s : State) (x0 : _) : OutKeeps s (exec (.selfRefreshTimeout x0) s) :=
  execSelfRefreshTimeout_keeps (Keeps.refl s) _

theorem exec_watchdogExpiry_keeps (s : State) (x0 : _) : OutKeeps s (exec (.watchdogExpiry x0) s) :=
  execWatchdogExpiry_keeps (Keeps.refl s) x0

theorem exec_fatalError_keeps (s : State) (x0 : _) : OutKeeps s (exec (.fatalError x0) s) :=
  execFatalError_keeps (Keeps.refl s) _

theorem exec_groupRelease_keeps (s : State) : OutKeeps s (exec .groupRelease s) :=
  execGroupRelease_keeps (Keeps.refl s)

theorem exec_hbmTrainingComplete_keeps (s : State) (x0 : _) : OutKeeps s (exec (.hbmTrainingComplete x0) s) :=
  execHbmTrainingComplete_keeps (Keeps.refl s) _

theorem exec_hbmSelfTestComplete_keeps (s : State) (x0 : _) : OutKeeps s (exec (.hbmSelfTestComplete x0) s) :=
  execHbmSelfTestComplete_keeps (Keeps.refl s) _

theorem exec_warmTrainingCheck_keeps (s : State) (x0 : _) (x1 : _) : OutKeeps s (exec (.warmTrainingCheck x0 x1) s) :=
  execWarmTrainingCheck_keeps (Keeps.refl s) _ _

theorem exec_rmvReq_keeps (s : State) (x0 : _) : OutKeeps s (exec (.rmvReq x0) s) :=
  execRmvReq_keeps (Keeps.refl s) _

theorem exec_quiesced_keeps (s : State) : OutKeeps s (exec .quiesced s) :=
  execQuiesced_keeps (Keeps.refl s)

theorem exec_controlLoopTick_keeps (s : State) (x0 : _) : OutKeeps s (exec (.controlLoopTick x0) s) :=
  execControlLoopTick_keeps (Keeps.refl s) _

theorem exec_thermCrit_keeps (s : State) (x0 : _) : OutKeeps s (exec (.thermCrit x0) s) :=
  execThermCrit_keeps (Keeps.refl s) _

theorem exec_thermCritRelease_keeps (s : State) (x0 : _) : OutKeeps s (exec (.thermCritRelease x0) s) :=
  execThermCritRelease_keeps (Keeps.refl s) _

theorem exec_levelChangeComplete_keeps (s : State) (x0 : _) : OutKeeps s (exec (.levelChangeComplete x0) s) :=
  execLevelChangeComplete_keeps (Keeps.refl s) _

theorem exec_telemetrySample_keeps (s : State) (x0 : _) : OutKeeps s (exec (.telemetrySample x0) s) :=
  execTelemetrySample_keeps (Keeps.refl s) _

theorem exec_wake_keeps (s : State) (x0 : _) : OutKeeps s (exec (.wake x0) s) :=
  execWake_keeps (Keeps.refl s) _

theorem exec_scrubSlotDue_keeps (s : State) (x0 : _) : OutKeeps s (exec (.scrubSlotDue x0) s) :=
  execScrubSlotDue_keeps (Keeps.refl s) _

theorem exec_scrubFloor_keeps (s : State) (x0 : _) (x1 : _) : OutKeeps s (exec (.scrubFloor x0 x1) s) :=
  execScrubFloor_keeps (Keeps.refl s) _ _

theorem exec_meshParityRetry_keeps (s : State) (x0 : _) (x1 : _) (x2 : _) (x3 : _) : OutKeeps s (exec (.meshParityRetry x0 x1 x2 x3) s) :=
  execMeshParityRetry_keeps (Keeps.refl s) _ _ _ _

theorem exec_mpBackoffEnd_keeps (s : State) : OutKeeps s (exec .mpBackoffEnd s) :=
  execMpBackoffEnd_keeps (Keeps.refl s)

theorem exec_gpioSecondPulse_keeps (s : State) (x0 : _) : OutKeeps s (exec (.gpioSecondPulse x0) s) :=
  execGpioSecondPulse_keeps (Keeps.refl s) _

theorem exec_stackTemperatureCrossing_keeps (s : State) (x0 : _) (x1 : _) : OutKeeps s (exec (.stackTemperatureCrossing x0 x1) s) :=
  execStackTemperatureCrossing_keeps (Keeps.refl s) _ _

end Sys2Proof.Machine
end

