-- ==== Sys2Proof/Laws/PerInstr.lean ====
section
/-! SUPPORT. What holds of every well-formed command as a term: a stream row carries a line of a defined opcode, and only
BAD_OPCODE one of an undefined opcode; a transport row carries a packet of its row's type with a legal payload. -/

namespace Sys2Proof.Laws.Carrier

/-- A well-formed command's line has a defined opcode unless it is the line of an undefined one, and its packet has its row's
TYPE and at most 8,192 payload bytes in whole 32-byte units. -/
def Statement (i : Instr) : Prop :=
  i.wf = true →
    (∀ c x, i.lineOf = some (c, x) → opcodeDefined (lineOpcode x) = !x.isBad) ∧
    (∀ k, i.packetOf = some k → k.type = i.packetType ∧ k.payload.length ≤ 8192 ∧ k.payload.length % 32 = 0)

/-- A row that carries neither a line nor a packet satisfies the statement. -/
theorem of_none {i : Instr} (h : i.lineOf = none) (e : i.packetOf = none) : Statement i :=
  fun _ => ⟨fun _ _ hx => by simp [h] at hx, fun _ hk => by simp [e] at hk⟩

/-- A row that carries no packet satisfies the statement when its line does. -/
theorem of_line {i : Instr} (h : i.packetOf = none)
    (l : i.wf = true → ∀ c x, i.lineOf = some (c, x) → opcodeDefined (lineOpcode x) = !x.isBad) : Statement i :=
  fun w => ⟨l w, fun k hk => by simp [h] at hk⟩

/-- A row that carries no line satisfies the statement when its packet does. -/
theorem of_packet {i : Instr} {k : Pkt} (h : i.lineOf = none) (e : i.packetOf = some k)
    (p : i.wf = true → pktOk i.packetType k = true) : Statement i := fun w => by
  refine ⟨fun c x hx => by simp [h] at hx, fun j hj => ?_⟩
  rw [e] at hj
  cases hj
  have := p w
  simp only [pktOk, payloadOk, Bool.and_eq_true, beq_iff_eq, decide_eq_true_eq] at this
  exact ⟨this.1, this.2.1, this.2.2⟩

theorem and_left {a b : Bool} (h : (a && b) = true) : a = true := by
  cases a
  · exact h
  · rfl

theorem notice_packet {kind : BitVec 8} {k : Pkt} (h : noticeOk kind k = true) : pktOk 8 k = true := and_left (and_left h)

theorem ldw (core : CoreId) (l : LdwLine) : Statement (.ldw core l) := of_line rfl fun _ _ _ h => by cases h; rfl

theorem mma (core : CoreId) (l : MmaLine) : Statement (.mma core l) := of_line rfl fun _ _ _ h => by cases h; rfl

theorem dist (core : CoreId) (l : MmaLine) : Statement (.dist core l) := of_line rfl fun _ _ _ h => by cases h; rfl

theorem red (core : CoreId) (l : RedLine) : Statement (.red core l) := of_line rfl fun _ _ _ h => by cases h; rfl

theorem epi (core : CoreId) (l : EpiLine) : Statement (.epi core l) := of_line rfl fun _ _ _ h => by cases h; rfl

theorem exchangeEpi (core : CoreId) (l : EpiLine) : Statement (.exchangeEpi core l) := of_line rfl fun _ _ _ h => by cases h; rfl

theorem vec (core : CoreId) (l : VecLine) : Statement (.vec core l) := of_line rfl fun _ _ _ h => by cases h; rfl

theorem xpose (core : CoreId) (l : XposeLine) : Statement (.xpose core l) := of_line rfl fun _ _ _ h => by cases h; rfl

theorem routeDispatch (core : CoreId) (l : RouteLine) : Statement (.routeDispatch core l) := of_line rfl fun _ _ _ h => by cases h; rfl

theorem routeReuse (core : CoreId) (l : RouteLine) : Statement (.routeReuse core l) := of_line rfl fun _ _ _ h => by cases h; rfl

theorem routeCombine (core : CoreId) (l : RouteLine) : Statement (.routeCombine core l) := of_line rfl fun _ _ _ h => by cases h; rfl

theorem send (core : CoreId) (l : SendLine) : Statement (.send core l) := of_line rfl fun _ _ _ h => by cases h; rfl

theorem sendReduceScatter (core : CoreId) (l : SendLine) : Statement (.sendReduceScatter core l) := of_line rfl fun _ _ _ h => by cases h; rfl

theorem sendA2aReturn (core : CoreId) (l : SendLine) : Statement (.sendA2aReturn core l) := of_line rfl fun _ _ _ h => by cases h; rfl

theorem sendBroadcast (core : CoreId) (l : SendLine) : Statement (.sendBroadcast core l) := of_line rfl fun _ _ _ h => by cases h; rfl

theorem permute (core : CoreId) (l : SendLine) : Statement (.permute core l) := of_line rfl fun _ _ _ h => by cases h; rfl

theorem recv (core : CoreId) (l : RecvLine) : Statement (.recv core l) := of_line rfl fun _ _ _ h => by cases h; rfl

theorem recvAllGather (core : CoreId) (l : RecvLine) : Statement (.recvAllGather core l) := of_line rfl fun _ _ _ h => by cases h; rfl

theorem stash (core : CoreId) (l : StashLine) : Statement (.stash core l) := of_line rfl fun _ _ _ h => by cases h; rfl

theorem unstash (core : CoreId) (l : StashLine) : Statement (.unstash core l) := of_line rfl fun _ _ _ h => by cases h; rfl

theorem fence (core : CoreId) (l : FenceLine) : Statement (.fence core l) := of_line rfl fun _ _ _ h => by cases h; rfl

theorem waitq (core : CoreId) (l : WaitqLine) : Statement (.waitq core l) := of_line rfl fun _ _ _ h => by cases h; rfl

theorem mark (core : CoreId) (l : MarkLine) : Statement (.mark core l) := of_line rfl fun _ _ _ h => by cases h; rfl

theorem deadline (core : CoreId) (l : DeadlineLine) : Statement (.deadline core l) := of_line rfl fun _ _ _ h => by cases h; rfl

theorem seed (core : CoreId) (l : SeedLine) : Statement (.seed core l) := of_line rfl fun _ _ _ h => by cases h; rfl

theorem upd (core : CoreId) (l : UpdLine) : Statement (.upd core l) := of_line rfl fun _ _ _ h => by cases h; rfl

theorem jump (core : CoreId) (l : BranchLine) : Statement (.jump core l) := of_line rfl fun _ _ _ h => by cases h; rfl

theorem call (core : CoreId) (l : BranchLine) : Statement (.call core l) := of_line rfl fun _ _ _ h => by cases h; rfl

theorem ret (core : CoreId) (l : BranchLine) : Statement (.ret core l) := of_line rfl fun _ _ _ h => by cases h; rfl

theorem loop (core : CoreId) (l : BranchLine) : Statement (.loop core l) := of_line rfl fun _ _ _ h => by cases h; rfl

theorem setlc (core : CoreId) (l : BranchLine) : Statement (.setlc core l) := of_line rfl fun _ _ _ h => by cases h; rfl

theorem lossGuard (core : CoreId) (l : BranchLine) : Statement (.lossGuard core l) := of_line rfl fun _ _ _ h => by cases h; rfl

theorem endStream (core : CoreId) (l : BranchLine) : Statement (.endStream core l) := of_line rfl fun _ _ _ h => by cases h; rfl

theorem badOpcode (core : CoreId) (opcode : BitVec 8) (hdr : Hdr) : Statement (.badOpcode core opcode hdr) := of_line rfl fun w _ _ h => by cases h; simpa [Instr.wf, Line.isBad, lineOpcode] using w

theorem fetchError (core : CoreId) : Statement (.fetchError core) := of_none rfl rfl

theorem commandRetire (core : CoreId) : Statement (.commandRetire core) := of_none rfl rfl

theorem deadlinePassed (core : CoreId) (tag : BitVec 16) : Statement (.deadlinePassed core tag) := of_none rfl rfl

theorem waitqTimeout (core : CoreId) : Statement (.waitqTimeout core) := of_none rfl rfl

theorem roundAdmission (round : Nat) : Statement (.roundAdmission round) := of_none rfl rfl

theorem amaxPush (p : PartId) : Statement (.amaxPush p) := of_none rfl rfl

theorem stashRelease (core : CoreId) : Statement (.stashRelease core) := of_none rfl rfl

theorem descriptorTake (core : CoreId) : Statement (.descriptorTake core) := of_none rfl rfl

theorem descriptorIssue (q : Qid) : Statement (.descriptorIssue q) := of_none rfl rfl

theorem transferLanded (q : Qid) (n : Nat) (data : List Byte) (refused : Bool) : Statement (.transferLanded q n data refused) := of_none rfl rfl

theorem itemComplete (q : Qid) : Statement (.itemComplete q) := of_none rfl rfl

theorem descriptorCacheFill (q : Qid) : Statement (.descriptorCacheFill q) := of_none rfl rfl

theorem translationWalk (p : PartId) (vpn : BitVec 27) : Statement (.translationWalk p vpn) := of_none rfl rfl

theorem superblockComplete (ctx : Nat) : Statement (.superblockComplete ctx) := of_none rfl rfl

theorem precondPhase2 (p : PartId) : Statement (.precondPhase2 p) := of_none rfl rfl

theorem updPendingApply (core : CoreId) : Statement (.updPendingApply core) := of_none rfl rfl

theorem gatherServe (n : Nat) : Statement (.gatherServe n) := of_none rfl rfl

theorem dataReceive (k : Pkt) : Statement (.dataReceive k) := of_packet rfl rfl id

theorem ackReceive (k : Pkt) : Statement (.ackReceive k) := of_packet rfl rfl and_left

theorem keepaliveReceive (k : Pkt) : Statement (.keepaliveReceive k) := of_packet rfl rfl id

theorem openReceive (k : Pkt) (addr : BitVec 128) : Statement (.openReceive k addr) := of_packet rfl rfl and_left

theorem openAckReceive (k : Pkt) : Statement (.openAckReceive k) := of_packet rfl rfl and_left

theorem closeReceive (k : Pkt) : Statement (.closeReceive k) := of_packet rfl rfl and_left

theorem creditReceive (k : Pkt) : Statement (.creditReceive k) := of_packet rfl rfl and_left

theorem noticeSkip (k : Pkt) : Statement (.noticeSkip k) := of_packet rfl rfl notice_packet

theorem noticeNorm (k : Pkt) : Statement (.noticeNorm k) := of_packet rfl rfl notice_packet

theorem noticePeerLost (k : Pkt) : Statement (.noticePeerLost k) := of_packet rfl rfl notice_packet

theorem noticeReady (k : Pkt) : Statement (.noticeReady k) := of_packet rfl rfl notice_packet

theorem rsContributionReceive (k : Pkt) : Statement (.rsContributionReceive k) := of_packet rfl rfl id

theorem gatherRequestReceive (k : Pkt) : Statement (.gatherRequestReceive k) := of_packet rfl rfl id

theorem a2aMessageReceive (m : A2aMsg) : Statement (.a2aMessageReceive m) := of_none rfl rfl

theorem a2aReturnReceive (m : A2aMsg) : Statement (.a2aReturnReceive m) := of_none rfl rfl

theorem ackTimer (sess : BitVec 13) : Statement (.ackTimer sess) := of_none rfl rfl

theorem retransmitTimer (sess : BitVec 13) (psn : BitVec 32) : Statement (.retransmitTimer sess psn) := of_none rfl rfl

theorem keepaliveTimer (sess : BitVec 13) : Statement (.keepaliveTimer sess) := of_none rfl rfl

theorem keepaliveSilence (sess : BitVec 13) : Statement (.keepaliveSilence sess) := of_none rfl rfl

theorem portSignalDetect (p : PortId) : Statement (.portSignalDetect p) := of_none rfl rfl

theorem autonegComplete (p : PortId) : Statement (.autonegComplete p) := of_none rfl rfl

theorem linkTrainingComplete (p : PortId) : Statement (.linkTrainingComplete p) := of_none rfl rfl

theorem pcsLock (p : PortId) : Statement (.pcsLock p) := of_none rfl rfl

theorem portDown (p : PortId) (cause : DownCause) : Statement (.portDown p cause) := of_none rfl rfl

theorem helloReceive (p : PortId) (d : Dlc) : Statement (.helloReceive p d) := of_none rfl rfl

theorem helloTimer (p : PortId) : Statement (.helloTimer p) := of_none rfl rfl

theorem directTimeout (p : PortId) : Statement (.directTimeout p) := of_none rfl rfl

theorem stepWindow (p : PortId) (sent : Nat) (qb : Nat) : Statement (.stepWindow p sent qb) := of_none rfl rfl

theorem stepReqReceive (p : PortId) (d : Dlc) : Statement (.stepReqReceive p d) := of_none rfl rfl

theorem stepAckReceive (p : PortId) (d : Dlc) : Statement (.stepAckReceive p d) := of_none rfl rfl

theorem stepNakReceive (p : PortId) (d : Dlc) : Statement (.stepNakReceive p d) := of_none rfl rfl

theorem stepReqTimeout (p : PortId) : Statement (.stepReqTimeout p) := of_none rfl rfl

theorem laneSwitch (p : PortId) : Statement (.laneSwitch p) := of_none rfl rfl

theorem adaptWindowDue (p : PortId) : Statement (.adaptWindowDue p) := of_none rfl rfl

theorem adaptFloorForced (p : PortId) : Statement (.adaptFloorForced p) := of_none rfl rfl

theorem adaptReqReceive (p : PortId) (d : Dlc) : Statement (.adaptReqReceive p d) := of_none rfl rfl

theorem adaptAckReceive (p : PortId) (d : Dlc) : Statement (.adaptAckReceive p d) := of_none rfl rfl

theorem adaptWindowEnd (p : PortId) (ns : Nat) : Statement (.adaptWindowEnd p ns) := of_none rfl rfl

theorem frameReceive (p : PortId) (sub : SubId) (frame : List Byte) (fcsOk : Bool) : Statement (.frameReceive p sub frame fcsOk) := of_none rfl rfl

theorem assemblyTimeout (q : Qid) : Statement (.assemblyTimeout q) := of_none rfl rfl

theorem frameTransmit (p : PortId) (sub : SubId) : Statement (.frameTransmit p sub) := of_none rfl rfl

theorem announceTimer : Statement (.announceTimer) := of_none rfl rfl

theorem announceReceive (a : Announce) : Statement (.announceReceive a) := of_none rfl rfl

theorem announceAbsence (m : BitVec 14) : Statement (.announceAbsence m) := of_none rfl rfl

theorem mpCollision : Statement (.mpCollision) := of_none rfl rfl

theorem mpRequestSegment (g : MpSegment) : Statement (.mpRequestSegment g) := of_none rfl rfl

theorem mpRequestTimeout (mb : MbId) : Statement (.mpRequestTimeout mb) := of_none rfl rfl

theorem hostMessage (m : HostMsg) : Statement (.hostMessage m) := of_none rfl rfl

theorem mbDoorbell (mb : MbId) (seq : BitVec 16) : Statement (.mbDoorbell mb seq) := of_none rfl rfl

theorem mbAbort (mb : MbId) : Statement (.mbAbort mb) := of_none rfl rfl

theorem mbRole (mb : MbId) : Statement (.mbRole mb) := of_none rfl rfl

theorem hostTable (mb : MbId) : Statement (.hostTable mb) := of_none rfl rfl

theorem moduleSet (mb : MbId) : Statement (.moduleSet mb) := of_none rfl rfl

theorem portSet (mb : MbId) : Statement (.portSet mb) := of_none rfl rfl

theorem steerSet (mb : MbId) : Statement (.steerSet mb) := of_none rfl rfl

theorem fwdSet (mb : MbId) : Statement (.fwdSet mb) := of_none rfl rfl

theorem plCap (mb : MbId) : Statement (.plCap mb) := of_none rfl rfl

theorem sleep (mb : MbId) : Statement (.sleep mb) := of_none rfl rfl

theorem resetWarm (mb : MbId) : Statement (.resetWarm mb) := of_none rfl rfl

theorem resetRetrain (mb : MbId) : Statement (.resetRetrain mb) := of_none rfl rfl

theorem islandReset (mb : MbId) : Statement (.islandReset mb) := of_none rfl rfl

theorem flashWriteFirmware (mb : MbId) : Statement (.flashWriteFirmware mb) := of_none rfl rfl

theorem flashWriteCalibration (mb : MbId) : Statement (.flashWriteCalibration mb) := of_none rfl rfl

theorem flashWriteConfig (mb : MbId) : Statement (.flashWriteConfig mb) := of_none rfl rfl

theorem partCreate (mb : MbId) : Statement (.partCreate mb) := of_none rfl rfl

theorem partDelete (mb : MbId) : Statement (.partDelete mb) := of_none rfl rfl

theorem partReset (mb : MbId) : Statement (.partReset mb) := of_none rfl rfl

theorem coreAssign (mb : MbId) : Statement (.coreAssign mb) := of_none rfl rfl

theorem coreUnassign (mb : MbId) : Statement (.coreUnassign mb) := of_none rfl rfl

theorem regionMap (mb : MbId) : Statement (.regionMap mb) := of_none rfl rfl

theorem regionUnmap (mb : MbId) : Statement (.regionUnmap mb) := of_none rfl rfl

theorem regionSetRights (mb : MbId) : Statement (.regionSetRights mb) := of_none rfl rfl

theorem stashSet (mb : MbId) : Statement (.stashSet mb) := of_none rfl rfl

theorem queueCreate (mb : MbId) : Statement (.queueCreate mb) := of_none rfl rfl

theorem queueEnable (mb : MbId) : Statement (.queueEnable mb) := of_none rfl rfl

theorem queueDisable (mb : MbId) : Statement (.queueDisable mb) := of_none rfl rfl

theorem queueDelete (mb : MbId) : Statement (.queueDelete mb) := of_none rfl rfl

theorem programLoad (mb : MbId) : Statement (.programLoad mb) := of_none rfl rfl

theorem streamStart (mb : MbId) : Statement (.streamStart mb) := of_none rfl rfl

theorem streamCancel (mb : MbId) : Statement (.streamCancel mb) := of_none rfl rfl

theorem plRequest (mb : MbId) : Statement (.plRequest mb) := of_none rfl rfl

theorem queueRead (mb : MbId) : Statement (.queueRead mb) := of_none rfl rfl

theorem queueDoorbell (mb : MbId) : Statement (.queueDoorbell mb) := of_none rfl rfl

theorem queueAbort (mb : MbId) : Statement (.queueAbort mb) := of_none rfl rfl

theorem counterRead (mb : MbId) : Statement (.counterRead mb) := of_none rfl rfl

theorem stepLogRead (mb : MbId) : Statement (.stepLogRead mb) := of_none rfl rfl

theorem auditState (mb : MbId) : Statement (.auditState mb) := of_none rfl rfl

theorem checkpoint (mb : MbId) : Statement (.checkpoint mb) := of_none rfl rfl

theorem restore (mb : MbId) (image : List Byte) : Statement (.restore mb image) := of_none rfl rfl

theorem partStatus (mb : MbId) : Statement (.partStatus mb) := of_none rfl rfl

theorem moduleStatus (mb : MbId) : Statement (.moduleStatus mb) := of_none rfl rfl

theorem eventRead (mb : MbId) : Statement (.eventRead mb) := of_none rfl rfl

theorem telemetryRead (mb : MbId) : Statement (.telemetryRead mb) := of_none rfl rfl

theorem fruRead (mb : MbId) : Statement (.fruRead mb) := of_none rfl rfl

theorem attest (mb : MbId) : Statement (.attest mb) := of_none rfl rfl

theorem badCommand (mb : MbId) : Statement (.badCommand mb) := of_none rfl rfl

theorem suppliesValid : Statement (.suppliesValid) := of_none rfl rfl

theorem mrstNAssert (lowNs : Nat) : Statement (.mrstNAssert lowNs) := of_none rfl rfl

theorem mrstNRelease : Statement (.mrstNRelease) := of_none rfl rfl

theorem mrstNLong : Statement (.mrstNLong) := of_none rfl rfl

theorem selfRefreshTimeout (stack : StackId) : Statement (.selfRefreshTimeout stack) := of_none rfl rfl

theorem watchdogExpiry (control : Fin 2) : Statement (.watchdogExpiry control) := of_none rfl rfl

theorem fatalError (cause : FatalCause) : Statement (.fatalError cause) := of_none rfl rfl

theorem groupRelease : Statement (.groupRelease) := of_none rfl rfl

theorem hbmTrainingComplete (failed : Option StackId) : Statement (.hbmTrainingComplete failed) := of_none rfl rfl

theorem hbmSelfTestComplete (failed : Option StackId) : Statement (.hbmSelfTestComplete failed) := of_none rfl rfl

theorem warmTrainingCheck (ok : Bool) (temps : List (BitVec 32)) : Statement (.warmTrainingCheck ok temps) := of_none rfl rfl

theorem moduleReady : Statement (.moduleReady) := of_none rfl rfl

theorem rmvReq (lowUs : Nat) : Statement (.rmvReq lowUs) := of_none rfl rfl

theorem quiesced : Statement (.quiesced) := of_none rfl rfl

theorem seatAssert : Statement (.seatAssert) := of_none rfl rfl

theorem debounceComplete : Statement (.debounceComplete) := of_none rfl rfl

theorem seatDeassert : Statement (.seatDeassert) := of_none rfl rfl

theorem vinPowerUp : Statement (.vinPowerUp) := of_none rfl rfl

theorem inputUndervoltage : Statement (.inputUndervoltage) := of_none rfl rfl

theorem railsFall : Statement (.railsFall) := of_none rfl rfl

theorem inputOvervoltage : Statement (.inputOvervoltage) := of_none rfl rfl

theorem inputOvercurrent : Statement (.inputOvercurrent) := of_none rfl rfl

theorem inputShortCircuit : Statement (.inputShortCircuit) := of_none rfl rfl

theorem pcycle : Statement (.pcycle) := of_none rfl rfl

theorem pcycleRestart : Statement (.pcycleRestart) := of_none rfl rfl

theorem registerWrite (offset : BitVec 8) (value : BitVec 8) : Statement (.registerWrite offset value) := of_none rfl rfl

theorem controlLoopTick (readings : List Reading) : Statement (.controlLoopTick readings) := of_none rfl rfl

theorem thermCrit (r : Reading) : Statement (.thermCrit r) := of_none rfl rfl

theorem thermCritRelease (readings : List Reading) : Statement (.thermCritRelease readings) := of_none rfl rfl

theorem thermShutdown (r : Reading) : Statement (.thermShutdown r) := of_none rfl rfl

theorem levelChangeComplete (isl : BitVec 8) : Statement (.levelChangeComplete isl) := of_none rfl rfl

theorem telemetrySample (readings : List Reading) : Statement (.telemetrySample readings) := of_none rfl rfl

theorem powerMeterSample (volts : BitVec 32) (amps : BitVec 32) : Statement (.powerMeterSample volts amps) := of_none rfl rfl

theorem wake (e : WakeEvent) : Statement (.wake e) := of_none rfl rfl

theorem scrubSlotDue (stack : StackId) : Statement (.scrubSlotDue stack) := of_none rfl rfl

theorem scrubFloor (stack : StackId) (ns : Nat) : Statement (.scrubFloor stack ns) := of_none rfl rfl

theorem meshParityRetry (receiver : BitVec 8) (sender : BitVec 8) (attempt : Nat) (kind : FlitKind) : Statement (.meshParityRetry receiver sender attempt kind) := of_none rfl rfl

theorem inputReturn : Statement (.inputReturn) := of_none rfl rfl

theorem mpBackoffEnd : Statement (.mpBackoffEnd) := of_none rfl rfl

theorem gpioSecondPulse (high : Bool) : Statement (.gpioSecondPulse high) := of_none rfl rfl

theorem stackTemperatureCrossing (stack : StackId) (above : Bool) : Statement (.stackTemperatureCrossing stack above) := of_none rfl rfl

end Sys2Proof.Laws.Carrier
end

