-- ==== Sys2Proof/Laws/State.lean ====
section
/-! SUPPORT. What each named update of the state gives to each field and accessor: an update changes its own field and no other. -/

namespace Sys2Proof.Machine

/-! ### setCore -/

@[simp] theorem State.setCore_pending (s : State) (c : CoreId) (k : Core) : (s.setCore c k).pending = s.pending := rfl
@[simp] theorem State.setCore_free (s : State) (c : CoreId) (k : Core) : (s.setCore c k).free = s.free := rfl
@[simp] theorem State.setCore_parts (s : State) (c : CoreId) (k : Core) : (s.setCore c k).parts = s.parts := rfl
@[simp] theorem State.setCore_eng (s : State) (c : CoreId) (k : Core) : (s.setCore c k).eng = s.eng := rfl
@[simp] theorem State.setCore_hbm (s : State) (c : CoreId) (k : Core) : (s.setCore c k).hbm = s.hbm := rfl
@[simp] theorem State.setCore_stk (s : State) (c : CoreId) (k : Core) : (s.setCore c k).stk = s.stk := rfl
@[simp] theorem State.setCore_fabric (s : State) (c : CoreId) (k : Core) : (s.setCore c k).fabric = s.fabric := rfl
@[simp] theorem State.setCore_reg (s : State) (c : CoreId) (k : Core) : (s.setCore c k).reg = s.reg := rfl
@[simp] theorem State.setCore_aon (s : State) (c : CoreId) (k : Core) : (s.setCore c k).aon = s.aon := rfl
@[simp] theorem State.setCore_fuses (s : State) (c : CoreId) (k : Core) : (s.setCore c k).fuses = s.fuses := rfl
@[simp] theorem State.setCore_flash (s : State) (c : CoreId) (k : Core) : (s.setCore c k).flash = s.flash := rfl
@[simp] theorem State.setCore_pins (s : State) (c : CoreId) (k : Core) : (s.setCore c k).pins = s.pins := rfl
@[simp] theorem State.setCore_hs (s : State) (c : CoreId) (k : Core) : (s.setCore c k).hs = s.hs := rfl

/-! ### modCore -/

@[simp] theorem State.modCore_pending (s : State) (c : CoreId) (f : Core → Core) : (s.modCore c f).pending = s.pending := rfl
@[simp] theorem State.modCore_free (s : State) (c : CoreId) (f : Core → Core) : (s.modCore c f).free = s.free := rfl
@[simp] theorem State.modCore_parts (s : State) (c : CoreId) (f : Core → Core) : (s.modCore c f).parts = s.parts := rfl
@[simp] theorem State.modCore_eng (s : State) (c : CoreId) (f : Core → Core) : (s.modCore c f).eng = s.eng := rfl
@[simp] theorem State.modCore_hbm (s : State) (c : CoreId) (f : Core → Core) : (s.modCore c f).hbm = s.hbm := rfl
@[simp] theorem State.modCore_stk (s : State) (c : CoreId) (f : Core → Core) : (s.modCore c f).stk = s.stk := rfl
@[simp] theorem State.modCore_fabric (s : State) (c : CoreId) (f : Core → Core) : (s.modCore c f).fabric = s.fabric := rfl
@[simp] theorem State.modCore_reg (s : State) (c : CoreId) (f : Core → Core) : (s.modCore c f).reg = s.reg := rfl
@[simp] theorem State.modCore_aon (s : State) (c : CoreId) (f : Core → Core) : (s.modCore c f).aon = s.aon := rfl
@[simp] theorem State.modCore_fuses (s : State) (c : CoreId) (f : Core → Core) : (s.modCore c f).fuses = s.fuses := rfl
@[simp] theorem State.modCore_flash (s : State) (c : CoreId) (f : Core → Core) : (s.modCore c f).flash = s.flash := rfl
@[simp] theorem State.modCore_pins (s : State) (c : CoreId) (f : Core → Core) : (s.modCore c f).pins = s.pins := rfl
@[simp] theorem State.modCore_hs (s : State) (c : CoreId) (f : Core → Core) : (s.modCore c f).hs = s.hs := rfl

/-! ### modCtl -/

@[simp] theorem State.modCtl_pending (s : State) (c : CoreId) (f : CoreCtl → CoreCtl) : (s.modCtl c f).pending = s.pending := rfl
@[simp] theorem State.modCtl_free (s : State) (c : CoreId) (f : CoreCtl → CoreCtl) : (s.modCtl c f).free = s.free := rfl
@[simp] theorem State.modCtl_parts (s : State) (c : CoreId) (f : CoreCtl → CoreCtl) : (s.modCtl c f).parts = s.parts := rfl
@[simp] theorem State.modCtl_eng (s : State) (c : CoreId) (f : CoreCtl → CoreCtl) : (s.modCtl c f).eng = s.eng := rfl
@[simp] theorem State.modCtl_hbm (s : State) (c : CoreId) (f : CoreCtl → CoreCtl) : (s.modCtl c f).hbm = s.hbm := rfl
@[simp] theorem State.modCtl_stk (s : State) (c : CoreId) (f : CoreCtl → CoreCtl) : (s.modCtl c f).stk = s.stk := rfl
@[simp] theorem State.modCtl_fabric (s : State) (c : CoreId) (f : CoreCtl → CoreCtl) : (s.modCtl c f).fabric = s.fabric := rfl
@[simp] theorem State.modCtl_reg (s : State) (c : CoreId) (f : CoreCtl → CoreCtl) : (s.modCtl c f).reg = s.reg := rfl
@[simp] theorem State.modCtl_aon (s : State) (c : CoreId) (f : CoreCtl → CoreCtl) : (s.modCtl c f).aon = s.aon := rfl
@[simp] theorem State.modCtl_fuses (s : State) (c : CoreId) (f : CoreCtl → CoreCtl) : (s.modCtl c f).fuses = s.fuses := rfl
@[simp] theorem State.modCtl_flash (s : State) (c : CoreId) (f : CoreCtl → CoreCtl) : (s.modCtl c f).flash = s.flash := rfl
@[simp] theorem State.modCtl_pins (s : State) (c : CoreId) (f : CoreCtl → CoreCtl) : (s.modCtl c f).pins = s.pins := rfl
@[simp] theorem State.modCtl_hs (s : State) (c : CoreId) (f : CoreCtl → CoreCtl) : (s.modCtl c f).hs = s.hs := rfl

/-! ### modMem -/

@[simp] theorem State.modMem_pending (s : State) (c : CoreId) (f : CoreMem → CoreMem) : (s.modMem c f).pending = s.pending := rfl
@[simp] theorem State.modMem_free (s : State) (c : CoreId) (f : CoreMem → CoreMem) : (s.modMem c f).free = s.free := rfl
@[simp] theorem State.modMem_parts (s : State) (c : CoreId) (f : CoreMem → CoreMem) : (s.modMem c f).parts = s.parts := rfl
@[simp] theorem State.modMem_eng (s : State) (c : CoreId) (f : CoreMem → CoreMem) : (s.modMem c f).eng = s.eng := rfl
@[simp] theorem State.modMem_hbm (s : State) (c : CoreId) (f : CoreMem → CoreMem) : (s.modMem c f).hbm = s.hbm := rfl
@[simp] theorem State.modMem_stk (s : State) (c : CoreId) (f : CoreMem → CoreMem) : (s.modMem c f).stk = s.stk := rfl
@[simp] theorem State.modMem_fabric (s : State) (c : CoreId) (f : CoreMem → CoreMem) : (s.modMem c f).fabric = s.fabric := rfl
@[simp] theorem State.modMem_reg (s : State) (c : CoreId) (f : CoreMem → CoreMem) : (s.modMem c f).reg = s.reg := rfl
@[simp] theorem State.modMem_aon (s : State) (c : CoreId) (f : CoreMem → CoreMem) : (s.modMem c f).aon = s.aon := rfl
@[simp] theorem State.modMem_fuses (s : State) (c : CoreId) (f : CoreMem → CoreMem) : (s.modMem c f).fuses = s.fuses := rfl
@[simp] theorem State.modMem_flash (s : State) (c : CoreId) (f : CoreMem → CoreMem) : (s.modMem c f).flash = s.flash := rfl
@[simp] theorem State.modMem_pins (s : State) (c : CoreId) (f : CoreMem → CoreMem) : (s.modMem c f).pins = s.pins := rfl
@[simp] theorem State.modMem_hs (s : State) (c : CoreId) (f : CoreMem → CoreMem) : (s.modMem c f).hs = s.hs := rfl

/-! ### modStash -/

@[simp] theorem State.modStash_pending (s : State) (c : CoreId) (f : CoreStash → CoreStash) : (s.modStash c f).pending = s.pending := rfl
@[simp] theorem State.modStash_free (s : State) (c : CoreId) (f : CoreStash → CoreStash) : (s.modStash c f).free = s.free := rfl
@[simp] theorem State.modStash_parts (s : State) (c : CoreId) (f : CoreStash → CoreStash) : (s.modStash c f).parts = s.parts := rfl
@[simp] theorem State.modStash_eng (s : State) (c : CoreId) (f : CoreStash → CoreStash) : (s.modStash c f).eng = s.eng := rfl
@[simp] theorem State.modStash_hbm (s : State) (c : CoreId) (f : CoreStash → CoreStash) : (s.modStash c f).hbm = s.hbm := rfl
@[simp] theorem State.modStash_stk (s : State) (c : CoreId) (f : CoreStash → CoreStash) : (s.modStash c f).stk = s.stk := rfl
@[simp] theorem State.modStash_fabric (s : State) (c : CoreId) (f : CoreStash → CoreStash) : (s.modStash c f).fabric = s.fabric := rfl
@[simp] theorem State.modStash_reg (s : State) (c : CoreId) (f : CoreStash → CoreStash) : (s.modStash c f).reg = s.reg := rfl
@[simp] theorem State.modStash_aon (s : State) (c : CoreId) (f : CoreStash → CoreStash) : (s.modStash c f).aon = s.aon := rfl
@[simp] theorem State.modStash_fuses (s : State) (c : CoreId) (f : CoreStash → CoreStash) : (s.modStash c f).fuses = s.fuses := rfl
@[simp] theorem State.modStash_flash (s : State) (c : CoreId) (f : CoreStash → CoreStash) : (s.modStash c f).flash = s.flash := rfl
@[simp] theorem State.modStash_pins (s : State) (c : CoreId) (f : CoreStash → CoreStash) : (s.modStash c f).pins = s.pins := rfl
@[simp] theorem State.modStash_hs (s : State) (c : CoreId) (f : CoreStash → CoreStash) : (s.modStash c f).hs = s.hs := rfl

/-! ### countCore -/

@[simp] theorem State.countCore_pending (s : State) (c : CoreId) (k : CoreCnt) (n : Nat) : (s.countCore c k n).pending = s.pending := rfl
@[simp] theorem State.countCore_free (s : State) (c : CoreId) (k : CoreCnt) (n : Nat) : (s.countCore c k n).free = s.free := rfl
@[simp] theorem State.countCore_parts (s : State) (c : CoreId) (k : CoreCnt) (n : Nat) : (s.countCore c k n).parts = s.parts := rfl
@[simp] theorem State.countCore_eng (s : State) (c : CoreId) (k : CoreCnt) (n : Nat) : (s.countCore c k n).eng = s.eng := rfl
@[simp] theorem State.countCore_hbm (s : State) (c : CoreId) (k : CoreCnt) (n : Nat) : (s.countCore c k n).hbm = s.hbm := rfl
@[simp] theorem State.countCore_stk (s : State) (c : CoreId) (k : CoreCnt) (n : Nat) : (s.countCore c k n).stk = s.stk := rfl
@[simp] theorem State.countCore_fabric (s : State) (c : CoreId) (k : CoreCnt) (n : Nat) : (s.countCore c k n).fabric = s.fabric := rfl
@[simp] theorem State.countCore_reg (s : State) (c : CoreId) (k : CoreCnt) (n : Nat) : (s.countCore c k n).reg = s.reg := rfl
@[simp] theorem State.countCore_aon (s : State) (c : CoreId) (k : CoreCnt) (n : Nat) : (s.countCore c k n).aon = s.aon := rfl
@[simp] theorem State.countCore_fuses (s : State) (c : CoreId) (k : CoreCnt) (n : Nat) : (s.countCore c k n).fuses = s.fuses := rfl
@[simp] theorem State.countCore_flash (s : State) (c : CoreId) (k : CoreCnt) (n : Nat) : (s.countCore c k n).flash = s.flash := rfl
@[simp] theorem State.countCore_pins (s : State) (c : CoreId) (k : CoreCnt) (n : Nat) : (s.countCore c k n).pins = s.pins := rfl
@[simp] theorem State.countCore_hs (s : State) (c : CoreId) (k : CoreCnt) (n : Nat) : (s.countCore c k n).hs = s.hs := rfl

/-! ### setPart -/

@[simp] theorem State.setPart_pending (s : State) (p : PartId) (q : Partition) : (s.setPart p q).pending = s.pending := rfl
@[simp] theorem State.setPart_free (s : State) (p : PartId) (q : Partition) : (s.setPart p q).free = s.free := rfl
@[simp] theorem State.setPart_cores (s : State) (p : PartId) (q : Partition) : (s.setPart p q).cores = s.cores := rfl
@[simp] theorem State.setPart_eng (s : State) (p : PartId) (q : Partition) : (s.setPart p q).eng = s.eng := rfl
@[simp] theorem State.setPart_hbm (s : State) (p : PartId) (q : Partition) : (s.setPart p q).hbm = s.hbm := rfl
@[simp] theorem State.setPart_stk (s : State) (p : PartId) (q : Partition) : (s.setPart p q).stk = s.stk := rfl
@[simp] theorem State.setPart_fabric (s : State) (p : PartId) (q : Partition) : (s.setPart p q).fabric = s.fabric := rfl
@[simp] theorem State.setPart_reg (s : State) (p : PartId) (q : Partition) : (s.setPart p q).reg = s.reg := rfl
@[simp] theorem State.setPart_aon (s : State) (p : PartId) (q : Partition) : (s.setPart p q).aon = s.aon := rfl
@[simp] theorem State.setPart_fuses (s : State) (p : PartId) (q : Partition) : (s.setPart p q).fuses = s.fuses := rfl
@[simp] theorem State.setPart_flash (s : State) (p : PartId) (q : Partition) : (s.setPart p q).flash = s.flash := rfl
@[simp] theorem State.setPart_pins (s : State) (p : PartId) (q : Partition) : (s.setPart p q).pins = s.pins := rfl
@[simp] theorem State.setPart_hs (s : State) (p : PartId) (q : Partition) : (s.setPart p q).hs = s.hs := rfl

/-! ### modPart -/

@[simp] theorem State.modPart_pending (s : State) (p : PartId) (f : Partition → Partition) : (s.modPart p f).pending = s.pending := rfl
@[simp] theorem State.modPart_free (s : State) (p : PartId) (f : Partition → Partition) : (s.modPart p f).free = s.free := rfl
@[simp] theorem State.modPart_cores (s : State) (p : PartId) (f : Partition → Partition) : (s.modPart p f).cores = s.cores := rfl
@[simp] theorem State.modPart_eng (s : State) (p : PartId) (f : Partition → Partition) : (s.modPart p f).eng = s.eng := rfl
@[simp] theorem State.modPart_hbm (s : State) (p : PartId) (f : Partition → Partition) : (s.modPart p f).hbm = s.hbm := rfl
@[simp] theorem State.modPart_stk (s : State) (p : PartId) (f : Partition → Partition) : (s.modPart p f).stk = s.stk := rfl
@[simp] theorem State.modPart_fabric (s : State) (p : PartId) (f : Partition → Partition) : (s.modPart p f).fabric = s.fabric := rfl
@[simp] theorem State.modPart_reg (s : State) (p : PartId) (f : Partition → Partition) : (s.modPart p f).reg = s.reg := rfl
@[simp] theorem State.modPart_aon (s : State) (p : PartId) (f : Partition → Partition) : (s.modPart p f).aon = s.aon := rfl
@[simp] theorem State.modPart_fuses (s : State) (p : PartId) (f : Partition → Partition) : (s.modPart p f).fuses = s.fuses := rfl
@[simp] theorem State.modPart_flash (s : State) (p : PartId) (f : Partition → Partition) : (s.modPart p f).flash = s.flash := rfl
@[simp] theorem State.modPart_pins (s : State) (p : PartId) (f : Partition → Partition) : (s.modPart p f).pins = s.pins := rfl
@[simp] theorem State.modPart_hs (s : State) (p : PartId) (f : Partition → Partition) : (s.modPart p f).hs = s.hs := rfl

/-! ### modUe -/

@[simp] theorem State.modUe_pending (s : State) (p : PartId) (f : UpdEng → UpdEng) : (s.modUe p f).pending = s.pending := rfl
@[simp] theorem State.modUe_free (s : State) (p : PartId) (f : UpdEng → UpdEng) : (s.modUe p f).free = s.free := rfl
@[simp] theorem State.modUe_cores (s : State) (p : PartId) (f : UpdEng → UpdEng) : (s.modUe p f).cores = s.cores := rfl
@[simp] theorem State.modUe_eng (s : State) (p : PartId) (f : UpdEng → UpdEng) : (s.modUe p f).eng = s.eng := rfl
@[simp] theorem State.modUe_hbm (s : State) (p : PartId) (f : UpdEng → UpdEng) : (s.modUe p f).hbm = s.hbm := rfl
@[simp] theorem State.modUe_stk (s : State) (p : PartId) (f : UpdEng → UpdEng) : (s.modUe p f).stk = s.stk := rfl
@[simp] theorem State.modUe_fabric (s : State) (p : PartId) (f : UpdEng → UpdEng) : (s.modUe p f).fabric = s.fabric := rfl
@[simp] theorem State.modUe_reg (s : State) (p : PartId) (f : UpdEng → UpdEng) : (s.modUe p f).reg = s.reg := rfl
@[simp] theorem State.modUe_aon (s : State) (p : PartId) (f : UpdEng → UpdEng) : (s.modUe p f).aon = s.aon := rfl
@[simp] theorem State.modUe_fuses (s : State) (p : PartId) (f : UpdEng → UpdEng) : (s.modUe p f).fuses = s.fuses := rfl
@[simp] theorem State.modUe_flash (s : State) (p : PartId) (f : UpdEng → UpdEng) : (s.modUe p f).flash = s.flash := rfl
@[simp] theorem State.modUe_pins (s : State) (p : PartId) (f : UpdEng → UpdEng) : (s.modUe p f).pins = s.pins := rfl
@[simp] theorem State.modUe_hs (s : State) (p : PartId) (f : UpdEng → UpdEng) : (s.modUe p f).hs = s.hs := rfl

/-! ### countPart -/

@[simp] theorem State.countPart_pending (s : State) (p : PartId) (k : PartCnt) (n : Nat) : (s.countPart p k n).pending = s.pending := rfl
@[simp] theorem State.countPart_free (s : State) (p : PartId) (k : PartCnt) (n : Nat) : (s.countPart p k n).free = s.free := rfl
@[simp] theorem State.countPart_cores (s : State) (p : PartId) (k : PartCnt) (n : Nat) : (s.countPart p k n).cores = s.cores := rfl
@[simp] theorem State.countPart_eng (s : State) (p : PartId) (k : PartCnt) (n : Nat) : (s.countPart p k n).eng = s.eng := rfl
@[simp] theorem State.countPart_hbm (s : State) (p : PartId) (k : PartCnt) (n : Nat) : (s.countPart p k n).hbm = s.hbm := rfl
@[simp] theorem State.countPart_stk (s : State) (p : PartId) (k : PartCnt) (n : Nat) : (s.countPart p k n).stk = s.stk := rfl
@[simp] theorem State.countPart_fabric (s : State) (p : PartId) (k : PartCnt) (n : Nat) : (s.countPart p k n).fabric = s.fabric := rfl
@[simp] theorem State.countPart_reg (s : State) (p : PartId) (k : PartCnt) (n : Nat) : (s.countPart p k n).reg = s.reg := rfl
@[simp] theorem State.countPart_aon (s : State) (p : PartId) (k : PartCnt) (n : Nat) : (s.countPart p k n).aon = s.aon := rfl
@[simp] theorem State.countPart_fuses (s : State) (p : PartId) (k : PartCnt) (n : Nat) : (s.countPart p k n).fuses = s.fuses := rfl
@[simp] theorem State.countPart_flash (s : State) (p : PartId) (k : PartCnt) (n : Nat) : (s.countPart p k n).flash = s.flash := rfl
@[simp] theorem State.countPart_pins (s : State) (p : PartId) (k : PartCnt) (n : Nat) : (s.countPart p k n).pins = s.pins := rfl
@[simp] theorem State.countPart_hs (s : State) (p : PartId) (k : PartCnt) (n : Nat) : (s.countPart p k n).hs = s.hs := rfl

/-! ### setPort -/

@[simp] theorem State.setPort_pending (s : State) (p : PortId) (q : Port) : (s.setPort p q).pending = s.pending := rfl
@[simp] theorem State.setPort_free (s : State) (p : PortId) (q : Port) : (s.setPort p q).free = s.free := rfl
@[simp] theorem State.setPort_cores (s : State) (p : PortId) (q : Port) : (s.setPort p q).cores = s.cores := rfl
@[simp] theorem State.setPort_parts (s : State) (p : PortId) (q : Port) : (s.setPort p q).parts = s.parts := rfl
@[simp] theorem State.setPort_eng (s : State) (p : PortId) (q : Port) : (s.setPort p q).eng = s.eng := rfl
@[simp] theorem State.setPort_hbm (s : State) (p : PortId) (q : Port) : (s.setPort p q).hbm = s.hbm := rfl
@[simp] theorem State.setPort_stk (s : State) (p : PortId) (q : Port) : (s.setPort p q).stk = s.stk := rfl
@[simp] theorem State.setPort_reg (s : State) (p : PortId) (q : Port) : (s.setPort p q).reg = s.reg := rfl
@[simp] theorem State.setPort_aon (s : State) (p : PortId) (q : Port) : (s.setPort p q).aon = s.aon := rfl
@[simp] theorem State.setPort_fuses (s : State) (p : PortId) (q : Port) : (s.setPort p q).fuses = s.fuses := rfl
@[simp] theorem State.setPort_flash (s : State) (p : PortId) (q : Port) : (s.setPort p q).flash = s.flash := rfl
@[simp] theorem State.setPort_pins (s : State) (p : PortId) (q : Port) : (s.setPort p q).pins = s.pins := rfl
@[simp] theorem State.setPort_hs (s : State) (p : PortId) (q : Port) : (s.setPort p q).hs = s.hs := rfl

/-! ### modPort -/

@[simp] theorem State.modPort_pending (s : State) (p : PortId) (f : Port → Port) : (s.modPort p f).pending = s.pending := rfl
@[simp] theorem State.modPort_free (s : State) (p : PortId) (f : Port → Port) : (s.modPort p f).free = s.free := rfl
@[simp] theorem State.modPort_cores (s : State) (p : PortId) (f : Port → Port) : (s.modPort p f).cores = s.cores := rfl
@[simp] theorem State.modPort_parts (s : State) (p : PortId) (f : Port → Port) : (s.modPort p f).parts = s.parts := rfl
@[simp] theorem State.modPort_eng (s : State) (p : PortId) (f : Port → Port) : (s.modPort p f).eng = s.eng := rfl
@[simp] theorem State.modPort_hbm (s : State) (p : PortId) (f : Port → Port) : (s.modPort p f).hbm = s.hbm := rfl
@[simp] theorem State.modPort_stk (s : State) (p : PortId) (f : Port → Port) : (s.modPort p f).stk = s.stk := rfl
@[simp] theorem State.modPort_reg (s : State) (p : PortId) (f : Port → Port) : (s.modPort p f).reg = s.reg := rfl
@[simp] theorem State.modPort_aon (s : State) (p : PortId) (f : Port → Port) : (s.modPort p f).aon = s.aon := rfl
@[simp] theorem State.modPort_fuses (s : State) (p : PortId) (f : Port → Port) : (s.modPort p f).fuses = s.fuses := rfl
@[simp] theorem State.modPort_flash (s : State) (p : PortId) (f : Port → Port) : (s.modPort p f).flash = s.flash := rfl
@[simp] theorem State.modPort_pins (s : State) (p : PortId) (f : Port → Port) : (s.modPort p f).pins = s.pins := rfl
@[simp] theorem State.modPort_hs (s : State) (p : PortId) (f : Port → Port) : (s.modPort p f).hs = s.hs := rfl

/-! ### modSub -/

@[simp] theorem State.modSub_pending (s : State) (p : PortId) (i : SubId) (f : SubPort → SubPort) : (s.modSub p i f).pending = s.pending := rfl
@[simp] theorem State.modSub_free (s : State) (p : PortId) (i : SubId) (f : SubPort → SubPort) : (s.modSub p i f).free = s.free := rfl
@[simp] theorem State.modSub_cores (s : State) (p : PortId) (i : SubId) (f : SubPort → SubPort) : (s.modSub p i f).cores = s.cores := rfl
@[simp] theorem State.modSub_parts (s : State) (p : PortId) (i : SubId) (f : SubPort → SubPort) : (s.modSub p i f).parts = s.parts := rfl
@[simp] theorem State.modSub_eng (s : State) (p : PortId) (i : SubId) (f : SubPort → SubPort) : (s.modSub p i f).eng = s.eng := rfl
@[simp] theorem State.modSub_hbm (s : State) (p : PortId) (i : SubId) (f : SubPort → SubPort) : (s.modSub p i f).hbm = s.hbm := rfl
@[simp] theorem State.modSub_stk (s : State) (p : PortId) (i : SubId) (f : SubPort → SubPort) : (s.modSub p i f).stk = s.stk := rfl
@[simp] theorem State.modSub_reg (s : State) (p : PortId) (i : SubId) (f : SubPort → SubPort) : (s.modSub p i f).reg = s.reg := rfl
@[simp] theorem State.modSub_aon (s : State) (p : PortId) (i : SubId) (f : SubPort → SubPort) : (s.modSub p i f).aon = s.aon := rfl
@[simp] theorem State.modSub_fuses (s : State) (p : PortId) (i : SubId) (f : SubPort → SubPort) : (s.modSub p i f).fuses = s.fuses := rfl
@[simp] theorem State.modSub_flash (s : State) (p : PortId) (i : SubId) (f : SubPort → SubPort) : (s.modSub p i f).flash = s.flash := rfl
@[simp] theorem State.modSub_pins (s : State) (p : PortId) (i : SubId) (f : SubPort → SubPort) : (s.modSub p i f).pins = s.pins := rfl
@[simp] theorem State.modSub_hs (s : State) (p : PortId) (i : SubId) (f : SubPort → SubPort) : (s.modSub p i f).hs = s.hs := rfl

/-! ### countSub -/

@[simp] theorem State.countSub_pending (s : State) (p : PortId) (i : SubId) (k : PortCnt) (n : Nat) : (s.countSub p i k n).pending = s.pending := rfl
@[simp] theorem State.countSub_free (s : State) (p : PortId) (i : SubId) (k : PortCnt) (n : Nat) : (s.countSub p i k n).free = s.free := rfl
@[simp] theorem State.countSub_cores (s : State) (p : PortId) (i : SubId) (k : PortCnt) (n : Nat) : (s.countSub p i k n).cores = s.cores := rfl
@[simp] theorem State.countSub_parts (s : State) (p : PortId) (i : SubId) (k : PortCnt) (n : Nat) : (s.countSub p i k n).parts = s.parts := rfl
@[simp] theorem State.countSub_eng (s : State) (p : PortId) (i : SubId) (k : PortCnt) (n : Nat) : (s.countSub p i k n).eng = s.eng := rfl
@[simp] theorem State.countSub_hbm (s : State) (p : PortId) (i : SubId) (k : PortCnt) (n : Nat) : (s.countSub p i k n).hbm = s.hbm := rfl
@[simp] theorem State.countSub_stk (s : State) (p : PortId) (i : SubId) (k : PortCnt) (n : Nat) : (s.countSub p i k n).stk = s.stk := rfl
@[simp] theorem State.countSub_reg (s : State) (p : PortId) (i : SubId) (k : PortCnt) (n : Nat) : (s.countSub p i k n).reg = s.reg := rfl
@[simp] theorem State.countSub_aon (s : State) (p : PortId) (i : SubId) (k : PortCnt) (n : Nat) : (s.countSub p i k n).aon = s.aon := rfl
@[simp] theorem State.countSub_fuses (s : State) (p : PortId) (i : SubId) (k : PortCnt) (n : Nat) : (s.countSub p i k n).fuses = s.fuses := rfl
@[simp] theorem State.countSub_flash (s : State) (p : PortId) (i : SubId) (k : PortCnt) (n : Nat) : (s.countSub p i k n).flash = s.flash := rfl
@[simp] theorem State.countSub_pins (s : State) (p : PortId) (i : SubId) (k : PortCnt) (n : Nat) : (s.countSub p i k n).pins = s.pins := rfl
@[simp] theorem State.countSub_hs (s : State) (p : PortId) (i : SubId) (k : PortCnt) (n : Nat) : (s.countSub p i k n).hs = s.hs := rfl

/-! ### setStack -/

@[simp] theorem State.setStack_pending (s : State) (h : StackId) (q : Stack) : (s.setStack h q).pending = s.pending := rfl
@[simp] theorem State.setStack_free (s : State) (h : StackId) (q : Stack) : (s.setStack h q).free = s.free := rfl
@[simp] theorem State.setStack_cores (s : State) (h : StackId) (q : Stack) : (s.setStack h q).cores = s.cores := rfl
@[simp] theorem State.setStack_parts (s : State) (h : StackId) (q : Stack) : (s.setStack h q).parts = s.parts := rfl
@[simp] theorem State.setStack_eng (s : State) (h : StackId) (q : Stack) : (s.setStack h q).eng = s.eng := rfl
@[simp] theorem State.setStack_hbm (s : State) (h : StackId) (q : Stack) : (s.setStack h q).hbm = s.hbm := rfl
@[simp] theorem State.setStack_fabric (s : State) (h : StackId) (q : Stack) : (s.setStack h q).fabric = s.fabric := rfl
@[simp] theorem State.setStack_reg (s : State) (h : StackId) (q : Stack) : (s.setStack h q).reg = s.reg := rfl
@[simp] theorem State.setStack_aon (s : State) (h : StackId) (q : Stack) : (s.setStack h q).aon = s.aon := rfl
@[simp] theorem State.setStack_fuses (s : State) (h : StackId) (q : Stack) : (s.setStack h q).fuses = s.fuses := rfl
@[simp] theorem State.setStack_flash (s : State) (h : StackId) (q : Stack) : (s.setStack h q).flash = s.flash := rfl
@[simp] theorem State.setStack_pins (s : State) (h : StackId) (q : Stack) : (s.setStack h q).pins = s.pins := rfl
@[simp] theorem State.setStack_hs (s : State) (h : StackId) (q : Stack) : (s.setStack h q).hs = s.hs := rfl

/-! ### modStack -/

@[simp] theorem State.modStack_pending (s : State) (h : StackId) (f : Stack → Stack) : (s.modStack h f).pending = s.pending := rfl
@[simp] theorem State.modStack_free (s : State) (h : StackId) (f : Stack → Stack) : (s.modStack h f).free = s.free := rfl
@[simp] theorem State.modStack_cores (s : State) (h : StackId) (f : Stack → Stack) : (s.modStack h f).cores = s.cores := rfl
@[simp] theorem State.modStack_parts (s : State) (h : StackId) (f : Stack → Stack) : (s.modStack h f).parts = s.parts := rfl
@[simp] theorem State.modStack_eng (s : State) (h : StackId) (f : Stack → Stack) : (s.modStack h f).eng = s.eng := rfl
@[simp] theorem State.modStack_hbm (s : State) (h : StackId) (f : Stack → Stack) : (s.modStack h f).hbm = s.hbm := rfl
@[simp] theorem State.modStack_fabric (s : State) (h : StackId) (f : Stack → Stack) : (s.modStack h f).fabric = s.fabric := rfl
@[simp] theorem State.modStack_reg (s : State) (h : StackId) (f : Stack → Stack) : (s.modStack h f).reg = s.reg := rfl
@[simp] theorem State.modStack_aon (s : State) (h : StackId) (f : Stack → Stack) : (s.modStack h f).aon = s.aon := rfl
@[simp] theorem State.modStack_fuses (s : State) (h : StackId) (f : Stack → Stack) : (s.modStack h f).fuses = s.fuses := rfl
@[simp] theorem State.modStack_flash (s : State) (h : StackId) (f : Stack → Stack) : (s.modStack h f).flash = s.flash := rfl
@[simp] theorem State.modStack_pins (s : State) (h : StackId) (f : Stack → Stack) : (s.modStack h f).pins = s.pins := rfl
@[simp] theorem State.modStack_hs (s : State) (h : StackId) (f : Stack → Stack) : (s.modStack h f).hs = s.hs := rfl

/-! ### countStack -/

@[simp] theorem State.countStack_pending (s : State) (h : StackId) (k : StackCnt) (n : Nat) : (s.countStack h k n).pending = s.pending := rfl
@[simp] theorem State.countStack_free (s : State) (h : StackId) (k : StackCnt) (n : Nat) : (s.countStack h k n).free = s.free := rfl
@[simp] theorem State.countStack_cores (s : State) (h : StackId) (k : StackCnt) (n : Nat) : (s.countStack h k n).cores = s.cores := rfl
@[simp] theorem State.countStack_parts (s : State) (h : StackId) (k : StackCnt) (n : Nat) : (s.countStack h k n).parts = s.parts := rfl
@[simp] theorem State.countStack_eng (s : State) (h : StackId) (k : StackCnt) (n : Nat) : (s.countStack h k n).eng = s.eng := rfl
@[simp] theorem State.countStack_hbm (s : State) (h : StackId) (k : StackCnt) (n : Nat) : (s.countStack h k n).hbm = s.hbm := rfl
@[simp] theorem State.countStack_fabric (s : State) (h : StackId) (k : StackCnt) (n : Nat) : (s.countStack h k n).fabric = s.fabric := rfl
@[simp] theorem State.countStack_reg (s : State) (h : StackId) (k : StackCnt) (n : Nat) : (s.countStack h k n).reg = s.reg := rfl
@[simp] theorem State.countStack_aon (s : State) (h : StackId) (k : StackCnt) (n : Nat) : (s.countStack h k n).aon = s.aon := rfl
@[simp] theorem State.countStack_fuses (s : State) (h : StackId) (k : StackCnt) (n : Nat) : (s.countStack h k n).fuses = s.fuses := rfl
@[simp] theorem State.countStack_flash (s : State) (h : StackId) (k : StackCnt) (n : Nat) : (s.countStack h k n).flash = s.flash := rfl
@[simp] theorem State.countStack_pins (s : State) (h : StackId) (k : StackCnt) (n : Nat) : (s.countStack h k n).pins = s.pins := rfl
@[simp] theorem State.countStack_hs (s : State) (h : StackId) (k : StackCnt) (n : Nat) : (s.countStack h k n).hs = s.hs := rfl

/-! ### setMb -/

@[simp] theorem State.setMb_pending (s : State) (m : MbId) (b : Mailbox) : (s.setMb m b).pending = s.pending := rfl
@[simp] theorem State.setMb_free (s : State) (m : MbId) (b : Mailbox) : (s.setMb m b).free = s.free := rfl
@[simp] theorem State.setMb_cores (s : State) (m : MbId) (b : Mailbox) : (s.setMb m b).cores = s.cores := rfl
@[simp] theorem State.setMb_parts (s : State) (m : MbId) (b : Mailbox) : (s.setMb m b).parts = s.parts := rfl
@[simp] theorem State.setMb_eng (s : State) (m : MbId) (b : Mailbox) : (s.setMb m b).eng = s.eng := rfl
@[simp] theorem State.setMb_hbm (s : State) (m : MbId) (b : Mailbox) : (s.setMb m b).hbm = s.hbm := rfl
@[simp] theorem State.setMb_stk (s : State) (m : MbId) (b : Mailbox) : (s.setMb m b).stk = s.stk := rfl
@[simp] theorem State.setMb_fabric (s : State) (m : MbId) (b : Mailbox) : (s.setMb m b).fabric = s.fabric := rfl
@[simp] theorem State.setMb_aon (s : State) (m : MbId) (b : Mailbox) : (s.setMb m b).aon = s.aon := rfl
@[simp] theorem State.setMb_fuses (s : State) (m : MbId) (b : Mailbox) : (s.setMb m b).fuses = s.fuses := rfl
@[simp] theorem State.setMb_flash (s : State) (m : MbId) (b : Mailbox) : (s.setMb m b).flash = s.flash := rfl
@[simp] theorem State.setMb_pins (s : State) (m : MbId) (b : Mailbox) : (s.setMb m b).pins = s.pins := rfl
@[simp] theorem State.setMb_hs (s : State) (m : MbId) (b : Mailbox) : (s.setMb m b).hs = s.hs := rfl

/-! ### modMb -/

@[simp] theorem State.modMb_pending (s : State) (m : MbId) (f : Mailbox → Mailbox) : (s.modMb m f).pending = s.pending := rfl
@[simp] theorem State.modMb_free (s : State) (m : MbId) (f : Mailbox → Mailbox) : (s.modMb m f).free = s.free := rfl
@[simp] theorem State.modMb_cores (s : State) (m : MbId) (f : Mailbox → Mailbox) : (s.modMb m f).cores = s.cores := rfl
@[simp] theorem State.modMb_parts (s : State) (m : MbId) (f : Mailbox → Mailbox) : (s.modMb m f).parts = s.parts := rfl
@[simp] theorem State.modMb_eng (s : State) (m : MbId) (f : Mailbox → Mailbox) : (s.modMb m f).eng = s.eng := rfl
@[simp] theorem State.modMb_hbm (s : State) (m : MbId) (f : Mailbox → Mailbox) : (s.modMb m f).hbm = s.hbm := rfl
@[simp] theorem State.modMb_stk (s : State) (m : MbId) (f : Mailbox → Mailbox) : (s.modMb m f).stk = s.stk := rfl
@[simp] theorem State.modMb_fabric (s : State) (m : MbId) (f : Mailbox → Mailbox) : (s.modMb m f).fabric = s.fabric := rfl
@[simp] theorem State.modMb_aon (s : State) (m : MbId) (f : Mailbox → Mailbox) : (s.modMb m f).aon = s.aon := rfl
@[simp] theorem State.modMb_fuses (s : State) (m : MbId) (f : Mailbox → Mailbox) : (s.modMb m f).fuses = s.fuses := rfl
@[simp] theorem State.modMb_flash (s : State) (m : MbId) (f : Mailbox → Mailbox) : (s.modMb m f).flash = s.flash := rfl
@[simp] theorem State.modMb_pins (s : State) (m : MbId) (f : Mailbox → Mailbox) : (s.modMb m f).pins = s.pins := rfl
@[simp] theorem State.modMb_hs (s : State) (m : MbId) (f : Mailbox → Mailbox) : (s.modMb m f).hs = s.hs := rfl

/-! ### modReg -/

@[simp] theorem State.modReg_pending (s : State) (f : Regulator → Regulator) : (s.modReg f).pending = s.pending := rfl
@[simp] theorem State.modReg_free (s : State) (f : Regulator → Regulator) : (s.modReg f).free = s.free := rfl
@[simp] theorem State.modReg_cores (s : State) (f : Regulator → Regulator) : (s.modReg f).cores = s.cores := rfl
@[simp] theorem State.modReg_parts (s : State) (f : Regulator → Regulator) : (s.modReg f).parts = s.parts := rfl
@[simp] theorem State.modReg_eng (s : State) (f : Regulator → Regulator) : (s.modReg f).eng = s.eng := rfl
@[simp] theorem State.modReg_hbm (s : State) (f : Regulator → Regulator) : (s.modReg f).hbm = s.hbm := rfl
@[simp] theorem State.modReg_stk (s : State) (f : Regulator → Regulator) : (s.modReg f).stk = s.stk := rfl
@[simp] theorem State.modReg_fabric (s : State) (f : Regulator → Regulator) : (s.modReg f).fabric = s.fabric := rfl
@[simp] theorem State.modReg_aon (s : State) (f : Regulator → Regulator) : (s.modReg f).aon = s.aon := rfl
@[simp] theorem State.modReg_fuses (s : State) (f : Regulator → Regulator) : (s.modReg f).fuses = s.fuses := rfl
@[simp] theorem State.modReg_flash (s : State) (f : Regulator → Regulator) : (s.modReg f).flash = s.flash := rfl
@[simp] theorem State.modReg_pins (s : State) (f : Regulator → Regulator) : (s.modReg f).pins = s.pins := rfl
@[simp] theorem State.modReg_hs (s : State) (f : Regulator → Regulator) : (s.modReg f).hs = s.hs := rfl

/-! ### logEvent -/

@[simp] theorem State.logEvent_pending (s : State) (code src part : Nat) (arg : List Byte) : (s.logEvent code src part arg).pending = s.pending := rfl
@[simp] theorem State.logEvent_free (s : State) (code src part : Nat) (arg : List Byte) : (s.logEvent code src part arg).free = s.free := rfl
@[simp] theorem State.logEvent_cores (s : State) (code src part : Nat) (arg : List Byte) : (s.logEvent code src part arg).cores = s.cores := rfl
@[simp] theorem State.logEvent_parts (s : State) (code src part : Nat) (arg : List Byte) : (s.logEvent code src part arg).parts = s.parts := rfl
@[simp] theorem State.logEvent_eng (s : State) (code src part : Nat) (arg : List Byte) : (s.logEvent code src part arg).eng = s.eng := rfl
@[simp] theorem State.logEvent_hbm (s : State) (code src part : Nat) (arg : List Byte) : (s.logEvent code src part arg).hbm = s.hbm := rfl
@[simp] theorem State.logEvent_stk (s : State) (code src part : Nat) (arg : List Byte) : (s.logEvent code src part arg).stk = s.stk := rfl
@[simp] theorem State.logEvent_fabric (s : State) (code src part : Nat) (arg : List Byte) : (s.logEvent code src part arg).fabric = s.fabric := rfl
@[simp] theorem State.logEvent_aon (s : State) (code src part : Nat) (arg : List Byte) : (s.logEvent code src part arg).aon = s.aon := rfl
@[simp] theorem State.logEvent_fuses (s : State) (code src part : Nat) (arg : List Byte) : (s.logEvent code src part arg).fuses = s.fuses := rfl
@[simp] theorem State.logEvent_flash (s : State) (code src part : Nat) (arg : List Byte) : (s.logEvent code src part arg).flash = s.flash := rfl
@[simp] theorem State.logEvent_pins (s : State) (code src part : Nat) (arg : List Byte) : (s.logEvent code src part arg).pins = s.pins := rfl
@[simp] theorem State.logEvent_hs (s : State) (code src part : Nat) (arg : List Byte) : (s.logEvent code src part arg).hs = s.hs := rfl

/-! ### modAon -/

@[simp] theorem State.modAon_pending (s : State) (f : Aon → Aon) : (s.modAon f).pending = s.pending := rfl
@[simp] theorem State.modAon_free (s : State) (f : Aon → Aon) : (s.modAon f).free = s.free := rfl
@[simp] theorem State.modAon_cores (s : State) (f : Aon → Aon) : (s.modAon f).cores = s.cores := rfl
@[simp] theorem State.modAon_parts (s : State) (f : Aon → Aon) : (s.modAon f).parts = s.parts := rfl
@[simp] theorem State.modAon_eng (s : State) (f : Aon → Aon) : (s.modAon f).eng = s.eng := rfl
@[simp] theorem State.modAon_hbm (s : State) (f : Aon → Aon) : (s.modAon f).hbm = s.hbm := rfl
@[simp] theorem State.modAon_stk (s : State) (f : Aon → Aon) : (s.modAon f).stk = s.stk := rfl
@[simp] theorem State.modAon_fabric (s : State) (f : Aon → Aon) : (s.modAon f).fabric = s.fabric := rfl
@[simp] theorem State.modAon_reg (s : State) (f : Aon → Aon) : (s.modAon f).reg = s.reg := rfl
@[simp] theorem State.modAon_fuses (s : State) (f : Aon → Aon) : (s.modAon f).fuses = s.fuses := rfl
@[simp] theorem State.modAon_flash (s : State) (f : Aon → Aon) : (s.modAon f).flash = s.flash := rfl
@[simp] theorem State.modAon_pins (s : State) (f : Aon → Aon) : (s.modAon f).pins = s.pins := rfl
@[simp] theorem State.modAon_hs (s : State) (f : Aon → Aon) : (s.modAon f).hs = s.hs := rfl

/-! ### modEng -/

@[simp] theorem State.modEng_pending (s : State) (f : Engines → Engines) : (s.modEng f).pending = s.pending := rfl
@[simp] theorem State.modEng_free (s : State) (f : Engines → Engines) : (s.modEng f).free = s.free := rfl
@[simp] theorem State.modEng_cores (s : State) (f : Engines → Engines) : (s.modEng f).cores = s.cores := rfl
@[simp] theorem State.modEng_parts (s : State) (f : Engines → Engines) : (s.modEng f).parts = s.parts := rfl
@[simp] theorem State.modEng_hbm (s : State) (f : Engines → Engines) : (s.modEng f).hbm = s.hbm := rfl
@[simp] theorem State.modEng_stk (s : State) (f : Engines → Engines) : (s.modEng f).stk = s.stk := rfl
@[simp] theorem State.modEng_fabric (s : State) (f : Engines → Engines) : (s.modEng f).fabric = s.fabric := rfl
@[simp] theorem State.modEng_reg (s : State) (f : Engines → Engines) : (s.modEng f).reg = s.reg := rfl
@[simp] theorem State.modEng_aon (s : State) (f : Engines → Engines) : (s.modEng f).aon = s.aon := rfl
@[simp] theorem State.modEng_fuses (s : State) (f : Engines → Engines) : (s.modEng f).fuses = s.fuses := rfl
@[simp] theorem State.modEng_flash (s : State) (f : Engines → Engines) : (s.modEng f).flash = s.flash := rfl
@[simp] theorem State.modEng_pins (s : State) (f : Engines → Engines) : (s.modEng f).pins = s.pins := rfl
@[simp] theorem State.modEng_hs (s : State) (f : Engines → Engines) : (s.modEng f).hs = s.hs := rfl

/-! ### setQueue -/

@[simp] theorem State.setQueue_pending (s : State) (q : Qid) (d : Queue) : (s.setQueue q d).pending = s.pending := rfl
@[simp] theorem State.setQueue_free (s : State) (q : Qid) (d : Queue) : (s.setQueue q d).free = s.free := rfl
@[simp] theorem State.setQueue_cores (s : State) (q : Qid) (d : Queue) : (s.setQueue q d).cores = s.cores := rfl
@[simp] theorem State.setQueue_parts (s : State) (q : Qid) (d : Queue) : (s.setQueue q d).parts = s.parts := rfl
@[simp] theorem State.setQueue_hbm (s : State) (q : Qid) (d : Queue) : (s.setQueue q d).hbm = s.hbm := rfl
@[simp] theorem State.setQueue_stk (s : State) (q : Qid) (d : Queue) : (s.setQueue q d).stk = s.stk := rfl
@[simp] theorem State.setQueue_fabric (s : State) (q : Qid) (d : Queue) : (s.setQueue q d).fabric = s.fabric := rfl
@[simp] theorem State.setQueue_reg (s : State) (q : Qid) (d : Queue) : (s.setQueue q d).reg = s.reg := rfl
@[simp] theorem State.setQueue_aon (s : State) (q : Qid) (d : Queue) : (s.setQueue q d).aon = s.aon := rfl
@[simp] theorem State.setQueue_fuses (s : State) (q : Qid) (d : Queue) : (s.setQueue q d).fuses = s.fuses := rfl
@[simp] theorem State.setQueue_flash (s : State) (q : Qid) (d : Queue) : (s.setQueue q d).flash = s.flash := rfl
@[simp] theorem State.setQueue_pins (s : State) (q : Qid) (d : Queue) : (s.setQueue q d).pins = s.pins := rfl
@[simp] theorem State.setQueue_hs (s : State) (q : Qid) (d : Queue) : (s.setQueue q d).hs = s.hs := rfl

/-! ### setSess -/

@[simp] theorem State.setSess_pending (s : State) (i : Nat) (d : Option Session) : (s.setSess i d).pending = s.pending := rfl
@[simp] theorem State.setSess_free (s : State) (i : Nat) (d : Option Session) : (s.setSess i d).free = s.free := rfl
@[simp] theorem State.setSess_cores (s : State) (i : Nat) (d : Option Session) : (s.setSess i d).cores = s.cores := rfl
@[simp] theorem State.setSess_parts (s : State) (i : Nat) (d : Option Session) : (s.setSess i d).parts = s.parts := rfl
@[simp] theorem State.setSess_hbm (s : State) (i : Nat) (d : Option Session) : (s.setSess i d).hbm = s.hbm := rfl
@[simp] theorem State.setSess_stk (s : State) (i : Nat) (d : Option Session) : (s.setSess i d).stk = s.stk := rfl
@[simp] theorem State.setSess_fabric (s : State) (i : Nat) (d : Option Session) : (s.setSess i d).fabric = s.fabric := rfl
@[simp] theorem State.setSess_reg (s : State) (i : Nat) (d : Option Session) : (s.setSess i d).reg = s.reg := rfl
@[simp] theorem State.setSess_aon (s : State) (i : Nat) (d : Option Session) : (s.setSess i d).aon = s.aon := rfl
@[simp] theorem State.setSess_fuses (s : State) (i : Nat) (d : Option Session) : (s.setSess i d).fuses = s.fuses := rfl
@[simp] theorem State.setSess_flash (s : State) (i : Nat) (d : Option Session) : (s.setSess i d).flash = s.flash := rfl
@[simp] theorem State.setSess_pins (s : State) (i : Nat) (d : Option Session) : (s.setSess i d).pins = s.pins := rfl
@[simp] theorem State.setSess_hs (s : State) (i : Nat) (d : Option Session) : (s.setSess i d).hs = s.hs := rfl

/-! ### modHs -/

@[simp] theorem State.modHs_pending (s : State) (f : HotSwap → HotSwap) : (s.modHs f).pending = s.pending := rfl
@[simp] theorem State.modHs_free (s : State) (f : HotSwap → HotSwap) : (s.modHs f).free = s.free := rfl
@[simp] theorem State.modHs_cores (s : State) (f : HotSwap → HotSwap) : (s.modHs f).cores = s.cores := rfl
@[simp] theorem State.modHs_parts (s : State) (f : HotSwap → HotSwap) : (s.modHs f).parts = s.parts := rfl
@[simp] theorem State.modHs_eng (s : State) (f : HotSwap → HotSwap) : (s.modHs f).eng = s.eng := rfl
@[simp] theorem State.modHs_hbm (s : State) (f : HotSwap → HotSwap) : (s.modHs f).hbm = s.hbm := rfl
@[simp] theorem State.modHs_stk (s : State) (f : HotSwap → HotSwap) : (s.modHs f).stk = s.stk := rfl
@[simp] theorem State.modHs_fabric (s : State) (f : HotSwap → HotSwap) : (s.modHs f).fabric = s.fabric := rfl
@[simp] theorem State.modHs_reg (s : State) (f : HotSwap → HotSwap) : (s.modHs f).reg = s.reg := rfl
@[simp] theorem State.modHs_aon (s : State) (f : HotSwap → HotSwap) : (s.modHs f).aon = s.aon := rfl
@[simp] theorem State.modHs_fuses (s : State) (f : HotSwap → HotSwap) : (s.modHs f).fuses = s.fuses := rfl
@[simp] theorem State.modHs_flash (s : State) (f : HotSwap → HotSwap) : (s.modHs f).flash = s.flash := rfl
@[simp] theorem State.modHs_pins (s : State) (f : HotSwap → HotSwap) : (s.modHs f).pins = s.pins := rfl

/-! ### modPins -/

@[simp] theorem State.modPins_pending (s : State) (f : Pins → Pins) : (s.modPins f).pending = s.pending := rfl
@[simp] theorem State.modPins_free (s : State) (f : Pins → Pins) : (s.modPins f).free = s.free := rfl
@[simp] theorem State.modPins_cores (s : State) (f : Pins → Pins) : (s.modPins f).cores = s.cores := rfl
@[simp] theorem State.modPins_parts (s : State) (f : Pins → Pins) : (s.modPins f).parts = s.parts := rfl
@[simp] theorem State.modPins_eng (s : State) (f : Pins → Pins) : (s.modPins f).eng = s.eng := rfl
@[simp] theorem State.modPins_hbm (s : State) (f : Pins → Pins) : (s.modPins f).hbm = s.hbm := rfl
@[simp] theorem State.modPins_stk (s : State) (f : Pins → Pins) : (s.modPins f).stk = s.stk := rfl
@[simp] theorem State.modPins_fabric (s : State) (f : Pins → Pins) : (s.modPins f).fabric = s.fabric := rfl
@[simp] theorem State.modPins_reg (s : State) (f : Pins → Pins) : (s.modPins f).reg = s.reg := rfl
@[simp] theorem State.modPins_aon (s : State) (f : Pins → Pins) : (s.modPins f).aon = s.aon := rfl
@[simp] theorem State.modPins_fuses (s : State) (f : Pins → Pins) : (s.modPins f).fuses = s.fuses := rfl
@[simp] theorem State.modPins_flash (s : State) (f : Pins → Pins) : (s.modPins f).flash = s.flash := rfl
@[simp] theorem State.modPins_hs (s : State) (f : Pins → Pins) : (s.modPins f).hs = s.hs := rfl

/-! ### freeNext -/

@[simp] theorem State.freeNext_pending (s : State) : (s.freeNext).pending = s.pending := rfl
@[simp] theorem State.freeNext_cores (s : State) : (s.freeNext).cores = s.cores := rfl
@[simp] theorem State.freeNext_parts (s : State) : (s.freeNext).parts = s.parts := rfl
@[simp] theorem State.freeNext_eng (s : State) : (s.freeNext).eng = s.eng := rfl
@[simp] theorem State.freeNext_hbm (s : State) : (s.freeNext).hbm = s.hbm := rfl
@[simp] theorem State.freeNext_stk (s : State) : (s.freeNext).stk = s.stk := rfl
@[simp] theorem State.freeNext_fabric (s : State) : (s.freeNext).fabric = s.fabric := rfl
@[simp] theorem State.freeNext_reg (s : State) : (s.freeNext).reg = s.reg := rfl
@[simp] theorem State.freeNext_aon (s : State) : (s.freeNext).aon = s.aon := rfl
@[simp] theorem State.freeNext_fuses (s : State) : (s.freeNext).fuses = s.fuses := rfl
@[simp] theorem State.freeNext_flash (s : State) : (s.freeNext).flash = s.flash := rfl
@[simp] theorem State.freeNext_pins (s : State) : (s.freeNext).pins = s.pins := rfl
@[simp] theorem State.freeNext_hs (s : State) : (s.freeNext).hs = s.hs := rfl

/-! ### What an accessor reads after its own update -/

@[simp] theorem State.core_setCore_same (s : State) (i : CoreId) (v : Core) : (s.setCore i v).core i = v := by
  simp [State.core, State.setCore]

theorem State.core_setCore_other (s : State) (i j : CoreId) (v : Core) (h : j ≠ i) : (s.setCore i v).core j = s.core j := by
  have : (i : Nat) ≠ j := fun e => h (Fin.ext e.symm)
  simp [State.core, State.setCore, this]

@[simp] theorem State.core_modCore_same (s : State) (i : CoreId) (f : Core → Core) : (s.modCore i f).core i = f (s.core i) := by
  simp [State.modCore]

theorem State.core_modCore_other (s : State) (i j : CoreId) (f : Core → Core) (h : j ≠ i) : (s.modCore i f).core j = s.core j := by
  simp [State.modCore, State.core_setCore_other _ _ _ _ h]

@[simp] theorem State.part_setPart_same (s : State) (i : PartId) (v : Partition) : (s.setPart i v).part i = v := by
  simp [State.part, State.setPart]

theorem State.part_setPart_other (s : State) (i j : PartId) (v : Partition) (h : j ≠ i) : (s.setPart i v).part j = s.part j := by
  have : (i : Nat) ≠ j := fun e => h (Fin.ext e.symm)
  simp [State.part, State.setPart, this]

@[simp] theorem State.part_modPart_same (s : State) (i : PartId) (f : Partition → Partition) : (s.modPart i f).part i = f (s.part i) := by
  simp [State.modPart]

theorem State.part_modPart_other (s : State) (i j : PartId) (f : Partition → Partition) (h : j ≠ i) : (s.modPart i f).part j = s.part j := by
  simp [State.modPart, State.part_setPart_other _ _ _ _ h]

@[simp] theorem State.port_setPort_same (s : State) (i : PortId) (v : Port) : (s.setPort i v).port i = v := by
  simp [State.port, State.setPort]

theorem State.port_setPort_other (s : State) (i j : PortId) (v : Port) (h : j ≠ i) : (s.setPort i v).port j = s.port j := by
  have : (i : Nat) ≠ j := fun e => h (Fin.ext e.symm)
  simp [State.port, State.setPort, this]

@[simp] theorem State.port_modPort_same (s : State) (i : PortId) (f : Port → Port) : (s.modPort i f).port i = f (s.port i) := by
  simp [State.modPort]

theorem State.port_modPort_other (s : State) (i j : PortId) (f : Port → Port) (h : j ≠ i) : (s.modPort i f).port j = s.port j := by
  simp [State.modPort, State.port_setPort_other _ _ _ _ h]

@[simp] theorem State.stack_setStack_same (s : State) (i : StackId) (v : Stack) : (s.setStack i v).stack i = v := by
  simp [State.stack, State.setStack]

theorem State.stack_setStack_other (s : State) (i j : StackId) (v : Stack) (h : j ≠ i) : (s.setStack i v).stack j = s.stack j := by
  have : (i : Nat) ≠ j := fun e => h (Fin.ext e.symm)
  simp [State.stack, State.setStack, this]

@[simp] theorem State.stack_modStack_same (s : State) (i : StackId) (f : Stack → Stack) : (s.modStack i f).stack i = f (s.stack i) := by
  simp [State.modStack]

theorem State.stack_modStack_other (s : State) (i j : StackId) (f : Stack → Stack) (h : j ≠ i) : (s.modStack i f).stack j = s.stack j := by
  simp [State.modStack, State.stack_setStack_other _ _ _ _ h]

@[simp] theorem State.mb_setMb_same (s : State) (i : MbId) (v : Mailbox) : (s.setMb i v).mb i = v := by
  simp [State.mb, State.setMb]

theorem State.mb_setMb_other (s : State) (i j : MbId) (v : Mailbox) (h : j ≠ i) : (s.setMb i v).mb j = s.mb j := by
  have : (i : Nat) ≠ j := fun e => h (Fin.ext e.symm)
  simp [State.mb, State.setMb, this]

@[simp] theorem State.mb_modMb_same (s : State) (i : MbId) (f : Mailbox → Mailbox) : (s.modMb i f).mb i = f (s.mb i) := by
  simp [State.modMb]

theorem State.mb_modMb_other (s : State) (i j : MbId) (f : Mailbox → Mailbox) (h : j ≠ i) : (s.modMb i f).mb j = s.mb j := by
  simp [State.modMb, State.mb_setMb_other _ _ _ _ h]

@[simp] theorem Port.sub_setSub_same (q : Port) (i : SubId) (v : SubPort) : (q.setSub i v).sub i = v := by
  simp [Port.sub, Port.setSub]

theorem Port.sub_setSub_other (q : Port) (i j : SubId) (v : SubPort) (h : j ≠ i) : (q.setSub i v).sub j = q.sub j := by
  have : (i : Nat) ≠ j := fun e => h (Fin.ext e.symm)
  simp [Port.sub, Port.setSub, this]

@[simp] theorem State.queue_setQueue_same (s : State) (q : Qid) (d : Queue) : (s.setQueue q d).queue q = some d := by
  simp only [State.queue, State.setQueue, State.modEng, Smap.get_set_same]

theorem State.queue_setQueue_other (s : State) (q r : Qid) (d : Queue) (h : r ≠ q) : (s.setQueue q d).queue r = s.queue r := by
  have e : r.toNat ≠ q.toNat := fun e => h (BitVec.eq_of_toNat_eq e)
  simp only [State.queue, State.setQueue, State.modEng, Smap.get_set_other _ _ _ _ _ e]

@[simp] theorem State.sess_setSess_same (s : State) (i : Nat) (d : Option Session) : (s.setSess i d).sess i = d := by
  simp only [State.sess, State.setSess, State.modEng, Smap.get_set_same]

theorem State.sess_setSess_other (s : State) (i j : Nat) (d : Option Session) (h : j ≠ i) : (s.setSess i d).sess j = s.sess j := by
  simp only [State.sess, State.setSess, State.modEng, Smap.get_set_other _ _ _ _ _ h]

/-! ### Accessors after the update of another part -/

@[simp] theorem State.part_setCore (s : State) (c : CoreId) (k : Core) (i : PartId) : (s.setCore c k).part i = s.part i := rfl
@[simp] theorem State.port_setCore (s : State) (c : CoreId) (k : Core) (i : PortId) : (s.setCore c k).port i = s.port i := rfl
@[simp] theorem State.stack_setCore (s : State) (c : CoreId) (k : Core) (i : StackId) : (s.setCore c k).stack i = s.stack i := rfl
@[simp] theorem State.mb_setCore (s : State) (c : CoreId) (k : Core) (i : MbId) : (s.setCore c k).mb i = s.mb i := rfl
@[simp] theorem State.queue_setCore (s : State) (c : CoreId) (k : Core) (i : Qid) : (s.setCore c k).queue i = s.queue i := rfl
@[simp] theorem State.sess_setCore (s : State) (c : CoreId) (k : Core) (i : Nat) : (s.setCore c k).sess i = s.sess i := rfl
@[simp] theorem State.now_setCore (s : State) (c : CoreId) (k : Core) : (s.setCore c k).now = s.now := rfl
@[simp] theorem State.part_modCore (s : State) (c : CoreId) (f : Core → Core) (i : PartId) : (s.modCore c f).part i = s.part i := rfl
@[simp] theorem State.port_modCore (s : State) (c : CoreId) (f : Core → Core) (i : PortId) : (s.modCore c f).port i = s.port i := rfl
@[simp] theorem State.stack_modCore (s : State) (c : CoreId) (f : Core → Core) (i : StackId) : (s.modCore c f).stack i = s.stack i := rfl
@[simp] theorem State.mb_modCore (s : State) (c : CoreId) (f : Core → Core) (i : MbId) : (s.modCore c f).mb i = s.mb i := rfl
@[simp] theorem State.queue_modCore (s : State) (c : CoreId) (f : Core → Core) (i : Qid) : (s.modCore c f).queue i = s.queue i := rfl
@[simp] theorem State.sess_modCore (s : State) (c : CoreId) (f : Core → Core) (i : Nat) : (s.modCore c f).sess i = s.sess i := rfl
@[simp] theorem State.now_modCore (s : State) (c : CoreId) (f : Core → Core) : (s.modCore c f).now = s.now := rfl
@[simp] theorem State.part_modCtl (s : State) (c : CoreId) (f : CoreCtl → CoreCtl) (i : PartId) : (s.modCtl c f).part i = s.part i := rfl
@[simp] theorem State.port_modCtl (s : State) (c : CoreId) (f : CoreCtl → CoreCtl) (i : PortId) : (s.modCtl c f).port i = s.port i := rfl
@[simp] theorem State.stack_modCtl (s : State) (c : CoreId) (f : CoreCtl → CoreCtl) (i : StackId) : (s.modCtl c f).stack i = s.stack i := rfl
@[simp] theorem State.mb_modCtl (s : State) (c : CoreId) (f : CoreCtl → CoreCtl) (i : MbId) : (s.modCtl c f).mb i = s.mb i := rfl
@[simp] theorem State.queue_modCtl (s : State) (c : CoreId) (f : CoreCtl → CoreCtl) (i : Qid) : (s.modCtl c f).queue i = s.queue i := rfl
@[simp] theorem State.sess_modCtl (s : State) (c : CoreId) (f : CoreCtl → CoreCtl) (i : Nat) : (s.modCtl c f).sess i = s.sess i := rfl
@[simp] theorem State.now_modCtl (s : State) (c : CoreId) (f : CoreCtl → CoreCtl) : (s.modCtl c f).now = s.now := rfl
@[simp] theorem State.core_setPart (s : State) (p : PartId) (q : Partition) (i : CoreId) : (s.setPart p q).core i = s.core i := rfl
@[simp] theorem State.port_setPart (s : State) (p : PartId) (q : Partition) (i : PortId) : (s.setPart p q).port i = s.port i := rfl
@[simp] theorem State.stack_setPart (s : State) (p : PartId) (q : Partition) (i : StackId) : (s.setPart p q).stack i = s.stack i := rfl
@[simp] theorem State.mb_setPart (s : State) (p : PartId) (q : Partition) (i : MbId) : (s.setPart p q).mb i = s.mb i := rfl
@[simp] theorem State.queue_setPart (s : State) (p : PartId) (q : Partition) (i : Qid) : (s.setPart p q).queue i = s.queue i := rfl
@[simp] theorem State.sess_setPart (s : State) (p : PartId) (q : Partition) (i : Nat) : (s.setPart p q).sess i = s.sess i := rfl
@[simp] theorem State.now_setPart (s : State) (p : PartId) (q : Partition) : (s.setPart p q).now = s.now := rfl
@[simp] theorem State.core_modPart (s : State) (p : PartId) (f : Partition → Partition) (i : CoreId) : (s.modPart p f).core i = s.core i := rfl
@[simp] theorem State.port_modPart (s : State) (p : PartId) (f : Partition → Partition) (i : PortId) : (s.modPart p f).port i = s.port i := rfl
@[simp] theorem State.stack_modPart (s : State) (p : PartId) (f : Partition → Partition) (i : StackId) : (s.modPart p f).stack i = s.stack i := rfl
@[simp] theorem State.mb_modPart (s : State) (p : PartId) (f : Partition → Partition) (i : MbId) : (s.modPart p f).mb i = s.mb i := rfl
@[simp] theorem State.queue_modPart (s : State) (p : PartId) (f : Partition → Partition) (i : Qid) : (s.modPart p f).queue i = s.queue i := rfl
@[simp] theorem State.sess_modPart (s : State) (p : PartId) (f : Partition → Partition) (i : Nat) : (s.modPart p f).sess i = s.sess i := rfl
@[simp] theorem State.now_modPart (s : State) (p : PartId) (f : Partition → Partition) : (s.modPart p f).now = s.now := rfl
@[simp] theorem State.core_setPort (s : State) (p : PortId) (q : Port) (i : CoreId) : (s.setPort p q).core i = s.core i := rfl
@[simp] theorem State.part_setPort (s : State) (p : PortId) (q : Port) (i : PartId) : (s.setPort p q).part i = s.part i := rfl
@[simp] theorem State.stack_setPort (s : State) (p : PortId) (q : Port) (i : StackId) : (s.setPort p q).stack i = s.stack i := rfl
@[simp] theorem State.mb_setPort (s : State) (p : PortId) (q : Port) (i : MbId) : (s.setPort p q).mb i = s.mb i := rfl
@[simp] theorem State.queue_setPort (s : State) (p : PortId) (q : Port) (i : Qid) : (s.setPort p q).queue i = s.queue i := rfl
@[simp] theorem State.sess_setPort (s : State) (p : PortId) (q : Port) (i : Nat) : (s.setPort p q).sess i = s.sess i := rfl
@[simp] theorem State.now_setPort (s : State) (p : PortId) (q : Port) : (s.setPort p q).now = s.now := rfl
@[simp] theorem State.core_modPort (s : State) (p : PortId) (f : Port → Port) (i : CoreId) : (s.modPort p f).core i = s.core i := rfl
@[simp] theorem State.part_modPort (s : State) (p : PortId) (f : Port → Port) (i : PartId) : (s.modPort p f).part i = s.part i := rfl
@[simp] theorem State.stack_modPort (s : State) (p : PortId) (f : Port → Port) (i : StackId) : (s.modPort p f).stack i = s.stack i := rfl
@[simp] theorem State.mb_modPort (s : State) (p : PortId) (f : Port → Port) (i : MbId) : (s.modPort p f).mb i = s.mb i := rfl
@[simp] theorem State.queue_modPort (s : State) (p : PortId) (f : Port → Port) (i : Qid) : (s.modPort p f).queue i = s.queue i := rfl
@[simp] theorem State.sess_modPort (s : State) (p : PortId) (f : Port → Port) (i : Nat) : (s.modPort p f).sess i = s.sess i := rfl
@[simp] theorem State.now_modPort (s : State) (p : PortId) (f : Port → Port) : (s.modPort p f).now = s.now := rfl
@[simp] theorem State.core_setStack (s : State) (h : StackId) (q : Stack) (i : CoreId) : (s.setStack h q).core i = s.core i := rfl
@[simp] theorem State.part_setStack (s : State) (h : StackId) (q : Stack) (i : PartId) : (s.setStack h q).part i = s.part i := rfl
@[simp] theorem State.port_setStack (s : State) (h : StackId) (q : Stack) (i : PortId) : (s.setStack h q).port i = s.port i := rfl
@[simp] theorem State.mb_setStack (s : State) (h : StackId) (q : Stack) (i : MbId) : (s.setStack h q).mb i = s.mb i := rfl
@[simp] theorem State.queue_setStack (s : State) (h : StackId) (q : Stack) (i : Qid) : (s.setStack h q).queue i = s.queue i := rfl
@[simp] theorem State.sess_setStack (s : State) (h : StackId) (q : Stack) (i : Nat) : (s.setStack h q).sess i = s.sess i := rfl
@[simp] theorem State.now_setStack (s : State) (h : StackId) (q : Stack) : (s.setStack h q).now = s.now := rfl
@[simp] theorem State.core_setMb (s : State) (m : MbId) (b : Mailbox) (i : CoreId) : (s.setMb m b).core i = s.core i := rfl
@[simp] theorem State.part_setMb (s : State) (m : MbId) (b : Mailbox) (i : PartId) : (s.setMb m b).part i = s.part i := rfl
@[simp] theorem State.port_setMb (s : State) (m : MbId) (b : Mailbox) (i : PortId) : (s.setMb m b).port i = s.port i := rfl
@[simp] theorem State.stack_setMb (s : State) (m : MbId) (b : Mailbox) (i : StackId) : (s.setMb m b).stack i = s.stack i := rfl
@[simp] theorem State.queue_setMb (s : State) (m : MbId) (b : Mailbox) (i : Qid) : (s.setMb m b).queue i = s.queue i := rfl
@[simp] theorem State.sess_setMb (s : State) (m : MbId) (b : Mailbox) (i : Nat) : (s.setMb m b).sess i = s.sess i := rfl
@[simp] theorem State.now_setMb (s : State) (m : MbId) (b : Mailbox) : (s.setMb m b).now = s.now := rfl
@[simp] theorem State.core_modMb (s : State) (m : MbId) (f : Mailbox → Mailbox) (i : CoreId) : (s.modMb m f).core i = s.core i := rfl
@[simp] theorem State.part_modMb (s : State) (m : MbId) (f : Mailbox → Mailbox) (i : PartId) : (s.modMb m f).part i = s.part i := rfl
@[simp] theorem State.port_modMb (s : State) (m : MbId) (f : Mailbox → Mailbox) (i : PortId) : (s.modMb m f).port i = s.port i := rfl
@[simp] theorem State.stack_modMb (s : State) (m : MbId) (f : Mailbox → Mailbox) (i : StackId) : (s.modMb m f).stack i = s.stack i := rfl
@[simp] theorem State.queue_modMb (s : State) (m : MbId) (f : Mailbox → Mailbox) (i : Qid) : (s.modMb m f).queue i = s.queue i := rfl
@[simp] theorem State.sess_modMb (s : State) (m : MbId) (f : Mailbox → Mailbox) (i : Nat) : (s.modMb m f).sess i = s.sess i := rfl
@[simp] theorem State.now_modMb (s : State) (m : MbId) (f : Mailbox → Mailbox) : (s.modMb m f).now = s.now := rfl
@[simp] theorem State.core_modReg (s : State) (f : Regulator → Regulator) (i : CoreId) : (s.modReg f).core i = s.core i := rfl
@[simp] theorem State.part_modReg (s : State) (f : Regulator → Regulator) (i : PartId) : (s.modReg f).part i = s.part i := rfl
@[simp] theorem State.port_modReg (s : State) (f : Regulator → Regulator) (i : PortId) : (s.modReg f).port i = s.port i := rfl
@[simp] theorem State.stack_modReg (s : State) (f : Regulator → Regulator) (i : StackId) : (s.modReg f).stack i = s.stack i := rfl
@[simp] theorem State.queue_modReg (s : State) (f : Regulator → Regulator) (i : Qid) : (s.modReg f).queue i = s.queue i := rfl
@[simp] theorem State.sess_modReg (s : State) (f : Regulator → Regulator) (i : Nat) : (s.modReg f).sess i = s.sess i := rfl
@[simp] theorem State.now_modReg (s : State) (f : Regulator → Regulator) : (s.modReg f).now = s.now := rfl
@[simp] theorem State.core_logEvent (s : State) (code src part : Nat) (arg : List Byte) (i : CoreId) : (s.logEvent code src part arg).core i = s.core i := rfl
@[simp] theorem State.part_logEvent (s : State) (code src part : Nat) (arg : List Byte) (i : PartId) : (s.logEvent code src part arg).part i = s.part i := rfl
@[simp] theorem State.port_logEvent (s : State) (code src part : Nat) (arg : List Byte) (i : PortId) : (s.logEvent code src part arg).port i = s.port i := rfl
@[simp] theorem State.stack_logEvent (s : State) (code src part : Nat) (arg : List Byte) (i : StackId) : (s.logEvent code src part arg).stack i = s.stack i := rfl
@[simp] theorem State.queue_logEvent (s : State) (code src part : Nat) (arg : List Byte) (i : Qid) : (s.logEvent code src part arg).queue i = s.queue i := rfl
@[simp] theorem State.sess_logEvent (s : State) (code src part : Nat) (arg : List Byte) (i : Nat) : (s.logEvent code src part arg).sess i = s.sess i := rfl
@[simp] theorem State.now_logEvent (s : State) (code src part : Nat) (arg : List Byte) : (s.logEvent code src part arg).now = s.now := rfl
@[simp] theorem State.core_modAon (s : State) (f : Aon → Aon) (i : CoreId) : (s.modAon f).core i = s.core i := rfl
@[simp] theorem State.part_modAon (s : State) (f : Aon → Aon) (i : PartId) : (s.modAon f).part i = s.part i := rfl
@[simp] theorem State.port_modAon (s : State) (f : Aon → Aon) (i : PortId) : (s.modAon f).port i = s.port i := rfl
@[simp] theorem State.stack_modAon (s : State) (f : Aon → Aon) (i : StackId) : (s.modAon f).stack i = s.stack i := rfl
@[simp] theorem State.mb_modAon (s : State) (f : Aon → Aon) (i : MbId) : (s.modAon f).mb i = s.mb i := rfl
@[simp] theorem State.queue_modAon (s : State) (f : Aon → Aon) (i : Qid) : (s.modAon f).queue i = s.queue i := rfl
@[simp] theorem State.sess_modAon (s : State) (f : Aon → Aon) (i : Nat) : (s.modAon f).sess i = s.sess i := rfl
@[simp] theorem State.core_modEng (s : State) (f : Engines → Engines) (i : CoreId) : (s.modEng f).core i = s.core i := rfl
@[simp] theorem State.part_modEng (s : State) (f : Engines → Engines) (i : PartId) : (s.modEng f).part i = s.part i := rfl
@[simp] theorem State.port_modEng (s : State) (f : Engines → Engines) (i : PortId) : (s.modEng f).port i = s.port i := rfl
@[simp] theorem State.stack_modEng (s : State) (f : Engines → Engines) (i : StackId) : (s.modEng f).stack i = s.stack i := rfl
@[simp] theorem State.mb_modEng (s : State) (f : Engines → Engines) (i : MbId) : (s.modEng f).mb i = s.mb i := rfl
@[simp] theorem State.now_modEng (s : State) (f : Engines → Engines) : (s.modEng f).now = s.now := rfl
@[simp] theorem State.core_modHs (s : State) (f : HotSwap → HotSwap) (i : CoreId) : (s.modHs f).core i = s.core i := rfl
@[simp] theorem State.part_modHs (s : State) (f : HotSwap → HotSwap) (i : PartId) : (s.modHs f).part i = s.part i := rfl
@[simp] theorem State.port_modHs (s : State) (f : HotSwap → HotSwap) (i : PortId) : (s.modHs f).port i = s.port i := rfl
@[simp] theorem State.stack_modHs (s : State) (f : HotSwap → HotSwap) (i : StackId) : (s.modHs f).stack i = s.stack i := rfl
@[simp] theorem State.mb_modHs (s : State) (f : HotSwap → HotSwap) (i : MbId) : (s.modHs f).mb i = s.mb i := rfl
@[simp] theorem State.queue_modHs (s : State) (f : HotSwap → HotSwap) (i : Qid) : (s.modHs f).queue i = s.queue i := rfl
@[simp] theorem State.sess_modHs (s : State) (f : HotSwap → HotSwap) (i : Nat) : (s.modHs f).sess i = s.sess i := rfl
@[simp] theorem State.now_modHs (s : State) (f : HotSwap → HotSwap) : (s.modHs f).now = s.now := rfl
@[simp] theorem State.core_modPins (s : State) (f : Pins → Pins) (i : CoreId) : (s.modPins f).core i = s.core i := rfl
@[simp] theorem State.part_modPins (s : State) (f : Pins → Pins) (i : PartId) : (s.modPins f).part i = s.part i := rfl
@[simp] theorem State.port_modPins (s : State) (f : Pins → Pins) (i : PortId) : (s.modPins f).port i = s.port i := rfl
@[simp] theorem State.stack_modPins (s : State) (f : Pins → Pins) (i : StackId) : (s.modPins f).stack i = s.stack i := rfl
@[simp] theorem State.mb_modPins (s : State) (f : Pins → Pins) (i : MbId) : (s.modPins f).mb i = s.mb i := rfl
@[simp] theorem State.queue_modPins (s : State) (f : Pins → Pins) (i : Qid) : (s.modPins f).queue i = s.queue i := rfl
@[simp] theorem State.sess_modPins (s : State) (f : Pins → Pins) (i : Nat) : (s.modPins f).sess i = s.sess i := rfl
@[simp] theorem State.now_modPins (s : State) (f : Pins → Pins) : (s.modPins f).now = s.now := rfl
@[simp] theorem State.core_freeNext (s : State) (i : CoreId) : (s.freeNext).core i = s.core i := rfl
@[simp] theorem State.part_freeNext (s : State) (i : PartId) : (s.freeNext).part i = s.part i := rfl
@[simp] theorem State.port_freeNext (s : State) (i : PortId) : (s.freeNext).port i = s.port i := rfl
@[simp] theorem State.stack_freeNext (s : State) (i : StackId) : (s.freeNext).stack i = s.stack i := rfl
@[simp] theorem State.mb_freeNext (s : State) (i : MbId) : (s.freeNext).mb i = s.mb i := rfl
@[simp] theorem State.queue_freeNext (s : State) (i : Qid) : (s.freeNext).queue i = s.queue i := rfl
@[simp] theorem State.sess_freeNext (s : State) (i : Nat) : (s.freeNext).sess i = s.sess i := rfl
@[simp] theorem State.now_freeNext (s : State) : (s.freeNext).now = s.now := rfl

end Sys2Proof.Machine
end

