-- ==== Sys2Proof/Laws/Still.lean ====
section
/-! SUPPORT. A state in which nothing waits settles at once. -/

namespace Sys2Proof.Machine

theorem State.tryStart_of_notWaiting {s : State} {c : CoreId} {p : PartId} {tok : Nat}
    (h : ∀ x ∈ (s.core c).ctl.slots, x.stage ≠ .waiting ∧ s.reuseWaits c x = false) : s.tryStart c p tok = s := by
  unfold State.tryStart
  split
  · rfl
  · rename_i x hx
    have : x ∈ (s.core c).ctl.slots := by
      unfold Core.slot at hx
      exact List.mem_of_find?_eq_some hx
    simp [(h x this).1, (h x this).2]

theorem State.tryStarts_of_notWaiting {s : State} {c : CoreId} {p : PartId} (ts : List Nat)
    (h : ∀ x ∈ (s.core c).ctl.slots, x.stage ≠ .waiting ∧ s.reuseWaits c x = false) : s.tryStarts c p ts = s := by
  induction ts with
  | nil => rfl
  | cons t ts ih => rw [State.tryStarts, State.tryStart_of_notWaiting h, ih]

theorem Core.still_iff {k : Core} : k.still = true ↔ k.ctl.hold = none ∧ ∀ x ∈ k.ctl.slots, x.stage ≠ .waiting := by
  simp [Core.still]

theorem State.coreStill_iff {s : State} {c : CoreId} :
    s.coreStill c = true ↔ (s.core c).still = true ∧ ∀ x ∈ (s.core c).ctl.slots, s.reuseWaits c x = false := by
  simp [State.coreStill]

/-- A core that holds nothing back goes on as it is. -/
theorem State.progressCore_of_still {s : State} {c : CoreId} (h : s.coreStill c = true) : s.progressCore c = s := by
  obtain ⟨h0, h3⟩ := State.coreStill_iff.mp h
  obtain ⟨h1, h2⟩ := Core.still_iff.mp h0
  have e : s.progressHold c = s := by simp [State.progressHold, h1]
  simp only [State.progressCore, e]
  split
  · exact State.tryStarts_of_notWaiting _ fun x hx => ⟨h2 x hx, h3 x hx⟩
  · rfl

theorem State.progressCores_of_still {s : State} (cs : List CoreId) (h : ∀ c, s.coreStill c = true) :
    s.progressCores cs = s := by
  induction cs with
  | nil => rfl
  | cons c cs ih => rw [State.progressCores, State.progressCore_of_still (h c), ih]

theorem State.grantAll_of_idle {s : State} (qs : List Qid)
    (h : ∀ q ∈ qs, ∀ d, s.queue q = some d → d.waiters = []) : s.grantAll qs = s := by
  induction qs with
  | nil => rfl
  | cons q qs ih =>
    have r := ih fun r hr => h r (by simp [hr])
    rw [State.grantAll]
    cases hd : s.queue q with
    | none => exact r
    | some d => simpa [h q (by simp) d hd] using r

/-- Where the engine holds nothing for a session of a peer and no bridge waits, relays and refusals are at rest. -/
theorem State.sweepRelays_of_none {s : State} (h : s.reg.relayed = []) (k : s.reg.relays = []) : s.sweepRelays = s := by
  simp [State.sweepRelays, h, State.relayFailed, k]

/-- The queues in any order: each is one of the module's. -/
theorem State.mem_qidsFirst {s : State} {q : Qid} (h : q ∈ s.qidsFirst) : q ∈ s.qids := by
  simp only [State.qidsFirst, List.mem_append, List.mem_filter] at h
  exact h.elim (·.1) (·.1)

theorem State.oweResponses_of_none {s : State} (ms : List MbId) (h : ∀ m, (s.mb m).owed = none) : s.oweResponses ms = s := by
  induction ms with
  | nil => rfl
  | cons m ms ih => rw [State.oweResponses]; simp [h m, ih]

theorem State.sweepWaits_of_none {s : State} (ms : List MbId) (h : ∀ m r, (s.mb m).busy = some r → r.wait = none) :
    s.sweepWaits ms = s := by
  induction ms with
  | nil => rfl
  | cons m ms ih =>
    rw [State.sweepWaits]
    split
    · rename_i r hr
      simp [h m r hr, ih]
    · exact ih

theorem State.sweepXfers_of_nil {s : State} (h : s.eng.xfers = []) : s.sweepXfers = s := by
  simp only [State.sweepXfers, h, State.sweepList, State.modEng, List.filter_nil]
  rw [← h]

/-- A still state settles at once: nothing waits, so nothing goes on. -/
theorem State.settle_of_still {s : State} (h : s.still = true) : s.settle = s := by
  simp only [State.still, Bool.and_eq_true, List.all_eq_true, List.isEmpty_iff] at h
  obtain ⟨⟨⟨⟨⟨h1, ⟨h6, h7⟩, h8⟩, h2⟩, h3⟩, h4⟩, h5⟩ := h
  have c : ∀ c, s.coreStill c = true := fun c => h1 c (by simp [allCores])
  have q : ∀ q ∈ s.qidsFirst, ∀ d, s.queue q = some d → d.waiters = [] := fun q hq d hd => by
    have := h4 q (State.mem_qidsFirst hq)
    simpa [hd] using this
  have o : ∀ m, (s.mb m).owed = none := fun m => by simpa using (h5 m (by simp [allMbs])).1
  have w : ∀ m r, (s.mb m).busy = some r → r.wait = none := fun m r hr => by
    have := (h5 m (by simp [allMbs])).2
    simpa [hr] using this
  have e : s.progressEngines = s := by
    simp only [State.progressEngines, State.sweepRelays_of_none h6 h7, h8, State.bookAllRefused, State.localA2a, h2, State.drainLocal, h3,
      State.rtFirst, List.filter_nil, List.append_nil, State.permAll, State.ownAll, State.grantAll_of_idle _ q,
      State.oweResponses_of_none _ o, State.sweepXfers_of_nil h3, State.sweepWaits_of_none _ w]
  simp only [State.settle, State.progressCores_of_still _ c, e]

end Sys2Proof.Machine
end

