-- ==== Sys2Proof/Laws/Unit.lean ====
section
/-! SUPPORT. How a command of a unit queue runs in a core that has nothing else in flight: what its check of clean memory and
its stores do, and that its outcome is the whole state's; a stored range of a partition's space reads back. -/

namespace Sys2Proof.Machine

theorem CoreMem.quads_of_clean {m : CoreMem} (h : m.Clean) (d : Span) (st : Ecc) : m.quads d st = [] := by
  unfold CoreMem.quads CoreMem.ecc
  split <;> simp [h.1, h.2]

theorem State.modCore_id {s : State} {c : CoreId} {f : Core → Core} (h : f (s.core c) = s.core c) : s.modCore c f = s := by
  have : s.cores.set c (s.core c) = s.cores := by
    ext i hi
    simp only [State.core, Vector.getElem_set, Fin.getElem_fin]
    split
    · simp_all
    · rfl
  simp only [State.modCore, State.setCore, h, this]

/-- The check of clean memory finds nothing and changes nothing. -/
theorem State.checkSpans_clean {s : State} {c : CoreId} (ds : List Span) (h : (s.core c).mem.Clean) :
    s.checkSpans c ds = (true, s) := by
  induction ds with
  | nil => rfl
  | cons d ds ih =>
    have e : s.modMem c (fun m => m.fix d.xb []) = s := State.modCore_id rfl
    unfold State.checkSpans
    simp only [CoreMem.quads_of_clean h, List.isEmpty_nil, Bool.not_true, Bool.false_eq_true, if_false, e, List.length_nil,
      State.countCe, if_true, ih]

theorem Mem.writeSkip_nil (m : Mem) (a : Nat) (bs : List Byte) : m.writeSkip [] a bs = m.writeN a bs := by
  induction bs generalizing m a with
  | nil => rfl
  | cons b t ih => simp [Mem.writeSkip, Mem.writeN, ih]

/-- A core's memory is replaced. -/
def State.withMem (s : State) (c : CoreId) (m : CoreMem) : State := s.modMem c fun _ => m

theorem State.withMem_mem (s : State) (c : CoreId) (m : CoreMem) : ((s.withMem c m).core c).mem = m := by
  simp [State.withMem, State.modMem]

theorem State.withMem_withMem (s : State) (c : CoreId) (m n : CoreMem) : (s.withMem c m).withMem c n = s.withMem c n := by
  simp only [State.withMem, State.modMem, State.modCore, State.core_setCore_same]
  simp only [State.setCore, Vector.set_set]

theorem State.withMem_self (s : State) (c : CoreId) : s.withMem c (s.core c).mem = s := by
  unfold State.withMem State.modMem
  exact State.modCore_id rfl

/-- The store of one run in clean memory. -/
def CoreMem.putRun (m : CoreMem) (xb : Bool) (a : Nat) (bs : List Byte) : CoreMem :=
  if xb then { m with xb := m.xb.writeN a bs } else { m with cs := m.cs.writeN a bs }

theorem CoreMem.putRun_clean {m : CoreMem} (h : m.Clean) (xb : Bool) (a : Nat) (bs : List Byte) : (m.putRun xb a bs).Clean := by
  unfold CoreMem.putRun
  split <;> exact h

/-- A store in clean memory lands. -/
theorem State.writeCore_clean {s : State} {c : CoreId} (h : (s.core c).mem.Clean) (xb : Bool) (a : Nat) (bs : List Byte) :
    s.writeCore c xb a bs = (true, s.withMem c ((s.core c).mem.putRun xb a bs)) := by
  simp only [State.writeCore, CoreMem.quads_of_clean h, List.filter_nil, List.append_nil, List.isEmpty_nil, List.length_nil,
    State.countCe, if_true, State.withMem, State.modMem, State.modCore, CoreMem.fix, Mem.writeSkip_nil, CoreMem.putRun]

/-- Runs are stored in turn in clean memory. -/
theorem State.writeRuns_clean {s : State} {c : CoreId} (rs : Runs) (h : (s.core c).mem.Clean) :
    s.writeRuns c rs = (true, s.withMem c ((s.core c).mem.putRuns rs)) := by
  induction rs generalizing s with
  | nil => exact congrArg (Prod.mk true) (State.withMem_self s c).symm
  | cons r rs ih =>
    unfold State.writeRuns
    rw [State.writeCore_clean h]
    simp only
    rw [ih (by rw [State.withMem_mem]; exact CoreMem.putRun_clean h _ _ _), State.withMem_mem, State.withMem_withMem]
    rfl

/-! ### One command in flight -/

theorem State.progressEngines_of_still {s : State} (h : s.still = true) : s.progressEngines = s := by
  simp only [State.still, Bool.and_eq_true, List.all_eq_true, List.isEmpty_iff] at h
  obtain ⟨⟨⟨⟨⟨_, ⟨h6, h7⟩, h8⟩, h2⟩, h3⟩, h4⟩, h5⟩ := h
  have q : ∀ q ∈ s.qidsFirst, ∀ d, s.queue q = some d → d.waiters = [] := fun q hq d hd => by
    have := h4 q (State.mem_qidsFirst hq)
    simpa [hd] using this
  have o : ∀ m, (s.mb m).owed = none := fun m => by simpa using (h5 m (by simp [allMbs])).1
  have w : ∀ m r, (s.mb m).busy = some r → r.wait = none := fun m r hr => by
    have := (h5 m (by simp [allMbs])).2
    simpa [hr] using this
  simp only [State.progressEngines, State.sweepRelays_of_none h6 h7, h8, State.bookAllRefused, State.localA2a, h2, State.drainLocal, h3,
    State.rtFirst, List.filter_nil, List.append_nil, State.permAll, State.ownAll, State.grantAll_of_idle _ q,
    State.oweResponses_of_none _ o, State.sweepXfers_of_nil h3, State.sweepWaits_of_none _ w]

theorem State.coreStill_of_still {s : State} (h : s.still = true) (c : CoreId) : s.coreStill c = true := by
  simp only [State.still, Bool.and_eq_true, List.all_eq_true] at h
  exact h.1.1.1.1.1 c (by simp [allCores])

theorem State.core_still {s : State} (h : s.still = true) (c : CoreId) : (s.core c).still = true :=
  (State.coreStill_iff.mp (State.coreStill_of_still h c)).1

/-- A command that moves nothing through a shared point runs as it is applied. -/
theorem State.ran_of_bytes {s : State} {c : CoreId} {p : PartId} {x : InFlight} {r : Run} (h : bytesOf x.line = 0) :
    s.ran c p x r = r.apply c x.token := by
  cases r <;> simp [State.ran, State.charge, h, Run.apply]

/-- Where every core but `c` holds nothing back and going on in `c` gives a still state, that is what the whole settles to. -/
theorem State.settle_of_one {s w : State} {c : CoreId} (o : ∀ d, d ≠ c → s.coreStill d = true)
    (b : c ∈ s.busyCores) (e : s.progressCore c = w) (h : w.still = true) : s.settle = w := by
  have key : ∀ cs : List CoreId, c ∈ cs → s.progressCores cs = w := by
    intro cs
    induction cs with
    | nil => intro h; cases h
    | cons d ds ih =>
      intro hc
      by_cases hd : d = c
      · subst hd
        rw [State.progressCores, e]
        exact State.progressCores_of_still ds (State.coreStill_of_still h)
      · rw [State.progressCores, State.progressCore_of_still (o d hd)]
        exact ih (by simpa [Ne.symm hd] using hc)
  simp only [State.settle, key _ b, State.progressEngines_of_still h,
    State.progressCores_of_still _ (State.coreStill_of_still h)]

/-! ### A unit command in an idle core -/

theorem State.Idle.decodeFree {s : State} {c : CoreId} {p : PartId} (h : s.Idle c p) (x : Line) : (s.core c).decodeFree x = true := by
  obtain ⟨h0, h1, h2, h3, h4, h5, h6⟩ := h
  have hh := (Core.still_iff.mp (State.core_still h0 c)).1
  have room : ∀ u : UnitId, (s.core c).unitRoom u = true := by
    intro u
    cases u <;> simp [Core.unitRoom, h4, UnitId.depth]
  simp [Core.decodeFree, h2, h3, h4, hh, room]

/-- Decoding line `x` posts nothing: it is no RECV, or its queue takes no posted item (05 R106). -/
abbrev State.PostsNone (s : State) (c : CoreId) (p : PartId) (x : Line) : Prop :=
  ∀ r : RecvLine, x = .recv r → (s.enter c x).postRecv c p (s.core c).ctl.tokens r = s.enter c x

/-- A line of a unit queue that passes its checks enters its core's slots. -/
theorem State.Idle.decodeLine {s : State} {c : CoreId} {p : PartId} {x : Line} (h : s.Idle c p)
    (k : s.checkLine c p x = none) (d : holdsDecode x = false) (u : unitsOf x ≠ []) (np : s.PostsNone c p x) : s.decodeLine c x = s.enter c x := by
  have e : ∀ y : InFlight, (s.modCtl c fun t => { t with pc := t.pc + 32, tokens := t.tokens + 1 }).modCtl c
      (fun t => { t with slots := t.slots ++ [y] }) =
      s.modCtl c fun t => { t with pc := t.pc + 32, tokens := t.tokens + 1, slots := t.slots ++ [y] } := by
    intro y
    simp only [State.modCtl, State.modCore, State.core_setCore_same]
    simp only [State.setCore, Vector.set_set]
  simp only [State.decodeLine, h.2.1, h.decodeFree x, h.2.2.2.2.2.1, k, d]
  simp only [Bool.not_false, Bool.and_self, if_true, Bool.false_eq_true, if_false, List.isEmpty_iff, u]
  have f := e ((s.core c).ctl.capture x)
  split
  · rename_i r
    rw [f]
    exact np r rfl
  · exact f

theorem State.enter_core (s : State) (c : CoreId) (x : Line) :
    (s.enter c x).core c = { s.core c with ctl := { (s.core c).ctl with
      pc := (s.core c).ctl.pc + 32, tokens := (s.core c).ctl.tokens + 1
      slots := (s.core c).ctl.slots ++ [(s.core c).ctl.capture x] } } := by
  simp [State.enter, State.modCtl]

theorem State.enter_core_other (s : State) (c d : CoreId) (x : Line) (h : d ≠ c) : (s.enter c x).core d = s.core d :=
  State.core_modCore_other _ _ _ _ h

theorem InFlight.missed_eq {y : InFlight} {t : CoreCtl} {now : Nat} (e : y.deadline = t.deadline)
    (h : (t.deadline.all fun d => decide (now ≤ d.at_.toNat)) = true) : y.missed now = false := by
  unfold InFlight.missed
  rw [e]
  split
  · rename_i d hd
    simp only [hd, Option.all_some, decide_eq_true_eq] at h
    simp; omega
  · rfl

/-- The counters of a report's flags touch nothing but the partition. -/
theorem State.counted_cores (s : State) (p : PartId) (r : Report) (k : Vector Core 24) :
    ({ s with cores := k } : State).counted p r = { s.counted p r with cores := k } := by
  unfold State.counted
  simp only
  split <;> split <;> rfl

theorem State.counted_cores_eq (s : State) (p : PartId) (r : Report) : (s.counted p r).cores = s.cores := by
  unfold State.counted
  simp only
  split <;> split <;> rfl

theorem State.counted_eng (s : State) (p : PartId) (r : Report) : (s.counted p r).eng = s.eng := by
  unfold State.counted
  simp only
  split <;> split <;> rfl

theorem State.counted_still (s : State) (p : PartId) (r : Report) : (s.counted p r).still = s.still := by
  unfold State.counted
  simp only
  split <;> split <;> rfl

/-- A lone slot that finishes with ST_OK: its core's control state, and the partition's counters. -/
theorem State.finishSlot_ok {s v : State} {c : CoreId} {p : PartId} {x : Line} {r : Report} {k : Core}
    (hk : v.core c = k) (hp : k.part = some p) (hs : k.ctl.slots = [(s.core c).ctl.capture x])
    (hd : ((s.core c).ctl.deadline.all fun d => decide (v.now ≤ d.at_.toNat)) = true) (ht : v.aon.time = s.aon.time)
    (hf : k.ctl.finCount = (s.core c).ctl.finCount) (ok : r.status = stOk) :
    v.finishSlot c (s.core c).ctl.tokens r =
      (v.setCore c { k with ctl := { k.ctl with
        finCount := k.ctl.finCount + 1, slots := [(s.core c).ctl.finished x r s.aon.time] } }).counted p r := by
  have slot : (v.core c).slot (s.core c).ctl.tokens = some ((s.core c).ctl.capture x) := by
    simp [hk, Core.slot, hs, CoreCtl.capture]
  have late : ((s.core c).ctl.capture x).missed v.now = false := InFlight.missed_eq rfl hd
  have tok : ((s.core c).ctl.capture x).token = (s.core c).ctl.tokens := rfl
  have st : ((s.core c).ctl.capture x).stage = .waiting := rfl
  unfold State.finishSlot
  rw [slot]
  simp only [st, CmdStage.isDone, Bool.false_eq_true, if_false, late]
  have e : ((v.modSlot c (s.core c).ctl.tokens fun y => { y with
        stage := .done (v.core c).ctl.finCount, status := r.status, acc := BitVec.ofNat 8 r.acc, cvt := BitVec.ofNat 8 r.cvt,
        info0 := BitVec.ofNat 32 r.info0, info1 := BitVec.ofNat 64 r.info1, time := v.aon.time, late := false }).modCtl c
      fun t => { t with
        finCount := t.finCount + 1
        stream := if t.stream = .running ∧ haltsStream ((s.core c).ctl.capture x).line r.status = true then .halted else t.stream }) =
      v.setCore c { k with ctl := { k.ctl with
        finCount := k.ctl.finCount + 1, slots := [(s.core c).ctl.finished x r s.aon.time] } } := by
    simp only [State.modSlot, State.modCtl, State.modCore, State.core_setCore_same, hk]
    simp only [State.setCore, Vector.set_set, hs, hf, ht, ok, haltsStream, bne_self_eq_false, Bool.false_and,
      Bool.false_eq_true, and_false, if_false, List.map_cons, List.map_nil, tok, if_true, CoreCtl.finished]
    rfl
  have cs : ∀ u : State, u.countStatus p r.status = u := fun u => by simp [State.countStatus, ok]
  have hq : (v.core c).part = some p := hk ▸ hp
  cases ((s.core c).ctl.capture x).deadline <;> simp only [hq, cs, e] <;> rfl

theorem State.finishCmd_ok {v : State} {c : CoreId} {tok : Nat} {r : Report} (ok : r.status = stOk) :
    v.finishCmd c tok r = v.finishSlot c tok r := by
  have es : endsRound r.status = false := by simp [ok, endsRound, stOk, stCancelled, stBadField, stBadAddress, stDeadlineMissed]
  unfold State.finishCmd
  simp only [es, Bool.false_eq_true, false_and, and_false, if_false]
  generalize (v.core c).slot tok = a
  generalize (v.core c).part = b
  cases a with
  | none => rfl
  | some y => cases b with
    | none => rfl
    | some q =>
      dsimp only
      split <;> first | rfl | simp [ok]

theorem State.complete_ok {v : State} {c : CoreId} {tok : Nat} {r : Report} (ok : r.status = stOk) :
    v.complete c tok r = v.finishSlot c tok r := by
  have sc : statusCause r.status = none := by simp [ok, statusCause, stOk, stCsEcc, stAccParity, stStashOverflow, stBranchStack]
  unfold State.complete
  rw [sc, State.finishCmd_ok ok]

/-- The slot a lone command has left finished, in the state its run left. -/
def State.afterRun (s v : State) (c : CoreId) (p : PartId) (x : Line) (r : Report) : State :=
  (v.setCore c { v.core c with ctl := { (v.core c).ctl with
    finCount := (v.core c).ctl.finCount + 1, slots := [(s.core c).ctl.finished x r s.aon.time] } }).counted p r

theorem State.afterRun_core (s v : State) (c : CoreId) (p : PartId) (x : Line) (r : Report) :
    (s.afterRun v c p x r).core c = { v.core c with ctl := { (v.core c).ctl with
      finCount := (v.core c).ctl.finCount + 1, slots := [(s.core c).ctl.finished x r s.aon.time] } } := by
  simp only [State.afterRun, State.core, State.counted_cores_eq]
  rw [← State.core, ← State.core, State.core_setCore_same]

theorem State.afterRun_core_other (s v : State) (c d : CoreId) (p : PartId) (x : Line) (r : Report) (h : d ≠ c) :
    (s.afterRun v c p x r).core d = v.core d := by
  simp only [State.afterRun, State.core, State.counted_cores_eq]
  rw [← State.core, ← State.core, State.core_setCore_other _ _ _ _ h]
  rfl

theorem State.afterRun_eq {s v : State} {c : CoreId} {p : PartId} {x : Line} {r : Report}
    (vp : v = { s with free := v.free, cores := v.cores, parts := v.parts }) :
    s.afterRun v c p x r =
      { ({ s with free := v.free, parts := v.parts } : State).counted p r with cores := (s.afterRun v c p x r).cores } := by
  have : ∀ k, v.setCore c k = { ({ s with free := v.free, parts := v.parts } : State) with cores := v.cores.set c k } := fun k => by
    rw [vp]; rfl
  unfold State.afterRun
  rw [this, State.counted_cores]

theorem State.enter_slot {s : State} {c : CoreId} {x : Line} (h : (s.core c).ctl.slots = []) :
    ((s.enter c x).core c).slot (s.core c).ctl.tokens = some ((s.core c).ctl.capture x) := by
  simp [s.enter_core c x, h, Core.slot, CoreCtl.capture]

/-- The core of a line that has entered is among those that go on. -/
theorem State.enter_busy {s : State} {c : CoreId} {p : PartId} {x : Line} (h : (s.core c).part = some p) :
    c ∈ (s.enter c x).busyCores := by
  have hc := s.enter_core c x
  have : ((s.enter c x).core c).ctl.slots ≠ [] := by rw [hc]; simp
  have pp : ((s.enter c x).core c).part = some p := by rw [hc]; exact h
  simp only [State.busyCores, List.mem_append, List.mem_filter]
  cases hrt : (s.enter c x).goesFirst c
  · exact Or.inr ⟨⟨by simp [allCores], by simp [this]⟩, by simp⟩
  · exact Or.inl ⟨⟨by simp [allCores], by simp [this]⟩, by simp⟩

/-- A lone unit command starts: its core goes on to what applying its run gives. -/
theorem State.Idle.starts {s : State} {c : CoreId} {p : PartId} {x : Line} (h : s.Idle c p) :
    (s.enter c x).progressCore c = (s.enter c x).ran c p ((s.core c).ctl.capture x) ((s.enter c x).runLine c p ((s.core c).ctl.capture x)) := by
  have hc := s.enter_core c x
  obtain ⟨h0, h1, h2, h3, h4, h5, h6⟩ := h
  have hold : ((s.enter c x).core c).ctl.hold = none := by
    rw [hc]; exact (Core.still_iff.mp (State.core_still h0 c)).1
  have miss : ((s.core c).ctl.capture x).missed (s.enter c x).now = false := InFlight.missed_eq rfl h6
  have start : (s.enter c x).tryStart c p (s.core c).ctl.tokens =
      (s.enter c x).ran c p ((s.core c).ctl.capture x) ((s.enter c x).runLine c p ((s.core c).ctl.capture x)) := by
    unfold State.tryStart
    rw [State.enter_slot h4]
    have tw : ((s.enter c x).core c).ctl.slots.takeWhile (fun y => y.token != (s.core c).ctl.tokens) = [] := by
      rw [hc, h4]; simp [CoreCtl.capture]
    have hf : (s.enter c x).headFree [] ((s.core c).ctl.capture x) = true := rfl
    have st : ((s.core c).ctl.capture x).stage = .waiting := rfl
    have sk : (s.enter c x).skips p ((s.core c).ctl.capture x) = false := by simp [State.skips, miss]
    have rw_ : (s.enter c x).reuseWaits c ((s.core c).ctl.capture x) = false := by
      unfold State.reuseWaits
      split <;> simp [st]
    simp only [rw_, st, ne_eq, not_true_eq_false, if_false, sk, Bool.false_eq_true, tw, hf, if_true]
  have ph : (s.enter c x).progressHold c = s.enter c x := by simp [State.progressHold, hold]
  have pp : ((s.enter c x).core c).part = some p := by rw [hc]; exact h1
  simp only [State.progressCore, ph, pp]
  have : ((s.enter c x).core c).ctl.slots.map (·.token) = [(s.core c).ctl.tokens] := by rw [hc, h4]; rfl
  rw [this]
  simp only [State.tryStarts, start]

/-- A unit command in an idle core, which its unit finishes with ST_OK having changed nothing but its core and the
partitions: what the whole settles to. -/
theorem State.Idle.settles {s v : State} {c : CoreId} {p : PartId} {x : Line} {r : Report} (h : s.Idle c p)
    (k : s.checkLine c p x = none) (d : holdsDecode x = false) (u : unitsOf x ≠ []) (np : s.PostsNone c p x)
    (z : bytesOf x = 0) (e : (s.enter c x).runLine c p ((s.core c).ctl.capture x) = .done r v)
    (vp : v = { s with free := v.free, cores := v.cores, parts := v.parts }) (vd : ∀ d, d ≠ c → v.core d = s.core d)
    (vc : (v.core c).part = some p) (vt : (v.core c).ctl = ((s.enter c x).core c).ctl)
    (ok : r.status = stOk) : (s.decodeLine c x).settle = s.afterRun v c p x r := by
  rw [h.decodeLine k d u np]
  have hc := s.enter_core c x
  have prog := h.starts (x := x)
  obtain ⟨h0, h1, h2, h3, h4, h5, h6⟩ := h
  have fin : v.finishSlot c (s.core c).ctl.tokens r = s.afterRun v c p x r :=
    State.finishSlot_ok (s := s) (v := v) (c := c) (p := p) (x := x) (r := r) (k := v.core c) rfl vc
      (by rw [vt, hc, h4]; rfl) (by rw [vp]; exact h6) (by rw [vp]) (by rw [vt, hc]) ok
  rw [e, State.ran_of_bytes z] at prog
  have tok : ((s.core c).ctl.capture x).token = (s.core c).ctl.tokens := rfl
  simp only [Run.apply, tok] at prog
  rw [State.complete_ok ok, fin] at prog
  have ent : ∀ d, d ≠ c → (s.enter c x).coreStill d = true := fun d hd => by
    have := State.coreStill_of_still h0 d
    unfold State.coreStill at this ⊢
    rw [s.enter_core_other c d x hd]; exact this
  apply State.settle_of_one ent (State.enter_busy h1) prog
  have re : (s.afterRun v c p x r).eng = s.eng := by
    rw [State.afterRun_eq vp]; exact State.counted_eng _ _ _
  have a : ∀ d, (s.afterRun v c p x r).coreStill d = true := fun d => by
    have rf : ∀ y, (s.afterRun v c p x r).reuseWaits d y = s.reuseWaits d y := fun y => by
      unfold State.reuseWaits; rw [re]
    simp only [State.coreStill, rf]
    by_cases hd : d = c
    · subst hd
      rw [State.afterRun_core, vt, hc]
      have := (Core.still_iff.mp (State.core_still h0 d)).1
      simp only [Core.still, this, CoreCtl.finished, State.reuseWaits, List.all_cons, List.all_nil, Option.isNone_none, Bool.and_true]
      cases x <;> simp [CoreCtl.capture]
    · rw [State.afterRun_core_other _ _ _ _ _ _ _ hd, vd d hd]; exact State.coreStill_of_still h0 d
  have b := h0
  have b1 : (({ s with free := v.free, parts := v.parts } : State).counted p r).still = true := by
    rw [State.counted_still]; exact h0
  rw [State.afterRun_eq vp] at a ⊢
  simp only [State.still, Bool.and_eq_true] at b1 ⊢
  refine ⟨⟨⟨⟨⟨?_, b1.1.1.1.1.2⟩, b1.1.1.1.2⟩, b1.1.1.2⟩, b1.1.2⟩, b1.2⟩
  simp only [List.all_eq_true]
  exact fun d _ => a d

/-- A unit command in an idle core, which its unit finishes with ST_OK having changed its memory, its stash, the partitions
and the free values used: it runs from the state `b` that holds all these but the memory. -/
theorem State.Idle.runsFrom {s b : State} {c : CoreId} {p : PartId} {x : Line} {r : Report} {m : CoreMem} (h : s.Idle c p)
    (k : s.checkLine c p x = none) (d : holdsDecode x = false) (u : unitsOf x ≠ []) (np : s.PostsNone c p x)
    (hb : b = { s with free := b.free, cores := b.cores, parts := b.parts }) (bd : ∀ d, d ≠ c → b.core d = s.core d)
    (bp : (b.core c).part = (s.core c).part) (bt : (b.core c).ctl = (s.core c).ctl)
    (z : bytesOf x = 0) (e : (s.enter c x).runLine c p ((s.core c).ctl.capture x) = .done r ((b.enter c x).withMem c m))
    (ok : r.status = stOk) : b.Ran (s.decodeLine c x).settle c p x r m := by
  have hc := s.enter_core c x
  have hk := b.enter_core c x
  generalize hv : (b.enter c x).withMem c m = v at e
  have vb : v = { b with cores := v.cores } := by rw [← hv]; rfl
  have vp : v = { s with free := v.free, cores := v.cores, parts := v.parts } := by rw [vb, hb]
  have vq : v.parts = b.parts ∧ v.free = b.free := by rw [← hv]; exact ⟨rfl, rfl⟩
  have vc : v.core c = { (b.enter c x).core c with mem := m } := by
    rw [← hv]; simp [State.withMem, State.modMem]
  have vd : ∀ d, d ≠ c → v.core d = s.core d := fun d hd => by
    rw [← hv]
    simp only [State.withMem, State.modMem]
    rw [State.core_modCore_other _ _ _ _ hd, State.enter_core_other _ _ _ _ hd, bd d hd]
  have ft : b.aon.time = s.aon.time := by rw [hb]
  rw [h.settles k d u np z e vp vd (by rw [vc, hk]; exact bp.trans h.2.1) (by rw [vc, hk, hc]; simp only [bt]) ok]
  refine ⟨ok, ?_, fun d hd => ?_, ?_⟩
  · rw [State.afterRun_eq vp, vq.1, vq.2]
    conv_rhs => rw [hb]
    conv_rhs => rw [State.counted_cores { s with free := b.free, parts := b.parts } p r b.cores]
  · rw [State.afterRun_core_other _ _ _ _ _ _ _ hd, vd d hd, bd d hd]
  · rw [State.afterRun_core, vc, hk, bt, ft]

/-- The same where the unit changes nothing but the core's memory. -/
theorem State.Idle.runs {s : State} {c : CoreId} {p : PartId} {x : Line} {r : Report} {m : CoreMem} (h : s.Idle c p)
    (k : s.checkLine c p x = none) (d : holdsDecode x = false) (u : unitsOf x ≠ []) (np : s.PostsNone c p x)
    (z : bytesOf x = 0) (e : (s.enter c x).runLine c p ((s.core c).ctl.capture x) = .done r ((s.enter c x).withMem c m))
    (ok : r.status = stOk) : s.Ran (s.decodeLine c x).settle c p x r m :=
  h.runsFrom k d u np rfl (fun _ _ => rfl) rfl rfl z e ok

/-- A unit command in a core while nothing else is in flight: what its run gives, and what waits elsewhere. -/
theorem State.Lone.goesOn {s : State} {c : CoreId} {p : PartId} {x : Line} (h : s.Lone c p)
    (k : s.checkLine c p x = none) (d : holdsDecode x = false) (u : unitsOf x ≠ []) (np : s.PostsNone c p x) :
    (s.decodeLine c x).settle =
      ((s.enter c x).ran c p ((s.core c).ctl.capture x) ((s.enter c x).runLine c p ((s.core c).ctl.capture x))).carryOn := by
  have key : ∀ (cs : List CoreId), c ∈ cs → cs.Nodup → (∀ d ∈ cs, d = c) → cs = [c] := by
    intro cs hc hn ha
    match cs, hc, hn, ha with
    | [a], _, _, ha => rw [ha a (by simp)]
    | a :: b :: t, _, hn, ha =>
      exact absurd ((ha a (by simp)).trans (ha b (by simp)).symm) (by simp at hn; exact hn.1.1)
  have busy : (s.enter c x).busyCores = [c] := by
    apply key _ (State.enter_busy h.1.2.1)
    · unfold State.busyCores
      have nd : (allCores.filter fun c_1 =>
          !((s.enter c x).core c_1).ctl.slots.isEmpty || ((s.enter c x).core c_1).ctl.hold.isSome).Nodup :=
        (List.nodup_finRange 24).filter _
      refine List.Nodup.append (nd.filter _) (nd.filter _) ?_
      intro a ha hb
      simp only [List.mem_filter] at ha hb
      simp_all
    · intro a ha
      by_contra hne
      have e := s.enter_core_other c a x hne
      have hs := h.2 a hne
      have hh := (Core.still_iff.mp (State.core_still h.1.1 a)).1
      simp only [State.busyCores, List.mem_append, List.mem_filter, e, hs, hh] at ha
      simp at ha
  rw [h.1.decodeLine k d u np]
  simp only [State.settle, busy, State.progressCores, h.1.starts, State.carryOn]

/-- A run of bytes that reads byte by byte as a list reads as that list. -/
theorem Mem.readN_eq (z : Mem) (bs : List Byte) :
    ∀ a : Nat, (∀ i (h : i < bs.length), Mem.read z (a + i) = bs[i]) → Mem.readN z a bs.length = bs := by
  induction bs with
  | nil => intros; rfl
  | cons b bs ih =>
    intro a c
    have c0 := c 0 (by simp)
    rw [List.length_cons, Mem.readN, ih (a + 1) fun i h => by
      have := c (i + 1) (by simpa using h)
      rw [show a + 1 + i = a + (i + 1) by omega, this]; rfl]
    simp only [Nat.add_zero, List.getElem_cons_zero] at c0
    rw [c0]

/-- A store reads back whole. -/
theorem Mem.readN_writeN (bs : List Byte) (m : Mem) (a : Nat) : Mem.readN (Mem.writeN m a bs) a bs.length = bs :=
  Mem.readN_eq _ bs a fun i h => Mem.read_writeN_inside bs m a i h

/-- A partition that holds the key of a page, or finds it plain, reads what the memory holds (11 R254). -/
theorem Hbm.readPa_of_key {h : Hbm} {key : Option Nat} {pa : Nat} (k : h.keys.get none (pa / pageBytes) = none ∨
    h.keys.get none (pa / pageBytes) = key) : h.readPa key pa = h.mem.read pa := by
  simp only [Hbm.readPa, k, if_true]

theorem Hbm.writePa_of_key {h : Hbm} {key : Option Nat} {pa : Nat} (b : Byte) (k : h.keys.get none (pa / pageBytes) = none ∨
    h.keys.get none (pa / pageBytes) = key) : h.writePa key pa b = { h with mem := h.mem.write pa b } := by
  simp only [Hbm.writePa, k, if_true]

/-- A range of physical addresses that a holder of `key` reads and writes in plain. -/
abbrev Hbm.Holds (h : Hbm) (key : Option Nat) (a n : Nat) : Prop :=
  ∀ i < n, h.keys.get none ((a + i) / pageBytes) = none ∨ h.keys.get none ((a + i) / pageBytes) = key

theorem Hbm.Holds.tail {h : Hbm} {key : Option Nat} {a n : Nat} (k : h.Holds key a (n + 1)) : h.Holds key (a + 1) n := fun i hi => by
  have := k (i + 1) (by omega)
  rw [show a + 1 + i = a + (i + 1) by omega]; exact this

theorem Hbm.Holds.head {h : Hbm} {key : Option Nat} {a n : Nat} (k : h.Holds key a (n + 1)) :
    h.keys.get none (a / pageBytes) = none ∨ h.keys.get none (a / pageBytes) = key := by
  have := k 0 (by omega)
  simpa only [Nat.add_zero] using this

/-- Where a range of a partition's space lies in one piece, reading it is reading that piece. -/
theorem Hbm.readVa_of_piece (h : Hbm) (q : Partition) (n : Nat) :
    ∀ va a : Nat, h.Holds q.key a n → (∀ i < n, q.paOf (va + i) = some (a + i)) → h.readVa q va n = Mem.readN h.mem a n := by
  induction n with
  | zero => intros; rfl
  | succ n ih =>
    intro va a k c
    have c0 := c 0 (by omega)
    simp only [Nat.add_zero] at c0
    have t := ih (va + 1) (a + 1) k.tail fun i hi => by
      have := c (i + 1) (by omega)
      rw [show va + 1 + i = va + (i + 1) by omega, show a + 1 + i = a + (i + 1) by omega]; exact this
    rw [Hbm.readVa, Mem.readN, c0, t]
    simp only [h.readPa_of_key k.head]

/-- Where a range of a partition's space lies in one piece, storing to it is storing to that piece. -/
theorem Hbm.writeVa_of_piece (q : Partition) (bs : List Byte) :
    ∀ (h : Hbm) (va a : Nat), h.Holds q.key a bs.length → (∀ i < bs.length, q.paOf (va + i) = some (a + i)) →
      h.writeVa q [] va bs = { h with mem := h.mem.writeN a bs } := by
  induction bs with
  | nil => intros; rfl
  | cons b bs ih =>
    intro h va a k c
    have c0 := c 0 (by simp)
    simp only [Nat.add_zero] at c0
    rw [Hbm.writeVa, c0]
    simp only [List.contains_nil, Bool.false_eq_true, if_false]
    have t := ih { h with mem := h.mem.write a b } (va + 1) (a + 1) (Hbm.Holds.tail k) fun i hi => by
      have := c (i + 1) (by simpa using hi)
      rw [show va + 1 + i = va + (i + 1) by omega, show a + 1 + i = a + (i + 1) by omega]; exact this
    rw [Hbm.writePa_of_key b (Hbm.Holds.head k)]
    exact t

/-- A stored range of a partition's space that lies in one piece reads back. -/
theorem Hbm.readVa_writeVa (h : Hbm) (q : Partition) (bs : List Byte) (va a : Nat) (k : h.Holds q.key a bs.length)
    (c : ∀ i < bs.length, q.paOf (va + i) = some (a + i)) : (h.writeVa q [] va bs).readVa q va bs.length = bs := by
  rw [Hbm.writeVa_of_piece q bs h va a k c]
  have e := Hbm.readVa_of_piece { h with mem := h.mem.writeN a bs } q bs.length va a (fun i hi => k i hi) c
  rw [e]
  exact Mem.readN_writeN bs h.mem a

theorem Hbm.forget_ecc (h : Hbm) (page : Nat) : (h.forget page).ecc = h.ecc := by rw [Hbm.forget]

theorem Hbm.writePa_ecc (h : Hbm) (key : Option Nat) (pa : Nat) (b : Byte) : (h.writePa key pa b).ecc = h.ecc := by
  rw [Hbm.writePa]
  dsimp only
  split
  · rfl
  · exact h.forget_ecc _

/-- A store leaves the error marks of the stacks as they are. -/
theorem Hbm.writeVa_ecc (q : Partition) (skip : List Nat) (bs : List Byte) :
    ∀ (h : Hbm) (va : Nat), (h.writeVa q skip va bs).ecc = h.ecc := by
  induction bs with
  | nil => intros; rw [Hbm.writeVa]
  | cons b bs ih =>
    intro h va
    rw [Hbm.writeVa, ih]
    cases q.paOf va with
    | none => rfl
    | some a =>
      dsimp only
      split
      · rfl
      · exact h.writePa_ecc _ _ _

/-- A write of a partition's HBM without errors lands whole (11 R257). -/
theorem State.writeHbm_clean {s : State} (c : s.hbm.ecc = []) (p : PartId) (va : Nat) (bs : List Byte) :
    s.writeHbm p va bs = (true, { s with hbm := s.hbm.writeVa (s.part p) [] va bs }) := by
  simp only [State.writeHbm, Hbm.codewords, c, List.filter_nil, List.map_nil, State.countWords, State.clearWords, List.isEmpty_nil, if_true]

/-- Without errors every tensor of an image is written back. -/
theorem State.writeTensors_clean (p : PartId) (l : List (Nat × Nat)) :
    ∀ (s : State) (b : List Byte), s.hbm.ecc = [] → (s.writeTensors p l b).1 = true := by
  induction l with
  | nil => intros; rfl
  | cons r rs ih =>
    intro s b c
    rw [State.writeTensors, State.writeHbm_clean c]
    exact ih _ _ ((Hbm.writeVa_ecc ..).trans c)

end Sys2Proof.Machine
end

