-- ==== Sys2Proof/Tests/Slice0.lean ====
section
/-! SUPPORT. Small tests: published and hand-computed values, one ill-formed term for each check of WellFormed, and for every
statement a state and operands that meet the hypotheses of each of its clauses. -/

open Sys2Proof Sys2Proof.Machine

namespace Sys2Proof.Tests

/- The theorems below are evaluated one after another: side by side they need more memory than the check gives. -/
set_option Elab.async false

/-! ### States -/

/-- A partition's configuration. -/
def cfg : PartCfg := ⟨false, false, false, 0, 7, 0, 0, 0, 4096, 8192, []⟩

/-- A page with every right. -/
def pte (n : Nat) : Pte := ⟨true, true, true, true, true, n⟩

/-- A ready module: partition 1 holds cores 2 and 3 and pages 0 and 1 of its space; core 2 runs under a SEED. -/
def base : State :=
  let s := State.reset
  let s := s.modAon fun a => { a with mstate := .ready, supply := .on, group := 6, time := 1000, hbmTrained := true, hbmTested := true, wasReady := true }
  let s := s.modHs fun h => { h with on := true, uv := false, seated := true }
  let s := s.modPart 1 fun q => { q with cfg := some cfg, key := some 3, pages := [(0, some (pte 100)), (1, some (pte 101))], l1 := [(0, some 0)] }
  let s := { s with hbm := { s.hbm with pages := [(100, .mapped 1), (101, .mapped 1)] } }
  let s := s.modCore 2 fun k => { k with
    part := some 1, ctl := { k.ctl with stream := .running, pc := 0x1000, seed := some ⟨5, 7⟩ } }
  s.modCore 3 fun k => { k with part := some 1 }

/-- A queue of partition 1 of class `cls`, with no items. -/
def queue (cls : BitVec 3) : Queue :=
  ⟨cls, 1, true, false, false, false, false, false, 8, 4, 1, 0x800, 256, 4, 0, 4, false, 0, 3, 3, 3, 0, 0, 0, 0, [], false, [], 0, [], [], none⟩

/-- An open session of partition 1 with a module, 2 credits for queue 6 and nothing sent. -/
def session (peer : BitVec 14) : Session :=
  ⟨1, peer, none, 3, true, 100, 200, [], 64, 0, [], [], 0, 5, 6, 9, [(6, 2)], [], [(6, 256)], [], false, []⟩

/-- Queues 5 (job), 6 (slotted receive) and 7 (posted receive), sessions 0 and 1 to modules 77 and 78, group 3 of all three. -/
def net : State :=
  let s := base.setQueue 5 { queue 1 with dpos := 2 }
  let s := s.setQueue 6 (queue 4)
  let s := s.setQueue 7 { queue 4 with posted := true }
  let s := s.setSess 0 (some (session 77))
  let s := s.setSess 1 (some (session 78))
  s.modEng fun e => { e with
    cgroups := e.cgroups.set none 3 (some ⟨3, 0, 1, false, false, 0, 0, [s.moduleId, 77, 78]⟩)
    qcache := [5, 6, 7, 8, 9, 20, 30, 40, 41] }

/-- The state that an outcome answers, if it answers one. -/
def nextOf : Host.Outcome State Fault Refusal → Option State
  | .next t => some t
  | _ => none

/-- What a command leaves, as seen by `f`. -/
def after {α : Type} (c : Instr) (s : State) (f : State → α) : Option α := (nextOf (exec c s)).map f

def hdr : Hdr := ⟨5, true, false⟩

/-- A byte string of fields, each of a width in bytes. -/
def fields (l : List (Nat × Nat)) : List Byte := l.flatMap fun x => bytesLE x.1 x.2

/-! ### Published and hand-computed values -/

/-- The check value of CRC-32C over "123456789". -/
theorem test_crc32c : crc32c ((List.range 9).map fun i => BitVec.ofNat 8 (0x31 + i)) = 0xE3069283 := by decide +kernel

/-- FIPS 180-4, "abc": the first eight bytes of SHA-384. -/
theorem test_sha384 : (sha384 [0x61, 0x62, 0x63]).take 8 = [0xCB, 0x00, 0x75, 0x3F, 0x45, 0xA3, 0x5E, 0x8B] := by decide +kernel

/-- FIPS 197, appendix C.1. -/
theorem test_aes128 : aes128 (List.range 16) ((List.range 16).map (0x11 * ·)) =
    [0x69, 0xC4, 0xE0, 0xD8, 0x6A, 0x7B, 0x04, 0x30, 0xD8, 0xCD, 0xB7, 0x80, 0x70, 0xB4, 0xC5, 0x5A] := by decide +kernel

/-- FIPS 197, appendix C.3. -/
theorem test_aes256 : aes256 (List.range 32) ((List.range 16).map (0x11 * ·)) =
    [0x8E, 0xA2, 0xB7, 0xCA, 0x51, 0x67, 0x45, 0xBF, 0xEA, 0xFC, 0x49, 0x90, 0x4B, 0x49, 0x60, 0x89] := by decide +kernel

/-- The 16 bytes of a number, the highest first. -/
def bytesOf128BE (n : Nat) : List Nat := (bytesOf128 n).reverse

/-- The key of vector 10 of IEEE 1619: digits of e, then of pi. -/
def xtsKey : Nat := natOfBytes (bytesOf128BE 0x27182818284590452353602874713526 ++ bytesOf128BE 0x62497757247093699959574966967627 ++
  bytesOf128BE 0x31415926535897932384626433832795 ++ bytesOf128BE 0x02884197169399375105820974944592)

/-- IEEE 1619, vector 10: the first two blocks of data unit 0xFF. -/
theorem test_xts : xtsEncrypt xtsKey 0xFF (List.range 32) =
    bytesOf128BE 0x1C3B3A102F770386E4836C99E370CF9B ++ bytesOf128BE 0xEA00803F5E482357A4AE12D414A3E63B := by decide +kernel

/-- 02 R25: 0x80 of Q8 and 8 of Q4 read as zero; -5/2 rounds to even as Q8. -/
theorem test_q8 : Fmt.decode .q8 0x80 = .zero ∧ Fmt.decode .q4 8 = .zero ∧ narrow .q8 .rne false 0 (.fin true 5 (-1)) = (0xFE, 0) := by
  decide +kernel

/-- 02 R21: the NaN 0x7F800001 of B32 narrows to 0x7FC0 of K16. -/
theorem test_nan_narrows_to_k16 : (narrow .k16 .rtz false 0 (ofB32 0x7F800001)).1 = 0x7FC0 := by decide +kernel

/-! ### WellFormed refuses an ill-formed term for each check -/

def packet (type : BitVec 4) (payload : List Byte) : Pkt :=
  ⟨1, type, 1, false, 77, 0, 0, 200, 100, 6, 0, false, 3, 10, true, true, false, 4, 0, 7, 0, true, payload⟩

def message (n : Nat) (rows : List (List Byte)) : A2aMsg := ⟨0, 6, 3, 2, [⟨5, 0, false, BitVec.ofNat 16 n, 4⟩], rows⟩

def epiLine (form : BitVec 2) (cvt : BitVec 8) : EpiLine :=
  ⟨hdr, 3, 4, 2, form, 0, false, false, cvt, 0x10, 0, 0, 0x100, 96, 0x1000, 5, 0, 0, 0⟩

def route (rfn : BitVec 3) : RouteLine := ⟨hdr, rfn, 2, 2, 1, 2, 0, 0x100, 4, 5, 0, 8, 3, 9⟩

def sendLine (coll : BitVec 3) : SendLine := ⟨hdr, 8, false, 0, 16, net.moduleId, 5, coll, 3, false, 0⟩

def recvLine (coll : BitVec 3) : RecvLine := ⟨hdr, 8, 8, false, 4, 64, net.moduleId, 7, coll, 3, true, 0⟩

def branch (kind : BitVec 3) : BranchLine := ⟨hdr, kind, 2, 0x1000, 9, 0x40⟩

theorem test_exchangeEpi_needs_the_exchange_rounding : (Instr.exchangeEpi 2 (epiLine 0 0x80)).wf = false := by decide
theorem test_routeReuse_is_no_combine : (Instr.routeReuse 2 (route 1)).wf = false := by decide
theorem test_routeDispatch_is_no_combine : (Instr.routeDispatch 2 (route 1)).wf = false := by decide
theorem test_routeCombine_is_no_dispatch : (Instr.routeCombine 2 (route 0)).wf = false := by decide
theorem test_send_is_point_to_point : (Instr.send 2 (sendLine 1)).wf = false ∧ (Instr.send 2 (sendLine 5)).wf = false := by decide
theorem test_collective_sends_fix_coll : (Instr.sendReduceScatter 2 (sendLine 0)).wf = false ∧
    (Instr.sendA2aReturn 2 (sendLine 4)).wf = false ∧ (Instr.sendBroadcast 2 (sendLine 3)).wf = false ∧
    (Instr.permute 2 (sendLine 0)).wf = false := by decide
theorem test_recv_and_gather_fix_coll : (Instr.recv 2 (recvLine 2)).wf = false ∧ (Instr.recvAllGather 2 (recvLine 0)).wf = false := by
  decide
theorem test_branches_fix_kind : (Instr.jump 2 (branch 1)).wf = false ∧ (Instr.call 2 (branch 0)).wf = false ∧
    (Instr.ret 2 (branch 3)).wf = false ∧ (Instr.loop 2 (branch 2)).wf = false ∧ (Instr.setlc 2 (branch 5)).wf = false ∧
    (Instr.lossGuard 2 (branch 4)).wf = false ∧ (Instr.endStream 2 (branch 7)).wf = false := by decide
theorem test_badOpcode_is_undefined : (Instr.badOpcode 2 1 hdr).wf = false ∧ (Instr.badOpcode 2 19 hdr).wf = false ∧
    (Instr.badOpcode 2 20 hdr).wf = true := by decide
theorem test_packets_fix_type : (Instr.dataReceive (packet 2 [])).wf = false ∧ (Instr.rsContributionReceive (packet 7 [])).wf = false ∧
    (Instr.gatherRequestReceive (packet 8 [])).wf = false ∧ (Instr.ackReceive (packet 1 (List.replicate 32 0))).wf = false ∧
    (Instr.keepaliveReceive (packet 1 [])).wf = false ∧ (Instr.openReceive (packet 5 (List.replicate 32 0)) 0).wf = false ∧
    (Instr.openAckReceive (packet 4 (List.replicate 32 0))).wf = false ∧ (Instr.closeReceive (packet 1 (List.replicate 32 0))).wf = false ∧
    (Instr.creditReceive (packet 1 (List.replicate 32 0))).wf = false := by decide
theorem test_packets_carry_whole_units : (Instr.dataReceive (packet 1 (List.replicate 31 0))).wf = false ∧
    (Instr.dataReceive (packet 1 (List.replicate 8224 0))).wf = false ∧ (Instr.ackReceive (packet 2 [])).wf = false ∧
    (Instr.openReceive (packet 4 []) 0).wf = false ∧ (Instr.openAckReceive (packet 5 [])).wf = false ∧
    (Instr.closeReceive (packet 6 [])).wf = false ∧ (Instr.creditReceive (packet 7 [])).wf = false := by decide +kernel
theorem test_notices_fix_kind : (Instr.noticeSkip (packet 8 (2 :: List.replicate 31 0))).wf = false ∧
    (Instr.noticeNorm (packet 8 (1 :: List.replicate 31 0))).wf = false ∧
    (Instr.noticePeerLost (packet 8 (4 :: List.replicate 31 0))).wf = false ∧
    (Instr.noticeReady (packet 8 (3 :: List.replicate 31 0))).wf = false ∧
    (Instr.noticeReady (packet 8 (4 :: List.replicate 31 0))).wf = true := by decide
theorem test_a2a_rows_match_records : (Instr.a2aMessageReceive (message 1 [])).wf = false ∧
    (Instr.a2aMessageReceive (message 1 [[1]])).wf = false ∧ (Instr.a2aReturnReceive (message 0 [[1, 2]])).wf = false ∧
    (Instr.a2aReturnReceive (message 1 [[1, 2]])).wf = true := by decide
theorem test_segments_stay_in_their_message : (Instr.mpRequestSegment ⟨0x1234, 2, 0, 1, 0, 8, List.replicate 9 0⟩).wf = false ∧
    (Instr.mpRequestSegment ⟨0x1234, 2, 0, 1, 0, 4096, List.replicate 1025 0⟩).wf = false := by decide +kernel
theorem test_frames_have_addresses : (Instr.frameReceive 0 0 (List.replicate 13 0) true).wf = false ∧
    (Instr.frameReceive 0 0 (List.replicate 14 0) true).wf = true := by decide
theorem test_retries_are_counted_to_8 : (Instr.meshParityRetry 3 4 0 .regulator).wf = false ∧
    (Instr.meshParityRetry 3 4 9 .regulator).wf = false := by decide
/-- No fetch fills more than the address space; a longer one is not well formed. -/
theorem test_landed_bytes_fit (d : List Byte) (h : 2 ^ 48 < d.length) : (Instr.transferLanded 5 0 d false).wf = false := by
  simp only [Instr.wf, decide_eq_false_iff_not]; omega

/-- The table gives no row bits. -/
theorem test_no_row_has_bits : decodeTableWord 8 0 = none ∧ decodeTableWord 64 5 = none := by decide

/-! ### Witnesses: the machine -/

theorem test_codes_meet_their_hypotheses :
    (narrow .f8a .rne true 0 .nan).1 = 0x80 ∧ (convBlock .q4 .rne false [.fin false 3 0] []).2.1 ≠ [] ∧
    (narrow .f8b .rne false 0 (.fin false 1 (-99))).2 = cfUnderflow ∧ (narrow .f4 .rne false 0 (.fin false 1 (-99))).1 = 0 := by
  decide +kernel

/-- A booting module with `g` groups released. -/
def boot (g : Nat) : State := base.modAon fun a => { a with mstate := .booting, group := g, wasReady := false }

theorem test_groups_4_and_5_meet_core_reset : (boot 4).still = true ∧ (boot 4).powered = true ∧ (boot 4).aon.inReset = false ∧
    (boot 4).aon.quiescing = none ∧ (boot 4).aon.hbmTested = true := by decide +kernel

theorem test_step_takes_the_front_then_idles :
    ({ net with pending := [.mrstNRelease, .seatAssert] } : State).pending = .mrstNRelease :: [.seatAssert] ∧ net.pending = [] ∧
    (nextOf (step ({ net with pending := [.seatAssert, .mrstNRelease] } : State))).map (·.pending) = some [.mrstNRelease] := by
  decide +kernel

theorem test_memory_is_canonical : net.MemOk ∧ (nextOf (step net)).isSome = true := by
  unfold State.MemOk CoreMem.Ok; decide +kernel

theorem test_switch_is_in_order : net.HsOk ∧ State.reset.HsOk ∧ (nextOf (step State.reset)).isSome = true := by
  unfold State.HsOk; refine ⟨⟨?_, ?_, ?_⟩, ⟨?_, ?_, ?_⟩, ?_⟩ <;> decide +kernel

theorem test_fuses_are_a_prefix : (nextOf (step net)).isSome = true ∧
    net.fuses.arc = BitVec.ofNat 64 (2 ^ net.fuses.arcCount - 1) := by decide +kernel

theorem test_most_commands_leave_the_switch : (Instr.groupRelease).movesSwitch = false ∧
    (nextOf (exec .groupRelease (boot 0))).isSome = true := by decide +kernel

def fence : FenceLine := ⟨⟨7, false, true⟩, 0x41, 2⟩

theorem test_lines_meet_their_hypothesis : opcodeDefined (lineOpcode (.fence fence)) = !(Line.isBad (.fence fence)) ∧
    opcodeDefined (lineOpcode (.bad 0 hdr)) = !(Line.isBad (.bad 0 hdr)) := by decide

/-! ### Witnesses: the units of a core -/

/-- A dense and a compacted image of 64 blocks; the compacted one skips every block. -/
def ldw (sparse : Bool) : LdwLine := ⟨hdr, 1, true, 0, 2, 2, sparse, false, false, 0x40, if sparse then BitVec.ofNat 64 (2 ^ 64 - 1) else 0⟩

theorem test_ldw_meets_its_hypotheses : base.Idle 2 1 ∧ (base.core 2).mem.Clean ∧ base.checkLdw 2 (ldw false) = none ∧
    ldwShape (ldw false) = some ⟨32, 1024, .f8a, false, false⟩ ∧ base.checkLdw 2 (ldw true) = none ∧
    ldwShape (ldw true) = some ⟨32, 1024, .f8a, true, false⟩ ∧
    Tile.sparseOk ⟨⟨32, 1024, .f8a, true, false⟩, 2 ^ 64 - 1, 0, 0, 0⟩ = true ∧
    (Shape.imageBytes ⟨32, 1024, .f8a, true, false⟩ (2 ^ 64 - 1)) = 0 := by decide +kernel

/-- Arrays 0 and 1, three rows from tile 4: banked, or streamed over 2 tiles and accumulating. -/
def mma (stream : Bool) : MmaLine :=
  ⟨hdr, 3, 2, if stream then 2 else 0, stream, stream, 2, 2, false, false, false, 4, if stream then 0 else 100, if stream then 1 else 2, 0x20000, 0x20, 0, 0, 0,
    if stream then 2 else 0, 0, 0, false⟩

/-- The banks that `mma` reads are loaded. -/
def banked : State := base.modMem 2 fun m =>
  (m.setBank 0 0 ⟨true, 0, 2, 2, false, false, 0, [], [], []⟩).setBank 1 1 ⟨true, 0, 2, 2, false, false, 0, [], [], []⟩

theorem test_mma_and_dist_meet_their_hypotheses : banked.Idle 2 1 ∧ (banked.core 2).mem.Clean ∧
    (∀ d : Bool, banked.checkMma 2 d (mma false) = none ∧
      ∀ a ∈ arraysOf (mma false).amask, bankCheck d (mma false) ((banked.core 2).mem.bank a ((mma false).bankOf a)) = none) ∧
    mmaShape (mma false) = some ⟨32, 1024, .f8a, false, false⟩ ∧ Fmt.ofCode (mma false).afmt = some .f8a ∧
    (mma false).acc = false ∧ (mma false).stream = false := by decide +kernel

theorem test_streamed_mma_and_dist_meet_their_hypotheses : base.Idle 2 1 ∧ (∀ d : Bool, base.checkMma 2 d (mma true) = none) ∧
    mmaShape (mma true) = some ⟨1024, 32, .f8a, false, false⟩ ∧ Fmt.ofCode (mma true).afmt = some .f8a ∧ (mma true).acc = true ∧
    (mma true).stream = true ∧ (base.core 2).mem.ofsDiffers (mma true) 1024 = false ∧ (base.core 2).mem.acc = [] := by decide +kernel

/-- Row 1 of a RED over 40 elements, which continues the one before it. -/
def red (cont : Bool) : RedLine := ⟨hdr, true, cont, 2, true, 4, 0x40, 40, 2, 2, 0x200, true, 7, 0x300⟩

theorem test_red_meets_its_hypotheses : base.Idle 2 1 ∧ base.checkRed (red false) = none ∧ base.checkRed (red true) = none ∧
    Fmt.ofCode (red true).fmt = some .f8a ∧
    (let s := base.modMem 2 fun m => { m with redRec := m.redRec.set none 4 (some (2, true)) }
     s.Idle 2 1 ∧ (s.core 2).mem.Clean ∧ (s.core 2).mem.redRec.get none 4 = some ((red true).fmt, (red true).bs)) := by decide +kernel

/-- A product of two runs of B16, to the store or to the vector registers. -/
def vec (dk : Bool) : VecLine := ⟨hdr, 2, 8, if dk then 0xA0 else 0x82, false, 0x40, false, 0x60, dk, 3, 33, 0, 9, 5⟩

theorem test_vec_meets_its_hypotheses : base.Idle 2 1 ∧ (base.core 2).mem.Clean ∧ base.checkVec (vec true) = none ∧
    base.checkVec (vec false) = none ∧ Cvt.ofByte (vec true).cvt = some ⟨.rne, false, false, .b32⟩ ∧
    Cvt.ofByte (vec false).cvt = some ⟨.sr, false, false, .b16⟩ := by decide +kernel

def xpose (sq : Bool) : XposeLine := ⟨hdr, 2, sq, 0x40, 2, 0x1000, 0x200, 0x800, 32, 64⟩

theorem test_xpose_meets_its_hypotheses : base.Idle 2 1 ∧ base.checkXpose (xpose true) = none ∧ base.checkXpose (xpose false) = none ∧
    Fmt.ofCode (xpose true).fmt = some .f8a := by decide +kernel

theorem test_epi_meets_its_hypotheses :
    (∀ b : Bool,
      let l := { epiLine 0 (if b then 0xB0 else 0x80) with amxEn := b, rows := 1, amask := 1 }
      let i : Instr := if b then .exchangeEpi 2 l else .epi 2 l
      let q : Cvt := if b then ⟨.rne, false, true, .g8⟩ else ⟨.rne, false, false, .b16⟩
      let s := base.modPart 1 fun q => { q with amaxStep := 6 }
      i.wf = true ∧ s.Idle 2 1 ∧ s.checkEpi 2 l = none ∧ formN l.form = some 32 ∧ Cvt.ofByte l.cvt = some q ∧
      (s.epiOut 2 ((s.core 2).ctl.capture (.epi l)) l 32 q).bad = none ∧
      s.amaxWaits 1 ((s.core 2).ctl.capture (.epi l)) = false) := by decide +kernel

def upd : UpdLine := ⟨hdr, 7, false, 4, 0, 5, 1, 6, 2, 8, 4, 9, 9⟩

theorem test_upd_meets_its_hypotheses : base.Idle 2 1 ∧ base.checkUpd 1 upd = none ∧ upd.groups = [7] ∧
    (∀ e ∈ upd.groups.map fun g => (g, (base.part 1).ue.updCase (base.sumSteps 1) ((base.part 1).ue.group g) upd.step), e.2 ≠ UpdCase.bad ∧ e.2 ≠ UpdCase.wait) := by
  decide +kernel

def stash (sid : BitVec 24) : StashLine := ⟨hdr, sid, 0x40, 300, 0⟩

theorem test_stash_meets_its_hypotheses : base.Idle 2 1 ∧ base.hbm.ecc = [] ∧ base.checkStash 1 false (stash 5) = none ∧
    (base.core 2).stash.releaseDue = [] ∧ (base.core 2).stash.dir = [] ∧ (base.core 2).stash.fill + roundUp 300 256 ≤ (base.stashShares 1).2 ∧
    (let s := base.modStash 2 fun q => { q with fill := (base.stashShares 1).2 }
     s.Idle 2 1 ∧ (s.stashShares 1).2 < (s.core 2).stash.fill + roundUp 300 256) := by decide +kernel

theorem test_unstash_meets_its_hypotheses : ∀ b : Bool,
    let s := base.modStash 2 fun q => { q with dir := [⟨5, 300, b, 0⟩] }
    let l := { stash 5 with rseg := 0x1000 }
    s.Idle 2 1 ∧ (s.core 2).mem.Clean ∧ s.hbm.ecc = [] ∧ s.checkStash 1 true l = none ∧ (s.core 2).stash.releaseDue = [] ∧
    (s.core 2).stash.dir.find? (fun e => e.id == l.sid.extractLsb' 0 23) = some ⟨5, 300, b, 0⟩ ∧
    (s.core 2).ctl.stack.length < 16 := by decide +kernel

/-! ### Witnesses: stream control -/

/-- A core with 63 slots taken by tags above 100, 15 calls open, and a deadline at the present moment. -/
def busy : State := base.modCtl 2 fun t => { t with
  stack := List.replicate 15 0x40, tokens := 63, deadline := some ⟨1000, 5⟩
  slots := (List.range 63).map fun n => ⟨.fence ⟨⟨BitVec.ofNat 16 (100 + n), false, false⟩, 1, 0⟩, .done n, none, none, ⟨0, 0, 0⟩, none, 0, 0, 0, 0,
    0, 0, false, n⟩ }

theorem test_branches_meet_their_hypotheses : busy.Ready 2 1 (.branch (branch 0)) ∧
    busy.checkVa 1 (branch 0).target.toNat 32 .x = none ∧ (busy.core 2).ctl.stack.length < 16 ∧
    (busy.core 2).ctl.stack.head? = some 0x40 ∧ busy.Ready 2 1 (.bad 20 hdr) ∧ busy.Ready 2 1 (.bad 0 hdr) ∧
    opcodeDefined 20 = false ∧ opcodeDefined 0 = false := by decide +kernel

theorem test_loss_guard_meets_its_hypotheses : ∀ b : Bool,
    let s := base.modMem 2 fun m => { m with cs := m.cs.writeN (0x40 * 32) (bytesLE 4 (if b then 0x7F800000 else 0)) }
    s.Idle 2 1 ∧ (s.core 2).mem.Clean ∧ (ofB32 (natLE ((s.core 2).mem.csN (0x40 * 32) 4))).isFin = !b ∧
    (s.lossSkip 1 7).eng = s.eng := by decide +kernel

theorem test_seed_deadline_and_mark_meet_their_hypotheses :
    busy.Ready 2 1 (.seed ⟨hdr, 5, 7⟩) ∧ busy.Ready 2 1 (.seed ⟨hdr, 5, 8⟩) ∧
    (let s := busy.modPart 1 fun q => { q with cfg := some { cfg with rt := true } }
     s.isRt 1 = true ∧ s.Ready 2 1 (.deadline ⟨hdr, 0, 0, 5⟩)) ∧
    busy.Ready 2 1 (.mark ⟨hdr, 1, 2, 2, false, 0, 0⟩) ∧ ((busy.core 2).stash.lists.filter fun q => q.next == 0).length < 4 := by
  decide +kernel

theorem test_fence_and_waitq_meet_their_hypotheses : busy.Ready 2 1 (.fence fence) ∧
    fenceWaits 0x41 (busy.core 2).ctl.slots = false ∧
    (let s := busy.modCtl 2 fun t => { t with slots := t.slots.map fun x => { x with line := .upd { upd with hdr := ⟨9, false, false⟩ }, stage := .started } }
     s.Ready 2 1 (.fence ⟨hdr, 0x41, 0⟩) ∧ fenceWaits 0x41 (s.core 2).ctl.slots = true) ∧
    (let s := net.setQueue 5 { queue 1 with ppos := 3, cpos := 3, dpos := 2, items := [{ Item.fresh 2 with closed := true, full := true, passed := true }] }
     (∀ b : Bool, s.Ready 2 1 (.waitq ⟨hdr, 5, 3, b, 100⟩)) ∧
     ((s.queue 5).any fun q => q.part == 1 && !q.isPf && q.waitItem.isSome && (q.waitSeq 3).isSome && (q.waitSeq 9).isNone) = true ∧
     ((s.queue 6).any fun q => q.waitItem.isNone) = true) := by decide +kernel

/-! ### Witnesses: messages -/

theorem test_net_is_lone_and_sound : net.Lone 2 1 ∧ net.Sound := by decide +kernel

theorem test_session_0_has_credit : net.HasCredit 1 77 6 256 0 :=
  ⟨by decide +kernel, by decide +kernel, session 77, by decide +kernel, by decide, by decide, by decide, by decide⟩

theorem test_session_1_has_credit : net.HasCredit 1 78 6 256 1 :=
  ⟨by decide +kernel, by decide +kernel, session 78, by decide +kernel, by decide, by decide, by decide, by decide⟩

theorem test_sends_meet_their_hypotheses :
    net.checkSend 2 1 (sendLine 0) = none ∧ (net.cgroupOf 1 3).any (·.lost) = false ∧
    ((net.queue 5).any fun q => q.part == 1 && q.isJq && q.room && (net.writeQueue q (q.recOff q.ppos) (net.sendBytes 2 1 (sendLine 0))).1) = true ∧
    (let l := { sendLine 0 with dq := 6, len := 256 }
     net.checkSend 2 1 l = none ∧ ((net.queue 6).any fun q => q.part == 1 && q.isRxp && q.slotted && decide (l.count ≤ q.slotb) && q.room &&
      q.canGrant && q.slotFree q.ppos && (net.writeQueue q (q.slotOff q.ppos) (net.sendBytes 2 1 l)).1) = true ∧
     net.checkSend 2 1 { l with dmod := 77 } = none ∧ isMbQueue l.dq = false) ∧
    net.checkSend 2 1 { sendLine 0 with dq := 0xFFFF2 } = none ∧ net.moduleId ≠ 77 := by decide +kernel

/-- A message of 40 bytes is pending in queue 6. -/
def heard : State := net.setQueue 6 { queue 4 with
  ppos := 4, cpos := 4, items := [{ Item.fresh 3 with closed := true, full := true, passed := true, bytes := 40, src := some 77 }] }

theorem test_recvs_meet_their_hypotheses :
    net.checkRecv 2 1 (recvLine 0) = none ∧ ((net.queue 7).any fun q => q.isRxp && q.part == 1 && q.posted && q.room) = true ∧
    (let l := { recvLine 0 with sq := 6, smod := 77, len := 40, sany := false }
     heard.Lone 2 1 ∧ heard.Sound ∧ heard.checkRecv 2 1 l = none ∧ l.dmem = false ∧ l.rfmt = l.dfmt ∧
     heard.eng.lostMods.contains l.smod = false ∧ isMbQueue l.sq = false ∧
     ((heard.queue 6).any fun q => q.isRxp && q.part == 1 && !q.posted && (q.pendingItem.any fun i =>
       i.src == some l.smod && decide (i.bytes = l.count))) = true) := by decide +kernel

/-- Entry 9 of the exchange table is a shard of module 77, entry 10 one of this module; this module owns shard 0. -/
def shared : State := net.modPart 1 fun q => { q with
  exch := (q.exch.set none 9 (some ⟨77, 4, 2, 1⟩)).set none 10 (some ⟨net.moduleId, 0, 2, 1⟩)
  ue := { q.ue with shards := [⟨3, 3, 9, 0, 0x2000, 0, 0, 0, 0, 0, 0, 0⟩], allRec := some 6 } }

def reduceScatter (own : Bool) : SendLine :=
  { sendLine 1 with fmt := 11, len := 1056, dq := if own then 10 else 9, dmod := if own then net.moduleId else 77 }

theorem test_reduce_scatter_meets_its_hypotheses : shared.Lone 2 1 ∧ shared.Sound ∧
    ((shared.cgroupOf 1 3).any fun g => !g.lost) = true ∧ shared.checkSend 2 1 (reduceScatter false) = none ∧
    shared.exchOf 1 9 = some ⟨77, 4, 2, 1⟩ ∧ shared.exchOf 1 10 = some ⟨net.moduleId, 0, 2, 1⟩ ∧
    (shared.core 2).ctl.seed = some ⟨5, 7⟩ ∧ shared.eng.lostMods = [] ∧ shared.findSess 1 77 = some 0 ∧
    shared.sess 0 = some (session 77) ∧ shared.checkSend 2 1 (reduceScatter true) = none ∧
    (((shared.enter 2 (.send (reduceScatter true))).rsRun 1 shared.moduleId 0 7 3 2
      (cutSbs (shared.sendBytes 2 1 (reduceScatter true)) 1) false).any fun w => !w.1) = true := by decide +kernel

/-- Queue 6 holds an all-to-all item with one row of module 77 and one of this module. -/
def gathered : State := (net.setQueue 6 { queue 4 with ppos := 4, cpos := 4, dpos := 4, items := [{ Item.fresh 3 with
  passed := true, closed := true, full := true, rows := 2, heard := [77, net.moduleId]
  table := [⟨77, ⟨6, 1, false, 1, 4⟩, 0⟩, ⟨net.moduleId, ⟨6, 2, false, 1, 4⟩, 1⟩] }] }).modCtl 2 fun t => { t with
    item := some (6, { Item.fresh 3 with
      passed := true, closed := true, full := true, rows := 2, heard := [77, net.moduleId]
      table := [⟨77, ⟨6, 1, false, 1, 4⟩, 0⟩, ⟨net.moduleId, ⟨6, 2, false, 1, 4⟩, 1⟩] }) }

theorem test_a2a_return_meets_its_hypotheses :
    (let l := { sendLine 3 with dq := 6, len := 64, dall := true }
     gathered.Lone 2 1 ∧ gathered.Sound ∧ gathered.checkSend 2 1 l = none ∧
     ((gathered.core 2).ctl.item.any fun x => x.1 == l.dq && x.2.rows == 2 && l.count % x.2.rows == 0) = true) := by
  decide +kernel

theorem test_broadcast_meets_its_hypotheses : net.checkSend 2 1 { sendLine 4 with dq := 6, len := 256, dall := true } = none ∧
    ((net.cgroupOf 1 3).any fun g => g.members.filter (· != net.moduleId) == [77, 78]) = true := by decide +kernel

/-- A plan of two moves, to module 77 and within this module. -/
def planned : State :=
  let plan := fields [(4, 99), (4, 2), (8, 0x4000), (8, 64), (8, 32), (8, 0x100), (8, 0x8000), (6, 32), (2, 77), (8, 0x200),
    (8, 0x9000), (6, 32), (2, net.moduleId.toNat)]
  { net with hbm := net.hbm.writeVa (net.part 1) [] 0 plan }

theorem test_permute_meets_its_hypotheses :
    (let l := { sendLine 5 with dq := 0, saddr := 0, smem := true, len := 80 }
     let b := planned.hbm.readVa (planned.part 1) 0 80
     let ms := planMoves (b.drop 32) 2
     planned.Lone 2 1 ∧ planned.Sound ∧ planned.checkSend 2 1 l = none ∧ l.count = 80 ∧ fieldLE b 4 4 = 2 ∧
     (ms.map (·.len)).sum = fieldLE b 0x10 8 ∧ planned.planBad 1 (fieldLE b 8 8 % 2 ^ 48) (ms.map (·.len)).sum ms = none) := by
  decide +kernel

def gather (own : Bool) : RecvLine := { recvLine 2 with
  rfmt := 9, dfmt := 9, sq := if own then 10 else 9, smod := if own then net.moduleId else 77, len := 2048, sany := false }

theorem test_gathers_meet_their_hypotheses : shared.checkRecv 2 1 (gather false) = none ∧ shared.checkRecv 2 1 (gather true) = none ∧
    (∀ n ∈ [6, 7], let s := shared.modEng fun e => { e with gathers := [⟨1, some 0, 0, 0, 0, 2, 0, BitVec.ofNat 32 n⟩] }
      ((s.part 1).ue.shards[0]?.map fun d => (decide (2 < d.nsb), atOrAfter32 ((s.part 1).ue.recorded 0 2) (BitVec.ofNat 32 n))) =
        some (true, n == 6)) ∧ net.eng.gathers[0]? = none := by decide +kernel

/-! ### Witnesses: routing -/

def places : PlaceTab := ⟨2, 1, true, [⟨net.moduleId, false, 77, false, 0xFFFFFF, 6, 6⟩, ⟨77, false, 78, true, 0xFFFFFF, 6, 6⟩]⟩

/-- A store with a route header (its mode `mode`), rows, and the map records of two tokens. -/
def routed (mode : Nat) : State :=
  let rec_ := fun (e adm alt slot w : Nat) => bytesLE 8 (e + adm * 256 + alt * 1024 + slot * 65536 + w * 2 ^ 32)
  let s := net.modMem 2 fun m =>
    let cs := m.cs.writeN (0x100 * 32) (fields [(4, 0x200), (2, 1), (2, 32), (4, 0x300), (1, mode), (1, 3), (2, 0), (4, 0x1ff)])
    let cs := cs.writeN (0x200 * 32) ((List.range 64).map fun i => BitVec.ofNat 8 (3 * i + 1))
    let cs := cs.writeN (0x300 * 32) (rec_ 0 1 0 1 0x3F800000 ++ rec_ 1 0 0 0 0x40000000)
    { m with cs := cs.writeN (0x301 * 32) (rec_ 0 1 0 0 0x40000000 ++ rec_ 1 1 0 0 0x3F000000) }
  let s := s.setQueue 8 { queue 4 with memCs := true, slotb := 4096, cmask := 4, rlag := 4 }
  s.modPart 1 fun q => { q with place := q.place.set none 4 (some places) }

theorem test_dispatch_meets_its_hypotheses : (routed 0).Lone 2 1 ∧ (routed 0).Sound ∧ (routed 0).ptab 1 (route 0) = some places ∧
    (routed 0).checkRoute 1 (route 0) = none ∧ (routed 0).eng.rounds = [] ∧
    (let h := ((routed 0).core 2).mem.routeHdr 0x100
     (routed 0).checkRouteHdr 1 (route 0) h = none ∧ h.reuse = false) ∧
    (let k := ((routed 0).core 2).ctl.mark
     let r : Round := ⟨1, (route 0).ptab, (route 0).layer, k.mb, k.phase, 2, [⟨3, 8, route 0, [], 0⟩], false, false⟩
     let s := (routed 0).modEng fun e => { e with rounds := [r] }
     s.Lone 2 1 ∧ s.eng.rounds.find? (fun r => r.matches 1 (route 0) (s.core 2).ctl.mark) = some r ∧
     roundDiffers (route 0) (route 0) = none) := by decide +kernel

theorem test_reuse_meets_its_hypotheses : ∀ m ∈ [1, 3], (routed m).Lone 2 1 ∧ (routed m).Sound ∧ (routed m).checkRoute 1 (route 0) = none ∧
    (let h := ((routed m).core 2).mem.routeHdr 0x100
     (routed m).checkRouteHdr 1 (route 0) h = none ∧ h.reuse = true ∧ h.scalew = (m == 3)) ∧
    (((routed m).queue 8).any fun q => q.en && decide (q.ppos + 1 ≤ q.dpos + q.limit) && q.slotFree q.ppos) = true := by decide +kernel

/-- The same store with the returned rows of the two experts at line 0x100, to be combined under conversion `cvt`. -/
def returned (cvt : Nat) : State := (routed 0).modMem 2 fun m =>
  let cs := m.cs.writeN (0x100 * 32) (padTo 64 (fields [(4, 0x300), (2, 32), (1, 8), (1, cvt), (2, 3), (1, 0)]))
  { m with cs := cs.writeN (0x100 * 32 + 0x40) (fields [(8, 2 + 0x10000), (8, 1 + 0x10000)]) }

theorem test_combine_meets_its_hypotheses : ∀ z ∈ [(0x80, (⟨.rne, false, false, .b16⟩ : Cvt)), (0x38, ⟨.rne, false, true, .f8b⟩)],
    let s := returned z.1
    let q := z.2
    let l : RouteLine := { route 1 with src := 0x100, dst := 0x500 }
    let m := (s.core 2).mem
    let recs := (List.range 2).map fun t => readMap m 0x300 2 l.experts t
    let base := fun j => segBase l.experts + 32 * ((List.range j).map fun j => (recs.flatten.filter fun r => r.j == some j).length).sum
    let ys := recs.map fun r => combineRow m 0x100 16 32 .b16 false base (fun j => m.retState 0x100 j) r
    let runs := ys.zipIdx.flatMap fun y =>
      if q.bscale then
        let d := convBlocks q.fmt q y.1 [] 1
        [(false, (0x500 + y.2 * 3) * 32, pack q.fmt.bits d.1), (false, (0x506 + y.2) * 32, padTo 32 (d.2.1.map (BitVec.ofNat 8 ·)))]
      else [(false, (0x500 + y.2 * 3) * 32, pack q.fmt.bits (convRun q y.1 []).1)]
    s.Lone 2 1 ∧ s.Sound ∧ s.ptab 1 l = some places ∧ s.checkRoute 1 l = none ∧
    m.csN (0x100 * 32) 11 = fields [(4, 0x300), (2, 32), (1, 8), (1, z.1), (2, 3), (1, 0)] ∧
    Cvt.ofByte (BitVec.ofNat 8 z.1) = some q ∧ planeLines 1 = 1 ∧
    (∀ r ∈ recs.flatten, ∀ j ∈ r.j, m.retState 0x100 j = 1) ∧ (recs.flatten.filterMap (·.j)).length = 3 ∧
    spansBad (runs.map fun r => ⟨r.1, r.2.1, r.2.2.length⟩) = none := by decide +kernel

/-! ### Witnesses: ports -/

/-- Port 5 in a state, with two frames waiting on each sub-port. -/
def port (q : PortState) : Port := { Port.reset with
  cfg := 0x5F, state := q, autoneg := true, trained := true, dlcSeq := 4
  subs := Port.reset.subs.map fun b => { b with txq := [⟨3, 9, .raw [1, 2, 3], 77, false⟩, ⟨2, 5, .raw [1], 0, false⟩], cnt := [(2, 5), (11, 7)] } }

def locked (q : PortState) : Port := { port q with locked := true, lockTime := 100 }

/-- A Direct port with module 77 at one lane. -/
def direct : Port := { locked .upDirect with peerMid := 77, peerPort := 3, peerStepOk := true, width := 1 }

def withPort (q : Port) : State := base.setPort 5 q

theorem test_bring_up_meets_its_hypotheses : (withPort (port .waitPeer)).portsRun = true ∧ (withPort (port .fault)).portsRun = true ∧
    ((withPort (port .fault)).port 5).en = true ∧ (withPort (port .training)).still = true ∧ (port .training).locked = false ∧
    (port .training).mode = 3 ∧ (port .training).trained = true ∧ ({ port .training with cfg := 0x58 } : Port).mode ≠ 3 ∧
    ((withPort (locked .training)).port 5).locked = true := by decide +kernel

def dlc : Dlc := ⟨77, 3, true, true, true, 9, 2, 500⟩

theorem test_hello_meets_its_hypotheses :
    (let s := (withPort (locked .training)).modReg fun r => { r with assigned := true }
     s.still = true ∧ s.reg.assigned = true ∧ (s.port 5).mode = 3 ∧ dlc.directOk = true ∧ dlc.heard = true ∧
     (s.port 5).state = .training) ∧
    (withPort (locked .training)).reg.assigned = false ∧
    (withPort direct).still = true ∧ dlc.port.extractLsb' 0 4 = direct.peerPort ∧
    ((withPort (locked .training)).modAon fun a => { a with time := 10000100 }).now = 100 + 10000000 := by decide +kernel

/-- Module 77 is in a group whose loss the port's fall declares. -/
def lossy : State := (withPort direct).modEng fun e => { e with
  cgroups := e.cgroups.set none 3 (some ⟨3, 0, 1, true, false, 0, 0, [base.moduleId, 77, 78]⟩) }

theorem test_port_down_meets_its_hypotheses : (withPort direct).still = true ∧ (withPort direct).portLoss 77 = false ∧
    (withPort (locked .training)).still = true ∧ lossy.still = true ∧ lossy.portLoss 77 = true := by decide +kernel

theorem test_stepping_meets_its_hypotheses :
    (let s := withPort direct
     direct.stepEn = true ∧ direct.stepReq = none ∧ (s.stepTarget (direct.window 4000000 70000) 4000000 70000).isSome = true ∧
     s.stepTarget (direct.window 0 0) 0 0 = none ∧ s.stepGranted direct 4 true = true) ∧
    (let q := { direct with width := 0 }
     (withPort q).stepGranted q 4 true = false ∧ (withPort q).stepGranted { q with width := 1 } 4 false = false) ∧
    (let q := { direct with stepReq := some (9, 2), idleWins := 32 }
     (withPort q).stepGranted q 4 true = true ∧ (withPort { q with stepping := true }).stepGranted { q with stepping := true } 4 true = false ∧
     (withPort q).moduleId.toNat < q.peerMid.toNat ∧ ¬((withPort q).moduleId.toNat < ({ q with peerMid := 0 } : Port).peerMid.toNat) ∧
     dlc.seq = 9 ∧ dlc.width = 2) ∧
    ({ direct with stepAgreed := some (4, 9), stepping := true } : Port).stepAgreed = some (4, 9) := by decide +kernel

theorem test_adaptation_meets_its_hypotheses :
    direct.adaptReq = none ∧ direct.adaptAgreed = none ∧ direct.stepping = false ∧
    ({ direct with subs := Port.reset.subs } : Port).busy = false ∧
    direct.lastAdapt.toNat + 10000000000 ≤ ((withPort direct).modAon fun a => { a with time := 10000000000 }).now ∧
    ({ direct with adaptReq := some 9 } : Port).adaptReq = some dlc.seq ∧
    ({ direct with adaptAgreed := some 9 } : Port).adaptAgreed.isSome = true := by decide +kernel

/-- A frame of `n` bytes to address 02:11:22:33:44:55. -/
def frame (n : Nat) : List Byte := [0x02, 0x11, 0x22, 0x33, 0x44, 0x55, 1, 2, 3, 4, 5, 6, 0x12, 0x34] ++ List.replicate (n - 14) 7

def pause : List Byte := [0x01, 0x80, 0xC2, 0, 0, 1, 1, 2, 3, 4, 5, 6, 0x88, 0x08, 0, 1] ++ List.replicate 60 7

/-- Steered receive queue 9 takes the frames of that address. -/
def steered : State :=
  let s := ((withPort (locked .upSwitched)).setQueue 9 (queue 5)).modEng fun e => { e with qcache := [9] }
  { s with fabric := { s.fabric with
    perfect := [(0, some ⟨0x021122334455, true, 1, 4, 0xFFF⟩)], qgroups := [(4, some ⟨1, false, true, false, 0, [9]⟩)] } }

theorem test_frames_meet_their_hypotheses :
    (let s := withPort (locked .upSwitched)
     let own := fun (f : List Byte) =>
       let z := parseFrame f
       decide (64 ≤ f.length + 4 ∧ f.length + 4 ≤ 9216) && !(s.foreign z.dst && (s.port 5).fwdIn) && !isPause f z &&
         !(decide (z.dst = dlcAddr) && (s.port 5).mode == 3) && !(isPtp f z && (s.port 5).ptpEn) && !isNeighbour f z
     s.still = true ∧ (s.port 5).receives 0 (frame 60) = true ∧ (s.port 5).receives 0 (frame 59) = true ∧ own (frame 60) = true ∧
     (s.port 5).receives 0 pause = true ∧ isPause pause (parseFrame pause) = true ∧ (parseFrame pause).dst ≠ dlcAddr ∧
     s.perfects = [] ∧ s.firstRule 5 (frame 60) (parseFrame (frame 60)) = none) ∧
    (steered.still = true ∧ (steered.port 5).receives 0 (frame 60) = true ∧ (parseFrame (frame 60)).dst = 0x021122334455 ∧
     (steered.perfects.find? fun e => e.en && e.addr.toNat == 0x021122334455 && e.ports.getLsbD 5) = some ⟨0x021122334455, true, 1, 4, 0xFFF⟩ ∧
     ((steered.fabric.qgroups.get none 4).any fun g => !g.asm && g.pick (frame 60) (parseFrame (frame 60)) == some 9) = true ∧
     ((steered.queue 9).any fun d => steered.rxfOpen d && decide (60 ≤ d.slotb) && !d.memCs) = true ∧ steered.hbm.ecc = []) := by
  decide +kernel

theorem test_transmit_and_assembly_meet_their_hypotheses :
    (let s := withPort (locked .upSwitched)
     ((s.nextFrame 5 0).any fun f => (s.port 5).sends 0 f) = true) ∧
    (let q := { queue 5 with qgrp := 4, items := [{ Item.fresh 3 with asmItem := some 7, ts := 100 }] }
     let s := (steered.setQueue 9 q).modAon fun a => { a with time := 1100 }
     let g : QueueGroup := ⟨1, true, true, false, 1, [9]⟩
     let u : State := { s with fabric := { s.fabric with qgroups := [(4, some g)] } }
     (u.queue 9).map (·.qgrp) = some 4 ∧ (q.image.any fun i => g.atmo != 0 && decide (i.ts.toNat + g.atmo.toNat * 1000 ≤ u.now)) = true) ∧
    (steered.queue 9).map (·.image) = some none := by decide +kernel

/-! ### Witnesses: what the engines do -/

/-- A finished command of a token, with a tag that wants a record. -/
def finished (n token : Nat) : InFlight :=
  ⟨.fence ⟨⟨BitVec.ofNat 16 token, true, false⟩, 1, 0⟩, .done n, none, none, ⟨0, 0, 0⟩, none, stOk, 0, 0, 0, 0, 55, false, token⟩

/-- Core 2 with commands in flight, its stream ending, and completion queue 20 with or without room. -/
def retiring (slots : List InFlight) (room : Bool) : State :=
  (net.setQueue 20 { queue 0 with en := room, ppos := 9, cpos := 9, dpos := 8 }).modCtl 2 fun t => { t with
    cq := 20, slots := slots, ending := true, tokens := 9 }

theorem test_retirement_meets_its_hypotheses :
    (let s := retiring [finished 5 2, finished 4 1] true
     (s.core 2).part = some 1 ∧ finished 4 1 ∈ (s.core 2).ctl.slots ∧
     ((s.core 2).ctl.slots.all fun y => y == finished 4 1 || (match y.stage with
       | .done k => decide (4 < k)
       | _ => true)) = true ∧ (finished 4 1).recordDue = true ∧
     ((s.queue 20).any fun q => q.depth != 0 && q.room &&
       (s.writeQueue q (q.recOff q.ppos) ((finished 4 1).record 2 1 (q.ppos % 65536) (decide (q.ppos / q.depth % 2 = 0)))).1) = true) ∧
    (((retiring [] false).queue 20).any fun q => !q.room) = true ∧
    ({ finished 4 1 with line := .fence ⟨⟨1, false, false⟩, 1, 0⟩ } : InFlight).recordDue = false := by decide +kernel

theorem test_timers_meet_their_hypotheses :
    (let s := net.modStash 2 fun q => { q with fill := 256, dir := [⟨1, 5, true, 0⟩], releaseDue := [3, 4] }
     (s.core 2).stash.releaseDue = 3 :: [4] ∧ (s.core 2).ctl.hold = none ∧ (s.core 2).ctl.slots = []) ∧
    (let x : InFlight := { finished 4 9 with line := .waitq ⟨⟨9, true, false⟩, 20, 5, true, 4000⟩, stage := .waiting, deadline := some ⟨5000, 20⟩ }
     let s := net.modCtl 2 fun t => { t with hold := some (x, 990) }
     (s.core 2).tagged 9 = some x ∧ (s.core 2).ctl.hold = some (x, 990)) ∧
    (let x : InFlight := { finished 4 9 with line := .upd upd, stage := .waiting }
     let s := net.modCtl 2 fun t => { t with slots := [x] }
     (s.core 2).part = some 1 ∧ (s.core 2).ctl.hold = none ∧ (s.core 2).ctl.slots = [x] ∧ x.deadline = none ∧
     (∀ e ∈ upd.groups.map fun g => (g, (s.part 1).ue.updCase (s.sumSteps 1) ((s.part 1).ue.group g) upd.step), e.2 ≠ UpdCase.bad ∧ e.2 ≠ UpdCase.wait)) := by
  decide +kernel

/-- Prefetch queue 30 with or without an open item; core 2's list ends with a descriptor for it. -/
def prefetching (open_ : Bool) : State :=
  let d := fields [(4, 30), (1, 0), (1, 1), (2, 0), (6, 0x600), (2, 0), (4, 64), (4, 32), (8, 0)]
  let s := { net with hbm := net.hbm.writeVa (net.part 1) [] 0x400 d }
  let s := s.setQueue 30 { queue 2 with base := 0x2000, ppos := if open_ then 4 else 3, items := if open_ then [{ Item.fresh 3 with full := true }] else [] }
  s.modStash 2 fun k => { k with lists := [⟨1, 0x3E0, 1, 2, false⟩, ⟨1, 0x800, 0, 2, false⟩] }

theorem test_take_meets_its_hypotheses : ∀ o : Bool,
    let s := prefetching o
    let b := s.hbm.readVa (s.part 1) 0x400 32
    s.Sound ∧ (s.core 2).stash.lists = ⟨1, 0x3E0, 1, 2, false⟩ :: [⟨1, 0x800, 0, 2, false⟩] ∧
    (s.part 1).checkRange 0x400 32 .r = none ∧ fieldLE b 0 4 = 30 ∧
    ((s.queue 30).any fun q => q.isPf && q.part == 1 && s.xdescOk q b (Xdesc.ofBytes b) && !q.drainOpen && q.room && decide (q.dpos ≤ q.ppos) &&
      (if o then q.items.find? (fun i => !i.closed) == some { Item.fresh 3 with full := true } else q.items.isEmpty)) = true := by
  decide +kernel

def desc (kind : BitVec 8) (issued landed : Bool) : Xdesc := ⟨kind, true, 0, 0x600, 64, 32, issued, landed, []⟩

theorem test_issue_and_landing_meet_their_hypotheses :
    (let x : Item := { Item.fresh 3 with full := true, closed := true, descs := [desc 0 true false, desc 0 true true] }
     let i := fun (z : Xdesc) => ({ Item.fresh 4 with full := true, descs := [desc 0 true false] ++ z :: [desc 0 false false] } : Item)
     let q := fun (z : Xdesc) => ({ queue 2 with base := 0x2000, ppos := 5, items := [x] ++ i z :: [] } : Queue)
     (∀ y ∈ [x], y.n ≠ 4) ∧
     (let r := q (desc 0 false false)
      r.isPf = true ∧ r.outstanding < r.maxout ∧ (∀ y ∈ x.descs, y.issued = true) ∧ r.slotFree 4 = true ∧ net.inShare pointStream streamCap 1 = false ∧
      net.needSess 1 77 = (some 0, net) ∧
      (net.setQueue 30 r).qids.all (fun j => ((net.setQueue 30 r).queue j).any fun z =>
        !(net.setQueue 30 r).streamWants true z && (!(net.setQueue 30 r).streamWants false z || z.channel == r.channel)) = true) ∧
     ∀ k : Bool, let r := q (desc (if k then 1 else 0) true false)
       let s := net.setQueue 30 r
       s.queue 30 = some r ∧ s.Sound ∧ (s.writeQueue r (r.slotOff 4 + 32) (List.replicate 64 9)).1 = true) := by decide +kernel

theorem test_completion_meets_its_hypotheses :
    (let i : Item := { Item.fresh 3 with full := true, closed := true, bytes := 64, descs := [desc 0 true true] }
     let q := fun (b : Bool) => ({ queue 2 with base := 0x2000, ppos := 4, items := [i], ncqEn := b, ncq := 20 } : Queue)
     (∀ b : Bool, (q b).item (q b).cpos = some i ∧ (q b).isPf = true) ∧ i.ready = true ∧ i.passed = false ∧
     (let s := (retiring [] true).setQueue 30 (q true)
      (s.queue 30) = some (q true) ∧ ((s.queue 20).any fun r => r.depth != 0 && r.room && (s.writeQueue r (r.recOff r.ppos)
        (itemRecord (q true) i s.aon.time (r.ppos % 65536) (decide (r.ppos / r.depth % 2 = 0)))).1) = true)) := by decide +kernel

theorem test_cache_fills_meet_their_hypotheses : (net.queue 5).isSome = true ∧ 10 ∉ net.eng.qcache ∧ (shared.setQueue 10 (queue 1)).queue 10 = some (queue 1) ∧
    5 ∈ (net.modEng fun e => { e with qcache := [5] }).eng.qcache ∧ (net.part 1).pages.get none (1 : BitVec 27).toNat = some (pte 101) ∧
    (1, 1) ∉ net.eng.tlb ∧ (1, 1) ∈ (net.modEng fun e => { e with tlb := [(1, 1)] }).eng.tlb := by decide +kernel

/-- The round of one member whose rows are those of `routed 0`. -/
theorem test_admission_meets_its_hypotheses :
    (let line := { route 0 with layer := 1 }
     let m : RoundMember := ⟨2, 0, line, [[(0, 0x3F000000), (1, 0x3F000000)], [(1, 0x3F400000), (0, 0x3E800000)]], 0⟩
     let r : Round := ⟨1, line.ptab, line.layer, 0, 0, 1, [m], false, false⟩
     let s := (routed 0).modEng fun e => { e with rounds := [r] }
     let as := [m].flatMap (memberAssigns places)
     let order := fun (j : Nat) => (List.range 2).flatMap fun k => as.filter fun a => a.dir == some j && a.rank == k && a.core == 2
     let ad : Admission := ⟨(List.range 4).map fun j => (order j).take line.cap.toNat, (List.range 4).map fun j => (order j).length⟩
     s.Sound ∧ s.eng.rounds[0]? = some r ∧ line.k.toNat = 2 ∧ (s.part 1).place.get none r.ptab.toNat = some places ∧
     s.returnsFree [memberSegs (s.core 2).mem places ad m] = true) := by decide +kernel

theorem test_push_meets_its_hypotheses :
    (let s := ((net.modCtl 3 fun t => { t with seed := some ⟨5, 7⟩, seedQ := [(4, 7)] }).modCtl 2 fun t => { t with seedQ := [(4, 7), (9, 8)] }).modPart 1 fun q => { q with
       amaxStep := 6, amax := [(3, ⟨5, 6, true, false, true, false, 2, 3, []⟩), (9, ⟨5, 6, false, false, true, false, 2, 3, []⟩)] }
     s.pushDue 1 = true ∧ ((s.part 1).amax.map (·.1)).Nodup) := by decide +kernel

/-- A complete contribution to super-block 1 of shard 0, its group frozen or not, its step noticed or not. -/
def contributed (frozen noticed : Bool) : State :=
  let d : Shard := ⟨3, 1, 2, 0, 0x2000, 0x4000, 0x6000, 0, 0, 0, 0, 0⟩
  let g : UpdGroup := ⟨[(0, 0x3F000000), (2, 0x3F800000), (5, 0x3F800000), (8, 0x3F800000)], if frozen then 16 else 0, [], 0, 0⟩
  let s := net.modPart 1 fun q => { q with ue := { q.ue with
    shards := [d], groups := [(3, g)], steps := if noticed then [{ UeStep.new 7 with noticed := true }] else [] } }
  s.modEng fun e => { e with ctxs := [⟨1, 0, 1, 7, 3, 0, [77], [(5, ⟨3, 0, false⟩)]⟩] }

theorem test_superblocks_meet_their_hypotheses :
    (∀ f n : Bool, let s := contributed f n
      s.hbm.ecc = [] ∧ (s.part 1).cfg = some cfg ∧ ((s.part 1).ue.shards[0]?.map (·.ncontrib)) = some 1 ∧
      (((s.part 1).ue.group 3).coefs 7).frozen = f ∧ (((s.part 1).ue.stepOf 7).map (·.noticed)) = (if n then some true else none)) ∧
    (let s := contributed false false
     let c := ((s.part 1).ue.group 3).coefs 7
     c.rule ≠ 3 ∧ c.rule ≠ 2 ∧ ((s.part 1).ue.shards[0]?.any fun d => s.sbReach 1 1 (d.tensors cfg.compact)) = true ∧
     (s.clipFactor 1 7 c).isSome = true ∧
     ((s.eng.ctxs[0]?).any fun x => (List.range 1024).all fun i => ((x.entries.get AccEntry.zero i).exact x.rofs.toInt).rto.isFin) = true) := by
  decide +kernel

theorem test_phase_two_meets_its_hypotheses : ∀ st ∈ [1, 2],
    let d : Shard := ⟨3, 1, 1, 0, 0x2000, 0x4000, 0x6000, 0x8000, 0x10000, 32, 32, 32⟩
    let s := net.modPart 1 fun q => { q with ue := { q.ue with shards := [d], cfg := some ⟨3, 0, 40, 41⟩ } }
    let q : Queue := { queue 1 with ppos := 1, cpos := 1, dpos := 0, base := 0x9000, items := [{ Item.fresh 0 with passed := true, closed := true, full := true }] }
    let s := ({ s with hbm := (s.hbm.writeVa (s.part 1) [] 0x9000 (fields [(8, 0), (8, 7)])).writeVa (s.part 1) [] 0x10000 (fields [(4, 7), (1, st), (1, 0), (1, 2), (1, 0)]) } : State).setQueue 41 q
    s.hbm.ecc = [] ∧ (s.part 1).ue.cfg = some ⟨3, 0, 40, 41⟩ ∧ s.queue 41 = some q ∧ q.pendingItem.isSome = true ∧
    (s.part 1).ue.shards[0]? = some d ∧ fieldLE (s.readQueue q none (q.recOff 0) 16) 8 4 = 7 ∧
    fieldLE (s.hbm.readVa (s.part 1) (d.region 0) 64) 0 4 = 7 ∧ fieldLE (s.hbm.readVa (s.part 1) (d.region 0) 64) 4 1 = st := by
  decide +kernel

/-! ### Witnesses: power, reset and control -/

theorem test_switch_states_meet_their_hypotheses : ∀ b : Bool,
    let s := base.modHs fun h => { h with debouncing := b, pcycling := b, on := b }
    s.hs.debouncing = b ∧ s.hs.pcycling = b ∧ s.hs.on = b ∧ (s.modAon fun a => { a with supply := .off }).aon.supply = .off ∧
    base.aon.supply ≠ .off ∧ base.hs.latched = false ∧ base.hs.seated = true ∧ State.reset.aon.supply = .off := by decide +kernel

theorem test_groups_meet_their_hypotheses : ∀ g ∈ [0, 1, 2, 3, 4, 5, 6], (boot g).still = true ∧ (boot g).powered = true ∧
    (boot g).aon.inReset = false ∧ (boot g).aon.mstate = .booting ∧ (boot g).aon.quiescing = none ∧ (boot g).aon.group = g ∧
    (boot g).aon.hbmTested = true := by decide +kernel

/-- A modulus of 3,072 bits, and what `openssl dgst -sha384` signs with its key under RSASSA-PSS for the first 512 bytes of `image`. -/
def rsaKey : List Byte :=
    bytesBE 56 0xb92ee89fd1bf10943976aac9dcd01c4ff6f34a16b5645b664a251a5889bdafc7015137b855088849bc11a1596b16742cab35c55f276ab07f ++
    bytesBE 56 0x9d22de706fdf0ebbafd896b75e4ab0c72272db31d1bf267902bed360aa4f2e73b2f43cc00aa49a0da7cb6d46c090c5dd25ffc16e2240062d ++
    bytesBE 56 0x7bdf9b1eb1779528f096f661d713550fe2754a56a2757a10930651f5f0674acf36717c44d9a85360fa80945ead8663f04b9721a0e34b71d8 ++
    bytesBE 56 0x3414f5bb7f221622976578e6d74d4a420227bf935ee1401dee5dce3053164c0290550ef5b1d8535bae1e95abc15d4d3e84a2c259f852f19d ++
    bytesBE 56 0x2885ad33459996871cdec4c6e290f6e3540714c9a337e5e2050f6278768f5298cb000e2e2f84e574d1aa91bc2735d96468f97d5bc4fdf090 ++
    bytesBE 56 0x96a44a61c4785d75b71a63ba3ede39a672707e968127b2907aae89010f7f4e3c6e8609ac3d5631dc01e8fddd4974565e6bb96360cdd460b2 ++
    bytesBE 48 0x561d207fce31e605939fe9b25cdbce94770841d2b51b3ceaf10ae8bf0eabbf37c859a734ad88fffd066c3e924f82caf9

def rsaSignature : List Byte :=
    bytesBE 56 0x18b25acba7301879ddcbb742283930224e7eb446d1c3173174a734ec96fb2cf1ae413aa23d9c42bd41d1f47869c6883e12102c523ceaca63 ++
    bytesBE 56 0x2917c8cf1c561ca395cd09c53004f01b4707698dedab539edb1fcc6494d3f5e2d2f588119ce7f010d92804c4693c0ef64d2cb63c414b67d3 ++
    bytesBE 56 0xbf523146057efc0f4cc5a461f334ef1c4c3b8204d1c59095815f709fc8d517aa9dd4f8ac08f25175e83a6082b4141f968dbc8a202a3e4d37 ++
    bytesBE 56 0xf03768998c221b2ee28b18d9153cfde8f45dd57386bc0d26fe58cb62ee4b01275e17e34fd229a4abe2af0526434c9e3aa1c864ecd14df852 ++
    bytesBE 56 0xf483741bf0d25053ece68fdaf8220e727f512bef6f7c583d4c918a779dac24cb4797f9c5290abac58db39e549ea16720369fe939ae3f1526 ++
    bytesBE 56 0x9318d5de6b70ca4db5122b964971296b22e6c58771e6bd434a8930fd81f8641405494ec404b514d800deb68e4576678b16786526ffd70c2b ++
    bytesBE 48 0xba521ec407f7958fec565c4d29c3b811e5b8b41e70ba037fdf028ffeca71b4f8f42f8496041d860955dfb5167c80be6b

/-- An image without a body, with its RSA key and signature, and fuses that hold the digests of its keys. -/
def image : List Byte :=
  let head := patch (padTo 0x42E0 (fields [(4, 0x4657444B), (2, 1), (1, 2), (1, 0), (4, 9), (4, 0)])) 0x20 (sha384 [])
  patch (patch head 0x50 rsaKey) 0x200 rsaSignature

def keyed : State := { boot 1 with
  flash := { (boot 1).flash with slotA := image, activeB := false }
  fuses := { (boot 1).fuses with vkhRsa := sha384 rsaKey, vkhSlh := sha384 (List.replicate 48 0) } }

/-- The signature comes from outside the model. -/
theorem test_pss_accepts_a_signature : pssVerify ((image.drop 0x50).take 384) (image.take 0x200) ((image.drop 0x200).take 384) = true := by
  decide +kernel

/-- Where its second signature, too long to check here, is good, the slot verifies. -/
theorem test_a_signed_slot_verifies
    (hs : slhVerify ((image.drop 0x1D0).take 48) (image.take 0x200) ((image.drop 0x380).take 16224) = true) :
    (keyed.slotOrder.find? fun b => (if keyed.flash.badSlot b then 8 else keyed.fuses.verify (keyed.flash.slot b)) == 1) = some false := by
  have h : keyed.fuses.verify (keyed.flash.slot false) = 1 := by
    show keyed.fuses.verify image = 1
    unfold Fuses.verify
    simp only [test_pss_accepts_a_signature, hs]
    decide +kernel
  have o : keyed.slotOrder = [false, true] := by decide +kernel
  have b : keyed.flash.badSlot false = false := by decide +kernel
  simp [o, h, b]

theorem test_an_empty_flash_holds_no_image :
    ((boot 1).slotOrder.find? fun b => (if (boot 1).flash.badSlot b then 8 else (boot 1).fuses.verify ((boot 1).flash.slot b)) == 1) = none := by
  decide +kernel

/-- Group 4 is released; the start is cold, warm or a retraining. -/
def started (k : StartKind) (trained : Bool) : State := (boot 4).modAon fun a => { a with start := k, hbmTrained := trained, hbmTested := false }

theorem test_training_meets_its_hypotheses : (∀ b : Bool, (started .cold b).aon.start ≠ .warm ∧ (started .retrain b).aon.hbmTrained = b) ∧
    (started .warm false).aon.group = 4 ∧ (started .warm false).aon.hbmTested = false ∧
    tempsApart 0x42000000 ((started .warm false).stack 0).trainTemp = true ∧
    tempsApart 0x41A00000 ((started .warm false).stack 0).trainTemp = false := by decide +kernel

theorem test_ready_meets_its_hypotheses : (boot 6).still = true ∧ (boot 6).aon.mstate = .booting ∧ (boot 6).aon.quiescing = none ∧
    (boot 6).aon.inReset = false := by decide +kernel

theorem test_resets_meet_their_hypotheses : base.powered = true ∧ base.aon.inReset = false ∧ base.regRuns = true ∧ 2 ≤ base.aon.group ∧
    (base.modAon fun a => { a with inReset := true }).aon.inReset = true ∧ fatalReset .meshCommandPath ≠ none ∧
    (fatalReset .regulatorHbm).isSome = true := by decide +kernel

theorem test_quiesce_meets_its_hypotheses : base.pinsTaken = true ∧ base.aon.quiescing = none ∧ base.aon.mstate ≠ .quiesced ∧
    (boot 5).pinsTaken = false ∧ (boot 5).still = true ∧
    (let s := (base.modCtl 2 fun t => { t with stream := .idle }).modAon fun a => { a with quiescing := some 900 }
     s.powered = true ∧ s.aon.quiescing = some 900 ∧ s.aon.inReset = false ∧ s.allEnded = true) ∧
    (let s := ((boot 3).modAon fun a => { a with start := .warm }).modStack 3 fun k => { k with selfRefresh := true }
     s.aon.mstate = .booting ∧ s.aon.start = .warm ∧ s.aon.group < 4 ∧ (s.stack 3).selfRefresh = true) := by decide +kernel

def reading (id : Nat) (v : Nat) : Reading := ⟨BitVec.ofNat 8 id, BitVec.ofNat 32 v⟩

/-- 90, 101, 110.5 and 121 degrees as B32. -/
theorem test_loop_and_heat_meet_their_hypotheses : base.still = true ∧ base.regRuns = true ∧ base.aon.crit = false ∧
    base.hotter 100 1000 (reading 5 0x42CA0000) = true ∧ base.hotter 95 90 (reading 5 0x42B40000) = false ∧
    base.hotter 110 105 (reading 5 0x42DD0000) = true ∧ base.hotter 110 105 (reading 5 0x42DC0000) = false ∧
    isDie (reading 5 0).id.toNat = true ∧ above (base.calibrated (reading 5 0x42F20000)) 120 = true ∧
    (let s := base.modAon fun a => { a with crit := true }
     s.still = true ∧ s.regRuns = true ∧ s.powered = true ∧ ([reading 5 0x42B40000].any (s.hotter 100 95)) = false) ∧
    (23 : BitVec 8).toNat < 24 ∧ (50 : BitVec 8).toNat ∈ [24, 25, 26, 49, 50] := by decide +kernel

theorem test_wake_meets_its_hypotheses :
    ∀ x ∈ [(MState.s1, WakeEvent.mailbox), (.s2, .frame), (.s3, .mpSegment 0x99 0), (.s4, .mpSegment 0x99 0), (.s4, .mrst)],
    let s := ((base.modCtl 2 fun t => { t with stream := .idle }).modAon fun a => { a with mstate := x.1 }).modReg fun r => { r with mpOwner := 0x99 }
    s.powered = true ∧ s.still = true ∧ s.wakes x.1 x.2 = true := by decide +kernel

/-- A stack sampled at 90 °C that was trained at 0 °C. -/
theorem test_wake_meets_the_retraining_case :
    let s := (((base.modCtl 2 fun t => { t with stream := .idle }).modAon fun a => { a with
      mstate := .s3, samples := [(0x28, some ⟨0x42B40000, 0⟩)] }).modStack 0 fun k => { k with trainTemp := 0 }).modReg fun r =>
        { r with mpOwner := 0x99 }
    s.powered = true ∧ s.still = true ∧ s.wakes .s3 (.mpSegment 0x99 0) = true ∧ s.trainingStale = true ∧
      ({ s with aon := { s.aon with samples := [(0x28, some ⟨0x41A00000, 0⟩)] } } : State).trainingStale = false := by decide +kernel

/-- Stack 0 at a slot of its scrub, with two words that hold an error and a mark that the slot is due. -/
def scrubbing (slot : Nat) : State := (({ base with hbm := { base.hbm with ecc := [(0, .single), (100000000, .single)] } } : State).modStack 0 fun k =>
  { k with scrubSlot := slot, scrubDue := some 5 }).modAon fun a => { a with time := 1000000005 }

theorem test_scrub_meets_its_hypotheses : (∀ n ∈ [0, 49151], (scrubbing n).still = true ∧ (scrubbing n).scrubRuns 0 = true ∧
    (List.range 32).all (fun n => !((scrubbing 0).pcBusy 0 n)) = true ∧ ((scrubbing n).stack 0).scrubDue = some 5) ∧
    (scrubbing 49151).hbm.slotWords 0 49151 (List.range 32) .double = [] ∧ 5 + 1000000000 ≤ (scrubbing 0).now ∧
    base.powered = true ∧ 3 ≤ base.aon.group := by decide +kernel

/-! ### Witnesses: mailboxes -/

/-- Mailbox 2 holds a message in its request area, from a path, its last number 8. -/
def holding (path : ReqPath) (b : List Byte) : State := net.setMb 2 { net.mb 2 with
  reqArea := b, reqPath := path, lseq := 8, respArea := [1, 2] }

/-- A whole request of a command, or one whose CRC is spoilt. -/
def written (cmd : Nat) (path : ReqPath) (spoilt : Bool) : State :=
  holding path (patch (mbMessage false 9 cmd 1 0 0 0 (fields [(2, 1), (6, 0)])) 28 (if spoilt then [1, 2, 3] else []))

theorem test_doorbells_meet_their_hypotheses : (written 0x301 .none false).still = true ∧ (written 0x301 .none false).regRuns = true ∧
    (∀ b : Bool,
      let s := written 0x301 .none b
      let msg := padTo (32 + fieldLE (s.mb 2).reqArea 6 2) (s.mb 2).reqArea
      (s.mb 2).busy = none ∧ (9 : BitVec 16) = (s.mb 2).lseq + 1 ∧ fieldLE (s.mb 2).reqArea 6 2 ≤ 4064 ∧ fieldLE msg 0 1 = 1 ∧
      fieldLE msg 1 1 % 2 = 0 ∧ mbCrcOk msg = !b) ∧
    net.stateAccepts 2 .none (mbClass 0x301 []) 0x301 = true ∧ net.mayDo 2 .diag 1 = true ∧
    net.stateAccepts 2 .none (mbClass 0x3 []) 0x3 = true ∧ net.mayDo 2 .owner 1 = false ∧
    net.stateAccepts 2 (.mp 0xAABB) (mbClass 0x999 []) 0x999 = true ∧ mbClass 0x999 [] = none ∧
    (net.modAon fun a => { a with mstate := .quiesced }).stateAccepts 2 .none (mbClass 0x208 []) 0x208 = false ∧
    ((written 0x301 .none false).mb 2).respArea ≠ [] ∧ (net.mb 2).respArea = [] := by decide +kernel

/-- The header of what mailbox 2 holds, as the Regulator reads it. -/
def headed (s : State) : List Byte := padTo (32 + fieldLE (s.mb 2).reqArea 6 2) (s.mb 2).reqArea

/-- A header with STATUS 5, one with RQ 6 off and on the stream path, and one of more bytes than an area holds. -/
theorem test_headers_meet_their_hypotheses :
    (∀ x ∈ [(5, 0, ReqPath.none), (0, 6, .none), (0, 6, .stream 2)],
      let s := holding x.2.2 (mbMessage false 9 0x301 1 x.1 0 x.2.1 [])
      let msg := headed s
      fieldLE (s.mb 2).reqArea 6 2 ≤ 4064 ∧ mbCrcOk msg = true ∧ fieldLE msg 0 1 = 1 ∧ fieldLE msg 1 1 % 2 = 0 ∧
      fieldLE msg 12 2 = x.1 ∧ fieldLE msg 16 8 = 0 ∧ fieldLE msg 24 4 = x.2.1) ∧
    net.rqOk (Fin.ofNat 8 ((2 : MbId).val + 7)) 6 = true ∧
    4064 < fieldLE ((holding .none (fields [(2, 1), (4, 0), (2, 5000)])).mb 2).reqArea 6 2 := by decide +kernel

def request (cmd : Nat) (payload : List (Nat × Nat)) : MbReq := ⟨9, BitVec.ofNat 16 cmd, 1, 0, fields payload, .none, 3, none, .idle⟩

/-- Mailbox `m` has accepted that request. -/
def asking (s : State) (m : MbId) (cmd : Nat) (payload : List (Nat × Nat)) : State :=
  s.setMb m { s.mb m with busy := some (request cmd payload), lseq := 8 }

theorem test_responses_meet_their_hypotheses : ((asking net 3 0x301 []).mb 3).busy = some (request 0x301 []) ∧
    (List.replicate 4064 (0 : Byte)).length ≤ 4064 ∧ 2 ^ 64 - 1 < 2 ^ 64 := by decide +kernel

/-- Every command of a statement below is held by mailbox 0 of the same state. -/
theorem test_requests_are_asked : ∀ c ∈ [0x0001, 0x0002, 0x0003, 0x0004, 0x0005, 0x0006, 0x0007, 0x0008, 0x0009, 0x000A, 0x000B,
    0x0101, 0x0102, 0x0103, 0x0104, 0x0105, 0x0106, 0x0107, 0x0201, 0x0202, 0x0203, 0x0204, 0x0205, 0x0206, 0x0207, 0x0208, 0x0209,
    0x020A, 0x020B, 0x020C, 0x020D, 0x0301, 0x0302, 0x0303, 0x0304, 0x0305], (asking net 0 c []).Asks 0 c (request c []) := by
  decide +kernel

def hostEntry (family : Nat) : List (Nat × Nat) := [(16, 0x1234), (1, family), (1, 5), (1, 3), (5, 0)]

def rule : List (Nat × Nat) :=
  [(1, 3), (1, 0), (1, 1), (1, 0), (2, 5), (2, 0xFFF), (2, 0x800), (2, 99), (1, 1), (1, 0), (2, 0xFFF), (2, 4), (14, 0)]

def perfect : List (Nat × Nat) := [(6, 0x554433221102), (1, 1), (1, 1), (2, 4), (2, 0xFFF), (4, 0)]

theorem test_owner_tables_meet_their_hypotheses :
    (∀ x ∈ [9, 14], fieldLE (request 2 [(1, x), (1, 2), (1, 7)]).payload 0 1 = x ∧ ((asking net 0 2 []).mb (Fin.ofNat 16 x)).busy = none) ∧
    ((asking net 10 2 [(1, 10)]).mb 10).busy.isSome = true ∧ (net.setMb 10 { net.mb 10 with role := .owner }).hasOwner 10 = true ∧
    (let b := (request 3 ([(2, 62), (2, 2)] ++ hostEntry 6 ++ hostEntry 0)).payload
     fieldLE b 0 2 + fieldLE b 2 2 = 64 ∧ 4 + 24 * 2 = b.length ∧
      (∀ i, i < 2 → hostBad (entryAt b 4 24 i) = none)) ∧ hostBad (fields (hostEntry 5)) = some 16 ∧
    ({ net with fabric := { net.fabric with ports := net.fabric.ports.map fun q => { q with cfg := 0 } } } : State).enabledPort = none ∧
    net.enabledPort.isSome = true ∧
    (let c := BitVec.ofNat 32 0x5F
     0x5F < 128 ∧ (net.port 11).cfg &&& 15#32 = c &&& 15#32) ∧
    (let b := (request 6 ([(1, 0), (1, 1), (2, 254), (2, 2), (2, 0)] ++ rule ++ rule)).payload
     fieldLE b 2 2 + fieldLE b 4 2 = 256 ∧ 8 + 32 * 2 = b.length ∧ ∀ i, i < 2 → net.ruleBad (entryAt b 8 32 i) = none) ∧
    (let b := (request 6 ([(1, 1), (1, 0), (2, 7), (2, 1), (2, 0)] ++ perfect)).payload
     fieldLE b 2 2 + fieldLE b 4 2 = 8 ∧ 8 + 16 * 1 = b.length ∧ net.perfectBad (entryAt b 8 16 0) = none) ∧
    (let b := (request 7 [(2, 16382), (2, 2), (2, 0xA5), (2, 255)]).payload
     fieldLE b 0 2 + fieldLE b 2 2 = 16384 ∧ 4 + 2 * 2 = b.length ∧ ∀ i, i < 2 → fieldLE b (4 + 2 * i) 2 < 256) ∧
    (let b := (request 7 [(2, 16382), (2, 2), (2, 0xA5), (2, 256)]).payload
     fieldLE b 4 2 < 256 ∧ 256 ≤ fieldLE b 6 2) := by decide +kernel

/-- Nothing of core 2 runs. -/
def quiet : State := net.modCtl 2 fun t => { t with stream := .idle }

/-- A calibration region of `n` sensors. -/
def calibration (n : Nat) : List Byte :=
  let es := fields ((List.range n).flatMap fun i => [(2, 0x20 + i), (2, 0), (4, 0x3F800000), (4, 0x40000000)])
  fields [(4, 0x4C414355), (2, 1), (2, n), (4, (crc32c es)), (4, 0)] ++ es

/-- A FLASH_WRITE of a region from address 0x1000. -/
def flashing (region : Nat) (b : List Byte) : State :=
  asking { net with hbm := net.hbm.writeVa (net.part 1) [] 0x1000 b } 0 0x000B [(1, region), (3, 0), (4, b.length), (8, 0x1000)]

theorem test_owner_controls_meet_their_hypotheses :
    (∀ i, i < 9 → fieldLE (request 8 [(8, 0x0000050403020105), (1, 5)]).payload i 1 ≤ 5) ∧
    (let s := asking quiet 0 9 [(1, 1)]
     s.levelsSettled = true ∧ s.maySleep 1 = true ∧ s.maySleep 4 = false ∧
     ({ s with parts := State.reset.parts } : State).maySleep 4 = true ∧ (asking net 0 9 []).maySleep 1 = false) ∧
    (net.core 5).part = none ∧ (quiet.core 2).settled = true ∧
    (∀ n ∈ [0, 2],
      let b := calibration n
      let s := flashing 1 b
      (s.partExists 1 = true ∧ ((s.part 1).checkRange 0x1000 b.length .r) = none ∧ s.hbm.ecc = [] ∧
        s.hbm.readVa (s.part 1) 0x1000 b.length = b) ∧
      b.length ≤ 16 + 12 * 1024 ∧ calValid b = true ∧ (∀ i, i < fieldLE b 6 2 → calBad b i = none)) ∧
    net.fuses.verify (List.replicate 64 0) ≠ 1 := by decide +kernel

theorem test_a_stored_region_is_clean (b : List Byte) : (flashing 2 b).hbm.ecc = [] :=
  (Hbm.writeVa_ecc (net.part 1) [] b net.hbm 0x1000).trans (by decide +kernel)

theorem test_a_configuration_can_be_stored :
    (net.partExists 1 = true ∧ ((net.part 1).checkRange 0x1000 cfgDefault.length .r) = none) ∧
    cfgDefault.length = cfgBytes ∧ (∀ f ∈ [(6, 2), (0xC, 4), (0x16, 2), (0x22, 14)], fieldLE cfgDefault f.1 f.2 = 0) ∧
    (∀ i, i < 12 → fieldLE cfgDefault (0x30 + 4 * i) 4 < 128) ∧
    (fieldLE cfgDefault 0x10 2).testBit 14 = false ∧ fieldLE cfgDefault 0x14 2 = 1000 := by
  decide +kernel

theorem test_a_region_of_1632_bytes_is_read_back (b : List Byte) (h : b.length = 1632) :
    (flashing 2 b).hbm.readVa ((flashing 2 b).part 1) 0x1000 b.length = b := by
  have c : ∀ i : Fin 1632, (net.part 1).paOf (0x1000 + i) = some (100 * pageBytes + 0x1000 + i) := by decide +kernel
  have k : net.hbm.keys = [] := by decide +kernel
  exact net.hbm.readVa_writeVa (net.part 1) b 0x1000 _ (fun _ _ => Or.inl (by rw [k]; rfl)) fun i hi => c ⟨i, h ▸ hi⟩

theorem test_crc_is_a_word (b : List Byte) : crc32c b < 2 ^ 32 := by
  have bit : ∀ c : Nat, c < 2 ^ 32 → crc32cBit c < 2 ^ 32 := by
    intro c h; unfold crc32cBit; split
    · exact Nat.xor_lt_two_pow (by omega) (by omega)
    · omega
  have byte : ∀ (c : Nat) (b : Byte), c < 2 ^ 32 → crc32cByte c b < 2 ^ 32 := by
    intro c b h
    unfold crc32cByte
    exact bit _ (bit _ (bit _ (bit _ (bit _ (bit _ (bit _ (bit _ (Nat.xor_lt_two_pow h (by have := b.isLt; omega)))))))))
  have fold : ∀ (l : List Byte) (c : Nat), c < 2 ^ 32 → l.foldl crc32cByte c < 2 ^ 32 := by
    intro l; induction l with
    | nil => intro c h; exact h
    | cons a l ih => intro c h; exact ih _ (byte c a h)
  exact Nat.xor_lt_two_pow (fold b _ (by omega)) (by omega)

theorem test_a_sealed_region_is_valid (b : List Byte) (h : b.length = cfgBytes) (m : fieldLE b 0 4 = 0x47464344) (v : fieldLE b 4 2 = 1) :
    cfgValid (cfgSeal b) = true := by
  have w := test_crc_is_a_word (b.drop 0x10)
  have k : b.length = 0x660 := h
  have p : cfgSeal b = b.take 8 ++ (bytesLE 4 (crc32c (b.drop 0x10)) ++ b.drop 12) := by
    unfold cfgSeal patch
    have e : (bytesLE 4 (crc32c (b.drop 0x10))).take (b.length - 8) = bytesLE 4 (crc32c (b.drop 0x10)) :=
      List.take_of_length_le (by simp [bytesLE]; omega)
    rw [e, List.append_assoc]; rfl
  have d8 : (cfgSeal b).drop 8 = bytesLE 4 (crc32c (b.drop 0x10)) ++ b.drop 12 := by
    rw [p, List.drop_left' (by simp; omega)]
  have d16 : (cfgSeal b).drop 0x10 = b.drop 0x10 := by
    rw [show (0x10 : Nat) = 8 + 8 from rfl, ← List.drop_drop, d8, show (8 : Nat) = 4 + 4 from rfl, ← List.drop_drop,
      List.drop_left' (by simp [bytesLE]), List.drop_drop]
  have t8 : (cfgSeal b).take 8 = b.take 8 := by rw [p, List.take_left' (by simp; omega)]
  have f0 : fieldLE (cfgSeal b) 0 4 = fieldLE b 0 4 := by
    have := congrArg (List.take 4) t8
    simp only [List.take_take] at this
    simpa [fieldLE] using congrArg natLE this
  have f4 : fieldLE (cfgSeal b) 4 2 = fieldLE b 4 2 := by
    have := congrArg (fun l => (List.take 6 l).drop 4) t8
    simp only [List.take_take, List.drop_take] at this
    simpa [fieldLE] using congrArg natLE this
  have f8 : fieldLE (cfgSeal b) 8 4 = crc32c (b.drop 0x10) := by
    unfold fieldLE
    rw [d8, List.take_left' (by simp [bytesLE])]
    simp [natLE, bytesLE]; omega
  have l : (cfgSeal b).length = cfgBytes := by rw [p]; simp [bytesLE, k, cfgBytes]
  simp [cfgValid, l, f0, f4, f8, d16, m, v]

theorem test_the_default_configuration_is_valid : cfgValid cfgDefault = true :=
  test_a_sealed_region_is_valid _ (by decide +kernel) (by decide +kernel) (by decide +kernel)

theorem test_the_default_configuration_has_hosts_and_length : cfgDefault.length = 1632 ∧
    (∀ i, i < 64 → hostBad (entryAt cfgDefault 0x60 24 i) = none) := by decide +kernel

theorem test_partition_commands_meet_their_hypotheses : net.partExists 1 = true ∧ net.partExists 2 = false ∧
    (let r := request 0x101 [(1, 1), (1, 1), (1, 1), (1, 192), (4, 55), (2, 7), (1, 2), (1, 3), (4, 0), (8, 6144 * 1000), (8, 6144)]
     let c := partCfgOf r.payload
     c.rt = true ∧ net.shares + 192 ≤ 192 ∧ fieldLE r.payload 8 2 < 4096 ∧ fieldLE r.payload 0xA 1 < 8 ∧ fieldLE r.payload 0xB 1 ≤ 5 ∧
     fieldLE r.payload 0xC 4 = 0 ∧ (net.hbm.pickPages none (pagesFor c.s.toNat)).length = pagesFor c.s.toNat) ∧
    (quiet.core 6).settled = true ∧ (quiet.core 3).settled = true ∧ (quiet.core 3).part = some 1 ∧ net.isRt 1 = false ∧
    (allCores.filter fun k => (0b1100).testBit k.val).find? (fun j => !(net.core j).settled) = some 2 ∧
    (∀ j ∈ allCores.filter fun k => (0b1100).testBit k.val, (net.core j).part = some 1) ∧ (net.part 1).cfg = some cfg := by
  decide +kernel

/-- Partition 1 quiet, its queues disabled. -/
def unmapping : State := { quiet with eng := { quiet.eng with
  queues := quiet.eng.queues.map fun x => (x.1, x.2.map fun q => { q with en := false }) } }

theorem test_region_commands_meet_their_hypotheses :
    (∀ l ∈ [0, 15],
      let r := request 0x105 [(1, 0), (1, l), (1, 31), (1, 0), (4, 3), (8, 2 * pageBytes)]
      ((net.part 1).pages.any fun e => decide (2 ≤ e.1 ∧ e.1 < 5)) = false ∧ (net.hbm.pickPages r.mapMode 3).length = 3) ∧
    (let r := request 0x105 [(1, 1), (3, 0), (4, 1), (8, pageBytes)]
     let s := asking unmapping 0 0x105 [(1, 1), (3, 0), (4, 1), (8, pageBytes)]
     s.Asks 0 0x105 r ∧ s.allMapped r = true ∧ s.longRuns 0 1 = false ∧ s.mapQuiet 1 = true ∧
     (let t := s.setMb 5 { s.mb 5 with busy := some ⟨4, 0x20B, 1, 0, [], .none, 0, none, .idle⟩ }
      t.Asks 0 0x105 r ∧ t.allMapped r = true ∧ t.longRuns 0 1 = true)) ∧
    (let s := quiet.modPart 1 fun q => { q with stashPages := [7, 8, 9] }
     (∀ c ∈ s.coresOf 1, (s.core c).ctl.stream = .idle) ∧
     (s.hbm.pickPages none (pagesFor (6144 * 3000) - 3)).length = pagesFor (6144 * 3000) - 3 ∧ pagesFor 0 ≤ 3) := by decide +kernel

/-- A region inside the first 16 GiB needs no new table, one beyond needs one, which is found while one of the 512 is free. -/
theorem test_tables_meet_their_hypotheses :
    (request 0x105 [(4, 0), (4, 3), (8, 2 * pageBytes)]).l1Wanted (net.part 1) = [] ∧
    (request 0x105 [(4, 0), (4, 3), (8, 2 ^ 34)]).l1Wanted (net.part 1) = [1] ∧ 1 ≤ net.l2Free.length ∧
    (net.modPart 2 fun q => { q with l1 := (List.range 512).map fun i => (i, some i) }).l2Free.length < 1 := by decide +kernel

def queueEntry (cls depth : Nat) : List (Nat × Nat) :=
  [(1, cls), (1, 1), (2, 1), (2, depth), (1, 4), (1, 1), (8, 0x4000), (4, 64), (2, 0), (2, 7), (4, 0), (4, 0)]

theorem test_queue_commands_meet_their_hypotheses :
    (let r := request 0x107 ([(1, 0), (3, 0), (4, 0xFFFEF)] ++ queueEntry 3 0)
     let d := (r.payload.drop 8).take 32
     let s := asking net 0 0x107 ([(1, 0), (3, 0), (4, 0xFFFEF)] ++ queueEntry 3 0)
     s.queue 0xFFFEF = none ∧ queueBad d (s.isRt 1) = none ∧ (queueOf d).part = 1 ∧ s.ncqOk (queueOf d) = true ∧
     s.areaOk (queueOf d) = true ∧ (queueOf d).pin = false ∧ s.groupRefuses (queueOf d) = false ∧
     ({ s with fabric := { s.fabric with qgroups := [((queueOf d).qgrp.toNat, some ⟨16, false, false, false, 0, List.replicate 16 9⟩)] } } : State).groupRefuses
       { queueOf d with cls := 3 } = true) ∧
    (let r := request 0x107 [(1, 3), (3, 0), (4, 6)]
     (net.ownQueue r 4).any (fun q => net.ncqOk q && net.areaOk q && !(q.isCq && net.ncqNames 6)) = true ∧ net.queue 66 = none) ∧
    (let s := net.setQueue 0xFFFF0 (queue 1)
     (s.ownQueue (request 0x107 [(1, 3), (3, 0), (4, 0xFFFF0)]) 4).isSome = true) ∧
    (∀ x ∈ [0, 1, 2, 3],
      (net.ownQueue (request 0x206 [(4, 5), (2, x)]) 0).any (fun q => q.isJq && (decide (q.ppos < q.dpos + ahead16 x q.dseq) == !(x == 2 || x == 3))) = true) ∧
    (let s := net.setQueue 6 { queue 4 with ppos := 5, items := [Item.fresh 3, Item.fresh 4] }
     (s.ownQueue (request 0x207 [(4, 6), (2, 5)]) 0).any (fun q => (q.abortHits 4).length == 1 && (q.abortHits 3).length == 2) = true ∧
     (net.ownQueue (request 0x207 [(4, 6), (2, 4)]) 0).any (fun q => (q.abortHits 4).isEmpty) = true) := by decide +kernel

theorem test_stream_commands_meet_their_hypotheses :
    (let p := [(1, 2), (3, 0), (4, 2), (4, 20), (8, 0x40), (4, 3), (4, 20), (8, 0x60)]
     let s := quiet.setQueue 20 (queue 0)
     (∀ i, i < 2 → s.startBad 1 (request 0x202 p).payload i = none ∧ s.mayStart 1 (Fin.ofNat 24 (startEnt (request 0x202 p).payload i).1) = true) ∧
     (let t := net.setQueue 20 (queue 0)
      t.startBad 1 (request 0x202 p).payload 1 = none ∧ t.mayStart 1 2 = false) ∧ s.longRuns 0 1 = false) ∧
    (net.core 2).part = some 1 ∧ (net.core 2).ctl.stream = .running ∧ (net.core 3).ctl.stream = .idle ∧ (net.core 3).part = some 1 ∧
    (net.core 4).part ≠ some 1 ∧ net.mayAbort 2 3 = false ∧ net.mayAbort 0 3 = true ∧
    (let s := asking net 3 0x301 []
     ((s.mb 3).busy.any fun q => q.seq == 9 && !q.committed && { q with wait := some [] }.committed) = true) ∧ (net.mb 3).busy = none ∧
    (request 0x999 []).wait = none ∧ mbClass (request 0x999 []).cmd.toNat (request 0x999 []).payload = none := by decide +kernel

/-- Two descriptors of PROGRAM_LOAD and their tables; the last entry is legal or not. -/
def loading (last : Nat) : State :=
  let write := fun (s : State) (a : Nat) (b : List Byte) => ({ s with hbm := s.hbm.writeVa (s.part 1) [] a b } : State)
  let s := write quiet 0x100 (fields [(2, 4), (2, 0), (4, 5), (4, 3), (4, 0), (2, 77), (2, 0), (4, 5), (4, last), (4, 0)])
  write s 0x200 (fields [(2, 3), (2, 5), (4, 7), (4, 8), (4, 0)])

def loadRequest : MbReq := request 0x201 [(2, 2), (14, 0), (2, 6), (2, 9), (4, 2), (8, 0x100), (2, 3), (2, 0), (4, 1), (8, 0x200)]

theorem test_program_load_meets_its_hypotheses : ∀ n ∈ [0, 1],
    let s := loading n
    let ds := (List.range 2).map (loadDescOf loadRequest.payload)
    let l := ds.zip (ds.map fun d => s.hbm.readVa (s.part 1) d.va d.bytes)
    (∀ i, i < 2 → descBad loadRequest.payload i = none) ∧ fieldLE loadRequest.payload 2 14 = 0 ∧ (∀ d ∈ ds, d.bad = none ∧ (s.part 1).checkRange d.va d.bytes .r = none) ∧ s.longRuns 0 1 = false ∧ s.noneRunning 1 = true ∧
    ((s.part 1).ue.steps.any UeStep.isOpen) = false ∧ s.hbm.ecc = [] ∧ net.noneRunning 1 = false ∧
    (match s.loadTables 1 l with
    | .ok _ => true
    | .error _ => false) = (n == 1) := by decide +kernel

theorem test_reads_meet_their_hypotheses :
    (∀ x ∈ [(0, 2), (1, 0), (6, 0), (7, 3), (8, 7)], indexBad x.1 x.2 = false) ∧ (net.core 2).part = some 1 ∧ net.hasOwner 0 = true ∧
    net.hasOwner 2 = false ∧ net.reg.report = none ∧
    (let s := net.modReg fun r => { r with report := some (List.replicate 32 0, [1]) }
     s.reg.report = some (padTo 32 ((request 0x305 [(32, 0), (4, 17440)]).payload.take 32), [1])) ∧
    fieldLE (request 0x305 [(32, 0), (4, 17440)]).payload 32 4 = 17440 ∧
    before32 net.reg.logs.ownerRead (ringRead [(3#32, [1#8])] 4 3 1 0).1 = true := by decide +kernel

/-- Partition 1 has closed step 7 of one shard with two state tensors. -/
def stateful : State :=
  let s := quiet.modPart 1 fun q => { q with cfg := some { cfg with compact := true }, ue := { q.ue with
    steps := [⟨7, 2, false, false, false, false, 0, 0, 0, 0, 0, 0, [], ⟨0, 0, false⟩, []⟩]
    shards := [⟨3, 3, 1, 0, 0x2000, 0, 0x4000, 0, 0, 32, 0, 0⟩] } }
  { s with hbm := s.hbm.writeVa (s.part 1) [] 0x2000 (List.replicate 64 1) }

/-- A CHECKPOINT or RESTORE of step 7 on the module itself, its region at 0x8000. -/
def imageRequest (cmd : Nat) : MbReq := request cmd [(4, 7), (2, stateful.moduleId.toNat), (2, 0), (8, 0x8000), (8, 20000)]

theorem test_checkpoints_meet_their_hypotheses :
    (let q := stateful.part 1
     stateful.noneRunning 1 = true ∧ stateful.longRuns 0 1 = false ∧
     q.ue.hasClosed 7 = true ∧ q.ue.hasClosed 8 = false ∧ q.ue.wasAborted 7 = false ∧ q.checkRange 0x8000 40000 .pw = none ∧
     q.checkRange 0x8000 40000 .r = none ∧ stateful.headerOurs 1 (List.replicate 32 0) = false ∧
     stateful.headerOurs 1 (stateful.imageHeader 1 7) = true ∧ fieldLE (stateful.imageHeader 1 7) 0 4 = 7) ∧
    (let b := (imageRequest 0x020B).payload
     fieldLE b 4 2 < 2 ^ 14 ∧ fieldLE b 4 2 = stateful.moduleId.toNat ∧ fieldLE b 6 2 = 0 ∧ fieldLE b 14 2 = 0 ∧ fieldLE b 8 6 = 0x8000 ∧
     fieldLE b 16 8 = 20000) ∧ (77 : Nat) ≠ stateful.moduleId.toNat ∧
    stateful.eng.lostMods.contains stateful.moduleId = false ∧ stateful.eng.lostMods.contains 77 = false ∧
    (stateful.modEng fun e => { e with lostMods := [net.moduleId] }).eng.lostMods.contains net.moduleId = true := by decide +kernel

theorem test_an_audit_meets_its_hypotheses :
    (let b := (request 0x020A [(1, 3), (1, 4), (2, 0), (2, 1), (2, 0), (8, 0x8000), (8, 64)]).payload
     let q := stateful.part 1
     let sbs := auditSbs (stateful.isCompact 1) 0 q.ue.shards
     fieldLE b 2 2 + fieldLE b 4 2 ≤ q.ue.shards.length ∧ fieldLE b 8 6 % 32 = 0 ∧ fieldLE b 0x10 8 = 64 ∧
     ∀ x ∈ (sbs.flatMap fun e => e.2.2.map fun t => (t.2, 2112)) ++ [(0x8000, 64)], q.checkRange x.1 x.2 .r = none) := by decide +kernel

theorem test_stored_state_is_clean : stateful.hbm.ecc = [] := (Hbm.writeVa_ecc _ [] _ _ _).trans (by decide +kernel)

/-- Where the tensor that the spec does not place lies on no mapped page, an image fits its half of the region and its tensors can
be read and written. -/
theorem test_an_image_fits (h : stateful.residuals 1 = []) : stateful.imageBytes 1 ≤ 20000 ∧
    (∀ x ∈ stateful.copyRuns 1, (stateful.part 1).checkRange x.1 x.2 .pr = none ∧ (stateful.part 1).checkRange x.1 x.2 .w = none) ∧
    ∀ b, (stateful.writeTensors 1 (stateful.copyRuns 1) b).1 = true := by
  have e : stateful.copyRuns 1 = stateful.stateRuns 1 := by simp [State.copyRuns, h]
  refine ⟨?_, ?_, fun b => State.writeTensors_clean _ _ _ _ test_stored_state_is_clean⟩
  · unfold State.imageBytes; rw [e]; decide +kernel
  · rw [e]; decide +kernel

/-! ### Witnesses: transport -/

theorem test_packets_arrive : net.Arrives (packet 1 []) 0 (session 77) ∧ (session 77).Fresh (packet 1 []) ∧
    (session 77).Fresh { packet 1 [] with psn := 1223 } := by decide +kernel

theorem test_packet_checks_meet_their_hypotheses :
    (Instr.dataReceive { packet 1 [] with tcrcOk := false }).packetOf = some { packet 1 [] with tcrcOk := false } ∧
    (packet 1 []).tcrcOk = true ∧ (packet 1 []).ver = 1 ∧ ({ packet 1 [] with ver := 2 } : Pkt).ver ≠ 1 ∧
    (Instr.keepaliveReceive (packet 3 [])).packetType ≠ tyOpen ∧ net.sess 0 = some (session 77) ∧ (session 77).peer ≠ 79 ∧
    (Instr.creditReceive (packet 7 [])).packetType = tyCredit ∧ (Instr.noticeSkip (packet 8 [])).packetType = tyNotice ∧
    net.Arrives { packet 1 [] with psn := 199 } 0 (session 77) ∧ (2 ^ 31 ≤ ((199 : BitVec 32) - 200).toNat) ∧
    1024 ≤ ((1224 : BitVec 32) - 200).toNat ∧ ((1224 : BitVec 32) - 200).toNat < 2 ^ 31 := by decide +kernel

/-- A session with eight packets under way from PSN 98, three of them behind what an ACK of 100 leaves, and an ACK owed. -/
def sending : Session := { session 77 with
  txPsn := 106, sinceAck := 3, ackedInWin := 61
  unacked := (List.range 8).map fun n => ⟨{ packet 1 [] with psn := BitVec.ofNat 32 (98 + n), smod := 0, dmod := 77 }, 0, false, false⟩ }

theorem test_acks_meet_their_hypotheses :
    (let s := net.setSess 0 (some sending)
     s.Arrives (packet 2 (fields [(8, 0b11100), (24, 0)])) 0 sending ∧ s.sess (0 : BitVec 13).toNat = some sending ∧
     sending.opened = true ∧ 0 < sending.sinceAck ∧ 8 ≤ sending.cwnd ∧ sending.cwnd ≤ 1024 ∧
     (sending.unacked.find? fun u => u.pkt.psn == 101 && !u.sacked).isSome = true) := by decide +kernel

/-- Session 4 is closed and its CLOSE not yet acknowledged. -/
def closed : State := net.modEng fun e => { e with closings := [(4, some { session 77 with
  unacked := [⟨{ packet 6 (List.replicate 32 0) with psn := 99 }, 0, false, false⟩] })] }

theorem test_closings_meet_their_hypotheses : closed.sess 4 = none ∧
    (closed.closing 4).any (fun d => d.unacked.length == 1 && d.part == 1 && d.peer == 77 && !d.hostBit &&
      d.unacked.all fun u => u.pkt.psn == 99) = true ∧
    before32 99 ({ packet 2 (List.replicate 32 0) with sess := 4 } : Pkt).apsn = true ∧
    before32 99 ({ packet 2 (List.replicate 32 0) with sess := 4, apsn := 99 } : Pkt).apsn = false ∧
    net.closing (packet 3 []).sess.toNat = none ∧ (boot 3).portsRun = false ∧ net.portsRun = true := by decide +kernel

/-- Partition 1 updates shard 0 and takes contributions for it in group 3. -/
def updating (c : List RCtx) : State := (net.modPart 1 fun q => { q with ue := { q.ue with shards := [⟨3, 3, 9, 0, 0x2000, 0, 0, 0, 0, 0, 0, 0⟩] } }).modEng fun e =>
  { e with ctxs := c }

def contribution : Pkt := { packet 1 (List.replicate 1056 7) with arg := 0x10000, dq := 0, ofs := 8 }

theorem test_messages_meet_their_hypotheses :
    net.Arrives (packet 1 (List.replicate 32 7)) 0 (session 77) ∧
    ((net.queue 6).any fun q => q.isRxp && !q.posted && q.part == 1 && q.room && q.slotFree q.ppos && q.items.isEmpty &&
      (((net.heardOn 0 (session 77) (packet 1 [])).writeQueue q (q.slotOff q.ppos) (List.replicate 32 7)).1)) = true ∧
    net.cached 6 = true ∧ (session 77).host = none ∧ (session 77).relay = false ∧ (packet 1 []).dq = 6 ∧ isMbQueue 6 = false ∧
    (packet 1 []).ret = false ∧ (packet 1 []).coll = 0 ∧ (Fmt.ofCode (packet 1 []).fmt).isSome = true ∧
    net.Arrives { packet 1 [] with coll := 6 } 0 (session 77) ∧ net.Arrives { packet 1 [] with fmt := 15 } 0 (session 77) ∧
    Fmt.ofCode 15 = none := by decide +kernel

theorem test_accepted_packets_meet_their_hypotheses :
    (let old : RCtx := ⟨1, 0, 8, 7, 3, 0, [78], []⟩
     (updating []).Arrives contribution 0 (session 77) ∧ (session 77).Fresh contribution ∧ bitsOf contribution.arg.toNat 16 3 = 1 ∧
     ((updating []).part 1).ue.shards[0]? = some ⟨3, 3, 9, 0, 0x2000, 0, 0, 0, 0, 0, 0, 0⟩ ∧
     ((updating []).cgroupOf 1 contribution.cgrp).any (fun g => !g.lost) = true ∧ ((updating []).part 1).ue.closed contribution.step = false ∧
     ((updating []).part 1).ue.recStep = [] ∧ contribution.ofs.toNat = 8 ∧ contribution.step = 7 ∧
     (updating [old]).Arrives contribution 0 (session 77) ∧ old.heard.contains 77 = false ∧ contribution.cgrp = 3 ∧
     (updating [old]).eng.ctxs.find? (fun x => x.part == 1 && x.shard == 0 && x.sb == 8 && x.step == 7) = some old) ∧
    (let c := packet 7 (fields [(4, 6), (4, 2), (4, 256), (20, 0)])
     net.Arrives c 0 (session 77) ∧ fieldLE c.payload 0 4 = 6 ∧ fieldLE c.payload 4 4 = 2 ∧ (session 77).a2aWait = [] ∧
     ({ c with coll := 3 } : Pkt).coll = 3 ∧ ((net.queue 6).any fun q => q.slotted) = true ∧
     fieldLE (packet 7 (fields [(4, 6), (28, 0)])).payload 4 4 = 0) := by decide +kernel

def opening (jobid : Nat) (smod : BitVec 14) : Pkt := { packet 4 (openPayload (BitVec.ofNat 32 jobid) 3) with smod := smod }

theorem test_sessions_meet_their_hypotheses :
    (opening 7 99).tcrcOk = true ∧ (opening 7 99).ver = 1 ∧ net.reg.midConflict = false ∧ (opening 7 99).host = false ∧
    net.partExists (opening 7 99).tpart = true ∧ (net.jobid 1).toNat = 7 ∧ (opening 7 99).jobid = 7 ∧ (opening 8 99).jobid = 8 ∧
    net.findSess 1 99 = none ∧ net.freeSess = some 2 ∧ net.findSess 1 77 = some 0 ∧ (session 77).opened = true ∧
    (opening 7 77).index = (session 77).peerSess ∧ (packet 5 []).sess.toNat = 0 ∧ (session 77).part = (packet 5 []).tpart ∧
    (session 77).peer = (packet 5 []).smod ∧ (session 77).hostBit = (packet 5 []).host ∧
    (∀ h ∈ [{ session 77 with host := some 5 }, { session 77 with relay := true }],
     h.hostBit = ({ packet 6 [] with host := true } : Pkt).host) ∧ net.portsRun = true ∧ (session 77).Fresh (packet 6 []) ∧
    fieldLE (packet 6 (fields [(4, 4), (28, 0)])).payload 0 4 = 4 ∧ net.refusing (opening 8 99) = none ∧
    (net.modEng fun e => { e with closings := [(4, some { session 99 with peerSess := (opening 8 99).index, opened := false })] }).refusing
      (opening 8 99) = some 4 ∧
    ((packet 6 []).psn - (session 77).rxNext).toNat < 1024 ∧ ¬(({ packet 6 [] with psn := 5000 } : Pkt).psn - (session 77).rxNext).toNat < 1024 := by
  decide +kernel

theorem test_a2a_meets_its_hypotheses :
    (let m : A2aMsg := ⟨0, 6, 3, 32, [⟨8, 0, false, 2, 5⟩, ⟨8, 1, false, 0, 5⟩, ⟨8, 2, false, 6, 5⟩], List.replicate 8 (List.replicate 32 1)⟩
     net.portsRun = true ∧ net.sess m.sess.toNat = some (session 77) ∧ (session 77).hostBit = false ∧ net.hbm.ecc = [] ∧ net.cached 6 = true ∧
     ((net.queue 6).any fun q => q.isRxp && !q.posted && q.part == 1 && !q.memCs && q.room && q.items.isEmpty && decide (8 * 32 = q.slotb)) = true ∧
     (net.cgroup 3).isSome = true ∧ (∀ r ∈ m.recs, r.refused = false) ∧ m.rows.length = (m.recs.map fun r => r.count.toNat).sum ∧
     (∀ row ∈ m.rows, row.length = m.rowb.toNat)) ∧
    (let r : A2aRec := ⟨6, 1, false, 2, 3⟩
     let i : Item := { Item.fresh 3 with closed := true, expect := some [77, 78], total := some 2, table := [⟨77, r, 1⟩] }
     let q := { queue 4 with ppos := 4, items := [i] }
     (net.setQueue 6 q).queue r.a2aq = some q ∧ q.items.find? (fun i => i.n % 65536 == r.item.toNat && i.expect.isSome) = some i ∧
     i.table.find? (fun t => t.record.j == r.j) = some ⟨77, r, 1⟩ ∧ ([List.replicate 32 1, List.replicate 32 2] : List (List Byte)).length = r.count.toNat) := by
  decide +kernel

/-- The owner's address, host 5 with a session, and module 77 heard. -/
def managed : State := (net.modReg fun r => { r with
  mpOwner := 0x1234, hosts := r.hosts.set none 5 (some ⟨2, 1, 0x7F, 0xFD⟩), heardMods := r.heardMods.set none 77 (some 2) }).setSess 2
    (some { session 0 with host := some 5 })

def segment (ofs : Nat) : MpSegment := ⟨0x1234, 2, 0, 1, BitVec.ofNat 16 ofs, 40, List.replicate 20 0⟩

theorem test_management_meets_its_hypotheses : managed.regRuns = true ∧ (managed.reg.heardMods.get none 77).isSome = true ∧
    (∀ n ∈ [14, 15], (managed.modReg fun r => { r with mpFrame := some [1], mpTries := n }).reg.mpTries = n) ∧
    managed.mpMay 0 0x1234 = true ∧ managed.mpMay 15 0x99 = true ∧ mpAsmFor (managed.mb 0).mpAsm (segment 20) = some ⟨0x1234, 1, 40, []⟩ ∧
    ((managed.modMb 0 fun b => { b with mpAsm := some ⟨0x77, 1, 40, []⟩ }).mb 0).mpAsm = some ⟨0x77, 1, 40, []⟩ := by decide +kernel

/-- A host's OPEN by its address, with and without a session of that host. -/
theorem test_host_openings_meet_their_hypotheses :
    (let s := managed.modReg fun r => { r with hosts := r.hosts.set none 6 (some ⟨9, 6, 0x7F, 0xFD⟩) }
     let k := { opening 7 99 with host := true }
     s.hostAt 2 = some 5 ∧ s.hostSess 5 = some 2 ∧ s.hostAt 9 = some 6 ∧ s.hostSess 6 = none ∧ s.hostAt 3 = none ∧ s.freeSess = some 3 ∧
     k.host = true ∧ (s.jobid k.tpart).toNat = k.jobid) := by decide +kernel

/-- A packet of host 5's relayed message, or of its answer, with a record of one operation, on a session with or without HOST. -/
def piece (answer relay last : Bool) (op : Nat) : Pkt := { packet 1 (permHeader 0 32 5 (if answer then 5 else 4) ++ fields [(1, op), (1, 9), (30, 0)]) with
  host := relay, coll := 5, last := last }

/-- Session 0 is the relay session with module 77, or that of partition 1 with it, and host 5's message waits for its answer. -/
def relaying (relay : Bool) : State := (managed.setSess 0 (some { session 77 with relay := relay })).modReg fun r => { r with
  relayed := [(0, ⟨5, 77, 1, 1, 9, 0, 0, []⟩)] }

/-- A module one direct link away. -/
def near : State := { managed with fabric := { managed.fabric with ports := managed.fabric.ports.mapIdx fun i q =>
  if i = 4 then { q with state := .upDirect, peerMid := 78 } else q } }

theorem test_relayed_messages_meet_their_hypotheses :
    (∀ b : Bool, ∀ r : Bool, ∀ o ∈ [1, 3],
      let k := piece b r true o
      let s := relaying r
      let d := { session 77 with relay := r }
      let bytes := (k.payload.drop 32).take (fieldLE k.payload 8 4)
      let a := (s.reg.relayFor 0 5 b k.msg).add k bytes
      s.Arrives k 0 d ∧ d.Fresh k ∧ d.host = none ∧ k.ret = false ∧ k.coll = 5 ∧ (Fmt.ofCode k.fmt).isSome = true ∧
      fieldLE k.payload 16 1 = (if b then 5 else 4) ∧ fieldLE k.payload 12 4 = 5 ∧ a.whole = true ∧
      ((s.reg.relayFor 0 5 b k.msg).add { k with last := false } bytes).whole = false ∧
      (hostMsgOf 5 s.moduleId 1 (Mem.readN a.data 0 (a.total.getD 0))).op.toNat = o ∧
      (s.reg.relayed.find? fun y => y.1 == 0 && y.2.host == 5 && hostBytes { y.2 with len := 0 } ==
        hostBytes { hostMsgOf 5 y.2.dmod y.2.tpart (Mem.readN a.data 0 (a.total.getD 0)) with len := 0, data := [] }).isSome = (o == 1)) ∧
    near.directTo 78 = some 4 ∧ near.directTo 79 = none ∧ near.eng.lostMods.contains 78 = false ∧ near.findSess 1 78 = some 1 ∧
    near.findRelay 78 = none ∧ near.partExists 1 = true ∧ near.partExists 2 = false ∧
    (near.modEng fun e => { e with lostMods := [78] }).eng.lostMods.contains 78 = true := by decide +kernel

/-- A relay's OPEN by a module next door and by one that is not; and a table of sessions that is full. -/
theorem test_relay_openings_meet_their_hypotheses :
    (let k := { opening 0 78 with host := true, coll := collRelay }
     (k.host && k.coll == collRelay) = true ∧ near.findRelay 78 = none ∧ near.freeSess = some 3 ∧ (near.directTo 78).isSome = true ∧
     near.directTo { k with smod := 79 }.smod = none ∧ near.refusing k = none ∧ near.reg.midConflict = false) := by decide +kernel

def hostRequest (op : Nat) (tpart : PartId) : HostMsg := ⟨5, net.moduleId, tpart, BitVec.ofNat 8 op, 9, 0x400, 64, List.replicate 64 3⟩

theorem test_host_messages_meet_their_hypotheses : managed.regRuns = true ∧
    managed.reg.hosts.get none 5 = some ⟨2, 1, 0x7F, 0xFD⟩ ∧ managed.hostSess 5 = some 2 ∧
    (∀ o ∈ [0, 1], HostEnt.allows ⟨2, 1, 0x7F, 0xFD⟩ (hostRequest 1 (Fin.ofNat 8 o)) = true) ∧
    HostEnt.allows ⟨2, 1, 0x7F, 0xFD⟩ (hostRequest 3 1) = false ∧ HostEnt.allows ⟨2, 1, 0x7F, 0xFF⟩ (hostRequest 3 1) = true ∧
    (hostRequest 4 1).op.toNat = 4 ∧ (hostRequest 2 1).dmod = managed.moduleId ∧ managed.hbm.ecc = [] ∧ managed.partExists 1 = true ∧
    (managed.part 1).checkRange 0x400 64 .pw = none ∧ (managed.part 1).checkRange 0x400 64 .pr = none := by decide +kernel

theorem test_codes_of_a_block_meet_their_hypotheses :
    0x80 ∈ (convBlock .f8a .rne false [.nan] []).2.1 ∧ 0x80 ∈ (convBlock .f8b .rne true [.inf false] []).2.1 ∧
    (convBlock .f4 .rne false [.fin false 0 0, .fin true 1 (-99)] []).2.1.any (fun c => (Fmt.decode .f4 c).isZero) = true ∧
    [Ext.fin false 0 0].any (fun x => !x.isFin || beyondB32 x) = false ∧ (Ext.fin false 0 0).isZero = true := by decide +kernel

/-- Partition 2 is real-time; both partitions have a gather that may be served. -/
def sharing : State := (shared.modPart 2 fun q => { q with cfg := some { cfg with rt := true, share := 4 }, ue := (shared.part 1).ue }).modEng fun e =>
  { e with gathers := [⟨1, some 0, 0, 0, 0, 2, 0, 6⟩, ⟨2, some 0, 0, 0, 0, 2, 0, 6⟩] }

theorem test_shares_meet_their_hypotheses : sharing.inShare pointColl collCap 1 = false ∧ sharing.inShare pointColl collCap 2 = true ∧
    (sharing.eng.gathers.any fun x => sharing.gatherReady x && sharing.inShare pointColl collCap x.part) = true ∧
    (sharing.modEng fun e => { e with gathers := e.gathers.take 1 }).eng.gathers.any
      (fun x => sharing.gatherReady x && sharing.inShare pointColl collCap x.part) = false ∧
    (routed 1).routerYields 1 = false ∧ (returned 0x80).routerYields 1 = false ∧ 8 ∈ (routed 1).eng.qcache := by decide +kernel

/-! ### Witnesses: how frames are disposed of -/

/-- Rule 3 with an action, for every frame, of partition 1 and queue group 4. -/
def ruled (action : Nat) : State := { steered with fabric := { steered.fabric with
  perfect := [], rules := [(3, some ⟨0, BitVec.ofNat 8 action, 1, 0, 0, 0, 0, 0, 0, 0xFFF, 4⟩)] } }

/-- An IPv4 frame to address 02:11:22:33:44:55 with a UDP datagram. -/
def datagram (port : Nat) (b : List Byte) : List Byte :=
  [0x02, 0x11, 0x22, 0x33, 0x44, 0x55, 1, 2, 3, 4, 5, 6, 8, 0, 0x45, 0] ++ bytesBE 2 (28 + b.length) ++
    [0, 0, 0, 0, 64, 17, 0, 0, 10, 0, 0, 1, 10, 0, 0, 2, 0x30, 0x39] ++ bytesBE 2 port ++ bytesBE 2 (8 + b.length) ++ [0, 0] ++ b

/-- The frame is legal, of no control protocol, and not forwarded. -/
def plain (s : State) (f : List Byte) : Bool :=
  let z := parseFrame f
  decide (64 ≤ f.length + 4 ∧ f.length + 4 ≤ 9216) && !isPause f z && !(decide (z.dst = dlcAddr) && (s.port 5).mode == 3) &&
    !(s.foreign z.dst && (s.port 5).fwdIn)

def carried : Pkt := { packet 3 (List.replicate 32 0) with dmod := net.moduleId }

theorem test_rules_meet_their_hypotheses : ∀ a ∈ [0, 1, 2, 3],
    let s := ruled a
    let f := datagram s.reg.tport.toNat (pktBytes carried)
    let z := parseFrame f
    s.still = true ∧ (s.port 5).receives 0 f = true ∧ plain s f = true ∧ isPtp f z = false ∧ isNeighbour f z = false ∧
    s.perfects = [] ∧ (s.firstRule 5 f z).map (·.1) = some 3 ∧ ((s.firstRule 5 f z).any fun r => r.2.action.toNat % 4 == a && r.2.part == 1) = true ∧
    (z.udp.bind fun u => if udpPort f u = s.reg.tport.toNat then pktOfBytes (udpPayload f u) else none) = some carried ∧
    (frame 60).length = 60 ∧ (s.firstRule 5 (frame 60) (parseFrame (frame 60))).map (·.1) = some 3 ∧ (parseFrame (frame 60)).udp = none := by
  decide +kernel

theorem test_control_frames_meet_their_hypotheses :
    (let f := datagram 319 (List.replicate 44 0)
     plain steered f = true ∧ (steered.port 5).receives 0 f = true ∧ isPtp f (parseFrame f) = true ∧ (steered.port 5).ptpEn = true) ∧
    (let f := patch (frame 60) 12 [0x08, 0x06]
     plain steered f = true ∧ (steered.port 5).receives 0 f = true ∧ isPtp f (parseFrame f) = false ∧ isNeighbour f (parseFrame f) = true) := by
  decide +kernel

/-- Port 5 forwards by a word for module 77; port 4 is up, with frames queued or not. -/
def crossing (word : Nat) (idle : Bool) : State :=
  let s := (withPort { locked .upSwitched with cfg := 0x7F }).setPort 4 { locked .upSwitched with
    subs := if idle then Port.reset.subs else (locked .upSwitched).subs }
  { s with fabric := { s.fabric with fwd := [(77, BitVec.ofNat 16 word)] } }

/-- A frame of 60 bytes to module 77. -/
def foreignFrame : List Byte := patch (frame 60) 0 [0x02, 0x4B, 0x44, 0, 0, 77]

/-- Words 0x11 and 0x15 forward to port 4 and to port 5 itself, 2 drops, 0 keeps. -/
theorem test_crossings_meet_their_hypotheses : (∀ w ∈ [0, 2, 0x11, 0x15], ∀ i : Bool,
      let s := crossing w i
      let z := parseFrame foreignFrame
      let v := s.fabric.fwd.get 0 (z.dst % 65536)
      s.still = true ∧ (s.port 5).receives 0 foreignFrame = true ∧ s.foreign z.dst = true ∧ (s.port 5).fwdIn = true ∧
      isPause foreignFrame z = false ∧ (v.extractLsb' 0 2).toNat = w % 4 ∧ (v.extractLsb' 2 4).toNat = w / 4 ∧ (v.extractLsb' 6 2).toNat = 0) ∧
    (∀ i : Bool,
      let s := crossing 0x11 i
      (s.port 4).state.isUp = true ∧ (s.port 4).subLanes 0 ≠ 0 ∧ (s.port 4).fwdBuf + 9216 ≤ 2 ^ 20 ∧
      (((s.port 4).sub 0).txq.isEmpty && decide ((s.port 4).subLanes 0 ≤ (s.port 5).subLanes 0)) = i) := by decide +kernel

/-- An assembled group: its queue 9 with no image or with one of a number; segment 7 of an image. -/
def assembling (image : Option Nat) : State :=
  let q := match image with
    | none => queue 5
    | some n => { queue 5 with ppos := 4, items := [{ Item.fresh 3 with asmItem := some n, total := some 100 }] }
  let s := steered.setQueue 9 q
  { s with fabric := { s.fabric with qgroups := [(4, some ⟨1, true, false, false, 0, [9]⟩)] } }

theorem test_segments_meet_their_hypotheses : ∀ n ∈ [none, some 7, some 8],
    let s := assembling n
    let f := datagram 99 (fields [(4, 7), (4, 32), (4, 100), (4, 0), (8, 5)])
    let z := parseFrame f
    s.still = true ∧ (s.port 5).receives 0 f = true ∧ plain s f = true ∧ isPtp f z = false ∧ isNeighbour f z = false ∧
    ((s.perfects.find? fun e => e.en && e.addr.toNat == z.dst && e.ports.getLsbD 5).map (·.qgrp.toNat)) = some 4 ∧
    ((s.fabric.qgroups.get none 4).any fun g => g.asm && g.pick f z == some 9) = true ∧ s.cached 9 = true ∧ 9 ∈ s.eng.qcache ∧
    ((s.queue 9).any fun d => (d.image.bind (·.asmItem)) == n && d.items.all fun x => decide (x.n < d.ppos)) = true ∧
    s.faulted 1 = false ∧ 16 ≤ ((z.udp.map (udpPayload f)).getD []).length ∧
    fieldLE ((z.udp.map (udpPayload f)).getD []) 0 4 = 7 := by decide +kernel

theorem test_queues_that_take_no_frame_meet_their_hypotheses :
    9 ∉ (steered.modEng fun e => { e with qcache := [] }).eng.qcache ∧
    (steered.modPart 1 fun q => { q with fault := some (5, 0) }).faulted 1 = true ∧
    ((steered.setQueue 9 { queue 5 with en := false }).queue 9).any (fun d => !steered.rxfOpen d) = true ∧
    (((steered.fabric.qgroups.get none 5).bind fun g => (g.pick (frame 60) (parseFrame (frame 60))).bind steered.queue) = none) := by
  decide +kernel

/-! ### Witnesses: descriptors, steps and what waits -/

theorem test_releases_of_a_faulted_core_meet_their_hypotheses : (net.core 2).part = some 1 ∧ net.faulted 1 = false ∧
    (net.modPart 1 fun q => { q with fault := some (5, 0) }).faulted 1 = true := by decide +kernel

/-- The codewords of queue 5's descriptor and of page 1's level-2 entry hold an error in two bits. -/
def broken : State := { net with hbm := { net.hbm with ecc := [(descWord 5, .double), (l2Addr 0 / 64, .double)] } }

theorem test_broken_tables_meet_their_hypotheses : broken.hbm.ecc.get .good (descWord 5) = .double ∧ (1, 1) ∉ broken.eng.tlb ∧
    (∃ w ∈ broken.walkWords 1 1, broken.hbm.ecc.get .good w = .double) ∧
    (∀ w ∈ broken.walkWords 1 1, broken.hbm.ecc.get .good w ≠ .single) ∧ 5 ∉ (broken.modEng fun e => { e with qcache := [] }).eng.qcache ∧
    (net.part 1).pages.get none (7 : BitVec 27).toNat = none ∧ net.hbm.ecc = [] := by decide +kernel

theorem test_refused_reads_meet_their_hypotheses :
    (let d : Xdesc := { desc 1 true false with smod := net.moduleId, saddr := 0x40000000 }
     ((net.part 1).under d.maps).checkRange d.saddr.toNat d.len .pr ≠ none) ∧ ({ desc 1 true false with smod := 77 } : Xdesc).smod ≠ net.moduleId := by
  decide +kernel

theorem test_copies_hold_an_update : net.copyHolds 1 7 = false ∧ (∀ r, (net.part 1).ue.stepOf 7 = some r → r.status ≠ 4) ∧
    (let s := net.setMb 0 { net.mb 0 with busy := some { request 0x20B [(4, 6)] with copy := .closing } }
     s.copyHolds 1 7 = true) ∧ 41 ∈ net.eng.qcache ∧ (net.part 1).checkRange 0x9000 16 .r = none := by decide +kernel

/-- A module in S4; one that is dark; and one that waits in BOOT_HALT or has failed. -/
theorem test_states_of_the_module_meet_their_hypotheses :
    (base.modAon fun a => { a with mstate := .s4 }).aon.mstate = .s4 ∧ (base.modAon fun a => { a with supply := .off }).powered = false ∧
    (base.modAon fun a => { a with mstate := .bootHalt }).pinsTaken = true ∧ (base.modAon fun a => { a with mstate := .failed }).pinsTaken = true := by
  decide +kernel

/-- Bytes 0, 1 and 24 of a request spoilt in turn under a right CRC: VER 2, RESP 1, INFO 5. -/
def sealed (o : Nat) (b : Byte) : List Byte :=
  let m := patch (mbMessage false 9 0x301 1 0 0 0 []) o [b]
  patch m 28 (bytesLE 4 (crc32c (patch m 28 (bytesLE 4 0))))

theorem test_spoilt_headers_meet_their_hypotheses : ∀ x ∈ [((0, 2) : Nat × Byte), (1, 1), (16, 5)],
    let s := holding .none (sealed x.1 x.2)
    let msg := headed s
    s.still = true ∧ (s.mb 2).busy = none ∧ (9 : BitVec 16) = (s.mb 2).lseq + 1 ∧ fieldLE (s.mb 2).reqArea 6 2 ≤ 4064 ∧ mbCrcOk msg = true ∧
    (decide (fieldLE msg 0 1 ≠ 1) = (x.1 == 0)) ∧ (decide (fieldLE msg 1 1 % 2 ≠ 0) = (x.1 == 1)) ∧
    (decide (fieldLE msg 16 8 ≠ 0) = (x.1 == 16)) := by decide +kernel

/-- A stream request whose RQ names no queue of the partition; and an owner that reads no entry. -/
theorem test_a_wrong_return_queue_meets_its_hypotheses : net.rqOk (Fin.ofNat 8 ((2 : MbId).val + 7)) 8 = false ∧
    net.rqOk (Fin.ofNat 8 ((2 : MbId).val + 7)) 0xABCDE = false := by decide +kernel

/-- A CHECKPOINT or RESTORE of step 7 at module 77 that waits for headers with some of them, or for an image. -/
def copying (cmd : Nat) (k : Copy) : State := stateful.setMb 0 { stateful.mb 0 with
  busy := some { request cmd [(4, 7), (2, 77), (2, 0), (8, 0x8000), (8, 20000)] with copy := k } }

theorem test_far_copies_meet_their_hypotheses :
    (∀ c ∈ [0x20B, 0x20C], ∀ k ∈ [Copy.idle, .probe 0 9 [], .probe 0 9 [(1, []), (0, stateful.imageHeader 1 7)], .probe 5 9 [], .fetch 0 9, .fetch 5 9],
      let s := copying c k
      let r := { request c [(4, 7), (2, 77), (2, 0), (8, 0x8000), (8, 20000)] with copy := k }
      s.Asks 0 c r ∧ s.longRuns 0 1 = false ∧ s.noneRunning 1 = true ∧ fieldLE r.payload 4 2 = 77) ∧ stateful.moduleId.toNat ≠ 77 ∧
    (stateful.sess 0).isSome = true ∧ stateful.sess 5 = none ∧
    stateful.imageOf 1 7 (stateful.imageHeader 1 7) [] = some 0 ∧ stateful.imageOf 1 8 (stateful.imageHeader 1 7) [] = none := by decide +kernel

/-! ### Witnesses: refused packets, wakes by MP, and no session left -/

theorem test_refused_packets_meet_their_hypotheses :
    (let d := { session 77 with refusing := [(200, 8)] }
     let s := net.setSess 0 (some d)
     s.Arrives (packet 1 []) 0 d ∧ d.refuses (packet 1 []).psn = true ∧ d.rxGot.contains (packet 1 []).psn = false ∧
     ((packet 1 []).psn - d.rxNext).toNat < 2 ^ 31) ∧
    (Instr.closeReceive (packet 6 (List.replicate 32 0))).packetType = tyClose ∧
    (Instr.openAckReceive (packet 5 (List.replicate 32 0))).packetType = tyOpenAck := by decide +kernel

theorem test_segments_wake_the_module : ∀ st ∈ [MState.s3, .s4],
    let s := managed.modAon fun a => { a with mstate := st }
    s.powered = true ∧ (segment 0).kind = 2 ∧ (segment 0).mb = 0 ∧ (segment 0).src = s.reg.mpOwner ∧ (segment 0).src ≠ 0 ∧
    s.trainingStale = false ∧ 2 ≤ s.aon.group := by decide +kernel

/-- With a session under every index there is none left. -/
theorem test_sessions_run_out : (near.modEng fun e => { e with
    sessions := (List.range 8192).map fun i => (i, some (session 77)) }).freeSess = none := by
  have h : (near.modEng fun e => { e with sessions := (List.range 8192).map fun i => (i, some (session 77)) }).sessions.map (·.1) =
      List.range 8192 := by
    simp [State.sessions, State.modEng, List.filterMap_map, Function.comp_def]
  unfold State.freeSess
  rw [h, List.find?_eq_none]
  intro i _
  simp only [List.contains_append, Bool.not_eq_true, Bool.and_eq_false_iff]
  by_cases g : i < 8192
  · left; simp [g]
  · right; simp [g]

/-! ### What commands do on a few states -/

theorem test_seat_starts_the_debounce : after .seatAssert (nextOf (exec .inputReturn State.reset) |>.getD State.reset) (·.hs.debouncing) = some true := by
  decide +kernel

theorem test_a_jump_moves_the_pc : after (.jump 2 (branch 0)) base (fun t => (t.core 2).ctl.pc) = some 0x1000 := by decide +kernel

theorem test_i2c_answers_at_the_addresses_of_its_slot :
    State.reset.i2cRead 0x47 0 = some 4 ∧ State.reset.i2cRead 0x47 7 = none ∧ State.reset.i2cRead 0x57 0 = some 0x4B ∧
    State.reset.i2cRead 0x56 0 = none := by decide +kernel

theorem test_an_undefined_opcode_halts : after (.badOpcode 2 20 hdr) base (fun t => (t.core 2).ctl.stream) = some .halted := by decide +kernel

theorem test_vec_adds : after (.vec 2 { vec true with vop := 2, s1k := true, s1 := 1, s2k := true, s2 := 2, len := 1 })
    (base.modMem 2 fun m => m.setLanes 512 [0x3F800000, 0]) (fun t => (t.core 2).mem.lane (3 * 512)) = some 0x3F800000 := by decide +kernel

theorem test_a_job_send_fills_an_item : after (.send 2 (sendLine 0)) net (fun t => (t.queue 5).map (·.ppos)) = some (some 4) := by decide +kernel

end Sys2Proof.Tests
end

/-! The reserved and negative-zero codes of the short formats (02 R25, R26). Two facts carry the proof: the code of a value that
a short format holds lies below 2^bits and is not 2^(bits-1), which is the reserved, negative-zero or NaN code of all of them
(`encode_short_lt`, `encode_short_ne_signBit`); and every conversion to a short format writes such a code or, in F8A, F8B and G8
only, the NaN (`narrow_short_cases`). -/

namespace Sys2Proof.Machine

/-! ### Significant bits -/

theorem bitLen_eq_size (n : Nat) : bitLen n = n.size := by
  refine eq_of_forall_ge_iff fun c => ?_
  rw [Nat.size_le, bitLen]
  split
  next h => simp [h]
  next h => rw [Nat.succ_le_iff, Nat.log2_lt h]

theorem bitLen_shiftLeft {n : Nat} (h : n ≠ 0) (k : Nat) : bitLen (n <<< k) = bitLen n + k := by
  rw [bitLen_eq_size, bitLen_eq_size, Nat.size_shiftLeft h]

theorem bitLen_shiftRight (n k : Nat) : bitLen (n >>> k) = bitLen n - k := by
  rw [bitLen_eq_size, bitLen_eq_size]
  refine eq_of_forall_ge_iff fun c => ?_
  rw [Nat.size_le, Nat.sub_le_iff_le_add, Nat.size_le, Nat.shiftRight_eq_div_pow,
    Nat.div_lt_iff_lt_mul (Nat.two_pow_pos k), pow_add]

theorem bitLen_mono {m n : Nat} (h : m ≤ n) : bitLen m ≤ bitLen n := by
  simpa only [bitLen_eq_size] using Nat.size_le_size h

theorem lt_two_pow_of_bitLen_le {n k : Nat} (h : bitLen n ≤ k) : n < 2 ^ k :=
  Nat.size_le.mp (bitLen_eq_size n ▸ h)

theorem two_pow_le_of_lt_bitLen {n k : Nat} (h : k < bitLen n) : 2 ^ k ≤ n :=
  Nat.lt_size.mp (bitLen_eq_size n ▸ h)

theorem bitLen_pos {n : Nat} (h : n ≠ 0) : 0 < bitLen n :=
  bitLen_eq_size n ▸ Nat.size_pos.mpr (Nat.pos_of_ne_zero h)

@[simp] theorem shiftI_zero_left (k : Int) : shiftI 0 k = 0 := by
  simp [shiftI]

theorem bitLen_shiftI {n : Nat} {k : Int} (h : n ≠ 0) (hk : 0 ≤ bitLen n + k) : (bitLen (shiftI n k) : Int) = bitLen n + k := by
  unfold shiftI
  split
  · rw [bitLen_shiftLeft h]; omega
  · rw [bitLen_shiftRight]; omega

/-! ### Codes of the values that a short format holds -/

/-- The format holds q * 2^l: it is zero, or it lies on the format's grid and has no more integer bits than the largest finite value. -/
def Fmt.Holds (f : Fmt) (q : Nat) (l : Int) : Prop :=
  q ≠ 0 → f.emin ≤ l ∧ (bitLen q : Int) + l ≤ bitLen f.maxFin.1 + f.maxFin.2

theorem Fmt.Holds.zero (f : Fmt) (l : Int) : f.Holds 0 l := fun h => absurd rfl h

theorem Fmt.holds_maxFin (f : Fmt) : f.Holds f.maxFin.1 f.maxFin.2 := by
  refine fun _ => ⟨?_, le_rfl⟩
  cases f <;> decide

theorem signedAt_false (m : Nat) (e g : Int) : signedAt false m e g = (m <<< (e - g).toNat : Nat) := rfl

/-- A value on the grid that does not exceed the largest finite value is one the format holds. -/
theorem Fmt.holds_of_not_beyond {f : Fmt} {q : Nat} {l : Int} (hl : f.emin ≤ l)
    (h : ¬ signedAt false q l (min l f.maxFin.2) > signedAt false f.maxFin.1 f.maxFin.2 (min l f.maxFin.2)) : f.Holds q l := by
  refine fun hq => ⟨hl, ?_⟩
  have hmax : f.maxFin.1 ≠ 0 := by cases f <;> decide
  rw [signedAt_false, signedAt_false, gt_iff_lt, not_lt, Int.ofNat_le] at h
  have hb := bitLen_mono h
  rw [bitLen_shiftLeft hq, bitLen_shiftLeft hmax] at hb
  omega

/-- Q8 and Q4: the grid is the integers, and the largest value fills every bit below the top one (R26). -/
theorem Fmt.int_layout {f : Fmt} (hi : f.isInt = true) :
    f.emin = 0 ∧ (bitLen f.maxFin.1 : Int) + f.maxFin.2 = ((f.bits - 1 : Nat) : Int) := by
  cases f <;> revert hi <;> decide

/-- The short floating-point formats: fraction and exponent fill the bits below the sign, and the largest finite value has the
all-ones exponent field (R23, R24). -/
theorem Fmt.float_layout {f : Fmt} (hf : f.isLong = false) (hi : f.isInt = false) :
    f.emin = 1 - (f.bias : Int) - f.frac ∧ f.frac ≤ f.bits - 1 ∧
    (bitLen f.maxFin.1 : Int) + f.maxFin.2 + f.bias = ((2 ^ (f.bits - 1 - f.frac) : Nat) : Int) := by
  cases f <;> revert hf hi <;> decide

theorem Fmt.bits_short (f : Fmt) : 2 ^ f.bits = 2 * 2 ^ (f.bits - 1) := by
  cases f <;> rfl

/-- R25: zero is code 0 in every short format. -/
theorem encode_short_zero {f : Fmt} (hf : f.isLong = false) (s : Bool) (l : Int) : Fmt.encode f s 0 l = 0 := by
  simp [Fmt.encode, hf]

theorem encode_int_pos {f : Fmt} (hi : f.isInt = true) (q : Nat) (l : Int) : Fmt.encode f false q l = shiftI q l := by
  simp [Fmt.encode, hi]

theorem encode_int_neg {f : Fmt} (hi : f.isInt = true) (q : Nat) (l : Int) :
    Fmt.encode f true q l = (2 ^ f.bits - Fmt.encode f false q l) % 2 ^ f.bits := by
  simp [Fmt.encode, hi]

theorem encode_float_neg {f : Fmt} (hi : f.isInt = false) {q : Nat} (hq : q ≠ 0) (l : Int) :
    Fmt.encode f true q l = 2 ^ (f.bits - 1) + Fmt.encode f false q l := by
  simp only [Fmt.encode, hi, hq, Bool.false_eq_true, if_false, if_true, Nat.zero_add]
  split
  · rw [Nat.add_assoc]
  · rfl

/-- The code of a positive value of an integer format is neither 0 nor as large as the reserved code. -/
theorem encode_int_bounds {f : Fmt} (hi : f.isInt = true) {q : Nat} {l : Int} (hq : q ≠ 0) (h : f.Holds q l) :
    0 < Fmt.encode f false q l ∧ Fmt.encode f false q l < 2 ^ (f.bits - 1) := by
  obtain ⟨hl, htop⟩ := h hq
  obtain ⟨hmin, hmax⟩ := Fmt.int_layout hi
  have hpos := bitLen_pos hq
  have hb : (bitLen (shiftI q l) : Int) = bitLen q + l := bitLen_shiftI hq (by omega)
  rw [encode_int_pos hi]
  exact ⟨two_pow_le_of_lt_bitLen (k := 0) (by omega), lt_two_pow_of_bitLen_le (by omega)⟩

/-- The code of a positive value of a short floating-point format is neither 0 nor reaches the sign bit: a normal value has a
non-zero exponent field and a fraction below 2^frac, a subnormal value a non-zero fraction. -/
theorem encode_float_bounds {f : Fmt} (hf : f.isLong = false) (hi : f.isInt = false) {q : Nat} {l : Int} (hq : q ≠ 0)
    (h : f.Holds q l) : 0 < Fmt.encode f false q l ∧ Fmt.encode f false q l < 2 ^ (f.bits - 1) := by
  obtain ⟨hl, htop⟩ := h hq
  obtain ⟨hmin, hfrac, hmax⟩ := Fmt.float_layout hf hi
  have hpos := bitLen_pos hq
  have hsplit : 2 ^ (f.bits - 1) = 2 ^ (f.bits - 1 - f.frac) * 2 ^ f.frac := by rw [← pow_add]; congr 1; omega
  simp only [Fmt.encode, hi, hq, Bool.false_eq_true, if_false, Nat.zero_add]
  split
  next hnormal =>
    set ex := ((bitLen q : Int) - 1 + l + f.bias).toNat with hex
    set m := shiftI q (l - ((bitLen q : Int) - 1 + l - f.frac))
    have hb : (bitLen m : Int) = bitLen q + (l - ((bitLen q : Int) - 1 + l - f.frac)) := bitLen_shiftI hq (by omega)
    have hlow : 2 ^ f.frac ≤ m := two_pow_le_of_lt_bitLen (by omega)
    have hhigh : m < 2 ^ (f.frac + 1) := lt_two_pow_of_bitLen_le (by omega)
    have hone : 2 ^ f.frac ≤ ex * 2 ^ f.frac := Nat.le_mul_of_pos_left _ (by omega)
    have hlast : (ex + 1) * 2 ^ f.frac ≤ 2 ^ (f.bits - 1 - f.frac) * 2 ^ f.frac := Nat.mul_le_mul_right _ (by omega)
    rw [pow_succ] at hhigh
    rw [add_mul, one_mul] at hlast
    have := Nat.two_pow_pos f.frac
    omega
  next hsub =>
    have hb : (bitLen (shiftI q (l - f.emin)) : Int) = bitLen q + (l - f.emin) := bitLen_shiftI hq (by omega)
    have hhigh : shiftI q (l - f.emin) < 2 ^ f.frac := lt_two_pow_of_bitLen_le (by omega)
    exact ⟨two_pow_le_of_lt_bitLen (k := 0) (by omega), hhigh.trans_le (Nat.pow_le_pow_right two_pos hfrac)⟩

theorem encode_short_bounds {f : Fmt} (hf : f.isLong = false) {q : Nat} {l : Int} (hq : q ≠ 0) (h : f.Holds q l) :
    0 < Fmt.encode f false q l ∧ Fmt.encode f false q l < 2 ^ (f.bits - 1) := by
  cases hi : f.isInt with
  | true => exact encode_int_bounds hi hq h
  | false => exact encode_float_bounds hf hi hq h

/-- The codes of a short format's values: within its bits, and never the code whose top bit alone is set. -/
theorem encode_short_lt_and_ne {f : Fmt} (hf : f.isLong = false) (s : Bool) {q : Nat} {l : Int} (h : f.Holds q l) :
    Fmt.encode f s q l < 2 ^ f.bits ∧ Fmt.encode f s q l ≠ 2 ^ (f.bits - 1) := by
  have hbits := f.bits_short
  have htop := Nat.two_pow_pos (f.bits - 1)
  by_cases hq : q = 0
  · subst hq
    rw [encode_short_zero hf]
    omega
  · have hb := encode_short_bounds hf hq h
    cases s with
    | false => omega
    | true =>
      cases hi : f.isInt with
      | true => rw [encode_int_neg hi, Nat.mod_eq_of_lt (by omega)]; omega
      | false => rw [encode_float_neg hi hq]; omega

/-! ### What a narrowing gives -/

/-- F8A, F8B and G8, whose elements are F8B: the formats with the NaN 0x80 (R25). -/
def Fmt.hasNan (f : Fmt) : Bool := f == .f8a || f == .f8b || f == .g8

/-- A code that stands for a value of the format. -/
def Fmt.Codes (f : Fmt) (c : Nat) : Prop := ∃ s q l, f.Holds q l ∧ c = Fmt.encode f s q l

theorem Fmt.Codes.maxCode (f : Fmt) (s : Bool) : f.Codes (Fmt.maxCode f s) := ⟨s, _, _, f.holds_maxFin, rfl⟩

theorem Fmt.Codes.zero {f : Fmt} (hf : f.isLong = false) : f.Codes 0 :=
  ⟨false, 0, 0, Fmt.Holds.zero f 0, (encode_short_zero hf false 0).symm⟩

theorem Fmt.Codes.lt {f : Fmt} {c : Nat} (hf : f.isLong = false) (h : f.Codes c) : c < 2 ^ f.bits := by
  obtain ⟨s, q, l, hh, rfl⟩ := h
  exact (encode_short_lt_and_ne hf s hh).1

theorem Fmt.Codes.ne_signBit {f : Fmt} {c : Nat} (hf : f.isLong = false) (h : f.Codes c) : c ≠ 2 ^ (f.bits - 1) := by
  obtain ⟨s, q, l, hh, rfl⟩ := h
  exact (encode_short_lt_and_ne hf s hh).2

theorem nonfiniteResult_short {f : Fmt} (hf : f.isLong = false) (x : Ext) :
    f.Codes (nonfiniteResult f x) ∨ f.hasNan = true ∧ nonfiniteResult f x = 0x80 := by
  cases hn : f.hasNan with
  | true => exact .inr ⟨rfl, if_pos hn⟩
  | false =>
    left
    have hmax : nonfiniteResult f x = Fmt.maxCode f (match x with | .inf s => s | _ => false) :=
      (if_neg (ne_true_of_eq_false hn)).trans (if_neg (ne_true_of_eq_false hf))
    exact hmax ▸ .maxCode f _

theorem overflowResult_short {f : Fmt} (hf : f.isLong = false) (rnd : Rnd) (satNan s : Bool) :
    f.Codes (overflowResult f rnd satNan s) ∨ f.hasNan = true ∧ satNan = true ∧ overflowResult f rnd satNan s = 0x80 := by
  cases hn : f.hasNan with
  | true =>
    cases satNan with
    | true => exact .inr ⟨rfl, rfl, if_pos hn⟩
    | false =>
      have hmax : overflowResult f rnd false s = Fmt.maxCode f s := if_pos hn
      exact .inl (hmax ▸ .maxCode f s)
  | false =>
    have hmax : overflowResult f rnd satNan s = Fmt.maxCode f s :=
      (if_neg (ne_true_of_eq_false hn)).trans (if_neg (ne_true_of_eq_false hf))
    exact .inl (hmax ▸ .maxCode f s)

/-- A finite non-zero input is rounded to some q * 2^l on the format's grid, and its range is then applied (R35). -/
theorem narrow_fin (f : Fmt) (rnd : Rnd) (satNan : Bool) (r : Nat) (s : Bool) {m : Nat} (hm : m ≠ 0) (e : Int) :
    ∃ (q : Nat) (l : Int), f.emin ≤ l ∧ narrow f rnd satNan r (.fin s m e) =
      if signedAt false q l (min l f.maxFin.2) > signedAt false f.maxFin.1 f.maxFin.2 (min l f.maxFin.2)
      then (overflowResult f rnd satNan s, cfOverflow)
      else (Fmt.encode f s q l, if q = 0 then cfUnderflow else 0) := by
  simp only [narrow, if_neg hm, decide_eq_true_eq]
  refine ⟨_, _, ?_, rfl⟩
  split
  next hi => simp [Fmt.emin, hi]
  next => exact le_max_right _ _

/-- R35: a narrowing answers a non-finite input, a value beyond range, or the code of the rounded value, which is zero when the
input is and when it reports an underflow. -/
theorem narrow_cases (f : Fmt) (rnd : Rnd) (satNan : Bool) (r : Nat) (x : Ext) :
    (x.isFin = false ∧ narrow f rnd satNan r x = (nonfiniteResult f x, cfNonfinite)) ∨
    (x.isZero = false ∧ ∃ s, narrow f rnd satNan r x = (overflowResult f rnd satNan s, cfOverflow)) ∨
    ∃ s q l fl, f.Holds q l ∧ narrow f rnd satNan r x = (Fmt.encode f s q l, fl) ∧ (x.isZero = true ∨ fl = cfUnderflow → q = 0) := by
  cases x with
  | nan => exact .inl ⟨rfl, rfl⟩
  | inf s => exact .inl ⟨rfl, rfl⟩
  | fin s m e =>
    right
    by_cases hm : m = 0
    · exact .inr ⟨s, 0, 0, 0, .zero f 0, by simp [narrow, hm], fun _ => rfl⟩
    · obtain ⟨q, l, hl, hn⟩ := narrow_fin f rnd satNan r s hm e
      split at hn
      next => exact .inl ⟨by simpa [Ext.isZero] using hm, s, hn⟩
      next hbig =>
        refine .inr ⟨s, q, l, _, Fmt.holds_of_not_beyond hl hbig, hn, ?_⟩
        rintro (hz | hunder)
        · exact absurd (by simpa [Ext.isZero] using hz) hm
        · by_contra hq
          simp [hq, cfUnderflow] at hunder

/-- A conversion to a short format writes the code of a value of the format, or the NaN for a non-finite input or an overflow
under SAT_NAN. -/
theorem narrow_short_cases {f : Fmt} (hf : f.isLong = false) (rnd : Rnd) (satNan : Bool) (r : Nat) (x : Ext) :
    f.Codes (narrow f rnd satNan r x).1 ∨ f.hasNan = true ∧ (narrow f rnd satNan r x).1 = 0x80 ∧
      (x.isFin = false ∨ satNan = true ∧ (narrow f rnd satNan r x).2 = cfOverflow) := by
  obtain ⟨hx, hn⟩ | ⟨-, s, hn⟩ | ⟨s, q, l, fl, hh, hn, -⟩ := narrow_cases f rnd satNan r x
  · rw [hn]
    exact (nonfiniteResult_short hf x).imp_right fun ⟨hnan, hc⟩ => ⟨hnan, hc, .inl hx⟩
  · rw [hn]
    exact (overflowResult_short hf rnd satNan s).imp_right fun ⟨hnan, hsat, hc⟩ => ⟨hnan, hc, .inr ⟨hsat, rfl⟩⟩
  · rw [hn]
    exact .inl ⟨s, q, l, hh, rfl⟩

/-- R25: a result that is zero, or rounds to zero, is code 0. -/
theorem narrow_short_eq_zero {f : Fmt} (hf : f.isLong = false) {rnd : Rnd} {satNan : Bool} {r : Nat} {x : Ext}
    (h : x.isZero = true ∨ (narrow f rnd satNan r x).2 = cfUnderflow) : (narrow f rnd satNan r x).1 = 0 := by
  obtain ⟨hx, hn⟩ | ⟨hx, s, hn⟩ | ⟨s, q, l, fl, -, hn, hz⟩ := narrow_cases f rnd satNan r x
  · have hxz : x.isZero = false := by cases x with
      | fin => exact absurd hx (by simp [Ext.isFin])
      | _ => rfl
    simp [hn, hxz, cfNonfinite, cfUnderflow] at h
  · simp [hn, hx, cfOverflow, cfUnderflow] at h
  · rw [hn] at h ⊢
    rw [hz h, encode_short_zero hf]

/-! ### The elements of a block -/

@[simp] theorem Ext.isFin_scale (x : Ext) (k : Int) : (x.scale k).isFin = x.isFin := by
  cases x <;> rfl

@[simp] theorem Ext.isZero_scale (x : Ext) (k : Int) : (x.scale k).isZero = x.isZero := by
  cases x <;> rfl

/-- An element of a block is the narrowing of one of its scaled inputs, and the block has that narrowing's flags. -/
theorem exists_narrow_of_mem_convBlockElems {f : Fmt} {rnd : Rnd} {satNan : Bool} {e8 : Nat} {xs : List Ext} {rs : List Nat}
    {c : Nat} (hc : c ∈ (convBlockElems f rnd satNan e8 xs rs).1) : ∃ x ∈ xs, ∃ r,
      let n := narrow f rnd satNan r (x.scale (127 - (e8 : Int)))
      c = n.1 ∧ ∀ i, n.2.testBit i = true → (convBlockElems f rnd satNan e8 xs rs).2.testBit i = true := by
  induction xs generalizing rs with
  | nil => exact absurd hc (List.not_mem_nil)
  | cons x xs ih =>
    obtain hhead | hc := List.mem_cons.mp hc
    · exact ⟨x, List.mem_cons_self, rs.headD 0, hhead, fun i hi => by simp only [convBlockElems, Nat.testBit_or, hi, Bool.true_or]⟩
    · obtain ⟨y, hy, r, hn, hflags⟩ := ih hc
      exact ⟨y, List.mem_cons_of_mem x hy, r, hn, fun i hi => by simp only [convBlockElems, Nat.testBit_or, hflags i hi, Bool.or_true]⟩

theorem convBlockElems_getD_of_isZero {f : Fmt} (hf : f.isLong = false) {rnd : Rnd} {satNan : Bool} {e8 : Nat} {xs : List Ext}
    {rs : List Nat} {i : Nat} (h : (xs.getD i .nan).isZero = true) : (convBlockElems f rnd satNan e8 xs rs).1.getD i 1 = 0 := by
  induction xs generalizing i rs with
  | nil => simp [Ext.isZero] at h
  | cons x xs ih =>
    cases i with
    | zero => exact narrow_short_eq_zero hf (.inl (by simpa using h))
    | succ i => exact ih (by simpa using h)

/-- R31 under R25 and R26: an element of a block is the code of a value of the format, or the NaN of a block with a non-finite
input or with an overflow under SAT_NAN. -/
theorem convBlock_short_cases {f : Fmt} (hf : f.isLong = false) {rnd : Rnd} {satNan : Bool} {xs : List Ext} {rs : List Nat}
    {c : Nat} (hc : c ∈ (convBlock f rnd satNan xs rs).2.1) :
    f.Codes c ∨ f.hasNan = true ∧ c = 0x80 ∧ (xs.any (fun x => !x.isFin || beyondB32 x) = true ∨
      satNan = true ∧ (convBlock f rnd satNan xs rs).2.2.testBit 0 = true) := by
  unfold convBlock at hc ⊢
  split at hc
  next hbad =>
    obtain ⟨-, -, rfl⟩ := List.mem_map.mp hc
    cases hn : f.hasNan with
    | true => exact .inr ⟨rfl, if_pos hn, .inl hbad⟩
    | false => exact .inl (by rw [if_neg (by simpa [Fmt.hasNan] using hn)]; exact .zero hf)
  next hfin =>
    rw [if_neg hfin]
    split at hc
    next =>
      obtain ⟨-, -, rfl⟩ := List.mem_map.mp hc
      exact .inl (.zero hf)
    next hz =>
      rw [if_neg hz]
      obtain ⟨x, hx, r, rfl, hflags⟩ := exists_narrow_of_mem_convBlockElems hc
      refine (narrow_short_cases hf rnd satNan r _).imp_right fun ⟨hnan, h80, hwhy⟩ => ⟨hnan, h80, .inr ?_⟩
      obtain hx' | ⟨hsat, hover⟩ := hwhy
      · exact absurd (List.any_eq_true.mpr ⟨x, hx, by simp [(Ext.isFin_scale x _).symm.trans hx']⟩) hfin
      · exact ⟨hsat, hflags 0 (by rw [hover]; rfl)⟩

theorem convBlock_getD_of_isZero {f : Fmt} (hf : f.isLong = false) {rnd : Rnd} {satNan : Bool} {xs : List Ext} {rs : List Nat}
    {i : Nat} (hfin : xs.any (fun x => !x.isFin || beyondB32 x) = false) (h : (xs.getD i .nan).isZero = true) :
    (convBlock f rnd satNan xs rs).2.1.getD i 1 = 0 := by
  rw [convBlock, if_neg (by simp [hfin])]
  split
  next =>
    have hi : i < xs.length := by
      by_contra hi
      simp [List.getD_eq_getElem?_getD, not_lt.mp hi, Ext.isZero] at h
    simp [List.getD_eq_getElem?_getD, hi]
  next => exact convBlockElems_getD_of_isZero hf h

/-! ### Reading the codes -/

/-- R23 to R25: the fields of a short floating-point code and the value that they give. -/
theorem decode_float {f : Fmt} (hf : f.isLong = false) (hi : f.isInt = false) (c : Nat) : Fmt.decode f c =
    if (f.hasNan && c % 256 == 0x80) = true then .nan
    else if bitsOf c f.frac (f.bits - 1 - f.frac) = 0 then
      (if bitsOf c 0 f.frac = 0 then .fin false 0 0 else .fin (bitsOf c (f.bits - 1) 1 == 1) (bitsOf c 0 f.frac) f.emin)
    else .fin (bitsOf c (f.bits - 1) 1 == 1) (2 ^ f.frac + bitsOf c 0 f.frac)
      ((bitsOf c f.frac (f.bits - 1 - f.frac) : Int) - 1 + f.emin) := by
  cases f <;> simp [Fmt.decode, Fmt.hasNan, Fmt.isLong, Fmt.isInt] at hf hi ⊢

/-- R26: an integer code reads as two's complement, the reserved code as zero. -/
theorem decode_int {f : Fmt} (hi : f.isInt = true) {c : Nat} (hc : c < 2 ^ f.bits) : Fmt.decode f c =
    if c = 2 ^ (f.bits - 1) then .zero else if c < 2 ^ (f.bits - 1) then .fin false c 0 else .fin true (2 ^ f.bits - c) 0 := by
  cases f with
  | q8 => simp only [Fmt.decode, Nat.mod_eq_of_lt (show c < 256 from hc)]; rfl
  | q4 => simp only [Fmt.decode, Nat.mod_eq_of_lt (show c < 16 from hc)]; rfl
  | _ => exact absurd hi (by decide)

theorem decode_int_reserved {f : Fmt} (hi : f.isInt = true) : Fmt.decode f (2 ^ (f.bits - 1)) = .zero := by
  have htop := Nat.two_pow_pos (f.bits - 1)
  rw [decode_int hi (by rw [f.bits_short]; omega), if_pos rfl]

theorem decode_int_nonneg {f : Fmt} (hi : f.isInt = true) {c : Nat} (hc : c < 2 ^ (f.bits - 1)) :
    Fmt.decode f c = .fin false c 0 := by
  rw [decode_int hi (by rw [f.bits_short]; omega), if_neg hc.ne, if_pos hc]

theorem decode_int_neg {f : Fmt} (hi : f.isInt = true) {c : Nat} (hlow : 2 ^ (f.bits - 1) < c) (hc : c < 2 ^ f.bits) :
    Fmt.decode f c = .fin true (2 ^ f.bits - c) 0 := by
  rw [decode_int hi hc, if_neg hlow.ne', if_neg hlow.not_gt]

/-- R25: no short floating-point code reads as a negative zero. -/
theorem decode_float_ne_neg_zero {f : Fmt} (hf : f.isLong = false) (hi : f.isInt = false) (c : Nat) (e : Int) :
    Fmt.decode f c ≠ .fin true 0 e := by
  rw [decode_float hf hi]
  split
  · exact Ext.noConfusion
  split
  · split
    next => simp
    next hm => simp [hm]
  · simp

/-- R23: a short floating-point code reads as zero only if its exponent and fraction fields are zero. -/
theorem mod_eq_zero_of_decode_float_isZero {f : Fmt} (hf : f.isLong = false) (hi : f.isInt = false) {c : Nat}
    (h : (Fmt.decode f c).isZero = true) : c % 2 ^ (f.bits - 1) = 0 := by
  rw [decode_float hf hi] at h
  split at h
  · exact absurd h Bool.false_ne_true
  split at h
  next hex =>
    split at h
    next hm =>
      obtain ⟨-, hfrac, -⟩ := Fmt.float_layout hf hi
      have hsplit : 2 ^ (f.bits - 1) = 2 ^ f.frac * 2 ^ (f.bits - 1 - f.frac) := by rw [← pow_add]; congr 1; omega
      rw [bitsOf, Nat.shiftRight_eq_div_pow] at hex
      rw [bitsOf, Nat.shiftRight_zero] at hm
      rw [hsplit, Nat.mod_mul, hex, hm, Nat.mul_zero]
    next hm => exact absurd (by simpa [Ext.isZero] using h) hm
  · simp [Ext.isZero] at h

theorem eq_zero_of_decode_int_isZero {f : Fmt} (hi : f.isInt = true) {c : Nat} (hc : c < 2 ^ f.bits)
    (hne : c ≠ 2 ^ (f.bits - 1)) (h : (Fmt.decode f c).isZero = true) : c = 0 := by
  rw [decode_int hi hc, if_neg hne] at h
  split at h
  · simpa [Ext.isZero] using h
  · simp only [Ext.isZero, beq_iff_eq] at h
    omega

/-- A code that a conversion writes for a value reads as zero only if it is code 0. -/
theorem Fmt.Codes.eq_zero_of_isZero {f : Fmt} (hf : f.isLong = false) {c : Nat} (hcode : f.Codes c)
    (h : (Fmt.decode f c).isZero = true) : c = 0 := by
  have hlt := hcode.lt hf
  have hne := hcode.ne_signBit hf
  cases hi : f.isInt with
  | true => exact eq_zero_of_decode_int_isZero hi hlt hne h
  | false =>
    obtain ⟨k, rfl⟩ := Nat.dvd_of_mod_eq_zero (mod_eq_zero_of_decode_float_isZero hf hi h)
    rw [f.bits_short, Nat.mul_comm 2] at hlt
    have hk := Nat.lt_of_mul_lt_mul_left hlt
    interval_cases k
    · rfl
    · exact absurd (Nat.mul_one _) hne

theorem decode_nan_of_hasNan {f : Fmt} (hn : f.hasNan = true) : Fmt.decode f 0x80 = .nan := by
  cases f <;> revert hn <;> decide

/-! ### The statement -/

theorem Fmt.short_of_f8 {f : Fmt} (h : f = .f8a ∨ f = .f8b) : f.isLong = false ∧ f.isInt = false ∧ f.hasNan = true ∧ f.bits = 8 := by
  obtain rfl | rfl := h <;> decide

/-- Q8, Q4, F6 and F4 have no NaN, so what a conversion to them writes is the code of a value. -/
theorem ne_signBit_of_codes_or_nan {f : Fmt} (h : f = .q8 ∨ f = .q4 ∨ f = .f6 ∨ f = .f4) {c : Nat} {p : Prop}
    (hc : f.Codes c ∨ f.hasNan = true ∧ p) : c ≠ 2 ^ (f.bits - 1) := by
  have ⟨hf, hn⟩ : f.isLong = false ∧ f.hasNan = false := by
    obtain rfl | rfl | rfl | rfl := h <;> decide
  exact (hc.resolve_right fun ⟨hn', _⟩ => ne_true_of_eq_false hn hn').ne_signBit hf

theorem f8_not_codes_0x80 {f : Fmt} (h : f = .f8a ∨ f = .f8b) : ¬ f.Codes 0x80 := by
  obtain ⟨hf, -, -, hbits⟩ := Fmt.short_of_f8 h
  intro hc
  have hne := hc.ne_signBit hf
  rw [hbits] at hne
  exact hne rfl

theorem convBlock_eq_zero_of_isZero {f : Fmt} (hf : f.isLong = false) {rnd : Rnd} {satNan : Bool} {xs : List Ext} {rs : List Nat}
    {c : Nat} (hc : c ∈ (convBlock f rnd satNan xs rs).2.1) (hz : (Fmt.decode f c).isZero = true) : c = 0 := by
  obtain hcode | ⟨hn, rfl, -⟩ := convBlock_short_cases hf hc
  · exact hcode.eq_zero_of_isZero hf hz
  · rw [decode_nan_of_hasNan hn] at hz
    exact absurd hz Bool.false_ne_true

/-- Settles O1: codes of values never meet the top-bit code, and the NaN has its own causes. -/
theorem reservedCodesAreReadAndNeverWritten : Obligations.ReservedCodesAreReadAndNeverWritten := by
  refine ⟨?_, rfl, rfl, decode_int_reserved (f := .q8) rfl, decode_int_reserved (f := .q4) rfl,
    fun c hc => decode_int_nonneg (f := .q8) rfl hc, fun c hlow hc => decode_int_neg (f := .q8) rfl hlow hc,
    fun c hc => decode_int_nonneg (f := .q4) rfl hc, fun c hlow hc => decode_int_neg (f := .q4) rfl hlow hc, ?_⟩
  · intro f h
    obtain ⟨hf, hi, hn, -⟩ := Fmt.short_of_f8 h
    exact ⟨decode_nan_of_hasNan hn, decode_float_ne_neg_zero hf hi⟩
  intro barred short
  have hbarred : ∀ f : Fmt, f = .q8 ∨ f = .q4 ∨ f = .f6 ∨ f = .f4 → f.isLong = false ∧ barred f = 2 ^ (f.bits - 1) := by
    rintro f (rfl | rfl | rfl | rfl) <;> exact ⟨rfl, rfl⟩
  refine ⟨?_, ?_, ?_, ?_, ?_⟩
  · intro f rnd satNan r x h
    obtain ⟨hf, hb⟩ := hbarred f h
    exact hb ▸ ne_signBit_of_codes_or_nan h (narrow_short_cases hf rnd satNan r x)
  · intro f rnd satNan r x h h80
    obtain hc | ⟨-, -, hwhy⟩ := narrow_short_cases (Fmt.short_of_f8 h).1 rnd satNan r x
    · exact absurd (h80 ▸ hc) (f8_not_codes_0x80 h)
    · exact hwhy
  · intro f rnd satNan xs rs h c hc
    obtain ⟨hf, hb⟩ := hbarred f h
    exact hb ▸ ne_signBit_of_codes_or_nan h (convBlock_short_cases hf hc)
  · intro f rnd satNan xs rs
    refine ⟨fun h h80 => ?_, fun ⟨hf, _⟩ =>
      ⟨fun c hc hz => convBlock_eq_zero_of_isZero hf hc hz, fun i hfin hz => convBlock_getD_of_isZero hf hfin hz⟩⟩
    obtain hc | ⟨-, -, hwhy⟩ := convBlock_short_cases (Fmt.short_of_f8 h).1 h80
    · exact absurd hc (f8_not_codes_0x80 h)
    · exact hwhy
  · intro f rnd satNan r x ⟨hf, _⟩ h
    exact narrow_short_eq_zero hf h

end Sys2Proof.Machine

/-! Core reset and the tiles (03 R49). A tile entry or an OFS that a core's memory does not list reads as zero, and a reset core
lists none (`CoreMem.tiles_zero`). GROUP_RELEASE after group 4 settles at once: a reset core has no command that could go on
(`State.still_of_reset_cores`). -/

namespace Sys2Proof.Machine

/-- Memory that lists no entry and no OFS: all its tiles are at finite zero with correct parity, at OFS 0. -/
theorem CoreMem.tiles_zero {m : CoreMem} (hacc : m.acc = []) (hofs : m.ofs = []) (n : Nat) :
    m.entry n = ⟨0, 0, false⟩ ∧ m.tileOfs n = 0 := by
  unfold CoreMem.entry CoreMem.tileOfs
  rw [hacc, hofs]
  exact ⟨rfl, rfl⟩

theorem State.core_of_cores_map {s t : State} {f : Core → Core} (h : t.cores = s.cores.map f) (c : CoreId) :
    t.core c = f (s.core c) := by
  simp [State.core, h]

theorem State.tiles_zero_of_reset_cores {s t : State} (hcores : t.cores = s.cores.map Core.afterReset) (c : CoreId) (n : Nat) :
    (t.core c).mem.entry n = ⟨0, 0, false⟩ ∧ (t.core c).mem.tileOfs n = 0 := by
  rw [State.core_of_cores_map hcores c]
  exact CoreMem.tiles_zero rfl rfl n

theorem State.coreStill_of_empty {s : State} {c : CoreId} (hhold : (s.core c).ctl.hold = none) (hslots : (s.core c).ctl.slots = []) :
    s.coreStill c = true := by
  simp [State.coreStill, Core.still, hhold, hslots]

/-- Of a still state, the engines and the Regulator are still whatever the rest becomes. -/
theorem State.still_of_cores {s t : State} (heng : t.eng = s.eng) (hreg : t.reg = s.reg) (hcores : ∀ c, t.coreStill c = true)
    (h : s.still = true) : t.still = true := by
  have hall : allCores.all t.coreStill = true := List.all_eq_true.mpr fun c _ => hcores c
  simp only [State.still, State.refusers, State.sessions, State.qids, State.queue, State.mb, heng, hreg, hall, Bool.and_eq_true,
    true_and] at h ⊢
  obtain ⟨⟨⟨⟨⟨-, hrelay⟩, ha2a⟩, hxfers⟩, hqueues⟩, hmbs⟩ := h
  exact ⟨⟨⟨⟨hrelay, ha2a⟩, hxfers⟩, hqueues⟩, hmbs⟩

theorem State.still_of_reset_cores {s t : State} (heng : t.eng = s.eng) (hreg : t.reg = s.reg)
    (hcores : t.cores = s.cores.map Core.afterReset) (h : s.still = true) : t.still = true := by
  refine State.still_of_cores heng hreg (fun c => ?_) h
  have hcore := State.core_of_cores_map hcores c
  exact State.coreStill_of_empty (by rw [hcore]; rfl) (by rw [hcore]; rfl)

/-- GROUP_RELEASE of group 5 clears every core, and the state is settled as it stands (15 R352). -/
theorem exec_groupRelease_after_group_4 {s : State} (hstill : s.still = true) (hmay : s.mayRelease = true) (hgroup : s.aon.group = 4) :
    exec .groupRelease s = .next { s with aon := { s.aon with group := 5 }, cores := s.cores.map Core.afterReset } := by
  have hnext : s.releaseNext = { s with aon := { s.aon with group := 5 }, cores := s.cores.map Core.afterReset } := by
    simp [State.releaseNext, hgroup, State.modAon]
  have hreleased : s.releaseNext.still = true := by
    rw [hnext]
    exact State.still_of_reset_cores (s := s) rfl rfl rfl hstill
  change execGroupRelease s = _
  rw [execGroupRelease, if_pos hmay, State.settle_of_still hreleased, hnext]

/-- Settles O2: a reset core lists no tile entry and no OFS, and GROUP_RELEASE of group 5 leaves every core a reset one. -/
theorem coreResetZeroesTheTiles : Obligations.CoreResetZeroesTheTiles := by
  unfold Obligations.CoreResetZeroesTheTiles
  refine ⟨fun k u => ⟨CoreMem.tiles_zero rfl rfl, CoreMem.tiles_zero rfl rfl, CoreMem.tiles_zero rfl rfl⟩, ?_⟩
  intro s hstill hpow hheld hstate hquiet hgroup htested
  have hmay : s.mayRelease = true := by simp [State.mayRelease, hpow, hheld, hstate, hquiet, hgroup, htested]
  exact ⟨_, exec_groupRelease_after_group_4 hstill hmay hgroup, rfl, State.tiles_zero_of_reset_cores (s := s) rfl⟩

end Sys2Proof.Machine

/-! Command lines (05 R96, Tables 5.4 to 5.31). A field of a concatenation is the field of the part it lies in, so each field that
the decoder cuts out of an encoded line is the one that stands there (`decodeLine_encodeLine`); the 32 stored bytes are the 256 bits
(`natLE_bytesLE`). -/

namespace Sys2Proof.Machine

/-! ### Bytes of a number -/

@[simp] theorem length_bytesLE (n v : Nat) : (bytesLE n v).length = n := by
  induction n generalizing v with
  | zero => rfl
  | succ n ih => simp [bytesLE, ih]

theorem natLE_bytesLE (n v : Nat) : natLE (bytesLE n v) = v % 256 ^ n := by
  induction n generalizing v with
  | zero => simp [bytesLE, natLE, Nat.mod_one]
  | succ n ih =>
    have hstep : v % 256 ^ (n + 1) = v % 256 + 256 * (v / 256 % 256 ^ n) := by rw [pow_succ' 256, Nat.mod_mul]
    rw [bytesLE, natLE, ih, hstep]
    rfl

theorem natLE_bytesLE_of_lt {n v : Nat} (h : v < 256 ^ n) : natLE (bytesLE n v) = v := by
  rw [natLE_bytesLE, Nat.mod_eq_of_lt h]

/-! ### Fields of a concatenation -/

theorem getLsbD_append_low {n m i : Nat} (x : BitVec n) (y : BitVec m) (h : i < m) : (x ++ y).getLsbD i = y.getLsbD i := by
  rw [BitVec.getLsbD_append, if_pos h]

theorem getLsbD_append_high {n m i : Nat} (x : BitVec n) (y : BitVec m) (h : m ≤ i) :
    (x ++ y).getLsbD i = x.getLsbD (i - m) := by
  rw [BitVec.getLsbD_append, if_neg (not_lt.mpr h)]

theorem getLsbD_ofBool_zero (b : Bool) : (BitVec.ofBool b).getLsbD 0 = b := by
  rw [BitVec.getLsbD_ofBool]; rfl

/-! ### Lines -/

/-- The four fields of an encoded header (Table 5.4). -/
theorem Hdr.fields_toBits (op : BitVec 8) (h : Hdr) : (h.toBits op).extractLsb' 0 8 = op ∧ (h.toBits op).extractLsb' 8 16 = h.tag ∧
    (h.toBits op).getLsbD 24 = h.cqe ∧ (h.toBits op).getLsbD 25 = h.haltErr := by
  refine ⟨?_, ?_, ?_, ?_⟩ <;> simp (disch := decide) only [Hdr.toBits, getLsbD_append_low, getLsbD_append_high,
    BitVec.extractLsb'_append_eq_of_le, BitVec.extractLsb'_append_eq_of_add_le, BitVec.extractLsb'_eq_self, getLsbD_ofBool_zero,
    Nat.reduceSub]

/-- The opcode field of an encoded line (Table 5.4). -/
theorem opcode_encodeLine (x : Line) : (encodeLine x).extractLsb' 0 8 = lineOpcode x := by
  cases x <;> simp (disch := decide) only [encodeLine, lineOpcode, LdwLine.toBits, MmaLine.toBits, RedLine.toBits,
    EpiLine.toBits, VecLine.toBits, XposeLine.toBits, RouteLine.toBits, SendLine.toBits, RecvLine.toBits, StashLine.toBits,
    FenceLine.toBits, WaitqLine.toBits, MarkLine.toBits, DeadlineLine.toBits, SeedLine.toBits, UpdLine.toBits, BranchLine.toBits,
    BitVec.extractLsb'_append_eq_of_add_le, Hdr.fields_toBits] <;> rfl

/-- A word whose opcode Table 5.5 does not define is a line of its own (R96). -/
theorem decodeLine_of_undefined {w : BitVec 256} (h : opcodeDefined (w.extractLsb' 0 8) = false) :
    decodeLine w = .bad (w.extractLsb' 0 8) (Hdr.ofBits w) := by
  unfold decodeLine
  split
  case h_20 => rfl
  all_goals
    next hop => simp [opcodeDefined, hop] at h

theorem decodeLine_encodeLine {x : Line} (h : opcodeDefined (lineOpcode x) = !x.isBad) : decodeLine (encodeLine x) = x := by
  cases x with
  | bad op hdr =>
    rw [decodeLine_of_undefined (by rw [opcode_encodeLine]; exact h), opcode_encodeLine]
    simp (disch := decide) only [encodeLine, lineOpcode, Hdr.ofBits, Hdr.fields_toBits, getLsbD_append_low,
      BitVec.extractLsb'_append_eq_of_add_le]
  | _ =>
    rw [decodeLine, opcode_encodeLine]
    simp only [lineOpcode, BitVec.reduceToNat]
    simp (disch := decide) only [encodeLine,
      Hdr.ofBits, LdwLine.ofBits, MmaLine.ofBits, RedLine.ofBits, EpiLine.ofBits, VecLine.ofBits, XposeLine.ofBits, RouteLine.ofBits,
      SendLine.ofBits, RecvLine.ofBits, StashLine.ofBits, FenceLine.ofBits, WaitqLine.ofBits, MarkLine.ofBits, DeadlineLine.ofBits,
      SeedLine.ofBits, UpdLine.ofBits, BranchLine.ofBits,
      LdwLine.toBits, MmaLine.toBits, RedLine.toBits, EpiLine.toBits, VecLine.toBits, XposeLine.toBits, RouteLine.toBits,
      SendLine.toBits, RecvLine.toBits, StashLine.toBits, FenceLine.toBits, WaitqLine.toBits, MarkLine.toBits, DeadlineLine.toBits,
      SeedLine.toBits, UpdLine.toBits, BranchLine.toBits, Hdr.fields_toBits,
      getLsbD_append_low, getLsbD_append_high, BitVec.extractLsb'_append_eq_of_le, BitVec.extractLsb'_append_eq_of_add_le,
      BitVec.extractLsb'_eq_self, getLsbD_ofBool_zero, Nat.reduceSub]

/-- Settles O10: each field that the decoder cuts out of an encoded line is the one that stands there. -/
theorem linesDecodeToWhatWasEncoded : Obligations.LinesDecodeToWhatWasEncoded := by
  intro x h
  refine ⟨?_, length_bytesLE 32 _⟩
  rw [lineOfBytes, lineBytes, natLE_bytesLE_of_lt (encodeLine x).isLt, BitVec.ofNat_toNat, BitVec.setWidth_eq, decodeLine_encodeLine h]

end Sys2Proof.Machine

/-! The arrays (04 R70 to R86, 03 R48 to R63). The keys of the entries of a region are pairwise distinct (`regionKey_eq`), so
the rows of an MMA that meet good parity amount to one list of updates at distinct keys (`mmaRows_eq`), and what an entry holds
after it is read off that list (`Smap.get_updates_of_mem`). -/

namespace Sys2Proof.Machine

/-! ### Updates of a sparse map at the keys of a list -/

/-- The entries at the keys of a list, each rewritten in turn by `f` under its operand. -/
def Smap.updates {α β : Type} [DecidableEq α] (d : α) (f : β → α → α) (m : Smap α) (us : List (Nat × β)) : Smap α :=
  us.foldl (fun q u => Smap.set d q u.1 (f u.2 (Smap.get d q u.1))) m

section updates
variable {α β : Type} [DecidableEq α] (d : α) (f : β → α → α)

theorem Smap.updates_append (m : Smap α) (us vs : List (Nat × β)) :
    Smap.updates d f m (us ++ vs) = Smap.updates d f (Smap.updates d f m us) vs :=
  List.foldl_append

theorem Smap.get_updates_of_notMem {us : List (Nat × β)} {k : Nat} (h : k ∉ us.map Prod.fst) (m : Smap α) :
    Smap.get d (Smap.updates d f m us) k = Smap.get d m k := by
  induction us generalizing m with
  | nil => rfl
  | cons u us ih =>
    obtain ⟨hne, hk⟩ := not_or.mp (List.mem_cons.not.mp h)
    exact (ih hk _).trans (Smap.get_set_other d _ m u.1 k hne)

theorem Smap.get_updates_of_mem {us : List (Nat × β)} {k : Nat} {v : β} (hnd : (us.map Prod.fst).Nodup) (h : (k, v) ∈ us)
    (m : Smap α) : Smap.get d (Smap.updates d f m us) k = f v (Smap.get d m k) := by
  induction us generalizing m with
  | nil => exact absurd h List.not_mem_nil
  | cons u us ih =>
    obtain ⟨hu, hnd⟩ := List.nodup_cons.mp hnd
    obtain rfl | h := List.mem_cons.mp h
    · exact (Smap.get_updates_of_notMem d f hu _).trans (Smap.get_set_same d _ m k)
    · have hne : k ≠ u.1 := fun e => hu (e ▸ List.mem_map_of_mem h)
      exact (ih hnd h _).trans (congrArg (f v) (Smap.get_set_other d _ m u.1 k hne))

/-- What holds of every entry, and of all that `f` gives, holds of every entry after the updates. -/
theorem Smap.updates_induction {P : α → Prop} {us : List (Nat × β)} {k : Nat} (m : Smap α) (hm : P (Smap.get d m k))
    (hf : ∀ b x, P (f b x)) : P (Smap.get d (Smap.updates d f m us) k) := by
  induction us generalizing m with
  | nil => exact hm
  | cons u us ih =>
    refine ih _ ?_
    by_cases hk : k = u.1
    · rw [hk, Smap.get_set_same]; exact hf _ _
    · rw [Smap.get_set_other d _ m u.1 k hk]; exact hm

end updates

/-- One value written at every key of a list. -/
theorem Smap.get_foldl_set {α : Type} [DecidableEq α] (d v : α) (keys : List Nat) (m : Smap α) (k : Nat) :
    Smap.get d (keys.foldl (fun o j => Smap.set d o j v) m) k = if k ∈ keys then v else Smap.get d m k := by
  induction keys generalizing m with
  | nil => simp
  | cons j js ih =>
    rw [List.foldl_cons, ih]
    by_cases hk : k = j
    · subst hk; simp
    · simp [hk, Smap.get_set_other d v m j k hk]

/-! ### Keys of a region (04 R70) -/

theorem regionKey_eq (a t e : Nat) : regionKey a t e = a * 32768 + (t * 1024 + e) := by
  unfold regionKey accKey
  omega

/-- In the 32 tiles of the arrays, a key tells its array and its place. -/
theorem regionKey_inj {a b t e e' : Nat} (he : t * 1024 + e < 32768) (he' : t * 1024 + e' < 32768)
    (h : regionKey a t e = regionKey b t e') : a = b ∧ e = e' := by
  rw [regionKey_eq, regionKey_eq] at h
  omega

theorem tileKey_inj {a b t t' : Nat} (ht : t < 32) (ht' : t' < 32) (h : tileKey a t = tileKey b t') : a = b ∧ t = t' := by
  unfold tileKey at h
  omega

theorem nodup_arraysOf (mask : BitVec 4) : (arraysOf mask).Nodup := List.nodup_range.filter _

theorem arraysOf_ne_nil {mask : BitVec 4} (h : mask ≠ 0) : arraysOf mask ≠ [] := by
  revert mask; decide

/-- The entries of a region lie in its tiles. -/
theorem le_regionTiles (rows n : Nat) : rows * n ≤ regionTiles rows n * 1024 := by
  unfold regionTiles ceilDiv
  omega

/-! ### One row of an array -/

theorem AccEntry.update_good (acc : Bool) (old : AccEntry) (u : Sum) : (AccEntry.update acc old u).1.bad = false := by
  rw [AccEntry.update]
  generalize (if acc = true then old.sum.plus u else u) = v
  unfold Sum.entry
  split
  · split <;> rfl
  · rfl

/-- What one update does to an entry (03 R56). -/
def AccEntry.after (acc : Bool) (u : Sum) (old : AccEntry) : AccEntry := (AccEntry.update acc old u).1

/-- A memory whose entries are rewritten by the sums of a list (03 R56). -/
def CoreMem.addSums (m : CoreMem) (acc : Bool) (us : List (Nat × Sum)) : CoreMem :=
  { m with acc := Smap.updates AccEntry.zero (AccEntry.after acc) m.acc us }

theorem CoreMem.addSums_append (m : CoreMem) (acc : Bool) (us vs : List (Nat × Sum)) :
    m.addSums acc (us ++ vs) = (m.addSums acc us).addSums acc vs := by
  unfold CoreMem.addSums
  rw [Smap.updates_append]

theorem CoreMem.putRow_eq (m : CoreMem) (acc : Bool) (a tile n r : Nat) (us : List (Sum × Nat)) :
    (m.putRow acc a tile n r us).1 = m.addSums acc (us.zipIdx.map fun u => (regionKey a tile (r * n + u.2), u.1.1)) := by
  unfold CoreMem.putRow
  generalize us.zipIdx = vs
  generalize 0 = fl
  induction vs generalizing m fl with
  | nil => rfl
  | cons v vs ih => rw [List.foldl_cons, ih]; rfl

/-- The sums of one row of an array, each under the key of its entry. -/
def rowSums (a tile n r : Nat) (u : Nat → Sum) : List (Nat × Sum) :=
  (List.range n).map fun i => (regionKey a tile (r * n + i), u i)

theorem CoreMem.putRow_range (m : CoreMem) (acc : Bool) (a tile n r : Nat) (u : Nat → Sum × Nat) :
    (m.putRow acc a tile n r ((List.range n).map u)).1 = m.addSums acc (rowSums a tile n r fun i => (u i).1) := by
  rw [CoreMem.putRow_eq]
  congr 1
  refine List.ext_getElem (by simp [rowSums]) fun i h _ => ?_
  simp [rowSums]

/-! ### All rows -/

section rows
variable (dist : Bool) (l : MmaLine) (f : Fmt) (h : Shape) (ofs : Int) (k : Nat)

/-- The sums that row `r`, as memory `m` holds it, adds to the arrays of a list of jobs. -/
def mmaRowSums (jobs : List ArrayJob) (m : CoreMem) (r : Nat) : List (Nat × Sum) :=
  jobs.flatMap fun j => rowSums j.a l.tile.toNat h.n r fun n =>
    (entryUpdate dist l f j.scaled ofs j.cols h.kl (m.actRow l f h r) n k).1

/-- The sums of `left` rows from `r` on. -/
def mmaSums (jobs : List ArrayJob) (m : CoreMem) (r left : Nat) : List (Nat × Sum) :=
  (List.range' r left).flatMap (mmaRowSums dist l f h ofs k jobs m)

theorem mmaSums_succ (jobs : List ArrayJob) (m : CoreMem) (r left : Nat) : mmaSums dist l f h ofs k jobs m r (left + 1) =
    mmaRowSums dist l f h ofs k jobs m r ++ mmaSums dist l f h ofs k jobs m (r + 1) left := by
  rw [mmaSums, List.range'_succ, List.flatMap_cons, mmaSums]

/-- One row in every array of a list. -/
theorem foldl_putRow (jobs : List ArrayJob) (m0 m : CoreMem) (flags r : Nat) :
    ∃ fl, jobs.foldl (fun q j =>
        let us := (List.range h.n).map fun n => entryUpdate dist l f j.scaled ofs j.cols h.kl (m0.actRow l f h r) n k
        let p := q.1.putRow l.acc j.a l.tile.toNat h.n r us
        (p.1, q.2 ||| p.2)) (m, flags) = (m.addSums l.acc (mmaRowSums dist l f h ofs k jobs m0 r), fl) := by
  induction jobs generalizing m flags with
  | nil => exact ⟨flags, rfl⟩
  | cons j js ih =>
    rw [List.foldl_cons, mmaRowSums, List.flatMap_cons, CoreMem.addSums_append, ← CoreMem.putRow_range]
    exact ih _ _

theorem CoreMem.badInRow_of_good {m : CoreMem} {tile n r : Nat} {as : List Nat}
    (hgood : ∀ a ∈ as, ∀ i < n, (m.entry (regionKey a tile (r * n + i))).bad = false) : m.badInRow tile n r as = none := by
  induction as with
  | nil => rfl
  | cons a as ih =>
    rw [CoreMem.badInRow, List.find?_eq_none.mpr fun i hi => by
      rw [hgood a List.mem_cons_self i (List.mem_range.mp hi)]; exact Bool.false_ne_true]
    exact ih fun b hb => hgood b (List.mem_cons_of_mem a hb)

/-- The jobs that the rows run: all but the arrays that ACC = 1 leaves as they are (04 R84). -/
def liveJobs (jobs : List ArrayJob) : List ArrayJob := jobs.filter fun j => !(j.skipAll && l.acc)

/-- Rows that meet good parity add their sums to every array, and to nothing else. -/
theorem mmaRows_eq (jobs : List ArrayJob) (m : CoreMem) (flags r left : Nat)
    (hgood : l.acc = true → ∀ j ∈ jobs, ∀ e < (r + left) * h.n, (m.entry (regionKey j.a l.tile.toNat e)).bad = false) :
    ∃ fl, mmaRows dist l f h ofs jobs k m flags r left =
      (m.addSums l.acc (mmaSums dist l f h ofs k (liveJobs l jobs) m r left), fl, none) := by
  induction left generalizing m flags r with
  | zero => exact ⟨flags, rfl⟩
  | succ left ih =>
    have hbad : (if l.acc = true then m.badInRow l.tile.toNat h.n r ((liveJobs l jobs).map (·.a)) else none) = none := by
      split
      next hacc =>
        refine CoreMem.badInRow_of_good fun a ha i hi => ?_
        obtain ⟨j, hj, rfl⟩ := List.mem_map.mp ha
        refine hgood hacc j (List.mem_of_mem_filter hj) _ ?_
        calc r * h.n + i < (r + 1) * h.n := by rw [add_mul, one_mul]; omega
          _ ≤ (r + (left + 1)) * h.n := Nat.mul_le_mul_right _ (by omega)
      next => rfl
    obtain ⟨fl, hrow⟩ := foldl_putRow dist l f h ofs k (liveJobs l jobs) m m flags r
    obtain ⟨fl', hrest⟩ := ih (m.addSums l.acc (mmaRowSums dist l f h ofs k (liveJobs l jobs) m r)) fl (r + 1)
      fun hacc j hj e he =>
        Smap.updates_induction (P := fun x => x.bad = false) AccEntry.zero (AccEntry.after l.acc) m.acc
          (hgood hacc j hj e (by rwa [show r + (left + 1) = r + 1 + left by omega])) fun u x => AccEntry.update_good l.acc x u
    refine ⟨fl', ?_⟩
    rw [mmaSums_succ, CoreMem.addSums_append]
    calc mmaRows dist l f h ofs jobs k m flags r (left + 1)
      _ = mmaRows dist l f h ofs jobs k (m.addSums l.acc (mmaRowSums dist l f h ofs k (liveJobs l jobs) m r)) fl (r + 1) left := by
        rw [mmaRows]
        simp only [← liveJobs.eq_def, hbad, hrow]
      _ = _ := hrest

end rows

/-! ### The keys of the updates -/

theorem mem_mmaSums {dist : Bool} {l : MmaLine} {f : Fmt} {h : Shape} {ofs : Int} {k : Nat} {jobs : List ArrayJob} {m : CoreMem}
    {r left : Nat} {u : Nat × Sum} : u ∈ mmaSums dist l f h ofs k jobs m r left ↔
      ∃ i, r ≤ i ∧ i < r + left ∧ ∃ j ∈ jobs, ∃ n < h.n, u = (regionKey j.a l.tile.toNat (i * h.n + n),
        (entryUpdate dist l f j.scaled ofs j.cols h.kl (m.actRow l f h i) n k).1) := by
  simp only [mmaSums, mmaRowSums, rowSums, List.mem_flatMap, List.mem_range'_1, List.mem_map, List.mem_range, and_assoc, eq_comm (a := u)]

theorem row_entry_lt {n rows i c : Nat} (hi : i < rows) (hc : c < n) : i * n + c < rows * n :=
  calc i * n + c < (i + 1) * n := by rw [add_mul, one_mul]; omega
    _ ≤ rows * n := Nat.mul_le_mul_right _ hi

/-- The row and the column of an entry. -/
theorem row_entry_inj {n i c i' c' : Nat} (hc : c < n) (hc' : c' < n) (h : i * n + c = i' * n + c') : i = i' ∧ c = c' := by
  have hdiv : i = i' := by
    have := congrArg (· / n) h
    simpa [Nat.mul_comm _ n, Nat.mul_add_div (Nat.zero_lt_of_lt hc), Nat.div_eq_of_lt hc, Nat.div_eq_of_lt hc'] using this
  subst hdiv
  exact ⟨rfl, by omega⟩

/-- No two updates of an MMA go to one entry. -/
theorem nodup_keys_mmaSums {dist : Bool} {l : MmaLine} {f : Fmt} {h : Shape} {ofs : Int} {k : Nat} {jobs : List ArrayJob}
    {m : CoreMem} {rows : Nat} (hjobs : (jobs.map (·.a)).Nodup) (hfit : l.tile.toNat + regionTiles rows h.n ≤ 32) :
    ((mmaSums dist l f h ofs k jobs m 0 rows).map Prod.fst).Nodup := by
  have hin : ∀ i < rows, ∀ c < h.n, l.tile.toNat * 1024 + (i * h.n + c) < 32768 := fun i hi c hc => by
    have := row_entry_lt hi hc
    have := le_regionTiles rows h.n
    omega
  have hkeys : (mmaSums dist l f h ofs k jobs m 0 rows).map Prod.fst = (List.range' 0 rows).flatMap fun i =>
      jobs.flatMap fun j => (List.range h.n).map fun c => regionKey j.a l.tile.toNat (i * h.n + c) := by
    simp only [mmaSums, mmaRowSums, rowSums, List.map_flatMap, List.map_map, Function.comp_def]
  rw [hkeys, List.nodup_flatMap]
  refine ⟨fun i hi => List.nodup_flatMap.mpr ⟨fun j _ => ?_, ?_⟩, ?_⟩
  · refine (List.nodup_map_iff_inj_on List.nodup_range).mpr fun c hc c' hc' hk => ?_
    have hi := (List.mem_range'_1.mp hi).2
    have := (regionKey_inj (hin i (by omega) c (List.mem_range.mp hc)) (hin i (by omega) c' (List.mem_range.mp hc')) hk).2
    omega
  · refine (List.pairwise_map.mp hjobs).imp fun {j j'} hne => List.disjoint_left.mpr fun key hk hk' => ?_
    obtain ⟨c, hc, rfl⟩ := List.mem_map.mp hk
    obtain ⟨c', hc', hk⟩ := List.mem_map.mp hk'
    have hi := (List.mem_range'_1.mp hi).2
    exact hne (regionKey_inj (hin i (by omega) c' (List.mem_range.mp hc')) (hin i (by omega) c (List.mem_range.mp hc)) hk).1.symm
  · refine (List.nodup_range' (step := 1)).imp_of_mem fun {i i'} hi hi' hne => List.disjoint_left.mpr fun key hk hk' => ?_
    simp only [List.mem_flatMap, List.mem_map, List.mem_range] at hk hk'
    obtain ⟨j, -, c, hc, rfl⟩ := hk
    obtain ⟨j', -, c', hc', hk⟩ := hk'
    have hi := (List.mem_range'_1.mp hi).2
    have hi' := (List.mem_range'_1.mp hi').2
    have := (regionKey_inj (hin i' (by omega) c' hc') (hin i (by omega) c hc) hk).2
    exact hne (row_entry_inj hc' hc this).1.symm

/-! ### The checks -/

theorem firstBad_eq_none_iff {xs : List (Bool × Report)} : firstBad xs = none ↔ ∀ x ∈ xs, x.1 = false := by
  induction xs with
  | nil => simp [firstBad]
  | cons x xs ih =>
    obtain ⟨b, r⟩ := x
    cases b <;> simp [firstBad, ih]

theorem orElseReport_eq_none_iff {a b : Option Report} : orElseReport a b = none ↔ a = none ∧ b = none := by
  cases a <;> simp [orElseReport]

/-- Of a command that passes its checks: it names an array, and its region lies in the tiles. -/
theorem State.checkMma_eq_none {s : State} {c : CoreId} {dist : Bool} {l : MmaLine} {h : Shape}
    (hcheck : s.checkMma c dist l = none) (hshape : mmaShape l = some h) :
    l.amask ≠ 0 ∧ l.tile.toNat + regionTiles l.rows.toNat h.n ≤ 32 := by
  have hcodes : ∃ w a, Fmt.ofCode l.wfmt = some w ∧ Fmt.ofCode l.afmt = some a := by
    unfold mmaShape at hshape
    split at hshape
    next w a _ hw ha => exact ⟨w, a, hw, ha⟩
    next => cases hshape
  obtain ⟨w, a, hw, ha⟩ := hcodes
  simp only [State.checkMma, hshape, hw, ha] at hcheck
  split at hcheck
  next => cases hcheck
  next hpre hh hfw hfa =>
    cases hh; cases hfw; cases hfa
    simp only [orElseReport_eq_none_iff, firstBad_eq_none_iff, List.forall_mem_cons] at hpre hcheck
    obtain ⟨hmask, -⟩ := hpre
    obtain ⟨⟨-, -, -, hfit, hrows, -⟩, -⟩ := hcheck
    simp only [Bool.not_eq_false'] at hrows
    rw [hrows, Bool.true_and, decide_eq_false_iff_not, not_lt] at hfit
    exact ⟨by simpa using hmask, hfit⟩
  next hno => exact (hno h w a rfl rfl rfl).elim

/-! ### Memories that differ in what arrays hold -/

theorem CoreMem.tileOfs_setOfs (m : CoreMem) (l : MmaLine) (n k : Nat) : (m.setOfs l n).tileOfs k =
    if ∃ a ∈ arraysOf l.amask, ∃ i < regionTiles l.rows.toNat n, tileKey a (l.tile.toNat + i) = k then l.wofs else m.tileOfs k := by
  simp only [CoreMem.tileOfs, CoreMem.setOfs, Smap.get_foldl_set, List.mem_flatMap, List.mem_map, List.mem_range]

theorem CoreMem.tileOfs_of_not_differs {m : CoreMem} {l : MmaLine} {n : Nat} (hofs : m.ofsDiffers l n = false) {a i : Nat}
    (ha : a ∈ arraysOf l.amask) (hi : i < regionTiles l.rows.toNat n) : m.tileOfs (tileKey a (l.tile.toNat + i)) = l.wofs := by
  unfold CoreMem.ofsDiffers at hofs
  simp only [List.any_eq_false, List.mem_range, bne_iff_ne, ne_eq, not_not, Bool.not_eq_true] at hofs
  exact hofs a ha i hi

/-! ### MMA and DIST -/

/-- The memory that the rows of an MMA or DIST with good parity leave (04 R70 to R85). -/
def CoreMem.mmaDone (m : CoreMem) (dist : Bool) (l : MmaLine) (f : Fmt) (h : Shape) : CoreMem :=
  (if l.acc then m else m.setOfs l h.n).addSums l.acc
    (mmaSums dist l f h l.wofs.toInt l.tiles (liveJobs l (m.jobs l h)) m 0 l.rows.toNat)

theorem map_a_jobs (m : CoreMem) (l : MmaLine) (h : Shape) : (m.jobs l h).map (·.a) = arraysOf l.amask := by
  unfold CoreMem.jobs
  rw [List.map_map]
  exact List.map_id' _

theorem a_mem_of_mem_jobs {m : CoreMem} {l : MmaLine} {h : Shape} {j : ArrayJob} (hj : j ∈ m.jobs l h) : j.a ∈ arraysOf l.amask :=
  map_a_jobs m l h ▸ List.mem_map_of_mem hj

/-- Where parity is good everywhere, all rows are good. -/
theorem goodRows_of_good {m : CoreMem} {l : MmaLine} {h : Shape} {as : List Nat}
    (hgood : ∀ a ∈ as, ∀ e < l.rows.toNat * h.n, (m.entry (regionKey a l.tile.toNat e)).bad = false) :
    goodRows l h m as = l.rows.toNat := by
  have hall : (List.range l.rows.toNat).takeWhile (fun r => (m.badInRow l.tile.toNat h.n r as).isNone) = List.range l.rows.toNat := by
    refine List.takeWhile_eq_self_iff.mpr fun r hr => ?_
    rw [CoreMem.badInRow_of_good fun a ha i hi => hgood a ha _ (row_entry_lt (List.mem_range.mp hr) hi)]
    rfl
  rw [goodRows, hall, List.length_range]

theorem foldl_orElseReport_none {as : List Nat} {g : Nat → Option Report} (hg : ∀ a ∈ as, g a = none) :
    as.foldl (fun r a => orElseReport r (g a)) none = none := by
  induction as with
  | nil => rfl
  | cons a as ih =>
    rw [List.foldl_cons, hg a List.mem_cons_self]
    exact ih fun b hb => hg b (List.mem_cons_of_mem a hb)

/-- An MMA or DIST whose banks agree and that meets equal offsets and good parity finishes with ST_OK. -/
theorem State.runMma_done {s : State} {c : CoreId} {dist : Bool} {l : MmaLine} {h : Shape} {f : Fmt}
    (hclean : (s.core c).mem.Clean) (hshape : mmaShape l = some h) (hf : Fmt.ofCode l.afmt = some f)
    (hbank : l.stream = false → ∀ a ∈ arraysOf l.amask, bankCheck dist l ((s.core c).mem.bank a (l.bankOf a)) = none)
    (hofs : l.acc = true → (s.core c).mem.ofsDiffers l h.n = false)
    (hgood : l.acc = true → ∀ a ∈ arraysOf l.amask, ∀ e < l.rows.toNat * h.n,
      ((s.core c).mem.entry (regionKey a l.tile.toNat e)).bad = false) :
    ∃ fl, s.runMma c dist l = .done ⟨stOk, fl, 0, 0, 0⟩ ((s.withMem c ((s.core c).mem.mmaDone dist l f h)).stage c l) := by
  have hbanks : (if l.stream = true then none else (arraysOf l.amask).foldl
      (fun r a => orElseReport r (bankCheck dist l ((s.core c).mem.bank a (l.bankOf a)))) none) = none := by
    split
    next => rfl
    next hs => exact foldl_orElseReport_none (hbank (by simpa using hs))
  have hdiff : (l.acc && (s.core c).mem.ofsDiffers l h.n) = false := by
    cases hacc : l.acc
    · rfl
    · exact hofs hacc
  have hrows : (if l.acc = true then goodRows l h (s.core c).mem ((liveJobs l ((s.core c).mem.jobs l h)).map (·.a))
      else l.rows.toNat) = l.rows.toNat := by
    split
    next hacc =>
      refine goodRows_of_good fun a ha => hgood hacc a ?_
      obtain ⟨j, hj, rfl⟩ := List.mem_map.mp ha
      exact a_mem_of_mem_jobs (List.mem_of_mem_filter hj)
    next => rfl
  obtain ⟨fl, hfl⟩ := mmaRows_eq dist l f h l.wofs.toInt l.tiles ((s.core c).mem.jobs l h)
    (if l.acc then (s.core c).mem else (s.core c).mem.setOfs l h.n) 0 0 l.rows.toNat fun hacc j hj e he => by
      rw [if_pos hacc]
      exact hgood hacc j.a (a_mem_of_mem_jobs hj) e (by rwa [Nat.zero_add] at he)
  have hsame : mmaSums dist l f h l.wofs.toInt l.tiles (liveJobs l ((s.core c).mem.jobs l h))
      (if l.acc then (s.core c).mem else (s.core c).mem.setOfs l h.n) 0 l.rows.toNat =
      mmaSums dist l f h l.wofs.toInt l.tiles (liveJobs l ((s.core c).mem.jobs l h)) (s.core c).mem 0 l.rows.toNat := by
    split <;> rfl
  refine ⟨fl, ?_⟩
  unfold State.runMma
  simp only [hshape, hf, hbanks, hdiff, Bool.false_eq_true, if_false, State.checkSpans_clean _ hclean]
  simp only [← liveJobs.eq_def, hrows, Nat.lt_irrefl, if_false, hfl, hsame]
  rfl

/-- The state from which a streamed command leaves its mark: it has used free values (log 70). -/
def State.staging (s : State) (l : MmaLine) : State := if l.stream then { s with free := s.free + 2 ^ 24 } else s

/-- The memory when the banks have served as staging, for a streamed command. -/
def CoreMem.stagedIf (m : CoreMem) (free : Nat) (l : MmaLine) : CoreMem :=
  if l.stream then m.staged free (arraysOf l.amask) else m

theorem State.modMem_withMem (s : State) (c : CoreId) (m : CoreMem) (g : CoreMem → CoreMem) :
    (s.withMem c m).modMem c g = s.withMem c (g m) := by
  simp only [State.withMem, State.modMem, State.modCore, State.core_setCore_same]
  simp only [State.setCore, Vector.set_set]

theorem State.stage_withMem (s : State) (c : CoreId) (x : Line) (l : MmaLine) (m : CoreMem) :
    ((s.enter c x).withMem c m).stage c l = ((s.staging l).enter c x).withMem c (m.stagedIf s.free l) := by
  unfold State.stage State.staging CoreMem.stagedIf
  split
  · rw [State.modMem_withMem]
    rfl
  · rfl

/-- MMA and DIST are lines of the array queues. -/
def mmaLine (dist : Bool) (l : MmaLine) : Line := if dist then .dist l else .mma l

/-- What an MMA or DIST that finds nothing wrong leaves, whole. -/
theorem exec_mma {s : State} {c : CoreId} {p : PartId} {dist : Bool} {l : MmaLine} {h : Shape} {f : Fmt}
    (hidle : s.Idle c p) (hclean : (s.core c).mem.Clean) (hcheck : s.checkMma c dist l = none) (hshape : mmaShape l = some h)
    (hf : Fmt.ofCode l.afmt = some f)
    (hbank : l.stream = false → ∀ a ∈ arraysOf l.amask, bankCheck dist l ((s.core c).mem.bank a (l.bankOf a)) = none)
    (hofs : l.acc = true → (s.core c).mem.ofsDiffers l h.n = false)
    (hgood : l.acc = true → ∀ a ∈ arraysOf l.amask, ∀ e < l.rows.toNat * h.n,
      ((s.core c).mem.entry (regionKey a l.tile.toNat e)).bad = false) :
    ∃ (t : State) (fl : Nat), exec (if dist then .dist c l else .mma c l) s = .next t ∧
      (s.staging l).Ran t c p (mmaLine dist l) ⟨stOk, fl, 0, 0, 0⟩ (((s.core c).mem.mmaDone dist l f h).stagedIf s.free l) := by
  have hmem : ((s.enter c (mmaLine dist l)).core c).mem = (s.core c).mem := by rw [State.enter_core]
  obtain ⟨fl, hrun⟩ := State.runMma_done (s := s.enter c (mmaLine dist l)) (dist := dist) (hmem ▸ hclean) hshape hf (hmem ▸ hbank)
    (hmem ▸ hofs) (hmem ▸ hgood)
  rw [hmem, State.stage_withMem] at hrun
  have hunits : arraysOf l.amask ≠ [] := arraysOf_ne_nil (State.checkMma_eq_none hcheck hshape).1
  have hline : (s.enter c (mmaLine dist l)).runLine c p ((s.core c).ctl.capture (mmaLine dist l)) =
      (s.enter c (mmaLine dist l)).runMma c dist l := by
    cases dist <;> rfl
  refine ⟨(s.decodeLine c (mmaLine dist l)).settle, fl, by cases dist <;> rfl, hidle.runsFrom ?_ ?_ ?_ ?_ ?_ ?_ ?_ ?_ ?_ (hline.trans hrun) rfl⟩
  · cases dist <;> exact hcheck
  · cases dist <;> rfl
  · cases dist <;> simpa [mmaLine, unitsOf] using hunits
  · intro r hr
    cases dist <;> cases hr
  · unfold State.staging
    split <;> rfl
  · intro d _
    unfold State.staging
    split <;> rfl
  · unfold State.staging
    split <;> rfl
  · unfold State.staging
    split <;> rfl
  · cases dist <;> rfl

/-! ### What the memory then holds -/

section done
variable {m : CoreMem} {dist : Bool} {l : MmaLine} {f : Fmt} {h : Shape}

theorem CoreMem.entry_start (k : Nat) : (if l.acc then m else m.setOfs l h.n).entry k = m.entry k := by
  split <;> rfl

/-- An entry of the region of an array that runs: updated by the sum of its terms. -/
theorem CoreMem.entry_mmaDone_live {j : ArrayJob} {i n : Nat} (hfit : l.tile.toNat + regionTiles l.rows.toNat h.n ≤ 32)
    (hj : j ∈ liveJobs l (m.jobs l h)) (hi : i < l.rows.toNat) (hn : n < h.n) :
    (m.mmaDone dist l f h).entry (regionKey j.a l.tile.toNat (i * h.n + n)) =
      (AccEntry.update l.acc (m.entry (regionKey j.a l.tile.toNat (i * h.n + n)))
        (entryUpdate dist l f j.scaled l.wofs.toInt j.cols h.kl (m.actRow l f h i) n l.tiles).1).1 := by
  have hnd : ((liveJobs l (m.jobs l h)).map (·.a)).Nodup :=
    (map_a_jobs m l h ▸ nodup_arraysOf l.amask).sublist (List.filter_sublist.map _)
  have hmem : (regionKey j.a l.tile.toNat (i * h.n + n),
      (entryUpdate dist l f j.scaled l.wofs.toInt j.cols h.kl (m.actRow l f h i) n l.tiles).1) ∈
      mmaSums dist l f h l.wofs.toInt l.tiles (liveJobs l (m.jobs l h)) m 0 l.rows.toNat :=
    mem_mmaSums.mpr ⟨i, Nat.zero_le i, by omega, j, hj, n, hn, rfl⟩
  rw [← CoreMem.entry_start (m := m) (l := l) (h := h)]
  exact Smap.get_updates_of_mem _ _ (nodup_keys_mmaSums hnd hfit) hmem _

/-- An entry that no array which runs has in its region stays. -/
theorem CoreMem.entry_mmaDone_other {k : Nat} (hk : ∀ j ∈ liveJobs l (m.jobs l h), ∀ e < l.rows.toNat * h.n,
    k ≠ regionKey j.a l.tile.toNat e) : (m.mmaDone dist l f h).entry k = m.entry k := by
  rw [← CoreMem.entry_start (m := m) (l := l) (h := h)]
  refine Smap.get_updates_of_notMem _ _ (fun hmem => ?_) _
  obtain ⟨u, hu, rfl⟩ := List.mem_map.mp hmem
  obtain ⟨i, -, hi, j, hj, n, hn, rfl⟩ := mem_mmaSums.mp hu
  exact hk j hj _ (row_entry_lt (by omega) hn) rfl

theorem CoreMem.tileOfs_mmaDone (k : Nat) : (m.mmaDone dist l f h).tileOfs k = (if l.acc then m else m.setOfs l h.n).tileOfs k := rfl

end done

theorem State.modMem_eq_withMem (s : State) (c : CoreId) (g : CoreMem → CoreMem) :
    s.modMem c g = s.withMem c (g (s.core c).mem) := rfl

theorem State.enter_mem (s : State) (c : CoreId) (x : Line) : ((s.enter c x).core c).mem = (s.core c).mem := by
  rw [State.enter_core]

/-- Settles O13: the updates of all rows go to distinct entries, so each entry takes exactly its own sum. -/
theorem mmaAndDistAccumulate : Obligations.MmaAndDistAccumulate := by
  intro s c p dist l h f m inRegion hidle hclean hcheck hshape hf hbank hacc
  obtain ⟨-, hfit⟩ := State.checkMma_eq_none hcheck hshape
  obtain ⟨t, fl, hexec, hran⟩ := exec_mma hidle hclean hcheck hshape hf hbank (fun h => (hacc h).1)
    fun h a ha e he => (hacc h).2 a e ⟨ha, he⟩
  have hentry : ∀ k, ((m.mmaDone dist l f h).stagedIf s.free l).entry k = (m.mmaDone dist l f h).entry k := fun k => by
    unfold CoreMem.stagedIf; split <;> rfl
  have htile : ∀ k, ((m.mmaDone dist l f h).stagedIf s.free l).tileOfs k = (if l.acc then m else m.setOfs l h.n).tileOfs k :=
    fun k => by unfold CoreMem.stagedIf; split <;> rfl
  refine ⟨t, _, _, hexec, hran, rfl, rfl, rfl, ?_, ?_, ?_, ?_, ?_, ?_⟩
  · intro j hj i n hi hn
    rw [hentry]
    dsimp only
    split
    next hskip =>
      refine CoreMem.entry_mmaDone_other fun j' hj' e he hk => ?_
      have := row_entry_lt hi hn
      have := le_regionTiles l.rows.toNat h.n
      have haa : j.a = j'.a := (regionKey_inj (by omega) (by omega) hk).1
      have hjj : j = j' := by
        have hnd : ((m.jobs l h).map (·.a)).Nodup := map_a_jobs m l h ▸ nodup_arraysOf l.amask
        exact List.inj_on_of_nodup_map hnd hj (List.mem_of_mem_filter hj') haa
      have := (List.mem_filter.mp hj').2
      rw [← hjj, hskip] at this
      cases this
    next hrun => exact CoreMem.entry_mmaDone_live hfit (List.mem_filter.mpr ⟨hj, by rw [Bool.not_eq_true', Bool.eq_false_iff]; exact hrun⟩) hi hn
  · intro a n ha hn
    rw [htile]
    split
    next hl => exact CoreMem.tileOfs_of_not_differs (hacc hl).1 ha hn
    next => rw [CoreMem.tileOfs_setOfs, if_pos ⟨a, ha, n, hn, rfl⟩]
  · intro k hk
    rw [hentry]
    exact CoreMem.entry_mmaDone_other fun j hj e he => hk j.a e ⟨a_mem_of_mem_jobs (List.mem_of_mem_filter hj), he⟩
  · intro k hk
    rw [htile]
    split
    next => rfl
    next => rw [CoreMem.tileOfs_setOfs, if_neg fun ⟨a, ha, n, hn, e⟩ => hk a n ha hn e.symm]
  · have hbanks : (m.mmaDone dist l f h).banks = m.banks := by
      unfold CoreMem.mmaDone; split <;> rfl
    unfold CoreMem.stagedIf
    split
    · unfold CoreMem.staged; rw [hbanks]
    · exact hbanks
  · unfold CoreMem.stagedIf CoreMem.mmaDone
    split <;> split <;> rfl

/-! ### LDW -/

/-- Settles O12: the three runs of the image are the bytes read from IMG, cut at the lengths of ELEM and META. -/
theorem ldwRecordsTheImage : Obligations.LdwRecordsTheImage := by
  intro s c p l h hidle hclean hcheck hshape k bytes elem pos bsc hsparse
  have hbad : (l.sparse && !Tile.sparseOk ⟨h, k, natLE elem, natLE pos, natLE bsc⟩) = false := by
    cases hl : l.sparse
    · rfl
    · rw [hsparse hl]; rfl
  refine ⟨_, rfl, hidle.runs (r := Report.ok) hcheck rfl (List.cons_ne_nil _ _) (fun r hr => by cases hr) rfl ?_ rfl⟩
  have hmem := State.enter_mem s c (.ldw l)
  change (s.enter c (.ldw l)).runLdw c l = _
  unfold State.runLdw
  simp only [hshape, State.checkSpans_clean _ (hmem ▸ hclean), State.modMem_eq_withMem, hmem]
  rw [if_neg (by rw [hbad]; exact Bool.false_ne_true)]

end Sys2Proof.Machine

/-! The vector unit, the transposing buffer and the epilogue (05 R101 to R104). In clean memory a store of runs lands
(`Run.ofWrite_clean`), so each of these commands finishes with its report and the runs stored; what is left to show is that the
state they start from differs from the given one only in the line that has entered. -/

namespace Sys2Proof.Machine

/-- The memory of the core that a line has entered is clean if it was. -/
theorem CoreMem.Clean.enter {s : State} {c : CoreId} (h : (s.core c).mem.Clean) (x : Line) : ((s.enter c x).core c).mem.Clean := by
  rw [State.enter_mem]; exact h

/-- Runs stored in clean memory finish the command with its report. -/
theorem Run.ofWrite_clean {s : State} {c : CoreId} (rs : Runs) (r : Report) (h : (s.core c).mem.Clean) :
    Run.ofWrite (s.writeRuns c rs) r = .done r (s.withMem c ((s.core c).mem.putRuns rs)) := by
  rw [State.writeRuns_clean rs h]
  rfl

/-! ### RED -/

theorem CoreMem.setLanes_eq (m : CoreMem) (g : Nat) (vs : List Word) : m.setLanes g vs = { m with vr := (m.setLanes g vs).vr } := by
  induction vs generalizing m g with
  | nil => rfl
  | cons v vs ih => exact ih (m.setLane g v) (g + 1)

theorem CoreMem.lane_setLanes_outside {vs : List Word} {g k : Nat} (h : k < g ∨ g + vs.length ≤ k) (m : CoreMem) :
    (m.setLanes g vs).lane k = m.lane k := by
  induction vs generalizing m g with
  | nil => rfl
  | cons v vs ih =>
    rw [List.length_cons] at h
    exact (ih (by omega) _).trans (Smap.get_set_other _ _ _ _ _ (by omega))

theorem CoreMem.lane_setLanes {vs : List Word} {i : Nat} (h : i < vs.length) (m : CoreMem) (g : Nat) :
    (m.setLanes g vs).lane (g + i) = vs[i] := by
  induction vs generalizing m g i with
  | nil => exact absurd h (Nat.not_lt_zero i)
  | cons v vs ih =>
    cases i with
    | zero => exact (CoreMem.lane_setLanes_outside (.inl (Nat.lt_succ_self g)) _).trans (Smap.get_set_same _ _ _ _)
    | succ i => rw [show g + (i + 1) = g + 1 + i by omega]; exact ih (Nat.lt_of_succ_lt_succ h) _ _

/-- The winner of row `r` (03 R65). -/
def CoreMem.redWon (m : CoreMem) (l : RedLine) (f : Fmt) (r : Nat) : Cand :=
  (winner f l.bs l.mode (m.redCands l f r)).getD ⟨0, 0x7F, 0⟩

/-- The WIN words and the indexes of all rows. -/
def CoreMem.redWords (m : CoreMem) (l : RedLine) (f : Fmt) : List Word :=
  (List.range l.rows.toNat).map fun r => BitVec.ofNat 32 (winWord f l.bs (m.redWon l f r))

def CoreMem.redIndexes (m : CoreMem) (l : RedLine) (f : Fmt) : List Word :=
  (List.range l.rows.toNat).map fun r => BitVec.ofNat 32 (m.redWon l f r).index

/-- The bytes that WB stores (05 R101). -/
def CoreMem.redBytes (m : CoreMem) (l : RedLine) (f : Fmt) : List Byte :=
  (List.range l.rows.toNat).flatMap fun r => bytesLE 4 (winWord f l.bs (m.redWon l f r)) ++ bytesLE 4 (m.redWon l f r).index

/-- The memory with the running pairs of a RED. -/
def CoreMem.redLanes (m : CoreMem) (l : RedLine) (f : Fmt) : CoreMem :=
  let q := (m.setLanes (l.vreg.toNat * 512) (m.redWords l f)).setLanes ((l.vreg.toNat + 1) * 512) (m.redIndexes l f)
  { q with redRec := q.redRec.set none l.vreg.toNat (some (l.fmt, l.bs)) }

/-- The memory that a RED leaves. -/
def CoreMem.redDone (m : CoreMem) (l : RedLine) (f : Fmt) : CoreMem :=
  if l.wb then (m.redLanes l f).putRun false (l.dst.toNat * 32) (m.redBytes l f) else m.redLanes l f

theorem CoreMem.redLanes_eq (m : CoreMem) (l : RedLine) (f : Fmt) : m.redLanes l f =
    { m with vr := (m.redLanes l f).vr, redRec := m.redRec.set none l.vreg.toNat (some (l.fmt, l.bs)) } := by
  unfold CoreMem.redLanes
  rw [CoreMem.setLanes_eq (m.setLanes _ _), CoreMem.setLanes_eq m]

/-- A RED whose running pair, when it continues one, has its format finishes with ST_OK. -/
theorem State.runRed_done {s : State} {c : CoreId} {l : RedLine} {f : Fmt} (hclean : (s.core c).mem.Clean)
    (hf : Fmt.ofCode l.fmt = some f)
    (hcont : l.cont = true → ∀ g b, (s.core c).mem.redRec.get none l.vreg.toNat = some (g, b) → g = l.fmt ∧ b = l.bs) :
    s.runRed c l = .done Report.ok (s.withMem c ((s.core c).mem.redDone l f)) := by
  have hlanes : ((s.withMem c ((s.core c).mem.redLanes l f)).core c).mem.Clean := by
    rw [State.withMem_mem, CoreMem.redLanes_eq]
    exact hclean
  unfold State.runRed
  simp only [hf]
  split
  next r hr =>
    split at hr <;> [skip; cases hr]
    next hc =>
      split at hr <;> [skip; cases hr]
      next g b hrec =>
        obtain ⟨rfl, rfl⟩ := hcont hc g b hrec
        simp [firstBad] at hr
  next =>
    simp only [State.checkSpans_clean _ hclean, List.map_map, List.flatMap_map, State.modMem_eq_withMem]
    change (if l.wb = true then Run.ofWrite ((s.withMem c ((s.core c).mem.redLanes l f)).writeCore c false (l.dst.toNat * 32)
      ((s.core c).mem.redBytes l f)) Report.ok else .done Report.ok (s.withMem c ((s.core c).mem.redLanes l f))) = _
    unfold CoreMem.redDone
    split
    next => rw [State.writeCore_clean hlanes, State.withMem_mem, State.withMem_withMem]; rfl
    next => rfl

theorem CoreMem.redDone_eq (m : CoreMem) (l : RedLine) (f : Fmt) : m.redDone l f =
    { m with
      cs := if l.wb then m.cs.writeN (l.dst.toNat * 32) (m.redBytes l f) else m.cs
      vr := (m.redDone l f).vr
      redRec := m.redRec.set none l.vreg.toNat (some (l.fmt, l.bs)) } := by
  unfold CoreMem.redDone
  split
  · rw [CoreMem.redLanes_eq]; rfl
  · rw [CoreMem.redLanes_eq]

theorem CoreMem.lane_redDone (m : CoreMem) (l : RedLine) (f : Fmt) (g : Nat) : (m.redDone l f).lane g =
    ((m.setLanes (l.vreg.toNat * 512) (m.redWords l f)).setLanes ((l.vreg.toNat + 1) * 512) (m.redIndexes l f)).lane g := by
  unfold CoreMem.redDone
  split <;> rfl

/-- Of a RED that passes its checks: it has at most the rows of a register's lanes. -/
theorem State.checkRed_rows_le {s : State} {l : RedLine} {f : Fmt} (hcheck : s.checkRed l = none) (hf : Fmt.ofCode l.fmt = some f) :
    l.rows.toNat ≤ 512 := by
  simp only [State.checkRed, hf, orElseReport_eq_none_iff, firstBad_eq_none_iff, List.forall_mem_cons] at hcheck
  obtain ⟨⟨-, -, -, -, hrows, -⟩, -⟩ := hcheck
  rw [decide_eq_false_iff_not] at hrows
  omega

/-- Settles O14: the two registers of the pair are apart, so each lane reads what was stored in it. -/
theorem redWritesTheWinners : Obligations.RedWritesTheWinners := by
  intro s c p l f m won hidle hclean hcheck hf hcont
  have hmem := State.enter_mem s c (.red l)
  have hrows := State.checkRed_rows_le hcheck hf
  have hrun : (s.enter c (.red l)).runRed c l = .done Report.ok ((s.enter c (.red l)).withMem c (m.redDone l f)) := by
    have := State.runRed_done (l := l) (hclean.enter (.red l)) hf (by rw [hmem]; exact hcont)
    rwa [hmem] at this
  have hwords : (m.redWords l f).length = l.rows.toNat := by simp [CoreMem.redWords]
  have hindexes : (m.redIndexes l f).length = l.rows.toNat := by simp [CoreMem.redIndexes]
  refine ⟨_, m.redDone l f, rfl, hidle.runs (r := Report.ok) hcheck rfl (List.cons_ne_nil _ _) (fun r hr => by cases hr) rfl hrun rfl,
    fun r hr => ⟨?_, ?_⟩, fun g hg => ?_, ?_, ?_, ?_⟩
  · rw [CoreMem.lane_redDone, CoreMem.lane_setLanes_outside (.inl (by omega)), CoreMem.lane_setLanes (by omega)]
    simp only [CoreMem.redWords, List.getElem_map, List.getElem_range]
    rfl
  · rw [CoreMem.lane_redDone, CoreMem.lane_setLanes (by omega)]
    simp only [CoreMem.redIndexes, List.getElem_map, List.getElem_range]
    rfl
  · rw [CoreMem.lane_redDone, CoreMem.lane_setLanes_outside, CoreMem.lane_setLanes_outside]
    · by_contra hno
      exact (hg (g - l.vreg.toNat * 512) (by omega)).1 (by omega)
    · by_contra hno
      exact (hg (g - (l.vreg.toNat + 1) * 512) (by omega)).2 (by omega)
  · rw [CoreMem.redDone_eq]; rfl
  · rw [CoreMem.redDone_eq]
  · rw [CoreMem.redDone_eq]

/-! ### XPOSE -/

/-- Settles O16: the rows and scale lines that XPOSE stores are the columns of what it reads. -/
theorem xposeTransposes : Obligations.XposeTransposes := by
  intro s c p l f m r k lines hidle hclean hcheck hf
  refine ⟨_, rfl, hidle.runs (r := Report.ok) hcheck rfl (List.cons_ne_nil _ _) (fun r hr => by cases hr) rfl ?_ rfl⟩
  have hmem := State.enter_mem s c (.xpose l)
  change (s.enter c (.xpose l)).runXpose c l = _
  unfold State.runXpose
  simp only [hf, State.checkSpans_clean _ (hclean.enter _), Run.ofWrite_clean _ _ (hclean.enter _), hmem, List.map_map]
  rfl

/-! ### VEC -/

theorem State.spend_eq (s : State) (x : InFlight) : s.spend x = { s with free := (s.spend x).free, parts := (s.spend x).parts } := by
  unfold State.spend
  split <;> rfl

theorem State.spend_enter (s : State) (c : CoreId) (y : Line) (x : InFlight) : (s.enter c y).spend x = (s.spend x).enter c y := by
  unfold State.spend
  split <;> rfl

/-- The state from which a VEC leaves its result: one that draws random values uses them up (06 R135, log 1). -/
def State.vecSpend (s : State) (x : InFlight) (l : VecLine) (q : Cvt) : State :=
  if q.rnd == .sr || l.vop.toNat == 0x20 || l.vop.toNat == 0x21 then s.spend x else s

theorem State.vecSpend_eq (s : State) (x : InFlight) (l : VecLine) (q : Cvt) :
    s.vecSpend x l q = { s with free := (s.vecSpend x l q).free, parts := (s.vecSpend x l q).parts } := by
  unfold State.vecSpend
  split
  · exact s.spend_eq x
  · rfl

theorem State.vecSpend_enter (s : State) (c : CoreId) (y : Line) (x : InFlight) (l : VecLine) (q : Cvt) :
    (s.enter c y).vecSpend x l q = (s.vecSpend x l q).enter c y := by
  unfold State.vecSpend
  split
  · exact s.spend_enter c y x
  · rfl

/-- A unit command in clean memory that finishes with ST_OK from the state `b` of other free values and partitions. -/
theorem State.Idle.ranFrom {s b : State} {c : CoreId} {p : PartId} {x : Line} {r : Report} {m : CoreMem} (h : s.Idle c p)
    (hb : b = { s with free := b.free, parts := b.parts }) (hcheck : s.checkLine c p x = none) (hholds : holdsDecode x = false)
    (hunits : unitsOf x ≠ []) (hrecv : ∀ l, x ≠ .recv l) (hbytes : bytesOf x = 0)
    (hrun : (s.enter c x).runLine c p ((s.core c).ctl.capture x) = .done r ((b.enter c x).withMem c m)) (hok : r.status = stOk) :
    b.Ran (s.decodeLine c x).settle c p x r m := by
  have hcores : b.cores = s.cores := by rw [hb]
  have hcore : ∀ d, b.core d = s.core d := fun d => by rw [State.core, State.core, hcores]
  exact h.runsFrom hcheck hholds hunits (fun l hl => absurd hl (hrecv l)) (by rw [hcores]; exact hb) (fun d _ => hcore d)
    (by rw [hcore]) (by rw [hcore]) hbytes hrun hok

/-- Settles O15: the result is stored from the state that has used the free values. -/
theorem vecWritesItsResult : Obligations.VecWritesItsResult := by
  intro s c p l q m x f n as bs ys rs b hidle hclean hcheck hq
  have hmem := State.enter_mem s c (.vec l)
  have hspent : b.enter c (.vec l) = (s.enter c (.vec l)).vecSpend x l q := (s.vecSpend_enter c _ x l q).symm
  have hb : b = { s with free := b.free, parts := b.parts } := s.vecSpend_eq x l q
  have hbmem : ((b.enter c (.vec l)).core c).mem = m := by
    rw [State.enter_mem, hb]
    rfl
  have hrun : (s.enter c (.vec l)).runVec c x l =
      if l.dk then
        .done ⟨stOk, 0, (convRun q ys rs).2, 0, 0⟩
          ((b.enter c (.vec l)).withMem c (m.setLanes ((l.d.toNat % 32) * 512) ((convRun q ys rs).1.map (BitVec.ofNat 32 ·))))
      else .done ⟨stOk, 0, (runOut q l.d.toNat ys rs).2, 0, 0⟩
        ((b.enter c (.vec l)).withMem c (m.putRuns (runOut q l.d.toNat ys rs).1)) := by
    have hstart : (if q.rnd == .sr || l.vop.toNat == 0x20 || l.vop.toNat == 0x21 then (s.enter c (.vec l)).spend x
      else s.enter c (.vec l)) = b.enter c (.vec l) := hspent.symm
    unfold State.runVec
    simp only [hq, State.checkSpans_clean _ (hclean.enter _), hmem, hstart, State.modMem_eq_withMem,
      Run.ofWrite_clean _ _ (hbmem ▸ hclean : ((b.enter c (.vec l)).core c).mem.Clean), hbmem]
    rfl
  refine ⟨_, rfl, ?_⟩
  split
  next hd =>
    exact hidle.ranFrom hb hcheck rfl (List.cons_ne_nil _ _) (fun _ => Line.noConfusion) rfl (hrun.trans (if_pos hd)) rfl
  next hd =>
    exact hidle.ranFrom hb hcheck rfl (List.cons_ne_nil _ _) (fun _ => Line.noConfusion) rfl (hrun.trans (if_neg hd)) rfl

/-! ### EPI -/

theorem State.mergeAmax_eq (s : State) (p : PartId) (en : Bool) (i : Nat) (step : BitVec 32) (v : Nat) (nan : Bool) :
    s.mergeAmax p en i step v nan = { s with parts := (s.mergeAmax p en i step v nan).parts } := by
  unfold State.mergeAmax
  dsimp only
  split
  · rfl
  · split <;> rfl

theorem State.mergeAmax_enter (s : State) (c : CoreId) (x : Line) (p : PartId) (en : Bool) (i : Nat) (step : BitVec 32) (v : Nat)
    (nan : Bool) : (s.enter c x).mergeAmax p en i step v nan = (s.mergeAmax p en i step v nan).enter c x := by
  have hpart : (s.enter c x).part p = s.part p := rfl
  unfold State.mergeAmax
  simp only [hpart]
  split
  · rfl
  · split <;> rfl

/-- A change of partitions after one of free values and partitions. -/
theorem State.eq_of_parts {s a b : State} (ha : a = { s with free := a.free, parts := a.parts })
    (hb : b = { a with parts := b.parts }) : b = { s with free := b.free, parts := b.parts } := by
  rw [hb, ha]

/-- The line of an exchange EPI has its format already. -/
theorem exchangeCvt_eq {cvt : BitVec 8} (h : cvt.extractLsb' 4 4 = 11) : (cvt &&& 0x0F#8) ||| 0xB0#8 = cvt := by
  revert h cvt
  decide

theorem exec_epi {s : State} {c : CoreId} {l : EpiLine} {exchange : Bool}
    (hwf : (if exchange then Instr.exchangeEpi c l else .epi c l).wf = true) :
    exec (if exchange then .exchangeEpi c l else .epi c l) s = .next (s.decodeLine c (.epi l)).settle := by
  cases exchange
  · rfl
  · have hcvt : (l.cvt &&& 0x0F#8) ||| 0xB0#8 = l.cvt := exchangeCvt_eq (eq_of_beq hwf)
    change Host.Outcome.next (s.decodeLine c (.epi { l with cvt := (l.cvt &&& 0x0F#8) ||| 0xB0#8 })).settle = _
    rw [hcvt]

/-- Settles O17: with good parity the rows are drained to the end, and the runs are stored from the state whose slot has taken the
largest magnitude. -/
theorem epiDrainsItsRegion : Obligations.EpiDrainsItsRegion := by
  intro s c p exchange l n v i m x o b hwf hidle hclean hcheck hn hv hbad hwaits
  have hmem := State.enter_mem s c (.epi l)
  have hpart : ((s.enter c (.epi l)).core c).part = some p := by rw [State.enter_core]; exact hidle.2.1
  have hb : b = { s with free := b.free, parts := b.parts } := State.eq_of_parts (s.spend_eq x) (State.mergeAmax_eq _ p _ _ _ _ _)
  have hstart : ((s.enter c (.epi l)).spend x).mergeAmax p l.amxEn l.amx.toNat (x.amaxStep s) (upB32 o.amax) o.nan =
      b.enter c (.epi l) := by
    rw [State.spend_enter, State.mergeAmax_enter]
  have hbmem : ((b.enter c (.epi l)).core c).mem = m := by
    rw [State.enter_mem, hb]
    rfl
  have hrun : (s.enter c (.epi l)).runEpi c x l =
      .done ⟨stOk, 0, o.flags, 0, 0⟩ ((b.enter c (.epi l)).withMem c (m.putRuns o.runs)) := by
    unfold State.runEpi
    simp only [hn, hv, hpart, State.checkSpans_clean _ (hclean.enter _), hmem]
    have hready : ¬ (s.enter c (.epi l)).amaxWaits p x = true := Bool.eq_false_iff.mp hwaits
    rw [if_neg hready]
    split
    next =>
      have hwrite := Run.ofWrite_clean o.runs ⟨stOk, 0, o.flags, 0, 0⟩
        (hbmem ▸ hclean : ((b.enter c (.epi l)).core c).mem.Clean)
      rw [hbmem, ← hstart] at hwrite
      exact hstart ▸ hwrite
    next e he =>
      have hbad' : o.bad = some e := he
      rw [hbad] at hbad'
      cases hbad'
  exact ⟨_, exec_epi hwf, hidle.ranFrom hb hcheck rfl (List.cons_ne_nil _ _) (fun _ => Line.noConfusion) rfl hrun rfl⟩

end Sys2Proof.Machine

/-! UPD (05 R112, 09 R197, R198). The groups of a line are distinct, so each that takes a write holds its own values after it
(`get_storedGroups_of_mem`), and no other group changes (`get_storedGroups_of_notMem`). -/

namespace Sys2Proof.Machine

/-- What each group of an UPD meets (R198). -/
def State.updCases (s : State) (p : PartId) (l : UpdLine) : List (Nat × UpdCase) :=
  l.groups.map fun g => (g, (s.part p).ue.updCase (s.sumSteps p) ((s.part p).ue.group g) l.step)

/-- A table in which the groups that take a write hold the coefficients of the line. -/
def storedGroups (l : UpdLine) (cases : List (Nat × UpdCase)) (m : Smap UpdGroup) : Smap UpdGroup :=
  cases.foldl (fun m c => match c.2 with
    | .write g => m.set UpdGroup.reset c.1 (l.coefs.foldl (fun a v => a.write l.step v.1 v.2) g)
    | _ => m) m

theorem storedGroups_cons (l : UpdLine) (n : Nat) (k : UpdCase) (cases : List (Nat × UpdCase)) (m : Smap UpdGroup) :
    storedGroups l ((n, k) :: cases) m = storedGroups l cases (match k with
      | .write g => m.set UpdGroup.reset n (l.coefs.foldl (fun a v => a.write l.step v.1 v.2) g)
      | _ => m) := rfl

theorem get_storedGroups_of_notMem {l : UpdLine} {cases : List (Nat × UpdCase)} {n : Nat}
    (h : ∀ e ∈ cases, ∀ g, e.2 = .write g → e.1 ≠ n) (m : Smap UpdGroup) :
    (storedGroups l cases m).get UpdGroup.reset n = m.get UpdGroup.reset n := by
  induction cases generalizing m with
  | nil => rfl
  | cons e es ih =>
    obtain ⟨k, case⟩ := e
    rw [storedGroups_cons, ih fun e he => h e (List.mem_cons_of_mem _ he)]
    cases case with
    | write g => exact Smap.get_set_other _ _ _ _ _ (h _ List.mem_cons_self g rfl).symm
    | bad => rfl
    | wait => rfl

theorem get_storedGroups_of_mem {l : UpdLine} {cases : List (Nat × UpdCase)} {n : Nat} {g : UpdGroup}
    (hnd : (cases.map Prod.fst).Nodup) (h : (n, .write g) ∈ cases) (m : Smap UpdGroup) :
    (storedGroups l cases m).get UpdGroup.reset n = l.coefs.foldl (fun a v => a.write l.step v.1 v.2) g := by
  induction cases generalizing m with
  | nil => exact absurd h List.not_mem_nil
  | cons e es ih =>
    obtain ⟨he, hnd⟩ := List.nodup_cons.mp hnd
    obtain rfl | h := List.mem_cons.mp h
    · have hother : ∀ e ∈ es, ∀ g, e.2 = .write g → e.1 ≠ n := fun e hes _ _ heq => he (List.mem_map.mpr ⟨e, hes, heq⟩)
      rw [storedGroups_cons, get_storedGroups_of_notMem hother]
      exact Smap.get_set_same _ _ _ _
    · exact ih hnd h _

theorem nodup_groups (l : UpdLine) : l.groups.Nodup := by
  unfold UpdLine.groups
  split
  · exact List.nodup_range
  · exact List.nodup_singleton _

theorem State.map_fst_updCases (s : State) (p : PartId) (l : UpdLine) : (s.updCases p l).map Prod.fst = l.groups := by
  rw [State.updCases, List.map_map]
  exact List.map_id' _

/-- The state in which an UPD has taken effect; the engine remembers 16 steps of UPDs (log 48). -/
def State.updated (s : State) (p : PartId) (l : UpdLine) : State :=
  s.modUe p fun u => { u with
    groups := storedGroups l (s.updCases p l) (s.part p).ue.groups, known := l.step :: (u.known.filter (· != l.step)).take 15 }

/-- An UPD none of whose groups refuses its STEP or makes it wait takes effect. -/
theorem State.runUpd_done {s : State} {p : PartId} {l : UpdLine} (h : ∀ e ∈ s.updCases p l, e.2 ≠ .bad ∧ e.2 ≠ .wait) :
    s.runUpd p l = .done Report.ok (s.updated p l) := by
  have hbad : (s.updCases p l).any (fun c => c.2 == .bad) = false := List.any_eq_false.mpr fun e he => by simpa using (h e he).1
  have hwait : (s.updCases p l).any (fun c => c.2 == .wait) = false := List.any_eq_false.mpr fun e he => by simpa using (h e he).2
  unfold State.updCases at hbad hwait
  unfold State.runUpd
  simp only [hbad, hwait, Bool.false_eq_true, if_false]
  rfl

/-- What the groups hold after an UPD. -/
theorem State.get_updated_groups {s : State} {p : PartId} {l : UpdLine} :
    (∀ e ∈ s.updCases p l, ∀ g, e.2 = .write g →
      (storedGroups l (s.updCases p l) (s.part p).ue.groups).get UpdGroup.reset e.1 =
        l.coefs.foldl (fun a v => a.write l.step v.1 v.2) g) := by
  intro e he g hg
  refine get_storedGroups_of_mem (s.map_fst_updCases p l ▸ nodup_groups l) ?_ _
  rw [← hg]
  exact he

/-- Settles O18: the groups of a line are distinct, so each holds what its own case gives. -/
theorem updWritesTheGroups : Obligations.UpdWritesTheGroups := by
  intro s c p l u cases hidle hcheck hcases
  have hrun : (s.enter c (.upd l)).runUpd p l = .done Report.ok (((s.updated p l).enter c (.upd l)).withMem c (s.core c).mem) := by
    have hdone : (s.enter c (.upd l)).runUpd p l = .done Report.ok ((s.updated p l).enter c (.upd l)) :=
      State.runUpd_done (s := s.enter c (.upd l)) hcases
    have hmem : (((s.updated p l).enter c (.upd l)).core c).mem = (s.core c).mem := State.enter_mem (s.updated p l) c _
    rw [hdone, ← hmem, State.withMem_self]
  exact ⟨_, _, rfl, hidle.ranFrom rfl hcheck rfl (List.cons_ne_nil _ _) (fun _ => Line.noConfusion) rfl hrun rfl,
    State.get_updated_groups, fun n hn => get_storedGroups_of_notMem hn _⟩

end Sys2Proof.Machine

/-! How a core goes on while the rest of the machine rests. `State.Rests` is `State.still` without its cores, in the form in which
an operation keeps it; `State.Ready.completes` is the rule of every line that finishes as it is decoded (05 R95, R118). -/

namespace Sys2Proof.Machine

/-! ### What waits outside the cores -/

/-- Nothing waits in the engines, the queues and the mailboxes. -/
structure State.Rests (s : State) : Prop where
  relayed : s.reg.relayed = []
  relays : s.reg.relays = []
  refusers : s.refusers = []
  localA2a : s.eng.localA2a = []
  xfers : s.eng.xfers = []
  waiters : ∀ q d, s.queue q = some d → d.waiters = []
  owed : ∀ m, (s.mb m).owed = none
  waits : ∀ m r, (s.mb m).busy = some r → r.wait = none

theorem Smap.mem_keys_of_get {α : Type} {d : α} {m : Smap α} {a : Nat} (h : Smap.get d m a ≠ d) : a ∈ m.map Prod.fst := by
  induction m with
  | nil => exact absurd rfl h
  | cons e m ih =>
    obtain ⟨k, v⟩ := e
    by_cases hk : k = a
    · simp [hk]
    · rw [Smap.get, if_neg (Ne.symm hk)] at h
      exact List.mem_cons_of_mem _ (ih h)

theorem State.mem_qids {s : State} {q : Qid} {d : Queue} (h : s.queue q = some d) : q ∈ s.qids := by
  have hkey : q.toNat ∈ s.eng.queues.map Prod.fst := Smap.mem_keys_of_get (d := none) (by rw [← State.queue, h]; simp)
  obtain ⟨e, he, hq⟩ := List.mem_map.mp hkey
  exact List.mem_map.mpr ⟨e, he, by rw [hq]; simp⟩

theorem State.still_iff {s : State} : s.still = true ↔ (∀ c, s.coreStill c = true) ∧ s.Rests := by
  simp only [State.still, Bool.and_eq_true, List.all_eq_true, List.isEmpty_iff]
  constructor
  · rintro ⟨⟨⟨⟨⟨hcores, ⟨hrelayed, hrelays⟩, hrefusers⟩, ha2a⟩, hxfers⟩, hqueues⟩, hmbs⟩
    refine ⟨fun c => hcores c (by simp [allCores]), hrelayed, hrelays, hrefusers, ha2a, hxfers, fun q d hd => ?_,
      fun m => by simpa using (hmbs m (by simp [allMbs])).1, fun m r hr => ?_⟩
    · simpa [hd] using hqueues q (State.mem_qids hd)
    · simpa [hr] using (hmbs m (by simp [allMbs])).2
  · rintro ⟨hcores, h⟩
    refine ⟨⟨⟨⟨⟨fun c _ => hcores c, ⟨h.relayed, h.relays⟩, h.refusers⟩, h.localA2a⟩, h.xfers⟩, fun q _ => ?_⟩, fun m _ => ?_⟩
    · cases hd : s.queue q with
      | none => rfl
      | some d => simp [h.waiters q d hd]
    · refine ⟨by simp [h.owed m], ?_⟩
      cases hr : (s.mb m).busy with
      | none => rfl
      | some r => simp [h.waits m r hr]

theorem State.rests_of_still {s : State} (h : s.still = true) : s.Rests := (State.still_iff.mp h).2

theorem State.Rests.progressEngines {s : State} (h : s.Rests) : s.progressEngines = s := by
  have hq : ∀ q ∈ s.qidsFirst, ∀ d, s.queue q = some d → d.waiters = [] := fun q _ d hd => h.waiters q d hd
  simp only [State.progressEngines, State.sweepRelays_of_none h.relayed h.relays, h.refusers, State.bookAllRefused, State.localA2a,
    h.localA2a, State.drainLocal, h.xfers, State.rtFirst, List.filter_nil, List.append_nil, State.permAll, State.ownAll,
    State.grantAll_of_idle _ hq, State.oweResponses_of_none _ h.owed, State.sweepXfers_of_nil h.xfers,
    State.sweepWaits_of_none _ h.waits]

/-- A machine rests by its engines and by what its Regulator relays and its mailboxes hold. -/
theorem State.Rests.congr {s t : State} (h : s.Rests) (heng : t.eng = s.eng) (hmbs : t.reg.mbs = s.reg.mbs)
    (hrelayed : t.reg.relayed = s.reg.relayed) (hrelays : t.reg.relays = s.reg.relays) : t.Rests where
  relayed := hrelayed.trans h.relayed
  relays := hrelays.trans h.relays
  refusers := by simpa only [State.refusers, State.sessions, heng] using h.refusers
  localA2a := heng ▸ h.localA2a
  xfers := heng ▸ h.xfers
  waiters := by simpa only [State.queue, heng] using h.waiters
  owed := by simpa only [State.mb, hmbs] using h.owed
  waits := by simpa only [State.mb, hmbs] using h.waits

theorem State.Rests.setQueue {s : State} (h : s.Rests) {q : Qid} {d : Queue} (hd : d.waiters = []) : (s.setQueue q d).Rests where
  relayed := h.relayed
  relays := h.relays
  refusers := h.refusers
  localA2a := h.localA2a
  xfers := h.xfers
  waiters := by
    intro r e he
    by_cases hr : r = q
    · subst hr
      rw [State.queue_setQueue_same] at he
      cases he
      exact hd
    · rw [State.queue_setQueue_other _ _ _ _ hr] at he
      exact h.waiters r e he
  owed := h.owed
  waits := h.waits

/-- A core holds nothing back by its control state and by the rounds that have its REUSEs. -/
theorem State.coreStill_congr {s t : State} {c : CoreId} (hctl : (t.core c).ctl = (s.core c).ctl)
    (hrounds : t.eng.rounds = s.eng.rounds) : t.coreStill c = s.coreStill c := by
  have hreuse : ∀ x, t.reuseWaits c x = s.reuseWaits c x := fun x => by unfold State.reuseWaits; rw [hrounds]
  simp only [State.coreStill, Core.still, hctl, hreuse]

/-- A state with the control states, the engines, the mailboxes and the relays of a still one is still. -/
theorem State.still_congr {s t : State} (h : s.still = true) (hctl : ∀ d, (t.core d).ctl = (s.core d).ctl) (heng : t.eng = s.eng)
    (hmbs : t.reg.mbs = s.reg.mbs) (hrelayed : t.reg.relayed = s.reg.relayed) (hrelays : t.reg.relays = s.reg.relays) :
    t.still = true :=
  State.still_iff.mpr ⟨fun d => (State.coreStill_congr (hctl d) (by rw [heng])).trans (State.coreStill_of_still h d),
    (State.rests_of_still h).congr heng hmbs hrelayed hrelays⟩

theorem State.reuseWaits_of_not_started {s : State} {c : CoreId} {x : InFlight} (h : x.stage ≠ .started) :
    s.reuseWaits c x = false := by
  unfold State.reuseWaits
  split
  · simp [h]
  · rfl

/-! ### A command that finishes as the last of its core -/

/-- The slot of a command that has finished on time with a report (05 R118). -/
def InFlight.finished (x : InFlight) (n : Nat) (r : Report) (time : BitVec 64) : InFlight :=
  { x with
    stage := .done n, status := r.status, acc := BitVec.ofNat 8 r.acc, cvt := BitVec.ofNat 8 r.cvt
    info0 := BitVec.ofNat 32 r.info0, info1 := BitVec.ofNat 64 r.info1, time := time }

/-- The control state once its last slot, `x` after the slots `ys`, has finished (05 R95, R118). -/
def CoreCtl.finishLast (t : CoreCtl) (ys : List InFlight) (x : InFlight) (r : Report) (time : BitVec 64) : CoreCtl :=
  { t with
    finCount := t.finCount + 1
    slots := ys ++ [x.finished t.finCount r time]
    stream := if t.stream = .running ∧ haltsStream x.line r.status = true then .halted else t.stream }

theorem State.modCtl_modCtl (s : State) (c : CoreId) (f g : CoreCtl → CoreCtl) :
    (s.modCtl c f).modCtl c g = s.modCtl c fun t => g (f t) := by
  simp only [State.modCtl, State.modCore, State.core_setCore_same]
  simp only [State.setCore, Vector.set_set]

theorem State.modCtl_congr {s : State} {c : CoreId} {f g : CoreCtl → CoreCtl} (h : f (s.core c).ctl = g (s.core c).ctl) :
    s.modCtl c f = s.modCtl c g := by
  simp only [State.modCtl, State.modCore, h]

theorem State.countStatus_cores (s : State) (p : PartId) (st : BitVec 16) (k : Vector Core 24) :
    ({ s with cores := k } : State).countStatus p st = { s.countStatus p st with cores := k } := by
  unfold State.countStatus
  split <;> rfl

theorem State.countStatus_eq (s : State) (p : PartId) (st : BitVec 16) :
    s.countStatus p st = { s with parts := (s.countStatus p st).parts } := by
  unfold State.countStatus
  split <;> rfl

theorem State.counted_eq (s : State) (p : PartId) (r : Report) : s.counted p r = { s with parts := (s.counted p r).parts } := by
  unfold State.counted
  simp only
  split <;> split <;> rfl

section
variable {v : State} {c : CoreId} {p : PartId} {x : InFlight} {ys : List InFlight} {r : Report}

theorem Core.slot_last {k : Core} (hslots : k.ctl.slots = ys ++ [x]) (hys : ∀ y ∈ ys, y.token ≠ x.token) :
    k.slot x.token = some x := by
  have hnone : ys.find? (fun y => y.token == x.token) = none := List.find?_eq_none.mpr fun y hy => by simpa using hys y hy
  simp [Core.slot, hslots, List.find?_append, hnone]

theorem State.finishSlot_last (hpart : (v.core c).part = some p) (hslots : (v.core c).ctl.slots = ys ++ [x])
    (hys : ∀ y ∈ ys, y.token ≠ x.token) (hwait : x.stage = .waiting) (hlate : x.late = false) (hmiss : x.missed v.now = false) :
    v.finishSlot c x.token r =
      ((v.modCtl c fun t => t.finishLast ys x r v.aon.time).countStatus p r.status).counted p r := by
  have hslot := Core.slot_last hslots hys
  have hmap : ∀ g : InFlight → InFlight, (ys.map fun y => if y.token = x.token then g y else y) = ys := fun g =>
    (List.map_congr_left fun y hy => if_neg (hys y hy)).trans (List.map_id ys)
  unfold State.finishSlot
  rw [hslot]
  simp only [hwait, CmdStage.isDone, Bool.false_eq_true, if_false, hmiss, hpart]
  have hctl : (v.modSlot c x.token fun y : InFlight => { y with
        stage := .done (v.core c).ctl.finCount, status := r.status, acc := BitVec.ofNat 8 r.acc, cvt := BitVec.ofNat 8 r.cvt
        info0 := BitVec.ofNat 32 r.info0, info1 := BitVec.ofNat 64 r.info1, time := v.aon.time, late := false }).modCtl c
      (fun t : CoreCtl => { t with
        finCount := t.finCount + 1
        stream := if t.stream = .running ∧ haltsStream x.line r.status = true then .halted else t.stream }) =
      v.modCtl c fun t => t.finishLast ys x r v.aon.time := by
    rw [State.modSlot, State.modCtl_modCtl]
    refine State.modCtl_congr ?_
    simp only [CoreCtl.finishLast, hslots, List.map_append, hmap, List.map_cons, List.map_nil, if_true, InFlight.finished]
    simp only [hlate]
  cases x.deadline <;> simp only [hctl] <;> rfl

/-- A command that is neither a ROUTE nor a RECV, or ends with ST_OK, finishes as its slot does (07 R140, 10 R238). -/
theorem State.finishCmd_eq (hslots : (v.core c).ctl.slots = ys ++ [x]) (hys : ∀ y ∈ ys, y.token ≠ x.token)
    (h : r.status = stOk ∨ unitsOf x.line = []) : v.finishCmd c x.token r = v.finishSlot c x.token r := by
  obtain hok | hunit := h
  · exact State.finishCmd_ok hok
  · unfold State.finishCmd
    rw [Core.slot_last hslots hys]
    cases hline : x.line with
    | route l => simp [hline, unitsOf] at hunit
    | recv l => simp [hline, unitsOf] at hunit
    | _ => cases (v.core c).part <;> simp only [hline]

theorem State.complete_last (hpart : (v.core c).part = some p) (hslots : (v.core c).ctl.slots = ys ++ [x])
    (hys : ∀ y ∈ ys, y.token ≠ x.token) (hwait : x.stage = .waiting) (hlate : x.late = false) (hmiss : x.missed v.now = false)
    (hcause : statusCause r.status = none) (hline : r.status = stOk ∨ unitsOf x.line = []) :
    v.complete c x.token r =
      ((v.modCtl c fun t => t.finishLast ys x r v.aon.time).countStatus p r.status).counted p r := by
  unfold State.complete
  rw [hcause, State.finishCmd_eq hslots hys hline, State.finishSlot_last hpart hslots hys hwait hlate hmiss]

end

/-! ### A line that completes at decode -/

/-- A change of the control state that touches neither its slots, their count, the stream nor the held command. -/
def BesideSlots (f : CoreCtl → CoreCtl) : Prop :=
  ∀ t n ys st hd, f { t with finCount := n, slots := ys, stream := st, hold := hd } =
    { f t with finCount := n, slots := ys, stream := st, hold := hd }

theorem BesideSlots.same {f : CoreCtl → CoreCtl} (h : BesideSlots f) (t : CoreCtl) :
    (f t).slots = t.slots ∧ (f t).finCount = t.finCount ∧ (f t).stream = t.stream ∧ (f t).hold = t.hold := by
  have hsame := h t t.finCount t.slots t.stream t.hold
  exact ⟨by rw [hsame], by rw [hsame], by rw [hsame], by rw [hsame]⟩

/-- The control state past a line that has been decoded and put in a slot (05 R94, R114). -/
def CoreCtl.entered (t : CoreCtl) (x : Line) : CoreCtl :=
  { t with pc := t.pc + 32, tokens := t.tokens + 1, slots := t.slots ++ [t.capture x] }

theorem State.Ready.of_idle {s : State} {c : CoreId} {p : PartId} (h : s.Idle c p) (x : Line) : s.Ready c p x := by
  obtain ⟨hstill, hpart, hrun, hend, hslots, hsel, hdl⟩ := h
  exact ⟨hstill, hpart, hrun, hend, by simp [hslots], by simp [hslots], hsel, hdl⟩

section
variable {s b v : State} {c : CoreId} {p : PartId} {x : Line} {r : Report} {f : CoreCtl → CoreCtl}

/-- The last command of a core, decoded as `x` from the state `s`, finishes in `v`, which differs from `b` in that core only. -/
theorem State.Ready.completes (h : s.Ready c p x) (hf : BesideSlots f)
    (hbctl : (b.core c).ctl = (s.core c).ctl) (hbpart : (b.core c).part = (s.core c).part) (hbaon : b.aon = s.aon)
    (hv : v = { b with cores := v.cores }) (hother : ∀ d, d ≠ c → v.core d = b.core d)
    (hcore : v.core c = { b.core c with ctl := f ((s.core c).ctl.entered x) })
    (hcause : statusCause r.status = none) (hline : r.status = stOk ∨ unitsOf x = []) :
    b.Decoded (v.complete c (s.core c).ctl.tokens r) c p x r f := by
  obtain ⟨-, hpart, hrun, -, -, htok, -, hdl⟩ := h
  obtain ⟨hslots, hfin, hstream, hhold⟩ := hf.same ((s.core c).ctl.entered x)
  have hnow : v.aon = s.aon := by rw [hv, hbaon]
  have hmiss : ((s.core c).ctl.capture x).missed v.now = false := InFlight.missed_eq rfl (by rw [State.now, hnow]; exact hdl)
  have hlast := State.complete_last (v := v) (c := c) (p := p) (x := (s.core c).ctl.capture x) (ys := (s.core c).ctl.slots) (r := r)
    (by rw [hcore]; exact hbpart.trans hpart) (by rw [hcore]; exact hslots) (fun y hy => (htok y hy).2.ne) rfl rfl hmiss hcause hline
  have htoken : ((s.core c).ctl.capture x).token = (s.core c).ctl.tokens := rfl
  rw [htoken] at hlast
  rw [hlast]
  generalize hw : (v.modCtl c fun t => t.finishLast (s.core c).ctl.slots ((s.core c).ctl.capture x) r v.aon.time) = w
  have hwb : w = { b with cores := w.cores } := by
    have hwv : w = { v with cores := w.cores } := by rw [← hw]; rfl
    exact hwv.trans (by conv_lhs => rw [hv])
  have hcores : ((w.countStatus p r.status).counted p r).cores = w.cores := by
    rw [State.counted_eq, State.countStatus_eq]
  have hcorew : ∀ d, ((w.countStatus p r.status).counted p r).core d = w.core d := fun d => by
    unfold State.core; rw [hcores]
  refine ⟨?_, fun d hd => ?_, ?_⟩
  · rw [hcores]
    conv_lhs => rw [hwb, State.countStatus_cores, State.counted_cores]
  · rw [hcorew, ← hw, State.modCtl, State.core_modCore_other _ _ _ _ hd, hother d hd]
  · rw [hcorew, ← hw, State.modCtl, State.core_modCore_same, hcore, hbctl]
    have hfinish : (f ((s.core c).ctl.entered x)).finishLast (s.core c).ctl.slots ((s.core c).ctl.capture x) r v.aon.time =
        f { (s.core c).ctl with
          stream := if haltsStream x r.status then .halted else (s.core c).ctl.stream
          pc := (s.core c).ctl.pc + 32, tokens := (s.core c).ctl.tokens + 1, finCount := (s.core c).ctl.finCount + 1
          slots := (s.core c).ctl.slots ++ [(s.core c).ctl.finished x r s.aon.time] } := by
      refine Eq.trans ?_ (hf ((s.core c).ctl.entered x) ((s.core c).ctl.finCount + 1)
        ((s.core c).ctl.slots ++ [(s.core c).ctl.finished x r s.aon.time])
        (if haltsStream x r.status then .halted else (s.core c).ctl.stream) (s.core c).ctl.hold).symm
      have hline : ((s.core c).ctl.capture x).line = x := rfl
      have hrunning : ((s.core c).ctl.entered x).stream = .running := hrun
      have hholds : (f ((s.core c).ctl.entered x)).hold = (s.core c).ctl.hold := hhold
      simp only [CoreCtl.finishLast, hfin, hstream, hnow, hrunning, hrun, hline, true_and, ← hholds]
      rfl
    rw [hfinish, hbaon]

end

theorem State.Decoded.eng {b t : State} {c : CoreId} {p : PartId} {x : Line} {r : Report} {f : CoreCtl → CoreCtl}
    (h : b.Decoded t c p x r f) : t.eng = b.eng ∧ t.reg = b.reg := by
  obtain ⟨ht, -, -⟩ := h
  rw [ht, State.counted_eq, State.countStatus_eq]
  exact ⟨rfl, rfl⟩

/-- A line that has completed at decode leaves nothing waiting. -/
theorem State.Decoded.still {b t : State} {c : CoreId} {p : PartId} {x : Line} {r : Report} {f : CoreCtl → CoreCtl}
    (h : b.Decoded t c p x r f) (hf : BesideSlots f) (hstill : b.still = true) : t.still = true := by
  obtain ⟨heng, hreg⟩ := h.eng
  obtain ⟨-, hother, hcore⟩ := h
  refine State.still_of_cores heng hreg (fun d => ?_) hstill
  have hd := State.coreStill_of_still hstill d
  by_cases hdc : d = c
  · subst hdc
    obtain ⟨hcs, hreuse⟩ := State.coreStill_iff.mp hd
    obtain ⟨hhold, hwait⟩ := Core.still_iff.mp hcs
    have hrounds : ∀ y, t.reuseWaits d y = b.reuseWaits d y := fun y => by unfold State.reuseWaits; rw [heng]
    rw [State.coreStill_iff, Core.still_iff, hcore]
    have hslots := fun u => (hf.same u).1
    have hkeep := fun (u : CoreCtl) => (hf.same u).2.2.2
    simp only [hslots, hkeep, List.mem_append, List.mem_singleton]
    refine ⟨⟨hhold, ?_⟩, ?_⟩
    · rintro y (hy | rfl)
      · exact hwait y hy
      · simp [CoreCtl.finished]
    · rintro y (hy | rfl)
      · rw [hrounds]; exact hreuse y hy
      · exact State.reuseWaits_of_not_started (by simp [CoreCtl.finished])
  · exact (State.coreStill_congr (by rw [hother d hdc]) (by rw [heng])).trans hd

theorem State.Ready.decodeFree {s : State} {c : CoreId} {p : PartId} {x : Line} (h : s.Ready c p x) (hunit : unitsOf x = []) :
    (s.core c).decodeFree x = true := by
  obtain ⟨hstill, hpart, hrun, hend, hroom, htok, hsel, hdl⟩ := h
  have hhold := (Core.still_iff.mp (State.core_still hstill c)).1
  have htag : ((s.core c).ctl.slots.any fun y => (lineHdr y.line).tag == (lineHdr x).tag) = false := by
    simpa using fun y hy => (htok y hy).1
  simp [Core.decodeFree, hrun, hhold, hend, hroom, htag, hunit]

theorem State.enter_eq (s : State) (c : CoreId) (x : Line) : (s.modCtl c fun t => { t with pc := t.pc + 32, tokens := t.tokens + 1 }).modCtl c
    (fun t => { t with slots := t.slots ++ [(s.core c).ctl.capture x] }) = s.enter c x := by
  rw [State.modCtl_modCtl, State.enter]
  exact State.modCtl_congr rfl

/-- A line that fails a decode check completes with its report (05 R97). -/
theorem State.decodeLine_of_bad {s : State} {c : CoreId} {p : PartId} {x : Line} {r : Report} (hpart : (s.core c).part = some p)
    (hfree : (s.core c).decodeFree x = true) (hsel : s.selWaits c = false) (hbad : s.checkLine c p x = some r) :
    s.decodeLine c x = (s.enter c x).complete c (s.core c).ctl.tokens r := by
  simp only [State.decodeLine, hpart, hfree, hsel, hbad, Bool.not_false, Bool.and_self, if_true, State.enter_eq]
  rfl

/-- A line without a unit that does not hold decode acts in its slot and completes (05 R108 to R113). -/
theorem State.decodeLine_of_act {s : State} {c : CoreId} {p : PartId} {x : Line} (hpart : (s.core c).part = some p)
    (hfree : (s.core c).decodeFree x = true) (hsel : s.selWaits c = false) (hgood : s.checkLine c p x = none)
    (hhold : holdsDecode x = false) (hunit : unitsOf x = []) :
    s.decodeLine c x = ((s.enter c x).actAtDecode c p ((s.core c).ctl.capture x)).2.complete c (s.core c).ctl.tokens
      ((s.enter c x).actAtDecode c p ((s.core c).ctl.capture x)).1 := by
  simp only [State.decodeLine, hpart, hfree, hsel, hgood, hhold, hunit, Bool.not_false, Bool.and_self, if_true, State.enter_eq,
    Bool.false_eq_true, if_false, List.isEmpty_nil]
  rfl

/-- A line that may wait at decode is held there, a MARK once it has set the core's mark. -/
theorem State.decodeLine_of_hold {s : State} {c : CoreId} {p : PartId} {x : Line} (hpart : (s.core c).part = some p)
    (hfree : (s.core c).decodeFree x = true) (hsel : s.selWaits c = false) (hgood : s.checkLine c p x = none)
    (hhold : holdsDecode x = true) :
    s.decodeLine c x = ((s.modCtl c fun t => { t with pc := t.pc + 32, tokens := t.tokens + 1 }).markIn c p
      ((s.core c).ctl.capture x)).modCtl c fun t => { t with hold := some ((s.core c).ctl.capture x, s.aon.time) } := by
  simp only [State.decodeLine, hpart, hfree, hsel, hgood, hhold, Bool.not_false, Bool.and_self, if_true]

/-! ### Settling around one core -/

theorem State.progressCores_of_fixed {s : State} (cs : List CoreId) (h : ∀ c, s.progressCore c = s) : s.progressCores cs = s := by
  induction cs with
  | nil => rfl
  | cons c cs ih => rw [State.progressCores, h c, ih]

/-- Where only core `c` goes on, and after that nothing does, the machine settles to what that core comes to. -/
theorem State.settle_of_core {s w : State} {c : CoreId} (hother : ∀ d, d ≠ c → s.coreStill d = true) (hbusy : c ∈ s.busyCores)
    (hstep : s.progressCore c = w) (hfixed : ∀ d, w.progressCore d = w) (heng : w.progressEngines = w) : s.settle = w := by
  have key : ∀ cs : List CoreId, c ∈ cs → s.progressCores cs = w := by
    intro cs
    induction cs with
    | nil => intro h; cases h
    | cons d ds ih =>
      intro hc
      by_cases hd : d = c
      · subst hd
        rw [State.progressCores, hstep]
        exact State.progressCores_of_fixed ds hfixed
      · rw [State.progressCores, State.progressCore_of_still (hother d hd)]
        exact ih (by simpa [Ne.symm hd] using hc)
  simp only [State.settle, key _ hbusy, heng, State.progressCores_of_fixed _ hfixed]

theorem State.mem_busyCores {s : State} {c : CoreId} (h : (s.core c).ctl.slots ≠ [] ∨ (s.core c).ctl.hold.isSome = true) :
    c ∈ s.busyCores := by
  have hbusy : (!(s.core c).ctl.slots.isEmpty || (s.core c).ctl.hold.isSome) = true := by
    obtain h | h := h <;> simp [h]
  simp only [State.busyCores, List.mem_append, List.mem_filter]
  cases hfirst : s.goesFirst c
  · exact .inr ⟨⟨by simp [allCores], hbusy⟩, by simp⟩
  · exact .inl ⟨⟨by simp [allCores], hbusy⟩, by simp⟩

section
variable {u w : State} {c : CoreId} {p : PartId} {x : InFlight} {t0 : BitVec 64}

/-- A held command that finishes, and leaves nothing waiting. -/
theorem State.settle_of_held_finished {v : State} {r : Report} (hhold : (u.core c).ctl.hold = some (x, t0))
    (hpart : (u.core c).part = some p) (hother : ∀ d, d ≠ c → u.coreStill d = true)
    (hstep : u.stepHeld c p x t0.toNat = .finished r v) (hstill : ((v.dropHold c).complete c x.token r).still = true) :
    u.settle = (v.dropHold c).complete c x.token r := by
  have hprog : u.progressHold c = (v.dropHold c).complete c x.token r := by simp [State.progressHold, hhold, hpart, hstep]
  refine State.settle_of_core hother (State.mem_busyCores (.inr (by rw [hhold]; rfl))) ?_
    (fun d => State.progressCore_of_still (State.coreStill_of_still hstill d)) (State.rests_of_still hstill).progressEngines
  have hcs := State.coreStill_iff.mp (State.coreStill_of_still hstill c)
  have hwait := (Core.still_iff.mp hcs.1).2
  simp only [State.progressCore, hprog]
  split
  · exact State.tryStarts_of_notWaiting _ fun y hy => ⟨hwait y hy, hcs.2 y hy⟩
  · rfl

/-- A line held at decode that finishes there: what its step does to its core's control state is `f`, and all else is in `b`. -/
theorem State.Ready.holds {s b v : State} {y : Line} {r : Report} {f : CoreCtl → CoreCtl} (h : s.Ready c p y) (hf : BesideSlots f)
    (hhold : (u.core c).ctl.hold = some ((s.core c).ctl.capture y, t0)) (hpart : (u.core c).part = some p)
    (hother : ∀ d, d ≠ c → u.core d = s.core d) (heng : u.eng = s.eng)
    (hstep : u.stepHeld c p ((s.core c).ctl.capture y) t0.toNat = .finished r v)
    (hv : v = { b with cores := v.cores }) (hvother : ∀ d, d ≠ c → v.core d = b.core d)
    (hvcore : v.core c = { b.core c with ctl := f { (s.core c).ctl with
      pc := (s.core c).ctl.pc + 32, tokens := (s.core c).ctl.tokens + 1, hold := some ((s.core c).ctl.capture y, t0) } })
    (hbctl : (b.core c).ctl = (s.core c).ctl) (hbpart : (b.core c).part = (s.core c).part) (hbaon : b.aon = s.aon)
    (hstill : b.still = true) (hok : r.status = stOk) : b.Decoded u.settle c p y r f := by
  have hcause : statusCause r.status = none := by rw [hok]; rfl
  have hfree : (s.core c).ctl.hold = none := (Core.still_iff.mp (State.core_still h.1 c)).1
  have hctl : (v.core c).ctl = { f ((s.core c).ctl.entered y) with
      slots := (s.core c).ctl.slots, hold := some ((s.core c).ctl.capture y, t0) } := by
    have hbeside := hf ((s.core c).ctl.entered y) (s.core c).ctl.finCount (s.core c).ctl.slots (s.core c).ctl.stream
      (some ((s.core c).ctl.capture y, t0))
    obtain ⟨-, hfin, hstream, -⟩ := hf.same ((s.core c).ctl.entered y)
    have hfin' : (f ((s.core c).ctl.entered y)).finCount = (s.core c).ctl.finCount := hfin
    have hstream' : (f ((s.core c).ctl.entered y)).stream = (s.core c).ctl.stream := hstream
    rw [hvcore]
    refine Eq.trans ?_ (hbeside.trans ?_)
    · rfl
    · simp only [← hfin', ← hstream']
  have hdrop : (v.dropHold c).core c = { b.core c with ctl := f ((s.core c).ctl.entered y) } := by
    obtain ⟨hslots, -, -, hh⟩ := hf.same ((s.core c).ctl.entered y)
    have hslots' : (f ((s.core c).ctl.entered y)).slots = (s.core c).ctl.slots ++ [(s.core c).ctl.capture y] := hslots
    have hh' : (f ((s.core c).ctl.entered y)).hold = none := hh.trans hfree
    have hsame : { f ((s.core c).ctl.entered y) with
        slots := (s.core c).ctl.slots ++ [(s.core c).ctl.capture y], hold := none } = f ((s.core c).ctl.entered y) := by
      rw [← hslots', ← hh']
    have hcore : v.core c = { b.core c with ctl := { f ((s.core c).ctl.entered y) with
        slots := (s.core c).ctl.slots, hold := some ((s.core c).ctl.capture y, t0) } } := by rw [← hctl, hvcore]
    simp only [State.dropHold, State.modCtl, State.core_modCore_same, hcore]
    exact congrArg (fun g => { b.core c with ctl := g }) hsame
  have hdone := h.completes (b := b) (v := v.dropHold c) hf hbctl hbpart hbaon
    (by conv_lhs => rw [hv]
        rfl)
    (fun d hd => (State.core_modCore_other _ _ _ _ hd).trans (hvother d hd)) hdrop hcause (.inl hok)
  have hothers : ∀ d, d ≠ c → u.coreStill d = true := fun d hd =>
    (State.coreStill_congr (by rw [hother d hd]) (by rw [heng])).trans (State.coreStill_of_still h.1 d)
  have hsettle := State.settle_of_held_finished hhold hpart hothers hstep (hdone.still hf hstill)
  exact hsettle ▸ hdone

/-- A held command that waits on, in a state that it does not change again. -/
theorem State.settle_of_held_waiting (hhold : (u.core c).ctl.hold = some (x, t0)) (hpart : (u.core c).part = some p)
    (hother : ∀ d, d ≠ c → u.coreStill d = true) (hslots : ∀ y ∈ (u.core c).ctl.slots, y.stage ≠ .waiting ∧ w.reuseWaits c y = false)
    (hcores : w.cores = u.cores) (hrounds : w.eng.rounds = u.eng.rounds) (hrests : w.Rests)
    (hstep : u.stepHeld c p x t0.toNat = .waits w) (hagain : w.stepHeld c p x t0.toNat = .waits w) : u.settle = w := by
  have hcore : ∀ d, w.core d = u.core d := fun d => by unfold State.core; rw [hcores]
  have hwaits : ∀ z : State, z.cores = u.cores → z.stepHeld c p x t0.toNat = .waits w → z.progressCore c = w := by
    intro z hz hzs
    have hzc : z.core c = u.core c := by unfold State.core; rw [hz]
    have hprog : z.progressHold c = w := by simp [State.progressHold, hzc, hhold, hpart, hzs]
    simp only [State.progressCore, hprog, hcore, hpart]
    exact State.tryStarts_of_notWaiting _ fun y hy => hslots y (by rwa [hcore] at hy)
  refine State.settle_of_core hother (State.mem_busyCores (.inr (by rw [hhold]; rfl))) (hwaits u rfl hstep) (fun d => ?_)
    hrests.progressEngines
  by_cases hd : d = c
  · subst hd; exact hwaits w hcores hagain
  · exact State.progressCore_of_still ((State.coreStill_congr (by rw [hcore]) hrounds).trans (hother d hd))

end

end Sys2Proof.Machine

/-! What sending on a session does not see. A step that the update engine skips is told to the other modules over the transport
(`State.lossSkip`); none of this depends on the cores, so it may come before or after a core's own change. -/

namespace Sys2Proof.Machine

/-- The parts of the machine that no packet changes: the Regulator and the always-on part. -/
def State.steady (s : State) : Regulator × Aon := (s.reg, s.aon)

/-- An operation that neither reads nor changes the cores, and leaves the Regulator and the always-on part. -/
structure Transports (f : State → State) : Prop where
  cores : ∀ s k, f { s with cores := k } = { f s with cores := k }
  steady : ∀ s, (f s).steady = s.steady

theorem State.txPkt_transports (p : PartId) (k : Pkt) : Transports fun s => s.txPkt p k where
  cores s c := by
    have hport : ({ s with cores := c } : State).portTo k.dmod = s.portTo k.dmod := rfl
    unfold State.txPkt
    rw [hport]
    split <;> rfl
  steady s := by unfold State.txPkt; split <;> rfl

theorem State.emit_transports (i : Nat) (d : Session) (k : Pkt) : Transports fun s => s.emit i d k where
  cores s c := by unfold State.emit; split <;> exact (State.txPkt_transports _ _).cores (s.setSess i _) c
  steady s := by unfold State.emit; split <;> exact (State.txPkt_transports _ _).steady (s.setSess i _)

theorem State.pump_transports (i n : Nat) : Transports fun s => s.pump i n := by
  induction n with
  | zero => exact ⟨fun _ _ => rfl, fun _ => rfl⟩
  | succ n ih =>
    refine ⟨fun s c => ?_, fun s => ?_⟩
    · have hsess : ({ s with cores := c } : State).sess i = s.sess i := rfl
      simp only [State.pump, hsess]
      split
      · rfl
      · split
        · rfl
        · split
          · rw [(State.emit_transports _ _ _).cores, ih.cores]
          · rfl
    · simp only [State.pump]
      split
      · rfl
      · split
        · rfl
        · split
          · rw [ih.steady, (State.emit_transports _ _ _).steady]
          · rfl

theorem State.send_transports (i : Nat) (ks : List Pkt) : Transports fun s => s.send i ks where
  cores s c := by
    have hsess : ({ s with cores := c } : State).sess i = s.sess i := rfl
    unfold State.send
    rw [hsess]
    split
    · rfl
    · exact (State.pump_transports _ _).cores (s.setSess i _) c
  steady s := by
    unfold State.send
    split
    · rfl
    · exact (State.pump_transports _ _).steady (s.setSess i _)

theorem State.sendNotice_transports (i kind : Nat) (step : BitVec 32) (body : List Byte) :
    Transports fun s => s.sendNotice i kind step body where
  cores s c := by
    have hsess : ({ s with cores := c } : State).sess i = s.sess i := rfl
    unfold State.sendNotice
    rw [hsess]
    split
    · rfl
    · exact (State.send_transports _ _).cores s c
  steady s := by
    unfold State.sendNotice
    split
    · rfl
    · exact (State.send_transports _ _).steady s

theorem State.newSess_cores (s : State) (p : PartId) (m : BitVec 14) (h : Option (Fin 64)) (relay : Bool) (c : Vector Core 24) :
    ({ s with cores := c } : State).newSess p m h relay =
      ((s.newSess p m h relay).1, { (s.newSess p m h relay).2 with cores := c }) := by
  have hfree : ({ s with cores := c } : State).freeSess = s.freeSess := rfl
  unfold State.newSess
  rw [hfree]
  split <;> rfl

theorem State.needSess_cores (s : State) (p : PartId) (m : BitVec 14) (c : Vector Core 24) :
    ({ s with cores := c } : State).needSess p m = ((s.needSess p m).1, { (s.needSess p m).2 with cores := c }) := by
  have hfind : ({ s with cores := c } : State).findSess p m = s.findSess p m := rfl
  unfold State.needSess
  rw [hfind, State.newSess_cores]
  split
  · rfl
  · generalize s.newSess p m none false = n
    obtain ⟨_ | ⟨i, d⟩, z⟩ := n
    · rfl
    · exact congrArg (Prod.mk (some i)) ((State.emit_transports i d
        { z.mkPkt d tyOpen (openPayload (z.jobid p) i) with sess := 0xFFFF }).cores z c)

theorem State.newSess_steady (s : State) (p : PartId) (m : BitVec 14) (h : Option (Fin 64)) (relay : Bool) :
    (s.newSess p m h relay).2.steady = s.steady := by
  unfold State.newSess
  split <;> rfl

theorem State.needSess_steady (s : State) (p : PartId) (m : BitVec 14) : (s.needSess p m).2.steady = s.steady := by
  have hnew := s.newSess_steady p m none false
  unfold State.needSess
  split
  · rfl
  · generalize s.newSess p m none false = n at hnew
    obtain ⟨_ | ⟨i, d⟩, z⟩ := n
    · exact hnew
    · exact ((State.emit_transports _ _ _).steady z).trans hnew

theorem State.notifyAll_transports (p : PartId) (kind : Nat) (step : BitVec 32) (body : List Byte) (ms : List (BitVec 14)) :
    Transports fun s => s.notifyAll p kind step body ms := by
  induction ms with
  | nil => exact ⟨fun _ _ => rfl, fun _ => rfl⟩
  | cons m ms ih =>
    refine ⟨fun s c => ?_, fun s => ?_⟩
    · have hid : ({ s with cores := c } : State).moduleId = s.moduleId := rfl
      simp only [State.notifyAll, hid, State.needSess_cores]
      split
      · exact ih.cores s c
      · generalize s.needSess p m = n
        obtain ⟨_ | i, z⟩ := n
        · exact ih.cores z c
        · simp only [(State.sendNotice_transports i kind step body).cores z c]
          exact ih.cores _ c
    · have hneed := s.needSess_steady p m
      simp only [State.notifyAll]
      split
      · exact ih.steady s
      · generalize s.needSess p m = n at hneed
        obtain ⟨_ | i, z⟩ := n
        · exact (ih.steady z).trans hneed
        · exact (ih.steady _).trans (((State.sendNotice_transports i kind step body).steady z).trans hneed)

/-- The engine has taken a LOSS_GUARD for a step, or has closed it otherwise than by a skip (R213). -/
def State.guardTaken (s : State) (p : PartId) (t : BitVec 32) : Bool := match (s.part p).ue.stepOf t with
  | some r => r.guarded || (!r.isOpen && r.status != 3)
  | none => false

/-- The engine skips a step for a LOSS_GUARD and logs it (R213). -/
def State.guardLogged (s : State) (p : PartId) (t : BitVec 32) : State :=
  ((if (s.part p).ue.shut t then s else s.skipClosed p t false).modUe p fun u =>
    u.modStep t fun r => { r with guarded := true }).logEvent evUpdSkip 50 p.val (bytesLE 4 t.toNat)

theorem State.lossSkip_eq (s : State) (p : PartId) (t : BitVec 32) :
    s.lossSkip p t = if s.guardTaken p t then s else (s.guardLogged p t).sendSkip p t := rfl

theorem State.guardLogged_cores (s : State) (p : PartId) (t : BitVec 32) (c : Vector Core 24) :
    ({ s with cores := c } : State).guardLogged p t = { s.guardLogged p t with cores := c } := by
  have hpart : ({ s with cores := c } : State).part p = s.part p := rfl
  unfold State.guardLogged
  rw [hpart]
  split <;> rfl

theorem State.guardLogged_steady (s : State) (p : PartId) (t : BitVec 32) :
    (s.guardLogged p t).aon = s.aon ∧ ∃ logs, (s.guardLogged p t).reg = { s.reg with logs := logs } := by
  unfold State.guardLogged
  split <;> exact ⟨rfl, _, rfl⟩

/-- LOSS_GUARD's skip neither reads nor changes the cores. -/
theorem State.lossSkip_cores (s : State) (p : PartId) (t : BitVec 32) (c : Vector Core 24) :
    ({ s with cores := c } : State).lossSkip p t = { s.lossSkip p t with cores := c } := by
  have htaken : ({ s with cores := c } : State).guardTaken p t = s.guardTaken p t := rfl
  simp only [State.lossSkip_eq, htaken, State.guardLogged_cores]
  split
  · rfl
  · exact (State.notifyAll_transports _ _ _ _ _).cores (s.guardLogged p t) c

/-- Of the Regulator it changes the log, and nothing of the always-on part. -/
theorem State.lossSkip_steady (s : State) (p : PartId) (t : BitVec 32) :
    (s.lossSkip p t).aon = s.aon ∧ ∃ logs, (s.lossSkip p t).reg = { s.reg with logs := logs } := by
  rw [State.lossSkip_eq]
  split
  · exact ⟨rfl, _, rfl⟩
  · obtain ⟨hreg, haon⟩ := Prod.ext_iff.mp ((State.notifyAll_transports p 1 t [] ((s.guardLogged p t).ucMembers p)).steady (s.guardLogged p t))
    obtain ⟨haon', logs, hreg'⟩ := s.guardLogged_steady p t
    exact ⟨haon.trans haon', logs, hreg.trans hreg'⟩

/-- The skip for a LOSS_GUARD under the SEED that it captured, if it captured one (R213). -/
def State.skipFor (s : State) (p : PartId) : Option SeedReg → State
  | some k => s.lossSkip p k.step
  | none => s

theorem State.skipFor_cores (s : State) (p : PartId) (d : Option SeedReg) (c : Vector Core 24) :
    ({ s with cores := c } : State).skipFor p d = { s.skipFor p d with cores := c } := by
  cases d with
  | none => rfl
  | some k => exact s.lossSkip_cores p k.step c

theorem State.cores_skipFor (s : State) (p : PartId) (d : Option SeedReg) : (s.skipFor p d).cores = s.cores := by
  have h := congrArg State.cores (s.skipFor_cores p d s.cores)
  exact h

theorem State.core_skipFor (s : State) (p : PartId) (d : Option SeedReg) (c : CoreId) : (s.skipFor p d).core c = s.core c := by
  unfold State.core
  rw [State.cores_skipFor]

theorem State.skipFor_steady (s : State) (p : PartId) (d : Option SeedReg) :
    (s.skipFor p d).aon = s.aon ∧ ∃ logs, (s.skipFor p d).reg = { s.reg with logs := logs } := by
  cases d with
  | none => exact ⟨rfl, _, rfl⟩
  | some k => exact s.lossSkip_steady p k.step

end Sys2Proof.Machine

/-! The lines that complete as they are decoded (05 R108 to R113). -/

namespace Sys2Proof.Machine

/-! ### Lines that act at decode -/

section
variable {s b v : State} {c : CoreId} {p : PartId} {x : Line} {r : Report} {f : CoreCtl → CoreCtl}

/-- A line that acts at decode: what it does to its core's control state is `f`, and all else it does is in `b`. -/
theorem State.Ready.acts (h : s.Ready c p x) (hgood : s.checkLine c p x = none) (hhold : holdsDecode x = false)
    (hunit : unitsOf x = []) (hf : BesideSlots f)
    (hact : (s.enter c x).actAtDecode c p ((s.core c).ctl.capture x) = (r, (b.enter c x).modCtl c f))
    (hb : b = { s with cores := b.cores, parts := b.parts }) (hctl : (b.core c).ctl = (s.core c).ctl)
    (hpart : (b.core c).part = (s.core c).part) (hstill : b.still = true) (hok : r.status = stOk) :
    b.Decoded (s.decodeLine c x).settle c p x r f := by
  have hcause : statusCause r.status = none := by rw [hok]; rfl
  have hdone := h.completes (b := b) (v := (b.enter c x).modCtl c f) hf hctl hpart (by rw [hb]) rfl
    (fun d hd => (State.core_modCore_other _ _ _ _ hd).trans (State.enter_core_other _ _ _ _ hd))
    (by rw [State.modCtl, State.core_modCore_same, State.enter_core, hctl]; rfl) hcause (.inl hok)
  obtain ⟨-, hp, -, -, -, -, hsel, -⟩ := id h
  rw [State.decodeLine_of_act hp (h.decodeFree hunit) hsel hgood hhold hunit, hact,
    State.settle_of_still (hdone.still hf hstill)]
  exact hdone

/-- The same where the line changes nothing but its core's control state. -/
theorem State.Ready.actsAlone (h : s.Ready c p x) (hgood : s.checkLine c p x = none) (hhold : holdsDecode x = false)
    (hunit : unitsOf x = []) (hf : BesideSlots f)
    (hact : (s.enter c x).actAtDecode c p ((s.core c).ctl.capture x) = (r, (s.enter c x).modCtl c f)) (hok : r.status = stOk) :
    s.Decoded (s.decodeLine c x).settle c p x r f :=
  h.acts hgood hhold hunit hf hact rfl rfl rfl h.1 hok

end

/-- A branch other than LOSS_GUARD: what it does to its core's control state when its target, if it has one, is executable. -/
theorem State.Ready.branches {s : State} {c : CoreId} {p : PartId} {l : BranchLine} {f : CoreCtl → CoreCtl}
    (h : s.Ready c p (.branch l)) (kind : BitVec 3) (hdefined : kind ≠ 7) (hguard : kind ≠ 5)
    (htarget : kindJumps kind = true → s.checkVa p l.target.toNat 32 .x = none) (hf : BesideSlots f)
    (hact : (s.enter c (.branch { l with kind := kind })).branchIn c { l with kind := kind } =
      (.ok, (s.enter c (.branch { l with kind := kind })).modCtl c f)) :
    s.Decoded (s.decodeLine c (.branch { l with kind := kind })).settle c p (.branch { l with kind := kind }) Report.ok f := by
  have hva : (if kindJumps kind then s.checkVa p l.target.toNat 32 .x else none) = none := by
    split
    · exact htarget ‹_›
    · rfl
  refine State.Ready.actsAlone h ?_ (by simpa [holdsDecode] using hguard) rfl hf hact rfl
  simp only [State.checkLine, hva, hguard, if_false, orElseReport_eq_none_iff, firstBad_eq_none_iff]
  simpa using hdefined

theorem State.branchIn_return {s : State} {c : CoreId} {l : BranchLine} {a : BitVec 48} {rest : List (BitVec 48)} (hkind : l.kind = 2)
    (hstack : (s.core c).ctl.stack = a :: rest) :
    s.branchIn c l = (.ok, s.modCtl c fun t => { t with stack := rest, pc := a }) := by
  simp [State.branchIn, hkind, hstack]

/-- 05 R113, Table 5.25. -/
theorem branches_resolve (s : State) (c : CoreId) (p : PartId) (l : BranchLine) (h : s.Ready c p (.branch l)) :
    (s.checkVa p l.target.toNat 32 .x = none →
       (∃ t, exec (.jump c { l with kind := 0 }) s = .next t ∧
         s.Decoded t c p (.branch { l with kind := 0 }) Report.ok fun k => { k with pc := l.target }) ∧
       ((s.core c).ctl.stack.length < 16 → ∃ t, exec (.call c l) s = .next t ∧
         s.Decoded t c p (.branch { l with kind := 1 }) Report.ok fun k => { k with stack := k.pc :: k.stack, pc := l.target }) ∧
       ∃ t, exec (.loop c l) s = .next t ∧
         s.Decoded t c p (.branch { l with kind := 3 }) Report.ok fun k => { k with
           lc := k.lc.set 0#32 l.lci.toNat (k.lc.get 0#32 l.lci.toNat - 1)
           pc := if k.lc.get 0#32 l.lci.toNat - 1 = 0 then k.pc else l.target }) ∧
     (∀ a rest, (s.core c).ctl.stack = a :: rest → ∃ t, exec (.ret c l) s = .next t ∧
       s.Decoded t c p (.branch { l with kind := 2 }) Report.ok fun k => { k with stack := rest, pc := a }) ∧
     (∃ t, exec (.setlc c l) s = .next t ∧
       s.Decoded t c p (.branch { l with kind := 4 }) Report.ok fun k => { k with lc := k.lc.set 0#32 l.lci.toNat l.cnt }) ∧
     ∃ t, exec (.endStream c l) s = .next t ∧
       s.Decoded t c p (.branch { l with kind := 6 }) Report.ok fun k => { k with ending := true } := by
  refine ⟨fun hva => ⟨⟨_, rfl, ?_⟩, fun hroom => ⟨_, rfl, ?_⟩, ⟨_, rfl, ?_⟩⟩, fun a rest hstack => ⟨_, rfl, ?_⟩, ⟨_, rfl, ?_⟩, ⟨_, rfl, ?_⟩⟩
  · exact h.branches 0 (by decide) (by decide) (fun _ => hva) (fun _ _ _ _ _ => rfl) rfl
  · refine h.branches 1 (by decide) (by decide) (fun _ => hva) (fun _ _ _ _ _ => rfl) ?_
    have hstack : ((s.enter c (.branch { l with kind := 1 })).core c).ctl.stack = (s.core c).ctl.stack := by rw [State.enter_core]
    exact if_neg (by rw [hstack]; omega)
  · exact h.branches 3 (by decide) (by decide) (fun _ => hva) (fun _ _ _ _ _ => rfl) rfl
  · refine h.branches 2 (by decide) (by decide) (fun hj => absurd hj (by decide)) (fun _ _ _ _ _ => rfl) ?_
    have hnext : ((s.enter c (.branch { l with kind := 2 })).core c).ctl.stack = a :: rest := by rw [State.enter_core]; exact hstack
    exact State.branchIn_return rfl hnext
  · exact h.branches 4 (by decide) (by decide) (fun hj => absurd hj (by decide)) (fun _ _ _ _ _ => rfl) rfl
  · exact h.branches 6 (by decide) (by decide) (fun hj => absurd hj (by decide)) (fun _ _ _ _ _ => rfl) rfl

/-! ### Lines that may be held -/

/-- A line held at decode since now: the pc is past it (05 R94, R108). -/
def State.heldAt (s : State) (c : CoreId) (x : Line) : State :=
  s.modCtl c fun t => { t with pc := t.pc + 32, tokens := t.tokens + 1, hold := some (t.capture x, s.aon.time) }

theorem State.heldAt_core (s : State) (c : CoreId) (x : Line) : (s.heldAt c x).core c = { s.core c with ctl := { (s.core c).ctl with
    pc := (s.core c).ctl.pc + 32, tokens := (s.core c).ctl.tokens + 1, hold := some ((s.core c).ctl.capture x, s.aon.time) } } := by
  simp [State.heldAt, State.modCtl]

theorem State.heldAt_core_other (s : State) (c d : CoreId) (x : Line) (h : d ≠ c) : (s.heldAt c x).core d = s.core d :=
  State.core_modCore_other _ _ _ _ h

theorem State.decodeLine_eq_heldAt {s : State} {c : CoreId} {p : PartId} {x : Line} (hpart : (s.core c).part = some p)
    (hfree : (s.core c).decodeFree x = true) (hsel : s.selWaits c = false) (hgood : s.checkLine c p x = none)
    (hhold : holdsDecode x = true) (hmark : ∀ l, x ≠ .mark l) : s.decodeLine c x = s.heldAt c x := by
  have hnone : ∀ z : State, z.markIn c p ((s.core c).ctl.capture x) = z := fun z => by
    have hline : ((s.core c).ctl.capture x).line = x := rfl
    unfold State.markIn
    rw [hline]
    split
    · exact absurd rfl (hmark _)
    · rfl
  rw [State.decodeLine_of_hold hpart hfree hsel hgood hhold, hnone, State.modCtl_modCtl]
  exact State.modCtl_congr rfl

/-! ### LOSS_GUARD -/

/-- What LOSS_GUARD reads at LADDR is finite (R113). -/
def State.guardFinite (s : State) (c : CoreId) (l : BranchLine) : Bool :=
  (ofB32 (natLE ((s.core c).mem.csN (l.laddr.toNat * 32) 4))).isFin

/-- A held LOSS_GUARD in a core with nothing in flight: it goes on or branches (R113). -/
theorem State.stepGuard_eq {s : State} {c : CoreId} {p : PartId} {x : InFlight} {l : BranchLine} (hslots : (s.core c).ctl.slots = [])
    (hclean : (s.core c).mem.Clean) : s.stepGuard c p x l =
      if s.guardFinite c l then .finished .ok s
      else .finished ⟨stOk, 0, 0, 1, 0⟩ ((s.modCtl c fun t => { t with pc := l.target }).skipFor p x.seed) := by
  simp only [State.stepGuard, hslots, List.any_nil, State.checkSpans_clean _ hclean, Bool.false_eq_true, if_false]
  cases x.seed <;> rfl

theorem State.checkGuard {s : State} {c : CoreId} {p : PartId} {l : BranchLine} (hva : s.checkVa p l.target.toNat 32 .x = none)
    (hladdr : l.laddr.toNat < csLines) : s.checkLine c p (.branch { l with kind := 5 }) = none := by
  have hspan : spansBad [Span.lines false l.laddr.toNat 1] = none := by
    have hinside : (Span.lines false l.laddr.toNat 1).inside = true := by
      simp only [Span.inside, Span.lines, Bool.false_eq_true, if_false, Bool.and_eq_true, decide_eq_true_eq]
      omega
    simp [spansBad, hinside]
  simp only [State.checkLine, hspan, hva, orElseReport_eq_none_iff, firstBad_eq_none_iff]
  simp

theorem lossGuard_steers {s : State} {c : CoreId} {p : PartId} {l : BranchLine} (h : s.Idle c p) (hclean : (s.core c).mem.Clean)
    (hva : s.checkVa p l.target.toNat 32 .x = none) (hladdr : l.laddr.toNat < csLines) :
    (s.guardFinite c l = true →
      s.Decoded (s.decodeLine c (.branch { l with kind := 5 })).settle c p (.branch { l with kind := 5 }) Report.ok id) ∧
    (s.guardFinite c l = false → (s.skipFor p (s.core c).ctl.seed).eng = s.eng →
      (s.skipFor p (s.core c).ctl.seed).Decoded (s.decodeLine c (.branch { l with kind := 5 })).settle c p
        (.branch { l with kind := 5 }) ⟨stOk, 0, 0, 1, 0⟩ fun k => { k with pc := l.target }) := by
  generalize hy : Line.branch { l with kind := 5 } = y
  have hready : s.Ready c p y := State.Ready.of_idle h y
  have hu : s.decodeLine c y = s.heldAt c y := by
    obtain ⟨-, hpart, -, -, -, -, hsel, -⟩ := hready
    exact State.decodeLine_eq_heldAt hpart (h.decodeFree y) hsel (hy ▸ State.checkGuard hva hladdr) (by rw [← hy]; rfl)
      (fun m hm => by rw [← hy] at hm; exact Line.noConfusion hm)
  rw [hu]
  have hcore := s.heldAt_core c y
  have hother : ∀ d, d ≠ c → (s.heldAt c y).core d = s.core d := fun d hd => s.heldAt_core_other c d y hd
  have hhold : ((s.heldAt c y).core c).ctl.hold = some ((s.core c).ctl.capture y, s.aon.time) := by rw [hcore]
  have hpart : ((s.heldAt c y).core c).part = some p := by rw [hcore]; exact h.2.1
  have hstep : (s.heldAt c y).stepHeld c p ((s.core c).ctl.capture y) s.aon.time.toNat =
      if s.guardFinite c l then .finished .ok (s.heldAt c y)
      else .finished ⟨stOk, 0, 0, 1, 0⟩ (((s.heldAt c y).modCtl c fun t => { t with pc := l.target }).skipFor p (s.core c).ctl.seed) := by
    have hfinite : (s.heldAt c y).guardFinite c { l with kind := 5 } = s.guardFinite c l := by
      unfold State.guardFinite; rw [hcore]
    have hguard := State.stepGuard_eq (s := s.heldAt c y) (c := c) (p := p) (x := (s.core c).ctl.capture y) (l := { l with kind := 5 })
      (by rw [hcore]; exact h.2.2.2.2.1) (by rw [hcore]; exact hclean)
    rw [hfinite] at hguard
    refine Eq.trans ?_ hguard
    rw [← hy]
    rfl
  refine ⟨fun hfinite => ?_, fun hfinite heng => ?_⟩
  · rw [hfinite, if_pos rfl] at hstep
    exact hready.holds (fun _ _ _ _ _ => rfl) hhold hpart hother rfl hstep rfl hother hcore rfl rfl rfl h.1 rfl
  · rw [hfinite, if_neg Bool.false_ne_true] at hstep
    obtain ⟨haon, logs, hreg⟩ := s.skipFor_steady p (s.core c).ctl.seed
    have hstill : (s.skipFor p (s.core c).ctl.seed).still = true :=
      State.still_congr h.1 (fun d => by rw [State.core_skipFor]) heng (by rw [hreg]) (by rw [hreg]) (by rw [hreg])
    have hcores : ((s.heldAt c y).modCtl c fun t => { t with pc := l.target }) =
      { s with cores := ((s.heldAt c y).modCtl c fun t => { t with pc := l.target }).cores } := rfl
    refine hready.holds (fun _ _ _ _ _ => rfl) hhold hpart hother rfl hstep ?_ (fun d hd => ?_) ?_ (by rw [State.core_skipFor])
      (by rw [State.core_skipFor]) haon hstill rfl
    · rw [hcores, State.skipFor_cores]
    · rw [State.core_skipFor, State.core_skipFor, State.modCtl, State.core_modCore_other _ _ _ _ hd, hother d hd]
    · rw [State.core_skipFor, State.core_skipFor, State.modCtl, State.core_modCore_same, hcore]

/-! ### Lines that cannot run -/

theorem badOpcode_halts {s : State} {c : CoreId} {p : PartId} {op : BitVec 8} {hdr : Hdr} (h : s.Ready c p (.bad op hdr)) :
    s.Decoded (s.decodeLine c (.bad op hdr)).settle c p (.bad op hdr) (Report.bad stBadOpcode 0) id := by
  have hdone := h.completes (b := s) (v := s.enter c (.bad op hdr)) (r := Report.bad stBadOpcode 0) (f := id) (fun _ _ _ _ _ => rfl)
    rfl rfl rfl rfl (fun d hd => State.enter_core_other _ _ _ _ hd) (State.enter_core _ _ _) (by decide) (.inr rfl)
  obtain ⟨hstill, hpart, -, -, -, -, hsel, -⟩ := id h
  rw [State.decodeLine_of_bad hpart (h.decodeFree rfl) hsel rfl, State.settle_of_still (hdone.still (fun _ _ _ _ _ => rfl) hstill)]
  exact hdone

theorem fetchError_halts {s : State} {c : CoreId} {p : PartId} (h : s.Idle c p) :
    s.Decoded (s.fetchFails c).settle c p (.bad 0 ⟨0, false, false⟩) (Report.bad stFetchError 0)
      fun k => { k with pc := (s.core c).ctl.pc } := by
  have hready : s.Ready c p (.bad 0 ⟨0, false, false⟩) := State.Ready.of_idle h _
  have hfree := h.decodeFree (.bad 0 ⟨0, false, false⟩)
  have hhold := (Core.still_iff.mp (State.core_still h.1 c)).1
  have hdone := hready.completes (b := s) (v := s.modCtl c fun t => { t with
      tokens := t.tokens + 1, slots := t.slots ++ [(s.core c).ctl.capture (.bad 0 ⟨0, false, false⟩)] })
    (r := Report.bad stFetchError 0) (f := fun k => { k with pc := (s.core c).ctl.pc }) (fun _ _ _ _ _ => rfl)
    rfl rfl rfl rfl (fun d hd => State.core_modCore_other _ _ _ _ hd) (by rw [State.modCtl, State.core_modCore_same]; rfl) (by decide) (.inr rfl)
  obtain ⟨hstill, hpart, hrun, hend, hslots, -, -⟩ := h
  have hfails : s.fetchFails c = (s.modCtl c fun t => { t with
      tokens := t.tokens + 1, slots := t.slots ++ [(s.core c).ctl.capture (.bad 0 ⟨0, false, false⟩)] }).complete c
      (s.core c).ctl.tokens (Report.bad stFetchError 0) := by
    unfold State.fetchFails
    simp only [hpart, hrun, hhold, hend, hslots, Option.isSome_some, Option.isNone_none, beq_self_eq_true, Bool.not_false,
      List.length_nil, Bool.and_self, decide_true, if_true, Nat.zero_lt_succ]
    rfl
  rw [hfails, State.settle_of_still (hdone.still (fun _ _ _ _ _ => rfl) hstill)]
  exact hdone

theorem State.Decoded.halts {b t : State} {c : CoreId} {p : PartId} {x : Line} {r : Report} {f : CoreCtl → CoreCtl}
    (h : b.Decoded t c p x r f) (hf : BesideSlots f) (hhalt : haltsStream x r.status = true) : (t.core c).ctl.stream = .halted := by
  obtain ⟨-, -, hcore⟩ := h
  rw [hcore]
  exact (hf.same _).2.2.1.trans (if_pos hhalt)

/-- Settles O20: a branch acts on its core's control state alone (`branches_resolve`), LOSS_GUARD skips a step in an engine that does
not see the cores (`lossGuard_steers`), and a line that cannot run halts its stream. -/
theorem branchesSteerTheStream : Obligations.BranchesSteerTheStream := by
  unfold Obligations.BranchesSteerTheStream
  refine ⟨fun s c p l h => branches_resolve s c p l h, fun s c p l h hclean hva hladdr heng => ⟨_, rfl, ?_⟩,
    fun s c p => ⟨fun op hdr hundefined h => ?_, fun h => ?_⟩⟩
  · obtain ⟨hgoes, hskips⟩ := lossGuard_steers h hclean hva hladdr
    unfold State.guardFinite at hgoes hskips
    cases hfinite : (ofB32 (natLE ((s.core c).mem.csN (l.laddr.toNat * 32) 4))).isFin <;> cases hseed : (s.core c).ctl.seed
    all_goals
      simp only [hfinite, hseed, Bool.false_eq_true, if_true, if_false] at heng ⊢
      rw [hseed] at hskips
    · exact hskips hfinite rfl
    · exact hskips hfinite heng
    · exact hgoes hfinite
    · exact hgoes hfinite
  · have hbits : (hdr.toBits op).setWidth 256 = encodeLine (.bad op hdr) := by
      refine BitVec.eq_of_toNat_eq ?_
      rw [encodeLine, BitVec.toNat_append, BitVec.toNat_setWidth]
      simpa using (hdr.toBits op).isLt.trans (by decide)
    have hline : decodeLine ((hdr.toBits op).setWidth 256) = .bad op hdr := hbits ▸ decodeLine_encodeLine hundefined
    have hdone := badOpcode_halts h
    refine ⟨_, congrArg (fun x => Host.Outcome.next (s.decodeLine c x).settle) hline, hdone.halts (fun _ _ _ _ _ => rfl) ?_, hdone⟩
    simp [haltsStream, statusHalts, Report.bad, stBadOpcode, stOk]
  · have hdone := fetchError_halts h
    exact ⟨_, rfl, hdone.halts (fun _ _ _ _ _ => rfl) rfl, hdone⟩

end Sys2Proof.Machine

/-! SEED, DEADLINE, MARK, FENCE and WAITQ (05 R108 to R112). -/

namespace Sys2Proof.Machine

/-! ### SEED and DEADLINE -/

theorem State.coresOf_congr {s t : State} (p : PartId) (h : ∀ d, (t.core d).part = (s.core d).part) : t.coresOf p = s.coresOf p := by
  unfold State.coresOf
  simp only [h]

/-- The partition that holds a core is no part of its control state, nor of its stash. -/
theorem State.core_modCtl_part (s : State) (c d : CoreId) (f : CoreCtl → CoreCtl) : ((s.modCtl c f).core d).part = (s.core d).part := by
  by_cases hd : d = c
  · subst hd; rw [State.modCtl, State.core_modCore_same]
  · rw [State.modCtl, State.core_modCore_other _ _ _ _ hd]

theorem State.core_modStash_part (s : State) (c d : CoreId) (f : CoreStash → CoreStash) :
    ((s.modStash c f).core d).part = (s.core d).part := by
  by_cases hd : d = c
  · subst hd; rw [State.modStash, State.core_modCore_same]
  · rw [State.modStash, State.core_modCore_other _ _ _ _ hd]

theorem State.core_modStash_ctl (s : State) (c d : CoreId) (f : CoreStash → CoreStash) :
    ((s.modStash c f).core d).ctl = (s.core d).ctl := by
  by_cases hd : d = c
  · subst hd; rw [State.modStash, State.core_modCore_same]
  · rw [State.modStash, State.core_modCore_other _ _ _ _ hd]

/-- The release of a core's stash that a SEED of another step makes due (08 R182). -/
def CoreStash.seeded (q : CoreStash) (step : BitVec 32) (tok : Nat) : CoreStash :=
  { q with
    seedStep := some step
    releaseDue := if (match q.seedStep with
      | some k => k != step
      | none => false) then q.releaseDue ++ [tok] else q.releaseDue }

/-- What a SEED changes but for its core's control state (08 R182, 09 R201). -/
def State.seeded (s : State) (c : CoreId) (p : PartId) (tok : Nat) (l : SeedLine) : State :=
  let a := s.modStash c fun q => q.seeded l.step tok
  if (s.coresOf p).head? = some c then a.modUe p fun u => { u with seeds := ⟨l.seed, l.step⟩ :: u.seeds.take 15 } else a

theorem State.seeded_eq (s : State) (c : CoreId) (p : PartId) (tok : Nat) (l : SeedLine) :
    s.seeded c p tok l = { s.modStash c (fun q => q.seeded l.step tok) with parts := (s.seeded c p tok l).parts } := by
  unfold State.seeded
  dsimp only
  split <;> rfl

theorem State.seeded_core (s : State) (c : CoreId) (p : PartId) (tok : Nat) (l : SeedLine) (d : CoreId) :
    (s.seeded c p tok l).core d = (s.modStash c fun q => q.seeded l.step tok).core d := by
  rw [State.seeded_eq]
  rfl

theorem State.seedIn_enter (s : State) (c : CoreId) (p : PartId) (x : Line) (tok : Nat) (l : SeedLine) :
    (s.enter c x).seedIn c p tok l = ((s.seeded c p tok l).enter c x).modCtl c fun t => { t with
      seed := some ⟨l.seed, l.step⟩, seedQ := seedQueued t.seedQ (s.part p).amaxStep tok l.step } := by
  have hcores : ∀ (z : State) (f : CoreCtl → CoreCtl) (g : CoreStash → CoreStash), z = ((s.enter c x).modCtl c f).modStash c g →
      z.coresOf p = s.coresOf p := by
    rintro z f g rfl
    refine State.coresOf_congr p fun d => ?_
    rw [State.core_modStash_part, State.core_modCtl_part, State.enter, State.core_modCtl_part]
  unfold State.seedIn State.seeded
  dsimp only
  rw [hcores _ _ _ rfl]
  split
  all_goals
    simp only [State.enter, State.modStash, State.modCtl, State.modCore, State.modUe, State.modPart, State.core_setCore_same,
      State.core_setPart]
    simp only [State.setCore, State.setPart, Vector.set_set]
    rfl

theorem seed_takesEffect {s : State} {c : CoreId} {p : PartId} {l : SeedLine} (h : s.Ready c p (.seed l)) :
    (s.seeded c p (s.core c).ctl.tokens l).Decoded (s.decodeLine c (.seed l)).settle c p (.seed l) Report.ok fun k => { k with
      seed := some ⟨l.seed, l.step⟩
      seedQ := seedQueued k.seedQ (s.part p).amaxStep (s.core c).ctl.tokens l.step } := by
  have hcore : ∀ d, ((s.seeded c p (s.core c).ctl.tokens l).core d).ctl = (s.core d).ctl ∧
      ((s.seeded c p (s.core c).ctl.tokens l).core d).part = (s.core d).part := fun d => by
    rw [State.seeded_core, State.core_modStash_ctl, State.core_modStash_part]
    exact ⟨rfl, rfl⟩
  have heq := s.seeded_eq c p (s.core c).ctl.tokens l
  refine h.acts rfl rfl rfl (fun _ _ _ _ _ => rfl) ?_ ?_ (hcore c).1 (hcore c).2
    (State.still_congr h.1 (fun d => (hcore d).1) ?_ ?_ ?_ ?_) rfl
  · exact congrArg (Prod.mk Report.ok) (State.seedIn_enter s c p (.seed l) _ l)
  all_goals rw [heq]; rfl

theorem deadline_takesEffect {s : State} {c : CoreId} {p : PartId} {l : DeadlineLine} (h : s.Ready c p (.deadline l))
    (hrt : s.isRt p = true) (hmode : l.mode ≠ 3) (hdl : l.mode = 1 → l.dl.toNat < 2 ^ 32) :
    s.Decoded (s.decodeLine c (.deadline l)).settle c p (.deadline l) Report.ok fun k => k.deadlineIn l := by
  refine h.actsAlone ?_ rfl rfl (fun _ _ _ _ _ => rfl) rfl rfl
  simp only [State.checkLine, firstBad_eq_none_iff]
  simpa [hrt] using ⟨hmode, hdl⟩

/-! ### MARK -/

/-- A record joins the trace ring. -/
def State.addTrace (s : State) (r : TraceRec) : State := s.modReg fun g => { g with logs := { g.logs with
  trace := (r :: g.logs.trace).take 2097152, traceSeq := g.logs.traceSeq + 1 } }

/-- The core wrote no trace record less than 1 µs before (16 R385). -/
def State.traceDue (s : State) (c : CoreId) : Bool := match (s.core c).ctl.traceTime with
  | some z => decide (z.toNat + 1000 ≤ s.now)
  | none => true

/-- The trace record of a mark under a SEED (16 R385). -/
def State.traceRecord (s : State) (c : CoreId) (p : PartId) (seed : Option SeedReg) (m : MarkReg) : TraceRec :=
  ⟨s.aon.time, BitVec.ofNat 8 (originByte c.val p.val), m, (match seed with
      | some d => d.step
      | none => 0), s.reg.logs.traceSeq,
    BitVec.ofNat 32 (min (s.core c).ctl.traceStall (2 ^ 32 - 1)), BitVec.ofNat 32 ((s.core c).ctl.tokens - (s.core c).ctl.traceLines)⟩

theorem State.trace_eq (s : State) (c : CoreId) (p : PartId) (x : InFlight) (m : MarkReg) : s.trace c p x m =
    if s.traceDue c then (s.addTrace (s.traceRecord c p x.seed m)).modCtl c fun t => { t with
      traceTime := some s.aon.time, traceStall := 0, traceLines := t.tokens }
    else s := rfl

/-- The core's registers after a MARK, once the pc is past it. -/
def CoreCtl.marked (t : CoreCtl) (l : MarkLine) (traced : Bool) (time : BitVec 64) : CoreCtl :=
  { t with
    mark := ⟨l.layer, l.mb, l.phase⟩
    traceTime := if traced then some time else t.traceTime
    traceStall := if traced then 0 else t.traceStall
    traceLines := if traced then t.tokens else t.traceLines }

/-- The core's registers as a line is taken (05 R94). -/
def CoreCtl.taken (t : CoreCtl) : CoreCtl := { t with pc := t.pc + 32, tokens := t.tokens + 1 }

/-- The machine with the trace record of a MARK of `s`, when the MARK writes one. -/
def State.tracedIn (s t : State) (c : CoreId) (p : PartId) (l : MarkLine) : State :=
  if (l.trace && s.traceDue c) = true then
    t.addTrace ((s.modCtl c CoreCtl.taken).traceRecord c p (s.core c).ctl.seed ⟨l.layer, l.mb, l.phase⟩)
  else t

theorem State.core_modCtl (s : State) (c : CoreId) (f : CoreCtl → CoreCtl) :
    (s.modCtl c f).core c = { s.core c with ctl := f (s.core c).ctl } := State.core_modCore_same _ _ _

theorem State.addTrace_modCtl (s : State) (c : CoreId) (f : CoreCtl → CoreCtl) (r : TraceRec) :
    (s.modCtl c f).addTrace r = (s.addTrace r).modCtl c f := rfl

theorem State.decodeLine_mark {s : State} {c : CoreId} {p : PartId} {l : MarkLine} (h : s.Ready c p (.mark l))
    (hgood : s.checkLine c p (.mark l) = none) : s.decodeLine c (.mark l) = (s.tracedIn s c p l).modCtl c fun t =>
      { t.taken.marked l (l.trace && s.traceDue c) s.aon.time with hold := some ((s.core c).ctl.capture (.mark l), s.aon.time) } := by
  obtain ⟨-, hpart, -, -, -, -, hsel, -⟩ := id h
  have hline : ((s.core c).ctl.capture (.mark l)).line = .mark l := rfl
  have hdue : ((s.modCtl c CoreCtl.taken).modCtl c fun t => { t with mark := ⟨l.layer, l.mb, l.phase⟩ }).traceDue c = s.traceDue c := by
    unfold State.traceDue
    simp only [State.core_modCtl]
    rfl
  have hrec : ((s.modCtl c CoreCtl.taken).modCtl c fun t => { t with mark := ⟨l.layer, l.mb, l.phase⟩ }).traceRecord c p
      (s.core c).ctl.seed ⟨l.layer, l.mb, l.phase⟩ =
      (s.modCtl c CoreCtl.taken).traceRecord c p (s.core c).ctl.seed ⟨l.layer, l.mb, l.phase⟩ := by
    simp only [State.traceRecord, State.core_modCtl]
    rfl
  have hmark : (s.modCtl c CoreCtl.taken).markIn c p ((s.core c).ctl.capture (.mark l)) = (s.tracedIn s c p l).modCtl c fun t =>
      t.taken.marked l (l.trace && s.traceDue c) s.aon.time := by
    have hseed : ((s.core c).ctl.capture (.mark l)).seed = (s.core c).ctl.seed := rfl
    simp only [State.markIn, hline, State.trace_eq, hdue, hseed, hrec, State.tracedIn]
    cases l.trace <;> cases s.traceDue c
    all_goals
      simp only [Bool.false_eq_true, if_false, if_true, Bool.and_self, Bool.and_false, Bool.false_and, State.addTrace_modCtl,
        State.modCtl_modCtl]
      rfl
  rw [State.decodeLine_of_hold hpart (h.decodeFree rfl) hsel hgood rfl]
  exact (congrArg (fun z : State => z.modCtl c fun t => { t with hold := some ((s.core c).ctl.capture (.mark l), s.aon.time) }) hmark).trans
    (State.modCtl_modCtl _ _ _ _)

/-- The prologue list of a MARK joins its core's lists (10 R230). -/
def State.addList (s : State) (c : CoreId) (p : PartId) (l : MarkLine) : State :=
  if l.pdn = 0 then s else s.modStash c fun k => { k with lists := k.lists ++ [⟨p, l.pdl, 0, l.pdn.toNat, false⟩] }

/-- A MARK whose core has a list free, and no deadline missed, finishes at once (R110). -/
theorem State.stepMark_eq {s : State} {c : CoreId} {p : PartId} {x : InFlight} {l : MarkLine} (hmiss : x.missed s.now = false)
    (hfree : l.pdn = 0 ∨ ((s.core c).stash.lists.filter fun q => q.next == 0).length < 4) :
    s.stepMark c p x l = .finished .ok (s.addList c p l) := by
  have hskip : s.skips p x = false := by simp [State.skips, hmiss]
  simp only [State.stepMark, State.addList, hskip, Bool.not_false, Bool.true_and, decide_eq_true_eq]
  split
  · rfl
  · rw [if_neg (by simp_all)]

theorem State.tracedIn_eq (s t : State) (c : CoreId) (p : PartId) (l : MarkLine) :
    ∃ logs, s.tracedIn t c p l = { t with reg := { t.reg with logs := logs } } := by
  unfold State.tracedIn
  split
  · exact ⟨_, rfl⟩
  · exact ⟨_, rfl⟩

theorem State.tracedIn_cores (s t : State) (c : CoreId) (p : PartId) (l : MarkLine) (k : Vector Core 24) :
    s.tracedIn { t with cores := k } c p l = { s.tracedIn t c p l with cores := k } := by
  unfold State.tracedIn
  split <;> rfl

/-- The stash of a core that a MARK has given its list. -/
def CoreStash.withList (q : CoreStash) (p : PartId) (l : MarkLine) : CoreStash :=
  if l.pdn = 0 then q else { q with lists := q.lists ++ [⟨p, l.pdl, 0, l.pdn.toNat, false⟩] }

theorem State.addList_eq (s : State) (c : CoreId) (p : PartId) (l : MarkLine) :
    s.addList c p l = s.modStash c fun q => q.withList p l := by
  unfold State.addList CoreStash.withList
  split
  · exact (State.modCore_id rfl).symm
  · rfl

theorem State.addList_core (s : State) (c : CoreId) (p : PartId) (l : MarkLine) :
    (s.addList c p l).core c = { s.core c with stash := (s.core c).stash.withList p l } := by
  rw [State.addList_eq, State.modStash, State.core_modCore_same]

theorem State.addList_core_other (s : State) (c d : CoreId) (p : PartId) (l : MarkLine) (hd : d ≠ c) :
    (s.addList c p l).core d = s.core d := by
  rw [State.addList_eq, State.modStash, State.core_modCore_other _ _ _ _ hd]

theorem besideSlots_marked (l : MarkLine) (traced : Bool) (time : BitVec 64) : BesideSlots fun t => t.marked l traced time :=
  fun _ _ _ _ _ => rfl

theorem mark_takesEffect {s : State} {c : CoreId} {p : PartId} {l : MarkLine} (h : s.Ready c p (.mark l)) (hphase : l.phase ≠ 3)
    (hlist : l.pdn = 0 ∨ l.pdl.toNat % 32 = 0 ∧ ((s.core c).stash.lists.filter fun q => q.next == 0).length < 4) :
    (s.tracedIn (s.addList c p l) c p l).Decoded (s.decodeLine c (.mark l)).settle c p (.mark l) Report.ok fun t =>
      t.marked l (l.trace && s.traceDue c) s.aon.time := by
  have hgood : s.checkLine c p (.mark l) = none := by
    simp only [State.checkLine, firstBad_eq_none_iff]
    simpa using ⟨hphase, fun hn => (hlist.resolve_left hn).1⟩
  rw [State.decodeLine_mark h hgood]
  generalize hu : ((s.tracedIn s c p l).modCtl c fun t => { t.taken.marked l (l.trace && s.traceDue c) s.aon.time with
    hold := some ((s.core c).ctl.capture (.mark l), s.aon.time) }) = u
  obtain ⟨logs, hlogs⟩ := s.tracedIn_eq s c p l
  have hucore : u.core c = { s.core c with ctl := { (s.core c).ctl.taken.marked l (l.trace && s.traceDue c) s.aon.time with
      hold := some ((s.core c).ctl.capture (.mark l), s.aon.time) } } := by
    rw [← hu, State.core_modCtl, hlogs]
    rfl
  have huother : ∀ d, d ≠ c → u.core d = s.core d := fun d hd => by
    rw [← hu, State.modCtl, State.core_modCore_other _ _ _ _ hd, hlogs]
    rfl
  have hunow : u.now = s.now := by rw [← hu, hlogs]; rfl
  have hstep : u.stepHeld c p ((s.core c).ctl.capture (.mark l)) s.aon.time.toNat = .finished .ok (u.addList c p l) := by
    refine State.stepMark_eq (InFlight.missed_eq rfl ?_) (hlist.imp_right fun hl => ?_)
    · rw [hunow]; exact h.2.2.2.2.2.2.2
    · rw [hucore]; exact hl.2
  have hb : s.tracedIn (s.addList c p l) c p l = { s.tracedIn s c p l with cores := (s.addList c p l).cores } := by
    rw [← State.tracedIn_cores, State.addList_eq]
    rfl
  have hbcore : ∀ d, (s.tracedIn (s.addList c p l) c p l).core d = (s.addList c p l).core d := fun d => by rw [hb]; rfl
  have hctl : ∀ d, ((s.tracedIn (s.addList c p l) c p l).core d).ctl = (s.core d).ctl := fun d => by
    rw [hbcore, State.addList_eq, State.core_modStash_ctl]
  refine h.holds (besideSlots_marked l _ _) (by rw [hucore]) (by rw [hucore]; exact h.2.1) huother (by rw [← hu, hlogs]; rfl) hstep
    ?_ (fun d hd => ?_) ?_ (hctl c) ?_ ?_ (State.still_congr h.1 hctl ?_ ?_ ?_ ?_) rfl
  · rw [hb, State.addList_eq, ← hu]
    rfl
  · rw [hbcore, State.addList_core_other _ _ _ _ _ hd, State.addList_core_other _ _ _ _ _ hd, huother d hd]
  · rw [hbcore, State.addList_core, State.addList_core, hucore]
    rfl
  · rw [hbcore, State.addList_eq, State.core_modStash_part]
  all_goals
    rw [hb, hlogs]

/-- Settles O21: SEED and DEADLINE act in their slot (`seed_takesEffect`, `deadline_takesEffect`); MARK sets its registers, then hands its
list over as a held command that finishes at once (`mark_takesEffect`). -/
theorem seedDeadlineAndMarkTakeEffectAtDecode : Obligations.SeedDeadlineAndMarkTakeEffectAtDecode := by
  unfold Obligations.SeedDeadlineAndMarkTakeEffectAtDecode
  refine ⟨fun s c p => ⟨fun l h => ⟨_, rfl, ?_⟩, fun l h hrt hmode hdl => ⟨_, rfl, deadline_takesEffect h hrt hmode hdl⟩⟩,
    fun s c p l h hphase hlist => ⟨_, rfl, ?_⟩⟩
  · exact seed_takesEffect h
  · have hdone := mark_takesEffect h hphase hlist
    simp only [State.tracedIn, State.traceRecord, State.core_modCtl] at hdone
    exact hdone

/-! ### FENCE -/

section
variable {s : State} {c : CoreId} {p : PartId} {x : Line}

/-- A line that waits at decode and leaves the machine as it is (05 R108, R109). -/
theorem State.Ready.heldAt_settles {w : State} (h : s.Ready c p x)
    (hstep : (s.heldAt c x).stepHeld c p ((s.core c).ctl.capture x) s.aon.time.toNat = .waits w)
    (hagain : w.stepHeld c p ((s.core c).ctl.capture x) s.aon.time.toNat = .waits w) (hcores : w.cores = (s.heldAt c x).cores)
    (hrounds : w.eng.rounds = s.eng.rounds) (hrests : w.Rests) : (s.heldAt c x).settle = w := by
  obtain ⟨hwait, hreuse⟩ := State.coreStill_iff.mp (State.coreStill_of_still h.1 c)
  have hcore := s.heldAt_core c x
  refine State.settle_of_held_waiting (by rw [hcore]) (by rw [hcore]; exact h.2.1) (fun d hd => ?_) (fun y hy => ?_) hcores hrounds hrests
    hstep hagain
  · exact (State.coreStill_congr (s := s) (t := s.heldAt c x) (by rw [s.heldAt_core_other c d x hd]) rfl).trans (State.coreStill_of_still h.1 d)
  · rw [hcore] at hy
    refine ⟨(Core.still_iff.mp hwait).2 y hy, Eq.trans ?_ (hreuse y hy)⟩
    unfold State.reuseWaits
    rw [hrounds]

/-- A line held at decode that finishes there: what its step does to its core's control state is `f`, and all else is in `b`. -/
theorem State.Ready.heldAt_finishes {b v : State} {r : Report} {f : CoreCtl → CoreCtl} (h : s.Ready c p x) (hf : BesideSlots f)
    (hstep : (s.heldAt c x).stepHeld c p ((s.core c).ctl.capture x) s.aon.time.toNat = .finished r v)
    (hv : v = { b with cores := v.cores }) (hvcores : v.cores = ((s.heldAt c x).modCtl c f).cores) (hbcores : b.cores = s.cores)
    (hbaon : b.aon = s.aon) (hstill : b.still = true) (hok : r.status = stOk) : b.Decoded (s.heldAt c x).settle c p x r f := by
  have hcore := s.heldAt_core c x
  have hvcore : ∀ d, v.core d = ((s.heldAt c x).modCtl c f).core d := fun d => by unfold State.core; rw [hvcores]
  have hbcore : ∀ d, b.core d = s.core d := fun d => by unfold State.core; rw [hbcores]
  refine h.holds hf (by rw [hcore]) (by rw [hcore]; exact h.2.1) (fun d hd => s.heldAt_core_other c d x hd) rfl hstep hv
    (fun d hd => ?_) ?_ (by rw [hbcore]) (by rw [hbcore]) hbaon hstill hok
  · rw [hvcore, hbcore, State.modCtl, State.core_modCore_other _ _ _ _ hd, s.heldAt_core_other c d x hd]
  · rw [hvcore, hbcore, State.core_modCtl, hcore]

theorem State.Ready.decodeLine_heldAt (h : s.Ready c p x) (hunit : unitsOf x = []) (hgood : s.checkLine c p x = none)
    (hhold : holdsDecode x = true) (hmark : ∀ l, x ≠ .mark l) : s.decodeLine c x = s.heldAt c x := by
  obtain ⟨-, hpart, -, -, -, -, hsel, -⟩ := id h
  exact State.decodeLine_eq_heldAt hpart (h.decodeFree hunit) hsel hgood hhold hmark

theorem fence_holdsOrCompletes {l : FenceLine} (h : s.Ready c p (.fence l)) (hmask : l.cmask ≠ 0) (hscope : l.scope ≠ 3) :
    (fenceWaits l.cmask (s.core c).ctl.slots = true → (s.decodeLine c (.fence l)).settle = s.heldAt c (.fence l)) ∧
    (fenceWaits l.cmask (s.core c).ctl.slots = false →
      s.Decoded (s.decodeLine c (.fence l)).settle c p (.fence l) Report.ok id) := by
  have hgood : s.checkLine c p (.fence l) = none := by
    simp only [State.checkLine, firstBad_eq_none_iff]
    simpa using ⟨hmask, hscope⟩
  rw [h.decodeLine_heldAt rfl hgood rfl fun m => Line.noConfusion]
  have hstep : (s.heldAt c (.fence l)).stepHeld c p ((s.core c).ctl.capture (.fence l)) s.aon.time.toNat =
      if fenceWaits l.cmask (s.core c).ctl.slots then .waits (s.heldAt c (.fence l)) else .finished .ok (s.heldAt c (.fence l)) := by
    have hslots : ((s.heldAt c (.fence l)).core c).ctl.slots = (s.core c).ctl.slots := by rw [s.heldAt_core]
    rw [← hslots]
    rfl
  refine ⟨fun hwaits => ?_, fun hgoes => ?_⟩
  · rw [hwaits, if_pos rfl] at hstep
    exact h.heldAt_settles hstep hstep rfl rfl ((State.rests_of_still h.1).congr rfl rfl rfl rfl)
  · rw [hgoes, if_neg Bool.false_ne_true] at hstep
    exact h.heldAt_finishes (fun _ _ _ _ _ => rfl) hstep rfl (congrArg State.cores (State.modCore_id rfl).symm) rfl rfl h.1 rfl

end

/-! ### WAITQ -/

theorem Queue.waitSeq_waiters {q : Queue} {seq : Nat} {d : Delivery} (h : q.waitSeq seq = some d) : d.q.waiters = q.waiters := by
  unfold Queue.waitSeq at h
  split at h
  · cases h
    dsimp only
    split <;> rfl
  · cases h

theorem Queue.waitItem_waiters {q : Queue} {d : Delivery} (h : q.waitItem = some d) : d.q.waiters = q.waiters := by
  unfold Queue.waitItem at h
  split at h
  · cases h; rfl
  · cases h

/-- The queue once the cancelled items that have passed are passed over (R224). -/
def Queue.passedOver (q : Queue) : Queue := if q.dpos < q.cpos then ({ q with dpos := q.cpos }).tidy else q

theorem Queue.waitItem_passedOver {q : Queue} (h : q.waitItem = none) : q.passedOver.waitItem = none := by
  unfold Queue.passedOver
  split
  · have hnone : ({ q with dpos := q.cpos } : Queue).tidy.pendingItem = none := by
      refine List.find?_eq_none.mpr fun i _ => ?_
      have hpos : ¬ (q.cpos ≤ i.n ∧ i.n < q.cpos) := by omega
      simp only [Queue.tidy, hpos]
      simp
    simp only [Queue.waitItem, hnone]
  · exact h

section
variable {s : State} {qid : Qid} {q : Queue}

theorem State.passOver_eq (hq : s.queue qid = some q) :
    s.passOver qid = if q.dpos < q.cpos then s.setQueue qid q.passedOver else s := by
  unfold State.passOver Queue.passedOver
  rw [hq]
  dsimp only
  split <;> rfl

theorem State.queue_passOver (hq : s.queue qid = some q) : (s.passOver qid).queue qid = some q.passedOver := by
  rw [State.passOver_eq hq]
  split
  · exact State.queue_setQueue_same _ _ _
  next h => rw [hq, Queue.passedOver, if_neg h]

theorem Queue.not_behind_passedOver (q : Queue) : ¬ q.passedOver.dpos < q.passedOver.cpos := by
  unfold Queue.passedOver
  split
  · exact lt_irrefl q.cpos
  · assumption

theorem State.passOver_passOver (hq : s.queue qid = some q) : (s.passOver qid).passOver qid = s.passOver qid := by
  rw [State.passOver_eq (State.queue_passOver hq), if_neg q.not_behind_passedOver]

theorem State.passOver_same (s : State) (qid : Qid) : (s.passOver qid).cores = s.cores ∧ (s.passOver qid).now = s.now ∧
    (s.passOver qid).eng.rounds = s.eng.rounds ∧ (s.passOver qid).eng.qcache = s.eng.qcache := by
  unfold State.passOver
  split
  · split <;> exact ⟨rfl, rfl, rfl, rfl⟩
  · exact ⟨rfl, rfl, rfl, rfl⟩

theorem State.Rests.passOver (h : s.Rests) (qid : Qid) : (s.passOver qid).Rests := by
  unfold State.passOver
  split
  next q hq =>
    split
    · exact h.setQueue (h.waiters qid q hq)
    · exact h
  · exact h

theorem State.passOver_modCtl (s : State) (c : CoreId) (f : CoreCtl → CoreCtl) (qid : Qid) :
    (s.modCtl c f).passOver qid = (s.passOver qid).modCtl c f := by
  unfold State.passOver
  rw [State.queue_modCtl]
  split
  · split <;> rfl
  · rfl

end

/-- What a WAITQ of a core keeps of the item at position `n`: one that its queue has released is what the core has kept (log 51). -/
def keptItem (q : Queue) (old : Option (Qid × Item)) (qid : Qid) (n : Nat) : Item := match q.item n, old with
  | some i, _ => i
  | none, some (z, i) => if z = qid ∧ i.n = n then i else Item.fresh n
  | none, none => Item.fresh n

theorem State.itemAt_eq {s : State} {c : CoreId} {qid : Qid} {q : Queue} (hq : s.queue qid = some q) (n : Nat) :
    s.itemAt c qid n = keptItem q (s.core c).ctl.item qid n := by
  unfold State.itemAt keptItem
  rw [hq]
  dsimp only
  cases q.item n <;> cases (s.core c).ctl.item <;> rfl

/-- What a WAITQ finds on its queue (R109). -/
def Queue.delivery (q : Queue) (l : WaitqLine) : Option Delivery := if l.cond then q.waitItem else q.waitSeq l.seq.toNat

/-- The position of the item that a satisfied WAITQ keeps. -/
def Queue.keptPos (q : Queue) (l : WaitqLine) (d : Delivery) : Option Nat :=
  if l.cond then some (d.pos.getD 0) else if q.seqPos l.seq.toNat = 0 then none else some (q.seqPos l.seq.toNat - 1)

theorem State.stepWaitq_eq {s : State} {c : CoreId} {p : PartId} {x : InFlight} {l : WaitqLine} {q : Queue}
    (hq : s.queue l.qid = some q) (hcache : l.qid ∈ s.eng.qcache) (hmiss : x.missed s.now = false) :
    s.stepWaitq c p x s.now l = match q.delivery l with
      | some d => .finished ⟨stOk, 0, 0, d.q.dseq, if l.cond then q.slotOf (d.pos.getD 0) else 0⟩ (s.satisfy c l.qid d (q.keptPos l d))
      | none => .waits (if l.cond then s.passOver l.qid else s) := by
  have hcached : s.cached l.qid = true := by simp [State.cached, hcache]
  have hskip : s.skips p x = false := by simp [State.skips, hmiss]
  have htime : decide (l.tmo ≠ 0 ∧ s.now + l.tmo.toNat ≤ s.now) = false := by
    have hpos : l.tmo ≠ 0 → 0 < l.tmo.toNat := fun h => by
      have := BitVec.toNat_ne.mp h
      simp at this
      omega
    simp only [decide_eq_false_iff_not, not_and]
    intro h
    have := hpos h
    omega
  unfold State.stepWaitq Queue.delivery Queue.keptPos
  simp only [hq, hcached, hskip, htime, Bool.not_true, Bool.false_eq_true, if_false]
  cases l.cond
  · cases q.waitSeq l.seq.toNat <;> simp only [Bool.false_eq_true, if_false]
  · cases q.waitItem <;> simp only [if_true]

theorem waitq_holdsOrCompletes {s : State} {c : CoreId} {p : PartId} {l : WaitqLine} {q : Queue} (h : s.Ready c p (.waitq l))
    (hq : s.queue l.qid = some q) (hpart : q.part = p) (hmask : q.isPf = true → q.cmask.getLsbD c.val = true)
    (hcache : l.qid ∈ s.eng.qcache) : match q.delivery l with
      | some d => (s.setQueue l.qid d.q).Decoded (s.decodeLine c (.waitq l)).settle c p (.waitq l)
          ⟨stOk, 0, 0, d.q.dseq, if l.cond then q.slotOf (d.pos.getD 0) else 0⟩ fun k => { k with
            latch := d.ts, item := (q.keptPos l d).map fun n => (l.qid, keptItem q (s.core c).ctl.item l.qid n) }
      | none => (s.decodeLine c (.waitq l)).settle = (if l.cond then s.passOver l.qid else s).modCtl c fun k => { k with
          pc := k.pc + 32, tokens := k.tokens + 1, hold := some (k.capture (.waitq l), s.aon.time) } := by
  have hgood : s.checkLine c p (.waitq l) = none := by
    simp only [State.checkLine, hq]
    rw [if_neg]
    rintro (hne | hpf)
    · exact hne hpart
    · cases hisPf : q.isPf <;> simp_all
  rw [h.decodeLine_heldAt rfl hgood rfl fun m => Line.noConfusion]
  have hmiss : ((s.core c).ctl.capture (.waitq l)).missed s.now = false := InFlight.missed_eq rfl h.2.2.2.2.2.2.2
  have hcore := s.heldAt_core c (.waitq l)
  have hheld : (s.heldAt c (.waitq l)).queue l.qid = some q := hq
  have hstep := State.stepWaitq_eq (s := s.heldAt c (.waitq l)) (c := c) (p := p) (x := (s.core c).ctl.capture (.waitq l)) (l := l)
    hq hcache hmiss
  split
  next d hd =>
    have hwaiters : d.q.waiters = [] := by
      have hold := (State.rests_of_still h.1).waiters l.qid q hq
      unfold Queue.delivery at hd
      split at hd
      · rw [Queue.waitItem_waiters hd, hold]
      · rw [Queue.waitSeq_waiters hd, hold]
    rw [hd] at hstep
    refine h.heldAt_finishes (fun _ _ _ _ _ => rfl) hstep rfl ?_ rfl rfl ?_ rfl
    · have hitem : ∀ n, (s.heldAt c (.waitq l)).itemAt c l.qid n = keptItem q (s.core c).ctl.item l.qid n := fun n => by
        rw [State.itemAt_eq hheld, hcore]
      simp only [State.satisfy, hitem]
      rfl
    · exact State.still_iff.mpr ⟨fun d => (State.coreStill_congr (s := s) rfl rfl).trans (State.coreStill_of_still h.1 d),
        (State.rests_of_still h.1).setQueue hwaiters⟩
  next hnone =>
    rw [hnone] at hstep
    have hw : (if l.cond then s.passOver l.qid else s).modCtl c (fun k => { k with
        pc := k.pc + 32, tokens := k.tokens + 1, hold := some (k.capture (.waitq l), s.aon.time) }) =
        if l.cond then (s.heldAt c (.waitq l)).passOver l.qid else s.heldAt c (.waitq l) := by
      split
      · exact (State.passOver_modCtl s c _ l.qid).symm
      · rfl
    rw [hw]
    have hrests : (s.heldAt c (.waitq l)).Rests := (State.rests_of_still h.1).congr rfl rfl rfl rfl
    unfold Queue.delivery at hnone
    cases hcond : l.cond with
    | false =>
      simp only [hcond, Bool.false_eq_true, if_false] at hstep ⊢
      exact h.heldAt_settles hstep hstep rfl rfl hrests
    | true =>
      simp only [hcond, if_true] at hstep hnone ⊢
      obtain ⟨hcores, hnow, hrounds, hqcache⟩ := (s.heldAt c (.waitq l)).passOver_same l.qid
      refine h.heldAt_settles hstep ?_ hcores hrounds (hrests.passOver l.qid)
      have hagain := State.stepWaitq_eq (s := (s.heldAt c (.waitq l)).passOver l.qid) (c := c) (p := p)
        (x := (s.core c).ctl.capture (.waitq l)) (l := l) (State.queue_passOver hheld) (by rw [hqcache]; exact hcache) (by rw [hnow]; exact hmiss)
      have hnext : q.passedOver.delivery l = none := by
        unfold Queue.delivery
        rw [if_pos hcond, Queue.waitItem_passedOver hnone]
      simp only [hnext, hcond, if_true, State.passOver_passOver hheld, hnow] at hagain
      exact hagain

/-- Settles O22: each line is held as it is decoded, and its first step finishes it or leaves it held (`fence_holdsOrCompletes`,
`waitq_holdsOrCompletes`). -/
theorem fenceAndWaitqHoldOrComplete : Obligations.FenceAndWaitqHoldOrComplete := by
  unfold Obligations.FenceAndWaitqHoldOrComplete
  refine ⟨fun s c p l h hmask hscope => ⟨_, rfl, ?_⟩, fun s c p l q h hq hpart hmask hcache => ⟨_, rfl, ?_⟩⟩
  · obtain ⟨hwaits, hgoes⟩ := fence_holdsOrCompletes h hmask hscope
    split
    next hw => exact hwaits hw
    next hw => exact hgoes (Bool.eq_false_iff.mpr hw)
  · have hdone := waitq_holdsOrCompletes h hq hpart hmask hcache
    unfold Queue.delivery Queue.keptPos at hdone
    simp only [apply_ite (Option.map _), Option.map_none, Option.map_some] at hdone
    exact hdone

end Sys2Proof.Machine

/-! A unit command that counts against its partition's shares (01 R16), in a core with nothing else in flight. The share counters
are beside everything else that the command changes (`State.charge_frame`), so it runs as any other (`State.Idle.runsTo`). -/

namespace Sys2Proof.Machine

/-! ### The share counters -/

theorem State.useShare_frame {s t : State} {p : PartId} (point n : Nat) (hrt : t.isRt p = s.isRt p)
    (ht : t = { s with cores := t.cores, parts := t.parts }) :
    t.useShare point p n = { s.useShare point p n with cores := t.cores, parts := t.parts } := by
  have hnow : t.now = s.now := by rw [ht]; rfl
  unfold State.useShare
  rw [hrt, hnow]
  split
  · conv_lhs => rw [ht]
    rfl
  · exact ht

theorem State.isRt_congr {s t : State} {p : PartId} (h : (t.part p).cfg = (s.part p).cfg) : t.isRt p = s.isRt p := by
  unfold State.isRt
  rw [h]

theorem State.useShare_parts (s : State) (point : Nat) (p : PartId) (n : Nat) :
    (s.useShare point p n).parts = s.parts ∧ (s.useShare point p n).cores = s.cores := by
  unfold State.useShare
  split <;> exact ⟨rfl, rfl⟩

/-- What a command's bytes count for neither reads the cores nor more of a partition than its configuration. -/
theorem State.charge_frame {s t : State} {p : PartId} (l : Line) (hrt : t.isRt p = s.isRt p)
    (ht : t = { s with cores := t.cores, parts := t.parts }) :
    t.charge p l = { s.charge p l with cores := t.cores, parts := t.parts } := by
  have key : ∀ (xs : List (Nat × Nat)) (s t : State), t.isRt p = s.isRt p → t = { s with cores := t.cores, parts := t.parts } →
      xs.foldl (fun z x => z.useShare x.1 p (bytesOf l)) t =
        { xs.foldl (fun z x => z.useShare x.1 p (bytesOf l)) s with cores := t.cores, parts := t.parts } := by
    intro xs
    induction xs with
    | nil => exact fun s t _ ht => ht
    | cons x xs ih =>
      intro s t hrt ht
      obtain ⟨htp, htc⟩ := t.useShare_parts x.1 p (bytesOf l)
      obtain ⟨hsp, -⟩ := s.useShare_parts x.1 p (bytesOf l)
      have hrt' : (t.useShare x.1 p (bytesOf l)).isRt p = (s.useShare x.1 p (bytesOf l)).isRt p := by
        simpa only [State.isRt, State.part, htp, hsp] using hrt
      have hstep := State.useShare_frame x.1 (bytesOf l) hrt ht
      rw [List.foldl_cons, List.foldl_cons, ih _ _ hrt' (by rw [htp, htc]; exact hstep), htp, htc]
  unfold State.charge
  split
  · exact ht
  · exact key _ s t hrt ht

theorem State.useShare_eng (s : State) (point : Nat) (p : PartId) (n : Nat) :
    ∃ used win, s.useShare point p n = { s with eng := { s.eng with shareUsed := used, shareWin := win } } := by
  unfold State.useShare
  split
  · exact ⟨_, _, rfl⟩
  · exact ⟨_, _, rfl⟩

theorem State.charge_eng (s : State) (p : PartId) (l : Line) :
    ∃ used win, s.charge p l = { s with eng := { s.eng with shareUsed := used, shareWin := win } } := by
  have key : ∀ (xs : List (Nat × Nat)) (s : State),
      ∃ used win, xs.foldl (fun z x => z.useShare x.1 p (bytesOf l)) s = { s with eng := { s.eng with shareUsed := used, shareWin := win } } := by
    intro xs
    induction xs with
    | nil => exact fun s => ⟨_, _, rfl⟩
    | cons x xs ih =>
      intro s
      obtain ⟨used, win, h⟩ := s.useShare_eng x.1 p (bytesOf l)
      obtain ⟨used', win', h'⟩ := ih (s.useShare x.1 p (bytesOf l))
      exact ⟨used', win', by rw [List.foldl_cons, h', h]⟩
  unfold State.charge
  split
  · exact ⟨_, _, rfl⟩
  · exact key _ s

theorem State.charge_parts (s : State) (p : PartId) (l : Line) : (s.charge p l).parts = s.parts := by
  obtain ⟨used, win, h⟩ := s.charge_eng p l
  rw [h]

theorem State.core_charge (s : State) (p : PartId) (l : Line) (c : CoreId) : (s.charge p l).core c = s.core c := by
  obtain ⟨used, win, h⟩ := s.charge_eng p l
  rw [h]
  rfl

theorem State.charge_rounds (s : State) (p : PartId) (l : Line) : (s.charge p l).eng.rounds = s.eng.rounds := by
  obtain ⟨used, win, h⟩ := s.charge_eng p l
  rw [h]

theorem State.charge_aon (s : State) (p : PartId) (l : Line) : (s.charge p l).aon = s.aon := by
  obtain ⟨used, win, h⟩ := s.charge_eng p l
  rw [h]

/-- Sharing changes nothing that waits. -/
theorem State.Rests.charge {s : State} (h : s.Rests) (p : PartId) (l : Line) : (s.charge p l).Rests := by
  obtain ⟨used, win, hc⟩ := s.charge_eng p l
  rw [hc]
  exact ⟨h.relayed, h.relays, h.refusers, h.localA2a, h.xfers, h.waiters, h.owed, h.waits⟩

/-! ### The run of a charged command -/

theorem State.cfg_counted (s : State) (p : PartId) (r : Report) : ((s.counted p r).part p).cfg = (s.part p).cfg := by
  unfold State.counted
  simp only [State.countPart]
  split <;> split <;> simp only [State.part_modPart_same]

theorem State.counted_parts {s t : State} (h : t.parts = s.parts) (p : PartId) (r : Report) :
    (t.counted p r).parts = (s.counted p r).parts := by
  unfold State.counted
  simp only [State.countPart, State.modPart, State.setPart, State.part]
  split <;> split <;> simp only [h]

section
variable {s b : State} {c : CoreId} {p : PartId} {x : Line} {r : Report} {m : CoreMem}

/-- A lone command that its unit has finished with ST_OK, counted against the shares. -/
theorem State.Idle.finishes (h : s.Idle c p) (hbctl : ∀ d, (b.core d).ctl = (s.core d).ctl) (hbpart : (b.core c).part = some p)
    (hbaon : b.aon = s.aon) (hrests : b.Rests) (hrounds : b.eng.rounds = s.eng.rounds) (hok : r.status = stOk) :
    (b.charge p x).Ran ((((b.enter c x).withMem c m).complete c (s.core c).ctl.tokens r).charge p x) c p x r m ∧
      ((((b.enter c x).withMem c m).complete c (s.core c).ctl.tokens r).charge p x).still = true := by
  have hready : s.Ready c p x := State.Ready.of_idle h x
  have hcause : statusCause r.status = none := by rw [hok]; rfl
  have hmemc : (b.withMem c m).core c = { b.core c with mem := m } := by simp [State.withMem, State.modMem]
  have hmemo : ∀ d, d ≠ c → (b.withMem c m).core d = b.core d := fun d hd => State.core_modCore_other _ _ _ _ hd
  have hctl : ∀ d, ((b.withMem c m).core d).ctl = (s.core d).ctl := fun d => by
    by_cases hd : d = c
    · subst hd; rw [hmemc]; exact hbctl d
    · rw [hmemo d hd]; exact hbctl d
  have hstill : (b.withMem c m).still = true := State.still_iff.mpr
    ⟨fun d => (State.coreStill_congr (hctl d) hrounds).trans (State.coreStill_of_still h.1 d), hrests.congr rfl rfl rfl rfl⟩
  have hdone := hready.completes (b := b.withMem c m) (v := (b.enter c x).withMem c m) (r := r) (f := id) (fun _ _ _ _ _ => rfl)
    (hctl c) (by rw [hmemc]; exact hbpart.trans h.2.1.symm) hbaon rfl
    (fun d hd => by
      rw [hmemo d hd, State.withMem, State.modMem, State.core_modCore_other _ _ _ _ hd, State.enter_core_other _ _ _ _ hd])
    (by rw [hmemc, State.withMem, State.modMem, State.core_modCore_same, State.enter_core, hbctl]; rfl) hcause (.inl hok)
  have hstillt := hdone.still (fun _ _ _ _ _ => rfl) hstill
  generalize ((b.enter c x).withMem c m).complete c (s.core c).ctl.tokens r = t at hdone hstillt ⊢
  obtain ⟨ht, hother, hcore⟩ := hdone
  have hcount : (b.withMem c m).countStatus p r.status = b.withMem c m := by rw [hok]; rfl
  have htb : t = { b with cores := t.cores, parts := t.parts } := by
    conv_lhs => rw [ht, hcount, State.counted_eq]
    rw [ht, hcount]
    rfl
  have htp : t.parts = (b.counted p r).parts := by
    rw [ht, hcount]
    exact State.counted_parts (s := b) (t := b.withMem c m) rfl p r
  have hcfg : t.isRt p = b.isRt p := State.isRt_congr (by
    have hpart : t.part p = (b.counted p r).part p := by unfold State.part; rw [htp]
    rw [hpart, State.cfg_counted])
  have hcharge := State.charge_frame x hcfg htb
  have hcores : ∀ d, (t.charge p x).core d = t.core d := fun d => by rw [hcharge]; rfl
  refine ⟨⟨hok, ?_, fun d hd => ?_, ?_⟩, State.still_iff.mpr ⟨fun d => ?_, (State.rests_of_still hstillt).charge p x⟩⟩
  · have hparts : ((b.charge p x).counted p r).parts = t.parts :=
      (State.counted_parts (b.charge_parts p x) p r).trans htp.symm
    rw [State.counted_eq, hparts]
    conv_lhs => rw [hcharge]
    rw [hcharge]
  · rw [State.core_charge, State.core_charge, hother d hd, hmemo d hd]
  · have hhalt : haltsStream x r.status = false := by simp [haltsStream, hok]
    obtain ⟨-, -, -, -, hslots, -, -⟩ := h
    rw [State.core_charge, State.core_charge, hcore, hmemc]
    simp only [hbctl, hhalt, hslots, State.charge_aon]
    rfl
  · exact (State.coreStill_congr (by rw [State.core_charge]) (t.charge_rounds p x)).trans (State.coreStill_of_still hstillt d)

/-- A unit command in an idle core, which its unit finishes with ST_OK: what it changes but for its core's memory and control
state is in `b`. -/
theorem State.Idle.runsTo (h : s.Idle c p) (hgood : s.checkLine c p x = none) (hhold : holdsDecode x = false)
    (hunit : unitsOf x ≠ []) (hpost : s.PostsNone c p x) (hbctl : ∀ d, (b.core d).ctl = (s.core d).ctl)
    (hbpart : (b.core c).part = some p) (hbaon : b.aon = s.aon) (hrests : b.Rests) (hrounds : b.eng.rounds = s.eng.rounds)
    (hrun : (s.enter c x).runLine c p ((s.core c).ctl.capture x) = .done r ((b.enter c x).withMem c m)) (hok : r.status = stOk) :
    (b.charge p x).Ran (s.decodeLine c x).settle c p x r m := by
  obtain ⟨hran, hstill⟩ := h.finishes (x := x) (m := m) hbctl hbpart hbaon hrests hrounds hok
  have hstep := h.starts (x := x)
  rw [hrun] at hstep
  have hothers : ∀ d, d ≠ c → (s.enter c x).coreStill d = true := fun d hd =>
    (State.coreStill_congr (s := s) (t := s.enter c x) (by rw [s.enter_core_other c d x hd]) rfl).trans (State.coreStill_of_still h.1 d)
  rw [h.decodeLine hgood hhold hunit hpost, State.settle_of_one hothers (State.enter_busy h.2.1) hstep hstill]
  exact hran

end

end Sys2Proof.Machine

/-! STASH and UNSTASH (05 R107, 08 R179 to R181). -/

namespace Sys2Proof.Machine

theorem Mem.length_readN (m : Mem) (a n : Nat) : (Mem.readN m a n).length = n := by
  induction n generalizing a with
  | zero => rfl
  | succ n ih => rw [Mem.readN, List.length_cons, ih]

/-! ### Frames around a line that has entered -/

theorem State.modStash_congr {s : State} {c : CoreId} {f g : CoreStash → CoreStash} (h : f (s.core c).stash = g (s.core c).stash) :
    s.modStash c f = s.modStash c g := by
  simp only [State.modStash, State.modCore, h]

theorem State.modStash_enter (s : State) (c : CoreId) (x : Line) (f : CoreStash → CoreStash) :
    (s.enter c x).modStash c f = (s.modStash c f).enter c x := by
  simp only [State.enter, State.modStash, State.modCtl, State.modCore, State.core_setCore_same]
  simp only [State.setCore, Vector.set_set]

theorem State.enter_stash (s : State) (c : CoreId) (x : Line) : ((s.enter c x).core c).stash = (s.core c).stash := by
  rw [State.enter_core]

theorem State.enter_withMem (s : State) (c : CoreId) (x : Line) : (s.enter c x).withMem c (s.core c).mem = s.enter c x := by
  rw [← State.enter_mem s c x]
  exact State.withMem_self _ _

theorem CoreStash.not_waits {k : CoreStash} (h : k.releaseDue = []) (tok : Nat) : k.waits tok = false := by
  simp [CoreStash.waits, h]

theorem State.stashWords_of_clean {s : State} (h : s.hbm.ecc = []) (p : PartId) (c : CoreId) (off len : Nat) (st : Ecc) :
    s.stashWords p c off len st = [] := by
  simp [State.stashWords, h]

/-! ### STASH -/

/-- The machine once a STASH has copied its bytes (R179). -/
def State.stashed (s : State) (c : CoreId) (p : PartId) (l : StashLine) : State :=
  (s.modStash c fun q => { q with
    fill := (s.core c).stash.fill + roundUp l.len.toNat 256
    dir := (s.core c).stash.dir ++ [⟨l.sid.extractLsb' 0 23, l.len, true, (s.core c).stash.fill⟩]
    bytes := (s.core c).stash.bytes.writeN (s.core c).stash.fill ((s.core c).mem.csN (l.csa.toNat * 32) l.len.toNat) }).stashPeak p
      ((s.core c).stash.fill + roundUp l.len.toNat 256)

/-- The machine once a STASH has been discarded (R180). -/
def State.stashDropped (s : State) (c : CoreId) (p : PartId) (l : StashLine) : State :=
  (s.modStash c fun q => { q with
    dir := (s.core c).stash.dir ++ [⟨l.sid.extractLsb' 0 23, l.len, false, 0⟩] }).countPart p .stashDiscard 1

/-- The share of a STASH's class (R178). -/
def State.stashLimit (s : State) (p : PartId) (l : StashLine) : Nat :=
  if l.sid.getLsbD 23 then (s.stashShares p).1 else (s.stashShares p).2

/-- The machine once a STASH of a new ID has run: it copies what fits its class's share and drops the rest (R179, R180). -/
def State.stashOut (s : State) (c : CoreId) (p : PartId) (l : StashLine) : State :=
  if (s.core c).stash.fill + roundUp l.len.toNat 256 ≤ s.stashLimit p l then s.stashed c p l else s.stashDropped c p l

theorem State.runStash_done {s : State} {c : CoreId} {p : PartId} {x : InFlight} {l : StashLine} (hclean : (s.core c).mem.Clean)
    (hecc : s.hbm.ecc = []) (hdue : (s.core c).stash.releaseDue = []) (hnew : ∀ e ∈ (s.core c).stash.dir, e.id ≠ l.sid.extractLsb' 0 23)
    (hroom : (s.core c).stash.dir.length < 8192) : s.runStash c p x l = .done .ok (s.stashOut c p l) := by
  have hany : ((s.core c).stash.dir.any fun e => e.id == l.sid.extractLsb' 0 23) = false := by simpa using hnew
  have htake : ((s.core c).mem.read ⟨false, l.csa.toNat * 32, l.len.toNat⟩).take l.len.toNat =
      (s.core c).mem.csN (l.csa.toNat * 32) l.len.toNat := List.take_of_length_le (Mem.length_readN _ _ _).le
  have hlimit : (if l.sid.getLsbD 23 then (s.stashShares p).1 else (s.stashShares p).2) = s.stashLimit p l := rfl
  simp only [State.runStash, CoreStash.not_waits hdue, hany, hroom.not_ge, State.checkSpans_clean _ hclean,
    State.stashWords_of_clean hecc, Bool.false_eq_true, if_false, hlimit, State.stashOut]
  split
  · simp only [List.filter_nil, List.map_nil, State.countWords, State.clearWords, List.isEmpty_nil, if_true, htake]
    exact congrArg (fun z : State => Run.done .ok (z.stashPeak p ((s.core c).stash.fill + roundUp l.len.toNat 256)))
      (State.modStash_congr rfl)
  · exact congrArg (fun z : State => Run.done .ok (z.countPart p .stashDiscard 1)) (State.modStash_congr rfl)

theorem State.stashOut_enter (s : State) (c : CoreId) (p : PartId) (x : Line) (l : StashLine) :
    (s.enter c x).stashOut c p l = (s.stashOut c p l).enter c x := by
  have hcores : (s.enter c x).coresOf p = s.coresOf p := State.coresOf_congr p fun d => State.core_modCtl_part _ _ _ _
  have hlimit : (s.enter c x).stashLimit p l = s.stashLimit p l := by
    unfold State.stashLimit State.stashShares
    rw [hcores]
    rfl
  unfold State.stashOut
  rw [State.enter_stash, hlimit]
  split
  · unfold State.stashed
    rw [State.enter_stash, State.enter_mem, State.modStash_enter]
    rfl
  · unfold State.stashDropped
    rw [State.enter_stash, State.modStash_enter]
    rfl

/-- A STASH changes its core's stash and its partition, and nothing else. -/
theorem State.stashOut_eq (s : State) (c : CoreId) (p : PartId) (l : StashLine) :
    ∃ f, s.stashOut c p l = { s.modStash c f with parts := (s.stashOut c p l).parts } := by
  unfold State.stashOut
  split <;> exact ⟨_, rfl⟩

theorem stash_copies {s : State} {c : CoreId} {p : PartId} {l : StashLine} (h : s.Idle c p) (hclean : (s.core c).mem.Clean)
    (hecc : s.hbm.ecc = []) (hgood : s.checkStash p false l = none) (hdue : (s.core c).stash.releaseDue = [])
    (hnew : ∀ e ∈ (s.core c).stash.dir, e.id ≠ l.sid.extractLsb' 0 23) (hroom : (s.core c).stash.dir.length < 8192) :
    ((s.stashOut c p l).charge p (.stash l)).Ran (s.decodeLine c (.stash l)).settle c p (.stash l) Report.ok (s.core c).mem := by
  have hstash := s.enter_stash c (.stash l)
  obtain ⟨f, hout⟩ := s.stashOut_eq c p l
  have hcore : ∀ d, (s.stashOut c p l).core d = (s.modStash c f).core d := fun d => by rw [hout]; rfl
  have hmem : ((s.stashOut c p l).core c).mem = (s.core c).mem := by
    rw [hcore, State.modStash, State.core_modCore_same]
  have hrun : (s.enter c (.stash l)).runLine c p ((s.core c).ctl.capture (.stash l)) =
      .done .ok (((s.stashOut c p l).enter c (.stash l)).withMem c (s.core c).mem) := by
    rw [← hmem, State.enter_withMem, ← State.stashOut_enter]
    exact State.runStash_done (hclean.enter _) hecc (by rw [hstash]; exact hdue) (by rw [hstash]; exact hnew) (by rw [hstash]; exact hroom)
  refine h.runsTo hgood rfl (List.cons_ne_nil _ _) (fun _ hr => Line.noConfusion hr) (fun d => ?_) ?_ ?_ ?_ ?_ hrun rfl
  · rw [hcore, State.core_modStash_ctl]
  · rw [hcore, State.core_modStash_part]; exact h.2.1
  · rw [hout]; rfl
  · refine (State.rests_of_still h.1).congr ?_ ?_ ?_ ?_ <;> rw [hout] <;> rfl
  · rw [hout]; rfl

/-! ### UNSTASH -/

section
variable {s b : State} {c : CoreId} {p : PartId} {x : Line} {r : Report} {m : CoreMem}

/-- A command that decode hands to its unit after it was held goes on as one that was queued at once. -/
theorem State.Idle.starts_dispatched (h : s.Idle c p)
    (hstep : (s.heldAt c x).stepHeld c p ((s.core c).ctl.capture x) s.aon.time.toNat = .dispatched (s.heldAt c x)) :
    (s.heldAt c x).progressCore c = (s.enter c x).progressCore c := by
  have hcore := s.heldAt_core c x
  have hfree : ((s.enter c x).core c).ctl.hold = none := by
    rw [State.enter_core]; exact (Core.still_iff.mp (State.core_still h.1 c)).1
  have hpart : ((s.heldAt c x).core c).part = some p := by rw [hcore]; exact h.2.1
  have hdrop : (s.heldAt c x).dropHold c = s.enter c x := by
    unfold State.dropHold State.heldAt State.enter
    rw [State.modCtl_modCtl]
    refine State.modCtl_congr ?_
    have hhold := (Core.still_iff.mp (State.core_still h.1 c)).1
    simp only [hhold]
    rfl
  have hprog : (s.heldAt c x).progressHold c = s.enter c x := by
    have hhold : ((s.heldAt c x).core c).ctl.hold = some ((s.core c).ctl.capture x, s.aon.time) := by rw [hcore]
    rw [← hdrop]
    simp only [State.progressHold, hpart, hhold, hstep]
  have hsame : (s.enter c x).progressHold c = s.enter c x := by simp only [State.progressHold, hfree]
  simp only [State.progressCore, hprog, hsame]

/-- A held unit command that decode hands over at once, and that its unit finishes with ST_OK. -/
theorem State.Idle.runsToFromHold (h : s.Idle c p) (hdecode : s.decodeLine c x = s.heldAt c x)
    (hstep : (s.heldAt c x).stepHeld c p ((s.core c).ctl.capture x) s.aon.time.toNat = .dispatched (s.heldAt c x))
    (hbctl : ∀ d, (b.core d).ctl = (s.core d).ctl) (hbpart : (b.core c).part = some p) (hbaon : b.aon = s.aon) (hrests : b.Rests)
    (hrounds : b.eng.rounds = s.eng.rounds)
    (hrun : (s.enter c x).runLine c p ((s.core c).ctl.capture x) = .done r ((b.enter c x).withMem c m)) (hok : r.status = stOk) :
    (b.charge p x).Ran (s.decodeLine c x).settle c p x r m := by
  obtain ⟨hran, hstill⟩ := h.finishes (x := x) (m := m) hbctl hbpart hbaon hrests hrounds hok
  have hprog := (h.starts_dispatched hstep).trans h.starts
  rw [hrun] at hprog
  have hothers : ∀ d, d ≠ c → (s.heldAt c x).coreStill d = true := fun d hd =>
    (State.coreStill_congr (s := s) (t := s.heldAt c x) (by rw [s.heldAt_core_other c d x hd]) rfl).trans (State.coreStill_of_still h.1 d)
  have hbusy : c ∈ (s.heldAt c x).busyCores := State.mem_busyCores (.inr (by rw [s.heldAt_core]; rfl))
  rw [hdecode, State.settle_of_one hothers hbusy hprog hstill]
  exact hran

end

theorem State.Idle.decodeLine_unstash {s : State} {c : CoreId} {p : PartId} {l : StashLine} (h : s.Idle c p)
    (hgood : s.checkStash p true l = none) : s.decodeLine c (.unstash l) = s.heldAt c (.unstash l) :=
  State.decodeLine_eq_heldAt h.2.1 (h.decodeFree _) h.2.2.2.2.2.1 hgood rfl fun _ => Line.noConfusion

/-- A held UNSTASH of an entry of its length, with no release due and nothing in flight: a present entry goes to the transfer
unit, an absent one is resolved here (R107, 08 R181). -/
theorem State.stepUnstash_eq {s : State} {c : CoreId} {p : PartId} {x : InFlight} {l : StashLine} {e : StashEntry}
    (hmiss : x.missed s.now = false) (hslots : (s.core c).ctl.slots = []) (hdue : (s.core c).stash.releaseDue = [])
    (hfind : (s.core c).stash.dir.find? (fun e => e.id == l.sid.extractLsb' 0 23) = some e) (hlen : e.len = l.len) :
    s.stepUnstash c p x l = if e.present then .dispatched s
      else match s.runUnstash c p x l with
        | .done r s1 => .finished r s1
        | _ => .dispatched s := by
  have hskip : s.skips p x = false := by simp [State.skips, hmiss]
  simp only [State.stepUnstash, hskip, CoreStash.not_waits hdue, hslots, List.any_nil, hfind, hlen]
  simp only [bne_self_eq_false, Bool.or_false, Bool.false_eq_true, if_false] <;> rfl

theorem State.runUnstash_present {s : State} {c : CoreId} {p : PartId} {x : InFlight} {l : StashLine} {e : StashEntry}
    (hclean : (s.core c).mem.Clean) (hecc : s.hbm.ecc = []) (hdue : (s.core c).stash.releaseDue = [])
    (hfind : (s.core c).stash.dir.find? (fun e => e.id == l.sid.extractLsb' 0 23) = some e) (hlen : e.len = l.len)
    (hpresent : e.present = true) : s.runUnstash c p x l = .done .ok (s.withMem c
      ((s.core c).mem.putRuns [(false, l.csa.toNat * 32, Mem.readN (s.core c).stash.bytes e.off l.len.toNat)])) := by
  simp only [State.runUnstash, CoreStash.not_waits hdue, hfind, hlen, hpresent, State.stashWords_of_clean hecc, List.map_nil,
    State.countWords, State.clearWords, List.isEmpty_nil, Bool.not_true, ne_eq, not_true_eq_false, Bool.false_eq_true, if_false, if_true,
    State.writeCore_clean hclean]
  rfl

theorem State.runUnstash_absent {s : State} {c : CoreId} {p : PartId} {x : InFlight} {l : StashLine} {e : StashEntry}
    (hdue : (s.core c).stash.releaseDue = [])
    (hfind : (s.core c).stash.dir.find? (fun e => e.id == l.sid.extractLsb' 0 23) = some e) (hlen : e.len = l.len)
    (habsent : e.present = false) (hrseg : l.rseg ≠ 0) (hstack : (s.core c).ctl.stack.length < 16) :
    s.runUnstash c p x l = .done ⟨stOk, 0, 0, 1, 0⟩
      ((s.modCtl c fun t => { t with stack := t.pc :: t.stack, pc := l.rseg }).countPart p .stashRecompute 1) := by
  simp only [State.runUnstash, CoreStash.not_waits hdue, hfind, hlen, habsent, hrseg, hstack.not_ge, ne_eq, not_true_eq_false,
    Bool.false_eq_true, if_false]

theorem unstash_returns {s : State} {c : CoreId} {p : PartId} {l : StashLine} {e : StashEntry} (h : s.Idle c p)
    (hclean : (s.core c).mem.Clean) (hecc : s.hbm.ecc = []) (hgood : s.checkStash p true l = none)
    (hdue : (s.core c).stash.releaseDue = [])
    (hfind : (s.core c).stash.dir.find? (fun e => e.id == l.sid.extractLsb' 0 23) = some e) (hlen : e.len = l.len) :
    (e.present = true → (s.charge p (.unstash l)).Ran (s.decodeLine c (.unstash l)).settle c p (.unstash l) Report.ok
      ((s.core c).mem.putRuns [(false, l.csa.toNat * 32, Mem.readN (s.core c).stash.bytes e.off l.len.toNat)])) ∧
    (e.present = false → l.rseg ≠ 0 → (s.core c).ctl.stack.length < 16 →
      (s.countPart p .stashRecompute 1).Decoded (s.decodeLine c (.unstash l)).settle c p (.unstash l) ⟨stOk, 0, 0, 1, 0⟩ fun k =>
        { k with stack := k.pc :: k.stack, pc := l.rseg }) := by
  have hcore := s.heldAt_core c (.unstash l)
  have hready : s.Ready c p (.unstash l) := State.Ready.of_idle h _
  have hstep := State.stepUnstash_eq (s := s.heldAt c (.unstash l)) (c := c) (p := p) (x := (s.core c).ctl.capture (.unstash l)) (l := l)
    (e := e) (InFlight.missed_eq rfl h.2.2.2.2.2.2) (by rw [hcore]; exact h.2.2.2.2.1) (by rw [hcore]; exact hdue)
    (by rw [hcore]; exact hfind) hlen
  refine ⟨fun hpresent => ?_, fun habsent hrseg hstack => ?_⟩
  · rw [hpresent, if_pos rfl] at hstep
    have hrun : (s.enter c (.unstash l)).runLine c p ((s.core c).ctl.capture (.unstash l)) =
        .done .ok ((s.enter c (.unstash l)).withMem c
          ((s.core c).mem.putRuns [(false, l.csa.toNat * 32, Mem.readN (s.core c).stash.bytes e.off l.len.toNat)])) := by
      refine (State.runUnstash_present (hclean.enter _) hecc (by rw [s.enter_stash]; exact hdue) (by rw [s.enter_stash]; exact hfind)
        hlen hpresent).trans ?_
      rw [s.enter_stash, s.enter_mem]
    exact h.runsToFromHold (h.decodeLine_unstash hgood) hstep (fun _ => rfl) h.2.1 rfl (State.rests_of_still h.1) rfl hrun rfl
  · have hrun := State.runUnstash_absent (s := s.heldAt c (.unstash l)) (c := c) (p := p) (x := (s.core c).ctl.capture (.unstash l))
      (l := l) (e := e) (by rw [hcore]; exact hdue) (by rw [hcore]; exact hfind) hlen habsent hrseg (by rw [hcore]; exact hstack)
    rw [habsent, if_neg Bool.false_ne_true, hrun] at hstep
    rw [h.decodeLine_unstash hgood]
    exact hready.heldAt_finishes (fun _ _ _ _ _ => rfl) hstep rfl rfl rfl rfl
      (State.still_congr h.1 (fun _ => rfl) rfl rfl rfl rfl) rfl

/-- Settles O19: STASH runs in its unit (`stash_copies`), UNSTASH once decode has held it (`unstash_returns`). -/
theorem stashCopiesAndUnstashReturns : Obligations.StashCopiesAndUnstashReturns := by
  unfold Obligations.StashCopiesAndUnstashReturns
  refine ⟨fun s c p l h hclean hecc hgood hdue hnew hroom => ⟨_, rfl, ?_⟩,
    fun s c p l e h hclean hecc hgood hdue hfind hlen => ⟨_, rfl, unstash_returns h hclean hecc hgood hdue hfind hlen⟩⟩
  have hdone := stash_copies h hclean hecc hgood hdue hnew hroom
  unfold State.stashOut at hdone
  by_cases hfits : (s.core c).stash.fill + roundUp l.len.toNat 256 ≤ s.stashLimit p l
  · rw [if_pos hfits] at hdone
    exact (if_pos hfits).mpr hdone
  · rw [if_neg hfits] at hdone
    exact (if_neg hfits).mpr hdone

end Sys2Proof.Machine

/-! Retirement and timers (05 R118, R109, 08 R182, 09 R198, 10 R235). A list of commands has one that finished first
(`firstDone_eq`); a record is written without touching any control state (`State.writeQueue_ctl`). -/

namespace Sys2Proof.Machine

/-! ### The command that finished first -/

/-- One step of the search for the command that finished first. -/
def earlier (a : Option InFlight) (x : InFlight) : Option InFlight := match x.stage, a with
  | .done n, some y => (match y.stage with
    | .done m => if n < m then some x else a
    | _ => some x)
  | .done _, none => some x
  | _, _ => a

theorem firstDone_eq_foldl (xs : List InFlight) : firstDone xs = xs.foldl earlier none := rfl

theorem earlier_of_not_done {a : Option InFlight} {x : InFlight} (h : x.stage.isDone = false) : earlier a x = a := by
  unfold earlier
  cases hx : x.stage with
  | done n => simp [hx, CmdStage.isDone] at h
  | _ => rfl

theorem firstDone_eq_none {xs : List InFlight} (h : ∀ y ∈ xs, y.stage.isDone = false) : firstDone xs = none := by
  rw [firstDone_eq_foldl]
  induction xs with
  | nil => rfl
  | cons x xs ih =>
    rw [List.foldl_cons, earlier_of_not_done (h x List.mem_cons_self)]
    exact ih fun y hy => h y (List.mem_cons_of_mem x hy)

/-- A command finished after step `n`. -/
def DoneAfter (n : Nat) (y : InFlight) : Prop := ∃ k, y.stage = .done k ∧ n < k

/-- What is found so far: nothing, `x`, or a command that finished after step `n`. -/
def FoundLater (x : InFlight) (n : Nat) (a : Option InFlight) : Prop := ∀ z, a = some z → z = x ∨ DoneAfter n z

theorem earlier_choice (a : Option InFlight) (y : InFlight) : earlier a y = a ∨ earlier a y = some y := by
  unfold earlier
  split
  · split
    · split
      · exact .inr rfl
      · exact .inl rfl
    · exact .inr rfl
  · exact .inr rfl
  · exact .inl rfl

theorem earlier_first {x : InFlight} {n : Nat} (hx : x.stage = .done n) {a : Option InFlight} (ha : FoundLater x n a) :
    earlier a x = some x := by
  unfold earlier
  cases a with
  | none => rw [hx]
  | some z =>
    obtain rfl | ⟨k, hk, hnk⟩ := ha z rfl
    · simp [hx]
    · simp [hx, hk, hnk]

theorem earlier_keeps {x y : InFlight} {n : Nat} (hx : x.stage = .done n) (hy : DoneAfter n y) :
    earlier (some x) y = some x := by
  obtain ⟨k, hk, hnk⟩ := hy
  simp [earlier, hx, hk, Nat.le_of_lt hnk]

theorem FoundLater.step {x y : InFlight} {n : Nat} {a : Option InFlight} (ha : FoundLater x n a) (hy : DoneAfter n y) :
    FoundLater x n (earlier a y) := by
  intro z hz
  obtain h | h := earlier_choice a y
  · exact ha z (h ▸ hz)
  · cases h.symm.trans hz
    exact .inr hy

theorem foldl_earlier {x : InFlight} {n : Nat} (hx : x.stage = .done n) {xs : List InFlight}
    (h : ∀ y ∈ xs, ∀ k, y.stage = .done k → y ≠ x → n < k) :
    ∀ a, FoundLater x n a → (a = some x ∨ x ∈ xs) → xs.foldl earlier a = some x := by
  induction xs with
  | nil => exact fun a _ hor => hor.resolve_right List.not_mem_nil
  | cons y xs ih =>
    intro a ha hor
    have hrest := ih fun z hz => h z (List.mem_cons_of_mem y hz)
    rw [List.foldl_cons]
    by_cases hy : y = x
    · subst hy
      rw [earlier_first hx ha]
      exact hrest _ (fun z hz => .inl (Option.some.inj hz).symm) (.inl rfl)
    · have hmem : a = some x ∨ x ∈ xs := hor.imp_right fun hm => (List.mem_cons.mp hm).resolve_left (Ne.symm hy)
      cases hstage : y.stage with
      | done k =>
        have hafter : DoneAfter n y := ⟨k, hstage, h y List.mem_cons_self k hstage hy⟩
        exact hrest _ (ha.step hafter) (hmem.imp_left fun he => by rw [he, earlier_keeps hx hafter])
      | _ =>
        rw [earlier_of_not_done (by rw [hstage]; rfl)]
        exact hrest a ha hmem

/-- A command that finished before every other of a list is the first. -/
theorem firstDone_eq {x : InFlight} {n : Nat} {xs : List InFlight} (hx : x.stage = .done n) (hmem : x ∈ xs)
    (h : ∀ y ∈ xs, ∀ k, y.stage = .done k → y ≠ x → n < k) : firstDone xs = some x := by
  rw [firstDone_eq_foldl]
  exact foldl_earlier hx h none (fun _ hz => nomatch hz) (.inr hmem)

/-! ### What a stored record leaves alone -/

theorem State.countWords_cores (k : StackCnt) (ws : List Nat) : ∀ s : State, (s.countWords k ws).cores = s.cores := by
  induction ws with
  | nil => exact fun _ => rfl
  | cons w ws ih => exact fun s => ih _

theorem State.clearWords_cores (ws : List Nat) : ∀ s : State, (s.clearWords ws).cores = s.cores := by
  induction ws with
  | nil => exact fun _ => rfl
  | cons w ws ih => exact fun s => ih _

theorem State.logUe_cores (part source : Nat) (ws : List Nat) : ∀ s : State, (s.logUe part source ws).cores = s.cores := by
  induction ws with
  | nil => exact fun _ => rfl
  | cons w ws ih => exact fun s => ih _

theorem State.writeHbm_cores (s : State) (p : PartId) (va : Nat) (bs : List Byte) : (s.writeHbm p va bs).2.cores = s.cores := by
  unfold State.writeHbm
  dsimp only
  split <;> simp only [State.logUe_cores, State.clearWords_cores, State.countWords_cores]

theorem State.core_modCore_ctl {s : State} {c : CoreId} {f : Core → Core} (h : (f (s.core c)).ctl = (s.core c).ctl) (d : CoreId) :
    ((s.modCore c f).core d).ctl = (s.core d).ctl := by
  by_cases hd : d = c
  · subst hd; rw [State.core_modCore_same, h]
  · rw [State.core_modCore_other _ _ _ _ hd]

theorem State.writeCore_ctl (s : State) (c : CoreId) (xb : Bool) (a : Nat) (bs : List Byte) (d : CoreId) :
    ((s.writeCore c xb a bs).2.core d).ctl = (s.core d).ctl := by
  unfold State.writeCore State.countCe
  dsimp only
  split
  · exact State.core_modCore_ctl (by rfl) d
  · exact (State.core_modCore_ctl (by rfl) d).trans (State.core_modCore_ctl (by rfl) d)

theorem State.writeQueueCores_ctl (a : Nat) (bs : List Byte) (d : CoreId) (cs : List CoreId) :
    ∀ s : State, ((s.writeQueueCores a bs cs).2.core d).ctl = (s.core d).ctl := by
  induction cs with
  | nil => exact fun _ => rfl
  | cons c cs ih => exact fun s => (ih _).trans (s.writeCore_ctl c false a bs d)

/-- Bytes stored in a queue's area leave the control state of every core. -/
theorem State.writeQueue_ctl (s : State) (q : Queue) (off : Nat) (bs : List Byte) (d : CoreId) :
    ((s.writeQueue q off bs).2.core d).ctl = (s.core d).ctl := by
  unfold State.writeQueue
  split
  · exact State.writeQueueCores_ctl ..
  · rw [State.core, State.writeHbm_cores]
    rfl

/-! ### Retirement -/

/-- The commands of a core beside one. -/
def CoreCtl.without (t : CoreCtl) (x : InFlight) : List InFlight := t.slots.filter fun z => z.token != x.token

theorem CoreCtl.retire_eq (t : CoreCtl) (x : InFlight) : t.retire x = { t with
    slots := t.without x
    stream := if t.ending = true ∧ t.without x = [] ∧ t.stream = .running then .idle else t.stream
    ending := t.ending && !(decide (t.without x = []) && t.stream == .running) } := by
  unfold CoreCtl.retire
  change (let idle := t.ending && (t.without x).isEmpty && t.stream == .running
    { t with slots := t.without x, stream := if idle then .idle else t.stream, ending := t.ending && !idle } : CoreCtl) = _
  cases hend : t.ending <;> cases t.without x <;> simp

/-- A command leaves its slot, and the contexts of rounds that then have no member left are free (07 R139). -/
theorem State.retire_congr {s z : State} {c : CoreId} (h : (z.core c).ctl = (s.core c).ctl) (x : InFlight) :
    (z.modCtl c fun t => t.retire x) = z.modCtl c fun t => { t with
      slots := (s.core c).ctl.without x
      stream := if t.ending = true ∧ (s.core c).ctl.without x = [] ∧ t.stream = .running then .idle else t.stream
      ending := t.ending && !(decide ((s.core c).ctl.without x = []) && t.stream == .running) } :=
  State.modCtl_congr (by rw [CoreCtl.retire_eq, h])

theorem State.retireOldest_of_none {s : State} {c : CoreId} (h : s.retiring c = none) : s.retireOldest c = s := by
  rw [State.retireOldest, h]

/-- A command whose record is not due leaves without one. -/
theorem State.retireOldest_quiet {s : State} {c : CoreId} {p : PartId} {x : InFlight} (hpart : (s.core c).part = some p)
    (h : s.retiring c = some x) (hdue : x.recordDue = false) :
    s.retireOldest c = (s.modCtl c fun t => t.retire x).freeRounds := by
  rw [State.retireOldest, h, hpart]
  simp only [hdue, Bool.false_and, Bool.false_eq_true, if_false]

/-- A record that is due is posted before the command leaves. -/
theorem State.retireOldest_recorded {s z : State} {c : CoreId} {p : PartId} {x : InFlight} {q : Queue}
    (hpart : (s.core c).part = some p) (h : s.retiring c = some x) (hdue : x.recordDue = true)
    (hq : s.queue (s.core c).ctl.cq = some q)
    (hpost : s.postRecord (s.core c).ctl.cq (fun seq ph => x.record c p seq ph) = (true, true, z)) :
    s.retireOldest c = (z.modCtl c fun t => t.retire x).freeRounds := by
  rw [State.retireOldest, h, hpart]
  simp only [hdue, hq, hpost, Option.isSome_some, Bool.and_self, if_true]

theorem State.retiring_eq {s : State} {c : CoreId} {x : InFlight} (h : firstDone (s.core c).ctl.slots = some x) :
    s.retiring c = if s.heldByCq c x then firstDone ((s.core c).ctl.slots.filter fun y => !y.recordDue) else some x := by
  rw [State.retiring, Core.oldestDone, h]

/-- What posting a record comes to when the ring has room and the record lands (10 R226). -/
theorem State.postRecord_eq {s : State} {qid : Qid} {q : Queue} {f : Nat → Bool → List Byte} {bs : List Byte}
    (hq : s.queue qid = some q) (hroom : q.room = true)
    (hbs : f (q.ppos % 65536) (decide ((if q.depth = 0 then 0 else q.ppos / q.depth) % 2 = 0)) = bs)
    (hw : (s.writeQueue q (q.recOff q.ppos) bs).1 = true) :
    s.postRecord qid f = (true, true, (s.writeQueue q (q.recOff q.ppos) bs).2.setQueue qid (Queue.tidy { q with
      ppos := q.ppos + 1, cpos := q.cpos + 1, lastTs := s.aon.time
      items := q.items ++ [({ Item.fresh q.ppos with
        closed := true, full := true, passed := true, bytes := q.recBytes, ts := s.aon.time
        cancelled := decide (q.ppos < q.dpos) })] })) := by
  unfold State.postRecord
  simp only [hq, hroom, if_true, hbs, hw]
  rfl

section
variable {s : State} {c : CoreId} {p : PartId} {x : InFlight}

/-- A record that is due without room in its queue, or with the queue's descriptor absent, holds its slot (05 R118, 10 R221). -/
theorem State.heldByCq_of_full {q : Queue} (hdue : x.recordDue = true) (hq : s.queue (s.core c).ctl.cq = some q)
    (h : q.room = false ∨ (s.core c).ctl.cq ∉ s.eng.qcache) : s.heldByCq c x = true := by
  rw [State.heldByCq, hdue, hq, State.cached, hq]
  obtain h | h := h <;> simp [h]

theorem State.heldByCq_of_room {q : Queue} (hq : s.queue (s.core c).ctl.cq = some q) (hroom : q.room = true)
    (hc : (s.core c).ctl.cq ∈ s.eng.qcache) : s.heldByCq c x = false := by
  rw [State.heldByCq, hq, State.cached]
  simp [hroom, hc]

end

/-! ### A due stash release -/

/-- The oldest due release empties the stash once no STASH or UNSTASH decoded before it is left (08 R182). -/
theorem State.stashRelease_due {s : State} {c : CoreId} {tok : Nat} {rest : List Nat} (hdue : (s.core c).stash.releaseDue = tok :: rest)
    (hhold : ∀ x t0, (s.core c).ctl.hold = some (x, t0) → x.stashBefore tok = false)
    (hslots : ∀ x ∈ (s.core c).ctl.slots, x.stashBefore tok = false)
    (hok : ∀ p, (s.core c).part = some p → s.faulted p = false) :
    s.stashRelease c = s.modStash c fun q => { q with fill := 0, dir := [], bytes := [], releaseDue := rest } := by
  have hcore : s.coreFaulted c = false := by
    rw [State.coreFaulted]
    cases hpart : (s.core c).part with
    | none => rfl
    | some p => exact hok p hpart
  have hnone : (s.core c).ctl.slots.any (InFlight.stashBefore tok) = false :=
    List.any_eq_false.mpr fun x hx => by rw [hslots x hx]; nofun
  rw [State.stashRelease]
  simp only [hcore, hdue, hnone, Bool.or_false, Bool.false_eq_true, if_false]
  cases hh : (s.core c).ctl.hold with
  | none => rfl
  | some h => simp only [hhold h.1 h.2 hh, Bool.false_eq_true, if_false]

/-! ### A due UPD -/

/-- The only command of a core waits at the head of its unit: it starts. -/
theorem State.progressCore_of_lone {s : State} {c : CoreId} {p : PartId} {x : InFlight} (hpart : (s.core c).part = some p)
    (hhold : (s.core c).ctl.hold = none) (hslots : (s.core c).ctl.slots = [x]) (hstage : x.stage = .waiting)
    (hskip : s.skips p x = false) : s.progressCore c = s.ran c p x (s.runLine c p x) := by
  have hheld : s.progressHold c = s := by rw [State.progressHold, hhold]
  have hslot : (s.core c).slot x.token = some x := by simp [Core.slot, hslots]
  have hreuse : s.reuseWaits c x = false := State.reuseWaits_of_not_started (by rw [hstage]; nofun)
  have hbefore : ((s.core c).ctl.slots.takeWhile fun y => y.token != x.token) = [] := by simp [hslots]
  have hfree : s.headFree [] x = true := rfl
  rw [State.progressCore, hheld, hpart]
  change s.tryStarts c p ((s.core c).ctl.slots.map (·.token)) = _
  rw [hslots]
  change s.tryStart c p x.token = _
  unfold State.tryStart
  simp only [hslot, hreuse, hstage, hskip, hbefore, hfree, Bool.false_eq_true, if_false, if_true, ne_eq, not_true_eq_false]

/-- Settles O32: each event of the cores by the state it goes on from. -/
theorem commandsRetireAndTimersExpire : Obligations.CommandsRetireAndTimersExpire := by
  refine ⟨?_, ?_, ?_, ?_, ?_⟩
  · intro s c p x n t left gone hpart hx hstage hfirst
    have hgone : ∀ (z : State) (y : InFlight), (z.core c).ctl = (s.core c).ctl → (z.modCtl c fun t => t.retire y).freeRounds = gone y z :=
      fun z y hz => congrArg State.freeRounds (State.retire_congr hz y)
    have hold : firstDone (s.core c).ctl.slots = some x := firstDone_eq hstage hx hfirst
    refine ⟨fun hdue => ?_, ?_⟩
    · have hret : s.retiring c = some x := by rw [State.retiring_eq hold, State.heldByCq, hdue]; rfl
      exact congrArg (fun z => Host.Outcome.next (State.settle z))
        ((State.retireOldest_quiet hpart hret hdue).trans (hgone s x rfl))
    intro q hdue hq hdepth w
    refine ⟨fun hroom hc hw => ?_, fun hfull => ?_⟩
    · have hret : s.retiring c = some x := by
        rw [State.retiring_eq hold, State.heldByCq_of_room hq hroom hc]; rfl
      have hpost := State.postRecord_eq (f := fun seq ph => x.record c p seq ph) hq hroom (by rw [if_neg hdepth]) hw
      exact congrArg (fun z => Host.Outcome.next (State.settle z))
        ((State.retireOldest_recorded hpart hret hdue hq hpost).trans (hgone _ x (State.writeQueue_ctl ..)))
    · have hret : s.retiring c = firstDone ((s.core c).ctl.slots.filter fun y => !y.recordDue) := by
        rw [State.retiring_eq hold, State.heldByCq_of_full hdue hq hfull]; rfl
      refine ⟨fun hall => ?_, fun y m hy hystage hydue hyfirst => ?_⟩
      · have hnone : s.retiring c = none := hret.trans <| firstDone_eq_none fun y hy => by
          obtain ⟨hy, hydue⟩ := List.mem_filter.mp hy
          exact Bool.eq_false_iff.mpr fun hd => by simp [hall y hy hd] at hydue
        exact congrArg (fun z => Host.Outcome.next (State.settle z)) (State.retireOldest_of_none hnone)
      · have hret : s.retiring c = some y := hret.trans <|
          firstDone_eq hystage (List.mem_filter.mpr ⟨hy, by simp [hydue]⟩) fun z hz => by
            obtain ⟨hz, hzdue⟩ := List.mem_filter.mp hz
            exact hyfirst z hz (by simpa using hzdue)
        exact congrArg (fun z => Host.Outcome.next (State.settle z))
          ((State.retireOldest_quiet hpart hret hydue).trans (hgone s y rfl))
  · intro s c tok rest hdue hhold hslots
    refine ⟨fun hok => ?_, fun p hpart hfault => ?_⟩
    · exact congrArg (fun z => Host.Outcome.next (State.settle z)) (State.stashRelease_due hdue hhold hslots hok)
    · have hcore : s.coreFaulted c = true := by rw [State.coreFaulted, hpart]; exact hfault
      change Host.Outcome.next (s.stashRelease c).settle = _
      rw [State.stashRelease]
      simp only [hcore, if_true]
  · intro s c tag x d htag hd
    refine ⟨s.freeVal % 64, Nat.mod_lt _ (by decide), ?_⟩
    change execDeadlinePassed c tag s = _
    rw [execDeadlinePassed, htag]
    simp only [hd]
  · intro s c x t0 l hhold hline htmo
    change execWaitqTimeout c s = _
    rw [execWaitqTimeout, hhold]
    simp only [hline, htmo, if_false]
  · intro s c p x l u cases hpart hhold hslots hline hstage hdead hcases known
    refine ⟨storedGroups l (s.updCases p l) (s.part p).ue.groups, ?_, State.get_updated_groups, fun n hn => get_storedGroups_of_notMem ?_ _⟩
    swap
    · rintro e he - - rfl
      exact hn (s.map_fst_updCases p l ▸ List.mem_map_of_mem he)
    have hskip : s.skips p x = false := by rw [State.skips, InFlight.missed, hdead, Bool.and_false, Bool.false_and]
    have hgo : s.progressCore c = (s.updated p l).complete c x.token Report.ok := by
      rw [State.progressCore_of_lone hpart hhold hslots hstage hskip, State.ran_of_bytes (by rw [hline]; rfl)]
      have hrun : s.runLine c p x = s.runUpd p l := by rw [State.runLine, hline]
      rw [hrun, State.runUpd_done hcases]
      rfl
    exact congrArg (fun z => Host.Outcome.next (State.settle z)) hgo

end Sys2Proof.Machine

/-! SEND and RECV point to point (05 R106, R425, 10 R228, R240, 14 R326). In sound memory a read finds every byte and a store lands,
and both do so before or after the escapement has taken the line (`State.writeQueue_enter`). -/

namespace Sys2Proof.Machine

/-! ### Sound memory -/

theorem State.withMem_enter (s : State) (c d : CoreId) (x : Line) (m : CoreMem) :
    (s.enter c x).withMem d m = (s.withMem d m).enter c x := by
  unfold State.withMem State.modMem State.enter State.modCtl State.modCore
  by_cases hd : d = c
  · subst hd
    simp only [State.core_setCore_same]
    simp only [State.setCore, Vector.set_set]
  · rw [State.core_setCore_other _ _ _ _ hd, State.core_setCore_other _ _ _ _ (Ne.symm hd)]
    simp only [State.setCore]
    rw [Vector.set_comm _ _ (fun h => hd (Fin.ext h.symm))]

/-- The memories of a state in which the escapement has taken a line. -/
theorem State.enter_memOf (s : State) (c d : CoreId) (x : Line) : ((s.enter c x).core d).mem = (s.core d).mem := by
  by_cases hd : d = c
  · subst hd; exact s.enter_mem _ x
  · rw [s.enter_core_other _ _ x hd]

theorem State.Sound.enter {s : State} (h : s.Sound) (c : CoreId) (x : Line) : (s.enter c x).Sound :=
  ⟨fun d => by rw [State.enter_memOf]; exact h.1 d, h.2⟩

theorem State.clean_withMem {s : State} (h : ∀ d, (s.core d).mem.Clean) {c : CoreId} {m : CoreMem} (hm : m.Clean) :
    ∀ d, ((s.withMem c m).core d).mem.Clean := by
  intro d
  by_cases hd : d = c
  · subst hd; rw [State.withMem_mem]; exact hm
  · rw [State.withMem, State.modMem, State.core_modCore_other _ _ _ _ hd]; exact h d

/-- A read of a partition's HBM without errors finds its bytes. -/
theorem State.readHbm_clean {s : State} (h : s.hbm.ecc = []) (p : PartId) (va len : Nat) :
    s.readHbm p va len = (some (s.hbm.readVa (s.part p) va len), s) := by
  simp only [State.readHbm, Hbm.codewords, h, List.filter_nil, List.map_nil, State.countWords, State.clearWords, List.isEmpty_nil, if_true]

/-- The bytes of a transfer's source: the partition's HBM or the store of the core. -/
theorem State.sourceOf_sound {s : State} (h : s.Sound) (c : CoreId) (p : PartId) (hbm : Bool) (addr len : Nat) :
    s.sourceOf c p hbm addr len =
      .bytes (if hbm then s.hbm.readVa (s.part p) addr len else (s.core c).mem.csN (addr % 2 ^ 20 * 32) len) s := by
  unfold State.sourceOf
  simp only [State.readHbm_clean h.2, State.checkSpans_clean _ (h.1 c)]
  split <;> rfl

theorem State.sendSource_sound {s : State} (h : s.Sound) (c : CoreId) (p : PartId) (l : SendLine) :
    s.sendSource c p l = .bytes (s.sendBytes c p l) s := s.sourceOf_sound h ..

theorem State.sendBytes_enter (s : State) (c : CoreId) (p : PartId) (l : SendLine) (x : Line) :
    (s.enter c x).sendBytes c p l = s.sendBytes c p l := by
  unfold State.sendBytes
  rw [State.enter_mem]
  rfl

/-! ### Stores in a queue's area -/

/-- Nothing but memory differs between `s` and `w`. -/
structure Stores (s w : State) : Prop where
  eq : w = { s with cores := w.cores, hbm := w.hbm }
  core : ∀ d, w.core d = { s.core d with mem := (w.core d).mem }

theorem Stores.refl (s : State) : Stores s s := ⟨rfl, fun _ => rfl⟩

theorem Stores.trans {s t u : State} (h : Stores s t) (k : Stores t u) : Stores s u where
  eq := by rw [k.eq, h.eq]
  core d := by rw [k.core, h.core]

theorem State.withMem_stores (s : State) (c : CoreId) (m : CoreMem) : Stores s (s.withMem c m) where
  eq := rfl
  core d := by
    by_cases hd : d = c
    · subst hd; rw [State.withMem, State.modMem, State.core_modCore_same]
    · rw [State.withMem, State.modMem, State.core_modCore_other _ _ _ _ hd]

theorem State.writeQueueCores_stores (a : Nat) (bs : List Byte) (cs : List CoreId) :
    ∀ s : State, (∀ d, (s.core d).mem.Clean) → Stores s (s.writeQueueCores a bs cs).2 := by
  induction cs with
  | nil => exact fun s _ => Stores.refl s
  | cons c cs ih =>
    intro s h
    rw [State.writeQueueCores, State.writeCore_clean (h c)]
    exact (s.withMem_stores c _).trans (ih _ (State.clean_withMem h (CoreMem.putRun_clean (h c) _ _ _)))

/-- A store in a queue's area in sound memory changes nothing but memory. -/
theorem State.writeQueue_stores {s : State} (h : s.Sound) (q : Queue) (off : Nat) (bs : List Byte) :
    Stores s (s.writeQueue q off bs).2 := by
  unfold State.writeQueue
  split
  · exact State.writeQueueCores_stores _ _ _ s h.1
  · rw [State.writeHbm_clean h.2]
    exact ⟨rfl, fun _ => rfl⟩

theorem State.writeQueueCores_enter (a : Nat) (bs : List Byte) (c : CoreId) (x : Line) (cs : List CoreId) :
    ∀ s : State, (∀ d, (s.core d).mem.Clean) → (s.enter c x).writeQueueCores a bs cs =
      ((s.writeQueueCores a bs cs).1, (s.writeQueueCores a bs cs).2.enter c x) := by
  induction cs with
  | nil => exact fun s _ => rfl
  | cons d cs ih =>
    intro s h
    have hd : ((s.enter c x).core d).mem.Clean := by rw [State.enter_memOf]; exact h d
    simp only [State.writeQueueCores, State.writeCore_clean (h d), State.writeCore_clean hd, State.enter_memOf, State.withMem_enter,
      ih _ (State.clean_withMem h (CoreMem.putRun_clean (h d) _ _ _))]

/-- A store in a queue's area in sound memory comes to the same before and after the escapement has taken a line. -/
theorem State.writeQueue_enter {s : State} (h : s.Sound) (c : CoreId) (x : Line) (q : Queue) (off : Nat) (bs : List Byte) :
    (s.enter c x).writeQueue q off bs = ((s.writeQueue q off bs).1, (s.writeQueue q off bs).2.enter c x) := by
  unfold State.writeQueue
  split
  · exact State.writeQueueCores_enter _ _ _ _ _ s h.1
  · rw [State.writeHbm_clean h.2, State.writeHbm_clean (s := s.enter c x) h.2]
    rfl

/-! ### SEND within the module -/

/-- A slotted queue whose next slot holds a whole message of `n` bytes from module `src`. -/
def Queue.filled (q : Queue) (src : BitVec 14) (n : Nat) (ts : BitVec 64) : Queue := { q with
  ppos := q.ppos + 1, grants := q.grants + 1
  items := q.items ++ [({ Item.fresh q.ppos with
    closed := true, full := true, bytes := n, src := some src, ts := ts, cancelled := decide (q.ppos < q.dpos) })] }

/-- A message of this module fills the next slot of a queue that can promise it (05 R425). -/
theorem State.deliverLocal_slotted {s : State} {qid : Qid} {q : Queue} {bs : List Byte} (hslot : q.slotted = true)
    (hroom : q.room = true) (hgrant : q.canGrant = true) (hfree : q.slotFree q.ppos = true)
    (hw : (s.writeQueue q (q.slotOff q.ppos) bs).1 = true) : s.deliverLocal qid q bs =
      some ((s.writeQueue q (q.slotOff q.ppos) bs).2.setQueue qid (q.filled s.moduleId bs.length s.aon.time)) := by
  unfold State.deliverLocal
  simp only [hslot, hroom, hgrant, hfree, hw, Bool.and_true, if_true]
  rfl

section
variable {s : State} {c : CoreId} {p : PartId} {l : SendLine} {q : Queue}

/-- A SEND to a job queue of its partition posts its record (10 R228). -/
theorem State.sendLocal_jq (h : s.Sound) (hmb : isMbQueue l.dq = false) (hq : s.queue l.dq = some q) (hpart : q.part = p)
    (hcache : l.dq ∈ s.eng.qcache) (hjq : q.isJq = true) (hcount : l.count = 16) (hroom : q.room = true)
    (hw : (s.writeQueue q (q.recOff q.ppos) (s.sendBytes c p l)).1 = true) :
    s.sendLocal c p l = .done .ok ((s.writeQueue q (q.recOff q.ppos) (s.sendBytes c p l)).2.setQueue l.dq (Queue.tidy { q with
      ppos := q.ppos + 1, cpos := q.cpos + 1, lastTs := s.aon.time
      items := q.items ++ [({ Item.fresh q.ppos with
        closed := true, full := true, passed := true, bytes := 16, ts := s.aon.time, cancelled := decide (q.ppos < q.dpos) })] })) := by
  have hcached : s.cached l.dq = true := by simp [State.cached, hcache]
  have hbytes : q.recBytes = 16 := by
    have hcls : q.cls = 1 := by simpa [Queue.isJq] using hjq
    rw [Queue.recBytes, Queue.isCq, hcls]
    rfl
  have hpost := State.postRecord_eq (f := fun _ _ => s.sendBytes c p l) hq hroom rfl hw
  rw [hbytes] at hpost
  unfold State.sendLocal
  simp only [hmb, hq, hpart, hcached, hjq, hcount, hroom, State.sendSource_sound h, hpost, Bool.not_true, Bool.false_eq_true, if_false,
    if_true, ne_eq, not_true_eq_false]

/-- A SEND to a slotted receive queue of its partition fills the next slot (05 R425). -/
theorem State.sendLocal_rxp (h : s.Sound) (hmb : isMbQueue l.dq = false) (hq : s.queue l.dq = some q) (hpart : q.part = p)
    (hcache : l.dq ∈ s.eng.qcache) (hrxp : q.isRxp = true) (hslot : q.slotted = true) (hcount : l.count ≤ q.slotb)
    (hroom : q.room = true) (hgrant : q.canGrant = true) (hfree : q.slotFree q.ppos = true)
    (hw : (s.writeQueue q (q.slotOff q.ppos) (s.sendBytes c p l)).1 = true) :
    s.sendLocal c p l = .done .ok ((s.writeQueue q (q.slotOff q.ppos) (s.sendBytes c p l)).2.setQueue l.dq
      (q.filled s.moduleId (s.sendBytes c p l).length s.aon.time)) := by
  have hcached : s.cached l.dq = true := by simp [State.cached, hcache]
  have hjq : q.isJq = false := by
    have hcls : q.cls = 4 := by simpa [Queue.isRxp] using hrxp
    rw [Queue.isJq, hcls]
    rfl
  have hdeliver := State.deliverLocal_slotted (qid := l.dq) hslot hroom hgrant hfree hw
  unfold State.sendLocal
  simp only [hmb, hq, hpart, hcached, hjq, hrxp, hslot, hcount.not_gt, hroom, hgrant, hfree, State.sendSource_sound h, hdeliver, Bool.not_true,
    Bool.and_true, decide_false, Bool.and_false, Bool.false_eq_true, if_false, if_true, ne_eq, not_true_eq_false]

/-- A SEND to the mailbox queue of its own partition delivers a request (14 R326). -/
theorem State.sendLocal_mailbox (h : s.Sound) (hdq : l.dq.toNat = 0xFFFF1 + p.val) :
    s.sendLocal c p l = .done .ok (s.deliverRequest (Fin.ofNat 16 (p.val + 1)) (.stream c) (s.sendBytes c p l)) := by
  have hmb : isMbQueue l.dq = true := by
    rw [isMbQueue, hdq]
    exact decide_eq_true (by omega)
  unfold State.sendLocal
  simp only [hmb, hdq, if_true, State.sendSource_sound h]

theorem State.creditFor_ready {m : BitVec 14} {dq : Qid} {count i : Nat} (h : s.HasCredit p m dq count i) :
    s.creditFor p m dq count = .ready i s := by
  obtain ⟨hlost, hfind, d, hsess, hopened, hslot, hcredit, hlen⟩ := h
  have hneed : s.needSess p m = (some i, s) := by rw [State.needSess, hfind]
  have hfits : ¬ (d.slotbs.get 0 dq.toNat ≠ 0 ∧ d.slotbs.get 0 dq.toNat < count) := fun h => hlen.elim h.1 h.2.not_ge
  unfold State.creditFor
  simp only [hlost, hneed, hsess, hopened, hslot, hcredit, hfits, Bool.not_true, Bool.false_eq_true, if_false]

/-- A SEND to another module over an open session that holds a credit. -/
theorem State.sendRemote_credited {x : InFlight} {i : Nat} (h : s.Sound) (hcredit : s.HasCredit p l.dmod l.dq l.count i) :
    s.sendRemote c p x l = .started ((s.sendCredited i l.dq 0 l.cgrp l.fmt (s.sendBytes c p l)).2.addXfer
      ⟨c, x.token, p, none, [l.dmod], [(i, (s.sendCredited i l.dq 0 l.cgrp l.fmt (s.sendBytes c p l)).1)], [], false, none, []⟩) := by
  unfold State.sendRemote
  simp only [State.creditFor_ready hcredit, State.sendSource_sound h]

end

/-! ### The SENDs of O23 -/

section
variable {s : State} {c : CoreId} {p : PartId} {x : Line} {r : Report} {w : State} {qid : Qid} {d : Queue} {m : CoreMem}

/-- A transfer that its unit finishes with ST_OK, having stored bytes and changed one queue on which no sender waits. -/
theorem State.Idle.storesInQueue (h : s.Idle c p) (hgood : s.checkLine c p x = none) (hhold : holdsDecode x = false)
    (hunit : unitsOf x ≠ []) (hpost : s.PostsNone c p x) (hw : Stores s w) (hd : d.waiters = [])
    (hrun : (s.enter c x).runLine c p ((s.core c).ctl.capture x) = .done r (((w.setQueue qid d).enter c x).withMem c m))
    (hok : r.status = stOk) : ((w.setQueue qid d).charge p x).Ran (s.decodeLine c x).settle c p x r m := by
  have hrests : w.Rests := (State.rests_of_still h.1).congr (by rw [hw.eq]) (by rw [hw.eq]) (by rw [hw.eq]) (by rw [hw.eq])
  have hcore : ∀ d', (w.setQueue qid d).core d' = w.core d' := fun _ => rfl
  refine h.runsTo hgood hhold hunit hpost (fun d' => ?_) ?_ ?_ (hrests.setQueue hd) ?_ hrun hok
  · rw [hcore, hw.core]
  · rw [hcore, hw.core]; exact h.2.1
  · change w.aon = s.aon
    rw [hw.eq]
  · change w.eng.rounds = s.eng.rounds
    rw [hw.eq]

end

theorem send_local {s : State} {c : CoreId} {p : PartId} {l : SendLine} (h : s.Idle c p)
    (hgood : s.checkSend c p l = none) (hcoll : l.coll = 0) (hgrp : (s.cgroupOf p l.cgrp).any (·.lost) = false)
    (hown : l.dmod = s.moduleId) {w : State} {d : Queue} (hw : Stores s w) (hd : d.waiters = [])
    (hlocal : (s.enter c (.send l)).sendLocal c p l = .done .ok ((w.setQueue l.dq d).enter c (.send l))) :
    ((w.setQueue l.dq d).charge p (.send l)).Ran (s.decodeLine c (.send l)).settle c p (.send l) Report.ok
      ((w.setQueue l.dq d).core c).mem := by
  refine h.storesInQueue (qid := l.dq) (d := d) hgood rfl (List.cons_ne_nil _ _) (fun _ => Line.noConfusion) hw hd ?_ rfl
  have hown' : l.dmod = (s.enter c (.send l)).moduleId := hown
  have hgrp' : ((s.enter c (.send l)).cgroupOf p l.cgrp).any (·.lost) = false := hgrp
  change (s.enter c (.send l)).runSend c p _ l = _
  rw [State.enter_withMem, State.runSend, if_pos hcoll, hgrp', if_neg Bool.false_ne_true, if_pos hown', hlocal]

section
variable {s : State} {c : CoreId} {p : PartId} {l : SendLine} {q : Queue}

theorem State.Lone.waiters (h : s.Lone c p) {qid : Qid} (hq : s.queue qid = some q) : q.waiters = [] :=
  (State.rests_of_still h.1.1).waiters _ _ hq

/-- A job queue of the partition takes the record of a SEND. -/
theorem send_posts (h : s.Lone c p) (hs : s.Sound) (hgood : s.checkSend c p l = none) (hcoll : l.coll = 0)
    (hgrp : (s.cgroupOf p l.cgrp).any (·.lost) = false) (hown : l.dmod = s.moduleId) (hmb : isMbQueue l.dq = false)
    (hq : s.queue l.dq = some q) (hpart : q.part = p) (hcache : l.dq ∈ s.eng.qcache) (hjq : q.isJq = true) (hcount : l.count = 16)
    (hroom : q.room = true) (hland : (s.writeQueue q (q.recOff q.ppos) (s.sendBytes c p l)).1 = true) :
    let b := (s.writeQueue q (q.recOff q.ppos) (s.sendBytes c p l)).2.setQueue l.dq (Queue.tidy { q with
      ppos := q.ppos + 1, cpos := q.cpos + 1, lastTs := s.aon.time
      items := q.items ++ [({ Item.fresh q.ppos with
        closed := true, full := true, passed := true, bytes := 16, ts := s.aon.time, cancelled := decide (q.ppos < q.dpos) })] })
    (b.charge p (.send l)).Ran (s.decodeLine c (.send l)).settle c p (.send l) Report.ok (b.core c).mem := by
  have hwait : q.waiters = [] := h.waiters hq
  refine send_local h.1 hgood hcoll hgrp hown (State.writeQueue_stores hs ..) hwait ?_
  have hrun := State.sendLocal_jq (s := s.enter c (.send l)) (hs.enter c _) hmb hq hpart hcache hjq hcount hroom
    (by rw [State.sendBytes_enter, State.writeQueue_enter hs]; exact hland)
  rw [hrun, State.sendBytes_enter, State.writeQueue_enter hs]
  rfl

/-- A slotted receive queue of the partition takes the bytes of a SEND. -/
theorem send_fills (h : s.Lone c p) (hs : s.Sound) (hgood : s.checkSend c p l = none) (hcoll : l.coll = 0)
    (hgrp : (s.cgroupOf p l.cgrp).any (·.lost) = false) (hown : l.dmod = s.moduleId) (hmb : isMbQueue l.dq = false)
    (hq : s.queue l.dq = some q) (hpart : q.part = p) (hcache : l.dq ∈ s.eng.qcache) (hrxp : q.isRxp = true) (hslot : q.slotted = true)
    (hcount : l.count ≤ q.slotb) (hroom : q.room = true) (hgrant : q.canGrant = true) (hfree : q.slotFree q.ppos = true)
    (hland : (s.writeQueue q (q.slotOff q.ppos) (s.sendBytes c p l)).1 = true) :
    let b := (s.writeQueue q (q.slotOff q.ppos) (s.sendBytes c p l)).2.setQueue l.dq
      (q.filled s.moduleId (s.sendBytes c p l).length s.aon.time)
    (b.charge p (.send l)).Ran (s.decodeLine c (.send l)).settle c p (.send l) Report.ok (b.core c).mem := by
  have hwait : q.waiters = [] := h.waiters hq
  refine send_local h.1 hgood hcoll hgrp hown (State.writeQueue_stores hs ..) hwait ?_
  have hrun := State.sendLocal_rxp (s := s.enter c (.send l)) (hs.enter c _) hmb hq hpart hcache hrxp hslot hcount hroom hgrant hfree
    (by rw [State.sendBytes_enter, State.writeQueue_enter hs]; exact hland)
  rw [hrun, State.sendBytes_enter, State.writeQueue_enter hs]
  rfl

/-- A SEND that its unit finishes in a lone core. -/
theorem State.Lone.send_done (h : s.Lone c p) (hgood : s.checkSend c p l = none) {r : Report} {t : State}
    (hrun : (s.enter c (.send l)).runSend c p ((s.core c).ctl.capture (.send l)) l = .done r t) :
    (s.decodeLine c (.send l)).settle = ((t.complete c (s.core c).ctl.tokens r).charge p (.send l)).carryOn := by
  have hline : (s.enter c (.send l)).runLine c p ((s.core c).ctl.capture (.send l)) = .done r t := hrun
  rw [h.goesOn (x := .send l) hgood rfl (List.cons_ne_nil _ _) (fun _ => Line.noConfusion), hline]
  rfl

/-- A SEND that starts in a lone core and waits for its acknowledgements. -/
theorem State.Lone.send_started (h : s.Lone c p) (hgood : s.checkSend c p l = none) {t : State}
    (hrun : (s.enter c (.send l)).runSend c p ((s.core c).ctl.capture (.send l)) l = .started t) :
    (s.decodeLine c (.send l)).settle = ((t.startSlot c (s.core c).ctl.tokens).charge p (.send l)).carryOn := by
  have hline : (s.enter c (.send l)).runLine c p ((s.core c).ctl.capture (.send l)) = .started t := hrun
  rw [h.goesOn (x := .send l) hgood rfl (List.cons_ne_nil _ _) (fun _ => Line.noConfusion), hline]
  rfl

theorem send_to_mailbox (h : s.Lone c p) (hs : s.Sound) (hgood : s.checkSend c p l = none) (hcoll : l.coll = 0)
    (hgrp : (s.cgroupOf p l.cgrp).any (·.lost) = false) (hown : l.dmod = s.moduleId) (hdq : l.dq.toNat = 0xFFFF1 + p.val) :
    (s.decodeLine c (.send l)).settle = (((((s.enter c (.send l)).deliverRequest (Fin.ofNat 16 (p.val + 1)) (.stream c)
      (s.sendBytes c p l)).complete c (s.core c).ctl.tokens Report.ok).charge p (.send l))).carryOn := by
  refine h.send_done hgood ?_
  have hown' : l.dmod = (s.enter c (.send l)).moduleId := hown
  have hgrp' : ((s.enter c (.send l)).cgroupOf p l.cgrp).any (·.lost) = false := hgrp
  rw [State.runSend, if_pos hcoll, hgrp', if_neg Bool.false_ne_true, if_pos hown', State.sendLocal_mailbox (hs.enter c _) hdq,
    State.sendBytes_enter]

theorem send_to_module (h : s.Lone c p) (hs : s.Sound) (hgood : s.checkSend c p l = none) (hcoll : l.coll = 0)
    (hgrp : (s.cgroupOf p l.cgrp).any (·.lost) = false) (hother : l.dmod ≠ s.moduleId) {i : Nat}
    (hcredit : s.HasCredit p l.dmod l.dq l.count i) :
    let w := (s.enter c (.send l)).sendCredited i l.dq 0 l.cgrp l.fmt (s.sendBytes c p l)
    (s.decodeLine c (.send l)).settle = (((w.2.addXfer ⟨c, (s.core c).ctl.tokens, p, none, [l.dmod], [(i, w.1)], [], false, none, []⟩).startSlot
      c (s.core c).ctl.tokens).charge p (.send l)).carryOn := by
  refine h.send_started hgood ?_
  have hother' : l.dmod ≠ (s.enter c (.send l)).moduleId := hother
  have hgrp' : ((s.enter c (.send l)).cgroupOf p l.cgrp).any (·.lost) = false := hgrp
  have hcredit' : (s.enter c (.send l)).HasCredit p l.dmod l.dq l.count i := hcredit
  rw [State.runSend, if_pos hcoll, hgrp', if_neg Bool.false_ne_true, if_neg hother', State.sendRemote_credited (hs.enter c _) hcredit',
    State.sendBytes_enter]
  rfl

end

/-! ### RECV -/

theorem Hbm.length_readVa (h : Hbm) (q : Partition) (va n : Nat) : (h.readVa q va n).length = n := by
  induction n generalizing va with
  | zero => rfl
  | succ n ih => rw [Hbm.readVa, List.length_cons, ih]

theorem State.length_readQueue (s : State) (q : Queue) (c : Option CoreId) (off n : Nat) : (s.readQueue q c off n).length = n := by
  unfold State.readQueue
  split
  · exact Mem.length_readN _ _ _
  · exact Hbm.length_readVa _ _ _ _

theorem State.readQueue_enter (s : State) (c : CoreId) (x : Line) (q : Queue) (d : Option CoreId) (off n : Nat) :
    (s.enter c x).readQueue q d off n = s.readQueue q d off n := by
  unfold State.readQueue
  rw [State.enter_memOf]
  rfl

theorem State.takeQueue_sound {s : State} (h : s.Sound) (q : Queue) (c : Option CoreId) (off n : Nat) :
    s.takeQueue q c off n = (some (s.readQueue q c off n), s) := by
  unfold State.takeQueue State.readQueue
  simp only [State.checkSpans_clean _ (h.1 _), State.readHbm_clean h.2]
  split <;> rfl

section
variable {s : State} {c : CoreId} {p : PartId} {l : RecvLine} {q : Queue}

/-- The formats of a RECV that passes its checks are arrays' (Table 5.16). -/
theorem State.checkRecv_format (h : s.checkRecv c p l = none) : ∃ f, Fmt.ofCode l.rfmt = some f := by
  obtain ⟨hfirst, -⟩ := orElseReport_eq_none_iff.mp h
  have hfmt := firstBad_eq_none_iff.mp hfirst _ List.mem_cons_self
  cases hf : Fmt.ofCode l.rfmt with
  | none => rw [hf] at hfmt; exact absurd hfmt (by simp)
  | some f => exact ⟨f, rfl⟩

/-- The report of a RECV that stores its message as it came, all of it within its byte count. -/
theorem recvReport_same {f : Fmt} (hf : Fmt.ofCode l.rfmt = some f) (hsame : l.rfmt = l.dfmt) {n : Nat} (hn : n ≤ l.count)
    (data : Mem) (exact : Bool) : recvReport l data n exact = ⟨stOk, 0, 0, n % 2 ^ 32, n / 2 ^ 32⟩ := by
  have hd : Fmt.ofCode l.dfmt = some f := hsame ▸ hf
  have hflags : recvFlags l data n = 0 := by
    unfold recvFlags
    rw [hf, hd]
    cases f <;> rfl
  have hround : n ≤ roundUp l.count 32 := hn.trans (by unfold roundUp; omega)
  have hexcess : ¬ (if exact then l.count else roundUp l.count 32) < n := by split <;> omega
  unfold recvReport
  simp only [hf, hd, arrivingBytes, storedBytes, beq_self_eq_true, if_true, hflags, hexcess, decide_false, Bool.false_eq_true, if_false,
    Nat.min_eq_right hn]

/-- The oldest item of a slotted queue goes to the store as it came. -/
theorem State.recvSlotted_done (hs : s.Sound) {i : Item} {f : Fmt} (hf : Fmt.ofCode l.rfmt = some f) (hsame : l.rfmt = l.dfmt)
    (hitem : q.pendingItem = some i) (hsrc : l.sany = true ∨ i.src = some l.smod) (hn : i.bytes ≤ l.count) (hdmem : l.dmem = false)
    (hmap : q.memCs = false → (s.part p).checkRange (q.base.toNat + q.slotOff i.n) i.bytes .r = none) :
    s.recvSlotted c p l q = .done ⟨stOk, 0, 0, i.bytes % 2 ^ 32, i.bytes / 2 ^ 32⟩
      ((s.setQueue l.sq (Queue.tidy { q with dpos := i.n + 1 })).withMem c ((s.core c).mem.putRuns
        [(false, l.daddr.toNat % 2 ^ 20 * 32, s.readQueue q (some c) (q.slotOff i.n) i.bytes)])) := by
  have hdel : q.waitItem = some ⟨({ q with dpos := i.n + 1 }).tidy, some i.n, i.ts⟩ := by rw [Queue.waitItem, hitem]
  have hfrom : (!l.sany && i.src != some l.smod) = false := by
    obtain h | h := hsrc <;> simp [h]
  have hrange : (if q.memCs = true then none else (s.part p).checkRange (q.base.toNat + q.slotOff i.n) i.bytes .r) = none := by
    split
    · rfl
    next h => exact hmap (by simpa using h)
  have hd : Fmt.ofCode l.dfmt = some f := hsame ▸ hf
  have hlen := s.length_readQueue q (some c) (q.slotOff i.n) i.bytes
  have hstore : ∀ (data : Mem) (rs : List (Nat × Nat)) (n : Option Nat),
      (s.setQueue l.sq (Queue.tidy { q with dpos := i.n + 1 })).recvPiece c p l data rs n 0 (s.readQueue q (some c) (q.slotOff i.n) i.bytes) =
        (true, (s.setQueue l.sq (Queue.tidy { q with dpos := i.n + 1 })).withMem c ((s.core c).mem.putRuns
          [(false, l.daddr.toNat % 2 ^ 20 * 32, s.readQueue q (some c) (q.slotOff i.n) i.bytes)])) := by
    intro data rs n
    unfold State.recvPiece State.storeRecv
    simp only [hf, hd, beq_self_eq_true, if_true, hdmem, Bool.false_eq_true, if_false, Nat.sub_zero, Nat.add_zero]
    rw [List.take_of_length_le (by rw [hlen]; exact hn), State.writeCore_clean (s := s.setQueue l.sq _) (hs.1 c)]
    rfl
  unfold State.recvSlotted
  simp only [hitem, hdel, hfrom, hrange, State.takeQueue_sound hs, hstore, recvReport_same hf hsame hn, Bool.false_eq_true, if_false, if_true]

/-- A RECV of no collective, of no lost peer, comes to its receive queue (05 R106). -/
theorem State.runRecv_queue {x : InFlight} (hcoll : l.coll = 0) (hgrp : (s.cgroupOf p l.cgrp).any (·.lost) = false)
    (hpeer : l.sany = true ∨ s.eng.lostMods.contains l.smod = false) (hq : s.queue l.sq = some q) (hrxp : q.isRxp = true)
    (hpart : q.part = p) (hmb : isMbQueue l.sq = false) (hcache : l.sq ∈ s.eng.qcache) :
    s.runRecv c p x l = if q.slotted then s.recvSlotted c p l q
      else match q.items.find? fun i => i.recv == some (c, x.token) with
        | some i => s.startPosted c p l i
        | none => if q.room then .started (s.postRecv c p x.token l) else .blocked s := by
  have hlost : ((s.cgroupOf p l.cgrp).any (·.lost) || (l.coll == 0 && !l.sany && s.eng.lostMods.contains l.smod)) = false := by
    rw [hgrp, Bool.false_or]
    obtain h | h := hpeer
    · rw [h, Bool.not_true, Bool.and_false, Bool.false_and]
    · rw [h, Bool.and_false]
  have hcached : s.cached l.sq = true := by simp [State.cached, hcache]
  have hcoll2 : l.coll ≠ 2 := by rw [hcoll]; decide
  unfold State.runRecv
  simp only [hlost, hcoll2, hq, hrxp, hpart, hmb, hcached, bne_self_eq_false, Bool.not_true, Bool.or_false, Bool.false_eq_true, if_false] <;> rfl

/-- A RECV on a slotted queue takes the oldest item. -/
theorem recv_takes (h : s.Lone c p) (hs : s.Sound) (hgood : s.checkRecv c p l = none) (hcoll : l.coll = 0)
    (hgrp : (s.cgroupOf p l.cgrp).any (·.lost) = false) (hpeer : l.sany = true ∨ s.eng.lostMods.contains l.smod = false)
    (hq : s.queue l.sq = some q) (hrxp : q.isRxp = true) (hpart : q.part = p) (hmb : isMbQueue l.sq = false)
    (hcache : l.sq ∈ s.eng.qcache) {i : Item} (hposted : q.posted = false) (hitem : q.pendingItem = some i)
    (hsrc : l.sany = true ∨ i.src = some l.smod) (hsame : l.rfmt = l.dfmt) (hn : i.bytes ≤ l.count) (hdmem : l.dmem = false)
    (hmap : q.memCs = false → (s.part p).checkRange (q.base.toNat + q.slotOff i.n) i.bytes .r = none) :
    ((s.setQueue l.sq (Queue.tidy { q with dpos := i.n + 1 })).charge p (.recv l)).Ran (s.decodeLine c (.recv l)).settle c p (.recv l)
      ⟨stOk, 0, 0, i.bytes % 2 ^ 32, i.bytes / 2 ^ 32⟩
      ((s.core c).mem.putRuns [(false, l.daddr.toNat % 2 ^ 20 * 32, s.readQueue q (some c) (q.slotOff i.n) i.bytes)]) := by
  obtain ⟨f, hf⟩ := State.checkRecv_format hgood
  have hslot : q.slotted = true := by rw [Queue.slotted, hrxp, hposted]; simp
  have hwait : q.waiters = [] := h.waiters hq
  have hpost : s.PostsNone c p (.recv l) := by
    rintro r ⟨⟩
    have hq' : (s.enter c (.recv l)).queue l.sq = some q := hq
    unfold State.postRecv
    simp only [hq', hposted, Bool.and_false, Bool.false_and, Bool.false_eq_true, if_false]
  refine h.1.storesInQueue (qid := l.sq) hgood rfl (List.cons_ne_nil _ _) hpost (Stores.refl s) hwait ?_ rfl
  have hdone := State.recvSlotted_done (s := s.enter c (.recv l)) (c := c) (p := p) (hs.enter c _) hf hsame hitem hsrc hn hdmem hmap
  change (s.enter c (.recv l)).runRecv c p _ l = _
  rw [State.runRecv_queue (s := s.enter c (.recv l)) hcoll hgrp hpeer hq hrxp hpart hmb hcache, if_pos hslot, hdone,
    State.readQueue_enter, State.enter_mem]
  rfl

/-- The item that a RECV posts. -/
def Queue.postedItem (q : Queue) (c : CoreId) (tok : Nat) (ts : BitVec 64) : Item :=
  { Item.fresh q.ppos with recv := some (c, tok), ts := ts, cancelled := decide (q.ppos < q.dpos) }

/-- A posted queue with one RECV more. -/
def Queue.posting (q : Queue) (c : CoreId) (tok : Nat) (ts : BitVec 64) : Queue :=
  { q with ppos := q.ppos + 1, items := q.items ++ [q.postedItem c tok ts] }

/-- A posted RECV that has its item starts, nothing of its message being there yet. -/
theorem State.runRecv_posted {x : InFlight} {ts : BitVec 64} (hcoll : l.coll = 0) (hgrp : (s.cgroupOf p l.cgrp).any (·.lost) = false)
    (hpeer : l.sany = true ∨ s.eng.lostMods.contains l.smod = false) (hq : s.queue l.sq = some (q.posting c x.token ts))
    (hrxp : q.isRxp = true) (hpart : q.part = p) (hmb : isMbQueue l.sq = false) (hcache : l.sq ∈ s.eng.qcache)
    (hposted : q.posted = true) (hnew : ∀ i ∈ q.items, i.recv ≠ some (c, x.token)) : s.runRecv c p x l = .started s := by
  have hcls : q.cls = 4 := by simpa [Queue.isRxp] using hrxp
  have hslot : (q.posting c x.token ts).slotted = false := by
    simp [Queue.posting, Queue.slotted, Queue.isPf, Queue.isRxf, Queue.isRxp, hcls, hposted]
  have hold : q.items.find? (fun i => i.recv == some (c, x.token)) = none :=
    List.find?_eq_none.mpr fun i hi => by rw [beq_iff_eq]; exact hnew i hi
  have hfind : (q.posting c x.token ts).items.find? (fun i => i.recv == some (c, x.token)) = some (q.postedItem c x.token ts) := by
    rw [Queue.posting, List.find?_append, hold, List.find?_singleton]
    exact if_pos (beq_self_eq_true (some (c, x.token)))
  rw [State.runRecv_queue hcoll hgrp hpeer hq hrxp hpart hmb hcache, hslot, if_neg Bool.false_ne_true, hfind]
  rfl

/-- A RECV is posted as it is decoded (05 R106). -/
theorem State.Idle.decodeLine_recv (h : s.Idle c p) (hgood : s.checkRecv c p l = none) :
    s.decodeLine c (.recv l) = (s.enter c (.recv l)).postRecv c p (s.core c).ctl.tokens l := by
  have hline : s.checkLine c p (.recv l) = none := hgood
  have hhold : holdsDecode (.recv l) = false := rfl
  have hunit : (unitsOf (.recv l)).isEmpty = false := rfl
  rw [← State.enter_eq]
  simp only [State.decodeLine, h.2.1, h.decodeFree, h.2.2.2.2.2.1, hline, hhold, hunit, Bool.not_false, Bool.and_self, if_true,
    Bool.false_eq_true, if_false]
  rfl

/-- A queue on which no sender waits changes in a core that is idle. -/
theorem State.Idle.setQueue (h : s.Idle c p) (qid : Qid) {d : Queue} (hd : d.waiters = []) : (s.setQueue qid d).Idle c p := by
  obtain ⟨hstill, hrest⟩ := h
  exact ⟨State.still_iff.mpr ⟨fun e => (State.coreStill_congr (s := s) rfl rfl).trans (State.coreStill_of_still hstill e),
    (State.rests_of_still hstill).setQueue hd⟩, hrest⟩

theorem State.Idle.core_started (h : s.Idle c p) (x : Line) : ((s.enter c x).startSlot c (s.core c).ctl.tokens).core c =
    { (s.enter c x).core c with
      ctl := { ((s.enter c x).core c).ctl with slots := [{ (s.core c).ctl.capture x with stage := .started }] } } := by
  obtain ⟨-, -, -, -, hslots, -, -⟩ := h
  have htok : ((s.core c).ctl.capture x).token = (s.core c).ctl.tokens := rfl
  rw [State.startSlot, State.modSlot, State.core_modCtl, State.enter_core, hslots]
  simp only [List.nil_append, List.map_cons, List.map_nil, htok, if_true]

/-- A RECV that has started leaves an idle core still: it waits for its message. -/
theorem State.Idle.still_started (h : s.Idle c p) :
    (((s.enter c (.recv l)).startSlot c (s.core c).ctl.tokens).charge p (.recv l)).still = true := by
  have hstill := h.1
  have hcore := h.core_started (.recv l)
  have hrests : ((s.enter c (.recv l)).startSlot c (s.core c).ctl.tokens).Rests :=
    (State.rests_of_still hstill).congr rfl rfl rfl rfl
  refine State.still_iff.mpr ⟨fun d => ?_, hrests.charge p _⟩
  refine (State.coreStill_congr (s := (s.enter c (.recv l)).startSlot c (s.core c).ctl.tokens) (by rw [State.core_charge])
    (State.charge_rounds ..)).trans ?_
  by_cases hd : d = c
  · subst hd
    have hhold := (Core.still_iff.mp (State.core_still hstill d)).1
    refine State.coreStill_iff.mpr ⟨Core.still_iff.mpr ⟨?_, ?_⟩, ?_⟩
    · rw [hcore, State.enter_core]; exact hhold
    · rw [hcore]
      intro y hy
      rw [List.mem_singleton.mp hy]
      nofun
    · rw [hcore]
      intro y hy
      rw [List.mem_singleton.mp hy]
      rfl
  · refine (State.coreStill_congr (s := s) (t := (s.enter c (.recv l)).startSlot c (s.core c).ctl.tokens) ?_ rfl).trans
      (State.coreStill_of_still hstill d)
    rw [State.startSlot, State.modSlot, State.modCtl, State.core_modCore_other _ _ _ _ hd, State.enter_core_other _ _ _ _ hd]

/-- A posted RECV with room enters its queue as it is decoded, and starts. -/
theorem recv_posts (h : s.Lone c p) (hgood : s.checkRecv c p l = none) (hcoll : l.coll = 0)
    (hgrp : (s.cgroupOf p l.cgrp).any (·.lost) = false) (hpeer : l.sany = true ∨ s.eng.lostMods.contains l.smod = false)
    (hq : s.queue l.sq = some q) (hrxp : q.isRxp = true) (hpart : q.part = p) (hmb : isMbQueue l.sq = false)
    (hcache : l.sq ∈ s.eng.qcache) (hposted : q.posted = true) (hroom : q.room = true)
    (hnew : ∀ i ∈ q.items, i.recv ≠ some (c, (s.core c).ctl.tokens)) :
    (s.decodeLine c (.recv l)).settle = ((((s.enter c (.recv l)).setQueue l.sq (q.posting c (s.core c).ctl.tokens s.aon.time)).startSlot c
      (s.core c).ctl.tokens).charge p (.recv l)) := by
  have hwait : q.waiters = [] := h.waiters hq
  have hq' : (s.enter c (.recv l)).queue l.sq = some q := hq
  have hdecode : s.decodeLine c (.recv l) =
      (s.setQueue l.sq (q.posting c (s.core c).ctl.tokens s.aon.time)).enter c (.recv l) := by
    have hcoll2 : (l.coll != 2) = true := by rw [hcoll]; rfl
    rw [h.1.decodeLine_recv hgood]
    unfold State.postRecv
    simp only [hq', hrxp, hposted, hpart, hmb, hcoll2, hroom, beq_self_eq_true, Bool.not_false, Bool.and_self, if_true]
    rfl
  generalize hb : s.setQueue l.sq (q.posting c (s.core c).ctl.tokens s.aon.time) = b at hdecode
  have hidle : b.Idle c p := hb ▸ h.1.setQueue l.sq hwait
  have hctl : (b.core c).ctl = (s.core c).ctl := by rw [← hb]; rfl
  have hrun : (b.enter c (.recv l)).runLine c p ((b.core c).ctl.capture (.recv l)) = .started (b.enter c (.recv l)) := by
    have hpost : (b.enter c (.recv l)).queue l.sq = some (q.posting c (s.core c).ctl.tokens s.aon.time) := by
      rw [← hb]; exact State.queue_setQueue_same _ _ _
    refine State.runRecv_posted (x := (b.core c).ctl.capture (.recv l)) (ts := s.aon.time) hcoll ?_ ?_ ?_ hrxp hpart hmb ?_ hposted ?_
    · rw [← hb]; exact hgrp
    · rw [← hb]; exact hpeer
    · rw [hctl]; exact hpost
    · rw [← hb]; exact hcache
    · rw [hctl]; exact hnew
  have hstep := hidle.starts (x := .recv l)
  rw [hrun] at hstep
  have hothers : ∀ d, d ≠ c → (b.enter c (.recv l)).coreStill d = true := fun d hd =>
    (State.coreStill_congr (s := b) (t := b.enter c (.recv l)) (by rw [b.enter_core_other c d _ hd]) rfl).trans (State.coreStill_of_still hidle.1 d)
  rw [hdecode, State.settle_of_one hothers (State.enter_busy hidle.2.1) hstep hidle.still_started, ← hb]
  rfl

end

/-- Settles O23: SEND by the place its message goes to, RECV by the kind of its queue. -/
theorem sendAndRecvMoveTheirMessages : Obligations.SendAndRecvMoveTheirMessages := by
  refine ⟨?_, ?_⟩
  · intro s c p l bs e tok h hs hgood hcoll hgrp
    refine ⟨fun q hown hmb hq hpart hcache => ⟨fun hjq hcount hroom hland => ?_, fun hrxp hslot hcount hroom hgrant hfree hland => ?_⟩,
      fun hown hdq => ?_, fun i hother hcredit => ?_⟩
    · exact ⟨_, rfl, send_posts h hs hgood hcoll hgrp hown hmb hq hpart hcache hjq hcount hroom hland⟩
    · exact ⟨_, rfl, send_fills h hs hgood hcoll hgrp hown hmb hq hpart hcache hrxp hslot hcount hroom hgrant hfree hland⟩
    · exact congrArg Host.Outcome.next (send_to_mailbox h hs hgood hcoll hgrp hown hdq)
    · exact congrArg Host.Outcome.next (send_to_module h hs hgood hcoll hgrp hother hcredit)
  · intro s c p l q e tok h hs hgood hcoll hgrp hpeer hq hrxp hpart hmb hcache
    refine ⟨fun hposted hroom hnew => ?_, fun i hposted hitem hsrc hsame hn hdmem hmap => ?_⟩
    · exact congrArg Host.Outcome.next (recv_posts h hgood hcoll hgrp hpeer hq hrxp hpart hmb hcache hposted hroom hnew)
    · exact ⟨_, rfl, recv_takes h hs hgood hcoll hgrp hpeer hq hrxp hpart hmb hcache hposted hitem hsrc hsame hn hdmem hmap⟩

end Sys2Proof.Machine

/-! The collective SENDs (05 R106, 13 R299, R307, R308, R310). Each is one run of `State.runSend` in a lone core
(`State.Lone.send_started`); none of them reads what the escapement changed when it took the line. -/

namespace Sys2Proof.Machine

theorem length_cutSbs (bs : List Byte) (n : Nat) : (cutSbs bs n).length = n := by
  induction n generalizing bs with
  | zero => rfl
  | succ n ih => rw [cutSbs, List.length_cons, ih]

theorem natLE_lt (bs : List Byte) : natLE bs < 256 ^ bs.length := by
  induction bs with
  | nil => exact Nat.one_pos
  | cons b bs ih =>
    have hb : b.toNat < 256 := b.isLt
    rw [natLE, List.length_cons, Nat.pow_succ]
    omega

theorem fieldLE_lt (bs : List Byte) (o n : Nat) : fieldLE bs o n < 256 ^ n :=
  (natLE_lt _).trans_le (Nat.pow_le_pow_right (by decide) (List.length_take_le _ _))

section
variable {s : State} {c : CoreId} {p : PartId} {x : InFlight} {l : SendLine}

/-- The SEND of a group that has lost no member comes to what its COLL says. -/
theorem State.runSend_coll {g : CGroup} (hcoll : l.coll ≠ 0) (hg : s.cgroupOf p l.cgrp = some g) (hlost : g.lost = false) :
    s.runSend c p x l = if l.coll = 1 then (match s.exchOf p l.dq with
        | some e => s.sendRs c p x l e
        | none => .done (Report.bad stBadField 131) s)
      else if l.coll = 3 then s.sendReturn c p x l
      else if l.coll = 4 then s.sendBcast c p x l g
      else s.startPermute c p x l g := by
  unfold State.runSend
  simp only [hcoll, hg, hlost, Bool.false_eq_true, if_false] <;> rfl

/-! ### Reduce-scatter (R299) -/

/-- The packets of a contribution of a command of step `step`. -/
def rsOf (l : SendLine) (e : ExchEnt) (step : BitVec 32) (bs : List Byte) (k : Pkt) : List Pkt :=
  rsPackets { k with dq := BitVec.ofNat 20 e.shard.toNat, coll := 1, cgrp := l.cgrp, fmt := l.fmt, step := step } e.firstsb true
    (cutSbs bs e.nsb) (e.nsb + 1)

theorem State.sendRs_remote {e : ExchEnt} {k : SeedReg} {i : Nat} (hs : s.Sound) (hseed : x.seed = some k)
    (hlost : s.eng.lostMods.contains e.owner = false) (hother : e.owner ≠ s.moduleId) (hfind : s.findSess p e.owner = some i) :
    s.sendRs c p x l e =
      .started ((s.sendList i (rsOf l e k.step (s.sendBytes c p l))).2.addXfer ⟨c, x.token, p, some l.cgrp, [e.owner],
        [(i, (s.sendList i (rsOf l e k.step (s.sendBytes c p l))).1)], [], false, none, []⟩) := by
  have hneed : s.needSess p e.owner = (some i, s) := by rw [State.needSess, hfind]
  unfold State.sendRs
  simp only [hseed, hlost, State.sendSource_sound hs, hother, hneed, length_cutSbs, Bool.false_eq_true, if_false]
  rfl

theorem State.sendRs_own {e : ExchEnt} {k : SeedReg} (hs : s.Sound) (hseed : x.seed = some k)
    (hlost : s.eng.lostMods.contains e.owner = false) (hown : e.owner = s.moduleId) :
    let w := s.takeOwn p ((rsOf l e k.step (s.sendBytes c p l) (s.ownPkt p)).map fun z => (z, false))
    s.sendRs c p x l e = .started (w.2.2.addXfer ⟨c, x.token, p, some l.cgrp, [], [], [], w.2.1, none, w.1⟩) := by
  unfold State.sendRs
  simp only [hseed, hlost, State.sendSource_sound hs, if_pos hown, length_cutSbs, Bool.false_eq_true, if_false]
  rfl

/-! ### The return leg (R307) -/

theorem State.sendReturn_started {i : Item} (hs : s.Sound) (hitem : x.item = some (l.dq, i)) (hrows : i.rows ≠ 0)
    (hcount : l.count % i.rows = 0) :
    let to_ := ((i.heard ++ i.table.map (·.src)).dedup).filter fun m => !s.eng.lostMods.contains m
    let w := s.sendReturns p (returnMsg l i (l.count / i.rows) (s.sendBytes c p l)) to_
    s.sendReturn c p x l = .started (w.2.addXfer ⟨c, x.token, p, some l.cgrp, to_, w.1, [], false, none, []⟩) := by
  unfold State.sendReturn
  simp only [hitem, hrows, hcount, State.sendSource_sound hs, ne_eq, not_true_eq_false, and_false, if_false]

/-! ### Broadcast (R308) -/

theorem State.creditsFor_ready {dq : Qid} {count : Nat} {ms : List (BitVec 14)} {is : List Nat}
    (h : List.Forall₂ (fun m i => s.HasCredit p m dq count i) ms is) :
    ∀ js : List Nat, s.creditsFor p dq count ms js = (.ready 0 s, js ++ is) := by
  induction h with
  | nil => exact fun js => by rw [State.creditsFor, List.append_nil]
  | cons hi _ ih => exact fun js => by simp only [State.creditsFor, State.creditFor_ready hi, ih, List.append_assoc, List.singleton_append]

theorem State.sendBcast_started {g : CGroup} {is : List Nat} (hs : s.Sound)
    (h : List.Forall₂ (fun m i => s.HasCredit p m l.dq l.count i) (g.members.filter (· != s.moduleId)) is) :
    let w := s.sendEach l (s.sendBytes c p l) is
    s.sendBcast c p x l g = .started (w.2.addXfer
      ⟨c, x.token, p, some l.cgrp, g.members.filter (· != s.moduleId), w.1, [], false, none, []⟩) := by
  unfold State.sendBcast
  simp only [State.creditsFor_ready h, State.sendSource_sound hs, List.nil_append]

/-- A broadcast reads its queue, group and format of the line. -/
theorem State.sendEach_congr {l' : SendLine} (hdq : l'.dq = l.dq) (hcgrp : l'.cgrp = l.cgrp) (hfmt : l'.fmt = l.fmt) (bs : List Byte)
    (is : List Nat) : ∀ s : State, s.sendEach l' bs is = s.sendEach l bs is := by
  induction is with
  | nil => exact fun _ => rfl
  | cons i is ih => exact fun s => by simp only [State.sendEach, hdq, hcgrp, hfmt, ih]

/-! ### PERMUTE (R310) -/

theorem State.copyHbm_clean (h : s.hbm.ecc = []) (src dst len : Nat) : ∃ hbm, hbm.ecc = [] ∧
    s.copyHbm p src dst len = (some true, { s with hbm := hbm }) := by
  refine ⟨s.hbm.writeVa (s.part p) [] dst (s.hbm.readVa (s.part p) src len), (Hbm.writeVa_ecc ..).trans h, ?_⟩
  rw [State.copyHbm, State.readHbm_clean h]
  simp only [State.writeHbm_clean h]

/-- In HBM without errors every range of a plan comes into scratch. -/
theorem State.copyMoves_clean (scratch : Nat) (ms : List PlanMove) : ∀ (s : State) (at_ : Nat), s.hbm.ecc = [] →
    (s.copyMoves p scratch at_ ms).1 = true := by
  induction ms with
  | nil => exact fun _ _ _ => rfl
  | cons m ms ih =>
    intro s at_ h
    obtain ⟨hbm, hecc, hcopy⟩ := State.copyHbm_clean (p := p) h m.sva (scratch + at_) m.len
    rw [State.copyMoves, hcopy]
    exact ih _ _ hecc

theorem State.startPermute_started {g : CGroup} {b : List Byte} {n scratch : Nat} {ms : List PlanMove} (hs : s.Sound)
    (hb : s.hbm.readVa (s.part p) l.saddr.toNat l.count = b) (hn : fieldLE b 4 4 = n) (hscratch : fieldLE b 8 8 % 2 ^ 48 = scratch)
    (hms : planMoves (b.drop 32) n = ms) (hlen : 32 + 24 * n ≤ l.count) (hsum : (ms.map (·.len)).sum ≤ fieldLE b 0x10 8)
    (hplan : s.planBad p scratch (ms.map (·.len)).sum ms = none) :
    s.startPermute c p x l g = .started (((s.copyMoves p scratch 0 ms).2.notifyAll p 4 0 (bytesLE 4 (fieldLE b 0 4)) g.members).addXfer
      ⟨c, x.token, p, some l.cgrp, g.members.filter (· != s.moduleId), [], [], false,
        some ⟨BitVec.ofNat 32 (fieldLE b 0 4), scratchMoves 0 ms, BitVec.ofNat 48 scratch, fieldLE b 0x18 8, []⟩, []⟩) := by
  have hpid : (BitVec.ofNat 32 (fieldLE b 0 4)).toNat = fieldLE b 0 4 := by
    rw [BitVec.toNat_ofNat]
    exact Nat.mod_eq_of_lt (fieldLE_lt b 0 4)
  have hmoves := State.copyMoves_clean (p := p) scratch ms s 0 hs.2
  unfold State.startPermute
  simp only [State.readHbm_clean hs.2, hb, hn, hscratch, hms, hlen.not_gt, hsum.not_gt, hplan, hpid, if_false]
  generalize s.copyMoves p scratch 0 ms = w at hmoves ⊢
  obtain ⟨ok, t⟩ := w
  cases hmoves
  rfl

end

section
variable {s : State} {c : CoreId} {p : PartId} {l : SendLine} {g : CGroup}

/-- A collective SEND that has started, its transfer entered. -/
def State.begun (s : State) (c : CoreId) (p : PartId) (l : SendLine) (tok : Nat) (x : Xfer) : State :=
  (((s.addXfer x).startSlot c tok).charge p (.send l)).carryOn

theorem State.Lone.send_begins (h : s.Lone c p) (hgood : s.checkSend c p l = none) {t : State} {x : Xfer}
    (hrun : (s.enter c (.send l)).runSend c p ((s.core c).ctl.capture (.send l)) l = .started (t.addXfer x)) :
    (s.decodeLine c (.send l)).settle = t.begun c p l (s.core c).ctl.tokens x := h.send_started hgood hrun

theorem send_reduceScatter {e : ExchEnt} {k : SeedReg} (h : s.Lone c p) (hs : s.Sound) (hgood : s.checkSend c p l = none)
    (hcoll : l.coll = 1) (hg : s.cgroupOf p l.cgrp = some g) (hmember : g.lost = false) (he : s.exchOf p l.dq = some e)
    (hseed : (s.core c).ctl.seed = some k) (hlost : s.eng.lostMods.contains e.owner = false) :
    (∀ i, e.owner ≠ s.moduleId → s.findSess p e.owner = some i →
      let w := (s.enter c (.send l)).sendList i (rsOf l e k.step (s.sendBytes c p l))
      (s.decodeLine c (.send l)).settle = w.2.begun c p l (s.core c).ctl.tokens
        ⟨c, (s.core c).ctl.tokens, p, some l.cgrp, [e.owner], [(i, w.1)], [], false, none, []⟩) ∧
    (e.owner = s.moduleId →
      let w := (s.enter c (.send l)).takeOwn p ((rsOf l e k.step (s.sendBytes c p l) (s.ownPkt p)).map fun z => (z, false))
      (s.decodeLine c (.send l)).settle = w.2.2.begun c p l (s.core c).ctl.tokens
        ⟨c, (s.core c).ctl.tokens, p, some l.cgrp, [], [], [], w.2.1, none, w.1⟩) := by
  have hcoll0 : l.coll ≠ 0 := by rw [hcoll]; decide
  have he' : (s.enter c (.send l)).exchOf p l.dq = some e := he
  have hrs : (s.enter c (.send l)).runSend c p ((s.core c).ctl.capture (.send l)) l =
      (s.enter c (.send l)).sendRs c p ((s.core c).ctl.capture (.send l)) l e := by
    rw [State.runSend_coll (s := s.enter c (.send l)) hcoll0 hg hmember, if_pos hcoll, he']
  refine ⟨fun i hother hfind => h.send_begins hgood ?_, fun hown => h.send_begins hgood ?_⟩
  · rw [hrs, State.sendRs_remote (s := s.enter c (.send l)) (hs.enter c _) hseed hlost hother hfind, State.sendBytes_enter]
    rfl
  · rw [hrs, State.sendRs_own (s := s.enter c (.send l)) (hs.enter c _) hseed hlost hown, State.sendBytes_enter]
    rfl

theorem send_return {i : Item} (h : s.Lone c p) (hs : s.Sound) (hgood : s.checkSend c p l = none)
    (hcoll : l.coll = 3) (hg : s.cgroupOf p l.cgrp = some g) (hmember : g.lost = false)
    (hitem : (s.core c).ctl.item = some (l.dq, i)) (hrows : i.rows ≠ 0) (hcount : l.count % i.rows = 0) :
    let to_ := ((i.heard ++ i.table.map (·.src)).dedup).filter fun m => !s.eng.lostMods.contains m
    let w := (s.enter c (.send l)).sendReturns p (returnMsg l i (l.count / i.rows) (s.sendBytes c p l)) to_
    (s.decodeLine c (.send l)).settle = w.2.begun c p l (s.core c).ctl.tokens
      ⟨c, (s.core c).ctl.tokens, p, some l.cgrp, to_, w.1, [], false, none, []⟩ := by
  have hcoll0 : l.coll ≠ 0 := by rw [hcoll]; decide
  have hcoll1 : l.coll ≠ 1 := by rw [hcoll]; decide
  refine h.send_begins hgood ?_
  rw [State.runSend_coll (s := s.enter c (.send l)) hcoll0 hg hmember, if_neg hcoll1, if_pos hcoll,
    State.sendReturn_started (s := s.enter c (.send l)) (hs.enter c _) hitem hrows hcount, State.sendBytes_enter]
  rfl

theorem send_broadcast {is : List Nat} (h : s.Lone c p) (hs : s.Sound) (hgood : s.checkSend c p l = none)
    (hcoll : l.coll = 4) (hg : s.cgroupOf p l.cgrp = some g) (hmember : g.lost = false)
    (hcredit : List.Forall₂ (fun m i => s.HasCredit p m l.dq l.count i) (g.members.filter (· != s.moduleId)) is) :
    let w := (s.enter c (.send l)).sendEach l (s.sendBytes c p l) is
    (s.decodeLine c (.send l)).settle = w.2.begun c p l (s.core c).ctl.tokens
      ⟨c, (s.core c).ctl.tokens, p, some l.cgrp, g.members.filter (· != s.moduleId), w.1, [], false, none, []⟩ := by
  have hcoll0 : l.coll ≠ 0 := by rw [hcoll]; decide
  have hcoll1 : l.coll ≠ 1 := by rw [hcoll]; decide
  have hcoll3 : l.coll ≠ 3 := by rw [hcoll]; decide
  refine h.send_begins hgood ?_
  rw [State.runSend_coll (s := s.enter c (.send l)) hcoll0 hg hmember, if_neg hcoll1, if_neg hcoll3, if_pos hcoll,
    State.sendBcast_started (s := s.enter c (.send l)) (hs.enter c _) hcredit, State.sendBytes_enter]
  rfl

theorem send_permute {b : List Byte} (h : s.Lone c p) (hs : s.Sound) (hgood : s.checkSend c p l = none)
    (hcoll : l.coll = 5) (hg : s.cgroupOf p l.cgrp = some g) (hmember : g.lost = false)
    (hb : s.hbm.readVa (s.part p) l.saddr.toNat l.count = b) (hlen : 32 + 24 * fieldLE b 4 4 ≤ l.count)
    (hsum : ((planMoves (b.drop 32) (fieldLE b 4 4)).map (·.len)).sum ≤ fieldLE b 0x10 8)
    (hplan : s.planBad p (fieldLE b 8 8 % 2 ^ 48) ((planMoves (b.drop 32) (fieldLE b 4 4)).map (·.len)).sum
      (planMoves (b.drop 32) (fieldLE b 4 4)) = none) :
    let scratch := fieldLE b 8 8 % 2 ^ 48
    let ms := planMoves (b.drop 32) (fieldLE b 4 4)
    (s.decodeLine c (.send l)).settle =
      (((s.enter c (.send l)).copyMoves p scratch 0 ms).2.notifyAll p 4 0 (bytesLE 4 (fieldLE b 0 4)) g.members).begun c p l
        (s.core c).ctl.tokens ⟨c, (s.core c).ctl.tokens, p, some l.cgrp, g.members.filter (· != s.moduleId), [], [], false,
          some ⟨BitVec.ofNat 32 (fieldLE b 0 4), scratchMoves 0 ms, BitVec.ofNat 48 scratch, fieldLE b 0x18 8, []⟩, []⟩ := by
  have hcoll0 : l.coll ≠ 0 := by rw [hcoll]; decide
  have hcoll1 : l.coll ≠ 1 := by rw [hcoll]; decide
  have hcoll3 : l.coll ≠ 3 := by rw [hcoll]; decide
  have hcoll4 : l.coll ≠ 4 := by rw [hcoll]; decide
  refine h.send_begins hgood ?_
  rw [State.runSend_coll (s := s.enter c (.send l)) hcoll0 hg hmember, if_neg hcoll1, if_neg hcoll3, if_neg hcoll4,
    State.startPermute_started (s := s.enter c (.send l)) (hs.enter c _) hb rfl rfl rfl hlen hsum hplan]
  rfl

end

/-- Settles O24: one clause for each COLL. -/
theorem collectiveSendsGoOut : Obligations.CollectiveSendsGoOut := by
  intro s c p l g bs tok line e begun h hs hg hmember
  refine ⟨fun x k hgood hx hseed hlost => ?_, fun i hgood hitem hrows hcount => ?_, fun is hgood hcredit => ?_, ?_⟩
  · obtain ⟨hremote, hown⟩ := send_reduceScatter (l := line 1) h hs hgood rfl hg hmember hx hseed hlost
    exact ⟨fun i d hother hfind _ => congrArg Host.Outcome.next (hremote i hother hfind), fun ho => congrArg Host.Outcome.next (hown ho)⟩
  · exact congrArg Host.Outcome.next (send_return (l := line 3) h hs hgood rfl hg hmember hitem hrows hcount)
  · have hsent := send_broadcast (l := line 4) h hs hgood rfl hg hmember hcredit
    rw [State.sendEach_congr (l := l) (l' := line 4) rfl rfl rfl] at hsent
    exact congrArg Host.Outcome.next hsent
  · intro b n scratch ms hgood hlen hsum hplan w
    exact congrArg Host.Outcome.next (send_permute (l := line 5) h hs hgood rfl hg hmember rfl hlen hsum hplan)

end Sys2Proof.Machine

/-! ROUTE that joins its round, and the combine (05 R105, 07 R138 to R155). A command that has joined waits for its round's admission,
so nothing goes on in its core (`State.Idle.still_joined`); a combine finishes at once, its operand read as `CoreMem.combine`. -/

namespace Sys2Proof.Machine

/-! ### Joining a round (R138, R139) -/

section
variable {s : State} {c : CoreId} {p : PartId} {l : RouteLine} {tab : PlaceTab} {x : InFlight}

theorem State.runDispatch_opens (hs : s.Sound) (htab : s.ptab p l = some tab)
    (hreuse : ((s.core c).mem.routeHdr l.dst.toNat).reuse = false)
    (hhdr : s.checkRouteHdr p l ((s.core c).mem.routeHdr l.dst.toNat) = none)
    (hfind : (s.eng.rounds.find? fun r => r.matches p l x.mark) = none) (hroom : s.eng.rounds.length < 16) :
    s.runDispatch c p x l = .started (s.modEng fun e => { e with
      rounds := e.rounds ++ [⟨p, l.ptab, l.layer, x.mark.mb, x.mark.phase, tab.nsrc,
        [⟨c, x.token, l, (s.core c).mem.select l, (s.core c).mem.selectFlags l⟩], false, false⟩] }) := by
  unfold State.runDispatch
  simp only [htab, State.checkSpans_clean _ (hs.1 c), hreuse, hhdr, hfind, hroom.not_ge, decide_false, Bool.false_and, Bool.or_false,
    Bool.false_eq_true, if_false]

theorem State.runDispatch_joins {r : Round} (hs : s.Sound) (htab : s.ptab p l = some tab)
    (hreuse : ((s.core c).mem.routeHdr l.dst.toNat).reuse = false)
    (hhdr : s.checkRouteHdr p l ((s.core c).mem.routeHdr l.dst.toNat) = none)
    (hfind : (s.eng.rounds.find? fun r => r.matches p l x.mark) = some r) (hother : ∀ y ∈ r.members, y.core ≠ c)
    (hroom : r.members.length < r.nsrc) (hsame : ∀ y ∈ r.members.head?, roundDiffers l y.line = none) :
    s.runDispatch c p x l = .started (s.modEng fun e => { e with
      rounds := e.rounds.map fun q => if q.matches p l x.mark then { q with
        members := q.members ++ [⟨c, x.token, l, (s.core c).mem.select l, (s.core c).mem.selectFlags l⟩] } else q }) := by
  have hmine : (r.members.any fun m => m.core == c) = false := List.any_eq_false.mpr fun y hy => by simpa using hother y hy
  unfold State.runDispatch
  simp only [htab, State.checkSpans_clean _ (hs.1 c), hreuse, hhdr, hfind, hmine, hroom.not_ge, decide_false, Option.isNone_some,
    Bool.and_false, Bool.or_false, Bool.false_eq_true, if_false]
  cases hm : r.members with
  | nil => rfl
  | cons y ys =>
    have hdiffer : roundDiffers l y.line = none := hsame y (by rw [hm]; rfl)
    simp only [hdiffer]

/-- An RFN 0 of an idle core that has joined a round has started, and nothing goes on until the round is admitted. -/
theorem State.Idle.still_joined (h : s.Idle c p) {rs : List Round}
    (hmember : ∃ r ∈ rs, ∃ m ∈ r.members, m.core = c ∧ m.token = (s.core c).ctl.tokens)
    (hothers : ∀ d, d ≠ c → (s.core d).ctl.slots = []) :
    (((s.enter c (.route l)).modEng fun e => { e with rounds := rs }).startSlot c (s.core c).ctl.tokens).still = true := by
  have hstill := h.1
  have hcore : ∀ d, (((s.enter c (.route l)).modEng fun e => { e with rounds := rs }).startSlot c (s.core c).ctl.tokens).core d =
      ((s.enter c (.route l)).startSlot c (s.core c).ctl.tokens).core d := fun _ => rfl
  have hrests := State.rests_of_still hstill
  refine State.still_iff.mpr ⟨fun d => ?_, ⟨hrests.relayed, hrests.relays, hrests.refusers, hrests.localA2a, hrests.xfers,
    hrests.waiters, hrests.owed, hrests.waits⟩⟩
  have hhold := (Core.still_iff.mp (State.core_still hstill d)).1
  by_cases hd : d = c
  · subst hd
    have hstarted := h.core_started (.route l)
    refine State.coreStill_iff.mpr ⟨Core.still_iff.mpr ⟨?_, ?_⟩, ?_⟩
    · rw [hcore, hstarted, State.enter_core]; exact hhold
    · rw [hcore, hstarted]
      intro y hy
      rw [List.mem_singleton.mp hy]
      nofun
    · rw [hcore, hstarted]
      intro y hy
      obtain ⟨r, hr, m, hm, hmc, hmt⟩ := hmember
      have hin : (rs.any fun r => r.members.any fun m => m.core == d && m.token == (s.core d).ctl.tokens) = true :=
        List.any_eq_true.mpr ⟨r, hr, List.any_eq_true.mpr ⟨m, hm, by rw [hmc, hmt]; simp⟩⟩
      rw [List.mem_singleton.mp hy]
      change (_ && !(rs.any fun r => r.members.any fun m => m.core == d && m.token == (s.core d).ctl.tokens)) = false
      rw [hin]
      exact Bool.and_false _
  · have hslots : ((((s.enter c (.route l)).modEng fun e => { e with rounds := rs }).startSlot c (s.core c).ctl.tokens).core d) = s.core d := by
      rw [hcore, State.startSlot, State.modSlot, State.modCtl, State.core_modCore_other _ _ _ _ hd, State.enter_core_other _ _ _ _ hd]
    refine State.coreStill_iff.mpr ⟨?_, ?_⟩
    · rw [hslots]; exact State.core_still hstill d
    · rw [hslots, hothers d hd]; exact fun _ hx => absurd hx List.not_mem_nil

/-- An RFN 0 of a lone core that its round takes. -/
theorem State.Lone.route_joins (h : s.Lone c p) (hgood : s.checkRoute p l = none) {f : List Round → List Round}
    (hmember : ∃ r ∈ f s.eng.rounds, ∃ m ∈ r.members, m.core = c ∧ m.token = (s.core c).ctl.tokens)
    (hrun : (s.enter c (.route l)).runRoute c ((s.core c).ctl.capture (.route l)) l =
      .started ((s.enter c (.route l)).modEng fun e => { e with rounds := f e.rounds })) :
    (s.decodeLine c (.route l)).settle =
      ((s.enter c (.route l)).modEng fun e => { e with rounds := f e.rounds }).startSlot c (s.core c).ctl.tokens := by
  have hline : (s.enter c (.route l)).runLine c p ((s.core c).ctl.capture (.route l)) =
      .started ((s.enter c (.route l)).modEng fun e => { e with rounds := f e.rounds }) := hrun
  have hstep := h.1.starts (x := .route l)
  rw [hline, State.ran_of_bytes rfl] at hstep
  have hothers : ∀ d, d ≠ c → (s.enter c (.route l)).coreStill d = true := fun d hd =>
    (State.coreStill_congr (s := s) (t := s.enter c (.route l)) (by rw [s.enter_core_other c d _ hd]) rfl).trans
      (State.coreStill_of_still h.1.1 d)
  rw [h.1.decodeLine (x := .route l) hgood rfl (List.cons_ne_nil _ _) (fun _ => Line.noConfusion),
    State.settle_of_one hothers (State.enter_busy h.1.2.1) hstep (h.1.still_joined hmember h.2)]
  rfl

/-- A ROUTE of a core with a partition is a dispatch or a combine. -/
theorem State.runRoute_dispatch (hpart : (s.core c).part = some p) (hrfn : l.rfn = 0) :
    s.runRoute c x l = s.runDispatch c p x l := by
  rw [State.runRoute, hpart]
  exact if_pos hrfn

theorem State.runRoute_combine (hpart : (s.core c).part = some p) (hrfn : l.rfn ≠ 0) : s.runRoute c x l = s.runCombine c x l := by
  rw [State.runRoute, hpart]
  exact if_neg hrfn

theorem State.enter_part (s : State) (c : CoreId) (y : Line) : ((s.enter c y).core c).part = (s.core c).part := by
  rw [State.enter_core]

theorem route_opens (h : s.Lone c p) (hs : s.Sound) (hgood : s.checkRoute p l = none) (hrfn : l.rfn = 0) (htab : s.ptab p l = some tab)
    (hhdr : s.checkRouteHdr p l ((s.core c).mem.routeHdr l.dst.toNat) = none)
    (hreuse : ((s.core c).mem.routeHdr l.dst.toNat).reuse = false) (hroom : s.eng.rounds.length < 16)
    (hnew : ∀ r ∈ s.eng.rounds, r.matches p l (s.core c).ctl.mark = false) :
    (s.decodeLine c (.route l)).settle = ((s.enter c (.route l)).modEng fun e => { e with
      rounds := e.rounds ++ [⟨p, l.ptab, l.layer, (s.core c).ctl.mark.mb, (s.core c).ctl.mark.phase, tab.nsrc,
        [⟨c, (s.core c).ctl.tokens, l, (s.core c).mem.select l, (s.core c).mem.selectFlags l⟩], false, false⟩] }).startSlot c
          (s.core c).ctl.tokens := by
  have hfind : (s.eng.rounds.find? fun r => r.matches p l (s.core c).ctl.mark) = none :=
    List.find?_eq_none.mpr fun r hr => by rw [hnew r hr]; nofun
  refine h.route_joins (f := fun rs => rs ++ [⟨p, l.ptab, l.layer, (s.core c).ctl.mark.mb, (s.core c).ctl.mark.phase, tab.nsrc,
        [⟨c, (s.core c).ctl.tokens, l, (s.core c).mem.select l, (s.core c).mem.selectFlags l⟩], false, false⟩]) hgood
    ⟨_, List.mem_append_right _ List.mem_cons_self, _, List.mem_cons_self, rfl, rfl⟩ ?_
  have hmem := s.enter_mem c (.route l)
  rw [State.runRoute_dispatch ((s.enter_part c _).trans h.1.2.1) hrfn, State.runDispatch_opens (hs.enter c _) htab
    (by rw [hmem]; exact hreuse) (by rw [hmem]; exact hhdr) hfind hroom, hmem]
  rfl

theorem route_joins {r : Round} (h : s.Lone c p) (hs : s.Sound) (hgood : s.checkRoute p l = none) (hrfn : l.rfn = 0) (htab : s.ptab p l = some tab)
    (hhdr : s.checkRouteHdr p l ((s.core c).mem.routeHdr l.dst.toNat) = none)
    (hreuse : ((s.core c).mem.routeHdr l.dst.toNat).reuse = false)
    (hfind : (s.eng.rounds.find? fun r => r.matches p l (s.core c).ctl.mark) = some r) (hother : ∀ y ∈ r.members, y.core ≠ c)
    (hroom : r.members.length < r.nsrc) (hsame : ∀ y ∈ r.members.head?, roundDiffers l y.line = none) :
    (s.decodeLine c (.route l)).settle = ((s.enter c (.route l)).modEng fun e => { e with
      rounds := e.rounds.map fun q => if q.matches p l (s.core c).ctl.mark then { q with
        members := q.members ++ [⟨c, (s.core c).ctl.tokens, l, (s.core c).mem.select l, (s.core c).mem.selectFlags l⟩] } else q }).startSlot c
          (s.core c).ctl.tokens := by
  refine h.route_joins (f := fun rs => rs.map fun q => if q.matches p l (s.core c).ctl.mark then { q with
        members := q.members ++ [⟨c, (s.core c).ctl.tokens, l, (s.core c).mem.select l, (s.core c).mem.selectFlags l⟩] } else q) hgood
    ⟨_, List.mem_map.mpr ⟨r, List.mem_of_find?_eq_some hfind, if_pos (List.find?_some hfind)⟩, _,
      List.mem_append_right _ List.mem_cons_self, rfl, rfl⟩ ?_
  have hmem := s.enter_mem c (.route l)
  rw [State.runRoute_dispatch ((s.enter_part c _).trans h.1.2.1) hrfn, State.runDispatch_joins (hs.enter c _) htab
    (by rw [hmem]; exact hreuse) (by rw [hmem]; exact hhdr) hfind hother hroom hsame, hmem]
  rfl

end

/-! ### Combine (R153 to R155) -/

/-- The runs and flags of each token's combined row `y`, with its scales when the conversion has them (R155). -/
def combineOut (l : RouteLine) (q : Cvt) (n ostr : Nat) (ys : List (List Ext)) : List (Runs × Nat) :=
  ys.zipIdx.map fun y =>
    let at_ := l.dst.toNat + y.2 * ostr
    if q.bscale then
      let d := convBlocks q.fmt q y.1 [] (ceilDiv n 32)
      (([(false, at_ * 32, pack q.fmt.bits d.1),
        (false, (l.dst.toNat + l.tokens.toNat * ostr + y.2 * planeLines (ceilDiv n 32)) * 32,
          padTo (32 * planeLines (ceilDiv n 32)) (d.2.1.map (BitVec.ofNat 8 ·)))] : Runs), d.2.2)
    else
      let d := convRun q y.1 []
      ([(false, at_ * 32, pack q.fmt.bits d.1)], d.2)

/-- The header, the map and the rows of a combine, read from its operand (R153, R154). -/
structure Combine where
  yrowb : Nat
  ostr : Nat
  recs : List (List MapRec)
  rows : List (List Ext)

def CoreMem.combine (m : CoreMem) (l : RouteLine) (f : Fmt) : Combine :=
  let b := m.csN (l.src.toNat * 32) 64
  let yrowb := fieldLE b 4 2
  let recs := (List.range l.tokens.toNat).map fun t => readMap m (fieldLE b 0 4 % 2 ^ 20) l.k.toNat l.experts t
  let count := fun j => (recs.flatten.filter fun r => r.j == some j).length
  let base := fun j => segBase l.experts + yrowb * ((List.range j).map count).sum
  ⟨yrowb, fieldLE b 8 2, recs, recs.map fun r =>
    combineRow m l.src.toNat (yrowb * 8 / f.bits) yrowb f ((fieldLE b 0x0A 1).testBit 0) base (fun j => m.retState l.src.toNat j) r⟩

section
variable {s : State} {c : CoreId} {p : PartId} {l : RouteLine} {x : InFlight} {f : Fmt} {q : Cvt}

/-- The rows a combine reads are those its map names. -/
theorem length_filterMap_rows {α : Type} (rs : List MapRec) (st : Nat → Nat) (g : Nat × Nat → α)
    (h : ∀ r ∈ rs, ∀ j, r.j = some j → st j = 1) :
    ((rs.filterMap fun r => r.j.map fun j => (j, r.slot)).filterMap fun x => if st x.1 = 1 then some (g x) else none).length =
      (rs.filter fun r => r.j.isSome).length := by
  induction rs with
  | nil => rfl
  | cons r rs ih =>
    have ih := ih fun z hz => h z (List.mem_cons_of_mem r hz)
    cases hj : r.j with
    | none => simpa [hj] using ih
    | some j => simpa [hj, h r List.mem_cons_self j hj] using ih

theorem State.runCombine_done (hs : s.Sound) (hpart : (s.core c).part = some p) (hfmt : fieldLE ((s.core c).mem.csN (l.src.toNat * 32) 64) 6 1 < 16)
    (hf : Fmt.ofCode (BitVec.ofNat 4 (fieldLE ((s.core c).mem.csN (l.src.toNat * 32) 64) 6 1)) = some f) (harray : f.isArray = true)
    (hq : Cvt.ofByte (BitVec.ofNat 8 (fieldLE ((s.core c).mem.csN (l.src.toNat * 32) 64) 7 1)) = some q) (hrnd : q.rnd ≠ .sr)
    (hg8 : q.fmt ≠ .g8) (hrow0 : ((s.core c).mem.combine l f).yrowb ≠ 0) (hrow32 : ((s.core c).mem.combine l f).yrowb % 32 = 0)
    (hmap : fieldLE ((s.core c).mem.csN (l.src.toNat * 32) 64) 0 4 % 2 ^ 20 + l.tokens.toNat * mapLines l.k.toNat ≤ csLines)
    (hback : ∀ r ∈ ((s.core c).mem.combine l f).recs.flatten, ∀ j, r.j = some j → (s.core c).mem.retState l.src.toNat j = 1)
    (hspans : spansBad (((combineOut l q (((s.core c).mem.combine l f).yrowb * 8 / f.bits) ((s.core c).mem.combine l f).ostr
      ((s.core c).mem.combine l f).rows).flatMap (·.1)).map fun r => ⟨r.1, r.2.1, r.2.2.length⟩) = none)
    (hyield : s.routerYields p = false) :
    let o := (s.core c).mem.combine l f
    let cs := combineOut l q (o.yrowb * 8 / f.bits) o.ostr o.rows
    s.runCombine c x l = .done ⟨stOk, 0, cs.foldl (fun a d => a ||| d.2) 0, 0, 0⟩
      ((s.withMem c ((s.core c).mem.putRuns (cs.flatMap (·.1)))).useShare pointRouter p
        ((o.recs.flatten.filter fun r => r.j.isSome).length * o.yrowb)) := by
  have hnamed : ∀ j ∈ (((s.core c).mem.combine l f).recs.flatten.filterMap (·.j)).dedup, (s.core c).mem.retState l.src.toNat j = 1 := by
    intro j hj
    obtain ⟨r, hr, hrj⟩ := List.mem_filterMap.mp (List.mem_dedup.mp hj)
    exact hback r hr j hrj
  have hall : ((((s.core c).mem.combine l f).recs.flatten.filterMap (·.j)).dedup.all fun j =>
      (s.core c).mem.retState l.src.toNat j == 1 || (s.core c).mem.retState l.src.toNat j == 2) = true :=
    List.all_eq_true.mpr fun j hj => by rw [hnamed j hj]; rfl
  have hnone : ((((s.core c).mem.combine l f).recs.flatten.filterMap (·.j)).dedup.any fun j => (s.core c).mem.retState l.src.toNat j == 2) = false :=
    List.any_eq_false.mpr fun j hj => by rw [hnamed j hj]; nofun
  have hsr : (q.rnd == .sr) = false := by simpa using hrnd
  have hnot8 : (q.fmt == .g8) = false := by simpa using hg8
  have hrow : ¬ (((s.core c).mem.combine l f).yrowb = 0 ∨ ((s.core c).mem.combine l f).yrowb % 32 ≠ 0) := by simp [hrow0, hrow32]
  unfold combineOut at hspans ⊢
  simp only [CoreMem.combine] at hback hspans hall hnone hrow ⊢
  unfold State.runCombine
  simp only [State.checkSpans_clean _ (hs.1 c), hpart, Option.getD_some, hyield, hmap.not_gt, hfmt, hf, harray, hq, hsr, hnot8, hall, hnone, hrow,
    hspans, State.writeRuns_clean _ (hs.1 c), length_filterMap_rows _ _ _ hback, Run.ofWrite, Bool.not_true, Bool.or_false, Bool.false_eq_true, if_false, if_true]

/-- What counts at the router neither reads nor changes the cores. -/
theorem State.useShare_enter (s : State) (c : CoreId) (p : PartId) (y : Line) (m : CoreMem) (point n : Nat) :
    ((s.enter c y).withMem c m).useShare point p n = ((s.useShare point p n).enter c y).withMem c m := by
  obtain ⟨used, win, hb⟩ := s.useShare_eng point p n
  rw [State.useShare_frame (s := s) (t := (s.enter c y).withMem c m) point n rfl rfl, hb]
  rfl

theorem route_combines (h : s.Lone c p) (hs : s.Sound) (hgood : s.checkRoute p l = none) (hrfn : l.rfn ≠ 0)
    (hfmt : fieldLE ((s.core c).mem.csN (l.src.toNat * 32) 64) 6 1 < 16)
    (hf : Fmt.ofCode (BitVec.ofNat 4 (fieldLE ((s.core c).mem.csN (l.src.toNat * 32) 64) 6 1)) = some f) (harray : f.isArray = true)
    (hq : Cvt.ofByte (BitVec.ofNat 8 (fieldLE ((s.core c).mem.csN (l.src.toNat * 32) 64) 7 1)) = some q) (hrnd : q.rnd ≠ .sr)
    (hg8 : q.fmt ≠ .g8) (hrow0 : ((s.core c).mem.combine l f).yrowb ≠ 0) (hrow32 : ((s.core c).mem.combine l f).yrowb % 32 = 0)
    (hmap : fieldLE ((s.core c).mem.csN (l.src.toNat * 32) 64) 0 4 % 2 ^ 20 + l.tokens.toNat * mapLines l.k.toNat ≤ csLines)
    (hback : ∀ r ∈ ((s.core c).mem.combine l f).recs.flatten, ∀ j, r.j = some j → (s.core c).mem.retState l.src.toNat j = 1)
    (hspans : spansBad (((combineOut l q (((s.core c).mem.combine l f).yrowb * 8 / f.bits) ((s.core c).mem.combine l f).ostr
      ((s.core c).mem.combine l f).rows).flatMap (·.1)).map fun r => ⟨r.1, r.2.1, r.2.2.length⟩) = none)
    (hyield : s.routerYields p = false) :
    let o := (s.core c).mem.combine l f
    let cs := combineOut l q (o.yrowb * 8 / f.bits) o.ostr o.rows
    (s.useShare pointRouter p ((o.recs.flatten.filter fun r => r.j.isSome).length * o.yrowb)).Ran (s.decodeLine c (.route l)).settle c p
      (.route l) ⟨stOk, 0, cs.foldl (fun a d => a ||| d.2) 0, 0, 0⟩ ((s.core c).mem.putRuns (cs.flatMap (·.1))) := by
  intro o cs
  have hmem := s.enter_mem c (.route l)
  have hrun : (s.enter c (.route l)).runLine c p ((s.core c).ctl.capture (.route l)) = .done ⟨stOk, 0, cs.foldl (fun a d => a ||| d.2) 0, 0, 0⟩
      (((s.useShare pointRouter p ((o.recs.flatten.filter fun r => r.j.isSome).length * o.yrowb)).enter c (.route l)).withMem c
        ((s.core c).mem.putRuns (cs.flatMap (·.1)))) := by
    have hdone := State.runCombine_done (s := s.enter c (.route l)) (c := c) (p := p) (l := l) (x := (s.core c).ctl.capture (.route l))
      (f := f) (q := q) (hs.enter c _) ((s.enter_part c _).trans h.1.2.1)
    rw [hmem] at hdone
    rw [← State.useShare_enter]
    exact (State.runRoute_combine ((s.enter_part c _).trans h.1.2.1) hrfn).trans
      (hdone hfmt hf harray hq hrnd hg8 hrow0 hrow32 hmap hback hspans hyield)
  obtain ⟨used, win, hb⟩ := s.useShare_eng pointRouter p ((o.recs.flatten.filter fun r => r.j.isSome).length * o.yrowb)
  rw [hb] at hrun ⊢
  have hrests := State.rests_of_still h.1.1
  exact h.1.runsTo (x := .route l) hgood rfl (List.cons_ne_nil _ _) (fun _ => Line.noConfusion) (fun _ => rfl) h.1.2.1 rfl
    ⟨hrests.relayed, hrests.relays, hrests.refusers, hrests.localA2a, hrests.xfers, hrests.waiters, hrests.owed, hrests.waits⟩ rfl hrun rfl

end

end Sys2Proof.Machine

/-! The reuse of a map (07 R157). The records of the map, taken at the coordinates (token, rank) of the line, give the segments of the
hand-off: `reuseSegs` is what the unit hands over, and its rows are counted and placed by coordinates. -/

namespace Sys2Proof.Machine

/-- A record of the map: its token, expert, marks (admitted, null, alternate), slot and weight (Table 7.7). -/
abbrev ReuseRec : Type := Nat × Nat × Bool × Bool × Bool × Nat × Nat

/-- The record of token `t` and rank `r`. -/
def CoreMem.reuseRec (m : CoreMem) (h : RouteHdr) (k t r : Nat) : ReuseRec :=
  let v := natLE (m.csN ((h.map + t * mapLines k) * 32 + 8 * r) 8)
  (t, bitsOf v 0 8, v.testBit 8, v.testBit 9, v.testBit 10, bitsOf v 16 16, bitsOf v 32 32)

/-- The tokens and ranks of a ROUTE. -/
def routeCoords (toks k : Nat) : List (Nat × Nat) := (List.range toks).flatMap fun t => (List.range k).map fun r => (t, r)

/-- The row of token `t` under weight `w`, and the flags of its conversion. -/
def CoreMem.reuseRow (m : CoreMem) (h : RouteHdr) (t w : Nat) : List Byte × Nat :=
  let f := (Fmt.ofCode h.xfmt).getD .b32
  let bytes := m.csN ((h.xaddr + t * h.xstr) * 32) h.rowb
  if h.scalew then
    let cs := (unpack f.bits (h.rowb * 8 / f.bits) bytes).map fun q => narrow f .rne false 0 ((f.decode q).mul (ofB32 w))
    (padTo h.rowb (pack f.bits (cs.map (·.1))), cs.foldl (fun a q => a ||| q.2) 0)
  else (bytes, 0)

theorem CoreMem.reuseRow_fst (m : CoreMem) (h : RouteHdr) (t w : Nat) : (m.reuseRow h t w).1 =
    if h.scalew then padTo h.rowb (pack ((Fmt.ofCode h.xfmt).getD .b32).bits
      ((unpack ((Fmt.ofCode h.xfmt).getD .b32).bits (h.rowb * 8 / ((Fmt.ofCode h.xfmt).getD .b32).bits)
        (m.csN ((h.xaddr + t * h.xstr) * 32) h.rowb)).map fun b =>
          (narrow ((Fmt.ofCode h.xfmt).getD .b32) .rne false 0 ((((Fmt.ofCode h.xfmt).getD .b32).decode b).mul (ofB32 w))).1))
    else m.csN ((h.xaddr + t * h.xstr) * 32) h.rowb := by
  unfold CoreMem.reuseRow
  cases h.scalew
  · rfl
  · simp only [if_true, List.map_map]
    rfl

/-- A record is live: admitted, and of no null expert. -/
def reuseLive (r : ReuseRec) : Bool := r.2.2.1 && !r.2.2.2.1

/-- The directory entry of a record. -/
def reuseSeg (tab : PlaceTab) (r : ReuseRec) : Nat := if r.2.2.2.2.1 then tab.nexp + r.2.1 else r.2.1

/-- The live records of a directory entry. -/
def reuseOf (tab : PlaceTab) (recs : List ReuseRec) (j : Nat) : List ReuseRec :=
  (recs.filter reuseLive).filter fun r => reuseSeg tab r == j

/-- The row at place `i` of a segment. -/
def CoreMem.reuseAt (m : CoreMem) (h : RouteHdr) (seg : List ReuseRec) (i : Nat) : List Byte × Nat :=
  match seg.find? fun r => r.2.2.2.2.2.1 == i with
  | some r => m.reuseRow h r.1 r.2.2.2.2.2.2
  | none => (List.replicate h.rowb 0, 0)

/-- The rows of every segment, with their flags. -/
def CoreMem.reuseRows (m : CoreMem) (h : RouteHdr) (tab : PlaceTab) (recs : List ReuseRec) : List (List (List Byte × Nat)) :=
  (List.range (2 * tab.nexp)).map fun j => (List.range (reuseOf tab recs j).length).map (m.reuseAt h (reuseOf tab recs j))

/-- What a reuse hands over. -/
def CoreMem.reuseSegs (m : CoreMem) (c : CoreId) (tok : Nat) (l : RouteLine) (h : RouteHdr) (tab : PlaceTab) (recs : List ReuseRec) : Segs :=
  let rows := m.reuseRows h tab recs
  ⟨c, tok, l, h, rows.map fun q => q.map (·.1), [], [], rows.map fun q => !q.isEmpty⟩

/-- The records of a line's map. -/
def CoreMem.reuseRecs (m : CoreMem) (l : RouteLine) (h : RouteHdr) : List ReuseRec :=
  (List.range l.tokens.toNat).flatMap fun t => (List.range l.k.toNat).map fun r => m.reuseRec h l.k.toNat t r

/-- The report of a reuse: the flags, the records not admitted and the tokens without a live record (R157). -/
def CoreMem.reuseReport (m : CoreMem) (l : RouteLine) (h : RouteHdr) (tab : PlaceTab) : Report :=
  let recs := m.reuseRecs l h
  ⟨stOk, 0, (m.reuseRows h tab recs).foldl (fun a q => q.foldl (fun b r => b ||| r.2) a) 0,
    (recs.filter fun r => !r.2.2.1 && !r.2.2.2.1).length,
    ((List.range l.tokens.toNat).filter fun t => !((recs.filter reuseLive).any fun r => r.1 == t)).length⟩

/-! ### The run -/

section
variable {s : State} {c : CoreId} {p : PartId} {l : RouteLine} {tab : PlaceTab} {x : InFlight} {h : RouteHdr}

/-- In sound memory the buffer of one command is written whole. -/
theorem State.dispatch_lands (hs : ∀ d, (s.core d).mem.Clean) (p : PartId) (tab : PlaceTab) (cgrp : BitVec 16) (g : Segs) :
    (s.dispatch p tab cgrp [g]).1 = true := by
  unfold State.dispatch State.writeBuffers State.writeBuffer
  rw [State.writeRuns_clean _ (hs g.core)]
  rfl

/-- A return slot is free for one command (13 R307). -/
theorem State.returnsFree_one {g : Segs} {q : Queue} (hline : g.line.a2aq = l.a2aq) (hq : s.queue l.a2aq = some q)
    (hcache : l.a2aq ∈ s.eng.qcache) (hen : q.en = true) (hroom : q.ppos + 1 ≤ q.dpos + q.limit) (hfree : q.slotFree q.ppos = true) :
    s.returnsFree [g] = true := by
  simp [State.returnsFree, hline, hq, State.cached, hcache, hen, hroom, hfree]

theorem State.runReuse_dispatches (hs : s.Sound)
    (hfree : s.returnsFree [(s.core c).mem.reuseSegs c x.token l h tab ((s.core c).mem.reuseRecs l h)] = true)
    (hyield : s.routerYields p = false) :
    let g := (s.core c).mem.reuseSegs c x.token l h tab ((s.core c).mem.reuseRecs l h)
    s.runReuse c p x l tab h = .lone ((s.core c).mem.reuseReport l h tab)
      ((s.useShare pointRouter p ((g.rows.map List.length).sum * h.rowb)).dispatch p tab l.cgrp [g]).2 := by
  intro g
  have hlands := State.dispatch_lands (s := s.useShare pointRouter p ((g.rows.map List.length).sum * h.rowb))
    (fun d => by rw [State.core, (s.useShare_parts ..).2]; exact hs.1 d) p tab l.cgrp g
  have hgo : (s.returnsFree [g] && !s.routerYields p) = true := by rw [hfree, hyield]; rfl
  unfold State.runReuse
  simp only [State.checkSpans_clean _ (hs.1 c)]
  exact (if_pos hgo).trans (if_pos hlands)

/-- An RFN 0 whose header asks for the reuse of a map (07 R157). -/
theorem State.runDispatch_reuse (hs : s.Sound) (htab : s.ptab p l = some tab)
    (hreuse : ((s.core c).mem.routeHdr l.dst.toNat).reuse = true)
    (hhdr : s.checkRouteHdr p l ((s.core c).mem.routeHdr l.dst.toNat) = none) :
    s.runDispatch c p x l = s.runReuse c p x l tab ((s.core c).mem.routeHdr l.dst.toNat) := by
  unfold State.runDispatch
  simp only [htab, State.checkSpans_clean _ (hs.1 c), hreuse, hhdr, if_true]

theorem route_reuses {q : Queue} (hl : s.Lone c p) (hs : s.Sound) (hgood : s.checkRoute p l = none) (hrfn : l.rfn = 0)
    (htab : s.ptab p l = some tab) (hh : (s.core c).mem.routeHdr l.dst.toNat = h) (hhdr : s.checkRouteHdr p l h = none)
    (hreuse : h.reuse = true) (hyield : s.routerYields p = false) (hq : s.queue l.a2aq = some q)
    (hcache : l.a2aq ∈ s.eng.qcache) (hen : q.en = true) (hroom : q.ppos + 1 ≤ q.dpos + q.limit) (hfree : q.slotFree q.ppos = true) :
    let g := (s.core c).mem.reuseSegs c (s.core c).ctl.tokens l h tab ((s.core c).mem.reuseRecs l h)
    (s.decodeLine c (.route l)).settle = ((((s.enter c (.route l)).useShare pointRouter p ((g.rows.map List.length).sum * h.rowb)).dispatch
      p tab l.cgrp [g]).2.finishSlot c (s.core c).ctl.tokens ((s.core c).mem.reuseReport l h tab)).carryOn := by
  intro g
  have hmem := s.enter_mem c (.route l)
  have hrun : (s.enter c (.route l)).runLine c p ((s.core c).ctl.capture (.route l)) = .lone ((s.core c).mem.reuseReport l h tab)
      (((s.enter c (.route l)).useShare pointRouter p ((g.rows.map List.length).sum * h.rowb)).dispatch p tab l.cgrp [g]).2 := by
    have hdone := State.runReuse_dispatches (s := s.enter c (.route l)) (c := c) (p := p) (l := l) (tab := tab) (h := h)
      (x := (s.core c).ctl.capture (.route l)) (hs.enter c _)
    have hdispatch := State.runDispatch_reuse (s := s.enter c (.route l)) (c := c) (p := p) (l := l) (tab := tab)
      (x := (s.core c).ctl.capture (.route l)) (hs.enter c _) htab
    rw [hmem] at hdone hdispatch
    rw [hh] at hdispatch
    exact ((State.runRoute_dispatch ((s.enter_part c _).trans hl.1.2.1) hrfn).trans (hdispatch hreuse hhdr)).trans
      (hdone (State.returnsFree_one (l := l) rfl hq hcache hen hroom hfree) hyield)
  rw [hl.goesOn (x := .route l) hgood rfl (List.cons_ne_nil _ _) (fun _ => Line.noConfusion), hrun, State.ran_of_bytes rfl]
  rfl

end

/-! ### The segments by coordinates -/

section
variable (m : CoreMem) (h : RouteHdr) (l : RouteLine) (tab : PlaceTab)

/-- The record at coordinates. -/
def CoreMem.recAt (x : Nat × Nat) : ReuseRec := m.reuseRec h l.k.toNat x.1 x.2

theorem CoreMem.reuseRecs_eq : m.reuseRecs l h = (routeCoords l.tokens.toNat l.k.toNat).map (m.recAt h l) := by
  unfold CoreMem.reuseRecs routeCoords
  rw [List.map_flatMap]
  simp only [List.map_map]
  rfl

theorem mem_routeCoords {toks k : Nat} {x : Nat × Nat} : x ∈ routeCoords toks k ↔ x.1 < toks ∧ x.2 < k := by
  obtain ⟨t, r⟩ := x
  simp [routeCoords]

/-- The coordinates of the live records of a directory entry. -/
def CoreMem.coordsOf (j : Nat) : List (Nat × Nat) :=
  (routeCoords l.tokens.toNat l.k.toNat).filter fun x => reuseLive (m.recAt h l x) && reuseSeg tab (m.recAt h l x) == j

theorem CoreMem.reuseOf_eq (j : Nat) : reuseOf tab (m.reuseRecs l h) j = (m.coordsOf h l tab j).map (m.recAt h l) := by
  rw [reuseOf, m.reuseRecs_eq h l, List.filter_filter, List.filter_map]
  unfold CoreMem.coordsOf
  congr 2
  funext x
  exact Bool.and_comm _ _

/-- The line has a record at coordinates, and it is live. -/
def CoreMem.liveAt (x : Nat × Nat) : Bool :=
  decide (x.1 < l.tokens.toNat ∧ x.2 < l.k.toNat) && (m.recAt h l x).2.2.1 && !(m.recAt h l x).2.2.2.1

/-- The directory entry of the record at coordinates. -/
def CoreMem.segAt (x : Nat × Nat) : Nat := (m.recAt h l x).2.1 + if (m.recAt h l x).2.2.2.2.1 then tab.nexp else 0

theorem CoreMem.reuseLive_recAt {x : Nat × Nat} (hx : x ∈ routeCoords l.tokens.toNat l.k.toNat) :
    reuseLive (m.recAt h l x) = m.liveAt h l x := by
  unfold reuseLive CoreMem.liveAt
  rw [decide_eq_true (mem_routeCoords.mp hx), Bool.true_and]

theorem CoreMem.reuseSeg_recAt (x : Nat × Nat) : reuseSeg tab (m.recAt h l x) = m.segAt h l tab x := by
  unfold reuseSeg CoreMem.segAt
  split <;> omega

theorem CoreMem.coordsOf_eq (j : Nat) : m.coordsOf h l tab j =
    (routeCoords l.tokens.toNat l.k.toNat).filter fun x => m.liveAt h l x && m.segAt h l tab x == j :=
  List.filter_congr fun x hx => by rw [m.reuseLive_recAt h l hx, m.reuseSeg_recAt h l tab]

theorem CoreMem.mem_coordsOf {j : Nat} {x : Nat × Nat} : x ∈ m.coordsOf h l tab j ↔ m.liveAt h l x = true ∧ m.segAt h l tab x = j := by
  rw [m.coordsOf_eq h l tab, List.mem_filter, Bool.and_eq_true, beq_iff_eq, and_iff_right_iff_imp]
  rintro ⟨hlive, -⟩
  simp only [CoreMem.liveAt, Bool.and_eq_true, decide_eq_true_eq] at hlive
  exact mem_routeCoords.mpr hlive.1.1

theorem CoreMem.getD_reuseRows {j : Nat} (hj : j < 2 * tab.nexp) (recs : List ReuseRec) :
    (m.reuseRows h tab recs).getD j [] = (List.range (reuseOf tab recs j).length).map (m.reuseAt h (reuseOf tab recs j)) := by
  rw [CoreMem.reuseRows, List.getD_eq_getElem?_getD, List.getElem?_map, List.getElem?_range hj]
  rfl

theorem CoreMem.getD_segRows {j : Nat} (hj : j < 2 * tab.nexp) (c : CoreId) (tok : Nat) :
    (m.reuseSegs c tok l h tab (m.reuseRecs l h)).rows.getD j [] =
      (List.range (m.coordsOf h l tab j).length).map fun i => (m.reuseAt h ((m.coordsOf h l tab j).map (m.recAt h l)) i).1 := by
  have hrow := m.getD_reuseRows h tab hj (m.reuseRecs l h)
  rw [m.reuseOf_eq h l tab, List.length_map] at hrow
  change ((m.reuseRows h tab (m.reuseRecs l h)).map fun q => q.map Prod.fst).getD j (([] : List (List Byte × Nat)).map Prod.fst) = _
  rw [List.getD_map (f := fun q : List (List Byte × Nat) => q.map Prod.fst), hrow, List.map_map]
  rfl

/-- A segment has a row for each of its live records. -/
theorem CoreMem.length_segRows {j : Nat} (hj : j < 2 * tab.nexp) (c : CoreId) (tok : Nat) :
    ((m.reuseSegs c tok l h tab (m.reuseRecs l h)).rows.getD j []).length = (m.coordsOf h l tab j).length := by
  rw [m.getD_segRows h l tab hj, List.length_map, List.length_range]

/-- The slot of the record at coordinates. -/
def CoreMem.slotAt (x : Nat × Nat) : Nat := (m.recAt h l x).2.2.2.2.2.1

/-- A live record that no other of its segment shares its slot with has its token's row there. -/
theorem CoreMem.segRow_at_slot {j : Nat} (hj : j < 2 * tab.nexp) (c : CoreId) (tok : Nat) {x : Nat × Nat} (hx : x ∈ m.coordsOf h l tab j)
    (hone : ∀ y ∈ m.coordsOf h l tab j, m.slotAt h l y = m.slotAt h l x → y = x)
    (hlt : m.slotAt h l x < (m.coordsOf h l tab j).length) :
    ((m.reuseSegs c tok l h tab (m.reuseRecs l h)).rows.getD j []).getD (m.slotAt h l x) [] =
      (m.reuseRow h x.1 (m.recAt h l x).2.2.2.2.2.2).1 := by
  have hfind : ((m.coordsOf h l tab j).find? fun y => m.slotAt h l y == m.slotAt h l x) = some x := by
    cases hy : (m.coordsOf h l tab j).find? fun y => m.slotAt h l y == m.slotAt h l x with
    | none => exact absurd (List.find?_eq_none.mp hy x hx) (by simp)
    | some y => rw [hone y (List.mem_of_find?_eq_some hy) (by simpa using List.find?_some hy)]
  have hrow : m.reuseAt h ((m.coordsOf h l tab j).map (m.recAt h l)) (m.slotAt h l x) = m.reuseRow h x.1 (m.recAt h l x).2.2.2.2.2.2 := by
    have hrec : ((m.coordsOf h l tab j).map (m.recAt h l)).find? (fun r => r.2.2.2.2.2.1 == m.slotAt h l x) = some (m.recAt h l x) := by
      rw [List.find?_map]
      exact congrArg (Option.map (m.recAt h l)) hfind
    unfold CoreMem.reuseAt
    rw [hrec]
    rfl
  rw [m.getD_segRows h l tab hj, List.getD_eq_getElem?_getD, List.getElem?_map, List.getElem?_range hlt]
  exact congrArg Prod.fst hrow

theorem CoreMem.reuseReport_info0 : (m.reuseReport l h tab).info0 =
    ((routeCoords l.tokens.toNat l.k.toNat).filter fun x => !(m.recAt h l x).2.2.1 && !(m.recAt h l x).2.2.2.1).length := by
  change ((m.reuseRecs l h).filter fun r => !r.2.2.1 && !r.2.2.2.1).length = _
  rw [m.reuseRecs_eq h l, List.filter_map, List.length_map]
  rfl

theorem CoreMem.reuseReport_info1 : (m.reuseReport l h tab).info1 = ((List.range l.tokens.toNat).filter fun t =>
    !((routeCoords l.tokens.toNat l.k.toNat).any fun x => x.1 == t && m.liveAt h l x)).length := by
  change ((List.range l.tokens.toNat).filter fun t => !(((m.reuseRecs l h).filter reuseLive).any fun r => r.1 == t)).length = _
  refine congrArg List.length (congrArg (fun f => List.filter f _) (funext fun t => congrArg not ?_))
  rw [m.reuseRecs_eq h l, List.any_filter, List.any_map]
  rw [Bool.eq_iff_iff, List.any_eq_true, List.any_eq_true]
  refine exists_congr fun x => and_congr_right fun hx => ?_
  rw [← m.reuseLive_recAt h l hx, Bool.and_comm]
  rfl

end

/-- Settles O26: an RFN 0 by its header, opening a round, joining one or reusing a map, and a combine. -/
theorem routesJoinDispatchAndCombine : Obligations.RoutesJoinDispatchAndCombine := by
  intro s c p l tab m tok k hl hs htab
  refine ⟨?_, ?_⟩
  · rintro line rfl hgood h e mark mem hhdr
    have htab' : s.ptab p { l with rfn := 0 } = some tab := htab
    refine ⟨fun hreuse => ⟨fun hroom hnew => ?_, fun r hfind hother hroom hsame => ?_⟩, ?_⟩
    · exact congrArg Host.Outcome.next (route_opens hl hs hgood rfl htab' hhdr hreuse hroom hnew)
    · exact congrArg Host.Outcome.next (route_joins hl hs hgood rfl htab' hhdr hreuse hfind hother hroom hsame)
    · intro hreuse hyield q hq hcache hen hroom hfree v here live seg slot all f row
      refine ⟨m.reuseSegs c tok { l with rfn := 0 } h tab (m.reuseRecs { l with rfn := 0 } h), m.reuseReport { l with rfn := 0 } h tab,
        rfl, rfl, rfl, rfl, fun j hj => ?_, fun x hlive hj hone hlt => ?_, rfl, m.reuseReport_info0 h _ tab, m.reuseReport_info1 h _ tab, ?_⟩
      · rw [m.length_segRows h _ tab hj, m.coordsOf_eq h _ tab]
        rfl
      · have hcoords : m.coordsOf h { l with rfn := 0 } tab (seg x) = all.filter fun y => live y && seg y == seg x := m.coordsOf_eq h _ tab _
        have hrow := m.segRow_at_slot h { l with rfn := 0 } tab hj c tok ((m.mem_coordsOf h _ tab).mpr ⟨hlive, rfl⟩)
          (fun y hy heq => hone y ((m.mem_coordsOf h _ tab).mp hy).1 ((m.mem_coordsOf h _ tab).mp hy).2 heq) (by rw [hcoords]; exact hlt)
        exact hrow.trans (m.reuseRow_fst h _ _)
      · exact congrArg Host.Outcome.next (route_reuses hl hs hgood rfl htab' rfl hhdr hreuse hyield hq hcache hen hroom hfree)
  · rintro line f q rfl hgood b yrowb ostr n recs count base ys hfmt hf harray hq hrnd hg8 hrow0 hrow32 hmap hback cs hspans hyield
    exact ⟨_, rfl, route_combines (l := { l with rfn := 1 }) hl hs hgood (fun hrfn : (1 : BitVec 3) = 0 => absurd hrfn (by decide)) hfmt hf harray hq hrnd hg8 hrow0 hrow32 hmap hback
      hspans hyield⟩

end Sys2Proof.Machine

/-! What the router and the update engine take (07 R146, 06 R133, 09 R195 to R214). In sound memory every map, buffer and tensor of
what is taken lands, so the outcome is the model's next state with each store done: `State.admitRound_admits`, `State.amaxPush_due`,
`State.takeSb_updates` and `State.applyJob_reached` each say it once. The blocks of a super-block are updated from the tensors as they
were before the first, so what they hold has a closed form (`updateBlocks_eq`). -/

namespace Sys2Proof.Machine

/-! ### Rounds (07 R146, R159) -/

theorem exec_roundAdmission (n : Nat) (s : State) : exec (.roundAdmission n) s = .next (s.admitRound n).settle := rfl

section
variable {s : State}

theorem CoreMem.putRuns_clean (rs : Runs) : ∀ m : CoreMem, m.Clean → (m.putRuns rs).Clean := by
  induction rs with
  | nil => exact fun _ h => h
  | cons r rs ih => exact fun m h => ih _ (CoreMem.putRun_clean h r.1 r.2.1 r.2.2)

theorem State.writeMaps_clean (tab : PlaceTab) (ad : Admission) (ms : List RoundMember) :
    ∀ s : State, (∀ d, (s.core d).mem.Clean) → ∃ z, s.writeMaps tab ad ms = (true, z) ∧ ∀ d, (z.core d).mem.Clean := by
  induction ms with
  | nil => exact fun s h => ⟨s, rfl, h⟩
  | cons m ms ih =>
    intro s h
    rw [State.writeMaps]
    simp only [State.writeRuns_clean _ (h m.core)]
    exact ih _ (State.clean_withMem h (CoreMem.putRuns_clean _ _ (h m.core)))

theorem State.writeBuffers_clean (gs : List Segs) : ∀ s : State, (∀ d, (s.core d).mem.Clean) → (s.writeBuffers gs).1 = true := by
  induction gs with
  | nil => exact fun _ _ => rfl
  | cons g gs ih =>
    intro s h
    unfold State.writeBuffers State.writeBuffer
    simp only [State.writeRuns_clean _ (h g.core)]
    exact ih _ (State.clean_withMem h (CoreMem.putRuns_clean _ _ (h g.core)))

theorem State.checkRows_clean (h : ∀ d, (s.core d).mem.Clean) (ad : Admission) (ms : List RoundMember) :
    s.checkRows ad ms = (true, s) := by
  induction ms with
  | nil => rfl
  | cons m ms ih => simp only [State.checkRows, State.checkSpans_clean _ (h m.core), ih]

/-- The router does not yield to a partition within its share, nor where no complete round waits within one. -/
theorem State.routerYields_eq_false {p : PartId} (h : s.inShare pointRouter routerCap p = true ∨
    ∀ q ∈ s.eng.rounds, q.admitted = false → q.ended = false → q.nsrc ≤ q.members.length → s.inShare pointRouter routerCap q.part = false) :
    s.routerYields p = false := by
  unfold State.routerYields
  obtain hin | hnone := h
  · rw [hin]; rfl
  · refine Bool.and_eq_false_imp.mpr fun _ => List.any_eq_false.mpr fun q hq hwaits => ?_
    simp only [Round.complete, Bool.and_eq_true, Bool.not_eq_true', decide_eq_true_eq] at hwaits
    obtain ⟨⟨⟨hadm, hended⟩, hall⟩, hin⟩ := hwaits
    exact Bool.false_ne_true ((hnone q hq hadm hended hall).symm.trans hin)

theorem admitCandidates_eq (tab : PlaceTab) (k cap : Nat) (as : List Assign) : admitCandidates tab k cap as =
    ⟨(List.range (2 * tab.nexp)).map fun j => (candidates k as j).take cap,
      (List.range (2 * tab.nexp)).map fun j => (candidates k as j).length⟩ := by
  unfold admitCandidates
  simp only [List.map_map]
  rfl

/-- The members of a round by core. -/
def Round.byCore (r : Round) : List RoundMember := allCores.flatMap fun c => r.members.filter fun m => m.core == c

/-- The admission of a round whose first line is `l`. -/
def Round.admission (r : Round) (tab : PlaceTab) (l : RouteLine) : Admission :=
  admitCandidates tab l.k.toNat l.cap.toNat (r.byCore.flatMap (memberAssigns tab))

/-- What the members of a round hand over. -/
def State.roundSegs (s : State) (r : Round) (tab : PlaceTab) (ad : Admission) : List Segs :=
  r.byCore.map fun m => memberSegs (s.core m.core).mem tab ad m

/-- A round is admitted, and its rows count against its partition's share. -/
def State.takeRound (s : State) (n : Nat) (r : Round) (gs : List Segs) : State :=
  (s.modEng fun e => { e with rounds := e.rounds.set n { r with admitted := true } }).useShare pointRouter r.part
    (gs.map fun g => (g.rows.map List.length).sum * g.hdr.rowb).sum

theorem State.takeRound_core (s : State) (n : Nat) (r : Round) (gs : List Segs) (d : CoreId) :
    (s.takeRound n r gs).core d = s.core d := by
  unfold State.takeRound State.core
  rw [(State.useShare_parts ..).2]
  rfl

/-- In clean memory a complete round that nothing holds back is admitted and handed off, and its members finish well. -/
theorem State.admitRound_admits {n : Nat} {r : Round} {first : RoundMember} {rest : List RoundMember} {tab : PlaceTab}
    (hclean : ∀ d, (s.core d).mem.Clean) (hr : s.eng.rounds[n]? = some r) (hcomplete : r.complete = true)
    (hyield : s.routerYields r.part = false) (hmembers : r.members = first :: rest)
    (htab : (s.part r.part).place.get none r.ptab.toNat = some tab)
    (hfree : s.returnsFree (s.roundSegs r tab (r.admission tab first.line)) = true) :
    let ad := r.admission tab first.line
    let gs := s.roundSegs r tab ad
    s.admitRound n = (((s.takeRound n r gs).writeMaps tab ad r.byCore).2.dispatch r.part tab first.line.cgrp gs).2.finishRound
      r.part tab ad true r.byCore := by
  intro ad gs
  obtain ⟨z, hmaps, hz⟩ := State.writeMaps_clean tab ad r.byCore (s.takeRound n r gs) fun d => by
    rw [State.takeRound_core]; exact hclean d
  have hlands : (z.dispatch r.part tab first.line.cgrp gs).1 = true := State.writeBuffers_clean gs z hz
  have hgo : (!r.complete || s.routerYields r.part) = false := by rw [hcomplete, hyield]; rfl
  have hall : s.admitRound n = (((s.takeRound n r gs).writeMaps tab ad r.byCore).2.dispatch r.part tab first.line.cgrp gs).2.finishRound
      r.part tab ad (((s.takeRound n r gs).writeMaps tab ad r.byCore).1 &&
        (((s.takeRound n r gs).writeMaps tab ad r.byCore).2.dispatch r.part tab first.line.cgrp gs).1) r.byCore := by
    unfold State.admitRound
    simp only [hr, hgo, hmembers, htab, State.checkRows_clean hclean, Bool.false_eq_true, if_false]
    rw [← hmembers]
    exact if_neg (c := (!s.returnsFree gs) = true) (by rw [hfree]; exact Bool.false_ne_true)
  rw [hall, hmaps, hlands]
  rfl

end

/-! ### The push of the amax slots (06 R133, R134) -/

theorem exec_amaxPush (p : PartId) (s : State) : exec (.amaxPush p) s = .next (s.amaxPush p).settle := rfl

theorem Smap.get_of_mem {α : Type} (d : α) {m : Smap α} {k : Nat} {v : α} (hnd : (m.map Prod.fst).Nodup) (h : (k, v) ∈ m) :
    Smap.get d m k = v := by
  induction m with
  | nil => exact absurd h List.not_mem_nil
  | cons e es ih =>
    obtain ⟨hfst, hnd⟩ := List.nodup_cons.mp hnd
    obtain rfl | h := List.mem_cons.mp h
    · exact if_pos rfl
    · have hne : k ≠ e.1 := fun heq => hfst (heq ▸ List.mem_map_of_mem h)
      exact (if_neg hne).trans (ih hnd h)

/-- A slot at reset is pushed to itself: it is neither valid nor has it a next value. -/
theorem AmaxSlot.push_reset (next : Bool) : AmaxSlot.reset.push next = AmaxSlot.reset := by
  cases next <;> rfl

/-- Every slot of a map is pushed. -/
def pushSlots (next : Bool) (m : Smap AmaxSlot) : Smap AmaxSlot := Smap.updates AmaxSlot.reset (fun a _ => a.push next) [] m

theorem get_pushSlots {m : Smap AmaxSlot} (hnd : (m.map Prod.fst).Nodup) (next : Bool) (k : Nat) :
    (pushSlots next m).get AmaxSlot.reset k = (m.get AmaxSlot.reset k).push next := by
  by_cases hk : k ∈ m.map Prod.fst
  · obtain ⟨⟨j, a⟩, hmem, rfl⟩ := List.mem_map.mp hk
    rw [Smap.get_of_mem _ hnd hmem]
    exact Smap.get_updates_of_mem _ _ hnd hmem []
  · have hreset : m.get AmaxSlot.reset k = AmaxSlot.reset := by_contra fun hne => hk (Smap.mem_keys_of_get hne)
    rw [hreset, AmaxSlot.push_reset]
    exact Smap.get_updates_of_notMem _ _ hk []

/-- A push that is due: the slots, then the rules, then the step and the cores' SEEDs. -/
theorem State.amaxPush_due {s : State} {p : PartId} (hdue : s.pushDue p = true) :
    let t := s.pushStep p
    let z := (s.modPart p fun q => { q with amax := pushSlots (decide (t = (s.part p).amaxStep + 1)) (s.part p).amax }).selectRules p
      (List.range (s.part p).rules.length)
    s.amaxPush p = (z.modPart p fun q => { q with amaxStep := t }).seedsReached t (z.coresOf p) := by
  intro t z
  unfold State.amaxPush
  rw [if_pos hdue]
  simp only [State.part_modPart_same]
  rfl

/-! ### Sending and closing leave HBM alone -/

theorem State.txPkt_hbm (s : State) (p : PartId) (k : Pkt) : (s.txPkt p k).hbm = s.hbm := by
  unfold State.txPkt
  split <;> rfl

theorem State.emit_hbm (s : State) (i : Nat) (d : Session) (k : Pkt) : (s.emit i d k).hbm = s.hbm := by
  unfold State.emit
  split <;> exact State.txPkt_hbm ..

theorem State.pump_hbm (i n : Nat) : ∀ s : State, (s.pump i n).hbm = s.hbm := by
  induction n with
  | zero => exact fun _ => rfl
  | succ n ih =>
    intro s
    rw [State.pump]
    split
    · rfl
    · split
      · rfl
      · split
        · exact (ih _).trans (s.emit_hbm ..)
        · rfl

theorem State.sendNotice_hbm (s : State) (i kind : Nat) (step : BitVec 32) (body : List Byte) :
    (s.sendNotice i kind step body).hbm = s.hbm := by
  unfold State.sendNotice State.send
  split
  · rfl
  · split
    · rfl
    · exact State.pump_hbm ..

theorem State.needSess_hbm (s : State) (p : PartId) (m : BitVec 14) : (s.needSess p m).2.hbm = s.hbm := by
  have hnew : (s.newSess p m none false).2.hbm = s.hbm := by
    unfold State.newSess
    split <;> rfl
  unfold State.needSess
  split
  · rfl
  · generalize s.newSess p m none false = n at hnew
    obtain ⟨_ | ⟨i, d⟩, z⟩ := n
    · exact hnew
    · exact (State.emit_hbm ..).trans hnew

theorem State.notifyAll_hbm (p : PartId) (kind : Nat) (step : BitVec 32) (body : List Byte) (ms : List (BitVec 14)) :
    ∀ s : State, (s.notifyAll p kind step body ms).hbm = s.hbm := by
  induction ms with
  | nil => exact fun _ => rfl
  | cons m ms ih =>
    intro s
    have hneed := s.needSess_hbm p m
    rw [State.notifyAll]
    split
    · exact ih s
    · generalize s.needSess p m = n at hneed
      obtain ⟨_ | i, z⟩ := n
      · exact (ih z).trans hneed
      · exact (ih _).trans ((State.sendNotice_hbm ..).trans hneed)

theorem State.noteNorm_hbm (s : State) (p : PartId) (m : BitVec 14) (t : BitVec 32) (v : AccEntry) :
    (s.noteNorm p m t v).hbm = s.hbm := by
  unfold State.noteNorm State.sumNorm
  split
  · rfl
  · split <;> rfl

theorem State.closeIfDone_hbm (s : State) (p : PartId) (t : BitVec 32) : (s.closeIfDone p t).hbm = s.hbm := by
  unfold State.closeIfDone
  dsimp only
  split
  · rfl
  · split
    · split
      · rfl
      · exact (State.notifyAll_hbm ..).trans (State.noteNorm_hbm ..)
    · rfl

theorem State.settleBlocks_hbm (s : State) (p : PartId) (t : BitVec 32) (shard sb k : Nat) :
    (s.settleBlocks p t shard sb k).hbm = s.hbm := by
  unfold State.settleBlocks
  dsimp only
  split
  · exact State.closeIfDone_hbm ..
  · rfl

/-! ### Reads and writes of tensors in HBM without errors -/

section
variable {s : State}

theorem State.readSbs_clean (h : s.hbm.ecc = []) (p : PartId) (k : Nat) (ts : List (BitVec 48)) :
    s.readSbs p k ts = (some (ts.map fun b => StateSb.ofBytes (s.hbm.readVa (s.part p) (sbAddr b k) 2112)), s) := by
  induction ts with
  | nil => rfl
  | cons t ts ih => simp only [State.readSbs, State.readHbm_clean h, ih, List.map_cons]

theorem State.writeSbs_ecc (p : PartId) (k : Nat) (xs : List (BitVec 48 × StateSb)) :
    ∀ s : State, s.hbm.ecc = [] → (s.writeSbs p k xs).hbm.ecc = [] := by
  induction xs with
  | nil => exact fun _ h => h
  | cons x xs ih =>
    intro s h
    rw [State.writeSbs, State.writeHbm_clean h]
    exact ih _ ((Hbm.writeVa_ecc ..).trans h)

theorem State.readFields_clean (h : s.hbm.ecc = []) (p : PartId) (k : Nat) (as : List Nat) :
    s.readFields p k as = (some (as.map fun a => natLE (s.hbm.readVa (s.part p) a k)), s) := by
  induction as with
  | nil => rfl
  | cons a as ih => simp only [State.readFields, State.readHbm_clean h, ih, List.map_cons]

theorem State.phase2Blocks_clean (h : s.hbm.ecc = []) (p : PartId) (t : BitVec 32) (shard : Nat) (d : Shard) (n : Nat) (c : Coefs)
    (compact : Bool) (sb : Nat) (bs : List Nat) :
    ∀ r, ∃ r', s.phase2Blocks p t shard d n c compact sb bs r = (some r', s) := by
  induction bs with
  | nil => exact fun r => ⟨r, rfl⟩
  | cons b bs ih =>
    intro r
    simp only [State.phase2Blocks, State.readFields_clean h]
    exact ih _

/-- In HBM without errors the blocks of a super-block are read and written, and HBM stays without errors. -/
theorem State.phase2Sb_clean (h : s.hbm.ecc = []) (p : PartId) (t : BitVec 32) (shard : Nat) (d : Shard) (n : Nat) (c : Coefs)
    (sb : Nat) (bs : List Nat) : ∃ z, s.phase2Sb p t shard d n c sb bs = (true, z) ∧ z.hbm.ecc = [] := by
  unfold State.phase2Sb
  simp only [State.readSbs_clean h]
  split
  next z hnone =>
    obtain ⟨r, hsome⟩ := State.phase2Blocks_clean h p t shard d n c _ sb bs _
    cases hsome.symm.trans hnone
  next r z hsome =>
    obtain ⟨r', hsame⟩ := State.phase2Blocks_clean h p t shard d n c _ sb bs _
    cases hsame.symm.trans hsome
    exact ⟨_, rfl, (congrArg Hbm.ecc (State.settleBlocks_hbm ..)).trans (State.writeSbs_ecc _ _ _ s h)⟩

theorem State.phase2Sbs_clean (p : PartId) (t : BitVec 32) (shard : Nat) (d : Shard) (n : Nat) (c : Coefs) (all : List (Nat × Nat))
    (sbs : List Nat) : ∀ s : State, s.hbm.ecc = [] → ∃ z, s.phase2Sbs p t shard d n c all sbs = (true, z) ∧ z.hbm.ecc = [] := by
  induction sbs with
  | nil => exact fun s h => ⟨s, rfl, h⟩
  | cons sb sbs ih =>
    intro s h
    obtain ⟨z, hz, hecc⟩ := State.phase2Sb_clean h p t shard d n c sb ((all.filter fun x => x.1 == sb).map (·.2))
    rw [State.phase2Sbs, hz]
    exact ih z hecc

end

/-! ### Complete super-blocks (09 R195) -/

theorem exec_superblockComplete (n : Nat) (s : State) : exec (.superblockComplete n) s = .next (s.completeSb n).settle := rfl

/-- The step has been noticed: its super-blocks are skipped (R214). -/
def UpdEng.noticedIn (u : UpdEng) (t : BitVec 32) : Bool := match u.stepOf t with
  | some r => r.noticed
  | none => false

/-- The gradient at element `i` of a context. -/
def RCtx.gradAt (x : RCtx) (i : Nat) : Ext := ((x.entries.get AccEntry.zero i).exact x.rofs.toInt).rto

/-- The coefficients that a shard reads for a step. -/
def State.coefsOf (s : State) (p : PartId) (d : Shard) (t : BitVec 32) : Coefs := ((s.part p).ue.group d.group.toNat).coefs t

/-- A context is released, and the engine has begun its step. -/
def State.takeCtx (s : State) (x : RCtx) : State :=
  (s.modEng fun e => { e with ctxs := e.ctxs.filter fun y => y != x }).modUe x.part fun u => u.begin x.step

section
variable {s : State} {n : Nat} {x : RCtx} {d : Shard} {g : PartCfg}

/-- The first complete super-block of its partition is taken, where neither a fault, an aborted step nor a checkpoint holds it. -/
theorem State.completeSb_first (hx : s.eng.ctxs[n]? = some x) (hd : (s.part x.part).ue.shards[x.shard]? = some d)
    (hheard : d.ncontrib ≤ x.heard.length) (hfirst : ∀ y ∈ s.eng.ctxs.take n, y.part = x.part → s.ctxComplete y = false)
    (hfault : s.faulted x.part = false) (hcopy : s.copyHolds x.part x.step = false)
    (hopen : ∀ r, (s.part x.part).ue.stepOf x.step = some r → r.status ≠ 4) : s.completeSb n = s.takeSb x d := by
  have hcomplete : s.ctxComplete x = true := by
    unfold State.ctxComplete
    rw [hd]
    exact decide_eq_true hheard
  have halive : s.aborted x.part x.step = false := by
    unfold State.aborted
    cases hr : (s.part x.part).ue.stepOf x.step with
    | none => rfl
    | some r => exact beq_false_of_ne (hopen r hr)
  have hnone : ((s.eng.ctxs.take n).any fun y => y.part == x.part && s.ctxComplete y && !s.sbHeld y) = false := by
    refine List.any_eq_false.mpr fun y hy hwaits => ?_
    simp only [Bool.and_eq_true, beq_iff_eq] at hwaits
    obtain ⟨⟨hpart, hdone⟩, -⟩ := hwaits
    exact Bool.false_ne_true ((hfirst y hy hpart).symm.trans hdone)
  unfold State.completeSb
  simp only [hx, hd, hfault, halive, hcomplete, hcopy, hnone]
  rfl

theorem State.takeSb_frozen (hfrozen : (s.coefsOf x.part d x.step).frozen = true) :
    s.takeSb x d = (((s.takeCtx x).modUe x.part fun u => u.modStep x.step fun r =>
      { r with dropped := satAdd 32 r.dropped 32 }).countPart x.part .updFrozen 32).recordSb x.part x.step x.shard x.sb :=
  if_pos hfrozen

theorem State.takeSb_noticed (hfrozen : (s.coefsOf x.part d x.step).frozen = false)
    (hnoticed : (s.part x.part).ue.noticedIn x.step = true) :
    s.takeSb x d = (s.takeCtx x).skipSb x.part x.step x.shard x.sb true :=
  (if_neg (ne_true_of_eq_false hfrozen)).trans (if_pos hnoticed)

end

/-! ### The blocks of a super-block (09 R199) -/

theorem length_unpack (w n : Nat) (bs : List Byte) : (unpack w n bs).length = n := by
  have hfrom : ∀ (n v : Nat), (unpackFrom w v n).length = n := fun n => by
    induction n with
    | zero => exact fun _ => rfl
    | succ n ih => exact fun v => congrArg Nat.succ (ih (v >>> w))
  exact hfrom n _

theorem StateSb.length_stamps_ofBytes (b : List Byte) : (StateSb.ofBytes b).stamps.length = 32 := length_unpack ..

/-- Blocks 0 to `n` - 1 of a stored tensor hold `f` at each element, and the stamp. -/
def StateSb.upTo (x : StateSb) (stamp : Nat) (f : Nat → Nat) (n : Nat) : StateSb :=
  ⟨List.replicate n stamp ++ x.stamps.drop n, (List.range (32 * n)).map f ++ x.elems.drop (32 * n)⟩

theorem StateSb.upTo_succ {x : StateSb} {n : Nat} (hn : n < x.stamps.length) (stamp : Nat) (f : Nat → Nat) :
    x.upTo stamp f (n + 1) = ⟨(x.upTo stamp f n).stamps.set n stamp, (x.upTo stamp f n).elems.take (32 * n) ++
      ((List.range 32).map fun k => f (32 * n + k)) ++ (x.upTo stamp f n).elems.drop (32 * n + 32)⟩ := by
  have hlen : ((List.range (32 * n)).map f).length = 32 * n := by rw [List.length_map, List.length_range]
  have hstamps : (List.replicate n stamp ++ x.stamps.drop n).set n stamp = List.replicate (n + 1) stamp ++ x.stamps.drop (n + 1) := by
    rw [List.set_append_right _ _ (by rw [List.length_replicate]), List.length_replicate, Nat.sub_self,
      List.drop_eq_getElem_cons hn, List.set_cons_zero, List.replicate_succ', List.append_assoc, List.singleton_append]
  have hnew : (List.range (32 * (n + 1))).map f = (List.range (32 * n)).map f ++ (List.range 32).map fun k => f (32 * n + k) := by
    rw [Nat.mul_succ, List.range_add, List.map_append, List.map_map]
    rfl
  have hrest : ((List.range (32 * n)).map f ++ x.elems.drop (32 * n)).drop (32 * n + 32) = x.elems.drop (32 * (n + 1)) := by
    rw [← List.drop_drop, List.drop_left' hlen, List.drop_drop, Nat.mul_succ]
  unfold StateSb.upTo
  rw [hstamps, List.take_left' hlen, hnew, hrest]

theorem putBlock_eq_mapIdx (xs : List StateSb) (b stamp : Nat) (codes : List (List Nat)) : putBlock xs b stamp codes =
    xs.mapIdx fun k x => ⟨x.stamps.set b stamp, x.elems.take (32 * b) ++ codes.map (fun c => c.getD k 0) ++ x.elems.drop (32 * b + 32)⟩ :=
  List.ext_getElem (by simp [putBlock]) fun i _ _ => by simp [putBlock]

section
variable (c : Coefs) (cf : Ext) (compact vKept : Bool) (gin : Nat → Ext) (rnd : Nat → Nat) (xs : List StateSb)

/-- Element `i` of a super-block under the rule, from the tensors as they were. -/
def newElem (i : Nat) : Elem := c.update cf compact vKept (gin i) (elemAt vKept compact xs i) (rnd i)

/-- The code of element `i` in tensor `k`. -/
def newCode (k i : Nat) : Nat := ((newElem c cf compact vKept gin rnd xs i).codes vKept compact).getD k 0

/-- The tensors after the first `n` blocks: every block is updated from the tensors as they were before the first. -/
theorem updateBlocks_eq {xs : List StateSb} (hlen : ∀ x ∈ xs, x.stamps.length = 32) (stamp : Nat) {n : Nat} (hn : n ≤ 32) :
    updateBlocks c cf compact vKept stamp gin rnd xs n =
      ⟨xs.mapIdx fun k x => x.upTo stamp (newCode c cf compact vKept gin rnd xs k) n, n,
        ((List.range (32 * n)).filter fun i => (newElem c cf compact vKept gin rnd xs i).nonfinite compact vKept).length⟩ := by
  induction n with
  | zero =>
    have hnone : (xs.mapIdx fun k x => x.upTo stamp (newCode c cf compact vKept gin rnd xs k) 0) = xs := List.mapIdx_eq_iff.mpr fun i => by
      cases xs[i]? <;> rfl
    rw [hnone]
    rfl
  | succ n ih =>
    have hblock : putBlock (xs.mapIdx fun k x => x.upTo stamp (newCode c cf compact vKept gin rnd xs k) n) n stamp
        (((List.range 32).map fun k => newElem c cf compact vKept gin rnd xs (32 * n + k)).map (Elem.codes vKept compact)) =
        xs.mapIdx fun k x => x.upTo stamp (newCode c cf compact vKept gin rnd xs k) (n + 1) := by
      rw [putBlock_eq_mapIdx, List.mapIdx_mapIdx]
      refine List.ext_getElem (by simp) fun i hi _ => ?_
      have hmem : xs[i]'(by simpa using hi) ∈ xs := List.getElem_mem _
      simp only [List.getElem_mapIdx, Function.comp_apply, List.map_map]
      exact (StateSb.upTo_succ (by rw [hlen _ hmem]; omega) _ _).symm
    have hcount : ((List.range (32 * (n + 1))).filter fun i => (newElem c cf compact vKept gin rnd xs i).nonfinite compact vKept).length =
        ((List.range (32 * n)).filter fun i => (newElem c cf compact vKept gin rnd xs i).nonfinite compact vKept).length +
        (((List.range 32).map fun k => newElem c cf compact vKept gin rnd xs (32 * n + k)).filter (Elem.nonfinite compact vKept)).length := by
      rw [Nat.mul_succ, List.range_add, List.filter_append, List.length_append, List.filter_map, List.filter_map, List.length_map, List.length_map]
      rfl
    have hstep := ih (by omega)
    unfold updateBlocks at hstep ⊢
    rw [List.range_succ (n := n), List.foldl_append, hstep, hcount, ← hblock]
    rfl

theorem StateSb.upTo_all {x : StateSb} (hlen : x.stamps.length = 32) (stamp : Nat) (f : Nat → Nat) :
    (x.upTo stamp f 32).stamps = List.replicate 32 stamp ∧ ∀ i < 1024, (x.upTo stamp f 32).elems.getD i 0 = f i := by
  unfold StateSb.upTo
  refine ⟨by rw [List.drop_of_length_le (by omega), List.append_nil], fun i hi => ?_⟩
  rw [List.getD_eq_getElem?_getD, List.getElem?_append_left (by simpa using hi), List.getElem?_map, List.getElem?_range (by omega)]
  rfl

/-- The tensors of a super-block after all its blocks. -/
def newSbs (stamp : Nat) : List StateSb := xs.mapIdx fun k x => x.upTo stamp (newCode c cf compact vKept gin rnd xs k) 32

theorem length_newSbs (stamp : Nat) : (newSbs c cf compact vKept gin rnd xs stamp).length = xs.length := List.length_mapIdx

theorem updateBlocks_all {xs : List StateSb} (hlen : ∀ x ∈ xs, x.stamps.length = 32) (stamp : Nat) :
    updateBlocks c cf compact vKept stamp gin rnd xs 32 = ⟨newSbs c cf compact vKept gin rnd xs stamp, 32,
      ((List.range 1024).filter fun i => (newElem c cf compact vKept gin rnd xs i).nonfinite compact vKept).length⟩ :=
  updateBlocks_eq c cf compact vKept gin rnd hlen stamp (Nat.le_refl 32)

/-- Every block of every tensor has the stamp, and every element its new code. -/
theorem getD_newSbs {xs : List StateSb} (hlen : ∀ x ∈ xs, x.stamps.length = 32) (stamp : Nat) (e : StateSb) {k : Nat} (hk : k < xs.length) :
    ((newSbs c cf compact vKept gin rnd xs stamp).getD k e).stamps = List.replicate 32 stamp ∧
      ∀ i < 1024, ((newSbs c cf compact vKept gin rnd xs stamp).getD k e).elems.getD i 0 = newCode c cf compact vKept gin rnd xs k i := by
  have hget : (newSbs c cf compact vKept gin rnd xs stamp).getD k e = xs[k].upTo stamp (newCode c cf compact vKept gin rnd xs k) 32 := by
    rw [newSbs, List.getD_eq_getElem?_getD, List.getElem?_mapIdx, List.getElem?_eq_getElem hk]
    rfl
  rw [hget]
  exact StateSb.upTo_all (hlen _ (List.getElem_mem hk)) stamp _

end

/-! ### A super-block is updated (09 R199 to R205) -/

theorem firstBadElem_eq_none {gin : Nat → Ext} (h : ∀ i < 1024, (gin i).isFin = true) : firstBadElem gin = none :=
  List.find?_eq_none.mpr fun i hi => by simp [h i (List.mem_range.mp hi)]

/-- Reads do not depend on the update engine. -/
theorem Hbm.readVa_ue (h : Hbm) (q : Partition) (u : UpdEng) (n : Nat) : ∀ va, h.readVa { q with ue := u } va n = h.readVa q va n := by
  induction n with
  | zero => exact fun _ => rfl
  | succ n ih => exact fun va => congrArg (List.cons _) (ih (va + 1))

theorem UpdEng.begin_seeds (u : UpdEng) (t : BitVec 32) : (u.begin t).seeds = u.seeds := by
  unfold UpdEng.begin UpdEng.ensure
  dsimp only
  split <;> rfl

section
variable {s : State} {x : RCtx} {d : Shard} {g : PartCfg}

theorem State.takeCtx_part (s : State) (x : RCtx) :
    (s.takeCtx x).part x.part = { s.part x.part with ue := (s.part x.part).ue.begin x.step } :=
  State.part_modPart_same ..

/-- The stored super-blocks `k` of a list of tensors. -/
def State.sbsAt (s : State) (p : PartId) (k : Nat) (ts : List (BitVec 48)) : List StateSb :=
  ts.map fun b => StateSb.ofBytes (s.hbm.readVa (s.part p) (sbAddr b k) 2112)

theorem State.length_stamps_sbsAt {p : PartId} {k : Nat} {ts : List (BitVec 48)} {y : StateSb} (hy : y ∈ s.sbsAt p k ts) :
    y.stamps.length = 32 := by
  obtain ⟨b, -, rfl⟩ := List.mem_map.mp hy
  exact StateSb.length_stamps_ofBytes _

theorem State.takeCtx_readSbs (hecc : s.hbm.ecc = []) (ts : List (BitVec 48)) :
    (s.takeCtx x).readSbs x.part x.sb ts = (some (s.sbsAt x.part x.sb ts), s.takeCtx x) := by
  have hold : (ts.map fun b => StateSb.ofBytes ((s.takeCtx x).hbm.readVa ((s.takeCtx x).part x.part) (sbAddr b x.sb) 2112)) =
      s.sbsAt x.part x.sb ts := by
    simp only [State.takeCtx_part, Hbm.readVa_ue]
    rfl
  rw [State.readSbs_clean (s := s.takeCtx x) hecc, hold]

theorem State.takeCtx_updRnd (s : State) (x : RCtx) (t : BitVec 32) (shard i : Nat) :
    (s.takeCtx x).updRnd x.part t shard i = s.updRnd x.part t shard i := by
  unfold State.updRnd
  rw [State.takeCtx_part, UpdEng.begin_seeds]
  rfl

/-- The state in which the tensors of a super-block have been written and its 32 blocks counted. -/
def State.sbCounted (s : State) (x : RCtx) (d : Shard) (compact : Bool) (xs : List StateSb) (nf : Nat) (squares : List Ext) : State :=
  (((((s.takeCtx x).writeSbs x.part x.sb ((d.tensors compact).zip xs)).modUe x.part fun u => u.modStep x.step fun q => { q with
    updated := satAdd 32 q.updated 32, skipped := satAdd 32 q.skipped 0
    norm := addNorm u.nofs q.norm squares }).countPart x.part .updBlocks 32).countPart x.part .updSkipped 0).countPart x.part .updStateNf nf

/-- The super-block is recorded; without a SEED of the step its draws were free ones (log 1). -/
def State.sbUpdated (s : State) (x : RCtx) (d : Shard) (compact : Bool) (xs : List StateSb) (nf : Nat) (squares : List Ext) : State :=
  let w := s.sbCounted x d compact xs nf squares
  let v := if compact && ((s.part x.part).ue.seeds.find? fun k => k.step == x.step).isNone then { w with free := w.free + 2 ^ 35 } else w
  v.recordSb x.part x.step x.shard x.sb

/-- The draws of a super-block's elements. -/
def State.sbRnd (s : State) (x : RCtx) (compact : Bool) (i : Nat) : Nat :=
  if compact then s.updRnd x.part x.step x.shard (1024 * x.sb + i) else 0

/-- The scaled gradients that the norm of a step takes from a super-block (R203). -/
def Coefs.squares (c : Coefs) (gin : Nat → Ext) : List Ext := if c.cmode = 1 then (List.range 1024).map fun i => (gin i).mul c.gscale else []

/-- Under rules 0 to 2 a super-block of finite gradients whose tensors are reached in HBM without errors is updated whole. -/
theorem State.takeSb_updates {cf : Ext} (hecc : s.hbm.ecc = []) (hcfg : (s.part x.part).cfg = some g)
    (hfrozen : (s.coefsOf x.part d x.step).frozen = false) (hnoticed : (s.part x.part).ue.noticedIn x.step = false)
    (hrule : (s.coefsOf x.part d x.step).rule ≠ 3) (hv : (s.coefsOf x.part d x.step).rule = 2 → d.vaddr ≠ 0)
    (hreach : s.sbReach x.part x.sb (d.tensors g.compact) = true)
    (hclip : s.clipFactor x.part x.step (s.coefsOf x.part d x.step) = some cf) (hfin : ∀ i < 1024, (x.gradAt i).isFin = true) :
    let r := updateBlocks (s.coefsOf x.part d x.step) cf g.compact (d.vKept g.compact) (x.step.toNat % 65536) x.gradAt
      (s.sbRnd x g.compact) (s.sbsAt x.part x.sb (d.tensors g.compact)) 32
    s.takeSb x d = s.sbUpdated x d g.compact r.xs r.nf ((s.coefsOf x.part d x.step).squares x.gradAt) := by
  intro r
  have hpages : ¬(((s.coefsOf x.part d x.step).rule = 2 ∧ d.vaddr = 0) ∨
      ((s.coefsOf x.part d x.step).rule = 3 ∧ (d.paddr = 0 ∨ s.regionReach x.part d x.sb = false)) ∨
      s.sbReach x.part x.sb (d.tensors g.compact) = false) := by
    rintro (⟨htwo, hnone⟩ | ⟨hthree, -⟩ | hunreached)
    · exact hv htwo hnone
    · exact hrule hthree
    · exact Bool.false_ne_true (hunreached.symm.trans hreach)
  have hbad : firstBadElem (fun i => ((x.entries.get AccEntry.zero i).exact x.rofs.toInt).rto) = none := firstBadElem_eq_none hfin
  have hread := State.takeCtx_readSbs (x := x) hecc (d.tensors g.compact)
  unfold State.takeCtx at hread
  unfold State.coefsOf at hclip
  unfold State.takeSb
  simp only [hcfg, hbad, hclip, hread]
  refine (if_neg (ne_true_of_eq_false hfrozen)).trans ((if_neg (ne_true_of_eq_false hnoticed)).trans ((if_neg hpages).trans
    ((if_neg fun hthree => hrule hthree.1).trans ((if_neg hrule).trans ?_))))
  rfl

end

/-! ### Jobs that have come back (R208) -/

/-- A block whose region holds the job's step in state 2: its super-blocks are written, its state becomes 3, and a fallback of either
factor is logged and counted. -/
def State.jobWritten (s : State) (p : PartId) (shard n : Nat) (t : BitVec 32) (d : Shard) : State :=
  let hdr := s.hbm.readVa (s.part p) (d.region n) 64
  let bs := d.blocksOf n
  let z := (s.phase2Sbs p t shard d n (((s.part p).ue.group d.group.toNat).coefs t) bs ((bs.map (·.1)).dedup)).2
  let y : State := { z with hbm := z.hbm.writeVa (z.part p) [] (d.region n) (patch hdr 4 [3#8]) }
  let lout := fieldLE hdr 6 1
  let rout := fieldLE hdr 7 1
  if (1 ≤ lout ∧ lout ≤ 3) ∨ (1 ≤ rout ∧ rout ≤ 3) then
    (y.logEvent evPrecondFallback 50 p.val (bytesLE 2 shard ++ bytesLE 4 n ++ bytesLE 1 lout ++ bytesLE 1 rout)).countPart p .precondFallback 1
  else y

/-- The step has closed SKIPPED or ABORTED: a job of it changes no state (R213). -/
def UpdEng.closedUnchanged (u : UpdEng) (t : BitVec 32) : Bool := match u.stepOf t with
  | some r => r.status == 3 || r.status == 4
  | none => false

theorem UpdEng.closedUnchanged_of_stepOf {u : UpdEng} {t : BitVec 32} {r : UeStep} (hr : u.stepOf t = some r) :
    u.closedUnchanged t = (r.status == 3 || r.status == 4) := by
  unfold UpdEng.closedUnchanged
  rw [hr]

theorem UpdEng.closedUnchanged_eq_false {u : UpdEng} {t : BitVec 32}
    (h : ∀ r, u.stepOf t = some r → r.status ≠ 3 ∧ r.status ≠ 4) : u.closedUnchanged t = false := by
  cases hr : u.stepOf t with
  | none => unfold UpdEng.closedUnchanged; rw [hr]
  | some r => rw [UpdEng.closedUnchanged_of_stepOf hr]; simpa using h r hr

section
variable {s : State} {p : PartId} {shard n : Nat} {t : BitVec 32} {d : Shard}

theorem State.applyJob_closed (hclosed : (s.part p).ue.closedUnchanged t = true) : s.applyJob p shard n t d = s := if_pos hclosed

/-- A job of a step that is not closed SKIPPED or ABORTED, its region and super-blocks reached in HBM without errors: what it does is
for the header of its region to say. -/
theorem State.applyJob_reached {g : PartCfg} (hecc : s.hbm.ecc = []) (hcfg : (s.part p).cfg = some g)
    (halive : ∀ r, (s.part p).ue.stepOf t = some r → r.status ≠ 3 ∧ r.status ≠ 4)
    (hread : (s.part p).checkRange (d.region n) regionBytes .r = none) (hwrite : (s.part p).checkRange (d.region n) regionBytes .w = none)
    (hsbs : ∀ sb ∈ ((d.blocksOf n).map (·.1)).dedup, s.sbReach p sb (d.tensors g.compact) = true) :
    s.applyJob p shard n t d =
      if fieldLE (s.hbm.readVa (s.part p) (d.region n) 64) 4 1 ≠ 2 ∨ fieldLE (s.hbm.readVa (s.part p) (d.region n) 64) 0 4 ≠ t.toNat then s
      else s.jobWritten p shard n t d := by
  have hall : (((d.blocksOf n).map (·.1)).dedup.all fun sb => s.sbReach p sb (d.tensors g.compact)) = true := List.all_eq_true.mpr hsbs
  obtain ⟨z, hz, hzecc⟩ := State.phase2Sbs_clean p t shard d n (((s.part p).ue.group d.group.toNat).coefs t) (d.blocksOf n)
    (((d.blocksOf n).map (·.1)).dedup) s hecc
  unfold State.applyJob State.jobWritten
  simp only [hcfg, hread, hwrite, hall, State.readHbm_clean hecc, hz, State.writeHbm_clean hzecc]
  refine (if_neg (ne_true_of_eq_false (UpdEng.closedUnchanged_eq_false halive))).trans ?_
  simp

end

/-! ### The queue of jobs -/

theorem exec_precondPhase2 (p : PartId) (s : State) : exec (.precondPhase2 p) s = .next (s.precondPhase2 p).settle := rfl

section
variable {s : State} {p : PartId} {u : UpdCfg} {q : Queue} {i : Item}

/-- The step that a job's record names. -/
def State.jobStep (s : State) (q : Queue) (i : Item) : BitVec 32 := BitVec.ofNat 32 (fieldLE (s.readQueue q none (q.recOff i.n) 16) 8 4)

theorem State.jobRecord_pending (hu : (s.part p).ue.cfg = some u) (hq : s.queue u.aq = some q) (hi : q.pendingItem = some i)
    (hcached : u.aq ∈ s.eng.qcache)
    (hring : q.memCs = true ∨ (s.part p).checkRange (q.base.toNat + q.recOff i.n) 16 .r = none) :
    s.jobRecord p = some (u.aq, q, i) := by
  have hread : (s.cached u.aq && (q.memCs || ((s.part p).checkRange (q.base.toNat + q.recOff i.n) 16 .r).isNone)) = true := by
    simpa [State.cached, hcached] using hring
  unfold State.jobRecord
  simp only [hu, hq, hi, hread, if_true]

theorem State.jobHeld_pending {aq : Qid} (hjob : s.jobRecord p = some (aq, q, i)) : s.jobHeld p = s.copyHolds p (s.jobStep q i) := by
  unfold State.jobHeld
  rw [hjob]
  rfl

theorem State.precondPhase2_held (hheld : s.jobHeld p = true) : s.precondPhase2 p = s := by
  unfold State.precondPhase2
  rw [hheld, Bool.or_true, if_pos rfl]

/-- The oldest job of AQ is taken off it and applied. -/
theorem State.precondPhase2_takes {aq : Qid} {d : Shard} (hs : s.Sound) (hfault : s.faulted p = false)
    (hjob : s.jobRecord p = some (aq, q, i)) (hi : q.pendingItem = some i) (hheld : s.jobHeld p = false)
    (hd : (s.part p).ue.shards[fieldLE (s.readQueue q none (q.recOff i.n) 16) 0 2]? = some d) :
    s.precondPhase2 p = (s.setQueue aq (Queue.tidy { q with dpos := i.n + 1 })).applyJob p
      (fieldLE (s.readQueue q none (q.recOff i.n) 16) 0 2) (fieldLE (s.readQueue q none (q.recOff i.n) 16) 4 4) (s.jobStep q i) d := by
  have hitem : q.waitItem = some ⟨Queue.tidy { q with dpos := i.n + 1 }, some i.n, i.ts⟩ := by
    unfold Queue.waitItem
    rw [hi]
  have hd' : ((s.setQueue aq (Queue.tidy { q with dpos := i.n + 1 })).part p).ue.shards[
    fieldLE (s.readQueue q none (q.recOff i.n) 16) 0 2]? = some d := hd
  unfold State.precondPhase2
  simp only [hfault, hheld, hjob, hitem, State.takeQueue_sound hs, hd', Bool.or_self, Bool.false_eq_true, if_false]
  rfl

end

/-- Settles O34: each of the four is taken as its rule says, in memory without errors. -/
theorem enginesTakeWhatIsComplete : Obligations.EnginesTakeWhatIsComplete := by
  refine ⟨?_, ?_, ?_, ?_⟩
  · intro s n r first rest tab ms as order ad gs hs hr hadm hended hmembers hall htab hfree hshare
    have hcomplete : r.complete = true := by simp [Round.complete, hadm, hended, hall]
    have had : ad = r.admission tab first.line := (admitCandidates_eq ..).symm
    have hgs : gs = s.roundSegs r tab ad := rfl
    rw [hgs, had] at hfree
    rw [exec_roundAdmission, State.admitRound_admits hs.1 hr hcomplete (State.routerYields_eq_false hshare) hmembers htab hfree, ← had]
    rfl
  · intro s p hdue hnd t
    refine ⟨pushSlots (decide (t = (s.part p).amaxStep + 1)) (s.part p).amax, get_pushSlots hnd _, ?_⟩
    dsimp only
    rw [exec_amaxPush, State.amaxPush_due hdue]
  · intro s n x d g p t c gin ts taken noticed hecc hx hcfg hd hheard hfirst hfault hcopy hopen
    rw [exec_superblockComplete, State.completeSb_first hx hd hheard hfirst hfault hcopy hopen]
    refine ⟨fun hfrozen => by rw [State.takeSb_frozen hfrozen]; rfl,
      fun hfrozen hnoticed => by rw [State.takeSb_noticed hfrozen hnoticed]; rfl, ?_⟩
    intro cf hfrozen hnoticed hrule hv hreach hclip hfin kept old new squares
    have hdraw : new = newElem c cf g.compact kept gin (s.sbRnd x g.compact) old := by
      funext i
      unfold newElem State.sbRnd
      rw [← State.takeCtx_updRnd]
      rfl
    have hlen : ∀ y ∈ old, y.stamps.length = 32 := fun y hy => State.length_stamps_sbsAt hy
    refine ⟨newSbs c cf g.compact kept gin (s.sbRnd x g.compact) old (t.toNat % 65536), ?_, fun k hk => ?_, ?_⟩
    · rw [length_newSbs, List.length_map]
    · rw [hdraw]
      exact getD_newSbs c cf g.compact kept gin _ hlen _ _ (by rw [List.length_map]; exact hk)
    · have htaken := State.takeSb_updates hecc hcfg hfrozen hnoticed hrule hv hreach hclip hfin
      rw [updateBlocks_all _ _ _ _ _ _ fun y hy => State.length_stamps_sbsAt hy] at htaken
      dsimp only at htaken
      rw [hdraw]
      exact congrArg (fun z => Host.Outcome.next (State.settle z)) htaken
  · intro s p u q i d b shard n t hdr taken reach hs hfault hcfg hu hq hi hd hcached hring
    have hjob := State.jobRecord_pending hu hq hi hcached hring
    have hheld : s.jobHeld p = s.copyHolds p t := State.jobHeld_pending hjob
    rw [exec_precondPhase2]
    refine ⟨fun hcopy => by rw [State.precondPhase2_held (hheld.trans hcopy)], fun hcopy => ?_⟩
    have htakes : s.precondPhase2 p = taken.applyJob p shard n t d := State.precondPhase2_takes hs hfault hjob hi (hheld.trans hcopy) hd
    rw [htakes]
    refine ⟨fun r hr hclosed => ?_, fun halive ⟨hread, hwrite, hsbs⟩ => ?_⟩
    · have hunchanged : (taken.part p).ue.closedUnchanged t = true :=
        (UpdEng.closedUnchanged_of_stepOf hr).trans (by simpa using hclosed)
      rw [State.applyJob_closed hunchanged]
    · obtain ⟨g, hg⟩ := Option.isSome_iff_exists.mp hcfg
      have happly : taken.applyJob p shard n t d =
          if fieldLE hdr 4 1 ≠ 2 ∨ fieldLE hdr 0 4 ≠ t.toNat then taken else taken.jobWritten p shard n t d :=
        State.applyJob_reached (s := taken) hs.2 hg halive hread hwrite fun sb hsb => hsbs g sb hg hsb
      refine ⟨fun hother => by rw [happly, if_pos hother], fun hstate hstep => ?_⟩
      rw [happly, if_neg (not_or.mpr ⟨not_not_intro hstate, not_not_intro hstep⟩)]
      rfl

end Sys2Proof.Machine

/-! Queue commands of a mailbox (10 R219 to R221, R239, 14 R326, R344). Each is a list of checks and what follows when all pass, so its
outcome is read off the first check that fails (`State.guarded_fails`) or off none (`State.guarded_goes`). -/

namespace Sys2Proof.Machine

/-! ### Checks in turn -/

theorem firstFail_append (a b : List (Bool × BitVec 16 × Nat)) : firstFail (a ++ b) = (firstFail a).or (firstFail b) := by
  induction a with
  | nil => rfl
  | cons x a ih =>
    obtain ⟨bad, st, info⟩ := x
    cases bad
    · exact ih
    · rfl

section
variable {s go : State} {m : MbId} {r : MbReq} {q : Queue} {cmd : Nat} {checks : List (Bool × BitVec 16 × Nat)}

theorem State.guarded_goes (h : firstFail checks = none) : s.guarded m checks go = go := by
  rw [State.guarded, h]

theorem State.guarded_fails {st : BitVec 16} {info : Nat} (h : firstFail checks = some (st, info)) :
    s.guarded m checks go = s.respond m st info [] := by
  rw [State.guarded, h]

/-- A request of the right form is executed. -/
theorem State.mbRun_asks {sel : MbReq → Bool} (h : s.Asks m cmd r) (hsel : sel r = true) (f : MbReq → State) :
    s.mbRun m cmd sel f = .next (f r).settle := by
  obtain ⟨hbusy, hcmd, hwait, hfree⟩ := h
  simp [State.mbRun, hbusy, hcmd, hwait, hfree, hsel]

/-- A request whose every check passes does what it asks for. -/
theorem State.mbRun_goes {sel : MbReq → Bool} (h : s.Asks m cmd r) (hsel : sel r = true) {f : MbReq → State}
    (hf : f r = s.guarded m checks go) (hpass : firstFail checks = none) : s.mbRun m cmd sel f = .next go.settle := by
  rw [State.mbRun_asks h hsel, hf, State.guarded_goes hpass]

/-- A request of which a check fails is answered with that check's status and INFO. -/
theorem State.mbRun_fails {sel : MbReq → Bool} (h : s.Asks m cmd r) (hsel : sel r = true) {f : MbReq → State}
    (hf : f r = s.guarded m checks go) {st : BitVec 16} {info : Nat} (hfail : firstFail checks = some (st, info)) :
    s.mbRun m cmd sel f = .next (s.answered m st info []) := by
  rw [State.mbRun_asks h hsel, hf, State.guarded_fails hfail]
  rfl

/-! ### The queue that a request names -/

theorem State.ownQueue_eq_some {o : Nat} (h : s.ownQueue r o = some q) : s.queue (r.qid o) = some q := by
  unfold State.ownQueue at h
  split at h
  · rename_i d hd
    split at h
    · rw [hd, h]
    · cases h
  · cases h

theorem State.ownQueue_of_absent {o : Nat} (h : s.queue (r.qid o) = none) : s.ownQueue r o = none := by
  rw [State.ownQueue, h]

theorem State.ownChecks_pass {o : Nat} (h : s.ownQueue r o = some q) : firstFail (s.ownChecks r o) = none := by
  simp [State.ownChecks, firstFail, h, State.ownQueue_eq_some h]

theorem State.ownChecks_of_absent {o : Nat} (h : s.queue (r.qid o) = none) :
    firstFail (s.ownChecks r o) = some (stNotFound, 0) := by
  simp [State.ownChecks, firstFail, h]

section named
variable (hpart : s.partExists r.part = true) (hqid : r.u 0 4 < 0xFFFF0)
include hpart hqid

theorem State.firstFail_queueNamed : firstFail (s.queueNamed r) = firstFail (s.ownChecks r 0) := by
  have hfit : ¬ 1048576 ≤ r.u 0 4 := by omega
  have hmb : ¬ 1048560 ≤ r.u 0 4 := by omega
  rw [State.queueNamed, firstFail_append]
  simp [firstFail, hfit, hmb, hpart]

theorem State.queueNamed_pass (h : s.ownQueue r 0 = some q) : firstFail (s.queueNamed r) = none :=
  (State.firstFail_queueNamed hpart hqid).trans (State.ownChecks_pass h)

theorem State.queueNamed_of_absent (h : s.queue (r.qid 0) = none) : firstFail (s.queueNamed r) = some (stNotFound, 0) :=
  (State.firstFail_queueNamed hpart hqid).trans (State.ownChecks_of_absent h)

end named

/-! ### QUEUE_CTL -/

section ctl
variable (hop : r.u 0 1 ≤ 3) (hzero : r.u 1 3 = 0)
include hop hzero

theorem State.qctlChecks_pass (hpart : s.partExists r.part = true) (hqid : r.u 4 4 < 0xFFFF0) :
    firstFail (s.qctlChecks r) = none := by
  have hfit : ¬ 1048576 ≤ r.u 4 4 := by omega
  have hmb : ¬ 1048560 ≤ r.u 4 4 := by omega
  simp [State.qctlChecks, MbReq.zero, firstFail, hzero, hop.not_gt, hfit, hmb, hpart]

/-- The queues of the mailboxes themselves are nobody's to make or delete (14 R326). -/
theorem State.qctlChecks_of_mbQueue (hlo : 0xFFFF0 ≤ r.u 4 4) (hhi : r.u 4 4 < 2 ^ 20) :
    firstFail (s.qctlChecks r) = some (stAccess, 0) := by
  have hfit : ¬ 1048576 ≤ r.u 4 4 := by omega
  simp [State.qctlChecks, MbReq.zero, firstFail, hzero, hop.not_gt, hfit, hlo]

end ctl

theorem State.queueChecks_pass (hncq : s.ncqOk q = true) (harea : s.areaOk q = true) : firstFail (s.queueChecks q) = none := by
  simp [State.queueChecks, firstFail, hncq, harea]

theorem State.queue_dropQueue (s : State) (id : Qid) : (s.dropQueue id).queue id = none := by
  simp only [State.queue, State.dropQueue, State.modEng, Smap.get_set_same]

section ctl
variable (h : s.Asks m 0x0107 r) (hpart : s.partExists r.part = true) (hzero : r.u 1 3 = 0) (hqid : r.u 4 4 < 0xFFFF0)
include h hpart hzero hqid

/-- The checks of every QUEUE_CTL pass, so the first of the others decides (10 R220, 12 R278). -/
theorem queueCreate_full {new : Queue} (hop : r.u 0 1 = 0) (hnew : queueOf ((r.payload.drop 8).take 32) = new)
    (hfree : s.queue (r.qid 4) = none) (hlegal : queueBad ((r.payload.drop 8).take 32) (s.isRt r.part) = none)
    (hown : new.part = r.part) (hgroup : s.groupRefuses new = true) :
    exec (.queueCreate m) s = .next (s.answered m stBadField 30 []) := by
  refine State.mbRun_fails h (by simp [hop]) rfl ?_
  simp [firstFail_append, State.qctlChecks_pass (hop.le.trans (by decide)) hzero hpart hqid, firstFail, hfree, hlegal, hnew, hown, hgroup]

theorem queueCreate_enters {new : Queue} (hop : r.u 0 1 = 0) (hnew : queueOf ((r.payload.drop 8).take 32) = new)
    (hfree : s.queue (r.qid 4) = none) (hlegal : queueBad ((r.payload.drop 8).take 32) (s.isRt r.part) = none)
    (hown : new.part = r.part) (hgroup : s.groupRefuses new = false) (hncq : s.ncqOk new = true) (harea : s.areaOk new = true)
    (hpins : (new.pin || s.isRt r.part) = true → s.pinnedQueues < 4096) :
    exec (.queueCreate m) s = .next (((s.setQueue (r.qid 4) new).joinGroup (r.qid 4) new).answered m stOk 0 []) := by
  subst hnew
  refine State.mbRun_goes h (by simp [hop]) rfl ?_
  simpa [firstFail_append, State.qctlChecks_pass (hop.le.trans (by decide)) hzero hpart hqid, firstFail, hfree, hlegal, hown, hgroup,
    State.queueChecks_pass hncq harea] using hpins

theorem queueEnable_sets (hop : r.u 0 1 = 1) (hown : s.ownQueue r 4 = some q) (hncq : s.ncqOk q = true) (harea : s.areaOk q = true) :
    exec (.queueEnable m) s = .next ((s.setQueue (r.qid 4) { q with en := true }).answered m stOk 0 []) := by
  refine State.mbRun_goes h (by simp [hop]) (by rw [hown]) ?_
  rw [firstFail_append, State.qctlChecks_pass (hop.le.trans (by decide)) hzero hpart hqid, State.queueChecks_pass hncq harea]
  rfl

theorem queueEnable_notFound (hop : r.u 0 1 = 1) (hnone : s.queue (r.qid 4) = none) :
    exec (.queueEnable m) s = .next (s.answered m stNotFound 0 []) := by
  refine State.mbRun_fails h (by simp [hop]) (by rw [State.ownQueue_of_absent hnone]) ?_
  rw [firstFail_append, State.qctlChecks_pass (hop.le.trans (by decide)) hzero hpart hqid, State.ownChecks_of_absent hnone]
  rfl

theorem queueDisable_clears (hop : r.u 0 1 = 2) (hown : s.ownQueue r 4 = some q) :
    exec (.queueDisable m) s = .next ((s.setQueue (r.qid 4) { q with en := false }).answered m stOk 0 []) :=
  State.mbRun_goes h (by simp [hop]) (by rw [hown]) (State.qctlChecks_pass (hop.le.trans (by decide)) hzero hpart hqid)

theorem queueDelete_removes (hop : r.u 0 1 = 3) (hown : s.ownQueue r 4 = some q) (hnamed : (q.isCq && s.ncqNames (r.qid 4)) = false) :
    exec (.queueDelete m) s =
      .next (((s.leaveGroup (r.qid 4) q).dropQueue (r.qid 4)).releaseHeld.answered m stOk 0 []) := by
  refine State.mbRun_goes h (by simp [hop]) (by rw [hown]) ?_
  rw [firstFail_append, State.qctlChecks_pass hop.le hzero hpart hqid, hnamed]
  rfl

end ctl

/-! ### QUEUE_DOORBELL and QUEUE_ABORT -/

section named
variable (hpart : s.partExists r.part = true) (hqid : r.u 0 4 < 0xFFFF0) (hown : s.ownQueue r 0 = some q)
include hpart hqid hown

/-- The doorbell of a ring fails its last check alone, when the new DSEQ does not lie from DSEQ to PSEQ. -/
theorem State.doorbell_checks (hring : q.isCq = true ∨ q.isJq = true) (k : Nat) :
    firstFail (s.queueNamed r ++ [(!(q.isCq || q.isJq), stBadField, 0), (decide (32768 ≤ k ∨ q.ppos < q.dpos + k), stBadField, 4)]) =
      if 32768 ≤ k ∨ q.ppos < q.dpos + k then some (stBadField, 4) else none := by
  have hkind : (q.isCq || q.isJq) = true := by simpa using hring
  simp [firstFail_append, State.queueNamed_pass hpart hqid hown, hkind, firstFail]

theorem queueDoorbell_advances (h : s.Asks m 0x0206 r) (hring : q.isCq = true ∨ q.isJq = true)
    (hahead : ahead16 (r.u 4 2) q.dseq < 32768) (hroom : q.dpos + ahead16 (r.u 4 2) q.dseq ≤ q.ppos) :
    exec (.queueDoorbell m) s = .next ((s.setQueue (r.qid 0)
      ({ q with dpos := q.dpos + ahead16 (r.u 4 2) q.dseq }).tidy).answered m stOk 0 []) :=
  State.mbRun_goes h rfl (by rw [hown])
    ((State.doorbell_checks hpart hqid hown hring _).trans (if_neg (not_or.mpr ⟨hahead.not_ge, hroom.not_gt⟩)))

theorem queueDoorbell_badField (h : s.Asks m 0x0206 r) (hring : q.isCq = true ∨ q.isJq = true)
    (hbad : 32768 ≤ ahead16 (r.u 4 2) q.dseq ∨ q.ppos < q.dpos + ahead16 (r.u 4 2) q.dseq) :
    exec (.queueDoorbell m) s = .next (s.answered m stBadField 4 []) :=
  State.mbRun_fails h rfl (by rw [hown]) ((State.doorbell_checks hpart hqid hown hring _).trans (if_pos hbad))

theorem State.abort_checks (hit : List Item) :
    firstFail (s.queueNamed r ++ [(hit.isEmpty, stAlreadyDone, 0)]) = if hit = [] then some (stAlreadyDone, 0) else none := by
  simp [firstFail_append, State.queueNamed_pass hpart hqid hown, firstFail]

theorem queueAbort_cancels (h : s.Asks m 0x0207 r) (hhit : q.abortHits (r.u 4 2) ≠ []) :
    exec (.queueAbort m) s = .next ((s.abortItems (r.qid 0) q (r.u 4 2)).answered m stOk 0
      (bytesLE 2 (firstSeq (q.abortHits (r.u 4 2))) ++ bytesLE 2 (q.abortHits (r.u 4 2)).length)) :=
  State.mbRun_goes h rfl (by rw [hown]) ((State.abort_checks hpart hqid hown _).trans (if_neg hhit))

theorem queueAbort_alreadyDone (h : s.Asks m 0x0207 r) (hnone : q.abortHits (r.u 4 2) = []) :
    exec (.queueAbort m) s = .next (s.answered m stAlreadyDone 0 []) :=
  State.mbRun_fails h rfl (by rw [hown]) ((State.abort_checks hpart hqid hown _).trans (if_pos hnone))

end named

end

/-- Settles O51: every command runs its list of checks, whose outcome the hypotheses of each clause fix. -/
theorem queuesAreMadeReadAndEnded : Obligations.QueuesAreMadeReadAndEnded := by
  unfold Obligations.QueuesAreMadeReadAndEnded
  intro s m r q hpart
  refine ⟨fun h hzero => ⟨fun hop hlo hhi => ⟨fun hcreate => ?_, fun hdelete hown => ?_⟩, fun hqid => ⟨?_, ?_, fun hown => ⟨?_, ?_, ?_⟩, ?_⟩⟩,
    fun hqid => ⟨fun h => ⟨fun hown => ?_, fun hnone => ?_⟩, fun h hown hring => ⟨?_, ?_⟩, fun h hown => ⟨?_, ?_⟩⟩⟩
  · refine State.mbRun_fails h (by simp [MbReq.u, hcreate]) rfl ?_
    rw [List.append_assoc, List.append_assoc, firstFail_append, State.qctlChecks_of_mbQueue hop hzero hlo hhi]
    rfl
  · refine State.mbRun_fails h (by simp [MbReq.u, hdelete]) (by rw [hown]) ?_
    rw [firstFail_append, State.qctlChecks_of_mbQueue hop hzero hlo hhi]
    rfl
  · exact fun hop hfree hlegal hown hgroup => queueCreate_full h hpart hzero hqid hop rfl hfree hlegal hown hgroup
  · exact fun hop hfree hlegal hown hgroup hncq harea hpins =>
      ⟨rfl, rfl, rfl, queueCreate_enters h hpart hzero hqid hop rfl hfree hlegal hown hgroup hncq harea hpins⟩
  · exact fun hop => queueEnable_sets h hpart hzero hqid hop hown
  · exact fun hop => queueDisable_clears h hpart hzero hqid hop hown
  · exact fun hop hnamed => ⟨State.queue_dropQueue .., queueDelete_removes h hpart hzero hqid hop hown hnamed⟩
  · exact fun hop => queueEnable_notFound h hpart hzero hqid hop
  · exact State.mbRun_goes h rfl (by rw [hown]) (State.queueNamed_pass hpart hqid hown)
  · exact State.mbRun_fails h rfl (by rw [State.ownQueue_of_absent hnone]) (State.queueNamed_of_absent hpart hqid hnone)
  · exact queueDoorbell_advances hpart hqid hown h hring
  · exact queueDoorbell_badField hpart hqid hown h hring
  · exact queueAbort_alreadyDone hpart hqid hown h
  · exact queueAbort_cancels hpart hqid hown h

end Sys2Proof.Machine

/-! The stream engine (10 R221 to R233) and the caches (10 R221, 11 R251). An item list and a descriptor list that the statement splits at
the element that changes are changed there alone (`Queue.putItem_split`, `modDesc_split`, `landItems_split`). -/

namespace Sys2Proof.Machine

/-! ### What a store in a queue's area leaves alone -/

theorem State.countWords_eng (k : StackCnt) (ws : List Nat) : ∀ s : State, (s.countWords k ws).eng = s.eng := by
  induction ws with
  | nil => exact fun _ => rfl
  | cons w ws ih => exact fun s => ih _

theorem State.clearWords_eng (ws : List Nat) : ∀ s : State, (s.clearWords ws).eng = s.eng := by
  induction ws with
  | nil => exact fun _ => rfl
  | cons w ws ih => exact fun s => ih _

theorem State.logUe_eng (part source : Nat) (ws : List Nat) : ∀ s : State, (s.logUe part source ws).eng = s.eng := by
  induction ws with
  | nil => exact fun _ => rfl
  | cons w ws ih => exact fun s => ih _

theorem State.writeHbm_eng (s : State) (p : PartId) (va : Nat) (bs : List Byte) : (s.writeHbm p va bs).2.eng = s.eng := by
  unfold State.writeHbm
  dsimp only
  split <;> simp only [State.logUe_eng, State.clearWords_eng, State.countWords_eng]

theorem State.writeCore_eng (s : State) (c : CoreId) (xb : Bool) (a : Nat) (bs : List Byte) : (s.writeCore c xb a bs).2.eng = s.eng := by
  unfold State.writeCore State.countCe
  dsimp only
  split <;> rfl

theorem State.writeQueueCores_eng (a : Nat) (bs : List Byte) (cs : List CoreId) :
    ∀ s : State, (s.writeQueueCores a bs cs).2.eng = s.eng := by
  induction cs with
  | nil => exact fun _ => rfl
  | cons c cs ih => exact fun s => (ih _).trans (s.writeCore_eng c false a bs)

/-- Bytes stored in a queue's area leave the queues, the sessions and the caches. -/
theorem State.writeQueue_eng (s : State) (q : Queue) (off : Nat) (bs : List Byte) : (s.writeQueue q off bs).2.eng = s.eng := by
  unfold State.writeQueue
  split
  · exact State.writeQueueCores_eng ..
  · exact State.writeHbm_eng ..

/-! ### Queues and their items -/

theorem Smap.put_put {α : Type} (m : Smap α) (a : Nat) (v w : α) : (m.put a v).put a w = m.put a w := by
  induction m with
  | nil => simp [Smap.put]
  | cons e t ih =>
    obtain h | h | h := Nat.lt_trichotomy a e.1
    · simp [Smap.put, h]
    · simp [Smap.put, h]
    · simp [Smap.put, h.not_gt, h.ne', ih]

/-- Of two changes of one queue the second stands. -/
theorem State.setQueue_setQueue (s : State) (qid : Qid) (a b : Queue) : (s.setQueue qid a).setQueue qid b = s.setQueue qid b := by
  simp [State.setQueue, State.modEng, Smap.set, Smap.put_put]

theorem State.cached_eq {s : State} {qid : Qid} {q : Queue} (hq : s.queue qid = some q) :
    s.cached qid = decide (qid ∈ s.eng.qcache) := by
  simp [State.cached, hq]

/-- An item that is allocated at or after DSEQ is not cancelled. -/
theorem Queue.alloc_live {q : Queue} {f : Item → Item} (hdpos : q.dpos ≤ q.ppos) (hf : (f (Item.fresh q.ppos)).cancelled = false) :
    q.alloc f = { q with ppos := q.ppos + 1, items := q.items ++ [f (Item.fresh q.ppos)] } := by
  rw [Queue.alloc, decide_eq_false hdpos.not_gt, ← hf]

section items
variable {q : Queue} {before after : List Item} {i : Item}

/-- A change of the items at one position changes the one item that has it. -/
theorem map_items_split (f : Item → Item) (hn : ∀ x ∈ before ++ after, x.n ≠ i.n) :
    (before ++ i :: after).map (fun x => if x.n = i.n then f x else x) = before ++ f i :: after := by
  have keep : ∀ l : List Item, (∀ x ∈ l, x.n ≠ i.n) → l.map (fun x => if x.n = i.n then f x else x) = l := fun l hl =>
    (List.map_congr_left fun x hx => if_neg (hl x hx)).trans (List.map_id' l)
  rw [List.forall_mem_append] at hn
  rw [List.map_append, List.map_cons, if_pos rfl, keep before hn.1, keep after hn.2]

theorem Queue.putItem_split {j : Item} (hitems : q.items = before ++ i :: after) (hn : ∀ x ∈ before ++ after, x.n ≠ i.n)
    (hj : j.n = i.n) : q.putItem j = { q with items := before ++ j :: after } := by
  rw [Queue.putItem, hitems, hj, map_items_split _ hn]

/-- An item that has just been allocated is replaced at the end. -/
theorem Queue.putItem_alloc {q : Queue} {f : Item → Item} {j : Item} (hf : (f (Item.fresh q.ppos)).n = q.ppos)
    (hn : ∀ x ∈ q.items, x.n ≠ q.ppos) (hj : j.n = q.ppos) :
    (q.alloc f).putItem j = { q with ppos := q.ppos + 1, items := q.items ++ [j] } :=
  Queue.putItem_split (before := q.items) (after := [])
    (i := { f (Item.fresh q.ppos) with cancelled := decide (q.ppos < q.dpos) }) rfl
    (fun x hx => by rw [hf]; exact hn x (by simpa using hx)) (hj.trans hf.symm)

/-- The first descriptor not issued, where all before it are. -/
theorem Queue.nextIssue_split {ds es : List Xdesc} {d : Xdesc} (hitems : q.items = before ++ i :: after) (hdescs : i.descs = ds ++ d :: es)
    (hbefore : ∀ x ∈ before, ∀ y ∈ x.descs, y.issued = true) (hds : ∀ y ∈ ds, y.issued = true) (hd : d.issued = false) :
    q.nextIssue = some (i, d) := by
  have hnone : before.findSome? (fun x => (x.descs.find? fun y => !y.issued).map fun y => (x, y)) = none := by
    simpa [List.findSome?_eq_none_iff, List.find?_eq_none] using hbefore
  have hfirst : ds.find? (fun y => !y.issued) = none := by simpa [List.find?_eq_none] using hds
  simp [Queue.nextIssue, hitems, List.findSome?_append, hnone, hdescs, List.find?_append, hfirst, hd]

end items

theorem modDesc_split {sel : Xdesc → Bool} {f : Xdesc → Xdesc} {ds es : List Xdesc} {d : Xdesc} (hds : ∀ y ∈ ds, sel y = false)
    (hd : sel d = true) : modDesc sel f (ds ++ d :: es) = ds ++ f d :: es := by
  induction ds with
  | nil => simp [modDesc, hd]
  | cons y ds ih =>
    rw [List.forall_mem_cons] at hds
    simp [modDesc, hds.1, ih hds.2]

/-! ### Descriptors that are taken (R229, R230) -/

/-- The next descriptor of a prologue list. -/
def State.descBytes (s : State) (l : PrologueList) : List Byte := s.hbm.readVa (s.part l.part) (l.addr.toNat + 32 * l.next) 32

/-- A core's first list has moved on by one descriptor. -/
def State.listMoved (s : State) (c : CoreId) (l : PrologueList) (ls : List PrologueList) : State := s.modStash c fun k => { k with
  lists := if l.next + 1 < l.count then { l with next := l.next + 1 } :: ls else ls }

theorem exec_descriptorTake (c : CoreId) (s : State) : exec (.descriptorTake c) s = .next (s.takeDesc c).settle := rfl

section take
variable {s : State} {c : CoreId} {l : PrologueList} {ls : List PrologueList} {q : Queue} {qid : Qid} {d : Xdesc}

section valid
variable (hs : s.Sound) (hlists : (s.core c).stash.lists = l :: ls)
  (hrange : (s.part l.part).checkRange (l.addr.toNat + 32 * l.next) 32 .r = none)
  (hfit : fieldLE (s.descBytes l) 0 4 < 2 ^ 20) (hqid : BitVec.ofNat 20 (fieldLE (s.descBytes l) 0 4) = qid)
  (hd : Xdesc.ofBytes (s.descBytes l) = d) (hq : s.queue qid = some q) (hpf : q.isPf = true) (hpart : q.part = l.part)
  (hok : s.xdescOk q (s.descBytes l) d = true) (hskip : l.skip = false)
include hs hlists hrange hfit hqid hd hq hpf hpart hok hskip

/-- A valid descriptor waits for its queue's descriptor, and is then posted (10 R221). -/
theorem State.takeDesc_valid : s.takeDesc c =
    if qid ∈ s.eng.qcache then ((s.postDesc c qid q d true false).map fun t => t.listMoved c l ls).getD s else s := by
  unfold State.takeDesc
  rw [hlists]
  simp only [hrange, State.readHbm_clean hs.2]
  unfold State.descBytes at hfit hqid hd hok
  rw [hskip]
  simp only [hqid, hd, hq, hpf, hpart, hok, State.cached_eq hq, Nat.not_le.mpr hfit]
  by_cases hcached : qid ∈ s.eng.qcache
  · simp only [hcached]
    cases s.postDesc c qid q d true false with
    | none => simp
    | some t => simp [State.listMoved, hskip]
  · simp [hcached]

end valid

/-- A valid descriptor goes into the open item of its queue, which is a new one where none is open. -/
theorem State.postDesc_posts {q1 : Queue} {j : Item} (hdrain : q.drainOpen = false)
    (hroom : (q.items.find? fun i => !i.closed).isNone = true → q.room = true)
    (hq1 : (if (q.items.find? fun i => !i.closed).isNone then q.alloc fun i => { i with full := true, ts := s.aon.time } else q) = q1)
    (hj : q1.items.find? (fun i => !i.closed) = some j) (hlive : j.cancelled = false) :
    s.postDesc c qid q d true false = some (s.setQueue qid (q1.putItem { j with
      descs := j.descs ++ [d], closed := d.last, bytes := j.bytes + d.len, fed := c :: j.fed.erase c })) := by
  have hfull : ((q.items.find? fun i => !i.closed).isNone && !q.room) = false := by
    rw [Bool.and_eq_false_imp]
    exact fun h => by rw [hroom h]; rfl
  unfold State.postDesc
  dsimp only
  rw [hdrain, hfull, hq1, hj]
  simp [hlive]

theorem State.postDesc_joins {i : Item} (hdrain : q.drainOpen = false) (hopen : q.items.find? (fun i => !i.closed) = some i)
    (hlive : i.cancelled = false) : s.postDesc c qid q d true false = some (s.setQueue qid (q.putItem { i with
      descs := i.descs ++ [d], closed := d.last, bytes := i.bytes + d.len, fed := c :: i.fed.erase c })) :=
  State.postDesc_posts hdrain (by simp [hopen]) (by simp [hopen]) hopen hlive

theorem State.postDesc_opens (hdrain : q.drainOpen = false) (hclosed : ∀ i ∈ q.items, i.closed = true ∧ i.n < q.ppos)
    (hroom : q.room = true) (hdpos : q.dpos ≤ q.ppos) : s.postDesc c qid q d true false = some (s.setQueue qid { q with
      ppos := q.ppos + 1
      items := q.items ++ [({ Item.fresh q.ppos with
        full := true, ts := s.aon.time, descs := [d], closed := d.last, bytes := d.len, fed := [c] })] }) := by
  have hnone : q.items.find? (fun i => !i.closed) = none := by
    simpa [List.find?_eq_none] using fun i hi => (hclosed i hi).1
  have hnew : (q.alloc fun i => { i with full := true, ts := s.aon.time }).items.find? (fun i => !i.closed) =
      some { Item.fresh q.ppos with full := true, ts := s.aon.time } := by
    rw [Queue.alloc_live hdpos rfl]
    simp [hnone, Item.fresh]
  rw [State.postDesc_posts hdrain (fun _ => hroom) (if_pos (by simp [hnone])) hnew rfl,
    Queue.putItem_alloc rfl (fun x hx => (hclosed x hx).2.ne) rfl]
  simp [Item.fresh]

end take

/-! ### Descriptors that are issued (R231, R233) -/

theorem exec_descriptorIssue (qid : Qid) (s : State) : exec (.descriptorIssue qid) s = .next (s.issueDesc qid).settle := rfl

/-- How the source of a descriptor is asked for: not at all where this module holds it, else over the session with its module. -/
theorem State.askPeer_eq {s t : State} {p : PartId} {qid : Qid} {d : Xdesc}
    (h : t = s ∧ (d.kind = 0 ∨ d.smod = s.moduleId) ∨
      ∃ n b, d.kind ≠ 0 ∧ d.smod ≠ s.moduleId ∧ s.needSess p d.smod = (some n, b) ∧ t = (b.sendList n fun k => readPackets k qid d).2) :
    s.askPeer p qid d = (true, t) := by
  unfold State.askPeer
  obtain ⟨rfl, hown⟩ | ⟨n, b, hkind, hmod, hsess, rfl⟩ := h
  · rw [if_pos hown]
  · rw [if_neg (not_or.mpr ⟨hkind, hmod⟩), hsess]

/-- A queue that can issue has its turn when no partition within its share waits before it and its channel is next. -/
theorem State.issueTurn_of {s : State} {q : Queue} (hcan : q.canIssue = true)
    (hshare : ∀ j r, s.queue j = some r → s.streamWants true r = true → s.inShare pointStream streamCap q.part = true)
    (hturn : ∀ j r, s.queue j = some r → s.streamWants (s.inShare pointStream streamCap q.part) r = true →
      chanAfter (s.eng.lastChan.get 23 (if s.inShare pointStream streamCap q.part then 0 else 1)) q.channel ≤
        chanAfter (s.eng.lastChan.get 23 (if s.inShare pointStream streamCap q.part then 0 else 1)) r.channel) :
    s.issueTurn q = true := by
  unfold State.issueTurn
  dsimp only
  rw [hcan, Bool.true_and, List.all_eq_true]
  intro j _
  cases hj : s.queue j with
  | none => rfl
  | some r =>
    have hahead := (Bool.eq_false_or_eq_true (s.streamWants true r)).symm.imp_right (hshare j r hj)
    have hlater := hturn j r hj
    generalize s.inShare pointStream streamCap q.part = share at hahead hlater ⊢
    dsimp only
    by_cases hw : s.streamWants share r = true
    · have hle := (hlater hw).not_gt
      simpa [hle] using hahead
    · simpa [hw] using hahead

section issue
variable {s t : State} {qid : Qid} {q : Queue} {before after : List Item} {i : Item} {ds es : List Xdesc} {d : Xdesc}

/-- The first descriptor not issued is issued when its queue has its turn. -/
theorem State.issueDesc_issues (hq : s.queue qid = some q) (hitems : q.items = before ++ i :: after) (hdescs : i.descs = ds ++ d :: es)
    (hn : ∀ x ∈ before ++ after, x.n ≠ i.n) (hturn : s.issueTurn q = true) (hcached : qid ∈ s.eng.qcache)
    (hnext : q.nextIssue = some (i, d)) (hds : ∀ y ∈ ds, y.issued = true) (hd : d.issued = false)
    (hask : s.askPeer q.part qid d = (true, t)) :
    s.issueDesc qid = ((t.setQueue qid { q with
        items := before ++ { i with descs := ds ++ { d with issued := true, maps := t.descMaps q i.n d } :: es } :: after }).useShare
        pointStream q.part d.len).modEng
      fun e => { e with lastChan := e.lastChan.set 23 (if s.inShare pointStream streamCap q.part then 0 else 1) q.channel } := by
  have hput := Queue.putItem_split (j := { i with
    descs := modDesc (fun d => !d.issued) (fun d => { d with issued := true, maps := t.descMaps q i.n d }) i.descs }) hitems hn rfl
  rw [hdescs, modDesc_split (by simpa using hds) (by simp [hd])] at hput
  unfold State.issueDesc
  simp only [hq, hturn, State.cached_eq hq, hcached, hnext, hask, decide_true, Bool.and_self, if_true]
  rw [hdescs, modDesc_split (by simpa using hds) (by simp [hd]), hput]

end issue

/-! ### Descriptors that land (R229) -/

theorem exec_transferLanded (qid : Qid) (n : Nat) (data : List Byte) (refused : Bool) (s : State) :
    exec (.transferLanded qid n data refused) s = .next (s.landDesc qid n data refused).settle := rfl

/-- Descriptors of a list that are issued and have not landed. -/
def flyingIn (l : List Xdesc) : Nat := (l.filter fun x => x.issued && !x.landed).length

section land
variable {q : Queue} {before after : List Item} {i : Item} {ds es : List Xdesc} {d : Xdesc}

theorem landList_split (hd : (d.issued && !d.landed) = true) :
    landList (flyingIn ds) (ds ++ d :: es) = ds ++ { d with landed := true } :: es := by
  induction ds with
  | nil => simp [landList, flyingIn, hd]
  | cons y ds ih =>
    unfold flyingIn at ih
    by_cases hy : (y.issued && !y.landed) = true
    · simp [landList, flyingIn, hy, ih]
    · simp [landList, flyingIn, hy, ih]

theorem landItems_cons (k : Nat) (x : Item) (xs : List Item) : landItems k (x :: xs) =
    if k < flyingIn x.descs then { x with descs := landList k x.descs } :: xs else x :: landItems (k - flyingIn x.descs) xs := rfl

theorem landItems_split (hdescs : i.descs = ds ++ d :: es) (hd : (d.issued && !d.landed) = true) :
    landItems ((before.map fun x => flyingIn x.descs).sum + flyingIn ds) (before ++ i :: after) =
      before ++ { i with descs := ds ++ { d with landed := true } :: es } :: after := by
  induction before with
  | nil =>
    have hlt : flyingIn ds < flyingIn i.descs := by simp [flyingIn, hdescs, hd]
    rw [List.map_nil, List.sum_nil, Nat.zero_add, List.nil_append, landItems_cons, if_pos hlt, hdescs, landList_split hd, List.nil_append]
  | cons x before ih =>
    rw [List.map_cons, List.sum_cons, Nat.add_assoc, List.cons_append, landItems_cons, if_neg (by omega), Nat.add_sub_cancel_left, ih,
      List.cons_append]

theorem Queue.flying_split (hitems : q.items = before ++ i :: after) (hdescs : i.descs = ds ++ d :: es)
    (hd : (d.issued && !d.landed) = true) :
    q.flying[(before.map fun x => flyingIn x.descs).sum + flyingIn ds]? = some (i.n, d) := by
  have hbefore : (before.flatMap fun x => (x.descs.filter fun d => d.issued && !d.landed).map fun d => (x.n, d)).length =
      (before.map fun x => flyingIn x.descs).sum := by simp [List.length_flatMap, flyingIn]
  rw [Queue.flying, hitems, List.flatMap_append, List.getElem?_append_right (by omega), hbefore, Nat.add_sub_cancel_left,
    List.flatMap_cons, hdescs]
  simp [List.filter_append, hd, flyingIn]

end land

theorem State.modPart_restores {s : State} {p : PartId} {f g : Partition → Partition} (h : g (f (s.part p)) = s.part p) :
    (s.modPart p f).modPart p g = s := by
  have hsame : s.parts.set p (s.part p) = s.parts := by simp [State.part]
  simp only [State.modPart, State.part_setPart_same, h]
  simp only [State.setPart, Vector.set_set, hsame]

/-- A read under translations given earlier, in memory without errors, finds their bytes and changes nothing (11 R252). -/
theorem State.underMaps_read {s : State} (hs : s.Sound) (p : PartId) (maps : List (Nat × Pte)) (va n : Nat) :
    s.underMaps p maps (fun z => z.readHbm p va n) = (some (s.hbm.readVa ((s.part p).under maps) va n), s) := by
  have hclean : (s.modPart p fun q => q.under maps).hbm.ecc = [] := hs.2
  have hback := State.modPart_restores (s := s) (p := p) (f := fun q => q.under maps)
    (g := fun q => { q with l1 := (s.part p).l1, pages := (s.part p).pages }) rfl
  unfold State.underMaps
  dsimp only
  rw [State.readHbm_clean hclean, hback, State.part_modPart_same]
  rfl

/-- A store under translations given earlier leaves the queues. -/
theorem State.queue_underMaps_write (s : State) (p : PartId) (maps : List (Nat × Pte)) (q : Queue) (off : Nat) (bs : List Byte)
    (qid : Qid) : (s.underMaps p maps fun z => z.writeQueue q off bs).2.queue qid = s.queue qid := by
  unfold State.underMaps State.queue
  rw [State.modPart_eng, State.writeQueue_eng]
  rfl

section land
variable {s : State} {qid : Qid} {q : Queue} {before after : List Item} {i : Item} {ds es : List Xdesc} {d : Xdesc}
  (hq : s.queue qid = some q) (hitems : q.items = before ++ i :: after) (hdescs : i.descs = ds ++ d :: es)
  (hissued : d.issued = true) (hflying : d.landed = false)
include hq hitems hdescs hissued hflying

/-- A descriptor of which no read is refused lands with its bytes (11 R252, 13 R296). -/
theorem State.landDesc_lands (hs : s.Sound) {data : List Byte} {refused : Bool}
    (hgranted : d.kind ≠ 0 → if d.smod = s.moduleId then ((s.part q.part).under d.maps).checkRange d.saddr.toNat d.len .pr = none
      else refused = false)
    {bytes : List Byte} (hbytes : (if d.kind = 0 ∨ d.smod = s.moduleId then s.hbm.readVa ((s.part q.part).under d.maps) d.saddr.toNat d.len
      else padTo d.len data) = bytes)
    (hw : (s.underMaps q.part d.maps fun z => z.writeQueue q (q.slotOff i.n + d.dofs) bytes).1 = true) :
    s.landDesc qid ((before.map fun x => flyingIn x.descs).sum + flyingIn ds) data refused =
      (s.underMaps q.part d.maps fun z => z.writeQueue q (q.slotOff i.n + d.dofs) bytes).2.setQueue qid
        { q with items := before ++ { i with descs := ds ++ { d with landed := true } :: es } :: after } := by
  have hd : (d.issued && !d.landed) = true := by simp [hissued, hflying]
  have hland := landItems_split (before := before) (after := after) hdescs hd
  have hstored := (s.queue_underMaps_write q.part d.maps q (q.slotOff i.n + d.dofs) bytes qid).trans hq
  have hnot : ¬(d.kind ≠ 0 ∧ (if (d.smod == s.moduleId) = true then
      (((s.part q.part).under d.maps).checkRange d.saddr.toNat d.len .pr).isSome else refused) = true) := by
    rintro ⟨hkind, h⟩
    have hg := hgranted hkind
    by_cases hmod : d.smod = s.moduleId <;> simp_all
  unfold State.landDesc
  simp only [hq, Queue.flying_split hitems hdescs hd]
  rw [if_neg hnot]
  by_cases hown : d.kind = 0 ∨ d.smod = s.moduleId
  · rw [if_pos hown] at hbytes
    simp only [beq_iff_eq, hown, if_true, State.underMaps_read hs, hbytes, hw, hstored, hitems, hland]
  · rw [if_neg hown] at hbytes
    simp only [beq_iff_eq, hown, if_false, hbytes, hw, if_true, hstored, hitems, hland]

/-- A refused read cancels the descriptor's item, which will report it (13 R296). -/
theorem State.landDesc_refused (hn : ∀ x ∈ before ++ after, x.n ≠ i.n) {data : List Byte} {refused : Bool}
    (hrefused : ¬(d.kind ≠ 0 → if d.smod = s.moduleId then ((s.part q.part).under d.maps).checkRange d.saddr.toNat d.len .pr = none
      else refused = false)) :
    s.landDesc qid ((before.map fun x => flyingIn x.descs).sum + flyingIn ds) data refused =
      (s.setQueue qid { q with
        items := before ++ { i with descs := ds ++ { d with landed := true } :: es, refused := true } :: after }).cancelItems qid
          fun j => j.n == i.n := by
  have hd : (d.issued && !d.landed) = true := by simp [hissued, hflying]
  have hland := landItems_split (before := before) (after := after) hdescs hd
  have hmap := map_items_split (before := before) (after := after) (i := { i with descs := ds ++ { d with landed := true } :: es })
    (fun x => { x with refused := true }) hn
  have hbad : d.kind ≠ 0 ∧ (if (d.smod == s.moduleId) = true then
      (((s.part q.part).under d.maps).checkRange d.saddr.toNat d.len .pr).isSome else refused) = true := by
    obtain ⟨hkind, h⟩ := Classical.not_imp.mp hrefused
    refine ⟨hkind, ?_⟩
    by_cases hmod : d.smod = s.moduleId
    · simpa [hmod, Option.isSome_iff_ne_none] using h
    · simpa [hmod] using h
  unfold State.landDesc
  simp only [hq, Queue.flying_split hitems hdescs hd]
  rw [if_pos hbad, State.refuseItem]
  simp only [State.queue_setQueue_same, hitems, hland, State.setQueue_setQueue]
  rw [hmap]

end land

/-! ### Items that pass (R223, R227) -/

theorem exec_itemComplete (qid : Qid) (s : State) : exec (.itemComplete qid) s = .next (s.passItem qid).settle := rfl

/-- A queue whose oldest item has passed at a time. -/
def Queue.passing (q : Queue) (i : Item) (ts : BitVec 64) : Queue := Queue.tidy { q.putItem { i with passed := true, ts := ts } with
  cpos := q.cpos + 1, dpos := (if q.posted then max q.dpos (q.cpos + 1) else q.dpos), lastTs := ts }

section pass
variable {s : State} {qid : Qid} {q : Queue} {i : Item} (hq : s.queue qid = some q) (hi : q.item q.cpos = some i)
include hq hi

theorem State.passItem_waits (hcached : qid ∉ s.eng.qcache) : s.passItem qid = s := by
  unfold State.passItem
  simp [hq, hi, State.cached_eq hq, hcached]

variable (hready : i.ready = true) (hpassed : i.passed = false) (hcached : qid ∈ s.eng.qcache)
include hready hpassed hcached

theorem State.passItem_silent (hncq : q.ncqEn = false) :
    s.passItem qid = s.setQueue qid (q.passing i (if q.isRxf then i.ts else s.aon.time)) := by
  unfold State.passItem
  simp only [hq, hi, State.cached_eq hq, hcached, hready, hpassed, hncq]
  simp [Queue.passing, Queue.putItem]

/-- With NCQ enabled its record is stored first. -/
theorem State.passItem_recorded {t : State} (hncq : q.ncqEn = true) (hkind : (q.isRxf || q.isPf) = true)
    (hncached : q.ncq ∈ s.eng.qcache) {r : Queue} (hr : s.queue q.ncq = some r)
    (hpost : s.postRecord q.ncq (itemRecord q i (if q.isRxf then i.ts else s.aon.time)) = (true, true, t)) (ht : t.queue qid = some q) :
    s.passItem qid = t.setQueue qid (q.passing i (if q.isRxf then i.ts else s.aon.time)) := by
  unfold State.passItem
  simp only [hq, hi, State.cached_eq hq, State.cached_eq hr, hcached, hncached, hready, hpassed, hncq, hkind, hr, hpost, ht]
  simp [Queue.passing, Queue.putItem]

end pass

/-! ### The caches (R221, 11 R251, R258) -/

theorem State.clearWords_clean {s : State} (h : s.hbm.ecc = []) (ws : List Nat) : s.clearWords ws = s := by
  induction ws with
  | nil => rfl
  | cons w ws ih =>
    have hset : s.hbm.ecc.set Ecc.good w Ecc.good = s.hbm.ecc := by rw [h]; rfl
    rw [State.clearWords, hset]
    exact ih

theorem State.readOwn_clean {s : State} (h : s.hbm.ecc = []) (ws : List Nat) : s.readOwn ws = (true, s) := by
  have hnone : ∀ e : Ecc, e ≠ .good → ws.filter (fun w => s.hbm.ecc.get .good w == e) = [] := fun e he => by
    simpa [h, Smap.get] using fun _ _ => he.symm
  unfold State.readOwn
  rw [hnone .single (by decide), hnone .double (by decide)]
  rfl

/-- An uncorrectable codeword of a table is logged and is a fatal error. -/
theorem State.readOwn_double {s : State} {ws : List Nat} (hdouble : ∃ w ∈ ws, s.hbm.ecc.get .good w = .double)
    (hsingle : ∀ w ∈ ws, s.hbm.ecc.get .good w ≠ .single) : s.readOwn ws =
      (false, (s.logUe srcNone 0 (ws.filter fun w => s.hbm.ecc.get .good w == .double)).fatalError .regulatorHbm) := by
  have hce : ws.filter (fun w => s.hbm.ecc.get .good w == .single) = [] := by simpa using hsingle
  have hue : (ws.filter fun w => s.hbm.ecc.get .good w == .double).isEmpty = false := by simpa using hdouble
  unfold State.readOwn
  dsimp only
  rw [hce, hue]
  rfl

theorem State.isRt_countPart (s : State) (p : PartId) (k : PartCnt) (n : Nat) (x : PartId) : (s.countPart p k n).isRt x = s.isRt x := by
  have hcfg : ((s.countPart p k n).part x).cfg = (s.part x).cfg := by
    by_cases hx : x = p
    · subst hx; rw [State.countPart, State.part_modPart_same]
    · rw [State.countPart, State.part_modPart_other _ _ _ _ hx]
  rw [State.isRt, State.isRt, hcfg]

theorem State.pinned_countPart (s : State) (p : PartId) (k : PartCnt) (n : Nat) : (s.countPart p k n).pinned = s.pinned := by
  funext qid
  unfold State.pinned
  simp only [State.isRt_countPart]
  rfl

/-- A descriptor that is evicted carries no error to clear. -/
theorem State.enterDesc_clean {s : State} (h : s.hbm.ecc = []) (qid : Qid) : s.enterDesc qid =
    s.freeNext.modEng fun e => { e with qcache := qid :: evict 16384 s.freeVal s.pinned e.qcache } := by
  unfold State.enterDesc
  simp only [State.clearWords_clean h]
  split <;> rfl

theorem descriptorCacheFill_cached {s : State} {qid : Qid} {q : Queue} (hq : s.queue qid = some q) (hcached : qid ∈ s.eng.qcache) :
    exec (.descriptorCacheFill qid) s = .next s := by
  change execDescriptorCacheFill qid s = _
  simp [execDescriptorCacheFill, hq, hcached]

section fill
variable {s z : State} {qid : Qid} {q : Queue} (hq : s.queue qid = some q) (hcached : qid ∉ s.eng.qcache)
include hq hcached

theorem descriptorCacheFill_reads (h : (s.countPart q.part .qdMiss 1).readOwn [descWord qid] = (true, z)) :
    exec (.descriptorCacheFill qid) s = .next (z.enterDesc qid).releaseHeld.settle := by
  change execDescriptorCacheFill qid s = _
  simp [execDescriptorCacheFill, hq, hcached, h]

theorem descriptorCacheFill_fails (h : (s.countPart q.part .qdMiss 1).readOwn [descWord qid] = (false, z)) :
    exec (.descriptorCacheFill qid) s = .next z := by
  change execDescriptorCacheFill qid s = _
  simp [execDescriptorCacheFill, hq, hcached, h]

end fill

theorem translationWalk_cached {s : State} {p : PartId} {vpn : BitVec 27} (hcached : (p, vpn.toNat) ∈ s.eng.tlb) :
    exec (.translationWalk p vpn) s = .next s := by
  change execTranslationWalk p vpn s = _
  simp [execTranslationWalk, hcached]

section walk
variable {s z : State} {p : PartId} {vpn : BitVec 27} (hcached : (p, vpn.toNat) ∉ s.eng.tlb)
include hcached

theorem translationWalk_reads (h : (s.countPart p .tlbMiss 1).readOwn (s.walkWords p vpn.toNat) = (true, z)) {e : Pte}
    (he : (s.part p).pages.get none vpn.toNat = some e) :
    exec (.translationWalk p vpn) s = .next (z.freeNext.modEng fun g =>
      { g with tlb := (p, vpn.toNat) :: evict 8192 z.freeVal (fun x => s.isRt x.1) g.tlb }).settle := by
  change execTranslationWalk p vpn s = _
  simp [execTranslationWalk, hcached, h, he]

theorem translationWalk_unmapped (h : (s.countPart p .tlbMiss 1).readOwn (s.walkWords p vpn.toNat) = (true, z))
    (he : (s.part p).pages.get none vpn.toNat = none) : exec (.translationWalk p vpn) s = .next z := by
  change execTranslationWalk p vpn s = _
  simp [execTranslationWalk, hcached, h, he]

theorem translationWalk_fails (h : (s.countPart p .tlbMiss 1).readOwn (s.walkWords p vpn.toNat) = (false, z)) :
    exec (.translationWalk p vpn) s = .next z := by
  change execTranslationWalk p vpn s = _
  simp [execTranslationWalk, hcached, h]

end walk

/-- Settles O33, clause by clause from the lemmas above. -/
theorem descriptorsFillTheirItems : Obligations.DescriptorsFillTheirItems := by
  unfold Obligations.DescriptorsFillTheirItems
  refine ⟨?_, ?_, ?_, fun s => ⟨?_, ?_⟩⟩
  · intro s c l ls q va b qid d on hs hlists hrange hfit hq hpf hpart hok hskip hdrain
    have htake : s.takeDesc c = if qid ∈ s.eng.qcache then ((s.postDesc c qid q d true false).map on).getD s else s :=
      State.takeDesc_valid hs hlists hrange hfit rfl rfl hq hpf hpart hok hskip
    rw [exec_descriptorTake, htake]
    refine ⟨fun hcached => by rw [if_neg hcached], fun hcached => ⟨fun i hopen hlive => ?_, fun hclosed hroom hdpos => ?_⟩⟩
    · rw [if_pos hcached, State.postDesc_joins hdrain hopen hlive]
      rfl
    · rw [if_pos hcached, State.postDesc_opens hdrain hclosed hroom hdpos]
      rfl
  · intro s qid q before after i ds es d hq hitems hdescs hn
    refine ⟨?_, ?_⟩
    · intro t hpf hmax hbefore hds hd hfree hcached share kind last hshare hturn hask
      have hnext := Queue.nextIssue_split hitems hdescs hbefore hds hd
      have hcan : q.canIssue = true := by simp [Queue.canIssue, hpf, hmax, hnext, hfree]
      rw [exec_descriptorIssue, State.issueDesc_issues hq hitems hdescs hn (State.issueTurn_of hcan hshare hturn) hcached hnext hds hd
        (State.askPeer_eq hask)]
    · intro data refused flying own then_ bytes w granted lands hs hissued hflying
      exact ⟨fun hgranted hw => congrArg (fun z => Host.Outcome.next (State.settle z))
          (State.landDesc_lands hq hitems hdescs hissued hflying hs hgranted rfl hw),
        fun hrefused => congrArg (fun z => Host.Outcome.next (State.settle z))
          (State.landDesc_refused hq hitems hdescs hissued hflying hn hrefused)⟩
  · intro s qid q i hq hi hready hpassed
    refine ⟨fun hcached => by rw [exec_itemComplete, State.passItem_waits hq hi hcached],
      fun hcached hncq => by rw [exec_itemComplete, State.passItem_silent hq hi hready hpassed hcached hncq]; rfl, ?_⟩
    intro r hcached hncached hncq hkind hother hr hdepth hroom w hw
    have hpost := State.postRecord_eq (f := itemRecord q i (if q.isRxf then i.ts else s.aon.time)) hr hroom (by rw [if_neg hdepth]) hw
    rw [exec_itemComplete, State.passItem_recorded hq hi hready hpassed hcached hncq hkind hncached hr hpost ?_]
    · rfl
    · rw [State.queue_setQueue_other _ _ _ _ hother.symm, State.queue, State.writeQueue_eng]
      exact hq
  · intro qid q hq missed
    refine ⟨descriptorCacheFill_cached hq, fun hcached hecc => ?_, fun hcached hdouble => ?_⟩
    · have hclean : missed.hbm.ecc = [] := hecc
      rw [descriptorCacheFill_reads hq hcached (State.readOwn_clean hclean _), State.enterDesc_clean hclean, State.pinned_countPart]
      rfl
    · have hread := State.readOwn_double (s := missed) (ws := [descWord qid]) ⟨_, List.mem_singleton_self _, hdouble⟩ fun w hw => by
        rw [List.mem_singleton.mp hw]
        exact ne_of_eq_of_ne hdouble (by decide)
      rw [descriptorCacheFill_fails hq hcached hread]
      simp [missed, hdouble]
  · intro p vpn missed
    refine ⟨translationWalk_cached, fun hcached hecc => ?_, fun hcached hdouble hsingle => ?_⟩
    · have hread := State.readOwn_clean (s := missed) hecc (s.walkWords p vpn.toNat)
      exact ⟨fun e he => translationWalk_reads hcached hread he, translationWalk_unmapped hcached hread⟩
    · exact translationWalk_fails hcached (State.readOwn_double (s := missed) hdouble hsingle)

end Sys2Proof.Machine

/-! What no operation but `State.refuse` does: note a refusal on a session (log 23). Sending on a session, closing sessions, a partition
fault and the loss of a peer leave each session's refusals as they are, or take the session away. -/

namespace Sys2Proof.Machine

/-- The packets of a session that wait for the acknowledgement of their refusal, with its message number; none without the session. -/
def State.refusedOn (s : State) (i : Nat) : List (BitVec 32 × BitVec 32) := (s.sess i).elim [] Session.refusing

/-- Every refusal that a session of `t` waits for it waits for in `s`. -/
structure NoNewRefusal (s t : State) : Prop where
  sub : ∀ i, t.refusedOn i ⊆ s.refusedOn i

namespace NoNewRefusal

theorem refl (s : State) : NoNewRefusal s s := ⟨fun _ => List.Subset.refl _⟩

theorem trans {r s t : State} (h : NoNewRefusal r s) (k : NoNewRefusal s t) : NoNewRefusal r t :=
  ⟨fun i => List.Subset.trans (k.sub i) (h.sub i)⟩

/-- A change that leaves the sessions. -/
theorem of_sessions {s t : State} (h : t.eng.sessions = s.eng.sessions) : NoNewRefusal s t := by
  refine ⟨fun i => ?_⟩
  rw [State.refusedOn, State.refusedOn, State.sess, State.sess, h]
  exact List.Subset.refl _

theorem congr_left {r s t : State} (k : NoNewRefusal s t) (h : s.eng.sessions = r.eng.sessions) : NoNewRefusal r t :=
  (of_sessions h).trans k

theorem congr_right {r s t : State} (h : NoNewRefusal r s) (k : t.eng.sessions = s.eng.sessions) : NoNewRefusal r t :=
  h.trans (of_sessions k)

/-- A session is entered with no more refusals than it had. -/
theorem setSess {s : State} {i : Nat} {d : Session} (h : d.refusing ⊆ s.refusedOn i) : NoNewRefusal s (s.setSess i (some d)) := by
  refine ⟨fun j => ?_⟩
  by_cases hj : j = i
  · subst hj
    rw [State.refusedOn, State.sess_setSess_same]
    exact h
  · rw [State.refusedOn, State.sess_setSess_other _ _ _ _ hj]
    exact List.Subset.refl _

theorem setSess_same {s : State} {i : Nat} {d e : Session} (hd : s.sess i = some d) (h : e.refusing = d.refusing) :
    NoNewRefusal s (s.setSess i (some e)) :=
  setSess (by rw [State.refusedOn, hd, h]; exact List.Subset.refl _)

theorem setSess_none (s : State) (i : Nat) : NoNewRefusal s (s.setSess i none) := by
  refine ⟨fun j => ?_⟩
  by_cases hj : j = i
  · subst hj
    rw [State.refusedOn, State.sess_setSess_same]
    exact List.nil_subset _
  · rw [State.refusedOn, State.sess_setSess_other _ _ _ _ hj]
    exact List.Subset.refl _

theorem foldl {α : Type} {f : State → α → State} (h : ∀ t x, NoNewRefusal t (f t x)) (l : List α) :
    ∀ s : State, NoNewRefusal s (l.foldl f s) := by
  induction l with
  | nil => exact refl
  | cons x l ih => exact fun s => (h s x).trans (ih _)

/-- A packet that a session of `s` has not refused is refused in `t` neither. -/
theorem not_refuses {s t : State} (h : NoNewRefusal s t) {i : Nat} {d : Session} {psn : BitVec 32} (hd : s.sess i = some d)
    (hnot : d.refuses psn = false) : (t.sess i).any (fun e => e.refuses psn) = false := by
  have hsub := h.sub i
  rw [State.refusedOn, State.refusedOn, hd] at hsub
  cases he : t.sess i with
  | none => rfl
  | some e =>
    rw [he] at hsub
    simp only [Session.refuses, List.any_eq_false, Option.any_some] at hnot ⊢
    exact fun r hr => hnot r (hsub hr)

end NoNewRefusal

/-! ### Sending -/

theorem State.txPkt_eng (s : State) (p : PartId) (k : Pkt) : (s.txPkt p k).eng = s.eng := by
  unfold State.txPkt
  split <;> rfl

theorem NoNewRefusal.txPkt (s : State) (p : PartId) (k : Pkt) : NoNewRefusal s (s.txPkt p k) :=
  of_sessions (by rw [State.txPkt_eng])

theorem NoNewRefusal.emit {s : State} {i : Nat} {d : Session} (h : d.refusing ⊆ s.refusedOn i) (k : Pkt) :
    NoNewRefusal s (s.emit i d k) := by
  unfold State.emit
  split
  · refine (setSess ?_).trans (txPkt ..)
    exact h
  · refine (setSess ?_).trans (txPkt ..)
    exact h

theorem NoNewRefusal.pump (i n : Nat) : ∀ s : State, NoNewRefusal s (s.pump i n) := by
  induction n with
  | zero => exact refl
  | succ n ih =>
    intro s
    rw [State.pump]
    split
    · exact refl s
    · next d hd =>
      split
      · exact refl s
      · split
        · refine (emit ?_ _).trans (ih _)
          rw [State.refusedOn, hd]
          exact List.Subset.refl _
        · exact refl s

theorem NoNewRefusal.send (s : State) (i : Nat) (ks : List Pkt) : NoNewRefusal s (s.send i ks) := by
  unfold State.send
  split
  · exact refl s
  · next d hd => exact (setSess_same hd (by rfl)).trans (pump ..)

theorem NoNewRefusal.sendList (s : State) (i : Nat) (mk : Pkt → List Pkt) : NoNewRefusal s (s.sendList i mk).2 := by
  unfold State.sendList
  split
  · exact refl s
  · next d hd => exact (setSess_same hd (by rfl)).trans (send ..)

theorem NoNewRefusal.sendNotice (s : State) (i kind : Nat) (step : BitVec 32) (body : List Byte) :
    NoNewRefusal s (s.sendNotice i kind step body) := by
  unfold State.sendNotice
  split
  · exact refl s
  · exact send ..

/-- A new session has refused nothing. -/
theorem NoNewRefusal.newSess {s z : State} {p : PartId} {m : BitVec 14} {h : Option (Fin 64)} {relay : Bool} {n : Option (Nat × Session)}
    (hn : s.newSess p m h relay = (n, z)) : NoNewRefusal s z ∧ ∀ i d, n = some (i, d) → d.refusing = [] := by
  unfold State.newSess at hn
  split at hn
  · obtain ⟨rfl, rfl⟩ := Prod.mk.inj hn
    exact ⟨refl s, by simp⟩
  · obtain ⟨rfl, rfl⟩ := Prod.mk.inj hn
    refine ⟨(setSess (List.nil_subset _)).trans (of_sessions rfl), ?_⟩
    rintro i d hd
    obtain ⟨-, rfl⟩ := Prod.mk.inj (Option.some.inj hd)
    rfl

theorem NoNewRefusal.needSess (s : State) (p : PartId) (m : BitVec 14) : NoNewRefusal s (s.needSess p m).2 := by
  unfold State.needSess
  split
  · exact refl s
  · split
    · next z hz => exact (newSess hz).1
    · next i d z hz =>
      have hfresh : d.refusing ⊆ z.refusedOn i := by
        rw [(newSess hz).2 i d rfl]
        exact List.nil_subset _
      have hopen := emit hfresh { z.mkPkt d tyOpen (openPayload (z.jobid p) i) with sess := 0xFFFF }
      exact (newSess hz).1.trans hopen

theorem NoNewRefusal.notifyAll (p : PartId) (kind : Nat) (step : BitVec 32) (body : List Byte) (ms : List (BitVec 14)) :
    ∀ s : State, NoNewRefusal s (s.notifyAll p kind step body ms) := by
  induction ms with
  | nil => exact refl
  | cons m ms ih =>
    intro s
    have hneed := needSess s p m
    rw [State.notifyAll]
    split
    · exact ih s
    · generalize s.needSess p m = n at hneed
      obtain ⟨_ | i, z⟩ := n
      · exact hneed.trans (ih z)
      · exact hneed.trans ((sendNotice z i kind step body).trans (ih _))

/-! ### Closing -/

theorem NoNewRefusal.closeSess (s : State) (i : Nat) (reason : Option Nat) : NoNewRefusal s (s.closeSess i reason) := by
  unfold State.closeSess
  split
  · exact refl s
  · refine (setSess_none s i).congr_right ?_
    split
    · split
      · rw [State.sendClose, State.txPkt_eng]
        rfl
      · rfl
    · rfl

theorem NoNewRefusal.closeAll (reason : Option Nat) (is : List Nat) : ∀ s : State, NoNewRefusal s (s.closeAll reason is) := by
  induction is with
  | nil => exact refl
  | cons i is ih => exact fun s => (closeSess s i reason).trans (ih _)

/-! ### Commands that finish -/

theorem State.countMiss_sessions (s : State) (p : PartId) (d : DeadlineReg) : (s.countMiss p d).eng.sessions = s.eng.sessions := by
  unfold State.countMiss
  split
  · rfl
  · split <;> rfl

theorem State.finishSlot_sessions (s : State) (c : CoreId) (tok : Nat) (r : Report) :
    (s.finishSlot c tok r).eng.sessions = s.eng.sessions := by
  unfold State.finishSlot
  split
  · rfl
  · next x _ =>
    split
    · rfl
    · cases (s.core c).part with
      | none => cases x.deadline <;> rfl
      | some p =>
        have hcounted : ∀ z : State, ((z.countStatus p r.status).counted p r).eng.sessions = z.eng.sessions := fun z => by
          rw [State.counted_eng, State.countStatus_eq]
        cases x.deadline with
        | none => exact hcounted _
        | some d =>
          dsimp only
          split
          · exact (State.countMiss_sessions ..).trans (hcounted _)
          · exact hcounted _

theorem NoNewRefusal.finishSlot (s : State) (c : CoreId) (tok : Nat) (r : Report) : NoNewRefusal s (s.finishSlot c tok r) :=
  of_sessions (s.finishSlot_sessions c tok r)

theorem NoNewRefusal.finishMembers (r : Report) (ms : List RoundMember) : ∀ s : State, NoNewRefusal s (s.finishMembers r ms) := by
  induction ms with
  | nil => exact refl
  | cons m ms ih => exact fun s => (finishSlot s m.core m.token r).trans (ih _)

theorem NoNewRefusal.endRound (s : State) (p : PartId) (l : RouteLine) (m : MarkReg) (r : Report) :
    NoNewRefusal s (s.endRound p l m r) := by
  unfold State.endRound
  split
  · exact refl s
  · exact (finishMembers ..).congr_left rfl

theorem NoNewRefusal.finishCmd (s : State) (c : CoreId) (tok : Nat) (r : Report) : NoNewRefusal s (s.finishCmd c tok r) := by
  have hslot := finishSlot s c tok r
  unfold State.finishCmd
  dsimp only
  split
  · split
    · split
      · exact hslot.trans (endRound ..)
      · exact hslot
    · split
      · exact hslot
      · exact hslot.congr_right rfl
    · exact hslot
  · exact hslot

theorem NoNewRefusal.finishAll (c : CoreId) (r : Report) (ts : List Nat) : ∀ s : State, NoNewRefusal s (s.finishAll c r ts) := by
  induction ts with
  | nil => exact refl
  | cons t ts ih => exact fun s => (finishCmd s c t r).trans (ih _)

theorem NoNewRefusal.endTransfers (s : State) (sel : CoreId → InFlight → Bool) (r : Report) :
    NoNewRefusal s (s.endTransfers sel r) := by
  unfold State.endTransfers
  exact (foldl (fun t (h : CoreId × Nat) => finishCmd t h.1 h.2 r) _ s).congr_right rfl

/-! ### A partition fault (17 R391, R392) -/

theorem NoNewRefusal.faultCores (cs : List CoreId) : ∀ s : State, NoNewRefusal s (s.faultCores cs) := by
  induction cs with
  | nil => exact refl
  | cons c cs ih =>
    intro s
    have hcancel : NoNewRefusal s (s.cancelUnstarted c) :=
      (finishAll c _ _ (s.dropHold c)).congr_left rfl
    have hcore : NoNewRefusal s (s.faultCore c) := hcancel.congr_right rfl
    exact hcore.trans (ih _)

theorem NoNewRefusal.dropLists (p : PartId) (cs : List CoreId) : ∀ s : State, NoNewRefusal s (s.dropLists p cs) := by
  induction cs with
  | nil => exact refl
  | cons c cs ih => exact fun s => (ih _).congr_left rfl

theorem NoNewRefusal.endOpenRounds (s : State) (p : PartId) : NoNewRefusal s (s.endOpenRounds p) := by
  unfold State.endOpenRounds
  exact (foldl (fun t (r : Round) => finishMembers _ r.members t) _ _).congr_left rfl

theorem NoNewRefusal.cancelItems (s : State) (qid : Qid) (sel : Item → Bool) : NoNewRefusal s (s.cancelItems qid sel) := by
  unfold State.cancelItems
  split
  · exact refl s
  · exact of_sessions rfl

theorem NoNewRefusal.overQueues {f : Qid → State → State} (h : ∀ q t, NoNewRefusal t (f q t)) (qs : List Qid) :
    ∀ s : State, NoNewRefusal s (s.overQueues f qs) := by
  induction qs with
  | nil => exact refl
  | cons q qs ih => exact fun s => (h q s).trans (ih _)

theorem NoNewRefusal.cancelPart (s : State) (p : PartId) : NoNewRefusal s (s.cancelPart p) := by
  refine overQueues (fun q t => ?_) _ s
  split
  · split
    · exact cancelItems ..
    · exact refl t
  · exact refl t

theorem NoNewRefusal.endExpected (s : State) (p : PartId) : NoNewRefusal s (s.endExpected p) := of_sessions rfl

theorem NoNewRefusal.modEng (s : State) {f : Engines → Engines} (h : (f s.eng).sessions = s.eng.sessions) : NoNewRefusal s (s.modEng f) :=
  of_sessions h

theorem NoNewRefusal.partFault (s : State) (p : PartId) (cause : Nat) (core : Option CoreId) :
    NoNewRefusal s (s.partFault p cause core) := by
  unfold State.partFault
  extract_lets who s0 s1 s2 s3 s4 s5 s6
  have h0 : NoNewRefusal s s0 := of_sessions rfl
  by_cases hfault : s.faulted p = true
  · rw [if_pos hfault]
    exact h0
  · rw [if_neg hfault]
    have h1 : NoNewRefusal s s1 := h0.congr_right rfl
    have h2 : NoNewRefusal s s2 := (h1.trans (faultCores (s1.coresOf p) s1)).trans (dropLists p (s1.coresOf p) _)
    have h3 : NoNewRefusal s s3 := (h2.trans (endOpenRounds s2 p)).trans (cancelPart _ p)
    have h5 : NoNewRefusal s s5 := h3.congr_right rfl
    have h6 : NoNewRefusal s s6 := (h5.trans (closeAll (some 1) (s5.sessOf p) s5)).trans (endExpected _ p)
    exact h6.trans (endTransfers s6 _ _)

/-! ### The loss of a peer (13 R317, R318) -/

theorem NoNewRefusal.fillQueue (s : State) (q : Queue) (off : Nat) (bs : List Byte) : NoNewRefusal s (s.fillQueue q off bs).2 := by
  have hw : NoNewRefusal s (s.writeQueue q off bs).2 := of_sessions (by rw [State.writeQueue_eng])
  unfold State.fillQueue
  generalize s.writeQueue q off bs = w at hw
  obtain ⟨_ | _, z⟩ := w
  · have hfault := partFault z q.part (if q.memCs then 1 else 5) none
    exact hw.trans hfault
  · exact hw

theorem NoNewRefusal.writeLost (s : State) (q : Queue) (n j : Nat) : NoNewRefusal s (s.writeLost q n j) := fillQueue s q _ _

theorem NoNewRefusal.loseReturns (s : State) (m : BitVec 14) (only : Option PartId) (qid : Qid) :
    NoNewRefusal s (s.loseReturns m only qid) := by
  unfold State.loseReturns
  split
  · exact refl s
  · next q _ =>
    split
    · exact refl s
    · extract_lets hit s1
      have h1 : NoNewRefusal s s1 := by
        unfold s1
        refine foldl ?_ hit s
        intro t i
        refine foldl ?_ (i.awaits m) t
        exact fun u r => writeLost u q i.n r.record.j.toNat
      split
      · exact h1
      · exact h1.congr_right rfl

theorem NoNewRefusal.loseGroups (s : State) (sel : CGroup → Bool) : NoNewRefusal s (s.loseGroups sel) := of_sessions rfl

theorem NoNewRefusal.dropContexts (s : State) (sel : CGroup → Bool) : NoNewRefusal s (s.dropContexts sel) := of_sessions rfl

theorem NoNewRefusal.applyLoss (s : State) (m : BitVec 14) (sel : CGroup → Bool) (sess : List Nat) (only : Option PartId) :
    NoNewRefusal s (s.applyLoss m sel sess only) := by
  unfold State.applyLoss
  extract_lets s1 via s2 s3 s4
  have h1 : NoNewRefusal s s1 := (closeAll none sess s).trans (loseGroups _ sel)
  have h2 : NoNewRefusal s s2 := h1.trans (endTransfers s1 _ _)
  have h3 : NoNewRefusal s s3 := h2.trans (overQueues (fun q t => loseReturns t m only q) s2.qids s2)
  have h4 : NoNewRefusal s s4 := h3.trans (dropContexts s3 sel)
  exact h4.congr_right rfl

theorem NoNewRefusal.notifyLoss (m : BitVec 14) (cause : Nat) (ps : List PartId) : ∀ s : State, NoNewRefusal s (s.notifyLoss m cause ps) := by
  induction ps with
  | nil => exact refl
  | cons p ps ih => exact fun s => (notifyAll p 3 0 _ (s.lossPeers m p) s).trans (ih _)

theorem NoNewRefusal.declareLost (s : State) (m : BitVec 14) (cause : Nat) : NoNewRefusal s (s.declareLost m cause) := by
  unfold State.declareLost
  split
  · exact refl s
  · extract_lets s1 s2 s3
    have h1 : NoNewRefusal s s1 := of_sessions rfl
    have h2 : NoNewRefusal s s2 := h1.trans (notifyLoss m cause allParts s1)
    clear_value s2
    have h3 : NoNewRefusal s s3 := h2.congr_right rfl
    exact h3.trans (applyLoss s3 m _ _ none)

/-! ### Notices of skips and norms -/

theorem NoNewRefusal.noteNorm (s : State) (p : PartId) (m : BitVec 14) (t : BitVec 32) (v : AccEntry) :
    NoNewRefusal s (s.noteNorm p m t v) := by
  unfold State.noteNorm State.sumNorm
  refine of_sessions ?_
  split
  · rfl
  · split <;> rfl

theorem NoNewRefusal.closeIfDone (s : State) (p : PartId) (t : BitVec 32) : NoNewRefusal s (s.closeIfDone p t) := by
  unfold State.closeIfDone
  extract_lets u s1
  have h1 : NoNewRefusal s s1 := of_sessions rfl
  split
  · exact refl s
  · next r _ =>
    by_cases hdone : (r.isOpen && decide (u.total ≤ r.done.length)) = true
    · rw [if_pos hdone]
      split
      · exact of_sessions rfl
      · extract_lets s2
        exact (h1.trans (noteNorm s1 p s1.moduleId t r.norm)).trans (notifyAll p 2 t _ (s2.ucMembers p) s2)
    · rw [if_neg hdone]
      exact refl s

theorem NoNewRefusal.recordSb (s : State) (p : PartId) (t : BitVec 32) (shard sb : Nat) : NoNewRefusal s (s.recordSb p t shard sb) :=
  (closeIfDone (s.modUe p fun u => (u.record shard sb t).modStep t fun r => r.enter (sbKey shard sb)) p t).congr_left rfl

theorem NoNewRefusal.settleBlocks (s : State) (p : PartId) (t : BitVec 32) (shard sb k : Nat) :
    NoNewRefusal s (s.settleBlocks p t shard sb k) := by
  unfold State.settleBlocks
  extract_lets left s1
  have h1 : NoNewRefusal s s1 := of_sessions rfl
  split
  · exact h1.trans (recordSb s1 p t shard sb)
  · exact h1

theorem NoNewRefusal.skipBlocks (s : State) (p : PartId) (t : BitVec 32) (shard : Nat) (count : Bool) (bs : List (Nat × Nat)) :
    NoNewRefusal s (s.skipBlocks p t shard count bs) := by
  unfold State.skipBlocks
  extract_lets s0 s1
  have h1 : NoNewRefusal s s1 := of_sessions (by unfold s1; split <;> rfl)
  refine h1.trans (foldl ?_ _ s1)
  intro z sb
  extract_lets mine
  exact (settleBlocks (z.modUe p fun u => u.dropCoefs shard sb mine) p t shard sb mine.length).congr_left rfl

theorem NoNewRefusal.poison (s : State) (p : PartId) (t : BitVec 32) (shard : Nat) (d : Shard) (n : Nat) :
    NoNewRefusal s (s.poison p t shard d n) :=
  (skipBlocks (s.modUe p fun u => u.setStage shard n t true 0) p t shard true _).congr_left rfl

theorem NoNewRefusal.dropStages (s : State) (p : PartId) (t : BitVec 32) : NoNewRefusal s (s.dropStages p t) := by
  unfold State.dropStages
  refine foldl ?_ _ s
  intro z x
  refine foldl ?_ _ z
  exact fun w e => poison w p t x.2 x.1 (e.1 % 2 ^ 32)

theorem NoNewRefusal.skipClosed (s : State) (p : PartId) (t : BitVec 32) (received : Bool) :
    NoNewRefusal s (s.skipClosed p t received) := of_sessions rfl

theorem NoNewRefusal.noteSkip (s : State) (p : PartId) (t : BitVec 32) : NoNewRefusal s (s.noteSkip p t) := by
  unfold State.noteSkip
  split
  · exact refl s
  · split
    · exact refl s
    · split
      · exact refl s
      · split
        · exact skipClosed s p t true
        · split
          · exact (dropStages (s.modUe p _) p t).congr_left rfl
          · exact of_sessions rfl

/-! ### Gather requests of a peer (13 R304) -/

theorem State.readHbm_eng (s : State) (p : PartId) (va len : Nat) : (s.readHbm p va len).2.eng = s.eng := by
  unfold State.readHbm
  dsimp only
  split <;> simp only [State.logUe_eng, State.clearWords_eng, State.countWords_eng]

theorem NoNewRefusal.gatherRead (s : State) (p : PartId) (peer : Bool) (shard sb : Nat) :
    NoNewRefusal s (s.gatherRead p peer shard sb).2 := by
  have hread : ∀ va, NoNewRefusal s (s.readHbm p va 2048).2 := fun va => of_sessions (by rw [State.readHbm_eng])
  unfold State.gatherRead
  split
  · exact refl s
  · next d _ =>
    split
    · exact refl s
    · split
      · exact refl s
      · have hr := hread (d.whiAt sb)
        generalize s.readHbm p (d.whiAt sb) 2048 = r at hr
        obtain ⟨_ | _, z⟩ := r <;> exact hr

theorem NoNewRefusal.gatherServe (s : State) {g : GatherReq} {i : Nat} (hg : g.sess = some i) : NoNewRefusal s (s.gatherServe g) := by
  have hr := gatherRead s g.part true g.shard g.sb
  unfold State.gatherServe
  rw [hg]
  dsimp only
  generalize s.gatherRead g.part true g.shard g.sb = r at hr
  obtain ⟨o, z⟩ := r
  cases o with
  | data bs => exact hr.trans (sendList ..)
  | refused => exact hr.trans (sendList ..)
  | denied => exact hr.trans (sendList ..)
  | faulted => exact hr.trans (partFault ..)

/-- Requests of peers are answered on their sessions or held. -/
theorem NoNewRefusal.gatherTake (gs : List GatherReq) (hgs : ∀ g ∈ gs, ∃ i, g.sess = some i) :
    ∀ s : State, NoNewRefusal s (s.gatherTake gs) := by
  induction gs with
  | nil => exact refl
  | cons g gs ih =>
    intro s
    rw [List.forall_mem_cons] at hgs
    obtain ⟨⟨i, hi⟩, hrest⟩ := hgs
    rw [State.gatherTake]
    refine NoNewRefusal.trans ?_ (ih hrest _)
    split
    · exact gatherServe s hi
    · exact of_sessions rfl

end Sys2Proof.Machine

/-! ### How a reliable packet is taken (13 R292)

A good fresh packet of an open session wakes the module, moves the session's books and acts; what its act leaves is booked. -/

namespace Sys2Proof.Machine

theorem State.wakeShallow_eng (s : State) : s.wakeShallow.eng = s.eng := by
  unfold State.wakeShallow
  split <;> rfl

theorem State.wakeShallow_parts (s : State) : s.wakeShallow.parts = s.parts := by
  unfold State.wakeShallow
  split <;> rfl

theorem State.wakeShallow_time (s : State) : s.wakeShallow.aon.time = s.aon.time := by
  unfold State.wakeShallow
  split <;> rfl

/-- The ports that run in S1 or S2 run on in the woken module. -/
theorem State.portsRun_wakeShallow {s : State} (h : s.portsRun = true) : s.wakeShallow.portsRun = true := by
  have hgroup : decide (6 ≤ s.aon.group) = true := (Bool.and_eq_true_iff.mp h).1
  unfold State.wakeShallow
  split
  · exact (Bool.and_true _).trans hgroup
  · exact (Bool.and_true _).trans hgroup
  · exact h

theorem Session.ackTo_refusing (d : Session) (apsn : BitVec 32) : (d.ackTo apsn).refusing = d.refusing := by
  unfold Session.ackTo
  dsimp only
  split <;> rfl

theorem Session.ackTo_a2aWait (d : Session) (apsn : BitVec 32) : (d.ackTo apsn).a2aWait = d.a2aWait := by
  unfold Session.ackTo
  dsimp only
  split <;> rfl

/-- The state in which a packet of session `i` acts: the module awake, the session's books moved. -/
def State.hears (s : State) (i : Nat) (d : Session) (k : Pkt) : State := s.wakeShallow.heardOn i d k

theorem State.hears_sess (s : State) (i : Nat) (d : Session) (k : Pkt) :
    (s.hears i d k).sess i = some { d.ackTo k.apsn with lastHeard := s.aon.time } := by
  rw [State.hears, State.heardOn, State.sess_setSess_same, State.wakeShallow_time]

theorem State.hears_time (s : State) (i : Nat) (d : Session) (k : Pkt) : (s.hears i d k).aon.time = s.aon.time := s.wakeShallow_time

theorem State.hears_queue (s : State) (i : Nat) (d : Session) (k : Pkt) (q : Qid) : (s.hears i d k).queue q = s.queue q := by
  show s.wakeShallow.eng.queues.get none q.toNat = s.eng.queues.get none q.toNat
  rw [State.wakeShallow_eng]

theorem State.hears_cached (s : State) (i : Nat) (d : Session) (k : Pkt) (q : Qid) : (s.hears i d k).cached q = s.cached q := by
  rw [State.cached, State.cached, State.hears_queue]
  show (s.wakeShallow.eng.qcache.contains q || _) = _
  rw [State.wakeShallow_eng]

theorem State.hears_part (s : State) (i : Nat) (d : Session) (k : Pkt) (p : PartId) : (s.hears i d k).part p = s.part p := by
  show s.wakeShallow.part p = s.part p
  rw [State.part, State.part, State.wakeShallow_parts]

theorem State.hears_cgroupOf (s : State) (i : Nat) (d : Session) (k : Pkt) (p : PartId) (g : BitVec 16) :
    (s.hears i d k).cgroupOf p g = s.cgroupOf p g := by
  show s.wakeShallow.cgroupOf p g = s.cgroupOf p g
  rw [State.cgroupOf, State.cgroupOf, State.cgroup, State.cgroup, State.wakeShallow_eng]

theorem State.hears_ctxs (s : State) (i : Nat) (d : Session) (k : Pkt) : (s.hears i d k).eng.ctxs = s.eng.ctxs := by
  show s.wakeShallow.eng.ctxs = s.eng.ctxs
  rw [State.wakeShallow_eng]

/-- The session of an arriving packet wakes the module. -/
theorem State.Arrives.wokenBy {s : State} {k : Pkt} {i : Nat} {d : Session} (h : s.Arrives k i d) : s.wokenBy k = s.wakeShallow := by
  obtain ⟨hports, htcrc, hver, rfl, hi, hd, hopen, hpart, hpeer, hhost⟩ := h
  have hof : s.sessOfPkt k = some (k.sess.toNat, d) := by
    rw [State.sessOfPkt, hd]
    exact if_pos ⟨hpart, hpeer, hhost⟩
  rw [State.wokenBy, hof, hports, htcrc, hver]
  simp [hopen]

/-- A fresh packet of an open session acts where its session has heard it. -/
theorem State.Arrives.takeReliable {s : State} {k : Pkt} {i : Nat} {d : Session} (h : s.Arrives k i d) (hfresh : d.Fresh k)
    {ty : BitVec 4} (hty : typeReserved ty = false) {act : State → Nat → Session → Bool × State} {t : State}
    (hact : act (s.hears i d k) i d = (true, t)) :
    (s.wokenBy k).takeReliable { k with type := ty } act =
      (if (t.sess i).any (fun e => e.refuses k.psn) then t else t.book i { k with type := ty }).pumpAll i := by
  rw [h.wokenBy]
  obtain ⟨hports, htcrc, hver, rfl, hi, hd, hopen, hpart, hpeer, hhost⟩ := h
  obtain ⟨hwindow, hgot, hrefuses⟩ := hfresh
  have hof : s.wakeShallow.sessOfPkt { k with type := ty } = some (k.sess.toNat, d) := by
    rw [State.sessOfPkt, State.sess, State.wakeShallow_eng]
    rw [State.sess] at hd
    rw [hd]
    exact if_pos ⟨hpart, hpeer, hhost⟩
  have hgood : ¬(({ k with type := ty } : Pkt).ver ≠ 1 ∨ typeReserved ({ k with type := ty } : Pkt).type = true) := by
    simp [hver, hty]
  have hnew : ¬(2 ^ 31 ≤ (k.psn - d.rxNext).toNat ∨ d.rxGot.contains k.psn = true) := by
    rw [hgot, not_or]
    exact ⟨by omega, Bool.false_ne_true⟩
  have hin : ¬(1024 ≤ (k.psn - d.rxNext).toNat ∨ d.refuses k.psn = true) := by
    rw [hrefuses, not_or]
    exact ⟨by omega, Bool.false_ne_true⟩
  rw [State.takeReliable, State.checked, State.portsRun_wakeShallow hports, hof]
  rw [if_neg (by simp), if_neg (by simp [htcrc]), if_neg hgood]
  dsimp only
  rw [if_neg (by simp [hopen]), if_neg hnew, if_neg hin]
  have hact : act (s.wakeShallow.heardOn k.sess.toNat d { k with type := ty }) k.sess.toNat d = (true, t) := hact
  rw [hact]

end Sys2Proof.Machine

/-! ### What accepted packets do (13 R295 to R317) -/

namespace Sys2Proof.Machine

/-- An act that refuses nothing new is booked. -/
theorem State.Arrives.booked {s : State} {k : Pkt} {i : Nat} {d : Session} (h : s.Arrives k i d) (hfresh : d.Fresh k)
    {ty : BitVec 4} (hty : typeReserved ty = false) {act : State → Nat → Session → Bool × State} {t : State}
    (hact : act (s.hears i d k) i d = (true, t)) (hkeep : NoNewRefusal (s.hears i d k) t) :
    ((s.wokenBy k).takeReliable { k with type := ty } act).settle = t.booked i { k with type := ty } := by
  obtain ⟨_, _, hrefuses⟩ := id hfresh
  have hnot := hkeep.not_refuses (psn := k.psn) (s.hears_sess i d k)
    (by rw [← hrefuses, Session.refuses, Session.refuses, Session.ackTo_refusing])
  rw [h.takeReliable hfresh hty hact, hnot]
  rfl

/-! #### Refusals -/

theorem State.isSome_sess_emit (s : State) (i : Nat) (d : Session) (k : Pkt) : ((s.emit i d k).sess i).isSome = true := by
  unfold State.emit
  split <;> (rw [State.sess, State.txPkt_eng, ← State.sess, State.sess_setSess_same]; rfl)

theorem State.isSome_sess_pump (i n : Nat) : ∀ s : State, (s.sess i).isSome = true → ((s.pump i n).sess i).isSome = true := by
  induction n with
  | zero => exact fun _ h => h
  | succ n ih =>
    intro s h
    rw [State.pump]
    split
    · exact h
    · split
      · exact h
      · split
        · exact ih _ (State.isSome_sess_emit ..)
        · exact h

theorem State.isSome_sess_sendList {s : State} {i : Nat} (h : (s.sess i).isSome = true) (mk : Pkt → List Pkt) :
    ((s.sendList i mk).2.sess i).isSome = true := by
  obtain ⟨d, hd⟩ := Option.isSome_iff_exists.mp h
  rw [State.sendList, hd]
  dsimp only
  rw [State.send, State.sess_setSess_same]
  exact State.isSome_sess_pump _ _ _ (by rw [State.sess_setSess_same]; rfl)

/-- A refused packet is noted on its session. -/
theorem State.refuse_refuses {s : State} {i : Nat} (h : (s.sess i).isSome = true) (k : Pkt) (what : BitVec 32) :
    ((s.refuse i k what).sess i).any (fun e => e.refuses k.psn) = true := by
  unfold State.refuse
  extract_lets w
  obtain ⟨d, hd⟩ := Option.isSome_iff_exists.mp (State.isSome_sess_sendList (s := s) h _)
  have hd : w.2.sess i = some d := hd
  rw [hd]
  dsimp only
  rw [State.sess_setSess_same]
  simp [Session.refuses]

theorem State.dataIn_reserved (s : State) (i : Nat) {d : Session} {k : Pkt} (hhost : d.host = none) (hcoll : k.coll ≠ 3)
    (hret : k.ret = false) (hbad : 6 ≤ k.coll.toNat ∨ Fmt.ofCode k.fmt = none) : s.dataIn i d k = (true, s.refuse i k k.msg) := by
  have hcode : badDataCode k = true := by simpa [badDataCode] using hbad
  rw [State.dataIn, if_neg (by simpa [hhost] using hcoll), hcode, Bool.true_or, if_pos rfl, hret]
  rfl

/-- 13 R295: DATA with a reserved COLL or FMT is refused and does nothing else. -/
theorem State.Arrives.reserved_refused {s : State} {k : Pkt} {i : Nat} {d : Session} (h : s.Arrives k i d) (hfresh : d.Fresh k)
    (hhost : d.host = none) (hret : k.ret = false) (hcoll : k.coll ≠ 3) (hbad : 6 ≤ k.coll.toNat ∨ Fmt.ofCode k.fmt = none) :
    exec (.dataReceive k) s = .next (((s.hears i d k).refuse i { k with type := tyData } k.msg).pumpAll i).settle := by
  have hact : (s.hears i d k).dataIn i d k = (true, (s.hears i d k).refuse i k k.msg) := State.dataIn_reserved _ i hhost hcoll hret hbad
  have hnoted : (((s.hears i d k).refuse i k k.msg).sess i).any (fun e => e.refuses k.psn) = true :=
    State.refuse_refuses (by rw [State.hears_sess]; rfl) k k.msg
  show Host.Outcome.next ((s.wokenBy k).takeReliable { k with type := tyData } fun t i d => t.dataIn i d k).settle = _
  rw [h.takeReliable hfresh rfl hact, hnoted]
  rfl

/-! #### Messages -/

/-- The item that a new message of session `i` opens (R240). -/
def Queue.msgItem (q : Queue) (i : Nat) (d : Session) (k : Pkt) (ts : BitVec 64) : Item :=
  { Item.fresh q.ppos with
    closed := true, msg := some (i, k.msg), src := some d.peer, ts := ts, cancelled := decide (q.ppos < q.dpos) }

/-- The first packet of a message in its item. -/
theorem Queue.msgItem_piece (q : Queue) (i : Nat) (d : Session) (k : Pkt) (ts : BitVec 64) :
    (q.msgItem i d k ts).piece k = { q.msgItem i d k ts with
      ranges := [(k.ofs.toNat, k.payload.length)], bytes := k.payload.length
      total := if k.last then some (k.ofs.toNat + k.payload.length) else none, full := k.last && k.ofs.toNat == 0 } := by
  have hfull : (false || (if k.last then some (k.ofs.toNat + k.payload.length) else none) == some k.payload.length) =
      (k.last && k.ofs.toNat == 0) := by
    cases k.last with
    | false => rfl
    | true => simp
  rw [← hfull]
  rfl

/-- The queue with the item of a new message of session `i`, which uses up a held credit. -/
def Queue.withMsg (q : Queue) (i : Nat) (x : Item) : Queue :=
  { q with ppos := q.ppos + 1, held := q.held.set 0 i (q.held.get 0 i - 1), items := q.items ++ [x] }

/-- A slotted receive queue opens an item for a message that has none. -/
theorem State.openItem_new (s : State) {q : Queue} {i : Nat} {d : Session} {k : Pkt} (hslot : q.slotted = true) (hroom : q.room = true)
    (hfree : q.slotFree q.ppos = true) (hnew : ∀ x ∈ q.items, x.n ≠ q.ppos ∧ x.msg ≠ some (i, k.msg)) :
    s.openItem q i d k = 
      some (q.withMsg i (q.msgItem i d k s.aon.time), q.msgItem i d k s.aon.time) := by
  have hnone : (q.items.find? fun x => x.msg == some (i, k.msg)) = none :=
    List.find?_eq_none.mpr fun x hx h => (hnew x hx).2 (eq_of_beq h)
  have hitem : ((q.items ++ [q.msgItem i d k s.aon.time]).find? fun x => x.n == q.ppos) = some (q.msgItem i d k s.aon.time) := by
    rw [List.find?_append, List.find?_eq_none.mpr fun x hx h => (hnew x hx).1 (eq_of_beq h)]
    exact List.find?_cons_of_pos (p := fun x : Item => x.n == q.ppos) (beq_self_eq_true q.ppos)
  rw [State.openItem, hnone]
  dsimp only
  rw [hslot, hroom, hfree]
  exact congrArg (Option.map _) hitem

/-- The packet of a new message is stored in the next slot (R240, R300). -/
theorem State.messagePacket_new (s : State) {q : Queue} {i : Nat} {d : Session} {k : Pkt} (hq : s.queue k.dq = some q)
    (hcached : s.cached k.dq = true) (hrxp : q.isRxp = true) (hposted : q.posted = false) (hpart : q.part = d.part)
    (hmb : isMbQueue k.dq = false) (hroom : q.room = true) (hfree : q.slotFree q.ppos = true)
    (hnew : ∀ x ∈ q.items, x.n ≠ q.ppos ∧ x.msg ≠ some (i, k.msg))
    (hw : (s.writeQueue q (q.slotOff q.ppos + k.ofs.toNat) (k.payload.take (q.slotb - k.ofs.toNat))).1 = true) :
    s.messagePacket i d k = (true,
      (s.writeQueue q (q.slotOff q.ppos + k.ofs.toNat) (k.payload.take (q.slotb - k.ofs.toNat))).2.setQueue k.dq
        (q.withMsg i ((q.msgItem i d k s.aon.time).piece k))) := by
  have hslot : q.slotted = true := by simp [Queue.slotted, hrxp, hposted]
  have hput : (q.withMsg i (q.msgItem i d k s.aon.time)).putItem ((q.msgItem i d k s.aon.time).piece k) =
      q.withMsg i ((q.msgItem i d k s.aon.time).piece k) :=
    Queue.putItem_alloc (q := q.useHeld i)
      (f := fun x => { x with closed := true, msg := some (i, k.msg), src := some d.peer, ts := s.aon.time })
      rfl (fun x hx => (hnew x hx).1) rfl
  unfold State.messagePacket
  rw [hq]
  dsimp only
  rw [if_neg (by simp [hrxp, hpart, hmb]), if_neg (by simp [hcached]), State.openItem_new s hslot hroom hfree hnew]
  dsimp only
  rw [if_pos hslot]
  have hstore : ∀ off bs, s.writeQueue (q.withMsg i (q.msgItem i d k s.aon.time)) off bs = s.writeQueue q off bs := fun _ _ => rfl
  have hslotOff : ∀ n, (q.withMsg i (q.msgItem i d k s.aon.time)).slotOff n = q.slotOff n := fun _ => rfl
  have hn : (q.msgItem i d k s.aon.time).n = q.ppos := rfl
  rw [hstore, hslotOff, hn, if_pos hw, if_pos hw, hput]

theorem State.dataIn_message (s : State) (i : Nat) {d : Session} {k : Pkt} (hhost : d.host = none) (hrelay : d.relay = false)
    (hret : k.ret = false) (hcoll : k.coll = 0 ∨ k.coll = 4) (hfmt : (Fmt.ofCode k.fmt).isSome = true) :
    s.dataIn i d k = s.messagePacket i d k := by
  have hcode : badDataCode k = false := by
    obtain ⟨f, hf⟩ := Option.isSome_iff_exists.mp hfmt
    obtain hc | hc := hcoll <;> simp [badDataCode, hc, hf]
  obtain hc | hc := hcoll <;> simp [State.dataIn, hhost, hrelay, hcode, hret, hc]

/-- 13 R300: the first packet of a message to a slotted queue. -/
theorem State.Arrives.message_stored {s : State} {k : Pkt} {i : Nat} {d : Session} (h : s.Arrives k i d) (hfresh : d.Fresh k)
    {q : Queue} (hhost : d.host = none) (hrelay : d.relay = false) (hret : k.ret = false) (hcoll : k.coll = 0 ∨ k.coll = 4)
    (hfmt : (Fmt.ofCode k.fmt).isSome = true) (hcached : s.cached k.dq = true) (hq : s.queue k.dq = some q) (hrxp : q.isRxp = true)
    (hposted : q.posted = false) (hpart : q.part = d.part) (hmb : isMbQueue k.dq = false) (hroom : q.room = true)
    (hfree : q.slotFree q.ppos = true) (hnew : ∀ x ∈ q.items, x.n ≠ q.ppos ∧ x.msg ≠ some (i, k.msg))
    (hw : ((s.hears i d k).writeQueue q (q.slotOff q.ppos + k.ofs.toNat) (k.payload.take (q.slotb - k.ofs.toNat))).1 = true) :
    exec (.dataReceive k) s = .next ((((s.hears i d k).writeQueue q (q.slotOff q.ppos + k.ofs.toNat)
      (k.payload.take (q.slotb - k.ofs.toNat))).2.setQueue k.dq (q.withMsg i ((q.msgItem i d k s.aon.time).piece k))).booked i
        { k with type := tyData }) := by
  have hact := (State.dataIn_message (s.hears i d k) i hhost hrelay hret hcoll hfmt).trans
    (State.messagePacket_new _ (s.hears_queue i d k k.dq ▸ hq) (s.hears_cached i d k k.dq ▸ hcached) hrxp hposted hpart hmb hroom hfree
      hnew hw)
  rw [s.hears_time] at hact
  have hkeep : NoNewRefusal (s.hears i d k) ((s.hears i d k).writeQueue q (q.slotOff q.ppos + k.ofs.toNat)
      (k.payload.take (q.slotb - k.ofs.toNat))).2 := NoNewRefusal.of_sessions (by rw [State.writeQueue_eng])
  exact congrArg Host.Outcome.next (h.booked hfresh rfl hact (hkeep.congr_right rfl))

/-! #### Contributions and gather requests -/

theorem NoNewRefusal.takeContribution (s : State) (x : RCtx) (p : PartId) (n : Nat) :
    NoNewRefusal s ((s.putCtx x).countPart p .rsRange n) := of_sessions rfl

/-- The context that takes a contribution of `src`: the one of its super-block and step, which lacks `src`, or a new one of 512. -/
def State.Takes (s : State) (p : PartId) (src : BitVec 14) (shard sb : Nat) (step : BitVec 32) (cgrp : BitVec 16) (rofs : BitVec 9)
    (x : RCtx) : Prop :=
  let mine := s.eng.ctxs.find? fun x => x.part == p && x.shard == shard && x.sb == sb && x.step == step
  (mine = some x ∧ x.heard.contains src = false) ∨
    (mine = none ∧ s.eng.ctxs.length < 512 ∧ x = ⟨p, shard, sb, step, cgrp, rofs, [], []⟩)

/-- The context with a contribution. -/
def RCtx.hearing (x : RCtx) (src : BitVec 14) (b : List Byte) : RCtx :=
  { x with heard := x.heard ++ [src], entries := addEntries x.rofs.toInt x.entries 0 (rsAddends b) }

/-- A contribution of one super-block in a context that lacks it (R317). -/
theorem State.rsContribute_taken (s : State) (p : PartId) (src : BitVec 14) (shard sb : Nat) (step : BitVec 32) (cgrp : BitVec 16)
    (b : List Byte) {c : Shard} {g : CGroup} {x : RCtx} (hc : (s.part p).ue.shards[shard]? = some c) (hg : s.cgroupOf p cgrp = some g)
    (hlost : g.lost = false) (hsb : sb < c.nsb) (hopen : (s.part p).ue.closed step = false)
    (hrec : (s.part p).ue.recStep.get none (sbKey shard sb) ≠ some step)
    (hx : s.Takes p src shard sb step cgrp g.rofs x) :
    s.rsContribute p src shard sb step cgrp b =
      (.taken, (s.putCtx (x.hearing src b)).countPart p .rsRange (rsOutside x.rofs c.ncontrib b)) := by
  unfold State.rsContribute
  dsimp only
  rw [hc, hg]
  dsimp only
  rw [if_neg (by omega), if_neg (by simp [hopen]), if_neg (by simp [hlost]), if_neg (by simpa using hrec)]
  obtain ⟨hfind, hheard⟩ | ⟨hfind, hfew, rfl⟩ := hx
  · rw [hfind]
    dsimp only
    rw [hheard]
    rfl
  · rw [hfind]
    dsimp only
    rw [if_neg (by omega)]
    rfl

/-- 13 R317: a contribution of one super-block. -/
theorem State.Arrives.contribution_taken {s : State} {k : Pkt} {i : Nat} {d : Session} (h : s.Arrives k i d) (hfresh : d.Fresh k)
    {c : Shard} {g : CGroup} {x : RCtx} (hone : bitsOf k.arg.toNat 16 3 = 1)
    (hc : (s.part d.part).ue.shards[k.dq.toNat]? = some c) (hg : s.cgroupOf d.part k.cgrp = some g) (hlost : g.lost = false)
    (hsb : k.ofs.toNat < c.nsb) (hopen : (s.part d.part).ue.closed k.step = false)
    (hrec : (s.part d.part).ue.recStep.get none (sbKey k.dq.toNat k.ofs.toNat) ≠ some k.step)
    (hx : s.Takes d.part d.peer k.dq.toNat k.ofs.toNat k.step k.cgrp g.rofs x) :
    exec (.rsContributionReceive k) s = .next ((((s.hears i d k).putCtx (x.hearing d.peer (k.payload.take 1056))).countPart d.part .rsRange
      (rsOutside x.rofs c.ncontrib (k.payload.take 1056))).booked i { k with type := tyData }) := by
  have htaken : (s.hears i d k).rsContribute d.part d.peer k.dq.toNat k.ofs.toNat k.step k.cgrp (k.payload.take 1056) = _ :=
    State.rsContribute_taken _ d.part d.peer k.dq.toNat k.ofs.toNat k.step k.cgrp (k.payload.take 1056) (x := x)
      (by rw [State.hears_part, hc]) (by rw [State.hears_cgroupOf, hg]) hlost hsb (by rw [State.hears_part, hopen])
      (by rw [State.hears_part]; exact hrec) (by rw [State.Takes, State.hears_ctxs]; exact hx)
  have hact : (s.hears i d k).rsPacket i d { k with coll := 1 } = (true,
      ((s.hears i d k).putCtx (x.hearing d.peer (k.payload.take 1056))).countPart d.part .rsRange
        (rsOutside x.rofs c.ncontrib (k.payload.take 1056))) := by
    rw [State.rsPacket]
    dsimp only
    rw [hone, cutSbs, cutSbs, State.rsRun, htaken]
    rfl
  exact congrArg Host.Outcome.next (h.booked hfresh rfl hact (NoNewRefusal.takeContribution ..))

/-- 13 R304: a gather request, super-block by super-block. -/
theorem State.Arrives.gather_taken {s : State} {k : Pkt} {i : Nat} {d : Session} (h : s.Arrives k i d) (hfresh : d.Fresh k) :
    exec (.gatherRequestReceive k) s = .next (((s.hears i d k).gatherTake ((List.range (fieldLE k.payload 0 4)).map fun j =>
      ⟨d.part, some i, 0, 0, k.dq.toNat, k.ofs.toNat + j, j, k.step⟩)).booked i { k with type := tyData }) := by
  refine congrArg Host.Outcome.next (h.booked hfresh rfl rfl (NoNewRefusal.gatherTake _ ?_ _))
  intro g hg
  obtain ⟨j, -, rfl⟩ := List.mem_map.mp hg
  exact ⟨i, rfl⟩

/-! #### Credits -/

/-- The act of a CREDIT: with no count it asks, with a count it grants. -/
def State.creditIn (t : State) (i : Nat) (d : Session) (k : Pkt) : Bool × State :=
  (true, if fieldLE k.payload 4 4 = 0 then t.creditAsked i d k (BitVec.ofNat 20 (fieldLE k.payload 0 4))
    else t.creditGranted i k (BitVec.ofNat 20 (fieldLE k.payload 0 4)) (fieldLE k.payload 4 4) (fieldLE k.payload 8 4))

/-- 13 R301: a sender asks for credits. -/
theorem State.Arrives.credit_asked {s : State} {k : Pkt} {i : Nat} {d : Session} (h : s.Arrives k i d) (hfresh : d.Fresh k)
    {dq : Qid} {q : Queue} (hdq : dq = BitVec.ofNat 20 (fieldLE k.payload 0 4)) (hzero : fieldLE k.payload 4 4 = 0)
    (hq : s.queue dq = some q) (hrxp : q.isRxp = true) (hpart : q.part = d.part) (hmb : isMbQueue dq = false)
    (hslot : k.coll = 3 → q.slotted = true) :
    exec (.creditReceive k) s =
      .next (((s.hears i d k).setQueue dq { q with waiters := q.waiters ++ [(i, k.coll == 3)] }).booked i { k with type := tyCredit }) := by
  have hok : (q.isRxp && q.part == d.part && !isMbQueue dq && (!(k.coll == 3) || q.slotted)) = true := by
    rw [hrxp, hpart, hmb]
    by_cases hcoll : k.coll = 3
    · simp [hslot hcoll]
    · rw [beq_false_of_ne hcoll]
      simp
  have hasked : (s.hears i d k).creditAsked i d k dq =
      (s.hears i d k).setQueue dq { q with waiters := q.waiters ++ [(i, k.coll == 3)] } := by
    rw [State.creditAsked, State.hears_queue, hq]
    dsimp only
    rw [if_pos hok]
  have hact : (s.hears i d k).creditIn i d k =
      (true, (s.hears i d k).setQueue dq { q with waiters := q.waiters ++ [(i, k.coll == 3)] }) := by
    rw [State.creditIn, if_pos hzero, ← hdq, hasked]
  exact congrArg Host.Outcome.next (h.booked hfresh rfl hact (NoNewRefusal.of_sessions rfl))

/-- 13 R301: credits granted change the session's books only. -/
theorem State.Arrives.credit_granted {s : State} {k : Pkt} {i : Nat} {d e : Session} (h : s.Arrives k i d) (hfresh : d.Fresh k)
    (hsome : fieldLE k.payload 4 4 ≠ 0) (hrefusing : e.refusing = d.refusing)
    (hgranted : (s.hears i d k).creditGranted i k (BitVec.ofNat 20 (fieldLE k.payload 0 4)) (fieldLE k.payload 4 4)
      (fieldLE k.payload 8 4) = (s.hears i d k).setSess i (some e)) :
    exec (.creditReceive k) s = .next (((s.hears i d k).setSess i (some e)).booked i { k with type := tyCredit }) := by
  have hact : (s.hears i d k).creditIn i d k = (true, (s.hears i d k).setSess i (some e)) := by
    rw [State.creditIn, if_neg hsome, hgranted]
  exact congrArg Host.Outcome.next (h.booked hfresh rfl hact
    (NoNewRefusal.setSess_same (s.hears_sess i d k) (hrefusing.trans (d.ackTo_refusing k.apsn).symm)))

/-- Credits of a queue for its messages (R301). -/
theorem State.creditGranted_messages (s : State) {i : Nat} {d : Session} {k : Pkt} (dq : Qid) (n slotb : Nat) (hd : s.sess i = some d)
    (hcoll : k.coll ≠ 3) : s.creditGranted i k dq n slotb = s.setSess i (some { d with
      credits := d.credits.set 0 dq.toNat (d.credits.get 0 dq.toNat + n)
      slotbs := d.slotbs.set 0 dq.toNat slotb
      asked := d.asked.erase dq }) := by
  rw [State.creditGranted, hd]
  exact if_neg hcoll

/-- Credits of a queue for all-to-all messages, none of which waits (R306). -/
theorem State.creditGranted_a2a (s : State) {i : Nat} {d : Session} {k : Pkt} {dq : Qid} (n slotb : Nat) (hd : s.sess i = some d)
    (hcoll : k.coll = 3) (hnone : ∀ m ∈ d.a2aWait, m.dq ≠ dq) : s.creditGranted i k dq n slotb = s.setSess i (some { d with
      credits := d.credits.set 0 dq.toNat (d.credits.get 0 dq.toNat + n) }) := by
  have hfind : (d.a2aWait.find? fun m => m.dq == dq) = none := List.find?_eq_none.mpr fun m hm h => hnone m hm (eq_of_beq h)
  rw [State.creditGranted, hd]
  dsimp only
  rw [if_pos hcoll, hfind]

/-! #### Notices -/

/-- Settles O57: each act on the woken module's state refuses nothing new, save the refusal itself, so its packet is booked. -/
theorem acceptedPacketsAct : Obligations.AcceptedPacketsAct := by
  intro s k i d h hfresh
  refine ⟨fun hhost hret hcoll hbad => h.reserved_refused hfresh hhost hret hcoll hbad, ?_, ?_, h.gather_taken hfresh, ?_, ?_⟩
  · intro q hhost hrelay hret hcoll hfmt hcached hq hrxp hposted hpart hmb hroom hfree hnew n w hw
    have hstored := h.message_stored hfresh hhost hrelay hret hcoll hfmt hcached hq hrxp hposted hpart hmb hroom hfree hnew hw
    rw [Queue.msgItem_piece] at hstored
    exact hstored
  · intro c g hone hc hg hlost hsb hopen hrec
    refine ⟨fun x hfind hheard => ?_, fun hfind hfew => ?_⟩
    · exact h.contribution_taken hfresh hone hc hg hlost hsb hopen hrec (Or.inl ⟨hfind, hheard⟩)
    · exact h.contribution_taken hfresh hone hc hg hlost hsb hopen hrec (Or.inr ⟨hfind, hfew, rfl⟩)
  · have hsess := s.hears_sess i d k
    refine ⟨fun q hzero hq hrxp hpart hmb hslot => h.credit_asked hfresh rfl hzero hq hrxp hpart hmb hslot, fun hsome hcoll => ?_,
      fun hsome hcoll hnone => ?_⟩
    · exact h.credit_granted hfresh hsome (d.ackTo_refusing k.apsn) (State.creditGranted_messages _ _ _ _ hsess hcoll)
    · refine h.credit_granted hfresh hsome (d.ackTo_refusing k.apsn) (State.creditGranted_a2a _ _ _ hsess hcoll ?_)
      rw [d.ackTo_a2aWait]
      exact hnone
  · refine ⟨congrArg Host.Outcome.next ?_, congrArg Host.Outcome.next ?_, congrArg Host.Outcome.next ?_, congrArg Host.Outcome.next ?_⟩
    · exact h.booked hfresh rfl rfl (NoNewRefusal.noteSkip ..)
    · exact h.booked hfresh rfl rfl ((NoNewRefusal.noteNorm ..).trans (NoNewRefusal.closeIfDone ..))
    · exact h.booked hfresh rfl rfl (NoNewRefusal.declareLost ..)
    · exact h.booked hfresh rfl rfl (NoNewRefusal.modEng _ rfl)

end Sys2Proof.Machine

/-! Memory in canonical form (11 R244, 05 R92, logs 3 and 4). The commands outside the hot-swap controller and the supplies keep the
form with all else that `Keeps` names (`exec_keeps`); MODULE_READY keeps it beside the fuses it blows; a command of the switch leaves
the memories as they are or takes their power away (`exec_memOk_of_movesSwitch`). -/

namespace Sys2Proof.Machine

/-- Every command but MODULE_READY and those of the hot-swap controller and the supplies keeps them, the queue and the fuses, and the
canonical form of memory. -/
theorem exec_keeps (s : State) : ∀ c : Instr, c.movesSwitch = false → c ≠ .moduleReady → OutKeeps s (exec c s)
  | .ldw .., _, _ => exec_ldw_keeps ..
  | .mma .., _, _ => exec_mma_keeps ..
  | .dist .., _, _ => exec_dist_keeps ..
  | .red .., _, _ => exec_red_keeps ..
  | .epi .., _, _ => exec_epi_keeps ..
  | .exchangeEpi .., _, _ => exec_exchangeEpi_keeps ..
  | .vec .., _, _ => exec_vec_keeps ..
  | .xpose .., _, _ => exec_xpose_keeps ..
  | .routeDispatch .., _, _ => exec_routeDispatch_keeps ..
  | .routeReuse .., _, _ => exec_routeReuse_keeps ..
  | .routeCombine .., _, _ => exec_routeCombine_keeps ..
  | .send .., _, _ => exec_send_keeps ..
  | .sendReduceScatter .., _, _ => exec_sendReduceScatter_keeps ..
  | .sendA2aReturn .., _, _ => exec_sendA2aReturn_keeps ..
  | .sendBroadcast .., _, _ => exec_sendBroadcast_keeps ..
  | .permute .., _, _ => exec_permute_keeps ..
  | .recv .., _, _ => exec_recv_keeps ..
  | .recvAllGather .., _, _ => exec_recvAllGather_keeps ..
  | .stash .., _, _ => exec_stash_keeps ..
  | .unstash .., _, _ => exec_unstash_keeps ..
  | .fence .., _, _ => exec_fence_keeps ..
  | .waitq .., _, _ => exec_waitq_keeps ..
  | .mark .., _, _ => exec_mark_keeps ..
  | .deadline .., _, _ => exec_deadline_keeps ..
  | .seed .., _, _ => exec_seed_keeps ..
  | .upd .., _, _ => exec_upd_keeps ..
  | .jump .., _, _ => exec_jump_keeps ..
  | .call .., _, _ => exec_call_keeps ..
  | .ret .., _, _ => exec_ret_keeps ..
  | .loop .., _, _ => exec_loop_keeps ..
  | .setlc .., _, _ => exec_setlc_keeps ..
  | .lossGuard .., _, _ => exec_lossGuard_keeps ..
  | .endStream .., _, _ => exec_endStream_keeps ..
  | .badOpcode .., _, _ => exec_badOpcode_keeps ..
  | .fetchError .., _, _ => exec_fetchError_keeps ..
  | .commandRetire .., _, _ => exec_commandRetire_keeps ..
  | .deadlinePassed .., _, _ => exec_deadlinePassed_keeps ..
  | .waitqTimeout .., _, _ => exec_waitqTimeout_keeps ..
  | .roundAdmission .., _, _ => exec_roundAdmission_keeps ..
  | .amaxPush .., _, _ => exec_amaxPush_keeps ..
  | .stashRelease .., _, _ => exec_stashRelease_keeps ..
  | .descriptorTake .., _, _ => exec_descriptorTake_keeps ..
  | .descriptorIssue .., _, _ => exec_descriptorIssue_keeps ..
  | .transferLanded .., _, _ => exec_transferLanded_keeps ..
  | .itemComplete .., _, _ => exec_itemComplete_keeps ..
  | .descriptorCacheFill .., _, _ => exec_descriptorCacheFill_keeps ..
  | .translationWalk .., _, _ => exec_translationWalk_keeps ..
  | .superblockComplete .., _, _ => exec_superblockComplete_keeps ..
  | .precondPhase2 .., _, _ => exec_precondPhase2_keeps ..
  | .updPendingApply .., _, _ => exec_updPendingApply_keeps ..
  | .gatherServe .., _, _ => exec_gatherServe_keeps ..
  | .dataReceive .., _, _ => exec_dataReceive_keeps ..
  | .ackReceive .., _, _ => exec_ackReceive_keeps ..
  | .keepaliveReceive .., _, _ => exec_keepaliveReceive_keeps ..
  | .openReceive .., _, _ => exec_openReceive_keeps ..
  | .openAckReceive .., _, _ => exec_openAckReceive_keeps ..
  | .closeReceive .., _, _ => exec_closeReceive_keeps ..
  | .creditReceive .., _, _ => exec_creditReceive_keeps ..
  | .noticeSkip .., _, _ => exec_noticeSkip_keeps ..
  | .noticeNorm .., _, _ => exec_noticeNorm_keeps ..
  | .noticePeerLost .., _, _ => exec_noticePeerLost_keeps ..
  | .noticeReady .., _, _ => exec_noticeReady_keeps ..
  | .rsContributionReceive .., _, _ => exec_rsContributionReceive_keeps ..
  | .gatherRequestReceive .., _, _ => exec_gatherRequestReceive_keeps ..
  | .a2aMessageReceive .., _, _ => exec_a2aMessageReceive_keeps ..
  | .a2aReturnReceive .., _, _ => exec_a2aReturnReceive_keeps ..
  | .ackTimer .., _, _ => exec_ackTimer_keeps ..
  | .retransmitTimer .., _, _ => exec_retransmitTimer_keeps ..
  | .keepaliveTimer .., _, _ => exec_keepaliveTimer_keeps ..
  | .keepaliveSilence .., _, _ => exec_keepaliveSilence_keeps ..
  | .portSignalDetect .., _, _ => exec_portSignalDetect_keeps ..
  | .autonegComplete .., _, _ => exec_autonegComplete_keeps ..
  | .linkTrainingComplete .., _, _ => exec_linkTrainingComplete_keeps ..
  | .pcsLock .., _, _ => exec_pcsLock_keeps ..
  | .portDown .., _, _ => exec_portDown_keeps ..
  | .helloReceive .., _, _ => exec_helloReceive_keeps ..
  | .helloTimer .., _, _ => exec_helloTimer_keeps ..
  | .directTimeout .., _, _ => exec_directTimeout_keeps ..
  | .stepWindow .., _, _ => exec_stepWindow_keeps ..
  | .stepReqReceive .., _, _ => exec_stepReqReceive_keeps ..
  | .stepAckReceive .., _, _ => exec_stepAckReceive_keeps ..
  | .stepNakReceive .., _, _ => exec_stepNakReceive_keeps ..
  | .stepReqTimeout .., _, _ => exec_stepReqTimeout_keeps ..
  | .laneSwitch .., _, _ => exec_laneSwitch_keeps ..
  | .adaptWindowDue .., _, _ => exec_adaptWindowDue_keeps ..
  | .adaptFloorForced .., _, _ => exec_adaptFloorForced_keeps ..
  | .adaptReqReceive .., _, _ => exec_adaptReqReceive_keeps ..
  | .adaptAckReceive .., _, _ => exec_adaptAckReceive_keeps ..
  | .adaptWindowEnd .., _, _ => exec_adaptWindowEnd_keeps ..
  | .frameReceive .., _, _ => exec_frameReceive_keeps ..
  | .assemblyTimeout .., _, _ => exec_assemblyTimeout_keeps ..
  | .frameTransmit .., _, _ => exec_frameTransmit_keeps ..
  | .announceTimer, _, _ => exec_announceTimer_keeps ..
  | .announceReceive .., _, _ => exec_announceReceive_keeps ..
  | .announceAbsence .., _, _ => exec_announceAbsence_keeps ..
  | .mpCollision, _, _ => exec_mpCollision_keeps ..
  | .mpRequestSegment .., _, _ => exec_mpRequestSegment_keeps ..
  | .mpRequestTimeout .., _, _ => exec_mpRequestTimeout_keeps ..
  | .hostMessage .., _, _ => exec_hostMessage_keeps ..
  | .mbDoorbell .., _, _ => exec_mbDoorbell_keeps ..
  | .mbAbort .., _, _ => exec_mbAbort_keeps ..
  | .mbRole .., _, _ => exec_mbRole_keeps ..
  | .hostTable .., _, _ => exec_hostTable_keeps ..
  | .moduleSet .., _, _ => exec_moduleSet_keeps ..
  | .portSet .., _, _ => exec_portSet_keeps ..
  | .steerSet .., _, _ => exec_steerSet_keeps ..
  | .fwdSet .., _, _ => exec_fwdSet_keeps ..
  | .plCap .., _, _ => exec_plCap_keeps ..
  | .sleep .., _, _ => exec_sleep_keeps ..
  | .resetWarm .., _, _ => exec_resetWarm_keeps ..
  | .resetRetrain .., _, _ => exec_resetRetrain_keeps ..
  | .islandReset .., _, _ => exec_islandReset_keeps ..
  | .flashWriteFirmware .., _, _ => exec_flashWriteFirmware_keeps ..
  | .flashWriteCalibration .., _, _ => exec_flashWriteCalibration_keeps ..
  | .flashWriteConfig .., _, _ => exec_flashWriteConfig_keeps ..
  | .partCreate .., _, _ => exec_partCreate_keeps ..
  | .partDelete .., _, _ => exec_partDelete_keeps ..
  | .partReset .., _, _ => exec_partReset_keeps ..
  | .coreAssign .., _, _ => exec_coreAssign_keeps ..
  | .coreUnassign .., _, _ => exec_coreUnassign_keeps ..
  | .regionMap .., _, _ => exec_regionMap_keeps ..
  | .regionUnmap .., _, _ => exec_regionUnmap_keeps ..
  | .regionSetRights .., _, _ => exec_regionSetRights_keeps ..
  | .stashSet .., _, _ => exec_stashSet_keeps ..
  | .queueCreate .., _, _ => exec_queueCreate_keeps ..
  | .queueEnable .., _, _ => exec_queueEnable_keeps ..
  | .queueDisable .., _, _ => exec_queueDisable_keeps ..
  | .queueDelete .., _, _ => exec_queueDelete_keeps ..
  | .programLoad .., _, _ => exec_programLoad_keeps ..
  | .streamStart .., _, _ => exec_streamStart_keeps ..
  | .streamCancel .., _, _ => exec_streamCancel_keeps ..
  | .plRequest .., _, _ => exec_plRequest_keeps ..
  | .queueRead .., _, _ => exec_queueRead_keeps ..
  | .queueDoorbell .., _, _ => exec_queueDoorbell_keeps ..
  | .queueAbort .., _, _ => exec_queueAbort_keeps ..
  | .counterRead .., _, _ => exec_counterRead_keeps ..
  | .stepLogRead .., _, _ => exec_stepLogRead_keeps ..
  | .auditState .., _, _ => exec_auditState_keeps ..
  | .checkpoint .., _, _ => exec_checkpoint_keeps ..
  | .restore .., _, _ => exec_restore_keeps ..
  | .partStatus .., _, _ => exec_partStatus_keeps ..
  | .moduleStatus .., _, _ => exec_moduleStatus_keeps ..
  | .eventRead .., _, _ => exec_eventRead_keeps ..
  | .telemetryRead .., _, _ => exec_telemetryRead_keeps ..
  | .fruRead .., _, _ => exec_fruRead_keeps ..
  | .attest .., _, _ => exec_attest_keeps ..
  | .badCommand .., _, _ => exec_badCommand_keeps ..
  | .mrstNAssert .., _, _ => exec_mrstNAssert_keeps ..
  | .mrstNRelease, _, _ => exec_mrstNRelease_keeps ..
  | .mrstNLong, _, _ => exec_mrstNLong_keeps ..
  | .selfRefreshTimeout .., _, _ => exec_selfRefreshTimeout_keeps ..
  | .watchdogExpiry .., _, _ => exec_watchdogExpiry_keeps ..
  | .fatalError .., _, _ => exec_fatalError_keeps ..
  | .groupRelease, _, _ => exec_groupRelease_keeps ..
  | .hbmTrainingComplete .., _, _ => exec_hbmTrainingComplete_keeps ..
  | .hbmSelfTestComplete .., _, _ => exec_hbmSelfTestComplete_keeps ..
  | .warmTrainingCheck .., _, _ => exec_warmTrainingCheck_keeps ..
  | .rmvReq .., _, _ => exec_rmvReq_keeps ..
  | .quiesced, _, _ => exec_quiesced_keeps ..
  | .controlLoopTick .., _, _ => exec_controlLoopTick_keeps ..
  | .thermCrit .., _, _ => exec_thermCrit_keeps ..
  | .thermCritRelease .., _, _ => exec_thermCritRelease_keeps ..
  | .levelChangeComplete .., _, _ => exec_levelChangeComplete_keeps ..
  | .telemetrySample .., _, _ => exec_telemetrySample_keeps ..
  | .wake .., _, _ => exec_wake_keeps ..
  | .scrubSlotDue .., _, _ => exec_scrubSlotDue_keeps ..
  | .scrubFloor .., _, _ => exec_scrubFloor_keeps ..
  | .meshParityRetry .., _, _ => exec_meshParityRetry_keeps ..
  | .mpBackoffEnd, _, _ => exec_mpBackoffEnd_keeps ..
  | .gpioSecondPulse .., _, _ => exec_gpioSecondPulse_keeps ..
  | .stackTemperatureCrossing .., _, _ => exec_stackTemperatureCrossing_keeps ..
  | .moduleReady, _, hready => absurd rfl hready

/-- 15 R362: MODULE_READY blows fuses beside what `Keeps` covers, and no memory. -/
theorem exec_moduleReady_memOk {s t : State} (h : s.MemOk) (hexec : exec .moduleReady s = .next t) : t.MemOk := by
  obtain rfl | ⟨u, hready, hrest⟩ := execModuleReady_split hexec
  · exact h
  · exact hrest.mem (State.readyArc_mem (hready.mem h))

/-- The memories of the state that a command leaves are in canonical form. -/
def OutMemOk : Host.Outcome State Fault Refusal → Prop
  | .next t => t.MemOk
  | _ => True

theorem OutMemOk.ite {x y : Host.Outcome State Fault Refusal} {c : Prop} [Decidable c] (hx : OutMemOk x) (hy : OutMemOk y) :
    OutMemOk (if c then x else y) := by
  split
  · exact hx
  · exact hy

theorem OutMemOk.of_next {x : Host.Outcome State Fault Refusal} {t : State} (h : OutMemOk x) (e : x = .next t) : t.MemOk := by
  subst e; exact h

/-- SUPPLIES_VALID starts the residency counters of every core again. -/
theorem execSuppliesValid_memOk {s : State} (h : s.MemOk) : OutMemOk (execSuppliesValid s) :=
  .ite ⟨h.1, coresMap_ok (f := fun k => { k with resPl := [] }) (fun _ hk => hk) h.2⟩ h

/-- A thermal shutdown resets the groups and loses the HBM. -/
theorem execThermShutdown_memOk {s : State} (r : Reading) (h : s.MemOk) : OutMemOk (execThermShutdown r s) :=
  .ite ((State.loseHbm_keeps (State.resetGroups_keeps (Keeps.refl s))).mem h) h

theorem State.MemOk.modHs {s : State} (h : s.MemOk) (f : HotSwap → HotSwap) : (s.modHs f).MemOk := h

/-- Without power the memories are empty. -/
theorem State.MemOk.modHs_powerOff (s : State) (f : HotSwap → HotSwap) : (s.powerOff.modHs f).MemOk := (State.powerOff_mem s).modHs f

/-- A write to HS_CTL may turn the switch off (18 Table 18.5); every other write changes the controller alone. -/
theorem execRegisterWrite_memOk {s : State} (o v : BitVec 8) (h : s.MemOk) : OutMemOk (execRegisterWrite o v s) :=
  .ite (.ite (.modHs_powerOff _ _) (h.modHs _)) (.ite ((h.modHs _).modHs _) (h.modHs _))

/-- The meter's sample shows in the controller and counts in the always-on island. -/
theorem execPowerMeterSample_memOk {s : State} (u i : BitVec 32) (h : s.MemOk) : OutMemOk (execPowerMeterSample u i s) :=
  .ite h h

/-- A command of the hot-swap controller or of the supplies leaves the memories as they are, or takes their power away. -/
theorem exec_memOk_of_movesSwitch {s : State} (h : s.MemOk) {c : Instr} (hswitch : c.movesSwitch = true) : OutMemOk (exec c s) := by
  cases c with
  | suppliesValid => exact execSuppliesValid_memOk h
  | thermShutdown r => exact execThermShutdown_memOk r h
  | registerWrite o v => exact execRegisterWrite_memOk o v h
  | powerMeterSample u i => exact execPowerMeterSample_memOk u i h
  | seatAssert | inputUndervoltage | inputOvervoltage | inputReturn => exact h.modHs _
  | debounceComplete | inputOvercurrent | inputShortCircuit | pcycleRestart => exact .ite (h.modHs _) h
  | seatDeassert | vinPowerUp | railsFall | pcycle => exact .modHs_powerOff s _
  | _ => cases hswitch

theorem exec_memOk {s t : State} {c : Instr} (h : s.MemOk) (hexec : exec c s = .next t) : t.MemOk := by
  cases hswitch : c.movesSwitch with
  | true => exact (exec_memOk_of_movesSwitch h hswitch).of_next hexec
  | false =>
    by_cases hready : c = .moduleReady
    · subst hready
      exact exec_moduleReady_memOk h hexec
    · have hkeeps := exec_keeps s c hswitch hready
      rw [hexec] at hkeeps
      exact hkeeps.mem h

/-- Settles O5: a step is a tick, or the command at the front on a state with the same memories. -/
theorem memoryStaysCanonical : Obligations.MemoryStaysCanonical := by
  intro s t h hstep
  cases hpending : s.pending with
  | nil =>
    have htick : step s = .next s.tick := by rw [step, hpending]
    rw [htick] at hstep
    exact Host.Outcome.next.inj hstep ▸ (State.tick_keeps (Keeps.refl s)).mem h
  | cons c cs =>
    have hexec : step s = exec c { s with pending := cs } := by rw [step, hpending]
    exact exec_memOk (s := { s with pending := cs }) h (hexec ▸ hstep)

end Sys2Proof.Machine

/-! HBM at a start (11 R245, 15 R354, R355, Tables 15.6, 15.7). Each of the three commands acts in the state in which it can come
(`State.hbmStarting`, `State.warmStarting`) and there by its operand alone: what a failed stack brings is `State.hbmFailed`, what lost
training brings `State.loseTraining`. -/

namespace Sys2Proof.Machine

/-- 15 R361: a failed stack fails the module and is logged with its number. -/
theorem State.hbmFailed_eq (s : State) (h : StackId) : s.hbmFailed h = { s with
    aon := { s.aon with mstate := .failed }
    reg := { s.reg with logs := s.reg.logs.write s.now evHbmInitFail (27 + h.val) srcNone [BitVec.ofNat 8 h.val] } } := rfl

/-- 15 R355: with the training the contents of the HBM are lost, and the start goes on as a retraining start. -/
theorem State.loseTraining_eq (s : State) : s.loseTraining = { s with
    hbm := .reset, stk := s.stk.map fun k => { k with trained := false }, reg := { s.reg with logs := .reset }
    aon := { s.aon with retained := false, start := .retrain, hbmTrained := false } } := rfl

/-! #### Training and the self-test -/

theorem exec_hbmTrainingComplete (s : State) (hruns : (s.hbmStarting && !s.aon.hbmTrained) = true) :
    exec (.hbmTrainingComplete none) s = .next { s with aon := { s.aon with hbmTrained := true } } ∧
    ∀ h, exec (.hbmTrainingComplete (some h)) s = .next (s.hbmFailed h) :=
  ⟨if_pos hruns, fun _ => if_pos hruns⟩

/-- The state after a self-test that every stack passes (Table 15.6). -/
def State.selfTested (s : State) : State := { s with
  aon := { s.aon with hbmTested := true, retained := true }, hbm := .reset, free := s.free + 8
  stk := s.stk.mapIdx fun i k => { k with trained := true, trainTemp := s.trainTemps (Fin.ofNat 8 i) } }

theorem exec_hbmSelfTestComplete (s : State) (hruns : (s.hbmStarting && s.aon.hbmTrained) = true) :
    exec (.hbmSelfTestComplete none) s = .next s.selfTested ∧
    ∀ h, exec (.hbmSelfTestComplete (some h)) s = .next (s.hbmFailed h) :=
  ⟨if_pos hruns, fun _ => if_pos hruns⟩

theorem State.stack_selfTested (s : State) (k : StackId) :
    s.selfTested.stack k = { s.stack k with trained := true, trainTemp := s.trainTemps k } := by
  simp [State.stack, State.selfTested]

/-! #### The warm check -/

/-- Some stack lies more than 20 °C from the temperature of its training (15 R355). -/
def State.Apart (s : State) (temps : List Word) : Prop :=
  ∃ k : StackId, ∃ x, temps[k.val]? = some x ∧ tempsApart x (s.stack k).trainTemp = true

/-- The warm check can come: the HBM is not tested on a warm start that has released group 4. -/
def State.warmStarting (s : State) : Bool := s.aon.mstate == .booting && s.aon.group == 4 && s.aon.start == .warm && !s.aon.hbmTested

theorem exec_warmTrainingCheck_apart {s : State} {temps : List Word} (hruns : s.warmStarting = true) (hapart : s.Apart temps) (ok : Bool) :
    exec (.warmTrainingCheck ok temps) s = .next s.loseTraining := by
  obtain ⟨k, x, hx, hfar⟩ := hapart
  refine (if_pos hruns).trans (if_pos (List.any_eq_true.mpr ⟨k, List.mem_finRange k, ?_⟩))
  rw [hx]
  exact hfar

theorem exec_warmTrainingCheck_near {s : State} {temps : List Word} (hruns : s.warmStarting = true) (hnear : ¬s.Apart temps) :
    exec (.warmTrainingCheck true temps) s = .next { s with aon := { s.aon with hbmTrained := true, hbmTested := true } } ∧
    exec (.warmTrainingCheck false temps) s = .next (s.loseTraining.logEvent evHbmRetrain 53 srcNone []) := by
  have hnone : ∀ ok, exec (.warmTrainingCheck ok temps) s =
      if ok then .next (s.modAon fun a => { a with hbmTrained := true, hbmTested := true })
      else .next (s.loseTraining.logEvent evHbmRetrain 53 srcNone []) := by
    refine fun ok => (if_pos hruns).trans (if_neg fun hany => hnear ?_)
    obtain ⟨k, -, hk⟩ := List.any_eq_true.mp hany
    split at hk
    next x hx => exact ⟨k, x, hx, hk⟩
    next => cases hk
  exact ⟨hnone true, hnone false⟩

/-- Settles O37: each command meets its condition and acts by its operand. -/
theorem hbmStartEndsInTrainedStacksOrFailure : Obligations.HbmStartEndsInTrainedStacksOrFailure := by
  intro s h temps hstate hgroup htested
  refine ⟨fun hwarm htrained => ?_, fun hwarm htrained => ?_, fun hwarm => ?_⟩
  · obtain ⟨hdone, hfail⟩ := exec_hbmTrainingComplete s (by simp [State.hbmStarting, hstate, hgroup, htested, hwarm, htrained])
    exact ⟨hdone, (hfail h).trans (congrArg Host.Outcome.next (s.hbmFailed_eq h))⟩
  · obtain ⟨hdone, hfail⟩ := exec_hbmSelfTestComplete s (by simp [State.hbmStarting, hstate, hgroup, htested, hwarm, htrained])
    refine ⟨(hfail h).trans (congrArg Host.Outcome.next (s.hbmFailed_eq h)), _, hdone, fun k => ?_, rfl⟩
    rw [State.stack_selfTested]
    exact ⟨rfl, _, rfl⟩
  · have hruns : s.warmStarting = true := by simp [State.warmStarting, hstate, hgroup, htested, hwarm]
    refine ⟨fun hapart ok => ?_, fun hnear => ?_⟩
    · rw [exec_warmTrainingCheck_apart hruns hapart, State.loseTraining_eq]
    · obtain ⟨hpass, hfail⟩ := exec_warmTrainingCheck_near hruns hnear
      refine ⟨hpass, hfail.trans ?_⟩
      rw [State.loseTraining_eq]
      rfl

end Sys2Proof.Machine

/-! Patrol scrub and mesh parity (11 R247, R261, R262, 16 R382, 17 R389). A scrub of pieces without an uncorrectable codeword changes one
stack and the check state of that slot's codewords (`State.scrubPcs_setStack`), which is what the statement says of it
(`State.scrubbed`); both commands are that scrub, of a stack that is marked due, and its counters of the floor. -/

namespace Sys2Proof.Machine

/-! #### Counters and check state -/

theorem bump_get_same (width : Nat) (m : Smap Nat) (i k : Nat) : (bump width m i k).get 0 i = satAdd width (m.get 0 i) k :=
  Smap.get_set_same ..

theorem bump_get_other (width : Nat) (m : Smap Nat) {i j : Nat} (k : Nat) (h : j ≠ i) : (bump width m i k).get 0 j = m.get 0 j :=
  Smap.get_set_other _ _ _ _ _ h

/-- One event on the counter for each element of a list. -/
def bumpEach {α : Type} (width i : Nat) (xs : List α) (m : Smap Nat) : Smap Nat := xs.foldl (fun m _ => bump width m i 1) m

theorem bumpEach_get_same {α : Type} (width i : Nat) (xs : List α) (m : Smap Nat) :
    (bumpEach width i xs m).get 0 i = xs.foldl (fun n _ => satAdd width n 1) (m.get 0 i) := by
  induction xs generalizing m with
  | nil => rfl
  | cons x xs ih => rw [bumpEach, List.foldl_cons, ← bumpEach, ih, bump_get_same, List.foldl_cons]

theorem bumpEach_get_other {α : Type} (width : Nat) {i j : Nat} (xs : List α) (m : Smap Nat) (h : j ≠ i) :
    (bumpEach width i xs m).get 0 j = m.get 0 j := by
  induction xs generalizing m with
  | nil => rfl
  | cons x xs ih => rw [bumpEach, List.foldl_cons, ← bumpEach, ih, bump_get_other _ _ _ h]

/-- The check state with the listed codewords corrected. -/
def eccGood (ecc : Smap Ecc) (ws : List Nat) : Smap Ecc := ws.foldl (fun m w => m.set .good w .good) ecc

theorem eccGood_get (ws : List Nat) (ecc : Smap Ecc) (w : Nat) :
    (eccGood ecc ws).get .good w = if w ∈ ws then .good else ecc.get .good w := by
  induction ws generalizing ecc with
  | nil => rfl
  | cons v ws ih =>
    rw [eccGood, List.foldl_cons, ← eccGood, ih]
    by_cases hv : w = v
    · subst hv
      simp
    · rw [Smap.get_set_other _ _ _ _ _ hv]
      simp [hv]

theorem State.clearWords_eq (ws : List Nat) (s : State) :
    s.clearWords ws = { s with hbm := { s.hbm with ecc := eccGood s.hbm.ecc ws } } := by
  induction ws generalizing s with
  | nil => rfl
  | cons w ws ih => rw [State.clearWords, ih]; rfl

theorem State.setStack_setStack (s : State) (k : StackId) (q r : Stack) : (s.setStack k q).setStack k r = s.setStack k r := by
  simp [State.setStack]

theorem State.countStack_setStack (s : State) (k : StackId) (q : Stack) (c : StackCnt) (n : Nat) :
    (s.setStack k q).countStack k c n = s.setStack k { q with cnt := bump c.width q.cnt c.idx n } := by
  rw [State.countStack, State.modStack, State.stack_setStack_same, State.setStack_setStack]

theorem State.countWords_setStack {s : State} {k : StackId} (c : StackCnt) (ws : List Nat) (q : Stack)
    (hws : ∀ w ∈ ws, s.hbm.stackOf (w * 64) = k) :
    (s.setStack k q).countWords c ws = s.setStack k { q with cnt := bumpEach c.width c.idx ws q.cnt } := by
  induction ws generalizing q with
  | nil => rfl
  | cons w ws ih =>
    rw [State.countWords, State.setStack_hbm, hws w List.mem_cons_self, State.countStack_setStack,
      ih _ fun v hv => hws v (List.mem_cons_of_mem _ hv)]
    rfl

theorem Hbm.stackOf_slotWords {h : Hbm} {k : StackId} {slot w : Nat} {pcs : List Nat} {st : Ecc} (hw : w ∈ h.slotWords k slot pcs st) :
    h.stackOf (w * 64) = k := by
  simp only [Hbm.slotWords, List.mem_map, List.mem_filter, Bool.and_eq_true, beq_iff_eq] at hw
  obtain ⟨e, ⟨-, ⟨⟨-, hk⟩, -⟩, -⟩, rfl⟩ := hw
  exact hk

/-! #### The pieces of a slot -/

/-- The pieces of a slot that have been read once those of `pcs` have. -/
def gotWith (got : BitVec 32) (pcs : List Nat) : BitVec 32 := pcs.foldl (fun b n => b ||| BitVec.ofNat 32 (2 ^ n)) got

theorem getLsbD_gotWith (pcs : List Nat) (got : BitVec 32) {n : Nat} (hn : n < 32) :
    (gotWith got pcs).getLsbD n = (got.getLsbD n || pcs.contains n) := by
  induction pcs generalizing got with
  | nil => simp [gotWith]
  | cons m pcs ih =>
    rw [gotWith, List.foldl_cons, ← gotWith, ih]
    have hbit : (BitVec.ofNat 32 (2 ^ m)).getLsbD n = decide (n = m) := by
      rw [BitVec.getLsbD_ofNat, Nat.testBit_two_pow]
      simp [hn, eq_comm]
    rw [BitVec.getLsbD_or, hbit, List.contains_cons, Bool.or_assoc]
    rfl

theorem Stack.markPcs_eq (q : Stack) (pcs : List Nat) : q.markPcs pcs =
    let got := gotWith q.scrubGot pcs
    let whole := got = BitVec.allOnes 32
    { q with
      scrubGot := if whole then 0 else got
      scrubSlot := if whole then (if q.scrubSlot + 1 < 49152 then q.scrubSlot + 1 else 0) else q.scrubSlot
      scrubPass := if whole ∧ 49152 ≤ q.scrubSlot + 1 then q.scrubPass + 1 else q.scrubPass
      scrubDue := if whole then none else q.scrubDue } := by
  by_cases hwhole : gotWith q.scrubGot pcs = BitVec.allOnes 32
  · have hmark : q.markPcs pcs = q.nextSlot := if_pos hwhole
    rw [hmark, Stack.nextSlot]
    split
    next hlast => simp only [hwhole, hlast, if_true, true_and, if_neg (Nat.not_le.mpr hlast)]
    next hlast => simp only [hwhole, hlast, if_true, true_and, if_false, if_pos (Nat.not_lt.mp hlast)]
  · have hmark : q.markPcs pcs = { q with scrubGot := gotWith q.scrubGot pcs } := if_neg hwhole
    simp only [hmark, hwhole, if_false, false_and]

/-- A scrub that meets no uncorrectable codeword: the single errors of its pieces are counted and corrected, and the stack notes them. -/
theorem State.scrubPcs_setStack {s : State} {k : StackId} {q : Stack} {pcs ce : List Nat}
    (hue : s.hbm.slotWords k q.scrubSlot pcs .double = []) (hce : s.hbm.slotWords k q.scrubSlot pcs .single = ce) :
    (s.setStack k q).scrubPcs k pcs = ({ s with hbm := { s.hbm with ecc := eccGood s.hbm.ecc ce } } : State).setStack k
      ({ q with cnt := bumpEach 32 StackCnt.scrubCe.idx ce q.cnt }.markPcs pcs) := by
  rw [State.scrubPcs]
  simp only [State.stack_setStack_same, State.setStack_hbm]
  rw [hue, hce, State.countWords_setStack _ _ _ fun w hw => Hbm.stackOf_slotWords (hce ▸ hw), State.clearWords_eq]
  simp [State.scrubUes, State.modStack, State.setStack, State.stack, StackCnt.width]

/-- What the read of some pieces of stack `k`'s slot, due since `due`, makes of the module when it meets no uncorrectable codeword
(11 R261): their single errors are counted and good, the pieces are noted, and with the last of them the slot is passed. -/
def State.SlotRead (s : State) (k : StackId) (pcs : List Nat) (due : BitVec 64) (t : State) : Prop :=
  let q := s.stack k
  let ce := s.hbm.slotWords k q.scrubSlot pcs .single
  ∃ got : BitVec 32, (∀ n : Nat, n < 32 → got.getLsbD n = (q.scrubGot.getLsbD n || pcs.contains n)) ∧
    (∀ w : Nat, t.hbm.ecc.get .good w = if w ∈ ce then .good else s.hbm.ecc.get .good w) ∧
    t.hbm = { s.hbm with ecc := t.hbm.ecc } ∧
    (t.stack k).cnt.get 0 StackCnt.scrubCe.idx = ce.foldl (fun m _ => satAdd 32 m 1) (q.cnt.get 0 StackCnt.scrubCe.idx) ∧
    (let whole := got = BitVec.allOnes 32
     t.stack k = { q with
       cnt := (t.stack k).cnt
       scrubGot := if whole then 0 else got
       scrubSlot := if whole then (if q.scrubSlot + 1 < 49152 then q.scrubSlot + 1 else 0) else q.scrubSlot
       scrubPass := if whole ∧ 49152 ≤ q.scrubSlot + 1 then q.scrubPass + 1 else q.scrubPass
       scrubDue := if whole then none else some due }) ∧
    (∀ h : StackId, h ≠ k → t.stack h = s.stack h) ∧ t = { s with hbm := t.hbm, stk := t.stk }

/-- A stack whose slot has been due since `due`, with counters `cnt`. -/
def Stack.dueSince (q : Stack) (due : BitVec 64) (cnt : Smap Nat) : Stack := { q with cnt := cnt, scrubDue := some due }

theorem State.scrubPcs_dueSince {s : State} {k : StackId} {pcs : List Nat} (due : BitVec 64) {cnt : Smap Nat}
    (hue : s.hbm.slotWords k (s.stack k).scrubSlot pcs .double = [])
    (hcnt : cnt.get 0 StackCnt.scrubCe.idx = (s.stack k).cnt.get 0 StackCnt.scrubCe.idx) :
    let t := (s.setStack k ((s.stack k).dueSince due cnt)).scrubPcs k pcs
    s.SlotRead k pcs due t ∧ ∀ n, n ≠ StackCnt.scrubCe.idx → (t.stack k).cnt.get 0 n = cnt.get 0 n := by
  intro t
  obtain ⟨ce, hce⟩ : ∃ ce, s.hbm.slotWords k (s.stack k).scrubSlot pcs .single = ce := ⟨_, rfl⟩
  have ht : t = _ := State.scrubPcs_setStack (q := (s.stack k).dueSince due cnt) hue hce
  have hstack : t.stack k = _ := (congrArg (State.stack · k) ht).trans ((State.stack_setStack_same ..).trans (Stack.markPcs_eq ..))
  refine ⟨⟨gotWith (s.stack k).scrubGot pcs, fun n hn => getLsbD_gotWith _ _ hn, fun w => ?_, ?_, ?_, ?_, fun h hh => ?_, ?_⟩,
    fun n hn => ?_⟩
  · rw [ht, hce]
    exact eccGood_get ..
  · rw [ht]; rfl
  · rw [hstack, hce, ← hcnt]
    exact bumpEach_get_same ..
  · rw [hstack]; rfl
  · rw [ht]
    exact State.stack_setStack_other _ _ _ _ hh
  · rw [ht]; rfl
  · rw [hstack]
    exact bumpEach_get_other _ _ _ hn

/-- The read changes check state and stacks, so nothing goes on that waited. -/
theorem State.SlotRead.settle {s t : State} {k : StackId} {pcs : List Nat} {due : BitVec 64} (h : s.SlotRead k pcs due t)
    (hstill : s.still = true) : t.settle = t := by
  obtain ⟨-, -, -, -, -, -, -, ht⟩ := h
  refine State.settle_of_still ?_
  rw [ht]
  exact State.still_congr hstill (fun _ => rfl) rfl rfl rfl rfl

/-! #### The two commands of the scrub -/

theorem exec_scrubSlotDue {s : State} {k : StackId} (hruns : s.scrubRuns k = true) : exec (.scrubSlotDue k) s =
    .next ((s.setStack k ((s.stack k).dueSince ((s.stack k).scrubDue.getD s.aon.time) (s.stack k).cnt)).scrubPcs k
      ((List.range 32).filter fun n => !(s.stack k).scrubGot.getLsbD n && !s.pcBusy k n)).settle := by
  refine (if_pos hruns).trans (congrArg (fun t : State => Host.Outcome.next t.settle) ?_)
  rw [State.modStack, State.scrubIdle, State.stack_setStack_same, Stack.pcsLeft, List.filter_filter]
  exact congrArg (State.scrubPcs _ k) (List.filter_congr fun n _ => Bool.and_comm ..)

/-- The counters of a stack after a floor of `ns` (16 R382). -/
def Stack.floorCounted (q : Stack) (ns : Nat) : Smap Nat := bump 48 (bump 48 q.cnt StackCnt.floorScrub.idx 1) StackCnt.floorScrubNs.idx ns

theorem Stack.floorCounted_get (q : Stack) (ns : Nat) :
    (q.floorCounted ns).get 0 StackCnt.scrubCe.idx = q.cnt.get 0 StackCnt.scrubCe.idx ∧
    (q.floorCounted ns).get 0 StackCnt.floorScrub.idx = satAdd 48 (q.cnt.get 0 StackCnt.floorScrub.idx) 1 ∧
    (q.floorCounted ns).get 0 StackCnt.floorScrubNs.idx = satAdd 48 (q.cnt.get 0 StackCnt.floorScrubNs.idx) ns := by
  refine ⟨?_, ?_, ?_⟩ <;> rw [Stack.floorCounted]
  · rw [bump_get_other _ _ _ (by decide), bump_get_other _ _ _ (by decide)]
  · rw [bump_get_other _ _ _ (by decide), bump_get_same]
  · rw [bump_get_same, bump_get_other _ _ _ (by decide)]

/-- A floor at or after the second that a due slot has (16 R382) needs no time to pass. -/
theorem exec_scrubFloor {s : State} {k : StackId} {d : BitVec 64} (ns : Nat) (hruns : s.scrubRuns k = true)
    (hdue : (s.stack k).scrubDue = some d) (hfloor : d.toNat + 1000000000 ≤ s.now) : exec (.scrubFloor k ns) s =
    .next ((s.setStack k ((s.stack k).dueSince d ((s.stack k).floorCounted ns))).scrubPcs k (s.stack k).pcsLeft).settle := by
  have hnow : s.advanceTo (d.toNat + 1000000000) = s := if_neg (Nat.not_lt.mpr hfloor)
  have hcount : (s.countStack k .floorScrub 1).countStack k .floorScrubNs ns =
      s.setStack k ((s.stack k).dueSince d ((s.stack k).floorCounted ns)) := by
    rw [Stack.dueSince, ← hdue]
    exact State.countStack_setStack s k _ .floorScrubNs ns
  refine (if_pos hruns).trans ?_
  rw [hdue]
  dsimp only
  rw [hnow, hcount]

/-! #### Mesh parity -/

theorem exec_meshParityRetry {s : State} (a b : BitVec 8) (n : Nat) (k : FlitKind) (hpow : s.powered = true) (hgroup : 3 ≤ s.aon.group) :
    exec (.meshParityRetry a b n k) s = .next (if n < 8 then s.logEvent evMeshParity a.toNat srcNone
      (bytesLE 1 a.toNat ++ bytesLE 1 b.toNat ++ bytesLE 1 n) else (s.flitLost k).settle) := by
  refine (if_pos (by simp [hpow, hgroup])).trans ?_
  split <;> rfl

/-- Settles O45: the scrub commands by `State.scrubPcs_dueSince`, the parity of a flit by the number of its attempt. -/
theorem scrubAndMeshParity : Obligations.ScrubAndMeshParity := by
  refine ⟨fun s k ns hstill hruns => ⟨fun hue => ?_, fun d hue hdue hfloor => ?_⟩,
    fun s a b n k p h hpow hgroup => ⟨fun hn => ?_, fun hn => ?_⟩⟩
  · obtain ⟨hread, hcnt⟩ := State.scrubPcs_dueSince ((s.stack k).scrubDue.getD s.aon.time) hue rfl
    exact ⟨_, (exec_scrubSlotDue hruns).trans (congrArg _ (hread.settle hstill)), hread, hcnt⟩
  · obtain ⟨hce, hfloors, hns⟩ := (s.stack k).floorCounted_get ns
    obtain ⟨hread, hcnt⟩ := State.scrubPcs_dueSince (pcs := (s.stack k).pcsLeft) d hue hce
    refine ⟨_, (exec_scrubFloor ns hruns hdue hfloor).trans (congrArg _ (hread.settle hstill)), hread, ?_, ?_⟩
    · rw [hcnt _ (by decide), hfloors]
    · rw [hcnt _ (by decide), hns]
  · rw [exec_meshParityRetry a b n _ hpow hgroup, if_pos hn]
    simp [State.logEvent, State.modReg, bytesLE]
  · simp only [exec_meshParityRetry a b n _ hpow hgroup, if_neg (Nat.not_lt.mpr hn)]
    exact ⟨rfl, rfl, rfl⟩

end Sys2Proof.Machine

/-! Bring-up, Direct link control and the fall of a fabric port (12 R268 to R272, 16 R380 to R382). Each command of a port is one
update of that port, sometimes with an entry in the event log, so each has an equation whose right side is `State.setPort` or
`State.portLogged`; what the statements say of the port and of everything else is then read off that one update. -/

namespace Sys2Proof.Machine

/-! ### One update of one port -/

theorem State.setPort_setPort (s : State) (p : PortId) (q r : Port) : (s.setPort p q).setPort p r = s.setPort p r := by
  simp only [State.setPort, Vector.set_set]

theorem State.onlyPort_setPort (s : State) (p : PortId) (q : Port) : s.OnlyPort (s.setPort p q) p :=
  ⟨fun _ h => State.port_setPort_other _ _ _ _ h, rfl⟩

/-- A command whose whole effect is one update of one port. -/
theorem State.onlyPort_of_setPort {s b : State} {o : Host.Outcome State Fault Refusal} {p : PortId} {q : Port}
    (h : o = .next (b.setPort p q)) (hb : b = s) : ∃ t : State, o = .next t ∧ t.port p = q ∧ s.OnlyPort t p :=
  hb ▸ ⟨_, h, State.port_setPort_same .., b.onlyPort_setPort p q⟩

/-- Port `p` becomes `q`, and the event log takes an entry from it. -/
def State.portLogged (s : State) (p : PortId) (q : Port) (code : Nat) (arg : List Byte) : State :=
  (s.setPort p q).logEvent code (36 + p.val) srcNone arg

theorem State.onlyPortLogged_of {s : State} {o : Host.Outcome State Fault Refusal} {p : PortId} {q : Port} {code : Nat} {arg : List Byte}
    (h : o = .next (s.portLogged p q code arg)) :
    ∃ t : State, o = .next t ∧ t.port p = q ∧ s.OnlyPortLogged t p code arg :=
  ⟨_, h, State.port_setPort_same .., fun _ h => State.port_setPort_other _ _ _ _ h, rfl⟩

theorem State.still_setPort {s : State} (h : s.still = true) (p : PortId) (q : Port) : (s.setPort p q).still = true :=
  State.still_congr h (fun _ => rfl) rfl rfl rfl rfl

theorem State.settle_setPort {s : State} (h : s.still = true) (p : PortId) (q : Port) : (s.setPort p q).settle = s.setPort p q :=
  State.settle_of_still (State.still_setPort h p q)

theorem State.still_logEvent {s : State} (h : s.still = true) (code src part : Nat) (arg : List Byte) :
    (s.logEvent code src part arg).still = true :=
  State.still_congr h (fun _ => rfl) rfl rfl rfl rfl

theorem State.settle_portLogged {s : State} (h : s.still = true) (p : PortId) (q : Port) (code : Nat) (arg : List Byte) :
    (s.portLogged p q code arg).settle = s.portLogged p q code arg :=
  State.settle_of_still (State.still_logEvent (State.still_setPort h p q) ..)

theorem State.advanceTo_of_le {s : State} {n : Nat} (h : n ≤ s.now) : s.advanceTo n = s := if_neg (Nat.not_lt.mpr h)

/-! ### Frames of Direct link control (R270) -/

theorem State.sendDlc_setPort (s : State) (p : PortId) (q : Port) (type : BitVec 8) (seq : BitVec 16) (lanes : Nat) (amc : BitVec 32) :
    (s.setPort p q).sendDlc p type seq lanes amc =
      s.setPort p (q.withFrame (s.dlcFrame p q type seq (BitVec.ofNat 8 lanes) amc)) := by
  simp only [State.sendDlc, State.queueFrame, State.modSub, State.modPort, State.port_setPort_same, State.setPort_setPort]
  rfl

theorem State.setPort_self (s : State) (p : PortId) : s.setPort p (s.port p) = s := by
  have h : s.fabric.ports.set p s.fabric.ports[p] = s.fabric.ports := Vector.set_getElem_self ..
  simp only [State.setPort, State.port, h]

theorem State.sendDlc_eq (s : State) (p : PortId) (type : BitVec 8) (seq : BitVec 16) (lanes : Nat) (amc : BitVec 32) :
    s.sendDlc p type seq lanes amc =
      s.setPort p ((s.port p).withFrame (s.dlcFrame p (s.port p) type seq (BitVec.ofNat 8 lanes) amc)) := by
  conv_lhs => rw [← State.setPort_self s p]
  exact State.sendDlc_setPort ..

/-! ### Bring-up (R268, R270) -/

section bringUp
variable {s : State} {p : PortId}

theorem exec_portSignalDetect (hruns : s.portsRun = true) (hen : (s.port p).en = true)
    (hstate : (s.port p).state = .waitPeer ∨ (s.port p).state = .fault) :
    exec (.portSignalDetect p) s = .next (s.setPort p { s.port p with state := .training }) :=
  if_pos (by simpa [hruns, hen] using hstate)

theorem exec_autonegComplete (hstate : (s.port p).state = .training) :
    exec (.autonegComplete p) s = .next (s.setPort p { s.port p with autoneg := true }) := if_pos hstate

theorem exec_linkTrainingComplete (hstate : (s.port p).state = .training) (hneg : (s.port p).autoneg = true) :
    exec (.linkTrainingComplete p) s = .next (s.setPort p { s.port p with trained := true }) := if_pos ⟨hstate, hneg⟩

/-- A port whose PCS has locked at a time. -/
def Port.lockedAt (q : Port) (time : BitVec 64) : Port := { q with locked := true, lockTime := time }

theorem exec_pcsLock (hstate : (s.port p).state = .training) (htrained : (s.port p).trained = true) (hlock : (s.port p).locked = false) :
    exec (.pcsLock p) s = .next (if (s.port p).mode = 3 then
        s.setPort p (((s.port p).lockedAt s.aon.time).withFrame (s.dlcFrame p (s.port p) 1 0 0 0))
      else s.portLogged p { (s.port p).lockedAt s.aon.time with state := .upSwitched, width := 0, noDirect := false } evPortUp
        [BitVec.ofNat 8 p.val]).settle := by
  refine (if_pos ⟨hstate, htrained, hlock⟩).trans ?_
  simp only [State.sendHello, State.sendDlc_setPort, State.upSwitched, State.modPort, State.port_setPort_same, State.setPort_setPort]
  rfl

theorem exec_helloTimer (hmode : (s.port p).mode = 3) (hlock : (s.port p).locked = true) :
    exec (.helloTimer p) s = .next (s.setPort p ((s.port p).withFrame (s.dlcFrame p (s.port p) 1 0 0 0))) := by
  refine (if_pos (by simp [Port.dlc, hmode, hlock])).trans ?_
  rw [State.sendHello, State.sendDlc_eq]
  rfl

theorem exec_directTimeout (hmode : (s.port p).mode = 3) (hlock : (s.port p).locked = true) (hstate : (s.port p).state = .training)
    (htime : (s.port p).lockTime.toNat + 10000000 ≤ s.now) :
    exec (.directTimeout p) s = .next (((s.logEvent evPortNodirect (36 + p.val) srcNone [BitVec.ofNat 8 p.val]).portLogged p
      { s.port p with state := .upSwitched, width := 0, noDirect := true } evPortUp [BitVec.ofNat 8 p.val]).settle) := by
  refine (if_pos (by simp [Port.dlc, hmode, hlock, hstate])).trans ?_
  rw [State.advanceTo_of_le htime]
  rfl

end bringUp

/-! ### HELLO (R270) -/

section hello
variable {s : State} {p : PortId} (d : Dlc) (hdlc : (s.port p).dlc = true)
include hdlc

theorem State.takeHello_up (hstate : (s.port p).state = .upDirect) :
    s.takeHello p d =
      if (s.port p).peerMid ≠ d.mid ∨ (s.port p).peerPort ≠ d.port.extractLsb' 0 4 then s.takePortDown p .peerChanged
      else s.setPort p { s.port p with peerStepOk := d.stepOk } := by
  simp only [State.takeHello, hdlc, hstate, Bool.not_true, Bool.false_eq_true, if_false]

theorem State.takeHello_training (hstate : (s.port p).state = .training) :
    s.takeHello p d =
      if s.reg.assigned = true ∧ d.directOk = true ∧ d.heard = true then
        s.portLogged p { s.port p with
          heard := (s.port p).heard || d.directOk, state := .upDirect, width := 0, peerMid := d.mid, peerPort := d.port.extractLsb' 0 4
          peerStepOk := d.stepOk, lastAdapt := s.aon.time } evPortUp [BitVec.ofNat 8 p.val]
      else s.setPort p { s.port p with heard := (s.port p).heard || d.directOk } := by
  simp only [State.takeHello, hdlc, hstate, Bool.not_true, Bool.false_eq_true, if_false, Bool.and_eq_true, State.directOk, and_assoc]
  rfl

end hello

/-- Settles O27: each command is one update of the port, with its entry in the event log where the port comes up. -/
theorem portsComeUp : Obligations.PortsComeUp := by
  refine ⟨fun s p => ⟨fun hruns hen hstate => ?_, fun hstate => ?_, fun hstate hneg => ?_, fun hstill hstate htrained hlock => ?_,
    fun hmode hlock => ?_⟩, fun s p d hstill hmode hlock => ?_⟩
  · exact State.onlyPort_of_setPort (exec_portSignalDetect hruns hen hstate) rfl
  · exact State.onlyPort_of_setPort (exec_autonegComplete hstate) rfl
  · exact State.onlyPort_of_setPort (exec_linkTrainingComplete hstate hneg) rfl
  · have hexec := exec_pcsLock hstate htrained hlock
    by_cases hmode : (s.port p).mode = 3
    · rw [if_pos hmode, State.settle_setPort hstill] at hexec
      simp only [if_pos hmode]
      exact State.onlyPort_of_setPort hexec rfl
    · rw [if_neg hmode, State.settle_portLogged hstill] at hexec
      simp only [if_neg hmode]
      exact State.onlyPortLogged_of hexec
  · exact State.onlyPort_of_setPort (exec_helloTimer hmode hlock) rfl
  · have hdlc : (s.port p).dlc = true := by simp [Port.dlc, hmode, hlock]
    have hexec : exec (.helloReceive p d) s = .next (s.takeHello p d).settle := rfl
    refine ⟨fun hstate hassigned hdirect hheard => ?_, fun hstate hnot => ?_, fun hstate hmid hport => ?_, fun hstate hother => ?_,
      fun hstate htime => ?_⟩
    · rw [State.takeHello_training d hdlc hstate, if_pos ⟨hassigned, hdirect, hheard⟩, State.settle_portLogged hstill, hdirect,
        Bool.or_true] at hexec
      exact State.onlyPortLogged_of hexec
    · rw [State.takeHello_training d hdlc hstate, if_neg hnot, State.settle_setPort hstill] at hexec
      exact State.onlyPort_of_setPort hexec rfl
    · rw [State.takeHello_up d hdlc hstate, if_neg (by simp [hmid, hport]), State.settle_setPort hstill] at hexec
      exact State.onlyPort_of_setPort hexec rfl
    · rw [State.takeHello_up d hdlc hstate, if_pos hother] at hexec
      exact hexec
    · refine ⟨_, (exec_directTimeout hmode hlock hstate htime).trans (congrArg _ (State.settle_portLogged ?_ ..)), ?_, ?_, rfl⟩
      · exact State.still_logEvent hstill ..
      · exact State.port_setPort_same ..
      · exact fun _ h => State.port_setPort_other _ _ _ _ h

end Sys2Proof.Machine

/-! The fall of a port (12 R269, R284, 13 R317): its FEC errors counted where they are the cause, its sub-ports discard what they
queue, and the event log takes an entry. -/

namespace Sys2Proof.Machine

/-! ### Sub-ports -/

@[simp] theorem Port.sub_modSub_same (q : Port) (i : SubId) (f : SubPort → SubPort) : (q.modSub i f).sub i = f (q.sub i) :=
  Port.sub_setSub_same ..

theorem Port.sub_modSub_other (q : Port) {i j : SubId} (f : SubPort → SubPort) (h : j ≠ i) : (q.modSub i f).sub j = q.sub j :=
  Port.sub_setSub_other _ _ _ _ h

/-- A sub-port of a port with one counter raised. -/
def SubPort.bumped (b : SubPort) (k : PortCnt) (n : Nat) : SubPort := { b with cnt := bump k.width b.cnt k.idx n }

theorem State.countSub_eq (s : State) (p : PortId) (i : SubId) (k : PortCnt) (n : Nat) :
    s.countSub p i k n = s.setPort p ((s.port p).modSub i fun b => b.bumped k n) := rfl

theorem Port.sub_drop (q : Port) (st : PortState) (i : SubId) : (q.drop st).sub i = (q.sub i).discard := by
  simp [Port.sub, Port.drop]

/-! ### FEC errors (R269, log 55) -/

/-- The sub-port whose FEC errors are the cause, and a port that has counted them: 16 and a free surplus. -/
def State.fecSub (s : State) (p : PortId) : SubId := Fin.ofNat 4 (s.freeNext.freeVal % (s.port p).subCount)

def State.fecCounted (s : State) (p : PortId) (c : DownCause) : Port :=
  if c = .fecErrors then (s.port p).modSub (s.fecSub p) fun b => b.bumped .fecUncorr (16 + s.freeVal) else s.port p

section fec
variable (s : State) (p : PortId) (c : DownCause)

theorem State.countFec_eq : s.countFec p c =
    { s.setPort p (s.fecCounted p c) with free := if c = .fecErrors then s.free + 2 else s.free } := by
  by_cases hc : c = .fecErrors
  · simp only [State.countFec, State.fecCounted, hc, if_true]
    rfl
  · simp only [State.countFec, State.fecCounted, hc, if_false, State.setPort_self]

theorem State.fecCounted_fields : s.fecCounted p c = { s.port p with subs := (s.fecCounted p c).subs } := by
  unfold State.fecCounted
  split <;> rfl

theorem State.sub_fecCounted (i : SubId) :
    (s.fecCounted p c).sub i = { (s.port p).sub i with cnt := ((s.fecCounted p c).sub i).cnt } ∧
    ∀ n, ¬(n = PortCnt.fecUncorr.idx ∧ c = .fecErrors ∧ i = s.fecSub p) →
      ((s.fecCounted p c).sub i).cnt.get 0 n = ((s.port p).sub i).cnt.get 0 n := by
  unfold State.fecCounted
  split
  next hc =>
    by_cases hi : i = s.fecSub p
    · subst hi
      rw [Port.sub_modSub_same]
      exact ⟨rfl, fun n hn => bump_get_other _ _ _ fun h => hn ⟨h, hc, rfl⟩⟩
    · rw [Port.sub_modSub_other _ _ hi]
      exact ⟨rfl, fun _ _ => rfl⟩
  next => exact ⟨rfl, fun _ _ => rfl⟩

theorem State.sub_fecCounted_fecSub (hc : c = .fecErrors) : ((s.fecCounted p c).sub (s.fecSub p)).cnt.get 0 PortCnt.fecUncorr.idx =
    satAdd 48 (((s.port p).sub (s.fecSub p)).cnt.get 0 PortCnt.fecUncorr.idx) (16 + s.freeVal) := by
  rw [State.fecCounted, if_pos hc, Port.sub_modSub_same]
  exact bump_get_same ..

/-! ### The fall -/

/-- A port that has fallen, before the loss of its peer. -/
def State.fallen : State :=
  ({ s with free := if c = .fecErrors then s.free + 2 else s.free } : State).portLogged p ((s.fecCounted p c).drop .fault) evPortDown
    [BitVec.ofNat 8 p.val, BitVec.ofNat 8 (downCode c)]

theorem State.takePortDown_eq : s.takePortDown p c =
    if (s.port p).state = .upDirect ∧ s.portLoss (s.port p).peerMid = true then
      (s.portLogged p ((s.port p).drop .fault) evPortDown [BitVec.ofNat 8 p.val, BitVec.ofNat 8 (downCode c)]).declareLost (s.port p).peerMid 1
    else s.portLogged p ((s.port p).drop .fault) evPortDown [BitVec.ofNat 8 p.val, BitVec.ofNat 8 (downCode c)] := rfl

theorem State.port_countFec : (s.countFec p c).port p = s.fecCounted p c := by
  rw [State.countFec_eq]
  exact State.port_setPort_same ..

theorem State.portLogged_countFec (q : Port) (code : Nat) (arg : List Byte) : (s.countFec p c).portLogged p q code arg =
    ({ s with free := if c = .fecErrors then s.free + 2 else s.free } : State).portLogged p q code arg := by
  rw [State.countFec_eq, State.portLogged, State.portLogged]
  exact congrArg (State.logEvent · code (36 + p.val) srcNone arg) (State.setPort_setPort { s with free := _ } p _ q)

theorem exec_portDown (hup : (s.port p).state.isUp = true ∨ ((s.port p).state = .training ∧ (s.port p).locked = true)) :
    exec (.portDown p c) s = .next (if (s.port p).state = .upDirect ∧ s.portLoss (s.port p).peerMid = true then
      (s.fallen p c).declareLost (s.port p).peerMid 1 else s.fallen p c).settle := by
  have hstate : (s.fecCounted p c).state = (s.port p).state := by rw [s.fecCounted_fields p c]
  have hpeer : (s.fecCounted p c).peerMid = (s.port p).peerMid := by rw [s.fecCounted_fields p c]
  have hloss : ∀ m, (s.countFec p c).portLoss m = s.portLoss m := fun m => by rw [State.countFec_eq]; rfl
  refine (if_pos (by simpa using hup)).trans ?_
  rw [State.takePortDown_eq, State.port_countFec, hstate, hpeer, hloss, State.portLogged_countFec]
  rfl

theorem State.still_fallen (hstill : s.still = true) : (s.fallen p c).still = true :=
  State.still_congr hstill (fun _ => rfl) rfl rfl rfl rfl

end fec

theorem SubPort.discard_cnt (b : SubPort) : b.discard = { b with txq := [], cnt := b.discard.cnt } ∧
    b.discard.cnt.get 0 PortCnt.txDiscard.idx = satAdd 48 (b.cnt.get 0 PortCnt.txDiscard.idx) b.txq.length ∧
    ∀ n, n ≠ PortCnt.txDiscard.idx → b.discard.cnt.get 0 n = b.cnt.get 0 n :=
  ⟨rfl, bump_get_same .., fun _ h => bump_get_other _ _ _ h⟩

/-- Settles O28: the fall is `State.fallen`, whose sub-ports have discarded what they queued after the FEC errors were counted. -/
theorem portsGoDownAndDiscard : Obligations.PortsGoDownAndDiscard := by
  intro s p c hstill hup
  have hexec := exec_portDown s p c hup
  have hport : (s.fallen p c).port p = (s.fecCounted p c).drop .fault := State.port_setPort_same ..
  refine ⟨fun hnot => ⟨s.fallen p c, hexec.trans ?_, ?_, fun i => ?_, fun hc => ?_, fun hc => ?_⟩, fun hstate hloss hc => ?_⟩
  · rw [if_neg hnot, State.settle_of_still (s.still_fallen p c hstill)]
  · rw [hport, State.fecCounted_fields]
    rfl
  · rw [hport, Port.sub_drop]
    obtain ⟨hsub, hother⟩ := s.sub_fecCounted p c i
    obtain ⟨hfields, hdiscard, hrest⟩ := ((s.fecCounted p c).sub i).discard_cnt
    refine ⟨?_, ?_, fun n hn hfec => ?_⟩
    · rw [hfields, hsub]
    · rw [hdiscard, hother _ fun h => absurd h.1 (by decide), hsub]
    · rw [hrest n hn, hother n hfec]
  · have hsame : s.fallen p c = s.portLogged p ((s.fecCounted p c).drop .fault) evPortDown
      [BitVec.ofNat 8 p.val, BitVec.ofNat 8 (downCode c)] := by simp only [State.fallen, hc, if_false]
    rw [hsame]
    exact ⟨fun _ h => State.port_setPort_other _ _ _ _ h, rfl⟩
  · refine ⟨rfl, ?_⟩
    rw [hport, Port.sub_drop, (SubPort.discard_cnt _).2.2 _ (by decide)]
    exact s.sub_fecCounted_fecSub p c hc
  · rw [hexec, if_pos ⟨hstate, hloss⟩]
    simp only [State.fallen, State.fecCounted, hc, if_false]
    rfl

end Sys2Proof.Machine

/-! Lane steps and re-adaptation windows (12 R271, R272, 16 R380 to R382). What both ends agree is `Port.stepWins`; an answer and a
request are the update of the port with its frame (`State.sendDlc_eq`). -/

namespace Sys2Proof.Machine

/-! ### Frames with an update of the port -/

section frames
variable (s : State) (p : PortId)

/-- A frame that leaves after an update of the port which keeps the flags of Table 12.5. -/
theorem State.sendDlc_modPort {f : Port → Port} (hen : (f (s.port p)).stepEn = (s.port p).stepEn)
    (hheard : (f (s.port p)).heard = (s.port p).heard) (type : BitVec 8) (seq : BitVec 16) (lanes : Nat) (amc : BitVec 32) :
    (s.modPort p f).sendDlc p type seq lanes amc =
      s.setPort p ((f (s.port p)).withFrame (s.dlcFrame p (s.port p) type seq (BitVec.ofNat 8 lanes) amc)) := by
  rw [State.modPort, State.sendDlc_setPort]
  simp only [State.dlcFrame, hen, hheard]

/-- The request with the next SEQ that a port sends. -/
def State.withRequest (s : State) (p : PortId) (q : Port) (type lanes : BitVec 8) : Port :=
  { q with dlcSeq := q.dlcSeq + 1 }.withFrame (s.dlcFrame p q type (q.dlcSeq + 1) lanes 0)

theorem State.sendDlcReq_setPort (q : Port) (type : BitVec 8) (lanes : Nat) :
    (s.setPort p q).sendDlcReq p type lanes = (q.dlcSeq + 1, s.setPort p (s.withRequest p q type (BitVec.ofNat 8 lanes))) := by
  rw [State.sendDlcReq, State.sendDlc_modPort]
  · simp only [State.port_setPort_same, State.setPort_setPort]
    rfl
  · rfl
  · rfl

theorem State.nak_eq (d : Dlc) : s.sendDlc p 4 d.seq d.width.toNat 0 =
    s.setPort p ((s.port p).withFrame (s.dlcFrame p (s.port p) 4 d.seq d.width 0)) := by
  rw [State.sendDlc_eq, BitVec.ofNat_toNat, BitVec.setWidth_eq]

end frames

/-! ### Lane steps (R271, R272) -/

/-- A step and the window that gives way to it, by whether this end had asked for one. -/
theorem Port.stepWins_eq (q : Port) (lanes : BitVec 8) (amc : BitVec 32) : q.stepWins lanes amc = { q with
    stepReq := none, stepping := true, stepAgreed := some (lanes, amc), adaptReq := none, adaptAgreed := none
    adaptForced := if q.adaptReq = none then q.adaptForced else false
    adaptLost := if q.adaptReq = none then q.adaptLost else some q.adaptForced } := by
  unfold Port.stepWins
  cases q.adaptReq <;> simp

section step
variable {s : State} {p : PortId} {d : Dlc}

/-- A free port asks for the lanes that Table 12.6 names. -/
theorem exec_stepWindow_asks {sent qb n : Nat} (hup : (s.port p).state = .upDirect)
    (hen : (s.port p).stepEn = true) (hpeer : (s.port p).peerStepOk = true) (hstep : (s.port p).stepping = false)
    (hreq : (s.port p).stepReq = none) (hagreed : (s.port p).adaptAgreed = none)
    (htarget : s.stepTarget ((s.port p).window sent qb) sent qb = some n) :
    exec (.stepWindow p sent qb) s = .next (s.setPort p { s.withRequest p ((s.port p).window sent qb) 2 (BitVec.ofNat 8 n) with
      stepReq := some ((s.port p).dlcSeq + 1, BitVec.ofNat 8 n) }) := by
  have hfree : ((s.port p).canStep && !(s.port p).stepping && (s.port p).stepReq.isNone && (s.port p).adaptAgreed.isNone) = true := by
    simp [Port.canStep, hup, hen, hpeer, hstep, hreq, hagreed]
  have htargetw : (s.setPort p ((s.port p).window sent qb)).stepTarget ((s.port p).window sent qb) sent qb = some n := htarget
  refine (if_pos hup).trans ((if_pos hfree).trans ?_)
  simp only [htargetw, State.sendDlcReq_setPort, State.modPort, State.port_setPort_same, State.setPort_setPort]
  rfl

theorem exec_stepWindow_measures {sent qb : Nat} (hup : (s.port p).state = .upDirect)
    (hnot : ¬((s.port p).stepEn = true ∧ (s.port p).peerStepOk = true ∧ (s.port p).stepping = false ∧ (s.port p).stepReq = none ∧
      (s.port p).adaptAgreed = none) ∨ s.stepTarget ((s.port p).window sent qb) sent qb = none) :
    exec (.stepWindow p sent qb) s = .next (s.setPort p ((s.port p).window sent qb)) := by
  refine (if_pos hup).trans ?_
  obtain hbusy | htarget := hnot
  · refine if_neg fun h => hbusy ?_
    simp only [Bool.and_eq_true, Port.canStep, Bool.not_eq_true', Option.isNone_iff_eq_none] at h
    obtain ⟨⟨⟨⟨⟨_, hen⟩, hpeer⟩, hstep⟩, hreq⟩, hagreed⟩ := h
    exact ⟨hen, hpeer, hstep, hreq, hagreed⟩
  · have htargetw : (s.setPort p ((s.port p).window sent qb)).stepTarget ((s.port p).window sent qb) sent qb = none := htarget
    simp only [htargetw, ite_self]

/-- A request that is granted: the step is agreed at a free marker (log 29) and the port answers with STEP_ACK. -/
def State.stepAcked (s : State) (p : PortId) (d : Dlc) : Port :=
  ((s.port p).stepWins d.width (BitVec.ofNat 32 s.freeVal)).withFrame
    (s.dlcFrame p (s.port p) 3 d.seq d.width (BitVec.ofNat 32 s.freeVal))

theorem State.ackStep_eq (s : State) (p : PortId) (d : Dlc) :
    s.ackStep p d = ({ s with free := s.free + 1 } : State).setPort p (s.stepAcked p d) := by
  rw [State.ackStep, State.sendDlc_modPort, BitVec.ofNat_toNat, BitVec.setWidth_eq]
  · rfl
  · rfl
  · rfl

theorem exec_stepReqReceive (s : State) (p : PortId) (d : Dlc) : exec (.stepReqReceive p d) s = .next (s.takeStepReq p d) := rfl

theorem State.takeStepReq_idle (hup : (s.port p).state = .upDirect) (hreq : (s.port p).stepReq = none) :
    s.takeStepReq p d = if s.stepGranted (s.port p) d.width.toNat d.stepOk then s.ackStep p d else s.sendDlc p 4 d.seq d.width.toNat 0 := by
  simp only [State.takeStepReq, hup, hreq, ne_eq, not_true_eq_false, if_false]

theorem State.takeStepReq_crossing {n : BitVec 16} {v : BitVec 8} (hup : (s.port p).state = .upDirect)
    (hreq : (s.port p).stepReq = some (n, v)) : s.takeStepReq p d =
      if d.width.toNat < v.toNat then s.sendDlc p 4 d.seq d.width.toNat 0
      else if d.width = v ∧ d.stepOk = true then
        (if s.moduleId.toNat < (s.port p).peerMid.toNat then s else s.ackStep p d)
      else if s.stepGranted (s.port p) d.width.toNat d.stepOk then s.ackStep p d
      else (s.modPort p fun q => { q with stepReq := none }).sendDlc p 4 d.seq d.width.toNat 0 := by
  simp only [State.takeStepReq, hup, hreq, ne_eq, not_true_eq_false, if_false]

/-- No request of a peer that does not allow stepping is granted (R271). -/
theorem State.stepGranted_of_peer (s : State) (q : Port) (lanes : Nat) : s.stepGranted q lanes false = false := by
  simp [State.stepGranted]

/-- A request that is refused and gives way leaves the port without its own. -/
theorem State.nak_abandons (s : State) (p : PortId) (d : Dlc) :
    (s.modPort p fun q => { q with stepReq := none }).sendDlc p 4 d.seq d.width.toNat 0 =
      s.setPort p ({ s.port p with stepReq := none }.withFrame (s.dlcFrame p (s.port p) 4 d.seq d.width 0)) := by
  rw [State.sendDlc_modPort, BitVec.ofNat_toNat, BitVec.setWidth_eq]
  · rfl
  · rfl

theorem Port.asked_of_seq {q : Port} {n : BitVec 16} {v : BitVec 8} (hreq : q.stepReq = some (n, v)) : q.asked n = some v := by
  simp [Port.asked, hreq]

theorem exec_stepAckReceive {v : BitVec 8} (hreq : (s.port p).stepReq = some (d.seq, v)) :
    exec (.stepAckReceive p d) s = .next (s.setPort p ((s.port p).stepWins v d.amc)) := by
  change Host.Outcome.next (s.takeStepAck p d) = _
  simp only [State.takeStepAck, Port.asked_of_seq hreq]

theorem exec_stepNakReceive {v : BitVec 8} (hreq : (s.port p).stepReq = some (d.seq, v)) :
    exec (.stepNakReceive p d) s = .next (s.setPort p { s.port p with stepReq := none }) := by
  change Host.Outcome.next (s.takeStepNak p d) = _
  simp only [State.takeStepNak, Port.asked_of_seq hreq]

/-- The width, the end of the step and the record of a step up (R272). -/
def Port.switched (q : Port) (lanes : Nat) (time : BitVec 64) : Port := { q with
  width := widthOf lanes, stepping := false, stepAgreed := none, idleWins := 0, stepEnd := time
  lastStepUp := if lanesOf q.width < lanes then some time else q.lastStepUp }

theorem exec_laneSwitch {v : BitVec 8} {m : BitVec 32} (hagreed : (s.port p).stepAgreed = some (v, m)) :
    exec (.laneSwitch p) s =
      .next (s.setPort p (((s.port p).switched v.toNat s.aon.time).modSub 0 fun b => b.bumped .laneStep 1)) := by
  change execLaneSwitch p s = _
  simp only [execLaneSwitch, hagreed, State.countSub_eq, State.port_setPort_same, State.setPort_setPort]
  rfl

end step

/-! ### Re-adaptation windows (16 R380 to R382) -/

section adapt
variable {s : State} {p : PortId} {d : Dlc}

/-- The port after it has asked for a window. -/
def State.adaptAsked (s : State) (p : PortId) (forced : Bool) : Port :=
  { s.withRequest p (s.port p) 5 0 with adaptReq := some ((s.port p).dlcSeq + 1), adaptForced := forced }

theorem State.askAdapt_eq (s : State) (p : PortId) (forced : Bool) : s.askAdapt p forced = s.setPort p (s.adaptAsked p forced) := by
  conv_lhs => rw [← State.setPort_self s p]
  simp only [State.askAdapt, State.sendDlcReq_setPort, State.modPort, State.port_setPort_same, State.setPort_setPort]
  rfl

theorem Port.canAdapt_of {q : Port} (hup : q.state = .upDirect) (hstep : q.stepping = false) (hreq : q.stepReq = none)
    (hadapt : q.adaptReq = none) (hagreed : q.adaptAgreed = none) : q.canAdapt = true := by
  simp [Port.canAdapt, hup, hstep, hreq, hadapt, hagreed]

theorem exec_adaptWindowDue (hcan : (s.port p).canAdapt = true) (hidle : (s.port p).busy = false) :
    exec (.adaptWindowDue p) s = .next (s.setPort p (s.adaptAsked p false)) := by
  refine (if_pos (by simp [hcan, hidle])).trans ?_
  rw [State.askAdapt_eq]

theorem exec_adaptFloorForced (hup : (s.port p).state = .upDirect) (htime : (s.port p).lastAdapt.toNat + 10000000000 ≤ s.now) :
    exec (.adaptFloorForced p) s =
      if (s.port p).canAdapt then .next (s.setPort p (s.adaptAsked p true))
      else if (s.port p).adaptReq.isSome then .next (s.setPort p { s.port p with adaptForced := true }) else .next s := by
  have hnow : (if (s.port p).state = .upDirect then s.advanceTo ((s.port p).lastAdapt.toNat + 10000000000) else s) = s := by
    rw [if_pos hup, State.advanceTo_of_le htime]
  change execAdaptFloorForced p s = _
  simp only [execAdaptFloorForced, hnow, State.askAdapt_eq]
  rfl

/-- A request that is answered: the window is agreed at a free marker (log 29). -/
theorem State.takeAdaptReq_agrees (hup : (s.port p).state = .upDirect) (hstep : (s.port p).stepping = false) :
    s.takeAdaptReq p d = ({ s with free := s.free + 1 } : State).setPort p
      ({ s.port p with adaptReq := none, adaptAgreed := some (BitVec.ofNat 32 s.freeVal) }.withFrame
        (s.dlcFrame p (s.port p) 6 d.seq 0 (BitVec.ofNat 32 s.freeVal))) := by
  refine (if_pos ⟨hup, hstep⟩).trans ?_
  rw [State.sendDlc_modPort]
  · rfl
  · rfl
  · rfl

end adapt

/-- Settles O29, by the update of the port that each command is. -/
theorem lanesStepAndAdapt : Obligations.LanesStepAndAdapt := by
  refine ⟨fun s p d sent qb hup => ?_, fun s p d ns hup => ?_⟩
  · have hreceive := exec_stepReqReceive s p d
    have hack : ∀ {o : Host.Outcome State Fault Refusal}, o = .next (s.ackStep p d) →
        ∃ t : State, o = .next t ∧ t.port p = s.stepAcked p d ∧ ({ s with free := s.free + 1 } : State).OnlyPort t p := fun h => by
      rw [State.ackStep_eq] at h
      exact State.onlyPort_of_setPort h rfl
    simp only [State.stepAcked, Port.stepWins_eq] at hack
    refine ⟨fun n ⟨hen, hpeer, hstep, hreq, hagreed⟩ htarget => ?_, fun hnot => ?_, fun hreq hgrant => ?_, fun hreq hrefuse => ?_,
      fun n v hreq => ?_, ?_, fun v m hagreed => ?_⟩
    · exact State.onlyPort_of_setPort (exec_stepWindow_asks hup hen hpeer hstep hreq hagreed htarget) rfl
    · exact State.onlyPort_of_setPort (exec_stepWindow_measures hup hnot) rfl
    · rw [State.takeStepReq_idle hup hreq, if_pos hgrant] at hreceive
      exact hack hreceive
    · rw [State.takeStepReq_idle hup hreq, hrefuse, if_neg (by decide), State.nak_eq] at hreceive
      exact State.onlyPort_of_setPort hreceive rfl
    · rw [State.takeStepReq_crossing hup hreq] at hreceive
      refine ⟨fun hlow => ?_, fun hhigh hgrant => ?_, fun hrefuse => ?_, fun hsame hok hlead => ?_, fun hsame hok hlead => ?_,
        fun hseq => ?_⟩
      · rw [if_pos hlow, State.nak_eq] at hreceive
        exact State.onlyPort_of_setPort hreceive rfl
      · have hne : ¬(d.width = v ∧ d.stepOk = true) := fun h => Nat.lt_irrefl _ (h.1 ▸ hhigh)
        rw [if_neg (Nat.lt_asymm hhigh), if_neg hne, if_pos hgrant] at hreceive
        exact hack hreceive
      · have hgives : ¬d.width.toNat < v.toNat ∧ ¬(d.width = v ∧ d.stepOk = true) ∧
            s.stepGranted (s.port p) d.width.toNat d.stepOk = false := by
          obtain ⟨hhigh, hrefused⟩ | ⟨hsame, hnot⟩ := hrefuse
          · exact ⟨Nat.lt_asymm hhigh, fun h => Nat.lt_irrefl _ (h.1 ▸ hhigh), hrefused⟩
          · exact ⟨hsame ▸ Nat.lt_irrefl _, fun h => absurd h.2 (by simp [hnot]), by rw [hnot, State.stepGranted_of_peer]⟩
        obtain ⟨hlow, hne, hrefused⟩ := hgives
        rw [if_neg hlow, if_neg hne, hrefused, if_neg (by decide), State.nak_abandons] at hreceive
        exact State.onlyPort_of_setPort hreceive rfl
      · rw [if_neg (hsame ▸ Nat.lt_irrefl _), if_pos ⟨hsame, hok⟩, if_pos hlead] at hreceive
        exact hreceive
      · rw [if_neg (hsame ▸ Nat.lt_irrefl _), if_pos ⟨hsame, hok⟩, if_neg (Nat.not_lt.mpr hlead)] at hreceive
        exact hack hreceive
      · rw [← hseq] at hreq
        refine ⟨?_, State.onlyPort_of_setPort (exec_stepNakReceive hreq) rfl⟩
        simpa only [Port.stepWins_eq] using State.onlyPort_of_setPort (exec_stepAckReceive hreq) rfl
    · exact State.onlyPort_of_setPort (o := exec (.stepReqTimeout p) s) rfl rfl
    · obtain ⟨t, hexec, hport, hrest⟩ := State.onlyPort_of_setPort (exec_laneSwitch hagreed) rfl
      refine ⟨t, hexec, hrest, ?_, fun i hi => ?_, ?_, fun n hn => ?_, ?_⟩
      · rw [hport]
        rfl
      · rw [hport, Port.sub_modSub_other _ _ hi]
        rfl
      · rw [hport, Port.sub_modSub_same]
        rfl
      · rw [hport, Port.sub_modSub_same]
        exact bump_get_other _ _ _ hn
      · rw [hport, Port.sub_modSub_same]
        exact bump_get_same ..
  · refine ⟨fun ⟨hstep, hreq, hadapt, hagreed⟩ hidle => ?_, fun htime => ⟨fun ⟨hstep, hreq, hadapt, hagreed⟩ => ?_, fun hasked => ?_⟩,
      fun hstep => ?_, fun hstep => ?_, fun hasked hstep => ?_, fun hagreed => ?_⟩
    · exact State.onlyPort_of_setPort (exec_adaptWindowDue (Port.canAdapt_of hup hstep hreq hadapt hagreed) hidle) rfl
    · have hexec := exec_adaptFloorForced hup htime
      rw [if_pos (Port.canAdapt_of hup hstep hreq hadapt hagreed)] at hexec
      exact State.onlyPort_of_setPort hexec rfl
    · have hexec := exec_adaptFloorForced hup htime
      have hcan : ¬(s.port p).canAdapt = true := fun h => by
        simp only [Port.canAdapt, Bool.and_eq_true, Option.isNone_iff_eq_none] at h
        simp [h.1.2] at hasked
      rw [if_neg hcan, if_pos hasked] at hexec
      exact State.onlyPort_of_setPort hexec rfl
    · exact State.onlyPort_of_setPort (o := exec (.adaptReqReceive p d) s)
        (congrArg Host.Outcome.next (State.takeAdaptReq_agrees hup hstep)) rfl
    · exact congrArg Host.Outcome.next (if_neg fun h => by simp [hstep] at h)
    · exact State.onlyPort_of_setPort (o := exec (.adaptAckReceive p d) s)
        (congrArg Host.Outcome.next (if_pos ⟨hasked, hstep⟩)) rfl
    · obtain ⟨amc, hamc⟩ := Option.isSome_iff_exists.mp hagreed
      have hexec : exec (.adaptWindowEnd p ns) s = .next (s.setPort p { s.port p with
          adaptAgreed := none, adaptForced := false, lastAdapt := s.aon.time
          floorAdapt := if (s.port p).adaptForced then satAdd 48 (s.port p).floorAdapt 1 else (s.port p).floorAdapt
          floorAdaptNs := if (s.port p).adaptForced then satAdd 48 (s.port p).floorAdaptNs ns else (s.port p).floorAdaptNs }) := by
        change execAdaptWindowEnd p ns s = _
        simp only [execAdaptWindowEnd, hamc]
      obtain ⟨t, hnext, hport, hrest⟩ := State.onlyPort_of_setPort hexec rfl
      exact ⟨t, hnext, hrest, hport⟩

end Sys2Proof.Machine

/-! The transmit scheduler and the assembly timeout (12 R273, R279, R280). The frame sent next is the `List.argmin` of the turn over the
frames of the lowest class, so it is the oldest of its source; sending it is one update of the sub-port, beside the clock of the
Regulator and the share counters. -/

namespace Sys2Proof.Machine

/-! ### The frame that goes next (R280) -/

theorem lowestClass_le (cls : TxFrame → Nat) (l : List TxFrame) : ∀ g ∈ l, lowestClass cls l ≤ cls g := by
  have key : ∀ (l : List TxFrame) (n : Nat), l.foldl (fun a f => min a (cls f)) n ≤ n ∧
      ∀ g ∈ l, l.foldl (fun a f => min a (cls f)) n ≤ cls g := by
    intro l
    induction l with
    | nil => exact fun n => ⟨le_refl n, fun _ h => absurd h List.not_mem_nil⟩
    | cons x xs ih =>
      intro n
      obtain ⟨hle, hall⟩ := ih (min n (cls x))
      refine ⟨hle.trans (min_le_left ..), fun g hg => ?_⟩
      obtain rfl | hg := List.mem_cons.mp hg
      · exact hle.trans (min_le_right ..)
      · exact hall g hg
  exact (key l 5).2

theorem SubPort.nextOf_eq_argmin (cls : TxFrame → Nat) (b : SubPort) (l : List TxFrame) : b.nextOf cls l =
    (l.filter fun f => cls f == lowestClass cls l).argmin fun f => turn (b.lastSrc.get 63 (lowestClass cls l)) f.src := by
  unfold SubPort.nextOf List.argmin
  refine congrArg (List.foldl · none _) ?_
  funext a f
  cases a <;> rfl

/-- A least element of a list is the first that shares its key. -/
theorem find?_eq_some_of_argmin {α β : Type} [DecidableEq α] [LinearOrder β] {k : α → β} {l : List α} {m : α} {same : α → Bool}
    (hm : l.argmin k = some m) (hself : same m = true) (hsame : ∀ a, same a = true → k a = k m) : l.find? same = some m := by
  have hmem := List.argmin_mem (show m ∈ l.argmin k from hm)
  cases hfind : l.find? same with
  | none => exact absurd hself (List.find?_eq_none.mp hfind m hmem)
  | some g =>
    obtain ⟨hg, before, after, rfl, hbefore⟩ := List.find?_eq_some_iff_append.mp hfind
    have hnot : ∀ a, same a = true → a ∉ before := fun a ha h => by simpa [ha] using hbefore a h
    have hidx := List.index_of_argmin (Option.mem_def.mpr hm) (a := g) (by simp) (hsame g hg).le
    rw [List.idxOf_append_of_notMem (hnot m hself), List.idxOf_append_of_notMem (hnot g hg), List.idxOf_cons_self] at hidx
    by_contra hne
    rw [List.idxOf_cons_ne _ fun h => hne (congrArg some h)] at hidx
    omega

section next
variable {cls : TxFrame → Nat} {b : SubPort} {l : List TxFrame} {f : TxFrame}

theorem SubPort.nextOf_spec (h : b.nextOf cls l = some f) :
    f ∈ l ∧ (l.find? fun g => cls g == cls f && g.src == f.src) = some f ∧ (∀ g ∈ l, cls f ≤ cls g) ∧
      ∀ g ∈ l, cls g = cls f → turn (b.lastSrc.get 63 (cls f)) f.src ≤ turn (b.lastSrc.get 63 (cls f)) g.src := by
  rw [SubPort.nextOf_eq_argmin] at h
  obtain ⟨hmem, hcls⟩ := List.mem_filter.mp (List.argmin_mem (Option.mem_def.mpr h))
  rw [beq_iff_eq] at hcls
  rw [← hcls] at h
  have hfind := find?_eq_some_of_argmin (same := fun g => g.src == f.src) h (beq_self_eq_true _) fun a ha => by rw [beq_iff_eq.mp ha]
  simp only [List.find?_filter, Bool.decide_and, Bool.decide_eq_true] at hfind
  refine ⟨hmem, hfind, fun g hg => hcls ▸ lowestClass_le cls l g hg, fun g hg hsame => ?_⟩
  have hin : g ∈ l.filter fun a => cls a == cls f := List.mem_filter.mpr ⟨hg, by rw [hsame, beq_self_eq_true]⟩
  exact List.le_of_mem_argmin (f := fun a : TxFrame => turn (b.lastSrc.get 63 (cls f)) a.src) hin h

end next

/-! ### What a sent frame changes (R273, R280, R284) -/

theorem Port.modSub_modSub (q : Port) (i : SubId) (f g : SubPort → SubPort) : (q.modSub i f).modSub i g = q.modSub i fun b => g (f b) := by
  simp only [Port.modSub, Port.setSub, Port.sub, Fin.getElem_fin, Vector.getElem_set_self, Vector.set_set]

theorem Port.modSub_id (q : Port) (i : SubId) : (q.modSub i fun b => b) = q := by
  have h : q.subs.set i q.subs[i] = q.subs := Vector.set_getElem_self ..
  simp only [Port.modSub, Port.setSub, Port.sub, h]

theorem State.modSub_setPort (s : State) (p : PortId) (q : Port) (i : SubId) (f : SubPort → SubPort) :
    (s.setPort p q).modSub p i f = s.setPort p (q.modSub i f) := by
  rw [State.modSub, State.modPort, State.port_setPort_same, State.setPort_setPort]

/-- A sub-port's counters of a good frame that it has sent. -/
def SubPort.countedTx (b : SubPort) (f : TxFrame) (size : Nat) : SubPort :=
  if f.isDlc || f.stomped then b
  else if f.isFwd then ((b.bumped .txFrames 1).bumped .txBytes size).bumped .fwdFrames 1
  else (b.bumped .txFrames 1).bumped .txBytes size

theorem State.countTx_setPort (s : State) (p : PortId) (q : Port) (i : SubId) (f : TxFrame) :
    (s.setPort p q).countTx p i f = s.setPort p (q.modSub i fun b => b.countedTx f (s.wireSize f)) := by
  have hcount : ∀ (r : Port) (k : PortCnt) (n : Nat), (s.setPort p r).countSub p i k n = s.setPort p (r.modSub i fun b => b.bumped k n) :=
    fun r k n => State.modSub_setPort s p r i fun b => b.bumped k n
  have hsize : (s.setPort p q).wireSize f = s.wireSize f := rfl
  unfold State.countTx SubPort.countedTx
  split
  · rw [Port.modSub_id]
  · split <;> simp only [hsize, hcount, Port.modSub_modSub]

/-- The frames that follow a sent one: the time of a two-step answer. -/
def State.followUps (s : State) (p : PortId) (i : SubId) (f : TxFrame) : List TxFrame := match f.body with
  | .ptp m => if ptpType m.bytes = 3 ∧ m.since = none then [⟨1, srcRegulator, .ptp { m with
      event := false
      bytes := ptpMessage 10 (fieldBE m.bytes 4 1) 0 m.corr (s.ptpId p i) (ptpSeq m.bytes) 5 (s.txStamp p i).toNat
        ((m.bytes.drop 44).take 10) }, 0, false⟩] else []
  | _ => []

/-- The clock once a frame has left: a request is remembered with its time. -/
def State.clockAfter (s : State) (p : PortId) (i : SubId) (f : TxFrame) : PtpClock := match f.body with
  | .ptp m => if ptpType m.bytes = 1 ∨ ptpType m.bytes = 2 then { s.reg.clock with t3 := some ((s.txStamp p i).toNat * 65536) }
    else s.reg.clock
  | _ => s.reg.clock

/-- The Regulator's clock is `c`. -/
def State.withClock (s : State) (c : PtpClock) : State := { s with reg := { s.reg with clock := c } }

theorem State.ptpSent_other {s : State} {p : PortId} {i : SubId} {tx : BitVec 64} {f : TxFrame} {m : PtpTx} (hbody : f.body = .ptp m)
    (h1 : ptpType m.bytes ≠ 1) (h2 : ptpType m.bytes ≠ 2) (h3 : ptpType m.bytes ≠ 3 ∨ m.since.isSome = true) :
    s.ptpSent p i tx f = s := by
  simp only [State.ptpSent, hbody]
  split
  · exact absurd ‹_› h1
  · exact absurd ‹_› h2
  · exact if_pos (h3.resolve_left fun h => h ‹_›)
  · rfl

theorem State.ptpSent_setPort (s : State) (p : PortId) (q : Port) (i : SubId) (f : TxFrame) :
    (s.setPort p q).ptpSent p i (s.txStamp p i) f =
      (s.withClock (s.clockAfter p i f)).setPort p (q.modSub i fun b => { b with txq := b.txq ++ s.followUps p i f }) := by
  have hsame : ∀ t : State, t = s.setPort p q → s.followUps p i f = [] → s.clockAfter p i f = s.reg.clock →
      t = (s.withClock (s.clockAfter p i f)).setPort p (q.modSub i fun b => { b with txq := b.txq ++ s.followUps p i f }) := by
    intro t ht hnone hclock
    rw [ht, hclock, hnone]
    simp only [List.append_nil]
    exact congrArg (s.setPort p) (q.modSub_id i).symm
  cases hbody : f.body with
  | ptp m =>
    by_cases h12 : ptpType m.bytes = 1 ∨ ptpType m.bytes = 2
    · have h3 : ptpType m.bytes ≠ 3 := by omega
      have hclock : s.clockAfter p i f = { s.reg.clock with t3 := some ((s.txStamp p i).toNat * 65536) } := by
        simp only [State.clockAfter, hbody, h12, if_true]
      have hnone : s.followUps p i f = [] := by simp only [State.followUps, hbody, h3, false_and, if_false]
      rw [hclock, hnone]
      simp only [List.append_nil]
      refine Eq.trans ?_ (congrArg (State.setPort _ p) (q.modSub_id i).symm)
      obtain h | h := h12 <;> simp only [State.ptpSent, hbody, h] <;> rfl
    · have hclock : s.clockAfter p i f = s.reg.clock := by simp only [State.clockAfter, hbody, h12, if_false]
      have h1 : ptpType m.bytes ≠ 1 := fun h => h12 (.inl h)
      have h2 : ptpType m.bytes ≠ 2 := fun h => h12 (.inr h)
      by_cases hfollow : ptpType m.bytes = 3 ∧ m.since = none
      · simp only [State.ptpSent, hbody, hfollow.1, Option.isSome_none, Bool.false_eq_true, if_false, State.sendPtp, State.queueFrame, State.modSub_setPort, hclock,
          State.followUps, hfollow.2, and_self, if_true]
        rfl
      · refine hsame _ (State.ptpSent_other hbody h1 h2 ?_) (by simp only [State.followUps, hbody, hfollow, if_false]) hclock
        rw [Option.isSome_iff_ne_none]
        exact not_and_or.mp hfollow
  | _ =>
    refine hsame _ (by simp only [State.ptpSent, hbody]) ?_ ?_
    · simp only [State.followUps, hbody]
    · simp only [State.clockAfter, hbody]

/-- The sub-port after a frame has left it. -/
def State.subSent (s : State) (p : PortId) (i : SubId) (f : TxFrame) : SubPort :=
  let b := (s.port p).sub i
  let c := ({ b with
    txq := b.txq.erase f, lastSrc := b.lastSrc.set 63 (s.classNow p i f) f.src, lastSent := some f, lastSentAt := s.txStamp p i
    wire := s.wireBytes p i f } : SubPort).countedTx f (s.wireSize f)
  { c with txq := c.txq ++ s.followUps p i f }

theorem State.useShare_set {s t : State} (point : Nat) (p : PartId) (n : Nat) (hparts : t.parts = s.parts) (heng : t.eng = s.eng)
    (hnow : t.aon = s.aon) : t.useShare point p n = { t with eng := (s.useShare point p n).eng } := by
  have hrt : t.isRt p = s.isRt p := State.isRt_congr (by rw [State.part, State.part, hparts])
  have htime : t.now = s.now := by rw [State.now, State.now, hnow]
  unfold State.useShare
  rw [hrt, htime]
  split
  · rw [State.modEng, State.modEng, heng]
  · rw [← heng]

/-- The state after a frame has left. -/
def State.transmitted (s : State) (p : PortId) (i : SubId) (f : TxFrame) : State :=
  ({ s.withClock (s.clockAfter p i f) with
    eng := if f.src < 8 then (s.useShare (pointOfSub p i) (Fin.ofNat 8 f.src) (s.wireSize f)).eng else s.eng } : State).setPort p
      { (s.port p).setSub i (s.subSent p i f) with
        fwdBuf := if f.isFwd then (s.port p).fwdBuf - f.stored else (s.port p).fwdBuf }

theorem State.sendFrame_eq (s : State) (p : PortId) (i : SubId) (f : TxFrame) : s.sendFrame p i f = s.transmitted p i f := by
  have hport : (s.port p).setSub i (s.subSent p i f) = (((s.port p).modSub i fun b => { b with
      txq := b.txq.erase f, lastSrc := b.lastSrc.set 63 (s.classNow p i f) f.src, lastSent := some f, lastSentAt := s.txStamp p i
      wire := s.wireBytes p i f }).modSub i fun b => b.countedTx f (s.wireSize f)).modSub i fun b =>
        { b with txq := b.txq ++ s.followUps p i f } := by
    rw [Port.modSub_modSub, Port.modSub_modSub]
    rfl
  have hfirst : ∀ g : SubPort → SubPort, s.modSub p i g = s.setPort p ((s.port p).modSub i g) := fun _ => rfl
  have hshare : ∀ r : Port, (if f.isPart then ((s.withClock (s.clockAfter p i f)).setPort p r).useShare (pointOfSub p i)
        (Fin.ofNat 8 f.src) (s.wireSize f) else (s.withClock (s.clockAfter p i f)).setPort p r) =
      ({ s.withClock (s.clockAfter p i f) with
        eng := if f.src < 8 then (s.useShare (pointOfSub p i) (Fin.ofNat 8 f.src) (s.wireSize f)).eng else s.eng } : State).setPort p r := by
    intro r
    simp only [TxFrame.isPart, decide_eq_true_eq]
    split
    · exact State.useShare_set _ _ _ rfl rfl rfl
    · rfl
  simp only [State.sendFrame, hfirst, State.countTx_setPort, State.ptpSent_setPort, hshare, ← hport, State.transmitted, State.modPort,
    State.port_setPort_same, State.setPort_setPort]
  split <;> rfl

/-! ### FRAME_TRANSMIT -/

theorem exec_frameTransmit {s : State} {p : PortId} {i : SubId} {f : TxFrame} (h : s.nextFrame p i = some f) :
    exec (.frameTransmit p i) s = .next (s.transmitted p i f) := by
  change execFrameTransmit p i s = _
  simp only [execFrameTransmit, h, State.sendFrame_eq]

theorem SubPort.countedTx_fields (b : SubPort) (f : TxFrame) (size : Nat) : b.countedTx f size = { b with cnt := (b.countedTx f size).cnt } := by
  unfold SubPort.countedTx
  split
  · rfl
  · split <;> rfl

theorem SubPort.bumped_get_same (b : SubPort) (k : PortCnt) (n : Nat) :
    (b.bumped k n).cnt.get 0 k.idx = satAdd k.width (b.cnt.get 0 k.idx) n := bump_get_same ..

theorem SubPort.bumped_get_other (b : SubPort) {k j : PortCnt} (n : Nat) (h : j.idx ≠ k.idx) :
    (b.bumped k n).cnt.get 0 j.idx = b.cnt.get 0 j.idx := bump_get_other _ _ _ h

theorem SubPort.countedTx_cnt (b : SubPort) (f : TxFrame) (size : Nat) :
    let n := fun (k : PortCnt) => b.cnt.get 0 k.idx
    let counts := !f.isDlc && !f.stomped
    (b.countedTx f size).cnt.get 0 PortCnt.txFrames.idx = (if counts then satAdd 48 (n .txFrames) 1 else n .txFrames) ∧
    (b.countedTx f size).cnt.get 0 PortCnt.txBytes.idx = (if counts then satAdd 64 (n .txBytes) size else n .txBytes) ∧
    (b.countedTx f size).cnt.get 0 PortCnt.fwdFrames.idx = (if counts && f.isFwd then satAdd 48 (n .fwdFrames) 1 else n .fwdFrames) := by
  have h1 : PortCnt.txFrames.idx ≠ PortCnt.txBytes.idx := by decide
  have h2 : PortCnt.txFrames.idx ≠ PortCnt.fwdFrames.idx := by decide
  have h3 : PortCnt.txBytes.idx ≠ PortCnt.fwdFrames.idx := by decide
  have hcounts : (!f.isDlc && !f.stomped) = !(f.isDlc || f.stomped) := (Bool.not_or ..).symm
  dsimp only
  rw [hcounts]
  unfold SubPort.countedTx
  cases f.isDlc || f.stomped with
  | true => exact ⟨rfl, rfl, rfl⟩
  | false =>
    cases f.isFwd with
    | true =>
      refine ⟨?_, ?_, ?_⟩
      · exact ((SubPort.bumped_get_other _ _ h2).trans (SubPort.bumped_get_other _ _ h1)).trans (SubPort.bumped_get_same ..)
      · refine ((SubPort.bumped_get_other _ _ h3).trans (SubPort.bumped_get_same ..)).trans ?_
        exact congrArg (satAdd 64 · size) (SubPort.bumped_get_other _ _ h1.symm)
      · refine (SubPort.bumped_get_same ..).trans (congrArg (satAdd 48 · 1) ?_)
        exact (SubPort.bumped_get_other _ _ h3.symm).trans (SubPort.bumped_get_other _ _ h2.symm)
    | false =>
      refine ⟨?_, ?_, ?_⟩
      · exact (SubPort.bumped_get_other _ _ h1).trans (SubPort.bumped_get_same ..)
      · exact (SubPort.bumped_get_same ..).trans (congrArg (satAdd 64 · size) (SubPort.bumped_get_other _ _ h1.symm))
      · exact (SubPort.bumped_get_other _ _ h3.symm).trans (SubPort.bumped_get_other _ _ h2.symm)

/-! ### ASSEMBLY_TIMEOUT (R279) -/

section assembly
variable {s : State} {q : Qid} {d : Queue} {g : QueueGroup} (hq : s.queue q = some d)
  (hg : s.fabric.qgroups.get none d.qgrp.toNat = some g)
include hq hg

theorem exec_assemblyTimeout_cancels {i : Item} (himage : d.image = some i) (hatmo : g.atmo ≠ 0)
    (htime : i.ts.toNat + g.atmo.toNat * 1000 ≤ s.now) :
    exec (.assemblyTimeout q) s = .next (s.setQueue q (d.cancelImage i true)).settle := by
  change execAssemblyTimeout q s = _
  simp only [execAssemblyTimeout, hq, himage, hg, hatmo, if_false, State.advanceTo_of_le htime]

theorem exec_assemblyTimeout_nothing (hnone : d.image = none ∨ g.atmo = 0) : exec (.assemblyTimeout q) s = .next s := by
  change execAssemblyTimeout q s = _
  obtain himage | hatmo := hnone
  · simp only [execAssemblyTimeout, hq, himage]
  · simp only [execAssemblyTimeout, hq, hg]
    cases d.image with
    | none => rfl
    | some i => exact if_pos hatmo

end assembly

/-- Settles O31: the frame is the `argmin` of its class, and sending it is `State.transmitted`. -/
theorem framesLeaveByClassAndTurn : Obligations.FramesLeaveByClassAndTurn := by
  refine ⟨fun s p b f hnext => ⟨SubPort.nextOf_spec hnext, s.transmitted p b f, exec_frameTransmit hnext, fun i hi => ?_, ?_⟩,
    fun s q d g hq hg => ⟨fun i himage hatmo htime => exec_assemblyTimeout_cancels hq hg himage hatmo htime,
      exec_assemblyTimeout_nothing hq hg⟩⟩
  · exact State.port_setPort_other _ _ _ _ hi
  · have hport : (s.transmitted p b f).port p = { (s.port p).setSub b (s.subSent p b f) with
      fwdBuf := if f.isFwd then (s.port p).fwdBuf - f.stored else (s.port p).fwdBuf } := State.port_setPort_same ..
    have hsub : ((s.transmitted p b f).port p).sub b = s.subSent p b f := by
      rw [hport]
      exact Port.sub_setSub_same ..
    obtain ⟨hframes, hbytes, hfwd⟩ := SubPort.countedTx_cnt { (s.port p).sub b with
      txq := ((s.port p).sub b).txq.erase f, lastSrc := ((s.port p).sub b).lastSrc.set 63 (s.classNow p b f) f.src
      lastSent := some f, lastSentAt := s.txStamp p b, wire := s.wireBytes p b f } f (s.wireSize f)
    refine ⟨rfl, fun i hi => ?_, ?_⟩
    · rw [hport]
      exact Port.sub_setSub_other _ _ _ _ hi
    · dsimp only
      rw [hsub]
      refine ⟨?_, ?_, ?_, ?_, ?_, hframes, hbytes, hfwd, ?_⟩
      · rw [State.subSent, SubPort.countedTx_fields]
        rfl
      · rw [State.subSent, SubPort.countedTx_fields]
      · rw [State.subSent, SubPort.countedTx_fields]
      · rw [State.subSent, SubPort.countedTx_fields]
      · rw [State.subSent, SubPort.countedTx_fields]
      · rw [hport]
        rfl

end Sys2Proof.Machine

/-! The management port and host messages (12 R286 to R288, 13 R316, 14 R325, 16 R375, 17 R398). A relayed message is assembled from DATA
packets, each taken as any other reliable packet (`State.Arrives.booked`); what follows once it is whole sends on sessions and refuses
nothing on them. -/

namespace Sys2Proof.Machine

/-! ### ANNOUNCE and collisions (12 R286 to R288) -/

theorem exec_announceTimer {s : State} (h : s.regRuns = true ∨ s.romRuns = true ∨ s.aon.mstate = .s4) :
    exec .announceTimer s = .next s.announce := if_pos (by simpa [or_assoc] using h)

theorem exec_announceReceive {s : State} (a : Announce) (h : s.regRuns = true) :
    exec (.announceReceive a) s = .next (s.takeAnnounce a) := if_pos h

theorem exec_announceAbsence {s : State} {m : BitVec 14} (hruns : s.regRuns = true) (hheard : (s.reg.heardMods.get none m.toNat).isSome = true) :
    exec (.announceAbsence m) s = .next (State.settle
      (if s.isPeer m then (s.modReg fun r => { r with heardMods := r.heardMods.set none m.toNat none }).declareLost m 3
      else s.modReg fun r => { r with heardMods := r.heardMods.set none m.toNat none })) :=
  if_pos (by rw [hruns, hheard]; rfl)

theorem exec_mpCollision {s : State} {f : List Byte} (hframe : s.reg.mpFrame = some f) :
    exec .mpCollision s = .next (if 16 ≤ s.reg.mpTries + 1 then
      s.modReg fun g => { g with mpFrame := none, mpTries := 0, mpBackoff := 0, mpExcess := satAdd 32 g.mpExcess 1 }
    else (s.modReg fun g => { g with mpTries := s.reg.mpTries + 1, mpBackoff := s.freeVal % 2 ^ min (s.reg.mpTries + 1) 10 }).freeNext) := by
  have hsome : ¬s.reg.mpFrame = none := by simp [hframe]
  change execMpCollision s = _
  unfold execMpCollision
  rw [if_neg hsome]
  simp only [hframe]
  split <;> rfl

/-! ### Request segments (14 R325, 16 R375) -/

section segment
variable {s : State} {g : MpSegment}

theorem State.segmentWakes_of_owner (hpow : s.powered = true) (hkind : g.kind = 2) (hmb : g.mb = 0) (hsrc : g.src = s.reg.mpOwner)
    (hne : g.src ≠ 0) (hstate : s.aon.mstate = .s3 ∨ s.aon.mstate = .s4) : s.segmentWakes g = true := by
  have howner : (g.mb == 0 && g.src == s.reg.mpOwner && g.src != 0) = true := by
    simp only [hmb, ← hsrc, beq_self_eq_true, bne_iff_ne.mpr hne, Bool.and_self]
  obtain h | h := hstate <;> (rw [State.segmentWakes, hpow, hkind, h]; exact howner)

theorem State.segmentWakes_awake (h3 : s.aon.mstate ≠ .s3) (h4 : s.aon.mstate ≠ .s4) : s.segmentWakes g = false := by
  simp [State.segmentWakes, h3, h4]

theorem exec_mpRequestSegment_s4 (hwakes : s.segmentWakes g = true) (hstate : s.aon.mstate = .s4) :
    exec (.mpRequestSegment g) s = .next (s.wakeFrom .s4).settle := by
  change execMpRequestSegment g s = _
  simp only [execMpRequestSegment, hwakes, hstate, if_true, bne_self_eq_false, Bool.false_and, Bool.false_eq_true, if_false]

/-- A wake from S3 with fresh training leaves the module in READY with its groups (16 R375). -/
theorem State.regRuns_wakeFrom_s3 (hfresh : s.trainingStale = false) (hgroup : 2 ≤ s.aon.group) : (s.wakeFrom .s3).regRuns = true := by
  have hgroup : decide (2 ≤ s.aon.group) = true := decide_eq_true hgroup
  simp only [State.wakeFrom, hfresh, Bool.false_eq_true, if_false]
  exact (congrArg (fun b => (b && _) && _) hgroup).trans rfl

theorem exec_mpRequestSegment_s3 (hwakes : s.segmentWakes g = true) (hstate : s.aon.mstate = .s3)
    (hfresh : s.trainingStale = false) (hgroup : 2 ≤ s.aon.group) :
    exec (.mpRequestSegment g) s = .next ((s.wakeFrom .s3).takeSegment g).settle := by
  have hruns := State.regRuns_wakeFrom_s3 hfresh hgroup
  change execMpRequestSegment g s = _
  simp only [execMpRequestSegment, hwakes, hstate, if_true, hruns, Bool.true_or, Bool.and_true]
  rfl

theorem exec_mpRequestSegment_awake (hruns : s.regRuns = true ∨ s.romRuns = true) (h3 : s.aon.mstate ≠ .s3) (h4 : s.aon.mstate ≠ .s4) :
    exec (.mpRequestSegment g) s = .next (s.takeSegment g).settle := by
  change execMpRequestSegment g s = _
  have hgo : (s.aon.mstate != .s4 && (s.regRuns || s.romRuns)) = true := by
    rw [bne_iff_ne.mpr h4, Bool.true_and, Bool.or_eq_true]
    exact hruns
  simp only [execMpRequestSegment, State.segmentWakes_awake h3 h4, Bool.false_eq_true, if_false, hgo, if_true]

/-- A segment that may come goes into the assembly of its mailbox. -/
theorem State.takeSegment_eq {m : MbId} (hkind : g.kind = 2) (hmb : g.mb.toNat = m.val) (hlow : 32 ≤ g.total.toNat)
    (hhigh : g.total.toNat ≤ 4096) (hmay : s.mpMay m g.src = true) : s.takeSegment g = match mpAsmFor (s.mb m).mpAsm g with
      | none => s
      | some a => if (a.add g.ofs.toNat g.data).complete then
          (s.modMb m fun x => { x with mpAsm := none }).deliverRequest m (.mp g.src) (a.add g.ofs.toNat g.data).bytes
        else s.modMb m fun x => { x with mpAsm := some (a.add g.ofs.toNat g.data) } := by
  have hm : (Fin.ofNat 16 g.mb.toNat : MbId) = m := by
    rw [hmb]
    exact Fin.ofNat_val_eq_self m
  have hgood : ¬(g.kind ≠ 2 ∨ 16 ≤ g.mb.toNat ∨ g.total.toNat < 32 ∨ 4096 < g.total.toNat) := by
    have := m.isLt
    simp only [hkind, hmb, ne_eq, not_true_eq_false, false_or]
    omega
  unfold State.takeSegment
  rw [if_neg hgood]
  dsimp only
  rw [hm, hmay]
  rfl

theorem mpAsmFor_other {a : MpAsm} (hsrc : a.src ≠ g.src) : mpAsmFor (some a) g = none := if_pos hsrc

end segment

/-! ### What follows a whole relayed message refuses nothing (log 23) -/

namespace NoNewRefusal

theorem ite {s a b : State} {c : Prop} [Decidable c] (ha : NoNewRefusal s a) (hb : NoNewRefusal s b) :
    NoNewRefusal s (if c then a else b) := by
  split
  · exact ha
  · exact hb

theorem sendMsg (s : State) (i : Nat) (mk : Pkt → Pkt) (bs : List Byte) : NoNewRefusal s (s.sendMsg i mk bs).2 := by
  unfold State.sendMsg
  split
  · exact refl s
  · next d hd => exact (setSess_same hd (by rfl)).trans (send ..)

theorem relaySend (s : State) (i : Nat) (h : Fin 64) (answer : Bool) (bs : List Byte) : NoNewRefusal s (s.relaySend i h answer bs) :=
  sendList ..

theorem toHost (s : State) (h : Fin 64) (bs : List Byte) : NoNewRefusal s (s.toHost h bs) := by
  unfold State.toHost
  split
  · exact sendMsg ..
  · exact refl s

theorem sendResponse_bridge (s : State) (m : MbId) (mod : BitVec 14) (h : Fin 64) (seq : Nat) (rq : Qid) (bs : List Byte) :
    NoNewRefusal s (s.sendResponse m (.bridge mod h) seq rq bs) := by
  unfold State.sendResponse
  dsimp only
  split
  · exact relaySend ..
  · exact refl s

theorem respond_bridge {s : State} {m : MbId} {mod : BitVec 14} {h : Fin 64} (hpath : ∀ r, (s.mb m).busy = some r → r.path = .bridge mod h)
    (st : BitVec 16) (info : Nat) (payload : List Byte) : NoNewRefusal s (s.respond m st info payload) := by
  unfold State.respond
  split
  · exact refl s
  · next r hr =>
    dsimp only
    rw [hpath r hr]
    exact (sendResponse_bridge ..).congr_left rfl

theorem wakeShallow (s : State) : NoNewRefusal s s.wakeShallow := of_sessions (by rw [State.wakeShallow_eng])

theorem acceptRequest_bridge {s : State} {m : MbId} {mod : BitVec 14} {h : Fin 64} (hpath : (s.mb m).reqPath = .bridge mod h)
    (seq : BitVec 16) : NoNewRefusal s (s.acceptRequest m seq) := by
  unfold State.acceptRequest
  extract_lets b len msg cmd p rq payload r s1 k stream
  have hs1 : NoNewRefusal s s1 := of_sessions rfl
  have hbusy : (s1.mb m).busy = some r := congrArg Mailbox.busy (State.mb_modMb_same s m fun b => { b with busy := some r })
  have hbridge : ∀ t : State, (t.mb m).busy = some r → ∀ st info bs, NoNewRefusal t (t.respond m st info bs) := fun t ht =>
    respond_bridge (mod := mod) (h := h) fun q hq => by
      rw [ht] at hq
      exact Option.some.inj hq ▸ hpath
  have hfail := fun st info bs => hs1.trans (hbridge s1 hbusy st info bs)
  refine ite (hfail ..) (ite (hfail ..) (ite (hfail ..) (ite (hfail ..) (ite (hfail ..) (ite (hfail ..) (ite (hfail ..)
    (ite (hfail ..) (ite (hfail ..) ?_))))))))
  clear_value k
  cases k with
  | none => exact hs1
  | some c =>
    have hwoken : NoNewRefusal s (if c = .diag then s1 else s1.wakeShallow) := ite hs1 (hs1.trans (wakeShallow s1))
    refine ite hwoken (hwoken.trans (hbridge _ ?_ ..))
    split
    · exact hbusy
    · rw [← hbusy]
      unfold State.wakeShallow
      split <;> rfl

theorem ringDoorbell_bridge {s : State} {m : MbId} {mod : BitVec 14} {h : Fin 64} (hpath : (s.mb m).reqPath = .bridge mod h)
    (seq : BitVec 16) : NoNewRefusal s (s.ringDoorbell m seq) := by
  unfold State.ringDoorbell
  refine ite (acceptRequest_bridge hpath _) (ite ?_ (ite (refl _) (of_sessions rfl)))
  unfold State.repeatResponse
  refine ite (refl _) ?_
  rw [hpath]
  exact sendResponse_bridge ..

theorem deliverRequest_bridge (s : State) (m : MbId) (mod : BitVec 14) (h : Fin 64) (bs : List Byte) :
    NoNewRefusal s (s.deliverRequest m (.bridge mod h) bs) := by
  have hpath := congrArg Mailbox.reqPath
    (State.mb_modMb_same s m fun b => { b with reqArea := padTo 4096 bs, reqPath := .bridge mod h })
  exact (ringDoorbell_bridge hpath _).congr_left rfl

theorem answerHost_bridge (s : State) (mod : BitVec 14) (h : Fin 64) (m : HostMsg) (st : BitVec 16) (bs : List Byte) :
    NoNewRefusal s (s.answerHost (.bridge mod h) m st bs) := by
  unfold State.answerHost
  dsimp only
  split
  · exact relaySend ..
  · exact refl s

theorem hostDma_bridge (s : State) (mod : BitVec 14) (h : Fin 64) (m : HostMsg) : NoNewRefusal s (s.hostDma (.bridge mod h) m) := by
  unfold State.hostDma
  extract_lets n right
  refine ite (answerHost_bridge ..) (ite ?_ ?_)
  · have hwrite : NoNewRefusal s (s.writeHbm m.tpart m.va.toNat (padTo n m.data)).2 := of_sessions (by rw [State.writeHbm_eng])
    split
    · next t ht =>
      rw [ht] at hwrite
      exact hwrite.trans (answerHost_bridge ..)
    · next t ht =>
      rw [ht] at hwrite
      exact hwrite.trans ((partFault ..).trans (answerHost_bridge ..))
  · have hread : NoNewRefusal s (s.readHbm m.tpart m.va.toNat n).2 := of_sessions (by rw [State.readHbm_eng])
    split
    · next t ht =>
      rw [ht] at hread
      exact hread.trans (answerHost_bridge ..)
    · next t ht =>
      rw [ht] at hread
      exact hread.trans ((partFault ..).trans (answerHost_bridge ..))

end NoNewRefusal

/-! ### Relayed messages (13 R316, log 33) -/

/-- An assembly is of the session, the host and the kind of its packets. -/
theorem Regulator.relayFor_of (r : Regulator) (i : Nat) (h : Fin 64) (answer : Bool) (msg : BitVec 32) :
    (r.relayFor i h answer msg).sess = i ∧ (r.relayFor i h answer msg).host = h ∧ (r.relayFor i h answer msg).answer = answer := by
  unfold Regulator.relayFor
  split
  · next a ha =>
    have hkey := List.find?_some ha
    simp only [Bool.and_eq_true, beq_iff_eq] at hkey
    obtain ⟨⟨⟨hsess, hhost⟩, hanswer⟩, -⟩ := hkey
    exact ⟨hsess, hhost, hanswer⟩
  · exact ⟨rfl, rfl, rfl⟩

section relay
variable {s : State} {k : Pkt} {i : Nat} {d : Session} {answer : Bool}

theorem Fin.ofNat_64_word (n : Nat) : (Fin.ofNat 64 (BitVec.ofNat 32 n).toNat : Fin 64) = Fin.ofNat 64 n := by
  refine Fin.ext ?_
  simp only [Fin.val_ofNat, BitVec.toNat_ofNat]
  exact Nat.mod_mod_of_dvd n (by decide)

/-- A packet of a relayed message, or of an answer to one, goes into its assembly. -/
theorem State.dataIn_relayed (hhost : d.host = none) (hret : k.ret = false) (hcoll : k.coll = 5) (hfmt : (Fmt.ofCode k.fmt).isSome = true)
    (hkind : fieldLE k.payload 16 1 = (if answer then 5 else 4)) (t : State) : t.dataIn i d k =
      (true, t.relayPiece i d k (Fin.ofNat 64 (fieldLE k.payload 12 4)) answer ((k.payload.drop 32).take (fieldLE k.payload 8 4))) := by
  have hgood : (badDataCode k || (d.relay && k.coll != 5)) = false := by
    simp [badDataCode, hcoll, hfmt]
  have hopen : ¬(d.host.isSome || k.coll = 3) := by simp [hhost, hcoll]
  have hrelay : fieldLE k.payload 16 1 = 4 ∨ fieldLE k.payload 16 1 = 5 := by cases answer <;> simp [hkind]
  have hanswer : (fieldLE k.payload 16 1 == 5) = answer := by cases answer <;> simp [hkind]
  rw [State.dataIn, if_neg hopen, hgood, if_neg Bool.false_ne_true, hret, if_neg Bool.false_ne_true, hcoll, if_neg (by decide),
    if_neg (by decide), if_pos rfl, State.permPacket]
  dsimp only
  rw [if_pos hrelay, hanswer, Fin.ofNat_64_word]

theorem exec_dataReceive_relayed (h : s.Arrives k i d) (hfresh : d.Fresh k) (hhost : d.host = none) (hret : k.ret = false)
    (hcoll : k.coll = 5) (hfmt : (Fmt.ofCode k.fmt).isSome = true) (hkind : fieldLE k.payload 16 1 = (if answer then 5 else 4)) {t : State}
    (hpiece : (s.hears i d k).relayPiece i d k (Fin.ofNat 64 (fieldLE k.payload 12 4)) answer
      ((k.payload.drop 32).take (fieldLE k.payload 8 4)) = t)
    (hkeep : NoNewRefusal (s.hears i d k) t) : exec (.dataReceive k) s = .next (t.booked i { k with type := tyData }) := by
  change Host.Outcome.next ((s.wokenBy k).takeReliable { k with type := tyData } fun t i d => t.dataIn i d k).settle = _
  rw [h.booked hfresh rfl (act := fun t i d => t.dataIn i d k) (t := t) ?_ hkeep]
  exact (State.dataIn_relayed hhost hret hcoll hfmt hkind _).trans (by rw [hpiece])

end relay

theorem State.hears_reg (s : State) (i : Nat) (d : Session) (k : Pkt) :
    (s.hears i d k).reg.relays = s.reg.relays ∧ (s.hears i d k).reg.relayed = s.reg.relayed ∧ (s.hears i d k).moduleId = s.moduleId := by
  rw [State.hears]
  change s.wakeShallow.reg.relays = _ ∧ s.wakeShallow.reg.relayed = _ ∧ s.wakeShallow.reg.moduleId = s.reg.moduleId
  unfold State.wakeShallow
  split <;> exact ⟨rfl, rfl, rfl⟩

section whole
variable {t : State} {i : Nat} {d : Session} {k : Pkt} {host : Fin 64} {answer : Bool} {bs : List Byte} {a : RelayAsm}

theorem State.relayPiece_part (ha : (t.reg.relayFor i host answer k.msg).add k bs = a) (hwhole : a.whole = false) :
    t.relayPiece i d k host answer bs = t.putRelay a true := by
  unfold State.relayPiece
  dsimp only
  rw [ha, hwhole, if_neg Bool.false_ne_true]

/-- A whole message, by whether it is an answer. -/
theorem State.relayPiece_whole (ha : (t.reg.relayFor i host answer k.msg).add k bs = a) (hwhole : a.whole = true) :
    t.relayPiece i d k host answer bs =
      let got := Mem.readN a.data 0 (a.total.getD 0)
      let m := hostMsgOf host t.moduleId d.part got
      if answer then (t.putRelay a false).relayAnswered i host got
      else if (m.op == 1) == d.relay then (t.putRelay a false).hostAct (.bridge d.peer host) m
      else (t.putRelay a false).relaySend i host true (hostRecord m stAccess []) := by
  obtain ⟨hsess, hhost, hanswer⟩ := t.reg.relayFor_of i host answer k.msg
  have hkey : a.sess = i ∧ a.host = host ∧ a.answer = answer := by
    rw [← ha]
    exact ⟨hsess, hhost, hanswer⟩
  obtain ⟨hsess, hhost, hanswer⟩ := hkey
  unfold State.relayPiece State.relayDone
  dsimp only
  rw [ha, hwhole, if_pos rfl, hsess, hhost, hanswer]
  rfl

/-- An answer that a relayed message waits for. -/
theorem State.relayAnswered_hit {x : Nat × HostMsg} (hfind : (t.reg.relayed.find? fun y => y.1 == i && y.2.host == host &&
    hostBytes { y.2 with len := 0 } == hostBytes { hostMsgOf host y.2.dmod y.2.tpart bs with len := 0, data := [] }) = some x) :
    t.relayAnswered i host bs = (t.modReg fun r => { r with relayed := r.relayed.erase x }).toHost host bs := by
  unfold State.relayAnswered
  rw [hfind]

end whole

/-! ### Host messages at the bridge (13 R315, R316) -/

section host
variable {s : State} {m : HostMsg}

/-- The answer to a host message that this bridge gives. -/
def State.hostAnswer (s : State) (m : HostMsg) (st : BitVec 16) (bs : List Byte) : State := s.toHost m.host (hostRecord m st bs)

theorem exec_hostMessage (hruns : s.regRuns = true) : exec (.hostMessage m) s = .next (s.takeHostMessage m).settle := if_pos hruns

theorem State.takeHostMessage_eq {e : HostEnt} {i : Nat} (hhost : s.reg.hosts.get none m.host.val = some e) (hsess : s.hostSess m.host = some i) :
    s.takeHostMessage m = if m.op = 0 ∨ 3 < m.op.toNat then s.hostAnswer m stBadField []
      else if !e.allows m then s.hostAnswer m stAccess []
      else if m.dmod = s.moduleId then s.hostAct (.host m.host) m
      else s.relayOut m := by
  unfold State.takeHostMessage
  rw [hhost, hsess]
  rfl

theorem State.newSess_full (hfull : s.freeSess = none) (p : PartId) (n : BitVec 14) (h : Option (Fin 64)) (relay : Bool) :
    s.newSess p n h relay = (none, s) := by
  unfold State.newSess
  rw [hfull]

/-- The session that leads to the module of a message, if one is open or opening. -/
def State.leadTo (s : State) (m : HostMsg) : Option Nat := if m.op = 1 then s.findRelay m.dmod else s.findSess m.tpart m.dmod

theorem State.need_full (hlead : s.leadTo m = none) (hfull : s.freeSess = none) :
    (if m.op = 1 then s.needRelay m.dmod else s.needSess m.tpart m.dmod) = (none, s) := by
  rw [State.leadTo] at hlead
  split at hlead
  next hop => simp only [if_pos hop, State.needRelay, hlead, State.newSess_full hfull]
  next hop => simp only [if_neg hop, State.needSess, hlead, State.newSess_full hfull]

theorem State.need_led {j : Nat} (hlead : s.leadTo m = some j) :
    (if m.op = 1 then s.needRelay m.dmod else s.needSess m.tpart m.dmod) = (some j, s) := by
  rw [State.leadTo] at hlead
  split at hlead
  next hop => simp only [if_pos hop, State.needRelay, hlead]
  next hop => simp only [if_neg hop, State.needSess, hlead]

theorem State.relayOut_barred (h : s.directTo m.dmod = none ∨ (m.op ≠ 1 ∧ s.partExists m.tpart = false)) :
    s.relayOut m = s.hostAnswer m stAccess [] := by
  refine if_pos ?_
  obtain h | ⟨hop, hpart⟩ := h
  · rw [h]
    rfl
  · rw [bne_iff_ne.mpr hop, hpart]
    exact Bool.or_true _

theorem State.relayOut_open (hdirect : (s.directTo m.dmod).isSome = true) (hpart : m.op = 1 ∨ s.partExists m.tpart = true) :
    s.relayOut m = if s.eng.lostMods.contains m.dmod then s.hostAnswer m stPeerLost []
      else match (if m.op = 1 then s.needRelay m.dmod else s.needSess m.tpart m.dmod) with
        | (none, s1) => s1.hostAnswer m stAccess []
        | (some i, s1) => (s1.modReg fun r => { r with relayed := r.relayed ++ [(i, { m with data := [] })] }).relaySend i m.host false
            (hostBytes m) := by
  refine (if_neg ?_).trans rfl
  rw [← Option.not_isSome, hdirect]
  obtain hop | hpart := hpart
  · simp [hop]
  · simp [hpart]

theorem State.hostDma_barred_not {right : Right} (hpart : s.partExists m.tpart = true)
    (hcheck : (s.part m.tpart).checkRange m.va.toNat m.len.toNat right = none) :
    ¬(!s.partExists m.tpart || ((s.part m.tpart).checkRange m.va.toNat m.len.toNat right).isSome) = true := by
  simp [hpart, hcheck]

theorem State.hostDma_writes (path : ReqPath) (hop : m.op = 2) (hecc : s.hbm.ecc = []) (hpart : s.partExists m.tpart = true)
    (hcheck : (s.part m.tpart).checkRange m.va.toNat m.len.toNat .pw = none) : s.hostDma path m =
      ({ s with hbm := s.hbm.writeVa (s.part m.tpart) [] m.va.toNat (padTo m.len.toNat m.data) } : State).answerHost path m stOk [] := by
  unfold State.hostDma
  dsimp only
  rw [if_pos hop, if_neg (State.hostDma_barred_not hpart hcheck), if_pos hop, State.writeHbm_clean hecc]

theorem State.hostDma_reads (path : ReqPath) (hop : m.op = 3) (hecc : s.hbm.ecc = []) (hpart : s.partExists m.tpart = true)
    (hcheck : (s.part m.tpart).checkRange m.va.toNat m.len.toNat .pr = none) : s.hostDma path m =
      s.answerHost path m stOk (s.hbm.readVa (s.part m.tpart) m.va.toNat m.len.toNat) := by
  have hne : ¬m.op = 2 := by rw [hop]; decide
  unfold State.hostDma
  dsimp only
  rw [if_neg hne, if_neg (State.hostDma_barred_not hpart hcheck), if_neg hne, State.readHbm_clean hecc]

end host

/-- Settles O60: the port's own commands by their equations, relayed pieces by `exec_dataReceive_relayed`, host messages by the cases of
`State.takeHostMessage_eq`. -/
theorem managementPortActs : Obligations.ManagementPortActs := by
  refine ⟨fun s => exec_announceTimer, fun s a hruns => ⟨fun hsrc => ?_, fun hsrc => ?_⟩, fun s m => exec_announceAbsence,
    fun s f hframe => ⟨fun htries => ?_, fun htries => ?_⟩, fun s => rfl, fun s g hpow hkind hmb hsrc hne => ⟨fun h4 => ?_, fun h3 => ?_⟩,
    fun s g m hruns h3 h4 hkind hmb hlow hhigh hmay => ⟨fun a ha => ?_, fun a ha hsrc => ?_⟩, fun s m => rfl, ?_, ?_⟩
  · exact (exec_announceReceive a hruns).trans (congrArg _ (if_pos hsrc))
  · exact (exec_announceReceive a hruns).trans (congrArg _ (if_neg hsrc))
  · exact ⟨_, Nat.mod_lt _ (Nat.two_pow_pos _), (exec_mpCollision hframe).trans (congrArg _ (if_neg (by omega)))⟩
  · exact (exec_mpCollision hframe).trans (congrArg _ (if_pos (by omega)))
  · exact exec_mpRequestSegment_s4 (State.segmentWakes_of_owner hpow hkind hmb hsrc hne (.inr h4)) h4
  · exact exec_mpRequestSegment_s3 (State.segmentWakes_of_owner hpow hkind hmb hsrc hne (.inl h3)) h3
  · rw [exec_mpRequestSegment_awake hruns h3 h4, State.takeSegment_eq hkind hmb hlow hhigh hmay, ha]
  · rw [exec_mpRequestSegment_awake hruns h3 h4, State.takeSegment_eq hkind hmb hlow hhigh hmay, ha, mpAsmFor_other hsrc]
  · intro s k i d answer harrives hfresh hhost hret hcoll hfmt hkind
    obtain ⟨hrelays, hrelayed, hmid⟩ := s.hears_reg i d k
    have hexec := fun {t} => exec_dataReceive_relayed (answer := answer) (t := t) harrives hfresh hhost hret hcoll hfmt hkind
    have hasm : ((s.hears i d k).reg.relayFor i (Fin.ofNat 64 (fieldLE k.payload 12 4)) answer k.msg) =
        s.reg.relayFor i (Fin.ofNat 64 (fieldLE k.payload 12 4)) answer k.msg := by
      unfold Regulator.relayFor
      rw [hrelays]
    have hput : ∀ a keep, NoNewRefusal (s.hears i d k) ((s.hears i d k).putRelay a keep) := fun a keep => NoNewRefusal.of_sessions rfl
    extract_lets host piece a got z h t done
    have hdone := State.relayPiece_whole (t := s.hears i d k) (d := d) (a := a) (bs := piece) (congrArg (·.add k piece) hasm)
    rw [hmid] at hdone
    refine ⟨fun hpart => ?_, fun x hwhole hanswer hfind => ?_, fun hwhole hanswer hrelay hop => ?_, fun hwhole hanswer hrelay hop => ?_,
      fun hwhole hanswer hother => ?_⟩
    · exact hexec (State.relayPiece_part (congrArg (·.add k piece) hasm) hpart) (hput a true)
    · refine hexec ((hdone hwhole).trans ?_) ((hput a false).trans (NoNewRefusal.toHost ..|>.congr_left rfl))
      rw [if_pos hanswer]
      refine State.relayAnswered_hit ?_
      rw [← hrelayed] at hfind
      exact hfind
    · have hway : ((z.op == 1) == d.relay) = true := by rw [hop, hrelay]; rfl
      refine hexec ((hdone hwhole).trans ?_) ((hput a false).trans (NoNewRefusal.deliverRequest_bridge ..))
      rw [hanswer, if_neg Bool.false_ne_true]
      exact (if_pos hway).trans (if_pos hop)
    · have hway : ((z.op == 1) == d.relay) = true := by rw [beq_false_of_ne hop, hrelay]; rfl
      refine hexec ((hdone hwhole).trans ?_) ((hput a false).trans (NoNewRefusal.hostDma_bridge ..))
      rw [hanswer, if_neg Bool.false_ne_true]
      exact (if_pos hway).trans (if_neg hop)
    · have hway : ¬((z.op == 1) == d.relay) = true := fun hsame => by
        have hrelay : d.relay = true ↔ z.op = 1 := by rw [← eq_of_beq hsame, beq_iff_eq]
        exact iff_not_self (hrelay.symm.trans hother)
      refine hexec ((hdone hwhole).trans ?_) ((hput a false).trans (NoNewRefusal.relaySend ..))
      rw [hanswer, if_neg Bool.false_ne_true]
      exact if_neg hway
  · intro s m e i hruns hhost hsess
    have hexec := exec_hostMessage (m := m) hruns
    rw [State.takeHostMessage_eq hhost hsess] at hexec
    have hgood : m.op ≠ 0 → m.op.toNat ≤ 3 → ¬(m.op = 0 ∨ 3 < m.op.toNat) := fun h0 h3 h => h.elim h0 (Nat.not_lt.mpr h3)
    refine ⟨fun hop => ?_, fun h0 h3 hallows => ?_, fun h0 h3 hallows haway => ?_, fun hallows hhere => ⟨fun hop => ?_, ?_⟩⟩
    · rwa [if_pos hop] at hexec
    · rwa [if_neg (hgood h0 h3), hallows, Bool.not_false, if_pos rfl] at hexec
    · rw [if_neg (hgood h0 h3), hallows, if_neg (by decide), if_neg haway] at hexec
      refine ⟨fun hbarred => ?_, fun hdirect hpart => ?_⟩
      · rwa [State.relayOut_barred hbarred] at hexec
      · rw [State.relayOut_open hdirect hpart] at hexec
        refine ⟨fun hlost => ?_, fun hpresent => ⟨fun hlead hfull => ?_, fun j hlead => ?_⟩⟩
        · rwa [if_pos hlost] at hexec
        · rwa [hpresent, if_neg (by decide), State.need_full hlead hfull] at hexec
        · rwa [hpresent, if_neg (by decide), State.need_led hlead] at hexec
    · rw [if_neg (by rw [hop]; decide), hallows, if_neg (by decide), if_pos hhere] at hexec
      exact hexec.trans (congrArg (fun t : State => Host.Outcome.next t.settle) (if_pos hop))
    · intro right hright hecc hpart hcheck
      have hdma : (m.op = 2 ∨ m.op = 3) → exec (.hostMessage m) s = .next (s.hostDma (.host m.host) m).settle := fun hop => by
        have hlegal : ¬(m.op = 0 ∨ 3 < m.op.toNat) := by obtain h | h := hop <;> (rw [h]; decide)
        have hnot : ¬m.op = 1 := by obtain h | h := hop <;> (rw [h]; decide)
        rw [if_neg hlegal, hallows, if_neg (by decide), if_pos hhere, State.hostAct, if_neg hnot] at hexec
        exact hexec
      refine ⟨fun hop => ?_, fun hop => ?_⟩
      · rw [hright, if_pos hop] at hcheck
        rw [hdma (.inl hop), State.hostDma_writes _ hop hecc hpart hcheck]
        rfl
      · rw [hright, if_neg (by rw [hop]; decide)] at hcheck
        rw [hdma (.inr hop), State.hostDma_reads _ hop hecc hpart hcheck]
        rfl

end Sys2Proof.Machine

/-! The receive order of a fabric port (12 R274 to R283, 10 R220, R241). Each step of the order has an equation for the frames that it
takes. What it leaves differs from the state before in the fabric alone until a queue takes the frame, so nothing else goes on then;
what a queue takes is stated on the woken module, which has the engines and the partitions of the state before. -/

namespace Sys2Proof.Machine

/-! ### States that differ in the fabric alone -/

theorem State.settle_fabric {s t : State} (h : s.still = true) (ht : t = { s with fabric := t.fabric }) : t.settle = t := by
  rw [ht]
  exact State.settle_of_still (State.still_congr h (fun _ => rfl) rfl rfl rfl rfl)

/-- A count changes nothing that the crossbar reads of a port. -/
theorem State.port_countSub (s : State) (p e : PortId) (i : SubId) (k : PortCnt) (n : Nat) :
    (s.countSub p i k n).port e = { s.port e with subs := ((s.countSub p i k n).port e).subs } ∧
      ∀ j, (((s.countSub p i k n).port e).sub j).txq = ((s.port e).sub j).txq := by
  rw [State.countSub_eq]
  by_cases he : e = p
  · subst he
    rw [State.port_setPort_same]
    refine ⟨rfl, fun j => ?_⟩
    by_cases hj : j = i
    · subst hj
      rw [Port.sub_modSub_same]
      rfl
    · rw [Port.sub_modSub_other _ _ hj]
  · rw [State.port_setPort_other _ _ _ _ he]
    exact ⟨rfl, fun _ => rfl⟩

theorem State.egressOk_countSub (s : State) (p : PortId) (i : SubId) (k : PortCnt) (n : Nat) (p' e : PortId) (es : SubId) :
    (s.countSub p i k n).egressOk p' e es = s.egressOk p' e es := by
  rw [State.egressOk, (s.port_countSub p e i k n).1]
  rfl

theorem State.cutThrough_countSub (s : State) (p : PortId) (i : SubId) (k : PortCnt) (n : Nat) (p' e : PortId) (b es : SubId) :
    (s.countSub p i k n).cutThrough p' b e es = s.cutThrough p' b e es := by
  rw [State.cutThrough, (s.port_countSub p e i k n).2, (s.port_countSub p e i k n).1, (s.port_countSub p p' i k n).1]
  rfl

theorem State.fwdBuf_countSub (s : State) (p : PortId) (i : SubId) (k : PortCnt) (n : Nat) (e : PortId) :
    ((s.countSub p i k n).port e).fwdBuf = (s.port e).fwdBuf := by
  rw [(s.port_countSub p e i k n).1]

/-- The state in which a good frame has counted. -/
def State.goodCounted (s : State) (p : PortId) (b : SubId) (f : List Byte) : State :=
  (s.countSub p b .rxFrames 1).countSub p b .rxBytes (f.length + 4)

/-- The state in which a filter rule's hit has counted. -/
def State.ruleHit (s : State) (j : Nat) : State :=
  { s with fabric := { s.fabric with ruleHits := bump 48 s.fabric.ruleHits j 1 } }

theorem State.port_goodCounted (s : State) (p e : PortId) (b : SubId) (f : List Byte) :
    (s.goodCounted p b f).port e = { s.port e with subs := ((s.goodCounted p b f).port e).subs } := by
  rw [State.goodCounted, (State.port_countSub ..).1, (s.port_countSub ..).1]

/-! ### The steps of the receive order (R274) -/

section receive
variable {s : State} {p : PortId} {b : SubId} {f : List Byte}

theorem exec_frameReceive {ok : Bool} (h : (s.port p).receives b f = true) :
    exec (.frameReceive p b f ok) s = .next (s.takeFrame p b f ok).settle := if_pos h

/-- The length of the frame with its FCS is legal. -/
abbrev legalSize (f : List Byte) : Prop := 64 ≤ f.length + 4 ∧ f.length + 4 ≤ 9216

/-- The frame is for the crossbar. -/
abbrev State.crosses (s : State) (p : PortId) (f : List Byte) : Prop := s.foreign (parseFrame f).dst = true ∧ (s.port p).fwdIn = true

/-- The frame is for Direct link control. -/
abbrev State.forDlc (s : State) (p : PortId) (f : List Byte) : Prop := (parseFrame f).dst = dlcAddr ∧ (s.port p).mode = 3

theorem State.takeFrame_bad : s.takeFrame p b f false = if s.crosses p f ∧ legalSize f then
    (s.countSub p b .rxFcs 1).stompCopy p b ((parseFrame f).dst % 65536) f (parseFrame f).pcp else s.countSub p b .rxFcs 1 := by
  simp only [State.takeFrame, Bool.not_false, if_true, Bool.and_eq_true, decide_eq_true_eq]

theorem State.takeFrame_illegal (h : ¬legalSize f) : s.takeFrame p b f true = s.countSub p b .rxSize 1 := by
  simp only [State.takeFrame, Bool.not_true, Bool.false_eq_true, if_false, decide_eq_false h, Bool.not_false, if_true]

theorem State.countRx_of_not_dlc (h : ¬s.forDlc p f) : s.countRx p b f (parseFrame f) = s.goodCounted p b f := if_neg h

theorem State.takeFrame_pause (hlegal : legalSize f) (hdlc : ¬s.forDlc p f) (hpause : isPause f (parseFrame f) = true) :
    s.takeFrame p b f true = (s.goodCounted p b f).countSub p b .rxPause 1 := by
  simp only [State.takeFrame, Bool.not_true, Bool.false_eq_true, if_false, decide_eq_true hlegal, hpause, if_true,
    State.countRx_of_not_dlc hdlc]

/-- The link-control address is in no module's block. -/
theorem State.not_forDlc_of_crosses (h : s.crosses p f) : ¬s.forDlc p f := by
  rintro ⟨hdst, -⟩
  obtain ⟨hforeign, -⟩ := h
  rw [hdst, State.foreign, Bool.and_eq_true] at hforeign
  exact absurd hforeign.1 (by decide)

theorem State.takeFrame_crosses (hlegal : legalSize f) (hpause : isPause f (parseFrame f) = false) (h : s.crosses p f) :
    s.takeFrame p b f true = ((s.goodCounted p b f).crossbar p b ((parseFrame f).dst % 65536) f (parseFrame f).pcp).getD
      ((s.goodCounted p b f).ownFrame p b f (parseFrame f)) := by
  simp only [State.takeFrame, Bool.not_true, Bool.false_eq_true, if_false, decide_eq_true hlegal, hpause, h.1, h.2, Bool.and_self, if_true,
    State.countRx_of_not_dlc (State.not_forDlc_of_crosses h)]

/-- What the entry of the destination module says to do. -/
abbrev State.fwdAct (s : State) (f : List Byte) : Nat :=
  ((s.fabric.fwd.get 0 ((parseFrame f).dst % 65536)).extractLsb' 0 2).toNat

/-- The steps after the crossbar take a frame that it leaves. -/
theorem State.takeFrame_own (hlegal : legalSize f) (hpause : isPause f (parseFrame f) = false) (hdlc : ¬s.forDlc p f)
    (hact : s.crosses p f → s.fwdAct f = 0) :
    s.takeFrame p b f true = (s.goodCounted p b f).ownFrame p b f (parseFrame f) := by
  by_cases h : s.crosses p f
  · have hnone : (s.goodCounted p b f).crossbar p b ((parseFrame f).dst % 65536) f (parseFrame f).pcp = none := if_pos (hact h)
    rw [State.takeFrame_crosses hlegal hpause h, hnone, Option.getD_none]
  · have hcross : (s.foreign (parseFrame f).dst && (s.port p).fwdIn) = false := by
      rwa [Bool.eq_false_iff, ne_eq, Bool.and_eq_true]
    simp only [State.takeFrame, Bool.not_true, Bool.false_eq_true, if_false, decide_eq_true hlegal, hpause, hcross,
      State.countRx_of_not_dlc hdlc]

end receive

/-! ### The crossbar (R281 to R283) -/

section crossbar
variable {s : State} {p e : PortId} {b k : SubId} {f : List Byte} {mid : Nat}

/-- The entry of a destination module names an egress sub-port. -/
abbrev State.leadsTo (s : State) (mid : Nat) (e : PortId) (k : SubId) : Prop :=
  ((s.fabric.fwd.get 0 mid).extractLsb' 0 2).toNat = 1 ∧ ((s.fabric.fwd.get 0 mid).extractLsb' 2 4).toNat = e.val ∧
    ((s.fabric.fwd.get 0 mid).extractLsb' 6 2).toNat = k.val

/-- An egress sub-port has room for a frame. -/
abbrev State.fits (s : State) (p e : PortId) (k : SubId) (need : Nat) : Prop :=
  e ≠ p ∧ (s.port e).state.isUp = true ∧ (s.port e).subLanes k ≠ 0 ∧ (s.port e).fwdBuf + need ≤ 2 ^ 20

/-- An egress sub-port is idle and no faster than the ingress. -/
abbrev State.idleEgress (s : State) (p : PortId) (b : SubId) (e : PortId) (k : SubId) : Prop :=
  ((s.port e).sub k).txq = [] ∧ (s.port e).subLanes k ≤ (s.port p).subLanes b

theorem State.cutThrough_iff : s.cutThrough p b e k = true ↔ s.idleEgress p b e k := by
  rw [State.cutThrough, Bool.and_eq_true, List.isEmpty_iff, decide_eq_true_eq]

theorem State.fwdEntry_eq_some_iff : s.fwdEntry mid = some (e, k) ↔ s.leadsTo mid e k := by
  have hk : ((s.fabric.fwd.get 0 mid).extractLsb' 6 2).toNat < 4 := BitVec.isLt _
  unfold State.fwdEntry
  dsimp only
  constructor
  · intro h
    split at h
    case isTrue hact =>
      obtain ⟨rfl, rfl⟩ := Prod.mk.inj (Option.some.inj h)
      exact ⟨hact.1, (Nat.mod_eq_of_lt hact.2).symm, (Nat.mod_eq_of_lt hk).symm⟩
    case isFalse => exact absurd h nofun
  · rintro ⟨hact, he, hes⟩
    rw [if_pos ⟨hact, he ▸ e.isLt⟩, he, hes, Fin.ofNat_eq_cast, Fin.ofNat_eq_cast, Fin.cast_val_eq_self, Fin.cast_val_eq_self]

theorem State.fwdEntry_eq_none (h : ∀ e k, ¬s.leadsTo mid e k) : s.fwdEntry mid = none :=
  Option.eq_none_iff_forall_ne_some.mpr fun x hx => h x.1 x.2 (State.fwdEntry_eq_some_iff.mp hx)

theorem State.fits_iff {need : Nat} : s.fits p e k need ↔ s.egressOk p e k = true ∧ (s.port e).fwdBuf + need ≤ 2 ^ 20 := by
  simp only [State.egressOk, Bool.and_eq_true, bne_iff_ne, and_assoc]

/-- A frame takes 9,216 bytes of the egress buffer in cut-through, else its own length. -/
theorem State.forward_eq {need pcp : Nat} (hcut : s.idleEgress p b e k → need = 9216)
    (hstored : ¬s.idleEgress p b e k → need = f.length + 4) :
    s.forward p b e k f pcp = if s.fits p e k need then s.passFrame p e k f pcp need false else s.fwdDrop p b := by
  have hneed : (if s.cutThrough p b e k = true then 9216 else f.length + 4) = need := by
    split
    case isTrue h => exact (hcut (State.cutThrough_iff.mp h)).symm
    case isFalse h => exact (hstored (mt State.cutThrough_iff.mpr h)).symm
  simp only [State.forward, hneed, State.fits_iff]
  by_cases hfits : s.egressOk p e k = true ∧ (s.port e).fwdBuf + need ≤ 2 ^ 20
  · rw [if_pos hfits, if_neg (by
      rw [Bool.not_eq_true', ← Nat.not_le, ← Bool.not_eq_true]
      exact not_or.mpr ⟨not_not.mpr hfits.1, not_not.mpr hfits.2⟩)]
  · rw [if_neg hfits, if_pos (by
      rw [Bool.not_eq_true', ← Nat.not_le, ← Bool.not_eq_true]
      exact not_and_or.mp hfits)]

theorem State.crossbar_to {pcp : Nat} (h : s.leadsTo mid e k) : s.crossbar p b mid f pcp = some (s.forward p b e k f pcp) := by
  simp only [State.crossbar, h.1, one_ne_zero, if_false, State.fwdEntry_eq_some_iff.mpr h]

theorem State.crossbar_nowhere {pcp : Nat} (hact : ((s.fabric.fwd.get 0 mid).extractLsb' 0 2).toNat ≠ 0) (h : ∀ e k, ¬s.leadsTo mid e k) :
    s.crossbar p b mid f pcp = some (s.fwdDrop p b) := by
  simp only [State.crossbar, hact, if_false, State.fwdEntry_eq_none h]

/-- A cut-through copy has started. -/
abbrev State.copyStarted (s : State) (p : PortId) (b : SubId) (e : PortId) (k : SubId) : Prop :=
  s.idleEgress p b e k ∧ s.fits p e k 9216

theorem State.stompCopy_started {pcp : Nat} (h : s.leadsTo mid e k) (hstarted : s.copyStarted p b e k) :
    s.stompCopy p b mid f pcp = (s.passFrame p e k f pcp 9216 true).countSub e k .fwdStomp 1 := by
  obtain ⟨hidle, hfits⟩ := hstarted
  obtain ⟨hok, hroom⟩ := State.fits_iff.mp hfits
  simp only [State.stompCopy, State.fwdEntry_eq_some_iff.mpr h, hok, State.cutThrough_iff.mpr hidle, hroom,
    decide_true, Bool.and_self, if_true]

theorem State.stompCopy_none {pcp : Nat} (h : ∀ e k, s.leadsTo mid e k → ¬s.copyStarted p b e k) : s.stompCopy p b mid f pcp = s := by
  unfold State.stompCopy
  split
  · rename_i e k hentry
    refine if_neg fun hon => h e k (State.fwdEntry_eq_some_iff.mp hentry) ?_
    simp only [Bool.and_eq_true, decide_eq_true_eq] at hon
    exact ⟨State.cutThrough_iff.mp hon.1.2, State.fits_iff.mpr ⟨hon.1.1, hon.2⟩⟩
  · rfl

theorem State.fits_countSub {i : SubId} {c : PortCnt} {n need : Nat} {p' : PortId} :
    (s.countSub p i c n).fits p' e k need ↔ s.fits p' e k need := by
  rw [State.fits_iff, State.fits_iff, State.egressOk_countSub, State.fwdBuf_countSub]

theorem State.fits_goodCounted {need : Nat} : (s.goodCounted p b f).fits p e k need ↔ s.fits p e k need :=
  State.fits_countSub.trans State.fits_countSub

theorem State.idle_countSub {i : SubId} {c : PortCnt} {n : Nat} {p' : PortId} :
    (s.countSub p i c n).idleEgress p' b e k ↔ s.idleEgress p' b e k := by
  rw [← State.cutThrough_iff, ← State.cutThrough_iff, State.cutThrough_countSub]

theorem State.idle_goodCounted : (s.goodCounted p b f).idleEgress p b e k ↔ s.idleEgress p b e k :=
  State.idle_countSub.trans State.idle_countSub

theorem State.started_countSub {c : PortCnt} {n : Nat} : (s.countSub p b c n).copyStarted p b e k ↔ s.copyStarted p b e k :=
  and_congr State.idle_countSub State.fits_countSub

theorem State.takeFrame_bad_dropped
    (h : ¬(s.crosses p f ∧ legalSize f ∧ ∃ e k, s.leadsTo ((parseFrame f).dst % 65536) e k ∧ s.copyStarted p b e k)) :
    s.takeFrame p b f false = s.countSub p b .rxFcs 1 := by
  rw [State.takeFrame_bad]
  split
  · rename_i hcross
    exact State.stompCopy_none fun e k hto hstarted => h ⟨hcross.1, hcross.2, e, k, hto, State.started_countSub.mp hstarted⟩
  · rfl

theorem State.takeFrame_bad_started (hcross : s.crosses p f) (hlegal : legalSize f)
    (hto : s.leadsTo ((parseFrame f).dst % 65536) e k) (hstarted : s.copyStarted p b e k) :
    s.takeFrame p b f false =
      ((s.countSub p b .rxFcs 1).passFrame p e k f (parseFrame f).pcp 9216 true).countSub e k .fwdStomp 1 := by
  rw [State.takeFrame_bad, if_pos ⟨hcross, hlegal⟩]
  exact State.stompCopy_started hto (State.started_countSub.mpr hstarted)

section good
variable (hlegal : legalSize f) (hpause : isPause f (parseFrame f) = false) (hcross : s.crosses p f)
include hlegal hpause hcross

theorem State.takeFrame_led {need : Nat} (hto : s.leadsTo ((parseFrame f).dst % 65536) e k) (hcut : s.idleEgress p b e k → need = 9216)
    (hstored : ¬s.idleEgress p b e k → need = f.length + 4) : s.takeFrame p b f true = if s.fits p e k need then
      (s.goodCounted p b f).passFrame p e k f (parseFrame f).pcp need false else (s.goodCounted p b f).fwdDrop p b := by
  have hto' : (s.goodCounted p b f).leadsTo ((parseFrame f).dst % 65536) e k := hto
  rw [State.takeFrame_crosses hlegal hpause hcross, State.crossbar_to hto', Option.getD_some,
    State.forward_eq (fun h => hcut (State.idle_goodCounted.mp h)) (fun h => hstored (mt State.idle_goodCounted.mpr h))]
  exact if_congr State.fits_goodCounted rfl rfl

theorem State.takeFrame_lost (hact : s.fwdAct f ≠ 0) (hnone : ∀ e k, ¬s.leadsTo ((parseFrame f).dst % 65536) e k) :
    s.takeFrame p b f true = (s.goodCounted p b f).fwdDrop p b := by
  have hact' : (((s.goodCounted p b f).fabric.fwd.get 0 ((parseFrame f).dst % 65536)).extractLsb' 0 2).toNat ≠ 0 := hact
  rw [State.takeFrame_crosses hlegal hpause hcross, State.crossbar_nowhere hact' hnone, Option.getD_some]

end good

end crossbar

/-! ### The module's own frames (R274 to R277) -/

section own
variable {s : State} {p : PortId} {b : SubId} {f : List Byte}

/-- A PTP message changes the clock, the free values and the transmit queues: the frames that the Regulator has heard stay. -/
theorem State.takePtp_keeps_heard (s : State) (p : PortId) (b : SubId) (rx : BitVec 64) (mac : Nat) (ip : Option (Bool × Nat))
    (bs : List Byte) : (s.takePtp p b rx mac ip bs).reg.ptp = s.reg.ptp ∧ (s.still = true → (s.takePtp p b rx mac ip bs).still = true) := by
  have hpeer : (s.peerResp p b rx mac ip bs).reg.ptp = s.reg.ptp ∧ (s.still = true → (s.peerResp p b rx mac ip bs).still = true) := by
    unfold State.peerResp
    split <;> exact ⟨rfl, fun h => State.still_congr h (fun _ => rfl) rfl rfl rfl rfl⟩
  unfold State.takePtp
  split
  · exact ⟨rfl, id⟩
  · split
    case h_3 => exact hpeer
    case h_8 => exact ⟨rfl, id⟩
    all_goals exact ⟨rfl, fun h => State.still_congr h (fun _ => rfl) rfl rfl rfl rfl⟩

/-- A PTP message for the Regulator. -/
abbrev State.forPtp (s : State) (p : PortId) (f : List Byte) : Prop := isPtp f (parseFrame f) = true ∧ (s.port p).ptpEn = true

theorem State.ownFrame_ptp (hdlc : ¬s.forDlc p f) (hptp : s.forPtp p f) : ∃ (mac : Nat) (ip : Option (Bool × Nat)) (bs : List Byte),
    s.ownFrame p b f (parseFrame f) =
      (s.modReg fun r => { r with ptp := ⟨p, b, s.rxStamp p b, f⟩ :: r.ptp }).takePtp p b (s.rxStamp p b) mac ip bs := by
  simp only [State.ownFrame, if_neg hdlc, hptp.1, hptp.2, Bool.and_self, if_true]
  exact ⟨_, _, _, rfl⟩

theorem State.ownFrame_other (hdlc : ¬s.forDlc p f) (hptp : ¬s.forPtp p f) : s.ownFrame p b f (parseFrame f) =
    if isNeighbour f (parseFrame f) = true then s else s.dispose p b f (parseFrame f) := by
  have hno : (isPtp f (parseFrame f) && (s.port p).ptpEn) = false := by rwa [Bool.eq_false_iff, ne_eq, Bool.and_eq_true]
  simp only [State.ownFrame, if_neg hdlc, hno, Bool.false_eq_true, if_false]

theorem State.ownFrame_ptp_heard (hstill : s.still = true) (hdlc : ¬s.forDlc p f) (hptp : s.forPtp p f) :
    (s.ownFrame p b f (parseFrame f)).settle.reg.ptp = ⟨p, b, s.rxStamp p b, f⟩ :: s.reg.ptp := by
  obtain ⟨mac, ip, bs, heq⟩ := State.ownFrame_ptp (b := b) hdlc hptp
  obtain ⟨hheard, hkeeps⟩ := State.takePtp_keeps_heard (s.modReg fun r => { r with ptp := ⟨p, b, s.rxStamp p b, f⟩ :: r.ptp }) p b
    (s.rxStamp p b) mac ip bs
  rw [heq, State.settle_of_still (hkeeps (State.still_congr hstill (fun _ => rfl) rfl rfl rfl rfl)), hheard]
  rfl

end own

/-! ### The transport (R277) -/

/-- The transport packet of a frame for a rule's partition and this module. -/
def State.transportPkt (s : State) (part : PartId) (f : List Byte) (z : Parsed) : Option Pkt :=
  (z.udp.bind fun u => if udpPort f u = s.reg.tport.toNat then pktOfBytes (udpPayload f u) else none).filter
    fun k => k.tpart == part && (k.host || k.dmod == s.moduleId)

theorem State.toTransport_eq (s : State) (part : PartId) (f : List Byte) (z : Parsed) : s.toTransport part f z =
    match s.transportPkt part f z with
    | some k => s.takePkt k (ipSource f z)
    | none => s := by
  unfold State.toTransport State.transportPkt
  cases z.udp with
  | none => rfl
  | some u =>
    by_cases hport : udpPort f u = s.reg.tport.toNat
    · simp only [hport, ne_eq, not_true_eq_false, if_false, Option.bind_some, if_true]
      cases pktOfBytes (udpPayload f u) with
      | none => rfl
      | some k =>
        by_cases hfor : k.tpart = part ∧ (k.host = true ∨ k.dmod = s.moduleId)
        · simp [Option.filter, hfor]
        · have hno : (k.tpart == part && (k.host || k.dmod == s.moduleId)) = false := by
            rw [Bool.eq_false_iff]
            simpa using hfor
          simp [Option.filter, hfor, hno]
    · simp [hport]

/-- The command that a notice stands for. -/
def noticeOf (k : Pkt) : Option Instr := match fieldLE k.payload 0 4 with
  | 1 => some (.noticeSkip k)
  | 2 => some (.noticeNorm k)
  | 3 => some (.noticePeerLost k)
  | 4 => some (.noticeReady k)
  | _ => none

/-- The command that a packet's type stands for. -/
def commandOf (k : Pkt) (addr : BitVec 128) : Option Instr := match k.type.toNat with
  | 1 => some (.dataReceive k)
  | 2 => some (.ackReceive k)
  | 3 => some (.keepaliveReceive k)
  | 4 => some (.openReceive k addr)
  | 5 => some (.openAckReceive k)
  | 6 => some (.closeReceive k)
  | 7 => some (.creditReceive k)
  | 8 => noticeOf k
  | _ => none

theorem next_afterOutcome {s : State} {o : Host.Outcome State Fault Refusal} (h : ∃ t, o = .next t) : o = .next (afterOutcome s o) := by
  obtain ⟨t, rfl⟩ := h
  rfl

theorem exec_noticeOf {s : State} {k : Pkt} {c : Instr} (h : noticeOf k = some c) : exec c s = .next (s.takeNotice k) := by
  unfold noticeOf at h
  unfold State.takeNotice
  generalize fieldLE k.payload 0 4 = kind at h ⊢
  match kind, h with
  | 1, h | 2, h | 3, h | 4, h =>
    cases h
    exact next_afterOutcome ⟨_, rfl⟩
  | 0, h | _ + 5, h => exact absurd h nofun

/-- A packet acts as the command of its type. -/
theorem exec_commandOf {s : State} {k : Pkt} {addr : BitVec 128} {c : Instr} (h : commandOf k addr = some c) :
    exec c s = .next (s.takePkt k addr) := by
  unfold commandOf at h
  unfold State.takePkt
  generalize k.type.toNat = type at h ⊢
  match type, h with
  | 1, h | 2, h | 3, h | 4, h | 5, h | 6, h | 7, h =>
    cases h
    exact next_afterOutcome ⟨_, rfl⟩
  | 8, h => exact exec_noticeOf h
  | 0, h | _ + 9, h => exact absurd h nofun

/-! ### Filter rules and queue groups (R276 to R278) -/

section steer
variable {s : State} {p : PortId} {b : SubId} {f : List Byte} {z : Parsed}

/-- The enabled perfect-match entry of a frame. -/
def State.named (s : State) (p : PortId) (z : Parsed) : Option PerfectEnt :=
  s.perfects.find? fun e => e.en && e.addr.toNat == z.dst && e.ports.getLsbD p.val

theorem State.dispose_named {e : PerfectEnt} (h : s.named p z = some e) : s.dispose p b f z = s.steer p b e.qgrp.toNat f z := by
  rw [State.named] at h
  simp only [State.dispose, h]

theorem State.dispose_nomatch (hnamed : s.named p z = none) (h : s.firstRule p f z = none) :
    s.dispose p b f z = s.countSub p b .rxNomatch 1 := by
  rw [State.named] at hnamed
  simp only [State.dispose, hnamed, h]

theorem State.dispose_rule {j : Nat} {r : FilterRule} (hnamed : s.named p z = none) (h : s.firstRule p f z = some (j, r)) :
    s.dispose p b f z = if r.action.toNat % 4 = 1 then (s.ruleHit j).steer p b r.qgrp.toNat f z
      else if r.action.toNat % 4 = 2 then (s.ruleHit j).toTransport r.part f z else s.ruleHit j := by
  rw [State.named] at hnamed
  simp only [State.dispose, hnamed, h]
  split
  case h_1 hact => rw [if_pos hact]; rfl
  case h_2 hact => rw [if_neg (by omega), if_pos hact]; rfl
  case h_3 h1 h2 => rw [if_neg h1, if_neg h2]; rfl

theorem State.steer_nowhere {n : Nat} (h : ((s.fabric.qgroups.get none n).bind fun g => (g.pick f z).bind s.queue) = none) :
    s.steer p b n f z = s := by
  unfold State.steer
  cases hgroup : s.fabric.qgroups.get none n with
  | none => rfl
  | some g =>
    rw [hgroup, Option.bind_some] at h
    dsimp only
    cases hpick : g.pick f z with
    | none => rfl
    | some i =>
      rw [hpick, Option.bind_some] at h
      simp only [h, Option.isSome_none, Bool.false_eq_true, if_false]

theorem State.steer_to {n : Nat} {g : QueueGroup} {i : Qid} {d : Queue} (hgroup : s.fabric.qgroups.get none n = some g)
    (hpick : g.pick f z = some i) (hq : s.queue i = some d) :
    s.steer p b n f z = s.wakeShallow.frameIn p b i g.asm (s.rxStamp p b) f := by
  simp only [State.steer, hgroup, hpick, hq, Option.isSome_some, if_true]

end steer

/-! ### A frame in a queue (R279, 10 R220, R241) -/

/-- A queue with a written item: where the write did not land, the partition faults. -/
def State.entered (v : Bool × State) (i : Qid) (q : Queue) (lands fails : Item → Item) (k : Nat) : State :=
  if v.1 = true then v.2.setQueue i (q.putItem (lands ((q.item k).getD (Item.fresh k))))
  else (v.2.setQueue i (q.putItem (fails ((q.item k).getD (Item.fresh k))))).partFault q.part (if q.memCs then 1 else 5) none

section queue
variable {s w : State} {p : PortId} {b : SubId} {i : Qid} {d : Queue} {at_ : BitVec 64} {f : List Byte}

theorem State.rxfOpen_congr {t : State} (h : t.parts = s.parts) (d : Queue) : t.rxfOpen d = s.rxfOpen d := by
  rw [State.rxfOpen, State.rxfOpen, State.faulted, State.faulted, State.part, State.part, h]

theorem State.frameIn_held {asm : Bool} (hq : w.queue i = some d) (hcached : i ∉ w.eng.qcache) :
    w.frameIn p b i asm at_ f = w.hold (.frame p b i asm at_ f) := by
  simp [State.frameIn, hq, State.cached_eq hq, hcached]

theorem State.frameIn_cached {asm : Bool} (hq : w.queue i = some d) (hcached : i ∈ w.eng.qcache) :
    w.frameIn p b i asm at_ f =
      if asm = true then w.imageFrame p b i d at_ f (parseFrame f) else w.frameItem i d at_ f := by
  simp [State.frameIn, hq, State.cached_eq hq, hcached]

/-- A queue that has dropped a frame. -/
def Queue.dropped (q : Queue) : Queue := { q with qDrop := satAdd 32 q.qDrop 1 }

theorem State.dropRxf_eq (hq : w.queue i = some d) : w.dropRxf i = w.setQueue i d.dropped := by
  rw [State.dropRxf, hq]
  rfl

/-- The item allocated at the end of a queue is the one at its position. -/
theorem Queue.item_appended {q : Queue} {l : List Item} {x : Item} (hitems : q.items = l ++ [x]) (hn : ∀ y ∈ l, y.n < x.n) :
    q.item x.n = some x := by
  have hnone : l.find? (fun y => y.n == x.n) = none := List.find?_eq_none.mpr fun y hy => by
    simpa using (hn y hy).ne
  rw [Queue.item, hitems, List.find?_append, hnone, Option.none_or, List.find?_singleton, if_pos (beq_self_eq_true _)]

theorem Queue.putItem_appended {q : Queue} {l : List Item} {x y : Item} (hitems : q.items = l ++ [x]) (hn : ∀ z ∈ l, z.n < x.n)
    (hy : y.n = x.n) : q.putItem y = { q with items := l ++ [y] } :=
  Queue.putItem_split (before := l) (after := []) hitems (fun z hz => (hn z (by simpa using hz)).ne) hy

theorem State.entered_landed (t : State) (q : Queue) (lands fails : Item → Item) (k : Nat) :
    State.entered (true, t) i q lands fails k = t.setQueue i (q.putItem (lands ((q.item k).getD (Item.fresh k)))) := rfl

theorem State.entered_failed (t : State) (q : Queue) (lands fails : Item → Item) (k : Nat) :
    State.entered (false, t) i q lands fails k =
      (t.setQueue i (q.putItem (fails ((q.item k).getD (Item.fresh k))))).partFault q.part (if q.memCs then 1 else 5) none := rfl

theorem State.rxfFault_landed (t : State) (q : Queue) : t.rxfFault q true = t := rfl

theorem State.rxfFault_failed (t : State) (q : Queue) :
    t.rxfFault q false = t.partFault q.part (if q.memCs then 1 else 5) none := rfl

/-- The next item of a queue, with the time at which it arrived. -/
def Queue.nextItem (q : Queue) (at_ : BitVec 64) : Item :=
  { Item.fresh q.ppos with ts := at_, cancelled := decide (q.ppos < q.dpos) }

/-- A queue with one item more. -/
def Queue.grown (q : Queue) (x : Item) : Queue := { q with ppos := q.ppos + 1, items := q.items ++ [x] }

theorem Queue.item_grown {q : Queue} {x : Item} (hn : ∀ y ∈ q.items, y.n < q.ppos) (hx : x.n = q.ppos) :
    (q.grown x).item q.ppos = some x :=
  hx ▸ Queue.item_appended (q := q.grown x) rfl (by rwa [hx])

theorem Queue.putItem_grown {q : Queue} {x y : Item} (hn : ∀ z ∈ q.items, z.n < q.ppos) (hx : x.n = q.ppos) (hy : y.n = q.ppos) :
    (q.grown x).putItem y = q.grown y :=
  Queue.putItem_appended (q := q.grown x) rfl (by rwa [hx]) (hy.trans hx.symm)

theorem Queue.putItem_below {q : Queue} {x : Item} {m : Nat} (hn : ∀ y ∈ q.items, y.n < m) : ∀ y ∈ (q.putItem x).items, y.n < m := by
  intro y hy
  obtain ⟨z, hz, rfl⟩ := List.mem_map.mp hy
  have hlt := hn z hz
  split
  · exact ‹z.n = x.n› ▸ hlt
  · exact hlt

/-- A change of an item takes no slot and frees none. -/
theorem State.rxfOpen_putItem (s : State) (q : Queue) (x : Item) : s.rxfOpen (q.putItem x) = s.rxfOpen q := by
  have hnumber : ∀ y : Item, (if y.n = x.n then x else y).n = y.n := fun y => by
    split
    · exact Eq.symm ‹_›
    · rfl
  have hitem : ∀ n, ((q.putItem x).item n).isNone = (q.item n).isNone := fun n => by
    rw [Bool.eq_iff_iff, Queue.item, Queue.item, Queue.putItem, Option.isNone_iff_eq_none, Option.isNone_iff_eq_none,
      List.find?_eq_none, List.find?_eq_none, List.forall_mem_map]
    simp only [hnumber]
  rw [State.rxfOpen, State.rxfOpen, Queue.slotFree, Queue.slotFree, hitem]
  rfl

theorem State.frameItem_dropped (hq : w.queue i = some d) (h : ¬(w.rxfOpen d = true ∧ f.length ≤ d.slotb)) :
    w.frameItem i d at_ f = w.setQueue i d.dropped := by
  rw [State.frameItem, if_neg (by rwa [Bool.and_eq_true, decide_eq_true_eq]), State.dropRxf_eq hq]

/-- One frame is one item, complete only where its write has landed. -/
theorem State.frameItem_taken (hopen : w.rxfOpen d = true) (hlen : f.length ≤ d.slotb) (hn : ∀ x ∈ d.items, x.n < d.ppos) :
    w.frameItem i d at_ f = State.entered (w.writeQueue d (d.slotOff d.ppos) f) i (d.grown (d.nextItem at_))
      (fun x => { x with closed := true, full := true, bytes := f.length })
      (fun x => { x with closed := true, bytes := f.length }) d.ppos := by
  rw [State.frameItem, if_pos (by rw [Bool.and_eq_true, decide_eq_true_eq]; exact ⟨hopen, hlen⟩)]
  dsimp only
  generalize w.writeQueue d (d.slotOff d.ppos) f = v
  obtain ⟨ok, t⟩ := v
  cases ok with
  | true => rw [State.entered_landed, Queue.item_grown hn rfl, Option.getD_some, Queue.putItem_grown hn rfl rfl, State.rxfFault_landed]; rfl
  | false =>
    rw [State.entered_failed, Queue.item_grown hn rfl, Option.getD_some, Queue.putItem_grown hn rfl rfl, State.rxfFault_failed]
    rfl

theorem State.imageSegment_eq (x : Item) (ofs : Nat) (data : List Byte) : w.imageSegment p b i d x ofs data =
    if x.total.getD 0 < ofs + data.length ∨ (x.ranges.any fun r => rangesMeet r (ofs, data.length)) = true then w.countSub p b .rxAsmFail 1
    else State.entered (w.writeQueue d (d.slotOff x.n + ofs) data) i d (fun _ => { x with
      bytes := x.bytes + data.length, ranges := x.ranges ++ [(ofs, data.length)]
      full := decide (x.bytes + data.length = x.total.getD 0), closed := decide (x.bytes + data.length = x.total.getD 0) })
      (fun _ => x) x.n := by
  unfold State.imageSegment
  refine if_congr Iff.rfl rfl ?_
  dsimp only
  generalize w.writeQueue d (d.slotOff x.n + ofs) data = v
  obtain ⟨ok, t⟩ := v
  cases ok with
  | true => rw [State.entered_landed, State.rxfFault_landed, if_pos rfl]
  | false => rw [State.entered_failed, State.rxfFault_failed, if_neg Bool.false_ne_true]

/-- The item that an image's first segment allocates. -/
def Queue.imageItem (q : Queue) (at_ : BitVec 64) (item total : Nat) : Item :=
  { q.nextItem at_ with asmItem := some item, total := some total }

/-- An item of an image that is given up. -/
def Item.givenUp (x : Item) : Item := { x with cancelled := true, closed := true, full := true }

/-- A queue whose open image is the one of its last item. -/
def Queue.opened (q : Queue) (x : Item) : Queue := { q.grown x with asmDrop := none }

/-- A queue that drops the further segments of an image. -/
def Queue.refusing (q : Queue) (item : Nat) : Queue := { q with asmDrop := some item }

theorem Queue.putItem_opened {q : Queue} {x y : Item} (hn : ∀ z ∈ q.items, z.n < q.ppos) (hx : x.n = q.ppos) (hy : y.n = q.ppos) :
    (q.opened x).putItem y = q.opened y :=
  congrArg (fun r : Queue => ({ r with asmDrop := none } : Queue)) (Queue.putItem_grown hn hx hy)

theorem Queue.cancelImage_dropping {q : Queue} {x : Item} {item : Nat} (h : x.asmItem = some item) :
    q.cancelImage x true = (q.putItem x.givenUp).refusing item :=
  congrArg (fun a => ({ q.putItem x.givenUp with asmDrop := a } : Queue)) h

/-- A segment of an image that is not open opens it, unless the image is to be dropped. -/
theorem State.imageOpen_eq (hq : w.queue i = some d) (hn : ∀ x ∈ d.items, x.n < d.ppos) (item ofs total : Nat) (data : List Byte) :
    w.imageOpen p b i at_ item ofs total data =
      if d.asmDrop = some item then w
      else if w.rxfOpen d = false then w.setQueue i (d.dropped.refusing item)
      else if d.slotb < total ∨ d.ppos < d.dpos then w.setQueue i ((d.grown (d.imageItem at_ item total).givenUp).refusing item)
      else (w.setQueue i (d.opened (d.imageItem at_ item total))).imageSegment p b i (d.opened (d.imageItem at_ item total))
        (d.imageItem at_ item total) ofs data := by
  have hitem : (d.opened (d.imageItem at_ item total)).item d.ppos = some (d.imageItem at_ item total) := Queue.item_grown hn rfl
  have hcancel : (d.opened (d.imageItem at_ item total)).cancelImage (d.imageItem at_ item total) true =
      (d.grown (d.imageItem at_ item total).givenUp).refusing item := by
    rw [Queue.cancelImage_dropping rfl, Queue.putItem_opened hn rfl rfl]
    rfl
  have halloc : { (d.alloc fun x => { x with asmItem := some item, total := some total, ts := at_ }) with asmDrop := none } =
      d.opened (d.imageItem at_ item total) := rfl
  have hcancelled : (d.imageItem at_ item total).cancelled = decide (d.ppos < d.dpos) := rfl
  simp only [State.imageOpen, hq, halloc, hitem, hcancel, hcancelled, decide_eq_true_eq, Bool.not_eq_true']
  rfl

section image
variable {z : Parsed} {pay : List Byte}

theorem State.imageFrame_faulted (hq : w.queue i = some d) (h : w.faulted d.part = true) :
    w.imageFrame p b i d at_ f z = w.setQueue i d.dropped := by
  rw [State.imageFrame, if_pos h, State.dropRxf_eq hq]

/-- Without a whole segment header the frame joins no image; the others join the open image, end it, or open one. -/
theorem State.imageFrame_eq (h : w.faulted d.part = false) (hpay : pay = (z.udp.map (udpPayload f)).getD []) :
    w.imageFrame p b i d at_ f z =
      if pay.length < 16 then w.countSub p b .rxAsmFail 1
      else d.image.elim (w.imageOpen p b i at_ (fieldLE pay 0 4) (fieldLE pay 4 4) (fieldLE pay 8 4) (pay.drop 16)) fun x =>
        if x.asmItem = some (fieldLE pay 0 4) then w.imageSegment p b i d x (fieldLE pay 4 4) (pay.drop 16)
        else ((w.setQueue i (d.cancelImage x false)).countSub p b .rxAsmFail 1).imageOpen p b i at_ (fieldLE pay 0 4) (fieldLE pay 4 4)
          (fieldLE pay 8 4) (pay.drop 16) := by
  subst hpay
  simp only [State.imageFrame, h, Bool.false_eq_true, if_false]
  cases z.udp with
  | none => rfl
  | some u =>
    refine if_congr Iff.rfl rfl ?_
    cases d.image <;> rfl

end image

end queue

/-! ### FRAME_RECEIVE -/

section final
variable {s y : State} {p : PortId} {b : SubId} {f : List Byte}

/-- A frame that is neither dropped nor sent on nor the Regulator's: steps 5 to 7 of the receive order take it. -/
structure State.Own (s : State) (p : PortId) (f : List Byte) : Prop where
  legal : legalSize f
  noPause : isPause f (parseFrame f) = false
  noDlc : ¬s.forDlc p f
  stays : s.crosses p f → s.fwdAct f = 0
  noPtp : ¬s.forPtp p f
  noNeighbour : isNeighbour f (parseFrame f) = false

theorem State.forDlc_goodCounted : (s.goodCounted p b f).forDlc p f ↔ s.forDlc p f := by
  rw [State.forDlc, State.port_goodCounted]
  exact Iff.rfl

theorem State.forPtp_goodCounted : (s.goodCounted p b f).forPtp p f ↔ s.forPtp p f := by
  rw [State.forPtp, State.port_goodCounted]
  exact Iff.rfl

theorem State.takeFrame_other (hlegal : legalSize f) (hpause : isPause f (parseFrame f) = false) (hdlc : ¬s.forDlc p f)
    (hact : s.crosses p f → s.fwdAct f = 0) (hptp : ¬s.forPtp p f) : s.takeFrame p b f true =
      if isNeighbour f (parseFrame f) = true then s.goodCounted p b f else (s.goodCounted p b f).dispose p b f (parseFrame f) := by
  rw [State.takeFrame_own hlegal hpause hdlc hact, State.ownFrame_other (mt State.forDlc_goodCounted.mp hdlc)
    (mt State.forPtp_goodCounted.mp hptp)]

theorem State.Own.takeFrame (h : s.Own p f) : s.takeFrame p b f true = (s.goodCounted p b f).dispose p b f (parseFrame f) := by
  rw [State.takeFrame_other h.legal h.noPause h.noDlc h.stays h.noPtp, h.noNeighbour, if_neg Bool.false_ne_true]

theorem State.takeFrame_ptp_heard (hstill : s.still = true) (hlegal : legalSize f) (hpause : isPause f (parseFrame f) = false)
    (hdlc : ¬s.forDlc p f) (hact : s.crosses p f → s.fwdAct f = 0) (hptp : s.forPtp p f) :
    (s.takeFrame p b f true).settle.reg.ptp = ⟨p, b, s.rxStamp p b, f⟩ :: s.reg.ptp := by
  have hgood : (s.goodCounted p b f).still = true := State.still_congr hstill (fun _ => rfl) rfl rfl rfl rfl
  rw [State.takeFrame_own hlegal hpause hdlc hact,
    State.ownFrame_ptp_heard hgood (mt State.forDlc_goodCounted.mp hdlc) (State.forPtp_goodCounted.mpr hptp)]
  rfl

theorem State.Own.takeFrame_named (h : s.Own p f) {e : PerfectEnt} (hnamed : s.named p (parseFrame f) = some e) :
    s.takeFrame p b f true = (s.goodCounted p b f).steer p b e.qgrp.toNat f (parseFrame f) :=
  h.takeFrame.trans (State.dispose_named hnamed)

theorem State.Own.takeFrame_nomatch (h : s.Own p f) (hnamed : s.named p (parseFrame f) = none)
    (hrule : s.firstRule p f (parseFrame f) = none) :
    s.takeFrame p b f true = (s.goodCounted p b f).countSub p b .rxNomatch 1 :=
  h.takeFrame.trans (State.dispose_nomatch hnamed hrule)

/-- A rule's hit counts, and its ACTION says where the frame goes. -/
theorem State.Own.takeFrame_rule (h : s.Own p f) (hnamed : s.named p (parseFrame f) = none) {j : Nat} {r : FilterRule}
    (hrule : s.firstRule p f (parseFrame f) = some (j, r)) : s.takeFrame p b f true =
      if r.action.toNat % 4 = 1 then ((s.goodCounted p b f).ruleHit j).steer p b r.qgrp.toNat f (parseFrame f)
      else if r.action.toNat % 4 = 2 then ((s.goodCounted p b f).ruleHit j).toTransport r.part f (parseFrame f)
      else (s.goodCounted p b f).ruleHit j :=
  h.takeFrame.trans (State.dispose_rule hnamed hrule)

theorem State.toTransport_ruleHit (j : Nat) (part : PartId) :
    ((s.goodCounted p b f).ruleHit j).toTransport part f (parseFrame f) =
      (s.transportPkt part f (parseFrame f)).elim ((s.goodCounted p b f).ruleHit j) fun x =>
        ((s.goodCounted p b f).ruleHit j).takePkt x (ipSource f (parseFrame f)) := by
  have hpkt : ((s.goodCounted p b f).ruleHit j).transportPkt part f (parseFrame f) = s.transportPkt part f (parseFrame f) := rfl
  rw [State.toTransport_eq, hpkt]
  cases s.transportPkt part f (parseFrame f) <;> rfl

/-- `y` is `s` but for counters, so far as steering reads it. -/
structure State.CountedFrom (s y : State) : Prop where
  same : y = { s with fabric := y.fabric }
  groups : y.fabric.qgroups = s.fabric.qgroups

theorem State.CountedFrom.queue (h : s.CountedFrom y) : y.queue = s.queue := by rw [h.same]; rfl

theorem State.CountedFrom.steer_nowhere (h : s.CountedFrom y) {n : Nat}
    (hnone : ((s.fabric.qgroups.get none n).bind fun g => (g.pick f (parseFrame f)).bind s.queue) = none) :
    y.steer p b n f (parseFrame f) = y :=
  State.steer_nowhere (by rwa [h.groups, h.queue])

theorem State.CountedFrom.steer_to (h : s.CountedFrom y) {n : Nat} {g : QueueGroup} {i : Qid} {d : Queue}
    (hgroup : s.fabric.qgroups.get none n = some g) (hpick : g.pick f (parseFrame f) = some i) (hq : s.queue i = some d) :
    y.steer p b n f (parseFrame f) = y.wakeShallow.frameIn p b i g.asm (s.rxStamp p b) f := by
  have hstamp : y.rxStamp p b = s.rxStamp p b := by rw [h.same]; rfl
  rw [State.steer_to (h.groups ▸ hgroup) hpick (h.queue ▸ hq), hstamp]

theorem State.CountedFrom.woken_eng (h : s.CountedFrom y) : y.wakeShallow.eng = s.eng := by
  rw [State.wakeShallow_eng, h.same]

theorem State.CountedFrom.woken_parts (h : s.CountedFrom y) : y.wakeShallow.parts = s.parts := by
  rw [State.wakeShallow_parts, h.same]

theorem State.countedFrom_goodCounted (s : State) (p : PortId) (b : SubId) (f : List Byte) : s.CountedFrom (s.goodCounted p b f) :=
  ⟨rfl, rfl⟩

theorem State.countedFrom_ruleHit (s : State) (p : PortId) (b : SubId) (f : List Byte) (j : Nat) :
    s.CountedFrom ((s.goodCounted p b f).ruleHit j) := ⟨rfl, rfl⟩

/-- A command whose whole effect is on the fabric. -/
theorem exec_frameReceive_counts {t : State} {ok : Bool} (hstill : s.still = true) (hreceives : (s.port p).receives b f = true)
    (htake : s.takeFrame p b f ok = t) (hsame : t = { s with fabric := t.fabric }) :
    exec (.frameReceive p b f ok) s = .next t := by
  rw [exec_frameReceive hreceives, htake, State.settle_fabric hstill hsame]

end final

/-- Settles O30: each step of the receive order by its equation. -/
theorem framesAreDisposedInOrder : Obligations.FramesAreDisposedInOrder := by
  intro s p b f hstill hreceives z mid word act legal fwd dlc c0 hit other ptp own named steered goes fits cut passed egress
  have counts : ∀ {t : State} {ok : Bool}, s.takeFrame p b f ok = t → t = { s with fabric := t.fabric } →
      exec (.frameReceive p b f ok) s = .next t := exec_frameReceive_counts hstill hreceives
  have hown : own → s.Own p f := by
    rintro ⟨⟨hlegal, hpause, hdlc, hact⟩, hptp, hneighbour⟩
    exact ⟨hlegal, hpause, hdlc, hact, hptp, hneighbour⟩
  have hsteered : ∀ y n, steered y n → s.CountedFrom y ∧ s.takeFrame p b f true = y.steer p b n f (parseFrame f) := by
    rintro y n ⟨h, ⟨e, hnamed, rfl, rfl⟩ | ⟨j, r, hnamed, hrule, hact, rfl, rfl⟩⟩
    · exact ⟨s.countedFrom_goodCounted p b f, (hown h).takeFrame_named hnamed⟩
    · exact ⟨s.countedFrom_ruleHit p b f j, ((hown h).takeFrame_rule hnamed hrule).trans (if_pos hact)⟩
  refine ⟨fun hnone => counts (State.takeFrame_bad_dropped hnone) rfl,
    fun hcross hlegal e k hto hcut hfits => counts (State.takeFrame_bad_started hcross hlegal hto ⟨hcut, hfits⟩) rfl,
    fun hlegal => counts (State.takeFrame_illegal hlegal) rfl,
    fun hlegal hpause hdlc => counts (State.takeFrame_pause hlegal hdlc hpause) rfl,
    fun hlegal hpause hcross => ⟨fun e k hto need hcut hstored => ⟨fun hfits => ?_, fun hfits => ?_⟩,
      fun hact hnone => counts (State.takeFrame_lost hlegal hpause hcross hact hnone) rfl⟩,
    fun hother hptp => ?_, fun hother hptp hneighbour => ?_, fun h hnamed hrule => ?_, fun j r h hnamed hrule => ⟨fun hact => ?_,
      fun hact k hk => ⟨fun hnone => ?_, fun x c hx hc => ?_⟩⟩,
    fun y n hsteer hnone => ?_, fun y n g i d hsteer hgroup hpick hq => ?_⟩
  · exact counts ((State.takeFrame_led hlegal hpause hcross hto hcut hstored).trans (if_pos hfits)) rfl
  · exact counts ((State.takeFrame_led hlegal hpause hcross hto hcut hstored).trans (if_neg hfits)) rfl
  · obtain ⟨hlegal, hpause, hdlc, hact⟩ := hother
    exact ⟨_, exec_frameReceive hreceives, State.takeFrame_ptp_heard hstill hlegal hpause hdlc hact hptp⟩
  · obtain ⟨hlegal, hpause, hdlc, hact⟩ := hother
    exact counts ((State.takeFrame_other hlegal hpause hdlc hact hptp).trans (if_pos hneighbour)) rfl
  · exact counts ((hown h).takeFrame_nomatch hnamed hrule) rfl
  · refine counts (((hown h).takeFrame_rule hnamed hrule).trans ?_) rfl
    rw [if_neg (by omega), if_neg (by omega)]
    rfl
  · refine counts (((hown h).takeFrame_rule hnamed hrule).trans ?_) rfl
    have hpkt : s.transportPkt r.part f (parseFrame f) = none := hk.symm.trans hnone
    rw [if_neg (by omega), if_pos hact, State.toTransport_ruleHit, hpkt]
    rfl
  · have hpkt : s.transportPkt r.part f (parseFrame f) = some x := hk.symm.trans hx
    refine ⟨_, exec_commandOf hc, ?_⟩
    refine (exec_frameReceive hreceives).trans ?_
    rw [(hown h).takeFrame_rule hnamed hrule, if_neg (by omega), if_pos hact, State.toTransport_ruleHit, hpkt]
    rfl
  · obtain ⟨hcounted, htake⟩ := hsteered y n hsteer
    exact counts (htake.trans (hcounted.steer_nowhere hnone)) hcounted.same
  · intro w at_ dropped put item0 grown
    obtain ⟨hcounted, htake⟩ := hsteered y n hsteer
    have hparts : w.parts = s.parts := hcounted.woken_parts
    have hwq : w.queue i = some d := by rw [← hq, State.queue, State.queue, hcounted.woken_eng]
    have takes : ∀ {t : State}, w.frameIn p b i g.asm at_ f = t → goes t.settle := fun h =>
      (exec_frameReceive hreceives).trans (by rw [htake, hcounted.steer_to hgroup hpick hq, h])
    refine ⟨fun hcached => takes (State.frameIn_held hwq (by rwa [hcounted.woken_eng])), fun hcached hn => ?_⟩
    have hin := State.frameIn_cached (p := p) (b := b) (at_ := at_) (f := f) (asm := g.asm) hwq (by rwa [hcounted.woken_eng])
    refine ⟨fun hasm => ?_, fun hasm => ?_⟩
    · rw [if_neg (by rw [hasm]; exact Bool.false_ne_true)] at hin
      refine ⟨fun hopen => takes (hin.trans ?_), fun hclosed => takes (hin.trans ?_)⟩
      · exact State.frameItem_taken ((State.rxfOpen_congr hparts d).trans hopen.1) hopen.2 hn
      · exact State.frameItem_dropped hwq (by rwa [State.rxfOpen_congr hparts])
    · rw [if_pos hasm] at hin
      intro pay item ofs total data
      have hfaulted : w.faulted d.part = s.faulted d.part := by rw [State.faulted, State.faulted, State.part, State.part, hparts]
      refine ⟨fun h => takes (hin.trans (State.imageFrame_faulted hwq (hfaulted.trans h))), fun h hshort => takes (hin.trans ?_),
        fun h hwhole => ?_⟩
      · rw [State.imageFrame_eq (hfaulted.trans h) (pay := pay) rfl, if_pos hshort]
      · rw [State.imageFrame_eq (hfaulted.trans h) (pay := pay) rfl, if_neg (Nat.not_lt.mpr hwhole)] at hin
        intro segment opens
        have hopens : ∀ (t : State) (l : List Item), t.parts = s.parts → t.queue i = some { d with items := l } →
            (∀ x ∈ l, x.n < d.ppos) → t.rxfOpen { d with items := l } = t.rxfOpen d →
            t.imageOpen p b i at_ item ofs total data = opens t { d with items := l } := by
          intro t l ht htq hl hopen
          rw [State.imageOpen_eq htq hl, hopen, State.rxfOpen_congr ht, State.imageSegment_eq]
          rfl
        refine ⟨fun hnone => takes (hin.trans ?_), fun x hx => ?_⟩
        · rw [hnone]
          exact hopens w d.items hparts hwq hn rfl
        · intro ended
          rw [hx] at hin
          refine ⟨fun hsame => takes (hin.trans ((if_pos hsame).trans (State.imageSegment_eq ..))), fun hother =>
            takes (hin.trans ((if_neg hother).trans ?_))⟩
          exact hopens _ ended.items hparts (State.queue_setQueue_same ..) (Queue.putItem_below hn)
            (State.rxfOpen_putItem ..)

end Sys2Proof.Machine

/-! ### Packets, acknowledgement and retransmission (13 R290 to R293) -/

namespace Sys2Proof.Machine

/-- Two commands that leave the same state to what waits end alike. -/
theorem next_settle_congr {s t : State} (h : s = t) : (Host.Outcome.next s.settle : Host.Outcome State Fault Refusal) = .next t.settle :=
  congrArg (fun w : State => Host.Outcome.next w.settle) h

/-! #### Packets that do not act -/

/-- A packet that names no session, arrives while the ports do not run, or fails a check, wakes nothing (16 R375). -/
theorem State.wokenBy_of_bad {s : State} {k : Pkt} (h : s.portsRun = false ∨ k.tcrcOk = false ∨ k.ver ≠ 1 ∨ s.sessOfPkt k = none) :
    s.wokenBy k = s := by
  rw [State.wokenBy]
  refine if_neg ?_
  obtain h | h | h | h := h
  · simp [h]
  · simp [h]
  · rw [beq_false_of_ne h]
    simp
  · simp [h]

theorem State.sessOfPkt_eq_none {s : State} {k : Pkt}
    (h : ∀ d, s.sess k.sess.toNat = some d → ¬(d.part = k.tpart ∧ d.peer = k.smod ∧ d.hostBit = k.host)) : s.sessOfPkt k = none := by
  rw [State.sessOfPkt]
  split
  · next d hd => exact if_neg (h d hd)
  · rfl

theorem State.sessOfPkt_eq_some {s : State} {k : Pkt} {d : Session} (hd : s.sess k.sess.toNat = some d) (hpart : d.part = k.tpart)
    (hpeer : d.peer = k.smod) (hhost : d.hostBit = k.host) : s.sessOfPkt k = some (k.sess.toNat, d) := by
  rw [State.sessOfPkt, hd]
  exact if_pos ⟨hpart, hpeer, hhost⟩

/-- A whole packet of a known header and type passes the checks. -/
theorem State.checked_good {s : State} {k : Pkt} (hports : s.portsRun = true) (htcrc : k.tcrcOk = true) (hver : k.ver = 1)
    (htype : typeReserved k.type = false) (f : State) : s.checked k f = f := by
  rw [State.checked, hports, htcrc, hver, htype]
  rfl

theorem State.checked_stopped {s : State} (hports : s.portsRun = false) (k : Pkt) (f : State) : s.checked k f = s := by
  rw [State.checked, hports]
  rfl

theorem State.checked_badTcrc {s : State} {k : Pkt} (hports : s.portsRun = true) (htcrc : k.tcrcOk = false) (f : State) :
    s.checked k f = s.countPart k.tpart .tpCksum 1 := by
  rw [State.checked, hports, htcrc]
  rfl

theorem State.checked_badVer {s : State} {k : Pkt} (hports : s.portsRun = true) (htcrc : k.tcrcOk = true) (hver : k.ver ≠ 1) (f : State) :
    s.checked k f = s.countPart k.tpart .tpBadhdr 1 := by
  rw [State.checked, hports, htcrc]
  exact if_pos (Or.inl hver)

/-- A reliable packet that names no session is only checked. -/
theorem State.takeReliable_alien {s : State} {k : Pkt} (h : s.sessOfPkt k = none) {ty : BitVec 4} (act : State → Nat → Session → Bool × State) :
    s.takeReliable { k with type := ty } act = s.checked { k with type := ty } s := by
  rw [State.takeReliable, show s.sessOfPkt { k with type := ty } = none from h]

theorem State.accepts_imp {s : State} {d : Session} {k : Pkt} (h : s.accepts d k = true) :
    s.portsRun = true ∧ k.tcrcOk = true ∧ k.ver = 1 ∧ d.Fresh k := by
  simp only [State.accepts, Bool.and_eq_true, decide_eq_true_eq, beq_iff_eq, Bool.not_eq_true'] at h
  obtain ⟨⟨⟨⟨⟨hports, htcrc⟩, hver⟩, hahead⟩, hgot⟩, hrefuses⟩ := h
  exact ⟨hports, htcrc, hver, hahead, hgot, hrefuses⟩

theorem Session.Fresh.accepts {s : State} {d : Session} {k : Pkt} (h : d.Fresh k) (hports : s.portsRun = true) (htcrc : k.tcrcOk = true)
    (hver : k.ver = 1) : s.accepts d k = true := by
  obtain ⟨hahead, hgot, hrefuses⟩ := h
  rw [State.accepts, hports, htcrc, hver, hgot, hrefuses]
  simpa using hahead

/-- A CLOSE is checked like any packet (13 R290). -/
theorem exec_closeReceive_checked (k : Pkt) (s : State) :
    ∃ f, exec (.closeReceive k) s = .next ((s.wokenBy k).checked { k with type := tyClose } f).settle := by
  show ∃ f, execCloseReceive k s = _
  unfold execCloseReceive
  dsimp only
  split
  · exact ⟨_, rfl⟩
  · next i d _ =>
    by_cases hopen : d.opened = true
    · rw [if_pos hopen]
      by_cases haccepts : (s.wokenBy k).accepts d { k with type := tyClose, acknow := true } = true
      · obtain ⟨hports, htcrc, hver, -⟩ := State.accepts_imp haccepts
        have hgood := State.checked_good (k := { k with type := tyClose }) hports htcrc hver rfl
        exact ⟨_, by rw [hgood, if_pos haccepts]⟩
      · rw [if_neg haccepts]
        exact ⟨_, rfl⟩
    · rw [if_neg hopen]
      exact ⟨_, rfl⟩

/-- Every transport row checks its packet, in the module as it is or as the packet wakes it. -/
theorem exec_packet_checked {row : Instr} {k : Pkt} (h : row.packetOf = some k) (s : State) :
    ∃ t f, (t = s ∨ t = s.wokenBy k) ∧ exec row s = .next (t.checked { k with type := row.packetType } f).settle := by
  cases row with
  | openReceive q addr => cases h; exact ⟨_, _, .inl rfl, rfl⟩
  | dataReceive q | rsContributionReceive q | gatherRequestReceive q | ackReceive q | keepaliveReceive q | openAckReceive q | creditReceive q
  | noticeSkip q | noticeNorm q | noticePeerLost q | noticeReady q => cases h; exact ⟨_, _, .inr rfl, rfl⟩
  | closeReceive q =>
    cases h
    obtain ⟨f, hf⟩ := exec_closeReceive_checked k s
    exact ⟨_, f, .inr rfl, hf⟩
  | _ => cases h

/-- A packet that does not get past its checks is checked in the module as it is. -/
theorem exec_packet_dropped {row : Instr} {k : Pkt} (h : row.packetOf = some k) {s t : State}
    (hbad : s.portsRun = false ∨ k.tcrcOk = false ∨ k.ver ≠ 1 ∨ s.sessOfPkt k = none)
    (hdrop : ∀ f, s.checked { k with type := row.packetType } f = t) : exec row s = .next t.settle := by
  obtain ⟨w, f, hw, hexec⟩ := exec_packet_checked h s
  have hws : w = s := hw.elim id fun hw => hw.trans (State.wokenBy_of_bad hbad)
  rw [hexec, hws, hdrop]

/-- An ACK that names no session acknowledges the CLOSE of a closed one. -/
theorem exec_ackReceive_alien {s : State} {k : Pkt} (hports : s.portsRun = true) (htcrc : k.tcrcOk = true) (hver : k.ver = 1)
    (halien : s.sessOfPkt k = none) : exec (.ackReceive k) s = .next (s.closeAcked k).settle := by
  show Host.Outcome.next ((s.wokenBy k).takeAck { k with type := tyAck }).settle = _
  rw [State.wokenBy_of_bad (.inr (.inr (.inr halien))), State.takeAck,
    State.checked_good (k := { k with type := tyAck }) hports htcrc hver rfl,
    show s.sessOfPkt { k with type := tyAck } = none from halien]
  rfl

/-- A packet that names no session, open or closing, does nothing, unless it is an OPEN (13 R290, R291). -/
theorem exec_packet_alien {row : Instr} {s : State} {k : Pkt} (h : row.packetOf = some k) (htype : row.packetType ≠ tyOpen)
    (hports : s.portsRun = true) (htcrc : k.tcrcOk = true) (hver : k.ver = 1) (hnone : s.sessOfPkt k = none)
    (hclosing : s.closing k.sess.toNat = none) : exec row s = .next s.settle := by
  have hwoken : s.wokenBy k = s := State.wokenBy_of_bad (.inr (.inr (.inr hnone)))
  have hcheck : ∀ ty, typeReserved ty = false → ∀ f, s.checked { k with type := ty } f = f :=
    fun ty hty => State.checked_good (k := { k with type := ty }) hports htcrc hver hty
  cases row with
  | openReceive q addr => exact absurd rfl htype
  | dataReceive q | rsContributionReceive q | gatherRequestReceive q | creditReceive q | noticeSkip q | noticeNorm q | noticePeerLost q
  | noticeReady q =>
    cases h
    refine next_settle_congr ?_
    rw [hwoken, State.takeReliable_alien hnone]
    exact hcheck _ rfl s
  | ackReceive q =>
    cases h
    exact (exec_ackReceive_alien hports htcrc hver hnone).trans (next_settle_congr (by rw [State.closeAcked, hclosing]))
  | keepaliveReceive q =>
    cases h
    show execKeepaliveReceive k s = _
    unfold execKeepaliveReceive
    dsimp only
    rw [hwoken, hcheck _ rfl, show s.sessOfPkt { k with type := tyKeepalive } = none from hnone]
  | openAckReceive q =>
    cases h
    show execOpenAckReceive k s = _
    unfold execOpenAckReceive
    dsimp only
    rw [hwoken, hcheck _ rfl, show s.sessOfPkt { k with type := tyOpenAck } = none from hnone]
  | closeReceive q =>
    cases h
    show execCloseReceive k s = _
    unfold execCloseReceive
    dsimp only
    rw [hwoken, show s.sessOfPkt { k with type := tyClose, acknow := true } = none from hnone]
    exact next_settle_congr (hcheck _ rfl s)
  | _ => cases h

/-! #### Packets of an open session that are not new -/

theorem State.sessOfPkt_wakeShallow (s : State) (k : Pkt) : s.wakeShallow.sessOfPkt k = s.sessOfPkt k := by
  rw [State.sessOfPkt, State.sessOfPkt, State.sess, State.sess, State.wakeShallow_eng]

theorem State.Arrives.sessOfPkt {s : State} {k : Pkt} {i : Nat} {d : Session} (h : s.Arrives k i d) : s.sessOfPkt k = some (i, d) := by
  obtain ⟨-, -, -, rfl, -, hd, -, hpart, hpeer, hhost⟩ := h
  exact State.sessOfPkt_eq_some hd hpart hpeer hhost

/-- A packet that arrives passes the checks of the module that it wakes. -/
theorem State.Arrives.checked {s : State} {k : Pkt} {i : Nat} {d : Session} (h : s.Arrives k i d) {ty : BitVec 4}
    (hty : typeReserved ty = false) (f : State) : s.wakeShallow.checked { k with type := ty } f = f := by
  obtain ⟨hports, htcrc, hver, -⟩ := h
  exact State.checked_good (k := { k with type := ty }) (State.portsRun_wakeShallow hports) htcrc hver hty f

/-- The session a packet names once it has woken the module. -/
theorem State.Arrives.sessOfPkt_woken {s : State} {k : Pkt} {i : Nat} {d : Session} (h : s.Arrives k i d) (ty : BitVec 4) :
    s.wakeShallow.sessOfPkt { k with type := ty } = some (i, d) :=
  (s.sessOfPkt_wakeShallow k).trans h.sessOfPkt

/-- How a reliable packet of an open session is taken, by its distance from the next expected PSN (13 R292). -/
theorem State.Arrives.takeReliable_cases {s : State} {k : Pkt} {i : Nat} {d : Session} (h : s.Arrives k i d) {ty : BitVec 4}
    (hty : typeReserved ty = false) (act : State → Nat → Session → Bool × State) :
    (2 ^ 31 ≤ (k.psn - d.rxNext).toNat ∨ d.rxGot.contains k.psn = true →
      (s.wokenBy k).takeReliable { k with type := ty } act = ((s.hears i d k).sendAck i).pumpAll i) ∧
    ((k.psn - d.rxNext).toNat < 2 ^ 31 → d.rxGot.contains k.psn = false → 1024 ≤ (k.psn - d.rxNext).toNat ∨ d.refuses k.psn = true →
      (s.wokenBy k).takeReliable { k with type := ty } act = (s.hears i d k).pumpAll i) := by
  obtain ⟨-, -, -, -, -, -, hopen, -⟩ := id h
  rw [h.wokenBy, State.takeReliable, h.checked hty, h.sessOfPkt_woken]
  dsimp only
  rw [if_neg (by simp [hopen])]
  refine ⟨fun hold => if_pos hold, fun hahead hgot hout => ?_⟩
  rw [if_neg (by rw [hgot, not_or]; exact ⟨by omega, Bool.false_ne_true⟩)]
  exact if_pos hout

/-- A PSN before the next expected one, or already received, is not new. -/
theorem Session.not_fresh_of_old {d : Session} {k : Pkt} (h : 2 ^ 31 ≤ (k.psn - d.rxNext).toNat ∨ d.rxGot.contains k.psn = true) :
    ¬d.Fresh k := by
  rintro ⟨hwindow, hgot, -⟩
  obtain hfar | hhad := h
  · omega
  · exact Bool.false_ne_true (hgot.symm.trans hhad)

/-- A PSN beyond the window, or one whose refusal waits, is not new. -/
theorem Session.not_fresh_of_outside {d : Session} {k : Pkt} (h : 1024 ≤ (k.psn - d.rxNext).toNat ∨ d.refuses k.psn = true) :
    ¬d.Fresh k := by
  rintro ⟨hwindow, -, hrefuses⟩
  obtain hfar | hwaits := h
  · omega
  · exact Bool.false_ne_true (hrefuses.symm.trans hwaits)

/-- An OPEN_ACK on an open session is a reliable packet that does nothing of its own (13 R291). -/
theorem State.Arrives.exec_openAckReceive {s : State} {k : Pkt} {i : Nat} {d : Session} (h : s.Arrives k i d) :
    exec (.openAckReceive k) s =
      .next ((s.wokenBy k).takeReliable { k with type := tyOpenAck } fun t _ _ => (true, t)).settle := by
  obtain ⟨-, -, -, -, -, -, hopen, -⟩ := id h
  show execOpenAckReceive k s = _
  unfold execOpenAckReceive
  dsimp only
  rw [h.wokenBy, h.checked rfl, h.sessOfPkt_woken]
  dsimp only
  rw [if_pos hopen]

/-- A CLOSE on an open session is a reliable packet that is acknowledged at once, and takes effect when it is accepted (13 R291). -/
theorem State.Arrives.exec_closeReceive {s : State} {k : Pkt} {i : Nat} {d : Session} (h : s.Arrives k i d) {t : State}
    (htake : ((s.wokenBy k).takeReliable { k with type := tyClose, acknow := true } fun t _ _ => (true, t)) = t) :
    exec (.closeReceive k) s =
      .next (State.settle (if s.wakeShallow.accepts d k then t.closeBy i d (fieldLE k.payload 0 4) else t)) := by
  obtain ⟨-, -, -, -, -, -, hopen, -⟩ := id h
  show execCloseReceive k s = _
  unfold execCloseReceive
  dsimp only
  rw [htake, h.wokenBy, show s.wakeShallow.sessOfPkt { k with type := tyClose, acknow := true } = some (i, d) from h.sessOfPkt_woken tyClose]
  dsimp only
  rw [if_pos hopen]
  rfl

/-- A reliable packet that is not new does no more than the transport does with it, whatever its row. -/
theorem State.Arrives.exec_notFresh {s : State} {k : Pkt} {i : Nat} {d : Session} (h : s.Arrives k i d) {row : Instr}
    (hrow : row.packetOf = some k) (hack : row.packetType ≠ tyAck) (hkeep : row.packetType ≠ tyKeepalive) (hopenrow : row.packetType ≠ tyOpen)
    {t : State} (hnot : ¬d.Fresh k)
    (htake : ∀ ty ack act, typeReserved ty = false → (s.wokenBy k).takeReliable { k with type := ty, acknow := ack } act = t) :
    exec row s = .next t.settle := by
  cases row with
  | openReceive q addr => exact absurd rfl hopenrow
  | ackReceive q => exact absurd rfl hack
  | keepaliveReceive q => exact absurd rfl hkeep
  | dataReceive q | rsContributionReceive q | gatherRequestReceive q | creditReceive q | noticeSkip q | noticeNorm q | noticePeerLost q
  | noticeReady q =>
    cases hrow
    exact next_settle_congr (htake _ k.acknow _ rfl)
  | openAckReceive q =>
    cases hrow
    exact h.exec_openAckReceive.trans (next_settle_congr (htake _ k.acknow _ rfl))
  | closeReceive q =>
    cases hrow
    refine (h.exec_closeReceive (htake _ _ _ rfl)).trans (next_settle_congr (if_neg fun haccepts => ?_))
    obtain ⟨-, -, -, hfresh⟩ := State.accepts_imp haccepts
    exact hnot hfresh
  | _ => cases hrow

/-! #### Acknowledgement -/

/-- The packets of a session that a cumulative acknowledgement leaves unacknowledged. -/
def Session.leftBy (d : Session) (apsn : BitVec 32) : List Unacked := d.unacked.filter fun u => !before32 u.pkt.psn apsn

/-- The packets of the present window acknowledged, with those before `apsn`. -/
def Session.winBy (d : Session) (apsn : BitVec 32) : Nat := d.ackedInWin + (d.unacked.length - (d.leftBy apsn).length)

/-- What a cumulative acknowledgement changes: the packets it releases, and the window, which grows by one when it was full. -/
theorem Session.ackTo_eq (d : Session) (apsn : BitVec 32) : d.ackTo apsn = { d with
    unacked := d.leftBy apsn
    cwnd := if d.cwnd ≤ d.winBy apsn then min 1024 (d.cwnd + 1) else d.cwnd
    ackedInWin := if d.cwnd ≤ d.winBy apsn then d.winBy apsn - d.cwnd else d.winBy apsn } := by
  unfold Session.ackTo
  extract_lets left n a
  have ha : a = d.winBy apsn := rfl
  rw [← ha]
  split <;> rfl

/-- CWND halved, to a minimum of 8. -/
def halfWindow (w : Nat) : Nat := max 8 (w / 2)

/-- Losses halve the window once for each lost packet, and start its count anew. -/
theorem Session.losses_eq (us : List Unacked) : ∀ d : Session, d.losses us = { d with
    cwnd := halfWindow^[us.length] d.cwnd, ackedInWin := if us = [] then d.ackedInWin else 0 } := by
  induction us with
  | nil => exact fun d => rfl
  | cons u us ih =>
    intro d
    have hzero : (if us = [] then d.loss.ackedInWin else 0) = 0 := ite_self 0
    rw [Session.losses, ih, hzero]
    rfl

theorem halfWindow_range {w : Nat} (h : 8 ≤ w ∧ w ≤ 1024) : 8 ≤ halfWindow w ∧ halfWindow w ≤ 1024 := by
  unfold halfWindow
  omega

theorem iterate_halfWindow_range (n : Nat) {w : Nat} (h : 8 ≤ w ∧ w ≤ 1024) :
    8 ≤ halfWindow^[n] w ∧ halfWindow^[n] w ≤ 1024 := by
  induction n with
  | zero => exact h
  | succ n ih =>
    rw [Function.iterate_succ_apply']
    exact halfWindow_range ih

/-- The mark of a packet that an ACK's bits report accepted. -/
theorem Session.sack_unacked (d : Session) (apsn : BitVec 32) (bits : Nat) : (d.sack apsn bits).unacked = d.unacked.map fun u =>
    if (decide (1 ≤ (u.pkt.psn - apsn).toNat ∧ (u.pkt.psn - apsn).toNat ≤ 64) && bits.testBit ((u.pkt.psn - apsn).toNat - 1))
    then { u with sacked := true } else u := by
  refine List.map_congr_left fun u _ => ?_
  simp [and_assoc]

/-- The books of session `d` after an ACK, whose bits are those of its payload, and the packets that it reports missing. -/
def Session.acked (d : Session) (k : Pkt) (now : BitVec 64) : Session :=
  { d.ackTo k.apsn with lastHeard := now }.sack k.apsn (fieldLE k.payload 0 8)

/-- Session `d` after an ACK: a loss for each packet it reports missing, which is sent again once. -/
def Session.afterAck (d : Session) (k : Pkt) (now : BitVec 64) : Session :=
  { (d.acked k now).losses (d.acked k now).missing with
    unacked := (d.acked k now).unacked.map fun u =>
      if ((d.acked k now).missing.any fun v => v.pkt.psn == u.pkt.psn) then { u with resent := true } else u }

theorem Session.afterAck_eq (d : Session) (k : Pkt) (now : BitVec 64) {marked miss : List Unacked}
    (hmarked : (d.acked k now).unacked = marked) (hmiss : (d.acked k now).missing = miss) : d.afterAck k now = { d with
      lastHeard := now
      unacked := marked.map fun u => if (miss.any fun v => v.pkt.psn == u.pkt.psn) then { u with resent := true } else u
      cwnd := halfWindow^[miss.length] (d.ackTo k.apsn).cwnd
      ackedInWin := if miss = [] then (d.ackTo k.apsn).ackedInWin else 0 } := by
  rw [Session.afterAck, hmiss, hmarked, Session.losses_eq, Session.acked, Session.ackTo_eq]
  rfl

/-- An ACK on an open session. -/
theorem State.Arrives.exec_ackReceive {s : State} {k : Pkt} {i : Nat} {d : Session} (h : s.Arrives k i d) :
    exec (.ackReceive k) s = .next ((((s.hears i d k).setSess i (some (d.afterAck k s.aon.time))).resend d.part
      (d.acked k s.aon.time).missing).pumpAll i).settle := by
  show Host.Outcome.next ((s.wokenBy k).takeAck { k with type := tyAck }).settle = _
  rw [h.wokenBy, State.takeAck, h.checked rfl, h.sessOfPkt_woken]
  dsimp only
  rw [show (s.wakeShallow.heardOn i d { k with type := tyAck }).sess i = _ from s.hears_sess i d k]
  rfl

/-- A closed session's CLOSE is acknowledged by an ACK that passes it, and by no other. -/
theorem State.closeAcked_one {s : State} {k : Pkt} {d : Session} {u : Unacked} (hclosing : s.closing k.sess.toNat = some d)
    (hone : d.unacked = [u]) (hpart : d.part = k.tpart) (hpeer : d.peer = k.smod) (hhost : d.hostBit = k.host) :
    s.closeAcked k = if before32 u.pkt.psn k.apsn then s.dropClosing k.sess.toNat else s := by
  have hleft : (d.ackTo k.apsn).unacked = [] ↔ before32 u.pkt.psn k.apsn = true := by
    rw [Session.ackTo_eq]
    simp [Session.leftBy, hone]
  rw [State.closeAcked, hclosing]
  simp only [hpart, hpeer, hhost, true_and, hleft]

/-- The timer of a CLOSE sends it again. -/
theorem exec_retransmitTimer_close {s : State} {sess : BitVec 13} {d : Session} {u : Unacked} (hnone : s.sess sess.toNat = none)
    (hclosing : s.closing sess.toNat = some d) (hone : d.unacked = [u]) :
    exec (.retransmitTimer sess u.pkt.psn) s = .next ((s.txPkt d.part u.pkt).countPart d.part .tpRetx 1).settle := by
  have hhit : ([u].filter fun v => v.pkt.psn == u.pkt.psn) = [u] := List.filter_cons_of_pos (beq_self_eq_true _)
  show execRetransmitTimer sess u.pkt.psn s = _
  rw [execRetransmitTimer, hnone]
  dsimp only
  rw [State.resendClose, hclosing]
  dsimp only
  rw [hone, hhit]
  rfl

/-- Settles O56: dropped packets by `exec_packet_dropped`, old ones by `State.Arrives.takeReliable_cases`, an ACK by `Session.afterAck_eq`. -/
theorem packetsAreTakenOnceAndAcknowledged : Obligations.PacketsAreTakenOnceAndAcknowledged := by
  refine ⟨fun s row k hrow => ⟨fun hports => ?_, fun hports htcrc => ?_, fun hports htcrc hver => ?_,
    fun hports htcrc hver hopen hclosing hnone => ?_, ?_⟩, ⟨?_, ?_⟩, ?_⟩
  · exact exec_packet_dropped hrow (.inl hports) fun f => State.checked_stopped hports _ f
  · exact exec_packet_dropped hrow (.inr (.inl htcrc)) fun f =>
      State.checked_badTcrc (k := { k with type := row.packetType }) hports htcrc f
  · exact exec_packet_dropped hrow (.inr (.inr (.inl hver))) fun f =>
      State.checked_badVer (k := { k with type := row.packetType }) hports htcrc hver f
  · exact exec_packet_alien hrow hopen hports htcrc hver (State.sessOfPkt_eq_none hnone) hclosing
  · intro i d h hack hkeep hopen hears ahead
    have hcases := fun ty ack act hty => State.Arrives.takeReliable_cases (k := { k with acknow := ack }) (ty := ty) h hty act
    refine ⟨fun hold => ?_, fun hahead hgot hout => ?_⟩
    · exact h.exec_notFresh hrow hack hkeep hopen (Session.not_fresh_of_old hold) fun ty ack act hty => (hcases ty ack act hty).1 hold
    · exact h.exec_notFresh hrow hack hkeep hopen (Session.not_fresh_of_outside hout) fun ty ack act hty =>
        (hcases ty ack act hty).2 hahead hgot hout
  · intro s k i d h left n bit marked miss grown
    have hmarked : (d.acked k s.aon.time).unacked = marked := by
      rw [Session.acked, Session.sack_unacked, Session.ackTo_eq]
      rfl
    have hmiss : (d.acked k s.aon.time).missing = miss := by
      rw [Session.missing, hmarked]
    have hcwnd : (d.ackTo k.apsn).cwnd = grown := by
      rw [Session.ackTo_eq]
      rfl
    have hwin : (d.ackTo k.apsn).ackedInWin = if d.cwnd ≤ n then n - d.cwnd else n := by
      rw [Session.ackTo_eq]
      rfl
    have hafter := d.afterAck_eq k s.aon.time hmarked hmiss
    rw [hcwnd, hwin] at hafter
    refine ⟨d.afterAck k s.aon.time, ?_, ?_, ?_, ?_, hmiss ▸ h.exec_ackReceive⟩
    · rw [hafter]
      rfl
    · rw [hafter]
      exact fun hnone => if_pos hnone
    · rw [hafter]
      exact fun hsome => if_neg hsome
    · rw [hafter]
      intro hlow hhigh
      refine iterate_halfWindow_range miss.length ?_
      unfold grown
      split <;> omega
  · intro s sess d hd
    refine ⟨fun hopen hsince => ?_, fun psn u hu => ?_⟩
    · show execAckTimer sess s = _
      rw [execAckTimer, hd]
      exact if_pos (by simp [hopen, hsince])
    · show execRetransmitTimer sess psn s = _
      rw [execRetransmitTimer, hd]
      dsimp only
      rw [hu]
      rfl
  · intro s d u
    refine ⟨fun sess psn hnone hclosing hone => ⟨fun hpsn => ?_, ?_⟩, fun k hports htcrc hver hnone hclosing hone hpart hpeer hhost => ?_⟩
    · exact hpsn ▸ exec_retransmitTimer_close hnone hclosing hone
    · show execKeepaliveSilence sess s = _
      rw [execKeepaliveSilence, hnone]
    · rw [exec_ackReceive_alien hports htcrc hver (by rw [State.sessOfPkt, hnone]),
        State.closeAcked_one hclosing hone hpart hpeer hhost]

end Sys2Proof.Machine

/-! ### Sessions open, close and stay alive (13 R291 to R294, R315, R317) -/

namespace Sys2Proof.Machine

/-! #### An OPEN that is refused -/

/-- A session just made, not yet open (13 R291). -/
def State.madeSess (s : State) (p : PartId) (m : BitVec 14) (h : Option (Fin 64)) (relay : Bool) : Session :=
  ⟨p, m, h, 0xFFFF, false, BitVec.ofNat 32 s.freeVal, 0, [], 64, 0, [], [], 0, s.aon.time, s.aon.time, 0, [], [], [], [], relay, []⟩

theorem State.newSess_made {s : State} {u : Nat} (hfree : s.freeSess = some u) (p : PartId) (m : BitVec 14) (h : Option (Fin 64))
    (relay : Bool) : s.newSess p m h relay =
      (some (u, s.madeSess p m h relay), (s.setSess u (some (s.madeSess p m h relay))).freeNext) := by
  rw [State.newSess, hfree]
  rfl

theorem Smap.erase_put {α : Type} (m : Smap α) (a : Nat) (v : α) : (m.put a v).erase a = m.erase a := by
  induction m with
  | nil => simp [Smap.put, Smap.erase]
  | cons e t ih =>
    unfold Smap.put
    split
    · simp [Smap.erase]
    · split <;> simp_all [Smap.erase]

/-- A session that is made and taken away leaves nothing. -/
theorem State.setSess_none_setSess (s : State) (u : Nat) (d : Session) : (s.setSess u (some d)).setSess u none = s.setSess u none := by
  have h : ((s.eng.sessions.set none u (some d)).set none u none : Smap (Option Session)) = s.eng.sessions.set none u none := by
    rw [Smap.set, if_pos rfl, Smap.set, if_neg (by simp), Smap.erase_put, Smap.set, if_pos rfl]
  unfold State.setSess State.modEng
  dsimp only
  rw [h]

/-- The entry of a refused session in the event log. -/
def State.logRefused (s : State) (k : Pkt) (reason : Nat) : State :=
  s.logEvent evSessionRefused 49 k.tpart.val (bytesLE 2 k.smod.toNat ++ bytesLE 1 k.tpart.val ++ bytesLE 4 reason)

theorem State.refuseOpen_repeated {s : State} {k : Pkt} (h : (s.refusing k).isSome = true) (reason : Nat) (log : Bool) :
    s.refuseOpen k reason log = s := if_pos h

/-- The state in which a refused OPEN is answered. -/
def State.refusedFrom (s : State) (k : Pkt) (reason : Nat) (log : Bool) : State := if log then s.logRefused k reason else s

theorem State.refusedFrom_free (s : State) (k : Pkt) (reason : Nat) (log : Bool) :
    (s.refusedFrom k reason log).freeSess = s.freeSess ∧
      (s.refusedFrom k reason log).madeSess k.tpart k.smod none false = s.madeSess k.tpart k.smod none false := by
  cases log <;> exact ⟨rfl, rfl⟩

/-- A refused OPEN is answered CLOSE on a session index of its own (13 R291). -/
theorem State.refuseOpen_new {s : State} {k : Pkt} {u : Nat} (h : s.refusing k = none) (hfree : s.freeSess = some u) (reason : Nat)
    (log : Bool) : s.refuseOpen k reason log =
      (((s.refusedFrom k reason log).setSess u none).freeNext).sendClose u { s.madeSess k.tpart k.smod none false with
        host := if k.host then some 0 else none, peerSess := k.index, rxNext := k.psn + 1 } reason := by
  obtain ⟨hfree1, hmade⟩ := s.refusedFrom_free k reason log
  unfold State.refuseOpen
  rw [if_neg (by simp [h])]
  dsimp only
  rw [show (if log = true then s.logEvent _ _ _ _ else s) = s.refusedFrom k reason log from rfl, State.newSess_made (hfree1.trans hfree), hmade]
  exact congrArg (fun t : State => t.freeNext.sendClose u _ reason) (State.setSess_none_setSess ..)

end Sys2Proof.Machine

namespace Sys2Proof

/-! #### What an OPEN asks for -/

/-- An OPEN of a relay session (log 33). -/
def Pkt.forRelay (k : Pkt) : Bool := k.host && k.coll == Machine.collRelay

/-- The partition of the session that an OPEN makes: a relay session has none. -/
def Pkt.openPart (k : Pkt) : PartId := if k.forRelay then 0 else k.tpart

end Sys2Proof

namespace Sys2Proof.Machine

/-- The host that an OPEN comes from. -/
def State.openHost (s : State) (k : Pkt) (addr : BitVec 128) : Option (Fin 64) := if k.host && !k.forRelay then s.hostAt addr else none

/-- An OPEN for no partition, host or link of this module, or of another JOBID (13 R291, R315). -/
def State.OpenBad (s : State) (k : Pkt) (addr : BitVec 128) : Prop :=
  if k.forRelay then s.directTo k.smod = none
  else (s.jobid k.tpart).toNat ≠ k.jobid ∨ (if k.host then s.openHost k addr = none else s.partExists k.tpart = false)

/-- The session that this module has with the sender of an OPEN. -/
def State.openLead (s : State) (k : Pkt) (addr : BitVec 128) : Option Nat :=
  if k.forRelay then s.findRelay k.smod else match s.openHost k addr with
    | some h => s.hostSess h
    | none => s.findSess k.tpart k.smod

section opens
variable {s : State} {k : Pkt} {addr : BitVec 128}

theorem State.takeOpen_conflict (hports : s.portsRun = true) (htcrc : k.tcrcOk = true) (hver : k.ver = 1) (hmid : s.reg.midConflict = true) :
    s.takeOpen { k with type := tyOpen } addr = s.refuseOpen { k with type := tyOpen } 1 false := by
  rw [State.takeOpen, State.checked_good (k := { k with type := tyOpen }) hports htcrc hver rfl, if_pos hmid]

/-- What an OPEN on session `i` does, for the sender it comes from. -/
def State.openOn (s : State) (k : Pkt) (i : Nat) (d : Session) : State :=
  if (k.host && !k.forRelay) || d.opened then (if d.peerSess = k.index then s.sendAck i else s) else s.ackOpen i d k

/-- An OPEN of a host, or on an open session, is acknowledged again where it names that session's index. -/
theorem State.openOn_known {i : Nat} {d : Session} (h : (k.host = true ∧ k.forRelay = false) ∨ d.opened = true) :
    s.openOn k i d = if d.peerSess = k.index then s.sendAck i else s := by
  refine if_pos ?_
  obtain ⟨hfrom, hrelay⟩ | hopen := h
  · rw [hfrom, hrelay]
    rfl
  · rw [hopen, Bool.or_true]

/-- An OPEN of a module completes a session that is not yet open. -/
theorem State.openOn_completes {i : Nat} {d : Session} (h : k.host = false ∨ k.forRelay = true) (hopen : d.opened = false) :
    s.openOn k i d = s.ackOpen i d k := by
  refine if_neg (ne_true_of_eq_false ?_)
  obtain hfrom | hrelay := h
  · rw [hfrom, hopen]
    rfl
  · rw [hrelay, hopen, Bool.not_true, Bool.and_false, Bool.or_false]

/-- A module's OPEN on a session. -/
theorem State.openPeer_some {i : Nat} {d : Session} (hd : s.sess i = some d) (relay : Bool) :
    s.openPeer k (some i) relay = if d.opened then (if d.peerSess = k.index then s.sendAck i else s) else s.ackOpen i d k := by
  rw [State.openPeer, hd]
  dsimp only
  cases d.opened <;> rfl

/-- The three ways an OPEN goes, with no conflict of module numbers: refused, on no session, and on a session. -/
structure State.OpenGoes (s : State) (k : Pkt) (addr : BitVec 128) (t : State) : Prop where
  refused : s.OpenBad k addr → t = s.refuseOpen { k with type := tyOpen } 2 true
  new : ¬s.OpenBad k addr → s.openLead k addr = none →
    t = s.openNew { k with type := tyOpen, tpart := k.openPart } (s.openHost k addr) k.forRelay
  on : ∀ i d, ¬s.OpenBad k addr → s.openLead k addr = some i → s.sess i = some d → t = s.openOn k i d

/-- An OPEN of a relay session (log 33). -/
theorem State.openGoes_relay (hrelay : k.forRelay = true) : s.OpenGoes k addr
    (if (s.directTo k.smod).isSome then s.openPeer { k with type := tyOpen, tpart := 0 } (s.findRelay k.smod) true
      else s.refuseOpen { k with type := tyOpen } 2 true) := by
  have hgood : (s.directTo k.smod).isSome = true ↔ ¬s.OpenBad k addr := by
    rw [State.OpenBad, if_pos hrelay, Option.isSome_iff_ne_none]
  have hlead : s.openLead k addr = s.findRelay k.smod := if_pos hrelay
  have hhost : s.openHost k addr = none := by simp [State.openHost, hrelay]
  have hpart : k.openPart = 0 := if_pos hrelay
  rw [← hlead]
  refine ⟨fun h => if_neg (not_iff_not.mpr hgood |>.mpr (not_not.mpr h)), fun h hnone => ?_, fun i d h hi hd => ?_⟩
  · rw [if_pos (hgood.mpr h), hnone, hhost, hpart, hrelay]
    rfl
  · rw [if_pos (hgood.mpr h), hi, State.openPeer_some hd, State.openOn, hrelay, Bool.not_true, Bool.and_false, Bool.false_or]
    rfl

/-- An OPEN of a module for a partition. -/
theorem State.openGoes_module (hmodule : k.host = false) : s.OpenGoes k addr
    (if !s.partExists k.tpart || (s.jobid k.tpart).toNat != k.jobid then s.refuseOpen { k with type := tyOpen } 2 true
      else s.openPeer { k with type := tyOpen } (s.findSess k.tpart k.smod) false) := by
  have hrelay : k.forRelay = false := by rw [Pkt.forRelay, hmodule, Bool.false_and]
  have hhost : s.openHost k addr = none := by simp [State.openHost, hmodule]
  have hbad : (!s.partExists k.tpart || (s.jobid k.tpart).toNat != k.jobid) = true ↔ s.OpenBad k addr := by
    simp [State.OpenBad, hrelay, hmodule, or_comm]
  have hlead : s.openLead k addr = s.findSess k.tpart k.smod := by simp [State.openLead, hrelay, hhost]
  have hpart : k.openPart = k.tpart := by simp [Pkt.openPart, hrelay]
  rw [← hlead]
  refine ⟨fun h => if_pos (hbad.mpr h), fun h hnone => ?_, fun i d h hi hd => ?_⟩
  · rw [if_neg (not_iff_not.mpr hbad |>.mpr h), hnone, hhost, hpart, hrelay]
    rfl
  · rw [if_neg (not_iff_not.mpr hbad |>.mpr h), hi, State.openPeer_some hd, State.openOn, hmodule, Bool.false_and, Bool.false_or]
    rfl

/-- An OPEN of a host that the table knows, for a partition of its JOBID; it has a session or none. -/
theorem State.openGoes_host {h : Fin 64} {t : State} (hfrom : k.host = true) (hrelay : k.forRelay = false) (hat : s.hostAt addr = some h)
    (hjob : (s.jobid k.tpart).toNat = k.jobid) (hnew : s.hostSess h = none → t = s.openNew { k with type := tyOpen } (some h) false)
    (hon : ∀ i d, s.hostSess h = some i → s.sess i = some d → t = if d.peerSess = k.index then s.sendAck i else s) :
    s.OpenGoes k addr t := by
  have hhost : s.openHost k addr = some h := by simp [State.openHost, hfrom, hrelay, hat]
  have hpart : k.openPart = k.tpart := by simp [Pkt.openPart, hrelay]
  have hgood : ¬s.OpenBad k addr := by simp [State.OpenBad, hrelay, hfrom, hhost, hjob]
  have hlead : s.openLead k addr = s.hostSess h := by simp [State.openLead, hrelay, hhost]
  refine ⟨fun hbad => absurd hbad hgood, fun _ hnone => ?_, fun i d _ hi hd => ?_⟩
  · rw [hnew (hlead ▸ hnone), hhost, hpart, hrelay]
  · rw [hon i d (hlead ▸ hi) hd, State.openOn, hfrom, hrelay]
    rfl

/-- A bad OPEN is refused. -/
theorem State.openGoes_bad (h : s.OpenBad k addr) : s.OpenGoes k addr (s.refuseOpen { k with type := tyOpen } 2 true) :=
  ⟨fun _ => rfl, fun hgood => absurd h hgood, fun _ _ hgood => absurd h hgood⟩

/-- How an OPEN is taken where no other module has this module's number (13 R291, R315, R398). -/
theorem State.takeOpen_goes (hports : s.portsRun = true) (htcrc : k.tcrcOk = true) (hver : k.ver = 1) (hmid : s.reg.midConflict = false) :
    s.OpenGoes k addr (s.takeOpen { k with type := tyOpen } addr) := by
  rw [State.takeOpen, State.checked_good (k := { k with type := tyOpen }) hports htcrc hver rfl, hmid, if_neg Bool.false_ne_true]
  have hrelay : k.forRelay = true ↔ k.host = true ∧ k.coll = collRelay := by simp [Pkt.forRelay]
  by_cases hr : k.forRelay = true
  · rw [if_pos (hrelay.mp hr)]
    exact State.openGoes_relay hr
  rw [if_neg (not_iff_not.mpr hrelay |>.mp hr)]
  rw [Bool.not_eq_true] at hr
  by_cases hfrom : k.host = true
  · rw [if_pos hfrom]
    cases hat : s.hostAt addr with
    | none => exact State.openGoes_bad (by simp [State.OpenBad, State.openHost, hr, hfrom, hat])
    | some h =>
      dsimp only
      split
      · next hjob =>
        have hjob : (s.jobid k.tpart).toNat ≠ k.jobid := hjob
        exact State.openGoes_bad (by simp [State.OpenBad, hr, hjob])
      · next hjob =>
        refine State.openGoes_host hfrom hr hat (not_not.mp hjob) (fun hnone => ?_) fun i d hi hd => ?_
        · rw [hnone]
        · rw [hi]
          dsimp only
          rw [hd]
          rfl
  · rw [if_neg hfrom]
    exact State.openGoes_module (Bool.not_eq_true _ ▸ hfrom)

/-- An OPEN that is refused, for a conflict of module numbers or as a bad one. -/
theorem State.takeOpen_refused (hports : s.portsRun = true) (htcrc : k.tcrcOk = true) (hver : k.ver = 1)
    (h : s.reg.midConflict = true ∨ s.OpenBad k addr) : s.takeOpen { k with type := tyOpen } addr =
      if s.reg.midConflict then s.refuseOpen { k with type := tyOpen } 1 false else s.refuseOpen { k with type := tyOpen } 2 true := by
  split
  · next hmid => exact State.takeOpen_conflict hports htcrc hver hmid
  · next hmid =>
    exact (State.takeOpen_goes hports htcrc hver (Bool.not_eq_true _ ▸ hmid)).refused (h.resolve_left hmid)

/-- An OPEN of a session that this module has not, for which an index is free. -/
theorem State.openNew_made {u : Nat} (hfree : s.freeSess = some u) (h : Option (Fin 64)) (relay : Bool) :
    s.openNew k h relay = ((s.setSess u (some (s.madeSess k.tpart k.smod h relay))).freeNext).ackOpen u
      (s.madeSess k.tpart k.smod h relay) k := by
  rw [State.openNew, State.newSess_made hfree]

end opens

/-! #### A CLOSE and its session -/

/-- Session `i` is still the one of partition and peer of `d`. -/
def State.Holds (s : State) (i : Nat) (d : Session) : Prop := ∃ e, s.sess i = some e ∧ e.part = d.part ∧ e.peer = d.peer

theorem State.holds_setSess (s : State) (i : Nat) {d e : Session} (hpart : e.part = d.part) (hpeer : e.peer = d.peer) :
    (s.setSess i (some e)).Holds i d := ⟨e, State.sess_setSess_same .., hpart, hpeer⟩

theorem State.holds_txPkt {s : State} {i : Nat} {d : Session} (h : s.Holds i d) (p : PartId) (k : Pkt) : (s.txPkt p k).Holds i d := by
  obtain ⟨e, he, hed⟩ := h
  exact ⟨e, by rw [State.sess, State.txPkt_eng]; exact he, hed⟩

theorem State.holds_emit (s : State) (i : Nat) {d e : Session} (hpart : e.part = d.part) (hpeer : e.peer = d.peer) (k : Pkt) :
    (s.emit i e k).Holds i d := by
  unfold State.emit
  split
  · refine State.holds_txPkt (State.holds_setSess s i ?_ ?_) ..
    exacts [hpart, hpeer]
  · refine State.holds_txPkt (State.holds_setSess s i ?_ ?_) ..
    exacts [hpart, hpeer]

theorem State.holds_pump {i : Nat} {d : Session} (n : Nat) : ∀ s : State, s.Holds i d → (s.pump i n).Holds i d := by
  induction n with
  | zero => exact fun s h => h
  | succ n ih =>
    intro s h
    obtain ⟨e, he, hpart, hpeer⟩ := id h
    rw [State.pump, he]
    dsimp only
    split
    · exact h
    · split
      · refine ih _ (State.holds_emit s i ?_ ?_ _)
        exacts [hpart, hpeer]
      · exact h

theorem State.holds_pumpAll {s : State} {i : Nat} {d : Session} (h : s.Holds i d) : (s.pumpAll i).Holds i d := by
  unfold State.pumpAll
  split
  · exact State.holds_pump _ s h
  · exact h

/-- A packet that is heard leaves its session the same peer's. -/
theorem State.holds_hears (s : State) (i : Nat) (d : Session) (k : Pkt) : (s.hears i d k).Holds i d :=
  ⟨_, s.hears_sess i d k, by rw [Session.ackTo_eq], by rw [Session.ackTo_eq]⟩

/-- A booked packet leaves its session the same peer's. -/
theorem State.holds_book {s : State} {i : Nat} {d : Session} (h : s.Holds i d) (k : Pkt) : (s.book i k).Holds i d := by
  obtain ⟨e, he, hpart, hpeer⟩ := h
  unfold State.book
  split
  · next hnone => exact absurd (he.symm.trans hnone) (Option.some_ne_none e)
  next f hf =>
  obtain rfl : f = e := Option.some.inj (hf.symm.trans he)
  extract_lets got r s1
  have hbooked : s1.Holds i d := by
    refine State.holds_setSess s i ?_ ?_
    exacts [hpart, hpeer]
  split
  · obtain ⟨g, hg, hgpart, hgpeer⟩ := hbooked
    rw [State.sendAck, hg]
    refine State.holds_emit s1 i ?_ ?_ _
    exacts [hgpart, hgpeer]
  · exact hbooked

section close
variable {s : State} {k : Pkt} {i : Nat} {d : Session}

/-- An accepted CLOSE on an open session is booked, acknowledged at once, and takes effect. -/
theorem State.Arrives.exec_closeReceive_fresh (h : s.Arrives k i d) (hfresh : d.Fresh k) : exec (.closeReceive k) s =
    .next (((((s.hears i d k).book i { k with type := tyClose, acknow := true }).pumpAll i).closeBy i d
      (fieldLE k.payload 0 4)).settle) := by
  obtain ⟨hports, htcrc, hver, -⟩ := id h
  have hnot : ((s.hears i d k).sess i).any (fun e => e.refuses k.psn) = false :=
    (NoNewRefusal.refl _).not_refuses (s.hears_sess i d k) (by
      obtain ⟨-, -, hrefuses⟩ := hfresh
      rw [← hrefuses, Session.refuses, Session.refuses, Session.ackTo_refusing])
  have htake := (State.Arrives.takeReliable (k := { k with acknow := true }) h hfresh (ty := tyClose) rfl
    (act := fun t _ _ => (true, t)) rfl).trans (congrArg (fun t => State.pumpAll t i) (if_neg (ne_true_of_eq_false hnot)))
  rw [h.exec_closeReceive htake, if_pos (hfresh.accepts (State.portsRun_wakeShallow hports) htcrc hver)]
  rfl

theorem State.wokenBy_unopened (hsess : s.sessOfPkt k = some (i, d)) (hopen : d.opened = false) : s.wokenBy k = s := by
  rw [State.wokenBy, hsess]
  exact if_neg (by simp [hopen])

/-- A CLOSE on a session that is not yet open takes effect. -/
theorem exec_closeReceive_unopened (hports : s.portsRun = true) (htcrc : k.tcrcOk = true) (hver : k.ver = 1)
    (hsess : s.sessOfPkt k = some (i, d)) (hopen : d.opened = false) :
    exec (.closeReceive k) s = .next (s.closeBy i d (fieldLE k.payload 0 4)).settle := by
  show execCloseReceive k s = _
  unfold execCloseReceive
  dsimp only
  rw [State.wokenBy_unopened hsess hopen, show s.sessOfPkt { k with type := tyClose, acknow := true } = some (i, d) from hsess]
  dsimp only
  rw [if_neg (by simp [hopen]), State.checked_good (k := { k with type := tyClose, acknow := true }) hports htcrc hver rfl]

/-- An OPEN_ACK completes a session that is not yet open. -/
theorem exec_openAckReceive_unopened (hports : s.portsRun = true) (htcrc : k.tcrcOk = true) (hver : k.ver = 1)
    (hsess : s.sessOfPkt k = some (i, d)) (hopen : d.opened = false) :
    exec (.openAckReceive k) s = .next ((s.setSess i (some ((d.ackTo k.apsn).join k s.aon.time))).pumpAll i).settle := by
  show execOpenAckReceive k s = _
  unfold execOpenAckReceive
  dsimp only
  rw [State.wokenBy_unopened hsess hopen, State.checked_good (k := { k with type := tyOpenAck }) hports htcrc hver rfl,
    show s.sessOfPkt { k with type := tyOpenAck } = some (i, d) from hsess]
  dsimp only
  rw [if_neg (by simp [hopen])]
  rfl

theorem Session.ackTo_sinceAck (d : Session) (apsn : BitVec 32) : (d.ackTo apsn).sinceAck = d.sinceAck := by rw [Session.ackTo_eq]

/-- The state in which a session has heard a packet, which wakes the module where the session is open. -/
def State.heardFrom (s : State) (i : Nat) (d : Session) (k : Pkt) : State :=
  State.heardOn (if d.opened then s.wakeShallow else s) i d k

/-- The state in which a CLOSE takes effect: on an open session it is booked and acknowledged first. -/
def State.tookClose (s : State) (i : Nat) (d : Session) (k : Pkt) : State :=
  if d.opened then ((s.heardFrom i d k).book i { k with type := tyClose, acknow := true }).pumpAll i else s

theorem State.heardFrom_opened (hopen : d.opened = true) : s.heardFrom i d k = s.hears i d k := by
  rw [State.heardFrom, if_pos hopen]
  rfl

theorem State.tookClose_opened (hopen : d.opened = true) :
    s.tookClose i d k = ((s.hears i d k).book i { k with type := tyClose, acknow := true }).pumpAll i := by
  rw [State.tookClose, if_pos hopen, State.heardFrom_opened hopen]

theorem State.holds_tookClose (hopen : d.opened = true) : (s.tookClose i d k).Holds i d := by
  rw [State.tookClose_opened hopen]
  exact State.holds_pumpAll (State.holds_book (State.holds_hears s i d k) _)

section named
variable (hports : s.portsRun = true) (htcrc : k.tcrcOk = true) (hver : k.ver = 1) (hsess : s.sessOfPkt k = some (i, d))
  (harrives : d.opened = true → s.Arrives k i d)
include hports htcrc hver hsess harrives

/-- A CLOSE takes effect on a session that is not open, and on an open one that accepts it. -/
theorem exec_closeReceive_takes (hfresh : d.opened = true → d.Fresh k) :
    exec (.closeReceive k) s = .next ((s.tookClose i d k).closeBy i d (fieldLE k.payload 0 4)).settle := by
  cases hopen : d.opened with
  | true =>
    rw [State.tookClose_opened hopen]
    exact (harrives hopen).exec_closeReceive_fresh (hfresh hopen)
  | false =>
    rw [State.tookClose, if_neg (ne_true_of_eq_false hopen)]
    exact exec_closeReceive_unopened hports htcrc hver hsess hopen

/-- A KEEPALIVE brings its acknowledgement. -/
theorem exec_keepaliveReceive_heard : exec (.keepaliveReceive k) s = .next ((s.heardFrom i d k).pumpAll i).settle := by
  show execKeepaliveReceive k s = _
  unfold execKeepaliveReceive
  dsimp only
  cases hopen : d.opened with
  | true =>
    have harr := harrives hopen
    rw [State.heardFrom_opened hopen, harr.wokenBy, harr.checked rfl, harr.sessOfPkt_woken]
    rfl
  | false =>
    rw [State.wokenBy_unopened hsess hopen, State.checked_good (k := { k with type := tyKeepalive }) hports htcrc hver rfl,
      show s.sessOfPkt { k with type := tyKeepalive } = some (i, d) from hsess, State.heardFrom, if_neg (ne_true_of_eq_false hopen)]
    rfl

end named

/-! What a CLOSE does to the session it names, by its reason. -/

theorem State.closeBy_undefined {reason : Nat} (h : reason = 0 ∨ 4 < reason) : s.closeBy i d reason = s := if_pos h

theorem State.closeBy_host {reason : Nat} (hlow : 1 ≤ reason) (hhigh : reason ≤ 4) (hhost : d.hostBit = true) :
    s.closeBy i d reason = s.closeSess i none := by
  rw [State.closeBy, if_neg (by omega), if_pos hhost]

theorem State.closeBy_gone {reason : Nat} (hgone : reason = 1 ∨ reason = 4) (hhost : d.hostBit = false) :
    s.closeBy i d reason = if d.opened then s.peerPartLost i
      else (s.sessionRefused i d).applyLoss d.peer (fun g => g.part == d.part && g.members.contains d.peer) [i] (some d.part) := by
  rw [State.closeBy, if_neg (by omega), if_neg (by simp [hhost]), if_pos hgone]

theorem State.closeBy_refused {reason : Nat} (hlow : 1 ≤ reason) (hhigh : reason ≤ 4) (hgone : ¬(reason = 1 ∨ reason = 4))
    (hhost : d.hostBit = false) : s.closeBy i d reason = s.sessionRefused i d := by
  rw [State.closeBy, if_neg (by omega), if_neg (by simp [hhost]), if_neg hgone]

/-- The loss of the partition of a session's peer. -/
theorem State.peerPartLost_of_holds (h : s.Holds i d) : s.peerPartLost i =
    s.applyLoss d.peer (fun g => g.part == d.part && g.members.contains d.peer) [i] (some d.part) := by
  obtain ⟨e, he, hpart, hpeer⟩ := h
  rw [State.peerPartLost, he]
  dsimp only
  rw [hpart, hpeer]

end close

/-- Settles O58: an OPEN by `State.takeOpen_goes`, a CLOSE by `State.closeBy` on the state that has booked it. -/
theorem sessionsOpenCloseAndStayAlive : Obligations.SessionsOpenCloseAndStayAlive := by
  refine ⟨fun s k addr htcrc hver => ?_, fun s sess d hd => ⟨fun hopen => ?_, ?_⟩⟩
  · intro relay host wrongJob bad old plain fresh open_ shut logged
    refine ⟨fun hports => ?_, fun hports hrefused => ⟨fun hrepeat => ?_, fun u hnone hfree => ?_⟩,
      fun hports hmid hgood => ⟨fun u hold hfree => ?_, ?_⟩, ?_⟩
    · exact next_settle_congr (State.checked_stopped hports _ _)
    · refine next_settle_congr ((State.takeOpen_refused hports htcrc hver hrefused).trans ?_)
      split <;> exact State.refuseOpen_repeated hrepeat ..
    · have hnew := fun reason log => State.refuseOpen_new (k := { k with type := tyOpen }) hnone hfree reason log
      show Host.Outcome.next (s.takeOpen { k with type := tyOpen } addr).settle = _
      rw [State.takeOpen_refused hports htcrc hver hrefused, hnew, hnew]
      split <;> rfl
    · have hnew := (State.takeOpen_goes hports htcrc hver hmid).new hgood hold
      rw [State.openNew_made hfree] at hnew
      exact next_settle_congr hnew
    · intro i d hi hd
      have hon := (State.takeOpen_goes hports htcrc hver hmid).on i d hgood hi hd
      refine ⟨fun hknown => ?_, fun hmodule hopen => ?_⟩
      · exact next_settle_congr (hon.trans (State.openOn_known hknown))
      · exact next_settle_congr (hon.trans (State.openOn_completes hmodule hopen))
    · intro i d hports hd hk hi hpart hpeer hhost h
      subst hk
      have hsess := State.sessOfPkt_eq_some hd hpart hpeer hhost
      have harrives : d.opened = true → s.Arrives k k.sess.toNat d := fun hopen =>
        ⟨hports, htcrc, hver, rfl, hi, hd, hopen, hpart, hpeer, hhost⟩
      refine ⟨fun hopen => ?_, fun hopen hfresh => ?_, ?_, ?_⟩
      · rw [exec_openAckReceive_unopened hports htcrc hver hsess hopen, Session.join, Session.ackTo_sinceAck]
      · have harr := harrives hopen
        rw [harr.exec_openAckReceive, harr.booked hfresh rfl rfl (NoNewRefusal.refl _)]
        exact congrArg (fun w : State => Host.Outcome.next ((w.heardOn k.sess.toNat d k).booked k.sess.toNat { k with type := tyOpenAck }))
          (if_pos hopen).symm
      · intro reason gone t lose refused hfresh
        have hexec : exec (.closeReceive k) s = .next (t.closeBy k.sess.toNat d reason).settle :=
          exec_closeReceive_takes hports htcrc hver hsess harrives hfresh
        have hrefused : d.hostBit = false → t.sessionRefused k.sess.toNat d = refused := fun hhost =>
          if_neg (ne_true_of_eq_false (Bool.or_eq_false_iff.mp hhost).2)
        have hholds : d.opened = true → t.Holds k.sess.toNat d := State.holds_tookClose
        rw [hexec]
        refine ⟨fun hundef => ?_, fun hlow hhigh => ⟨fun hhost => ?_, fun hhost hopen hgone => ?_, fun hhost hopen hgone => ?_,
          fun hhost hgone => ?_⟩⟩
        · rw [State.closeBy_undefined hundef]
        · rw [State.closeBy_host hlow hhigh hhost]
        · rw [State.closeBy_gone hgone hhost, if_pos hopen, State.peerPartLost_of_holds (hholds hopen)]
        · rw [State.closeBy_gone hgone hhost, if_neg (ne_true_of_eq_false hopen), hrefused hhost]
        · rw [State.closeBy_refused hlow hhigh hgone hhost, hrefused hhost]
      · exact exec_keepaliveReceive_heard hports htcrc hver hsess harrives
  · show execKeepaliveTimer sess s = _
    rw [execKeepaliveTimer, hd]
    dsimp only
    rw [if_pos hopen]
    rfl
  · show execKeepaliveSilence sess s = _
    rw [execKeepaliveSilence, hd]

end Sys2Proof.Machine

/-! ### All-to-all messages (13 R305 to R307) -/

namespace Sys2Proof.Machine

/-! #### Bytes stored in a queue of HBM -/

/-- Bytes stored one after another are stored by one write. -/
theorem Hbm.writeVa_append (q : Partition) (skip : List Nat) (bs cs : List Byte) : ∀ (h : Hbm) (va : Nat),
    h.writeVa q skip va (bs ++ cs) = (h.writeVa q skip va bs).writeVa q skip (va + bs.length) cs := by
  induction bs with
  | nil => exact fun h va => rfl
  | cons b bs ih =>
    intro h va
    rw [List.cons_append, Hbm.writeVa, Hbm.writeVa, ih, List.length_cons, Nat.add_right_comm]
    rfl

/-- The state with bytes stored in a queue's area of HBM. -/
def State.stored (s : State) (q : Queue) (off : Nat) (bs : List Byte) : State :=
  { s with hbm := s.hbm.writeVa (s.part q.part) [] (q.base.toNat + off) bs }

theorem State.stored_stored (s : State) (q : Queue) (off : Nat) (bs cs : List Byte) :
    (s.stored q off bs).stored q (off + bs.length) cs = s.stored q off (bs ++ cs) := by
  have happend := Hbm.writeVa_append (s.part q.part) [] bs cs s.hbm (q.base.toNat + off)
  rw [Nat.add_assoc] at happend
  exact congrArg (fun h => { s with hbm := h }) happend.symm

theorem State.stored_ecc {s : State} (h : s.hbm.ecc = []) (q : Queue) (off : Nat) (bs : List Byte) : (s.stored q off bs).hbm.ecc = [] :=
  (Hbm.writeVa_ecc ..).trans h

/-- Without errors a write to a queue in HBM lands whole. -/
theorem State.fillQueue_clean {s : State} (hecc : s.hbm.ecc = []) {q : Queue} (hmem : q.memCs = false) (off : Nat) (bs : List Byte) :
    s.fillQueue q off bs = (true, s.stored q off bs) := by
  rw [State.fillQueue, State.writeQueue, hmem, if_neg Bool.false_ne_true, State.writeHbm_clean hecc]
  rfl

/-- Zeros stored after bytes, where they are wanted. -/
theorem State.zeroed_stored {s : State} (hecc : s.hbm.ecc = []) {q : Queue} (hmem : q.memCs = false) (off : Nat) (bs : List Byte) (n : Nat)
    (b : Bool) : (if b then (s.stored q off bs).fillQueue q (off + bs.length) (List.replicate n 0) else (true, s.stored q off bs)) =
      (true, s.stored q off (bs ++ if b then List.replicate n 0 else [])) := by
  cases b with
  | true => exact (State.fillQueue_clean (State.stored_ecc hecc q off bs) hmem ..).trans (congrArg _ (s.stored_stored ..))
  | false => exact congrArg (fun cs => (true, s.stored q off cs)) (List.append_nil bs).symm

/-! #### A dispatch message (13 R306) -/

/-- The rows that records bring. -/
def rowsOf (rs : List A2aRec) : Nat := (rs.map fun r => r.count.toNat).sum

/-- The table entries of records from module `src`, the first at row `n`. -/
def tableOf (src : BitVec 14) (rs : List A2aRec) (n : Nat) : List RetRec :=
  rs.zipIdx.map fun r => ⟨src, r.1, n + rowsOf (rs.take r.2)⟩

theorem tableOf_cons (src : BitVec 14) (r : A2aRec) (rs : List A2aRec) (n : Nat) :
    tableOf src (r :: rs) n = ⟨src, r, n⟩ :: tableOf src rs (n + r.count.toNat) := by
  rw [tableOf, List.zipIdx_cons', List.map_cons, List.map_map]
  refine congrArg₂ List.cons ?_ (List.map_congr_left fun x _ => ?_)
  · simp [rowsOf]
  · simp [rowsOf, Nat.add_assoc]

/-- The records of a list that bring rows. -/
def withRows (rs : List A2aRec) : Nat := (rs.filter fun r => r.count != 0).length

/-- The records of an item that brought rows. -/
def Item.filled (i : Item) : Nat := (i.table.filter fun t => t.record.count != 0 && !t.record.refused).length

/-- An item with the records of a message appended. -/
def Item.append (i : Item) (src : BitVec 14) (rs : List A2aRec) : Item :=
  { i with table := i.table ++ tableOf src rs i.rows, rows := i.rows + rowsOf rs }

theorem withRows_cons (r : A2aRec) (rs : List A2aRec) : withRows (r :: rs) = withRows [r] + withRows rs :=
  (congrArg List.length (List.filter_append (l₁ := [r]) (l₂ := rs))).trans List.length_append

theorem Item.append_nil (i : Item) (src : BitVec 14) : i.append src [] = i := by simp [Item.append, tableOf, rowsOf]

theorem Item.append_cons (i : Item) (src : BitVec 14) (r : A2aRec) (rs : List A2aRec) :
    (i.append src [r]).append src rs = i.append src (r :: rs) := by
  have hone : tableOf src [r] i.rows = [⟨src, r, i.rows⟩] := tableOf_cons ..
  simp [Item.append, hone, tableOf_cons, rowsOf, Nat.add_assoc]

theorem Item.filled_append_one (i : Item) (src : BitVec 14) {r : A2aRec} (h : r.refused = false) :
    (i.append src [r]).filled = i.filled + withRows [r] := by
  have hone : tableOf src [r] i.rows = [⟨src, r, i.rows⟩] := tableOf_cons ..
  simp only [Item.filled, Item.append, hone, List.filter_append, List.length_append, withRows, List.filter_singleton, h, Bool.not_false,
    Bool.and_true]
  cases r.count != 0 <;> rfl

theorem length_flatten_of_rows {rows : List (List Byte)} {rowb : Nat} (h : ∀ row ∈ rows, row.length = rowb) :
    rows.flatten.length = rows.length * rowb := by
  rw [List.length_flatten, List.map_congr_left h, List.map_const', List.sum_replicate, smul_eq_mul]

section append
variable {q : Queue} {src : BitVec 14} {rowb : Nat}

/-- A record that fits is appended with its rows. -/
theorem appendRec_fits {s : State} {i : Item} {r : A2aRec} {rows : List (List Byte)} (hecc : s.hbm.ecc = []) (hmem : q.memCs = false)
    (hfits : (i.rows + r.count.toNat) * rowb ≤ q.slotb) (hroom : i.filled + withRows [r] ≤ 1024) :
    appendRec ⟨s, i, false, false, false⟩ q src rowb (r, rows) =
      ⟨s.stored q (q.slotOff i.n + i.rows * rowb) rows.flatten, i.append src [r], false, false, false⟩ := by
  have hone : tableOf src [r] i.rows = [⟨src, r, i.rows⟩] := tableOf_cons ..
  have hpast : decide (q.slotb < (i.rows + r.count.toNat) * rowb) = false := by simpa using hfits
  have hcrowd : decide (0 < r.count.toNat ∧
      1024 ≤ (i.table.filter fun t => t.record.count != 0 && !t.record.refused).length) = false := by
    rw [decide_eq_false_iff_not]
    rintro ⟨hpos, hfull⟩
    have hsome : (r.count != 0) = true := bne_iff_ne.mpr fun hzero => by
      rw [hzero] at hpos
      exact absurd hpos (lt_irrefl 0)
    have hcounts : withRows [r] = 1 := by rw [withRows, List.filter_singleton, hsome]; rfl
    rw [hcounts] at hroom
    exact absurd hroom (Nat.not_le.mpr (Nat.lt_succ_of_le hfull))
  unfold appendRec
  dsimp only
  rw [hpast, hcrowd, State.fillQueue_clean hecc hmem]
  simp [Item.append, hone, rowsOf]

theorem foldl_appendRec (hmem : q.memCs = false) (rs : List A2aRec) : ∀ (s : State) (i : Item) (rows : List (List Byte)),
    s.hbm.ecc = [] → (∀ r ∈ rs, r.refused = false) → rows.length = rowsOf rs → (∀ row ∈ rows, row.length = rowb) →
    (i.rows + rowsOf rs) * rowb ≤ q.slotb → i.filled + withRows rs ≤ 1024 →
    (splitRows rs rows).foldl (fun a r => appendRec a q src rowb r) ⟨s, i, false, false, false⟩ =
      ⟨s.stored q (q.slotOff i.n + i.rows * rowb) rows.flatten, i.append src rs, false, false, false⟩ := by
  induction rs with
  | nil =>
    intro s i rows _ _ hlen _ _ _
    rw [List.eq_nil_of_length_eq_zero hlen, Item.append_nil]
    rfl
  | cons r rs ih =>
    intro s i rows hecc href hlen hrow hfits hroom
    rw [List.forall_mem_cons] at href
    have hsum : rowsOf (r :: rs) = r.count.toNat + rowsOf rs := List.sum_cons
    rw [hsum] at hlen hfits
    rw [withRows_cons, ← Nat.add_assoc] at hroom
    have htake : ((rows.take r.count.toNat).flatten).length = r.count.toNat * rowb := by
      rw [length_flatten_of_rows fun row h => hrow row (List.mem_of_mem_take h), List.length_take, hlen,
        Nat.min_eq_left (Nat.le_add_right ..)]
    have hoff : q.slotOff i.n + (i.rows + r.count.toNat) * rowb =
        q.slotOff i.n + i.rows * rowb + (rows.take r.count.toNat).flatten.length := by
      rw [htake, Nat.add_mul, Nat.add_assoc]
    have hrows : (i.append src [r]).rows = i.rows + r.count.toNat := by simp [Item.append, rowsOf]
    rw [splitRows, href.1, if_neg Bool.false_ne_true, List.foldl_cons, appendRec_fits hecc hmem ?_ (by omega),
      ih _ _ _ (State.stored_ecc hecc ..) href.2 ?_ (fun row h => hrow row (List.mem_of_mem_drop h)) ?_ ?_, hrows, Item.append_cons]
    · have hn : (i.append src [r]).n = i.n := rfl
      rw [hn, hoff, State.stored_stored, ← List.flatten_append, List.take_append_drop]
    · rw [List.length_drop, hlen, Nat.add_sub_cancel_left]
    · rw [hrows, Nat.add_assoc]
      exact hfits
    · rw [Item.filled_append_one i src href.1]
      exact hroom
    · exact (Nat.mul_le_mul_right _ (by omega)).trans hfits

end append

/-- The item that a queue opens for an all-to-all message. -/
def Queue.a2aItem (q : Queue) (src : BitVec 14) (g : CGroup) (rowb : Nat) : Item :=
  { Item.fresh q.ppos with
    heard := [src], missing := (g.members.filter (· != src)).map fun x => (x, false), rowb := rowb
    cancelled := decide (q.ppos < q.dpos) }

theorem Queue.a2aItem_append (q : Queue) (src : BitVec 14) (g : CGroup) (rowb : Nat) (rs : List A2aRec) :
    (q.a2aItem src g rowb).append src rs = { q.a2aItem src g rowb with
      table := rs.zipIdx.map fun r => ⟨src, r.1, rowsOf (rs.take r.2)⟩, rows := rowsOf rs } := by
  simp [Item.append, tableOf, Queue.a2aItem, Item.fresh]

/-- The queue with that item opened. -/
abbrev Queue.a2aOpened (q : Queue) (src : BitVec 14) (g : CGroup) (rowb : Nat) : Queue := q.alloc fun i => { i with
  heard := [src], missing := (g.members.filter (· != src)).map fun x => (x, false), rowb := rowb }

theorem Queue.item_a2aOpened {q : Queue} {src : BitVec 14} (hitems : ∀ i ∈ q.items, i.takes src = false ∧ i.n ≠ q.ppos) (g : CGroup)
    (rowb : Nat) : (q.a2aOpened src g rowb).item q.ppos = some (q.a2aItem src g rowb) := by
  have hnone : q.items.find? (fun x => x.n == q.ppos) = none := List.find?_eq_none.mpr fun x hx h => (hitems x hx).2 (eq_of_beq h)
  show (q.items ++ [q.a2aItem src g rowb]).find? (fun x => x.n == q.ppos) = _
  rw [List.find?_append, hnone, Option.none_or, List.find?_singleton]
  exact if_pos (beq_self_eq_true q.ppos)

/-- A dispatch message opens an item and fills it; the item is whole when no member of the group is still to be heard. -/
theorem State.a2aDeliver_opens {s : State} {p : PartId} {src : BitVec 14} {m : A2aMsg} {q : Queue} {g : CGroup} (hecc : s.hbm.ecc = [])
    (hq : s.queue m.dq = some q) (hcached : s.cached m.dq = true) (hrxp : q.isRxp = true) (hposted : q.posted = false)
    (hpart : q.part = p) (hmem : q.memCs = false) (hroom : q.room = true) (hitems : ∀ i ∈ q.items, i.takes src = false ∧ i.n ≠ q.ppos)
    (hg : s.cgroup m.cgrp = some g) (href : ∀ r ∈ m.recs, r.refused = false) (hlen : m.rows.length = rowsOf m.recs)
    (hrow : ∀ row ∈ m.rows, row.length = m.rowb.toNat) (hfits : m.rows.length * m.rowb.toNat ≤ q.slotb)
    (hcount : withRows m.recs ≤ 1024) :
    let used := m.rows.length * m.rowb.toNat
    let whole := g.members.all fun x => x == src
    s.a2aDeliver p src m = (s.stored q (q.slotOff q.ppos) (m.rows.flatten ++ if whole then List.replicate (q.slotb - used) 0 else [])).setQueue
      m.dq { q with ppos := q.ppos + 1, items := q.items ++
        [{ (q.a2aItem src g m.rowb.toNat).append src m.recs with closed := whole, full := whole, bytes := used }] } := by
  intro used whole
  have hslot : q.slotted = true := by simp [Queue.slotted, hrxp, hposted]
  have hfresh : q.items.find? (fun i => i.takes src) = none :=
    List.find?_eq_none.mpr fun i hi h => Bool.false_ne_true ((hitems i hi).1.symm.trans h)
  have hitem := Queue.item_a2aOpened hitems g m.rowb.toNat
  have hfold : (splitRows m.recs m.rows).foldl (fun a r => appendRec a (q.a2aOpened src g m.rowb.toNat) src m.rowb.toNat r)
      ⟨s, q.a2aItem src g m.rowb.toNat, false, false, false⟩ = ⟨s.stored q (q.slotOff q.ppos) m.rows.flatten,
        (q.a2aItem src g m.rowb.toNat).append src m.recs, false, false, false⟩ := by
    have hrows : (q.a2aItem src g m.rowb.toNat).rows = 0 := rfl
    have hfilled : (q.a2aItem src g m.rowb.toNat).filled = 0 := rfl
    have happended := foldl_appendRec (q := q.a2aOpened src g m.rowb.toNat) (src := src) hmem m.recs s (q.a2aItem src g m.rowb.toNat) m.rows
      hecc href hlen hrow (by rw [hrows, Nat.zero_add, ← hlen]; exact hfits) (by rw [hfilled, Nat.zero_add]; exact hcount)
    rw [hrows, Nat.zero_mul, Nat.add_zero] at happended
    exact happended
  have hrows : ((q.a2aItem src g m.rowb.toNat).append src m.recs).rows = m.rows.length := (Nat.zero_add _).trans hlen.symm
  have hall : (g.members.all fun x => ((q.a2aItem src g m.rowb.toNat).append src m.recs).heard.contains x) = whole :=
    List.all_congr rfl fun x => (List.contains_cons ..).trans (Bool.or_false _)
  have hzeroed : (if whole then (s.stored q (q.slotOff q.ppos) m.rows.flatten).fillQueue (q.a2aOpened src g m.rowb.toNat)
      ((q.a2aOpened src g m.rowb.toNat).slotOff q.ppos + m.rows.length * m.rowb.toNat)
        (List.replicate ((q.a2aOpened src g m.rowb.toNat).slotb - m.rows.length * m.rowb.toNat) 0)
      else (true, s.stored q (q.slotOff q.ppos) m.rows.flatten)) = _ :=
    length_flatten_of_rows hrow ▸ State.zeroed_stored hecc hmem (q.slotOff q.ppos) m.rows.flatten (q.slotb - used) whole
  unfold State.a2aDeliver
  rw [hq]
  dsimp only
  rw [if_neg (by simp [hrxp, hslot, hpart]), if_neg (by simp [hcached]), hfresh, hg, if_neg (by simp [hroom])]
  simp only [Option.isNone_none, if_true]
  rw [hitem]
  dsimp only
  rw [hfold, if_neg Bool.false_ne_true, if_neg Bool.false_ne_true]
  rw [hall, hrows, hzeroed]
  exact congrArg ((s.stored q (q.slotOff q.ppos) _).setQueue m.dq) (Queue.putItem_alloc rfl (fun i hi => (hitems i hi).2) rfl)

/-! #### A return message (13 R307) -/

section returned
variable {s : State} {p : PartId} {r : A2aRec} {q : Queue} {i : Item} {rowb : Nat} {rows : List (List Byte)}

theorem State.returnItem_eq (hq : s.queue r.a2aq = some q) (hpart : q.part = p)
    (hi : q.items.find? (fun i => i.n % 65536 == r.item.toNat && i.expect.isSome) = some i) : s.returnItem p r = some (q, i) := by
  rw [State.returnItem, hq]
  dsimp only
  rw [if_neg (not_not.mpr hpart), hi]
  rfl

/-- The state that has stored a returned record, with its rows, in its item. -/
def State.gotReturn (s : State) (q : Queue) (i : Item) (row rowb : Nat) (r : A2aRec) (rows : List (List Byte)) : State :=
  (((s.stored q (q.slotOff i.n + segBase (i.total.getD 0) + row * rowb) rows.flatten).stored q (q.slotOff i.n + 0x40 + 8 * r.j.toNat)
    (bytesLE 8 (r.count.toNat + 2 ^ 16))).setQueue r.a2aq (q.putItem { i with back := i.back ++ [r.j.toNat] }))

theorem State.takeReturn_stores {e : RetRec} (hecc : s.hbm.ecc = []) (hq : s.queue r.a2aq = some q) (hpart : q.part = p) (hmem : q.memCs = false)
    (hi : q.items.find? (fun i => i.n % 65536 == r.item.toNat && i.expect.isSome) = some i)
    (he : i.table.find? (fun t => t.record.j == r.j) = some e) (href : r.refused = false) :
    s.takeReturn p rowb r rows = (true, s.gotReturn q i e.row rowb r rows) := by
  unfold State.takeReturn
  rw [State.returnItem_eq hq hpart hi]
  dsimp only
  rw [he, href, if_neg Bool.false_ne_true, if_neg Bool.false_ne_true, if_neg Bool.false_ne_true, State.fillQueue_clean hecc hmem]
  dsimp only
  rw [State.fillQueue_clean (State.stored_ecc hecc ..) hmem]
  dsimp only
  rw [Bool.and_self, if_pos rfl, show ((s.stored q _ _).stored q _ _).queue r.a2aq = some q from hq]
  rfl

theorem State.handOf_one {src : BitVec 14} {m : A2aMsg} (hrecs : m.recs = [r]) (hitem : s.returnItem p r = some (q, i)) :
    s.handOf p src m = some i.hand := by
  rw [State.handOf, hrecs, List.findSome?_cons, hitem]

/-- A return message of one record stores it, and its module answers every item of the hand-off. -/
theorem State.a2aReturned_one {src : BitVec 14} {m : A2aMsg} {e : RetRec} (hecc : s.hbm.ecc = []) (hrecs : m.recs = [r])
    (href : r.refused = false) (hlen : m.rows.length = r.count.toNat) (hq : s.queue r.a2aq = some q) (hcached : s.cached r.a2aq = true)
    (hpart : q.part = p) (hmem : q.memCs = false)
    (hi : q.items.find? (fun i => i.n % 65536 == r.item.toNat && i.expect.isSome) = some i)
    (he : i.table.find? (fun t => t.record.j == r.j) = some e) :
    s.a2aReturned p src m = (s.gotReturn q i e.row m.rowb.toNat r m.rows).answerHand p src i.hand := by
  have hsplit : splitRows m.recs m.rows = [(r, m.rows)] := by
    rw [hrecs, splitRows, href, if_neg Bool.false_ne_true, ← hlen, List.take_length]
    rfl
  rw [State.a2aReturned, if_neg (by simp [hrecs, hcached]), hsplit, State.takeReturns, State.takeReturn_stores hecc hq hpart hmem hi he href]
  dsimp only
  rw [State.takeReturns]
  dsimp only
  rw [State.handOf_one hrecs (State.returnItem_eq hq hpart hi)]

end returned

/-! #### The messages as they arrive -/

theorem State.wakeShallow_hbm (s : State) : s.wakeShallow.hbm = s.hbm := by
  unfold State.wakeShallow
  split <;> rfl

theorem State.wakeShallow_queue (s : State) (q : Qid) : s.wakeShallow.queue q = s.queue q := by
  rw [State.queue, State.queue, State.wakeShallow_eng]

theorem State.wakeShallow_cached (s : State) (q : Qid) : s.wakeShallow.cached q = s.cached q := by
  rw [State.cached, State.cached, State.wakeShallow_queue, State.wakeShallow_eng]

theorem State.wakeShallow_cgroup (s : State) (g : BitVec 16) : s.wakeShallow.cgroup g = s.cgroup g := by
  rw [State.cgroup, State.cgroup, State.wakeShallow_eng]

theorem State.wakeShallow_part (s : State) (p : PartId) : s.wakeShallow.part p = s.part p := by
  rw [State.part, State.part, State.wakeShallow_parts]

theorem State.a2aSess_open {s : State} {m : A2aMsg} {d : Session} (hports : s.portsRun = true) (hd : s.sess m.sess.toNat = some d)
    (hopen : d.opened = true) (hhost : d.hostBit = false) : s.a2aSess m = some d := by
  rw [State.a2aSess, hd]
  exact if_pos ⟨hports, hopen, hhost⟩

/-- What a queue stores in the woken module. -/
theorem State.stored_wakeShallow (s : State) (q : Queue) (off : Nat) (bs : List Byte) : s.wakeShallow.stored q off bs =
    { s.wakeShallow with hbm := s.hbm.writeVa (s.part q.part) [] (q.base.toNat + off) bs } := by
  rw [State.stored, State.wakeShallow_hbm, State.wakeShallow_part]

theorem State.stored_stored_wakeShallow (s : State) (q : Queue) (off at_ : Nat) (bs cs : List Byte) :
    (s.wakeShallow.stored q off bs).stored q at_ cs = { s.wakeShallow with
      hbm := (s.hbm.writeVa (s.part q.part) [] (q.base.toNat + off) bs).writeVa (s.part q.part) [] (q.base.toNat + at_) cs } := by
  have hwrites : (s.wakeShallow.stored q off bs).hbm.writeVa ((s.wakeShallow.stored q off bs).part q.part) [] (q.base.toNat + at_) cs =
      (s.hbm.writeVa (s.part q.part) [] (q.base.toNat + off) bs).writeVa (s.part q.part) [] (q.base.toNat + at_) cs := by
    rw [show (s.wakeShallow.stored q off bs).part q.part = s.part q.part from s.wakeShallow_part q.part, State.stored_wakeShallow]
  exact congrArg (fun h => { s.wakeShallow with hbm := h }) hwrites

/-- Settles O59: a dispatch message by `State.a2aDeliver_opens`, a returned record by `State.a2aReturned_one`. -/
theorem allToAllMessagesFillTheirItems : Obligations.AllToAllMessagesFillTheirItems := by
  intro s m d hports hd hopen hhost hecc v
  have hsess := State.a2aSess_open hports hd hopen hhost
  have hveccs : v.hbm.ecc = [] := (congrArg Hbm.ecc s.wakeShallow_hbm).trans hecc
  refine ⟨?_, ?_⟩
  · intro q g hq hcached hrxp hposted hpart hmem hroom hitems hg href hlen hrow hfits hcount used whole first bytes
    have hdeliver := State.a2aDeliver_opens (s := v) hveccs ((s.wakeShallow_queue _).trans hq) ((s.wakeShallow_cached _).trans hcached)
      hrxp hposted hpart hmem hroom hitems ((s.wakeShallow_cgroup _).trans hg) href hlen hrow hfits hcount
    show execA2aMessageReceive m s = _
    rw [execA2aMessageReceive, hsess]
    dsimp only
    rw [hdeliver, State.stored_wakeShallow, Queue.a2aItem_append, hpart, ← show m.rows.length = rowsOf m.recs from hlen]
    rfl
  · intro r q i e hrecs href hlen hq hcached hpart hmem hi he at_ h1 h2 t waits
    have hreturned := State.a2aReturned_one (s := v) (src := d.peer) hveccs hrecs href hlen ((s.wakeShallow_queue _).trans hq)
      ((s.wakeShallow_cached _).trans hcached) hpart hmem hi he
    show execA2aReturnReceive m s = _
    rw [execA2aReturnReceive, hsess]
    dsimp only
    have hrows : q.base.toNat + (q.slotOff i.n + segBase (i.total.getD 0) + e.row * m.rowb.toNat) =
        at_ + segBase (i.total.getD 0) + e.row * m.rowb.toNat := by omega
    have hentry : q.base.toNat + (q.slotOff i.n + 0x40 + 8 * r.j.toNat) = at_ + 0x40 + 8 * r.j.toNat := by omega
    rw [hreturned, State.gotReturn, State.stored_stored_wakeShallow, hrows, hentry, hpart]
    rfl

end Sys2Proof.Machine

/-! ### The all-gather (13 R304, 01 R17) -/

namespace Sys2Proof.Machine

section gather
variable {s : State} {c : CoreId} {p : PartId} {l : RecvLine} {e : ExchEnt} {g : CGroup}

/-- An all-gather posts nothing as it is decoded. -/
theorem State.postsNone_gather (s : State) (c : CoreId) (p : PartId) (hcoll : l.coll = 2) : s.PostsNone c p (.recv l) := by
  rintro r ⟨⟩
  unfold State.postRecv
  split
  · exact if_neg (by simp [hcoll])
  · rfl

/-- A RECV that starts in a lone core and waits for its transfer. -/
theorem State.Lone.recv_started (h : s.Lone c p) (hgood : s.checkRecv c p l = none) (hcoll : l.coll = 2) {t : State}
    (hrun : (s.enter c (.recv l)).runRecv c p ((s.core c).ctl.capture (.recv l)) l = .started t) :
    (s.decodeLine c (.recv l)).settle = ((t.startSlot c (s.core c).ctl.tokens).charge p (.recv l)).carryOn := by
  have hline : (s.enter c (.recv l)).runLine c p ((s.core c).ctl.capture (.recv l)) = .started t := hrun
  rw [h.goesOn (x := .recv l) hgood rfl (List.cons_ne_nil _ _) (State.postsNone_gather s c p hcoll), hline]
  rfl

/-- An all-gather of a group that has lost no member asks for its exchange entry. -/
theorem State.runRecv_gather {x : InFlight} (hcoll : l.coll = 2) (hg : s.cgroupOf p l.cgrp = some g) (hmember : g.lost = false)
    (he : s.exchOf p l.sq = some e) : s.runRecv c p x l = s.runGather c p x l e := by
  unfold State.runRecv
  simp [hcoll, hg, hmember, he]

/-- The super-blocks of an exchange entry. -/
def ExchEnt.sbs (e : ExchEnt) : List Nat := (List.range e.nsb).map (e.firstsb + ·)

/-- The transfer of an all-gather, every super-block outstanding. -/
def gatherXferOf (c : CoreId) (tok : Nat) (p : PartId) (l : RecvLine) (e : ExchEnt) : Xfer :=
  ⟨c, tok, p, some l.cgrp, [e.owner], [], e.sbs, false, none, []⟩

/-- The step whose super-blocks a command asks for (R304): the step of its SEED in phase 2, one less otherwise. -/
def gatherStep (phase : BitVec 2) (k : SeedReg) : BitVec 32 := if phase = 2 then k.step else k.step - 1

/-- The requests of an all-gather at this module. -/
def ownRequests (c : CoreId) (tok : Nat) (p : PartId) (e : ExchEnt) (step : BitVec 32) : List GatherReq :=
  e.sbs.map fun b => ⟨p, none, c, tok, e.shard.toNat, b, b - e.firstsb, step⟩

/-- The request of an all-gather to the owner. -/
def gatherRequest (l : RecvLine) (e : ExchEnt) (step : BitVec 32) (m : Pkt) : List Pkt := [{ m with
  dq := BitVec.ofNat 20 e.shard.toNat, coll := 2, cgrp := l.cgrp, fmt := l.rfmt, step := step, first := true, last := true
  ofs := BitVec.ofNat 32 e.firstsb, payload := padTo 32 (bytesLE 4 e.nsb) }]

theorem State.runGather_own {x : InFlight} {k : SeedReg} (hseed : x.seed = some k) (hlost : s.eng.lostMods.contains e.owner = false)
    (hown : e.owner = s.moduleId) : s.runGather c p x l e =
      .started ((s.addXfer (gatherXferOf c x.token p l e)).gatherTake (ownRequests c x.token p e (gatherStep x.mark.phase k))) := by
  unfold State.runGather
  rw [hseed]
  dsimp only
  rw [if_neg (ne_true_of_eq_false hlost), if_pos hown]
  rfl

theorem State.runGather_remote {x : InFlight} {k : SeedReg} {i : Nat} (hseed : x.seed = some k)
    (hlost : s.eng.lostMods.contains e.owner = false) (hother : e.owner ≠ s.moduleId) (hfind : s.findSess p e.owner = some i) :
    s.runGather c p x l e =
      .started ((s.sendList i (gatherRequest l e (gatherStep x.mark.phase k))).2.addXfer (gatherXferOf c x.token p l e)) := by
  have hneed : s.needSess p e.owner = (some i, s) := by rw [State.needSess, hfind]
  unfold State.runGather
  rw [hseed]
  dsimp only
  rw [if_neg (ne_true_of_eq_false hlost), if_neg hother, hneed]
  rfl

end gather

/-! #### Requests held at the owner -/

section serve
variable {s : State} {n : Nat} {g : GatherReq} {d : Shard}

/-- A request of a super-block of its shard is ready once the super-block has been recorded at its STEP. -/
theorem State.gatherReady_eq (hd : (s.part g.part).ue.shards[g.shard]? = some d) (hsb : g.sb < d.nsb) :
    s.gatherReady g = atOrAfter32 ((s.part g.part).ue.recorded g.shard g.sb) g.step := by
  rw [State.gatherReady, hd]
  dsimp only
  rw [decide_eq_false (Nat.not_le.mpr hsb), Bool.false_or]

/-- A request of a partition within its share yields to none, and none yields where no such request is ready. -/
theorem State.gatherYields_eq_false {p : PartId} (h : s.inShare pointColl collCap p = true ∨
    (s.eng.gathers.any fun x => s.gatherReady x && s.inShare pointColl collCap x.part) = false) : s.gatherYields p = false := by
  rw [State.gatherYields]
  obtain h | h := h
  · rw [h, Bool.not_true, Bool.false_and]
  · rw [h, Bool.and_false]

theorem State.gatherYields_eq_true {p : PartId} (hshare : s.inShare pointColl collCap p = false)
    (hany : (s.eng.gathers.any fun x => s.gatherReady x && s.inShare pointColl collCap x.part) = true) : s.gatherYields p = true := by
  rw [State.gatherYields, hshare, hany]
  rfl

/-- GATHER_SERVE by whether the request is ready and yields. -/
theorem exec_gatherServe_eq (hg : s.eng.gathers[n]? = some g) : exec (.gatherServe n) s = .next
    (if s.gatherReady g && !s.gatherYields g.part then
      ((({ s with eng := { s.eng with gathers := s.eng.gathers.eraseIdx n } } : State).gatherServe g).useShare pointColl g.part 2048).settle
    else s) := by
  show execGatherServe n s = _
  rw [execGatherServe, hg]
  dsimp only
  split <;> rfl

end serve

/-- Settles O25: an all-gather is one run of its unit, a held request is served where it is ready and does not yield. -/
theorem gathersAskTheOwner : Obligations.GathersAskTheOwner := by
  refine ⟨?_, fun s n => ⟨fun g hg => ⟨fun d hd hsb hrec => ⟨fun hturn => ?_, fun hshare hany => ?_⟩, fun d hd hsb hrec => ?_⟩,
    fun hnone => ?_⟩⟩
  · intro s c p l x k g line e tok step sbs xf h hs hgood hg hmember hx hseed hlost
    have hrun := State.runRecv_gather (s := e) (c := c) (l := line) (x := (s.core c).ctl.capture (.recv line)) rfl hg hmember hx
    refine ⟨fun hown => congrArg Host.Outcome.next (h.recv_started hgood rfl ?_), fun i d hother hfind hd =>
      congrArg Host.Outcome.next (h.recv_started hgood rfl ?_)⟩
    · rw [hrun, State.runGather_own (s := e) hseed hlost hown]
      rfl
    · rw [hrun, State.runGather_remote (s := e) hseed hlost hother hfind]
      rfl
  · rw [exec_gatherServe_eq hg, State.gatherReady_eq hd hsb, hrec, State.gatherYields_eq_false hturn]
    exact congrArg Host.Outcome.next (if_pos rfl)
  · rw [exec_gatherServe_eq hg, State.gatherReady_eq hd hsb, hrec, State.gatherYields_eq_true hshare hany]
    exact congrArg Host.Outcome.next (if_neg Bool.false_ne_true)
  · rw [exec_gatherServe_eq hg, State.gatherReady_eq hd hsb, hrec]
    exact congrArg Host.Outcome.next (if_neg Bool.false_ne_true)
  · show execGatherServe n s = _
    rw [execGatherServe, hnone]

end Sys2Proof.Machine

/-! The mailbox commands (14 R321 to R348). Each is a list of checks and what follows when all pass, so a clause about one comes down to
its checks and to what that does to the state. -/

namespace Sys2Proof.Machine

/-! ### The first bad entry of a table -/

theorem badAt_eq_none {n : Nat} {bad : Nat → Bool} (h : ∀ i, i < n → bad i = false) : badAt n bad = none := by
  simpa [badAt] using h

theorem badAt_eq_some {n i : Nat} {bad : Nat → Bool} (hi : i < n) (hbad : bad i = true) (hfirst : ∀ j, j < i → bad j = false) :
    badAt n bad = some i := by
  simpa [badAt, List.find?_range_eq_some, hi, hbad] using hfirst

theorem hostsBad_eq_none {b : List Byte} {base n : Nat} (h : ∀ i, i < n → hostBad (entryAt b base 24 i) = none) : hostsBad b base n = none := by
  refine List.findSome?_eq_none_iff.mpr fun i hi => ?_
  rw [h i (List.mem_range.mp hi)]
  rfl

/-! ### A map entered in a run of keys -/

theorem get_enterAll {α : Type} [DecidableEq α] (d : α) (m : Smap α) (first : Nat) (f : Nat → α) (n k : Nat) :
    Smap.get d (enterAll d m first f n) k = if first ≤ k ∧ k < first + n then f (k - first) else Smap.get d m k := by
  induction n with
  | zero => rw [enterAll, if_neg (by omega)]
  | succ n ih =>
    rw [enterAll]
    by_cases hk : k = first + n
    · rw [hk, Smap.get_set_same, if_pos (by omega), Nat.add_sub_cancel_left]
    · rw [Smap.get_set_other _ _ _ _ _ hk, ih]
      exact if_congr (by omega) rfl rfl

end Sys2Proof.Machine

/-! The owner's tables (14 R321, R322, 12 R266, R267, R276, R277, R281, 13 R315). A table is entered key by key, so what a key holds
afterwards is `get_enterAll`. -/

namespace Sys2Proof.Machine

section tables
variable {s : State} {m : MbId} {r : MbReq}

/-! ### MB_ROLE -/

section role
variable (h : s.Asks m 0x0002 r) (hrole : r.u 1 1 ≤ 2) (hpart : r.u 2 1 ≤ 7) (hzero : r.u 3 1 = 0)
include h hrole hpart hzero

theorem mbRole_sets (hlow : 9 ≤ r.u 0 1) (hhigh : r.u 0 1 ≤ 14) (hidle : (s.mb (Fin.ofNat 16 (r.u 0 1))).busy = none) :
    exec (.mbRole m) s = .next ((s.setMb (Fin.ofNat 16 (r.u 0 1)) { s.mb (Fin.ofNat 16 (r.u 0 1)) with
      role := if r.u 1 1 = 1 then .owner else if r.u 1 1 = 2 then .partition else .none, rpart := Fin.ofNat 8 (r.u 2 1) }).answered
        m stOk 0 []) := by
  refine State.mbRun_goes h rfl rfl ?_
  have hmb : ¬(r.u 0 1 < 9 ∨ 14 < r.u 0 1) := by omega
  simp only [firstFail, MbReq.zero, hzero, hidle, decide_eq_false hmb, decide_eq_false (Nat.not_lt.mpr hrole),
    decide_eq_false (Nat.not_lt.mpr hpart)]
  rfl

theorem mbRole_busy (hlow : 9 ≤ r.u 0 1) (hhigh : r.u 0 1 ≤ 14) (hbusy : (s.mb (Fin.ofNat 16 (r.u 0 1))).busy.isSome = true) :
    exec (.mbRole m) s = .next (s.answered m stState (r.u 0 1) []) := by
  refine State.mbRun_fails h rfl rfl ?_
  have hmb : ¬(r.u 0 1 < 9 ∨ 14 < r.u 0 1) := by omega
  simp only [firstFail, MbReq.zero, hzero, hbusy, decide_eq_false hmb, decide_eq_false (Nat.not_lt.mpr hrole),
    decide_eq_false (Nat.not_lt.mpr hpart)]
  rfl

end role

theorem mbRole_fixed (h : s.Asks m 0x0002 r) (hmb : r.u 0 1 < 9 ∨ 14 < r.u 0 1) :
    exec (.mbRole m) s = .next (s.answered m stBadField 0 []) :=
  State.mbRun_fails h rfl rfl (by rw [decide_eq_true hmb]; rfl)

/-! ### HOST_TABLE -/

/-- The configuration region with `n` host entries from number `first` on. -/
def Flash.withHosts (f : Flash) (b : List Byte) (first n : Nat) : Flash :=
  (List.range n).foldl (fun f i => f.setCfg (0x60 + 24 * (first + i)) (entryAt b 4 24 i)) f

theorem State.putHosts_eq (s : State) (b : List Byte) (first n : Nat) : s.putHosts b first n = { s with
    reg := { s.reg with hosts := enterAll none s.reg.hosts first (fun i => hostEntOf (entryAt b 4 24 i)) n }
    flash := s.flash.withHosts b first n } := by
  induction n with
  | zero => rfl
  | succ n ih =>
    have hstep : s.flash.withHosts b first (n + 1) =
        (s.flash.withHosts b first n).setCfg (0x60 + 24 * (first + n)) (entryAt b 4 24 n) := by
      rw [Flash.withHosts, List.range_succ, List.foldl_append]
      rfl
    rw [State.putHosts, ih, hstep]
    rfl

/-- The first host entry that is bad, with its field's offset. -/
theorem hostsBad_eq_some {b : List Byte} {base n i o : Nat} (hi : i < n) (hbad : hostBad (entryAt b base 24 i) = some o)
    (hfirst : ∀ j, j < i → hostBad (entryAt b base 24 j) = none) : hostsBad b base n = some (base + 24 * i + o) := by
  obtain ⟨k, rfl⟩ := Nat.exists_eq_add_of_le (Nat.succ_le_of_lt hi)
  have hnone : hostsBad b base i = none := hostsBad_eq_none hfirst
  rw [hostsBad, List.range_add, List.findSome?_append, List.range_succ, List.findSome?_append]
  rw [hostsBad] at hnone
  simp [hnone, hbad]

section hosts
variable (h : s.Asks m 0x0003 r) (hfirst : r.u 0 2 < 64) (hcount : r.u 0 2 + r.u 2 2 ≤ 64) (hlen : 4 + 24 * r.u 2 2 ≤ r.payload.length)
include h hfirst hcount hlen

theorem hostTable_refuses {o : Nat} (hbad : hostsBad r.payload 4 (r.u 2 2) = some o) :
    exec (.hostTable m) s = .next (s.answered m stBadField o []) := by
  refine State.mbRun_fails h rfl rfl ?_
  have hroom : ¬(64 < r.u 0 2 + r.u 2 2 ∨ r.payload.length < 4 + 24 * r.u 2 2) := by omega
  simp only [firstFail, decide_eq_false (Nat.not_le.mpr hfirst), decide_eq_false hroom, hbad]
  rfl

theorem hostTable_enters (hgood : hostsBad r.payload 4 (r.u 2 2) = none) :
    exec (.hostTable m) s = .next ((s.putHosts r.payload (r.u 0 2) (r.u 2 2)).answered m stOk 0 []) := by
  refine State.mbRun_goes h rfl rfl ?_
  have hroom : ¬(64 < r.u 0 2 + r.u 2 2 ∨ r.payload.length < 4 + 24 * r.u 2 2) := by omega
  simp only [firstFail, decide_eq_false (Nat.not_le.mpr hfirst), decide_eq_false hroom, hgood]
  rfl

end hosts

/-! ### MODULE_SET -/

section module
variable (h : s.Asks m 0x0004 r)
include h

theorem moduleSet_sets (hid : r.u 0 2 < 2 ^ 14) (hmay : r.u 0 2 = s.moduleId.toNat ∨ s.enabledPort = none) :
    exec (.moduleSet m) s = .next (({ s with
      reg := { s.reg with
        moduleId := BitVec.ofNat 14 (r.u 0 2), assigned := true, tport := BitVec.ofNat 16 (r.u 2 2)
        midConflict := s.reg.midConflict && decide (r.u 0 2 = s.moduleId.toNat) }
      flash := s.flash.setCfg 0x10 (bytesLE 2 (r.u 0 2 + 0x8000) ++ bytesLE 2 (r.u 2 2)) } : State).answered m stOk 0 []) := by
  have hsame : decide (r.u 0 2 = s.moduleId.toNat) = !decide (r.u 0 2 ≠ s.moduleId.toNat) := by simp
  rw [hsame]
  refine State.mbRun_goes h rfl rfl ?_
  have hfree : (decide (r.u 0 2 ≠ s.moduleId.toNat) && s.enabledPort.isSome) = false := by
    obtain hid | hnone := hmay
    · simp [hid]
    · rw [hnone]
      exact Bool.and_false _
  simp only [firstFail, decide_eq_false (Nat.not_le.mpr hid), hfree, Bool.false_eq_true, if_false]

theorem moduleSet_tooHigh (hid : 2 ^ 14 ≤ r.u 0 2) : exec (.moduleSet m) s = .next (s.answered m stBadField 0 []) :=
  State.mbRun_fails h rfl rfl (by rw [decide_eq_true hid]; rfl)

theorem moduleSet_portOn (hid : r.u 0 2 < 2 ^ 14) (hchange : r.u 0 2 ≠ s.moduleId.toNat) {p : PortId} (hport : s.enabledPort = some p) :
    exec (.moduleSet m) s = .next (s.answered m stState p.val []) := by
  refine State.mbRun_fails h rfl rfl ?_
  simp only [firstFail, decide_eq_false (Nat.not_le.mpr hid), decide_eq_true hchange, hport]
  rfl

end module

/-! ### PORT_SET -/

theorem State.port_setPortCfg (s : State) (p : PortId) (cfg : Word) : ((s.setPortCfg p cfg).port p).cfg = cfg := by
  unfold State.setPortCfg
  dsimp only
  split
  · rw [State.port_setPort_same]
  · rw [State.port_setPort_same]
    rfl

theorem State.setPortCfg_same {s : State} {p : PortId} {cfg : Word} (hsame : (s.port p).cfg &&& 15#32 = cfg &&& 15#32) :
    s.setPortCfg p cfg = s.setPort p { s.port p with cfg := cfg } := if_pos hsame

section port
variable (h : s.Asks m 0x0005 r)
include h

theorem portSet_sets (hport : r.u 0 1 < 12) (hzero : r.u 1 3 = 0) (hcfg : r.u 4 4 < 128) {u : State}
    (hu : s.setPortCfg (Fin.ofNat 12 (r.u 0 1)) (BitVec.ofNat 32 (r.u 4 4)) = u) :
    exec (.portSet m) s = .next (({ u with
      flash := u.flash.setCfg (0x30 + 4 * r.u 0 1) (bytesLE 4 (BitVec.ofNat 32 (r.u 4 4)).toNat) } : State).answered m stOk 0
        (bytesLE 4 (u.port (Fin.ofNat 12 (r.u 0 1))).sts)) := by
  subst hu
  have hword : portCfgOf (r.u 4 4) = BitVec.ofNat 32 (r.u 4 4) := by rw [portCfgOf, Nat.mod_eq_of_lt hcfg]
  rw [← hword]
  refine State.mbRun_goes h rfl rfl ?_
  simp only [firstFail, MbReq.zero, hzero, decide_eq_false (Nat.not_le.mpr hport), decide_eq_false (Nat.not_le.mpr hcfg)]
  rfl

theorem portSet_reserved (hport : r.u 0 1 < 12) (hzero : r.u 1 3 = 0) (hcfg : 128 ≤ r.u 4 4) :
    exec (.portSet m) s = .next (s.answered m stBadField 4 []) := by
  refine State.mbRun_fails h rfl rfl ?_
  simp only [firstFail, MbReq.zero, hzero, decide_eq_false (Nat.not_le.mpr hport), decide_eq_true hcfg]
  rfl

theorem portSet_beyond (hport : 12 ≤ r.u 0 1) : exec (.portSet m) s = .next (s.answered m stBadField 0 []) :=
  State.mbRun_fails h rfl rfl (by rw [decide_eq_true hport]; rfl)

end port

/-! ### STEER_SET -/

theorem State.putSteer_rules (s : State) (b : List Byte) (first n : Nat) : s.putSteer 0 b first n = { s with fabric := { s.fabric with
    rulesShadow := enterAll none s.fabric.rulesShadow first (fun i => some (ruleOf (entryAt b 8 32 i))) n } } := by
  induction n with
  | zero => rfl
  | succ n ih => rw [State.putSteer, ih, if_pos rfl]; rfl

theorem State.putSteer_perfect (s : State) (b : List Byte) (first n : Nat) : s.putSteer 1 b first n = { s with fabric := { s.fabric with
    perfectShadow := enterAll none s.fabric.perfectShadow first (fun i => some (perfectOf (entryAt b 8 16 i))) n } } := by
  induction n with
  | zero => rfl
  | succ n ih => rw [State.putSteer, ih, if_neg (by decide)]; rfl

/-- The filter rules after rules have been entered, and made active where `c` holds. -/
theorem State.steered_rules (s : State) (b : List Byte) (first n : Nat) (c : Prop) [Decidable c] {x : Smap (Option FilterRule)}
    (hx : enterAll none s.fabric.rulesShadow first (fun i => some (ruleOf (entryAt b 8 32 i))) n = x) :
    (if c then (s.putSteer 0 b first n).commitSteer 0 else s.putSteer 0 b first n) =
      { s with fabric := { s.fabric with rulesShadow := x, rules := if c then x else s.fabric.rules } } := by
  rw [State.putSteer_rules, hx]
  by_cases hc : c
  · rw [if_pos hc, if_pos hc]
    rfl
  · rw [if_neg hc, if_neg hc]

/-- The perfect-match entries after entries have been entered, and made active where `c` holds. -/
theorem State.steered_perfect (s : State) (b : List Byte) (first n : Nat) (c : Prop) [Decidable c] {x : Smap (Option PerfectEnt)}
    (hx : enterAll none s.fabric.perfectShadow first (fun i => some (perfectOf (entryAt b 8 16 i))) n = x) :
    (if c then (s.putSteer 1 b first n).commitSteer 1 else s.putSteer 1 b first n) =
      { s with fabric := { s.fabric with perfectShadow := x, perfect := if c then x else s.fabric.perfect } } := by
  rw [State.putSteer_perfect, hx]
  by_cases hc : c
  · rw [if_pos hc, if_pos hc]
    rfl
  · rw [if_neg hc, if_neg hc]

section steer
variable (h : s.Asks m 0x0006 r) (hcommit : r.u 1 1 ≤ 1) (hzero : r.u 6 2 = 0)
include h hcommit hzero

theorem steerSet_rules (hkind : r.u 0 1 = 0) (hcount : r.u 2 2 + r.u 4 2 ≤ 256) (hlen : 8 + 32 * r.u 4 2 ≤ r.payload.length)
    (hgood : ∀ i, i < r.u 4 2 → s.ruleBad (entryAt r.payload 8 32 i) = none) {u : State}
    (hu : (if r.u 1 1 = 1 then (s.putSteer 0 r.payload (r.u 2 2) (r.u 4 2)).commitSteer 0 else s.putSteer 0 r.payload (r.u 2 2) (r.u 4 2)) = u) :
    exec (.steerSet m) s = .next (u.answered m stOk 0 []) := by
  subst hu
  refine State.mbRun_goes h rfl (by rw [hkind]) ?_
  have hbad : badAt (r.u 4 2) (fun i => (s.ruleBad (entryAt r.payload 8 32 i)).isSome) = none := badAt_eq_none fun i hi => by rw [hgood i hi]; rfl
  have hfirst : ¬256 < r.u 2 2 := by omega
  have hroom : ¬(256 < r.u 2 2 + r.u 4 2 ∨ r.payload.length < 8 + 32 * r.u 4 2) := by omega
  simp only [firstFail, MbReq.zero, hzero, hbad, if_true, decide_eq_false (Nat.not_lt.mpr hcommit), decide_eq_false hfirst,
    decide_eq_false hroom]
  rfl

theorem steerSet_perfect (hkind : r.u 0 1 = 1) (hcount : r.u 2 2 + r.u 4 2 ≤ 8) (hlen : 8 + 16 * r.u 4 2 ≤ r.payload.length)
    (hgood : ∀ i, i < r.u 4 2 → s.perfectBad (entryAt r.payload 8 16 i) = none) {u : State}
    (hu : (if r.u 1 1 = 1 then (s.putSteer 1 r.payload (r.u 2 2) (r.u 4 2)).commitSteer 1 else s.putSteer 1 r.payload (r.u 2 2) (r.u 4 2)) = u) :
    exec (.steerSet m) s = .next (u.answered m stOk 0 []) := by
  subst hu
  refine State.mbRun_goes h rfl (by rw [hkind]) ?_
  have hbad : badAt (r.u 4 2) (fun i => (s.perfectBad (entryAt r.payload 8 16 i)).isSome) = none :=
    badAt_eq_none fun i hi => by rw [hgood i hi]; rfl
  have hfirst : ¬8 < r.u 2 2 := by omega
  have hroom : ¬(8 < r.u 2 2 + r.u 4 2 ∨ r.payload.length < 8 + 16 * r.u 4 2) := by omega
  simp only [firstFail, MbReq.zero, hzero, hbad, Nat.one_ne_zero, if_false, decide_eq_false (Nat.not_lt.mpr hcommit),
    decide_eq_false hfirst, decide_eq_false hroom]
  rfl

end steer

/-! ### FWD_SET -/

theorem State.putFwd_eq (s : State) (b : List Byte) (first n : Nat) : s.putFwd b first n = { s with fabric := { s.fabric with
    fwd := enterAll 0 s.fabric.fwd first (fun i => BitVec.ofNat 16 (fieldLE b (4 + 2 * i) 2 % 256)) n } } := by
  induction n with
  | zero => rfl
  | succ n ih => rw [State.putFwd, ih]; rfl

theorem State.get_putFwd (s : State) (b : List Byte) (first n k : Nat) : (s.putFwd b first n).fabric.fwd.get 0 k =
    if first ≤ k ∧ k < first + n then BitVec.ofNat 16 (fieldLE b (4 + 2 * (k - first)) 2 % 256) else s.fabric.fwd.get 0 k := by
  rw [State.putFwd_eq]
  exact get_enterAll ..

section forward
variable (h : s.Asks m 0x0007 r) (hfirst : r.u 0 2 < 16384) (hmost : r.u 2 2 ≤ 2030) (hcount : r.u 0 2 + r.u 2 2 ≤ 16384)
  (hlen : 4 + 2 * r.u 2 2 ≤ r.payload.length)
include h hfirst hmost hcount hlen

theorem fwdSet_refuses {i : Nat} (hi : i < r.u 2 2) (hbad : 256 ≤ r.u (4 + 2 * i) 2) (hgood : ∀ j, j < i → r.u (4 + 2 * j) 2 < 256) :
    exec (.fwdSet m) s = .next (s.answered m stBadField (4 + 2 * i) []) := by
  refine State.mbRun_fails h rfl rfl ?_
  have hat : badAt (r.u 2 2) (fun i => decide (256 ≤ r.u (4 + 2 * i) 2)) = some i :=
    badAt_eq_some hi (decide_eq_true hbad) fun j hj => decide_eq_false (Nat.not_le.mpr (hgood j hj))
  have hroom : ¬(2030 < r.u 2 2 ∨ 16384 < r.u 0 2 + r.u 2 2 ∨ r.payload.length < 4 + 2 * r.u 2 2) := by omega
  simp only [firstFail, hat, decide_eq_false (Nat.not_le.mpr hfirst), decide_eq_false hroom]
  rfl

theorem fwdSet_enters (hgood : ∀ j, j < r.u 2 2 → r.u (4 + 2 * j) 2 < 256) :
    exec (.fwdSet m) s = .next ((s.putFwd r.payload (r.u 0 2) (r.u 2 2)).answered m stOk 0 []) := by
  refine State.mbRun_goes h rfl rfl ?_
  have hat : badAt (r.u 2 2) (fun i => decide (256 ≤ r.u (4 + 2 * i) 2)) = none :=
    badAt_eq_none fun j hj => decide_eq_false (Nat.not_le.mpr (hgood j hj))
  have hroom : ¬(2030 < r.u 2 2 ∨ 16384 < r.u 0 2 + r.u 2 2 ∨ r.payload.length < 4 + 2 * r.u 2 2) := by omega
  simp only [firstFail, hat, decide_eq_false (Nat.not_le.mpr hfirst), decide_eq_false hroom]
  rfl

end forward

end tables

/-- Settles O47: each command by its checks; every table entered in a run of keys holds there what was entered (`get_enterAll`). -/
theorem ownerTablesTakeEffectAndAreStored : Obligations.OwnerTablesTakeEffectAndAreStored := by
  unfold Obligations.OwnerTablesTakeEffectAndAreStored
  intro s m r ok at_
  refine ⟨fun h hrole hpart hzero =>
      ⟨fun hlow hhigh => ⟨mbRole_sets h hrole hpart hzero hlow hhigh, mbRole_busy h hrole hpart hzero hlow hhigh⟩, mbRole_fixed h⟩,
    fun h hfirst hcount hlen => ⟨fun i o hi hbad hgood => ?_, fun hgood => ?_⟩,
    moduleSet_sets, moduleSet_tooHigh, fun h hid hchange p hport => moduleSet_portOn h hid hchange hport,
    fun h => ⟨portSet_reserved h, fun hport hzero hcfg => ?_, portSet_beyond h⟩,
    fun h hkind hcommit hcount hlen hzero hgood => ?_, fun h hkind hcommit hcount hlen hzero hgood => ?_,
    fun h hfirst hmost hcount hlen => ⟨fun i hi hbad hgood => fwdSet_refuses h hfirst hmost hcount hlen hi hbad hgood, fun hgood => ?_⟩⟩
  · exact hostTable_refuses h hfirst hcount hlen (hostsBad_eq_some hi hbad hgood)
  · refine ⟨_, hostTable_enters h hfirst hcount hlen (hostsBad_eq_none hgood), fun k => ?_, ?_⟩
    · rw [State.putHosts_eq]
      exact get_enterAll ..
    · rw [State.putHosts_eq]
      rfl
  · exact ⟨s.port_setPortCfg _ _, State.setPortCfg_same, portSet_sets h hport hzero hcfg rfl⟩
  · exact ⟨_, steerSet_rules h hcommit hzero hkind hcount hlen hgood (s.steered_rules _ _ _ _ rfl), fun k => get_enterAll .., rfl⟩
  · exact ⟨_, steerSet_perfect h hcommit hzero hkind hcount hlen hgood (s.steered_perfect _ _ _ _ rfl), fun k => get_enterAll .., rfl⟩
  · refine ⟨_, fwdSet_enters h hfirst hmost hcount hlen hgood, fun k => ?_, ?_⟩
    · rw [State.get_putFwd]
      exact if_ctx_congr Iff.rfl (fun ⟨hlow, hhigh⟩ =>
        congrArg (BitVec.ofNat 16) (Nat.mod_eq_of_lt (hgood _ (Nat.sub_lt_left_of_lt_add hlow hhigh)))) fun _ => rfl
    · rw [State.putFwd_eq]

end Sys2Proof.Machine

/-! The owner's controls of the module (14 R335, R339, 15 R349, R356, R363, 16 R374, R379): each passes its checks, or fails at the one named. -/

namespace Sys2Proof.Machine

section controls
variable {s : State} {m : MbId} {r : MbReq}

/-! ### Levels and sleep -/

theorem plCap_awaits (h : s.Asks m 0x0008 r) (hlevels : ∀ i, i < 9 → r.u i 1 ≤ 5) :
    exec (.plCap m) s = .next ((({ s with
      parts := s.parts.mapIdx fun i q => { q with cap := BitVec.ofNat 3 (r.u (1 + (i : Nat)) 1) }
      reg := { s.reg with modLevel := BitVec.ofNat 3 (r.u 0 1) } } : State).retarget).awaitWith m []).settle := by
  refine State.mbRun_goes h rfl rfl ?_
  rw [badAt_eq_none fun i hi => decide_eq_false (Nat.not_lt.mpr (hlevels i hi))]
  rfl

section sleep
variable (h : s.Asks m 0x0009 r) (hsettled : s.levelsSettled = true) (hlow : 1 ≤ r.u 0 1) (hhigh : r.u 0 1 ≤ 4)
include h hsettled hlow hhigh

theorem sleep_enters (hready : s.aon.mstate = .ready) (hmay : s.maySleep (r.u 0 1) = true) :
    exec (.sleep m) s = .next ((s.respond m stOk 0 []).enterSleep (r.u 0 1)).settle := by
  refine State.mbRun_goes h hsettled rfl ?_
  have hfield : ¬(r.u 0 1 < 1 ∨ 4 < r.u 0 1) := by omega
  simp only [firstFail, decide_eq_false hfield, hready, hmay]
  rfl

theorem sleep_refused (hnot : s.aon.mstate ≠ .ready ∨ s.maySleep (r.u 0 1) = false) :
    exec (.sleep m) s = .next (s.answered m stState (r.u 0 1) []) := by
  refine State.mbRun_fails h hsettled rfl ?_
  have hfield : ¬(r.u 0 1 < 1 ∨ 4 < r.u 0 1) := by omega
  have hstate : (s.aon.mstate != .ready || !s.maySleep (r.u 0 1)) = true := by simpa using hnot
  simp only [firstFail, decide_eq_false hfield, hstate]
  rfl

end sleep

/-! ### RESET -/

theorem resetWarm_resets (h : s.Asks m 0x000A r) (hkind : r.u 0 1 = 0) :
    exec (.resetWarm m) s = .next ((s.respond m stOk 0 []).moduleReset 4 .warm false).settle :=
  State.mbRun_goes h (by rw [hkind]; rfl) rfl (by rw [hkind]; rfl)

theorem resetRetrain_resets (h : s.Asks m 0x000A r) (hkind : r.u 0 1 = 1) :
    exec (.resetRetrain m) s = .next ((s.respond m stOk 0 []).moduleReset 5 .retrain false).settle :=
  State.mbRun_asks h (by rw [hkind]; rfl) _

section island
variable (h : s.Asks m 0x000A r) (hkind : r.u 0 1 = 2)
include h hkind

theorem islandReset_core (hcore : r.u 1 1 < 24)
    (hfree : (s.core (Fin.ofNat 24 (r.u 1 1))).part = none ∨ (s.core (Fin.ofNat 24 (r.u 1 1))).settled = true) :
    exec (.islandReset m) s = .next (((s.respond m stOk 0 []).logEvent evIslReset (r.u 1 1) srcNone (bytesLE 1 (r.u 1 1))).modCore
      (Fin.ofNat 24 (r.u 1 1)) fun k => { k.cleared false with
        stash := k.stash, ctl := { (k.cleared false).ctl with tokens := k.ctl.tokens } }).settle := by
  refine State.mbRun_goes h (by rw [hkind]; rfl) (by dsimp only; rw [if_pos hcore, if_pos hcore]) ?_
  have hheld : ((s.core (Fin.ofNat 24 (r.u 1 1))).part.isSome && !(s.core (Fin.ofNat 24 (r.u 1 1))).settled) = false := by
    obtain hpart | hsettled := hfree
    · rw [hpart]
      rfl
    · rw [hsettled]
      exact Bool.and_false _
  simp only [firstFail, decide_eq_true hcore, Bool.true_and, Bool.true_or, hheld]
  rfl

theorem islandReset_port (hlow : 36 ≤ r.u 1 1) (hhigh : r.u 1 1 ≤ 47) :
    exec (.islandReset m) s = .next (((s.respond m stOk 0 []).logEvent evIslReset (r.u 1 1) srcNone (bytesLE 1 (r.u 1 1 - 36))).resetPort
      (Fin.ofNat 12 (r.u 1 1 - 36))).settle := by
  have hcore : ¬r.u 1 1 < 24 := by omega
  refine State.mbRun_goes h (by rw [hkind]; rfl) (by dsimp only; rw [if_neg hcore, if_neg hcore]) ?_
  simp only [firstFail, decide_eq_false hcore, decide_eq_true (And.intro hlow hhigh)]
  rfl

theorem islandReset_none (hcore : ¬r.u 1 1 < 24) (hport : ¬(36 ≤ r.u 1 1 ∧ r.u 1 1 ≤ 47)) :
    exec (.islandReset m) s = .next (s.answered m stBadField 1 []) := by
  refine State.mbRun_fails h (by rw [hkind]; rfl) rfl ?_
  simp only [firstFail, decide_eq_false hcore, decide_eq_false hport]
  rfl

end island

/-! ### FLASH_WRITE -/

/-- The bytes that a FLASH_WRITE names can be read: they lie in pages of an existing partition that it may read, without errors. -/
structure State.Writes (s : State) (r : MbReq) (b : List Byte) : Prop where
  zero : r.u 1 3 = 0
  wide : r.u 14 2 = 0
  part : s.partExists r.part = true
  some : 0 < r.u 4 4
  range : (s.part r.part).checkRange (r.u 8 8) (r.u 4 4) .r = none
  clean : s.hbm.ecc = []
  bytes : b = s.hbm.readVa (s.part r.part) (r.u 8 8) (r.u 4 4)

theorem calValid_fields {b : List Byte} (h : calValid b = true) :
    fieldLE b 0 4 = 0x4C414355 ∧ fieldLE b 4 2 = 1 ∧ fieldLE b 6 2 ≤ 1024 ∧ 16 + 12 * fieldLE b 6 2 ≤ b.length := by
  simp only [calValid, Bool.and_eq_true, beq_iff_eq, decide_eq_true_eq] at h
  obtain ⟨⟨⟨⟨hmagic, hver⟩, hcount⟩, hfit⟩, -⟩ := h
  exact ⟨hmagic, hver, hcount, hfit⟩

theorem cfgFieldBad_eq_none {b : List Byte} (hvalid : cfgValid b = true) (h6 : fieldLE b 6 2 = 0) (hC : fieldLE b 0xC 4 = 0)
    (h10 : (fieldLE b 0x10 2).testBit 14 = false) (hlow : 400 ≤ fieldLE b 0x14 2) (hhigh : fieldLE b 0x14 2 ≤ 1000) (h16 : fieldLE b 0x16 2 = 0)
    (h22 : fieldLE b 0x22 14 = 0) (hports : ∀ i, i < 12 → fieldLE b (0x30 + 4 * i) 4 < 128)
    (hhosts : ∀ i, i < 64 → hostBad (entryAt b 0x60 24 i) = none) : cfgFieldBad b = none := by
  have hwhole := hvalid
  simp only [cfgValid, Bool.and_eq_true, beq_iff_eq] at hwhole
  obtain ⟨⟨⟨-, hmagic⟩, hver⟩, -⟩ := hwhole
  have hwatt : ¬(fieldLE b 0x14 2 < 400 ∨ 1000 < fieldLE b 0x14 2) := by omega
  have hcfg : badAt 12 (fun i => decide (128 ≤ fieldLE b (0x30 + 4 * i) 4)) = none :=
    badAt_eq_none fun i hi => decide_eq_false (Nat.not_le.mpr (hports i hi))
  simp only [cfgFieldBad, hmagic, hver, h6, hvalid, hC, h10, hwatt, h16, h22, hcfg, hostsBad_eq_none hhosts]
  rfl

section flash
variable {b : List Byte} (hb : s.Writes r b)
include hb

theorem State.flashChecks_pass {most : Nat} (hregion : r.u 0 1 ≤ 2) (hlen : r.u 4 4 ≤ most) : firstFail (s.flashChecks r most) = none := by
  have hfit : ¬(r.u 4 4 = 0 ∨ most < r.u 4 4) := by have := hb.some; omega
  simp only [State.flashChecks, firstFail, MbReq.zero, MbReq.wide, hb.zero, hb.wide, hb.part, hb.range, decide_eq_false hfit,
    decide_eq_false (Nat.not_lt.mpr hregion)]
  rfl

theorem State.flashRead_clean (go : State → List Byte → State) : s.flashRead m r go = go s b := by
  rw [State.flashRead, State.readHbm_clean hb.clean, ← hb.bytes]

theorem State.Writes.length : b.length = r.u 4 4 := by
  rw [hb.bytes, Hbm.length_readVa]

section firmware
variable (h : s.Asks m 0x000B r) (hregion : r.u 0 1 = 0) (hlen : r.u 4 4 ≤ 4 * 2 ^ 20)
include h hregion hlen

theorem flashWriteFirmware_stores (hgood : s.fuses.verify b = 1) (hslot : s.flash.badSlot s.writeSlot = false) :
    exec (.flashWriteFirmware m) s = .next (({ s with flash := { s.flash with
      slotA := if s.writeSlot then s.flash.slotA else b
      slotB := if s.writeSlot then b else s.flash.slotB
      activeB := s.writeSlot } } : State).answered m stOk 0 []) := by
  refine (State.mbRun_goes h (by rw [hregion]; rfl) rfl (State.flashChecks_pass hb (by rw [hregion]; decide) hlen)).trans ?_
  rw [State.flashRead_clean hb, if_neg (by simp [hgood, hslot])]
  rfl

theorem flashWriteFirmware_refuses (hbad : s.fuses.verify b ≠ 1 ∨ s.flash.badSlot s.writeSlot = true) :
    exec (.flashWriteFirmware m) s = .next (s.answered m stBadImage 0 []) := by
  refine (State.mbRun_goes h (by rw [hregion]; rfl) rfl (State.flashChecks_pass hb (by rw [hregion]; decide) hlen)).trans ?_
  rw [State.flashRead_clean hb, if_pos hbad.symm]
  rfl

end firmware

theorem flashWriteCalibration_stores (h : s.Asks m 0x000B r) (hregion : r.u 0 1 = 1) (hlen : r.u 4 4 ≤ 16 + 12 * 1024) (hvalid : calValid b = true)
    (hentries : ∀ i, i < fieldLE b 6 2 → calBad b i = none) :
    exec (.flashWriteCalibration m) s = .next (({ s with
      flash := { s.flash with userCal := b }, aon := { s.aon with retained := false } } : State).answered m stOk 0 []) := by
  refine (State.mbRun_goes h (by rw [hregion]; rfl) rfl (State.flashChecks_pass hb (by rw [hregion]; decide) hlen)).trans ?_
  rw [State.flashRead_clean hb]
  obtain ⟨hmagic, hver, hcount, hfit⟩ := calValid_fields hvalid
  have hbad : badAt (fieldLE b 6 2) (fun i => (calBad b i).isSome) = none := badAt_eq_none fun i hi => by rw [hentries i hi]; rfl
  have hroom : ¬(1024 < fieldLE b 6 2 ∨ b.length < 16 + 12 * fieldLE b 6 2) := by omega
  dsimp only
  rw [State.guarded_goes]
  · rfl
  · simp only [firstFail, hmagic, hver, hvalid, hbad, decide_eq_false hroom]
    rfl

theorem flashWriteConfig_stores (h : s.Asks m 0x000B r) (hregion : r.u 0 1 = 2) (hlen : r.u 4 4 = cfgBytes) (hgood : cfgFieldBad b = none) :
    exec (.flashWriteConfig m) s = .next (({ s with flash := { s.flash with config := b } } : State).answered m stOk 0 []) := by
  refine (State.mbRun_goes h (by rw [hregion]; rfl) rfl (State.flashChecks_pass hb hregion.le hlen.le)).trans ?_
  rw [State.flashRead_clean hb]
  dsimp only
  rw [State.guarded_goes]
  · rfl
  · rw [hb.length.trans hlen, hgood]
    rfl

end flash

end controls

/-- Settles O48: each control by its checks; the bytes of a FLASH_WRITE are read without errors (`State.flashRead_clean`). -/
theorem ownerControlsActOnTheModule : Obligations.OwnerControlsActOnTheModule := by
  unfold Obligations.OwnerControlsActOnTheModule
  intro s m r b at_ told c p reads w
  refine ⟨plCap_awaits, fun h hsettled hlow hhigh => ⟨sleep_enters h hsettled hlow hhigh, sleep_refused h hsettled hlow hhigh⟩,
    fun h => ⟨resetWarm_resets h, resetRetrain_resets h, islandReset_core h, islandReset_port h, islandReset_none h⟩,
    fun h hzero hwide hreads => ?_⟩
  obtain ⟨hpart, hsome, hrange, hclean, hbytes⟩ := hreads
  have hb : s.Writes r b := ⟨hzero, hwide, hpart, hsome, hrange, hclean, hbytes⟩
  refine ⟨fun hregion hlen => ⟨flashWriteFirmware_stores hb h hregion hlen, flashWriteFirmware_refuses hb h hregion hlen⟩,
    fun hregion hlen => flashWriteCalibration_stores hb h hregion hlen, fun hregion hlen hvalid h6 hC h10 hlow hhigh h16 h22 hports hhosts => ?_⟩
  exact flashWriteConfig_stores hb h hregion hlen (cfgFieldBad_eq_none hvalid h6 hC h10 hlow hhigh h16 h22 hports hhosts)

end Sys2Proof.Machine

/-! Streams and levels on request of a mailbox (14 R339, R342, R343) and MB_ABORT (R333). What a command does to a list of cores in turn is
one update per core (`State.eachCore`), so each core of the list without repeats is changed once (`State.core_eachCore_of_mem`) and no
other (`State.core_eachCore_of_notMem`). -/

namespace Sys2Proof.Machine

/-! ### A list of cores changed in turn -/

/-- Change for each element of a list the core that it names. -/
def State.eachCore {α : Type} (who : α → CoreId) (f : α → Core → Core) : List α → State → State
  | [], s => s
  | x :: xs, s => State.eachCore who f xs (s.modCore (who x) (f x))

section eachCore
variable {α : Type} {who : α → CoreId} {f : α → Core → Core}

theorem State.eachCore_eq (xs : List α) : ∀ s : State, s.eachCore who f xs = { s with cores := (s.eachCore who f xs).cores } := by
  induction xs with
  | nil => exact fun _ => rfl
  | cons x xs ih => exact fun s => ih _

theorem State.core_eachCore_of_notMem {c : CoreId} (xs : List α) (h : ∀ x ∈ xs, c ≠ who x) :
    ∀ s : State, (s.eachCore who f xs).core c = s.core c := by
  induction xs with
  | nil => exact fun _ => rfl
  | cons x xs ih =>
    obtain ⟨hx, hxs⟩ := List.forall_mem_cons.mp h
    exact fun s => (ih hxs _).trans (State.core_modCore_other _ _ _ _ hx)

theorem State.core_eachCore_of_mem {x : α} {xs : List α} (hnd : (xs.map who).Nodup) (hx : x ∈ xs) :
    ∀ s : State, (s.eachCore who f xs).core (who x) = f x (s.core (who x)) := by
  induction xs with
  | nil => exact absurd hx List.not_mem_nil
  | cons y ys ih =>
    obtain ⟨hy, hnd⟩ := List.nodup_cons.mp hnd
    intro s
    obtain rfl | hx := List.mem_cons.mp hx
    · have hys : ∀ z ∈ ys, who x ≠ who z := fun z hz e => hy (List.mem_map.mpr ⟨z, hz, e.symm⟩)
      exact (State.core_eachCore_of_notMem ys hys _).trans (State.core_modCore_same ..)
    · have hne : who x ≠ who y := fun e => hy (List.mem_map.mpr ⟨x, hx, e⟩)
      exact (ih hnd hx _).trans (congrArg (f x) (State.core_modCore_other _ _ _ _ hne))

/-- A list of the cores themselves. -/
theorem State.core_eachCore_id {f : CoreId → Core → Core} {l : List CoreId} (hnd : l.Nodup) (s : State) (c : CoreId) :
    (s.eachCore id f l).core c = if c ∈ l then f c (s.core c) else s.core c := by
  split
  next hc => exact State.core_eachCore_of_mem (who := id) (by rwa [List.map_id]) hc s
  next hc => exact State.core_eachCore_of_notMem l (fun x hx (e : c = x) => hc (e ▸ hx)) s

end eachCore

theorem nodup_allCores : allCores.Nodup := List.nodup_finRange 24

theorem MbReq.nodup_mask (r : MbReq) (o : Nat) : (r.mask o).Nodup := nodup_allCores.filter _

/-! ### STREAM_START -/

section start
variable {s : State} {m : MbId} {r : MbReq}

/-- The core that entry `i` names. -/
abbrev startCore (b : List Byte) (i : Nat) : CoreId := Fin.ofNat 24 (startEnt b i).1

/-- A core whose stream starts at the address of an entry. -/
def Core.started (k : Core) (e : Nat × Qid × BitVec 48) : Core :=
  { k with ctl := { k.ctl with stream := .running, pc := e.2.2, cq := e.2.1, ending := false } }

theorem State.startStreams_eq (b : List Byte) (is : List Nat) : ∀ s : State,
    s.startStreams b is = s.eachCore (startCore b) (fun i k => k.started (startEnt b i)) is := by
  induction is with
  | nil => exact fun _ => rfl
  | cons i is ih => exact fun s => ih _

/-- An entry that R342 lets pass names a core of the module, and none that an earlier entry names. -/
theorem State.startBad_distinct {p : PartId} {b : List Byte} {i : Nat} (h : s.startBad p b i = none) :
    (startEnt b i).1 < 24 ∧ ∀ j, j < i → (startEnt b j).1 ≠ (startEnt b i).1 := by
  unfold State.startBad at h
  dsimp only at h
  split at h
  · cases h
  next hcore =>
    obtain ⟨hlow, htwice⟩ := not_or.mp hcore
    exact ⟨Nat.not_le.mp hlow, by simpa using htwice⟩

theorem State.nodup_startCores {p : PartId} {b : List Byte} {n : Nat} (h : ∀ i, i < n → s.startBad p b i = none) :
    ((List.range n).map (startCore b)).Nodup := by
  refine List.Nodup.map_on (fun i hi j hj hcore => ?_) List.nodup_range
  obtain ⟨hilow, hine⟩ := State.startBad_distinct (h i (List.mem_range.mp hi))
  obtain ⟨hjlow, hjne⟩ := State.startBad_distinct (h j (List.mem_range.mp hj))
  have hnum : (startEnt b i).1 = (startEnt b j).1 := by
    have := congrArg Fin.val hcore
    simpa [startCore, Fin.ofNat, Nat.mod_eq_of_lt hilow, Nat.mod_eq_of_lt hjlow] using this
  obtain hlt | rfl | hgt := Nat.lt_trichotomy i j
  · exact absurd hnum (hjne i hlt)
  · rfl
  · exact absurd hnum.symm (hine j hgt)

section asks
variable (h : s.Asks m 0x0202 r) (hn : 1 ≤ r.u 0 1) (hzero : r.u 1 3 = 0) (hpart : s.partExists r.part = true)
  (hgood : ∀ i, i < r.u 0 1 → s.startBad r.part r.payload i = none)
include h hn hzero hpart hgood

theorem streamStart_starts (hlong : s.longRuns m r.part = false) (hmay : ∀ i, i < r.u 0 1 → s.mayStart r.part (startCore r.payload i) = true) :
    exec (.streamStart m) s = .next ((s.startStreams r.payload (List.range (r.u 0 1))).answered m stOk 0 []) := by
  refine State.mbRun_goes h rfl rfl ?_
  have hbad : badAt (r.u 0 1) (fun i => (s.startBad r.part r.payload i).isSome) = none :=
    badAt_eq_none fun i hi => by rw [hgood i hi]; rfl
  have hstuck : ((List.range (r.u 0 1)).find? fun i => !s.mayStart r.part (startCore r.payload i)) = none :=
    badAt_eq_none fun i hi => by rw [hmay i hi]; rfl
  simp only [firstFail, MbReq.zero, hbad, hstuck, hzero, hpart, hlong, decide_eq_false (Nat.not_lt.mpr hn)]
  rfl

theorem streamStart_refuses {i : Nat} (hi : i < r.u 0 1) (hruns : s.mayStart r.part (startCore r.payload i) = false)
    (hfirst : ∀ j, j < i → s.mayStart r.part (startCore r.payload j) = true) :
    exec (.streamStart m) s = .next (s.answered m stState (startEnt r.payload i).1 []) := by
  refine State.mbRun_fails h rfl rfl ?_
  have hbad : badAt (r.u 0 1) (fun i => (s.startBad r.part r.payload i).isSome) = none :=
    badAt_eq_none fun i hi => by rw [hgood i hi]; rfl
  have hstuck : ((List.range (r.u 0 1)).find? fun i => !s.mayStart r.part (startCore r.payload i)) = some i :=
    badAt_eq_some hi (by rw [hruns]; rfl) fun j hj => by rw [hfirst j hj]; rfl
  simp only [firstFail, MbReq.zero, hbad, hstuck, hzero, hpart, decide_eq_false (Nat.not_lt.mpr hn)]
  rfl

end asks

end start

/-! ### STREAM_CANCEL and PL_REQUEST -/

section levels
variable {s : State} {m : MbId} {r : MbReq}

theorem State.cancel_checks (hpart : s.partExists r.part = true) (hmask : r.u 0 4 < 2 ^ 24) (l : List CoreId) :
    firstFail [(decide (2 ^ 24 ≤ r.u 0 4), stBadField, 0), (!s.partExists r.part, stNotFound, 0), (l.isEmpty, stAlreadyDone, 0)] =
      if l = [] then some (stAlreadyDone, 0) else none := by
  simp only [firstFail, hpart, decide_eq_false (Nat.not_le.mpr hmask), Bool.not_true, Bool.false_eq_true, if_false, List.isEmpty_iff]

theorem State.grantCores_eq (g : Nat) (cs : List CoreId) : ∀ s : State,
    s.grantCores g cs = s.eachCore id (fun _ k => { k with granted := BitVec.ofNat 3 g }) cs := by
  induction cs with
  | nil => exact fun _ => rfl
  | cons c cs ih => exact fun s => ih _

theorem State.level_checks (hpart : s.partExists r.part = true) (hmask : r.u 0 4 < 2 ^ 24) (hlevel : r.u 4 1 ≤ 5) (foreign : Bool) :
    firstFail [(decide (2 ^ 24 ≤ r.u 0 4), stBadField, 0), (decide (5 < r.u 4 1), stBadField, 4), (!s.partExists r.part, stNotFound, 0),
      (foreign, stAccess, 0)] = if foreign then some (stAccess, 0) else none := by
  simp only [firstFail, hpart, decide_eq_false (Nat.not_le.mpr hmask), decide_eq_false (Nat.not_lt.mpr hlevel), Bool.not_true,
    Bool.false_eq_true, if_false]

end levels

/-! ### MB_ABORT -/

section abort
variable {s : State} {m t : MbId} {seq : Nat}

theorem State.abortRequest_waiting {q : MbReq} (hother : t ≠ m) (hbusy : (s.mb t).busy = some q) (hseq : q.seq.toNat = seq)
    (hcommit : q.committed = false) : s.abortRequest m t seq = (s.respond t stAborted 0 []).respond m stOk 0 [] := by
  simp [State.abortRequest, hbusy, hseq, hother, hcommit]

theorem State.abortRequest_committed {q : MbReq} (hbusy : (s.mb t).busy = some q) (hseq : q.seq.toNat = seq)
    (hcommit : t = m ∨ q.committed = true) : s.abortRequest m t seq = s.respond m stAlreadyDone 0 [] := by
  rw [State.abortRequest, hbusy]
  dsimp only
  rw [if_pos hseq, if_pos hcommit]

theorem State.abortRequest_completed (hbusy : (s.mb t).busy = none) (hseq : (s.mb t).lseq.toNat = seq) :
    s.abortRequest m t seq = s.respond m stAlreadyDone 0 [] := by
  rw [State.abortRequest, hbusy]
  exact if_pos hseq

theorem State.abortRequest_unknown (hbusy : (s.mb t).busy = none) (hseq : (s.mb t).lseq.toNat ≠ seq) :
    s.abortRequest m t seq = s.respond m stNotFound 0 [] := by
  rw [State.abortRequest, hbusy]
  exact if_neg hseq

variable {r : MbReq} (h : s.Asks m 0x0001 r) (hmb : r.u 0 1 < 16) (hzero : r.u 1 1 = 0)
include h hmb hzero

theorem mbAbort_denied (hmay : s.mayAbort m (Fin.ofNat 16 (r.u 0 1)) = false) :
    exec (.mbAbort m) s = .next (s.answered m stAccess 0 []) := by
  refine State.mbRun_fails h rfl rfl ?_
  simp only [firstFail, MbReq.zero, hzero, hmay, decide_eq_false (Nat.not_le.mpr hmb)]
  rfl

theorem mbAbort_decides (hmay : s.mayAbort m (Fin.ofNat 16 (r.u 0 1)) = true) :
    exec (.mbAbort m) s = .next (s.abortRequest m (Fin.ofNat 16 (r.u 0 1)) (r.u 2 2)).settle := by
  refine State.mbRun_goes h rfl rfl ?_
  simp only [firstFail, MbReq.zero, hzero, hmay, decide_eq_false (Nat.not_le.mpr hmb)]
  rfl

end abort

/-- An undefined code is answered whatever objects other requests hold. -/
theorem badCommand_answers {s : State} {m : MbId} {r : MbReq} (hbusy : (s.mb m).busy = some r) (hwait : r.wait = none)
    (hclass : mbClass r.cmd.toNat r.payload = none) : exec (.badCommand m) s = .next (s.answered m stBadCommand 0 []) := by
  show execBadCommand m s = _
  rw [execBadCommand, hbusy]
  simp only [hclass, hwait]
  rfl

/-- Settles O52: each command by its checks; what STREAM_START and PL_REQUEST do to the named cores is one update of each. -/
theorem streamsStartAndStop : Obligations.StreamsStartAndStop := by
  unfold Obligations.StreamsStartAndStop
  intro s m r p at_ ent who named running g x
  refine ⟨fun h hn hzero hpart hlong hgood => ⟨fun hmay => ?_, fun i hi hruns hfirst => ?_⟩,
    fun h hpart hmask => ⟨fun hnone => ?_, fun hsome => ?_⟩,
    fun h hpart hmask hlevel => ⟨fun hown => ?_, fun hforeign => ?_⟩,
    fun h hmb hzero => ⟨mbAbort_denied h hmb hzero, fun hmay => ?_⟩, badCommand_answers⟩
  · refine ⟨_, streamStart_starts h hn hzero hpart hgood hlong hmay, fun i hi => ?_, fun c hc => ?_, ?_⟩
    · rw [State.startStreams_eq]
      exact State.core_eachCore_of_mem (State.nodup_startCores hgood) (List.mem_range.mpr hi) s
    · rw [State.startStreams_eq]
      exact State.core_eachCore_of_notMem _ (fun i hi => hc i (List.mem_range.mp hi)) s
    · rw [State.startStreams_eq]
      exact State.eachCore_eq _ s
  · exact streamStart_refuses h hn hzero hpart hgood hi hruns hfirst
  · exact State.mbRun_fails h rfl rfl ((State.cancel_checks hpart hmask running).trans (if_pos hnone))
  · exact State.mbRun_goes h rfl rfl ((State.cancel_checks hpart hmask running).trans (if_neg hsome))
  · refine ⟨s.grantCores g named, ?_, fun c => ?_, ?_⟩
    · refine State.mbRun_goes h rfl rfl ((State.level_checks hpart hmask hlevel _).trans (if_neg ?_))
      rw [Bool.not_eq_true, List.any_eq_false]
      exact fun c hc => by rw [hown c hc, bne_self_eq_false]; exact Bool.false_ne_true
    · rw [State.grantCores_eq]
      exact State.core_eachCore_id (r.nodup_mask 0) s c
    · rw [State.grantCores_eq]
      exact State.eachCore_eq _ s
  · refine State.mbRun_fails h rfl rfl ((State.level_checks hpart hmask hlevel _).trans (if_pos ?_))
    obtain ⟨c, hc, hother⟩ := hforeign
    exact List.any_eq_true.mpr ⟨c, hc, bne_iff_ne.mpr hother⟩
  · have hdecide := mbAbort_decides h hmb hzero hmay
    refine ⟨fun q hother hbusy hseq hcommit => ?_, fun q hbusy hseq hcommit => ?_, fun hbusy hseq => ?_, fun hbusy hseq => ?_⟩
    · exact hdecide.trans (next_settle_congr (State.abortRequest_waiting hother hbusy hseq hcommit))
    · exact hdecide.trans (next_settle_congr (State.abortRequest_committed hbusy hseq hcommit))
    · exact hdecide.trans (next_settle_congr (State.abortRequest_completed hbusy hseq))
    · exact hdecide.trans (next_settle_congr (State.abortRequest_unknown hbusy hseq))

end Sys2Proof.Machine

/-! The reading commands (14 R345, R348, Table 14.8, 09 R217, 16 R378, R384, 18 R409). -/

namespace Sys2Proof.Machine

section reads
variable {s : State} {m : MbId} {r : MbReq}

theorem counterRead_answers (h : s.Asks m 0x0208 r) (hgroup : r.u 0 1 ≤ 8) (hall : r.u 1 1 ≤ 1) (hindex : indexBad (r.u 0 1) (r.u 2 2) = false)
    (hpart : r.u 0 1 ≤ 5 → s.partExists r.part = true)
    (hown : r.u 0 1 = 0 → r.u 1 1 = 0 → (s.core (Fin.ofNat 24 (r.u 2 2))).part = some r.part) :
    exec (.counterRead m) s = .next ((s.readGroup r).2.answered m stOk 0 (bytes8 (s.readGroup r).1)) := by
  refine State.mbRun_goes h rfl rfl ?_
  have hexists : (decide (r.u 0 1 ≤ 5) && !s.partExists r.part) = false := by
    by_cases hlow : r.u 0 1 ≤ 5
    · rw [hpart hlow]
      exact Bool.and_false _
    · rw [decide_eq_false hlow]
      rfl
  have hmine : (r.u 0 1 == 0 && r.u 1 1 == 0 && (s.core (Fin.ofNat 24 (r.u 2 2))).part != some r.part) = false := by
    by_cases hone : r.u 0 1 = 0 ∧ r.u 1 1 = 0
    · rw [hown hone.1 hone.2, bne_self_eq_false, Bool.and_false]
    · have hother : (r.u 0 1 == 0 && r.u 1 1 == 0) = false := by simpa using hone
      rw [hother]
      rfl
  simp only [firstFail, hexists, hmine, hindex, decide_eq_false (Nat.not_lt.mpr hgroup), decide_eq_false (Nat.not_lt.mpr hall),
    Bool.false_and, Bool.false_eq_true, if_false]

theorem stepLogRead_answers (h : s.Asks m 0x0209 r) (hpart : s.partExists r.part = true) : exec (.stepLogRead m) s =
    .next (s.answered m stOk 0 (padTo 512 ((s.part r.part).ue.steps.flatMap UeStep.bytes))) :=
  State.mbRun_goes h rfl rfl (by rw [hpart]; rfl)

/-- The status of a partition as PART_STATUS returns it (Table 14.8). -/
def State.partStatusBytes (s : State) (p : PartId) : List Byte :=
  bytesLE 1 (s.isRt p).toNat ++ bytesLE 1 0 ++ bytesLE 2 (((s.part p).fault.map fun f => f.2.toNat).getD 0) ++
    bytesLE 4 (((s.openStep p).map BitVec.toNat).getD s.freeVal) ++
    allCores.flatMap fun c => bytesLE 1 (if (s.core c).part = some p then (s.core c).ctl.stream.code else 0xFF)

theorem partStatus_answers (h : s.Asks m 0x020D r) (hpart : s.partExists r.part = true) :
    exec (.partStatus m) s = .next (s.freeNext.answered m stOk 0 (s.partStatusBytes r.part)) := by
  refine State.mbRun_goes (go := s.freeNext.respond m stOk 0 (s.partStatusBytes r.part)) (checks := [(!s.partExists r.part, stNotFound, 0)])
    h rfl ?_ (by rw [hpart]; rfl)
  dsimp only
  unfold State.partStatusBytes
  cases (s.part r.part).fault <;> cases s.openStep r.part <;> rfl

/-- The ring that EVENT_READ reads: the trace where bit 15 of its maximum is set, else the event log (16 R384). -/
def State.ringOf (s : State) (trace : Bool) : List (BitVec 32 × List Byte) :=
  if trace then s.reg.logs.trace.map (fun t => (t.seq, t.bytes)) else s.reg.logs.events.map fun e => (e.seq, e.bytes)

/-- What EVENT_READ finds: NEXT, OLDEST and the entries. -/
def State.ringGot (s : State) (r : MbReq) : BitVec 32 × BitVec 32 × List (BitVec 32 × List Byte) :=
  let trace := (r.u 4 2).testBit 15
  ringRead (s.ringOf trace) (if trace then s.reg.logs.traceSeq else s.reg.logs.nextSeq) (BitVec.ofNat 32 (r.u 0 4)) (r.u 4 2 % 2 ^ 15) s.freeVal

/-- The entries before NEXT are passed for ALERT_N. -/
def State.passedTo (s : State) (n : BitVec 32) : State := s.modReg fun q => { q with logs := { q.logs with ownerRead := n } }

/-- The read passes entries: one of the event log, from a mailbox with O authority, that returns entries not yet passed (18 R419). -/
abbrev State.eventPasses (s : State) (m : MbId) (r : MbReq) : Prop :=
  (r.u 4 2).testBit 15 = false ∧ s.hasOwner m = true ∧ (s.ringGot r).2.2 ≠ [] ∧ before32 s.reg.logs.ownerRead (s.ringGot r).1 = true

theorem eventRead_answers (h : s.Asks m 0x0302 r) (u : State) (hu : u = if s.eventPasses m r then s.passedTo (s.ringGot r).1 else s) :
    exec (.eventRead m) s = .next (u.freeNext.answered m stOk 0
      (bytesLE 4 (s.ringGot r).1.toNat ++ bytesLE 4 (s.ringGot r).2.1.toNat ++
        bytesLE 4 (if (r.u 4 2).testBit 15 then 0 else s.reg.logs.lostcnt) ++ bytesLE 2 (s.ringGot r).2.2.length ++ bytesLE 2 0 ++
        (s.ringGot r).2.2.flatMap (·.2))) := by
  refine (State.mbRun_asks h rfl _).trans ?_
  have hgot : (if (r.u 4 2).testBit 15 then
        ringRead (s.reg.logs.trace.map fun t => (t.seq, t.bytes)) s.reg.logs.traceSeq (BitVec.ofNat 32 (r.u 0 4)) (r.u 4 2 % 2 ^ 15) s.freeVal
      else ringRead (s.reg.logs.events.map fun e => (e.seq, e.bytes)) s.reg.logs.nextSeq (BitVec.ofNat 32 (r.u 0 4)) (r.u 4 2 % 2 ^ 15) s.freeVal) =
      s.ringGot r := by
    unfold State.ringGot State.ringOf
    dsimp only
    cases (r.u 4 2).testBit 15 <;> rfl
  have hpasses : s.eventPasses m r ↔ (!(r.u 4 2).testBit 15 && s.hasOwner m && !(s.ringGot r).2.2.isEmpty &&
      before32 s.reg.logs.ownerRead (s.ringGot r).1) = true := by
    simp [State.eventPasses, and_assoc]
  dsimp only
  rw [hgot, hu, if_congr hpasses rfl rfl]
  rfl

theorem State.free_telemetryClear (s : State) (k : Nat) : (s.telemetryClear k).free = s.free := by
  unfold State.telemetryClear
  split <;> rfl

theorem telemetryRead_answers (h : s.Asks m 0x0303 r) (hset : r.u 0 1 ≤ 4) (u : State)
    (hu : u = if s.hasOwner m then s.telemetryClear (r.u 0 1) else s) :
    exec (.telemetryRead m) s = .next (({ u with free := s.free + 256 } : State).answered m stOk 0 (s.telemetrySet (r.u 0 1))) := by
  have hfree : u.free = s.free := by
    rw [hu]
    split
    · exact s.free_telemetryClear _
    · rfl
  refine State.mbRun_goes (checks := [(decide (4 < r.u 0 1), stBadField, 0)]) h rfl ?_
    (by rw [decide_eq_false (Nat.not_lt.mpr hset)]; rfl)
  rw [← hfree, hu]

theorem fruRead_answers (h : s.Asks m 0x0304 r) (hlen : r.u 2 2 ≤ 4064) :
    exec (.fruRead m) s = .next (s.answered m stOk 0 (padTo (r.u 2 2) (s.fuses.fru.drop (r.u 0 2)))) :=
  State.mbRun_goes h rfl rfl (by simp only [firstFail, decide_eq_false (Nat.not_lt.mpr hlen), Bool.false_eq_true, if_false])

/-- The nonce that ATTEST carries. -/
def MbReq.nonce (r : MbReq) : List Byte := padTo 32 (r.payload.take 32)

/-- The report is kept for its nonce. -/
def State.reported (s : State) (nonce b : List Byte) : State := s.modReg fun g => { g with report := some (nonce, b) }

/-- The report of a nonce with the state left: the last one where it has that nonce, else a new one. -/
def State.reportFor (s : State) (nonce : List Byte) : List Byte × State := match s.reg.report with
  | some k => if k.1 = nonce then (k.2, s) else (s.report nonce, s.freeNext.freeNext)
  | none => (s.report nonce, s.freeNext.freeNext)

theorem State.reportFor_kept {nonce b : List Byte} (h : s.reg.report = some (nonce, b)) : s.reportFor nonce = (b, s) := by
  rw [State.reportFor, h]
  exact if_pos rfl

theorem State.reportFor_new {nonce : List Byte} (h : ∀ b, s.reg.report ≠ some (nonce, b)) :
    s.reportFor nonce = (s.report nonce, s.freeNext.freeNext) := by
  unfold State.reportFor
  split
  next k hk => exact if_neg fun e => h k.2 (by rw [hk, ← e])
  next => rfl

theorem State.reported_kept {nonce b : List Byte} (h : s.reg.report = some (nonce, b)) : s.reported nonce b = s := by
  unfold State.reported State.modReg
  rw [← h]

theorem attest_answers (h : s.Asks m 0x0305 r) (hofs : r.u 32 4 ≤ 17440) {b : List Byte} {u : State} (hx : s.reportFor r.nonce = (b, u)) :
    exec (.attest m) s = .next ((u.reported r.nonce b).answered m stOk 0
      (bytesLE 4 17440 ++ bytesLE 4 (r.u 32 4) ++ (b.drop (r.u 32 4)).take 4056)) := by
  have hb : (s.reportFor r.nonce).1 = b := congrArg Prod.fst hx
  have hu : (s.reportFor r.nonce).2 = u := congrArg Prod.snd hx
  rw [← hb, ← hu]
  refine State.mbRun_goes h rfl rfl ?_
  simp only [firstFail, decide_eq_false (Nat.not_lt.mpr hofs), Bool.false_eq_true, if_false]

end reads

/-- Settles O54: every reading command passes its checks and answers with what it reads; what it clears is the state that it answers from. -/
theorem readsReturnAndClearWhatTheySay : Obligations.ReadsReturnAndClearWhatTheySay := by
  unfold Obligations.ReadsReturnAndClearWhatTheySay
  intro s m r p at_ ok free trace ring got passes nonce
  refine ⟨counterRead_answers, stepLogRead_answers, partStatus_answers, fun h => State.mbRun_asks h rfl _,
    fun h => ⟨_, eventRead_answers h _ rfl, fun hpass => ?_, fun hpass => ?_⟩,
    fun h hset => ⟨fun hdenied => ?_, fun howner => ?_⟩, fruRead_answers, fun h hofs => ⟨fun b hb => ?_, fun hnew => ?_⟩⟩
  · rw [if_pos (show s.eventPasses m r from hpass)]
    rfl
  · rw [if_neg (show ¬s.eventPasses m r from hpass)]
    rfl
  · exact telemetryRead_answers h hset s (by rw [hdenied]; rfl)
  · exact telemetryRead_answers h hset _ (by rw [howner]; rfl)
  · have hexec := attest_answers h hofs (State.reportFor_kept hb)
    rw [State.reported_kept (nonce := r.nonce) hb] at hexec
    exact hexec
  · have hexec := attest_answers h hofs (State.reportFor_new hnew)
    exact hexec

end Sys2Proof.Machine

/-! Audit, checkpoint and restore (14 R346, R347, 13 R319). Where no codeword holds an error every range reads as its bytes and every write
lands whole, so a local image is read, copied and written as it stands; where the buddy is elsewhere a request goes out for what is there. -/

namespace Sys2Proof.Machine

section images
variable {s : State} {m : MbId} {r : MbReq} {p : PartId}

/-! ### Reads and writes without errors -/

theorem State.readMany_clean (hecc : s.hbm.ecc = []) (p : PartId) (l : List (Nat × Nat)) :
    s.readMany p l = (some (l.map fun x => s.hbm.readVa (s.part p) x.1 x.2), s) := by
  induction l with
  | nil => rfl
  | cons x xs ih =>
    rw [State.readMany, State.readHbm_clean hecc]
    dsimp only
    rw [ih]
    rfl

theorem State.withHeaders_clean (hecc : s.hbm.ecc = []) (bva len : Nat) (go : State → List Byte → List Byte → State) :
    s.withHeaders m p bva len go = go s (s.hbm.readVa (s.part p) bva 32) (s.hbm.readVa (s.part p) (bva + len) 32) := by
  rw [State.withHeaders, State.readMany_clean hecc]
  rfl

/-- The bytes that a checkpoint copies. -/
def State.copyBytes (s : State) (p : PartId) : List Byte := ((s.copyRuns p).map fun x => s.hbm.readVa (s.part p) x.1 x.2).flatten

theorem State.withCopy_clean (hecc : s.hbm.ecc = []) (go : State → List Byte → State) : s.withCopy m p go = go s (s.copyBytes p) := by
  rw [State.withCopy, State.readMany_clean hecc]
  rfl

/-- An image is its header and what is copied. -/
theorem State.length_copyBytes (s : State) (p : PartId) : 32 + (s.copyBytes p).length = s.imageBytes p := by
  simp [State.copyBytes, State.imageBytes, List.length_flatten, Function.comp_def, Hbm.length_readVa]

theorem State.writeImage_clean (hecc : s.hbm.ecc = []) (at_ step img : Nat) (data : List Byte) :
    s.writeImage m p at_ step img data = ({ s with
      hbm := (s.hbm.writeVa (s.part p) [] (at_ + 32) data).writeVa (s.part p) [] at_ (s.imageHeader p step) } : State).respond m stOk 0
        (imageReply img (32 + data.length)) := by
  rw [State.writeImage, State.writeHbm_clean hecc]
  dsimp only
  rw [State.writeHbm_clean ((Hbm.writeVa_ecc ..).trans hecc)]
  rfl

/-- The image that RESTORE reads on this module: the first where its header is of the step, else the second. -/
def State.ownImage (s : State) (p : PartId) (bva len step : Nat) : List Byte :=
  let h0 := s.hbm.readVa (s.part p) bva 32
  s.hbm.readVa (s.part p) (bva + (if s.headerOurs p h0 && fieldLE h0 0 4 == step then 0 else 1) * len) (min len (s.imageBytes p))

theorem State.withImage_clean (hecc : s.hbm.ecc = []) (bva len step : Nat) (go : State → List Byte → State) :
    s.withImage m p bva len step go = go s (s.ownImage p bva len step) := by
  rw [State.withImage, State.withHeaders_clean hecc]
  dsimp only
  rw [State.readHbm_clean hecc]
  rfl

/-! ### AUDIT_STATE -/

/-- The super-blocks that an audit names. -/
def State.auditList (s : State) (r : MbReq) : List (Nat × Nat × List (Nat × Nat)) :=
  auditSbs (s.isCompact r.part) (r.u 2 2) (((s.part r.part).ue.shards.drop (r.u 2 2)).take (r.u 4 2))

/-- The length of the range whose digest an audit returns. -/
def MbReq.auditLen (r : MbReq) : Nat := if (r.u 0 1).testBit 1 then r.u 0x10 8 else 0

/-- The ranges that an audit reads. -/
def State.auditReads (s : State) (r : MbReq) : List (Nat × Nat) :=
  (s.auditList r).flatMap (fun e => e.2.2.map fun t => (t.2, 2112)) ++ [(r.u 8 6, r.auditLen)]

/-- What an audit returns of the bytes it has read. -/
def State.auditReply (s : State) (r : MbReq) (bs : List (List Byte)) : List Byte :=
  (if (r.u 0 1).testBit 0 then auditAll Audit.none (s.auditList r) bs else Audit.none).bytes
    (if (r.u 0 1).testBit 1 then sha384 (digestBytes (r.u 1 1) (s.auditList r) bs) else [])
    (if r.auditLen = 0 then [] else sha384 (bs.getLastD []))

/-- Every range of a list passes its check under a right. -/
theorem any_checkRange_false {q : Partition} {w : Right} {l : List (Nat × Nat)} (h : ∀ x ∈ l, q.checkRange x.1 x.2 w = none) :
    (l.any fun x => (q.checkRange x.1 x.2 w).isSome) = false := by
  simpa using h

theorem auditState_answers (h : s.Asks m 0x020A r) (hpart : s.partExists r.part = true) (hlong : s.longRuns m r.part = false)
    (hmode : r.u 0 1 ≤ 3) (hmask : r.u 1 1 ≤ 15) (hzero : r.u 6 2 = 0) (hwide : r.u 14 2 = 0)
    (hshards : r.u 4 2 = 0 ∨ r.u 2 2 + r.u 4 2 ≤ (s.part r.part).ue.shards.length) (halign : r.u 8 6 % 32 = 0)
    (hquiet : s.noneRunning r.part = true) (hread : ∀ x ∈ s.auditReads r, (s.part r.part).checkRange x.1 x.2 .r = none) (hecc : s.hbm.ecc = []) :
    exec (.auditState m) s = .next (s.answered m stOk 0
      (s.auditReply r ((s.auditReads r).map fun x => s.hbm.readVa (s.part r.part) x.1 x.2))) := by
  have hfirst : (r.u 4 2 != 0 && decide ((s.part r.part).ue.shards.length ≤ r.u 2 2)) = false := by
    simp only [Bool.and_eq_false_iff, bne_eq_false_iff_eq, decide_eq_false_iff_not]
    omega
  have hall : (r.u 4 2 != 0 && decide ((s.part r.part).ue.shards.length < r.u 2 2 + r.u 4 2)) = false := by
    simp only [Bool.and_eq_false_iff, bne_eq_false_iff_eq, decide_eq_false_iff_not]
    omega
  have haccess := any_checkRange_false hread
  unfold State.auditReads State.auditList MbReq.auditLen at haccess
  refine (State.mbRun_goes h rfl rfl ?_).trans ?_
  · simp only [firstFail, MbReq.zero, MbReq.wide, hpart, hlong, hzero, hwide, halign, hquiet, hfirst, hall, haccess,
      decide_eq_false (Nat.not_lt.mpr hmode), decide_eq_false (Nat.not_lt.mpr hmask)]
    rfl
  · rw [State.readMany_clean hecc]
    rfl

/-! ### The checks of CHECKPOINT and RESTORE -/

/-- The payload of a CHECKPOINT or RESTORE is of the right form. -/
abbrev MbReq.ImageForm (r : MbReq) : Prop := r.u 4 2 < 2 ^ 14 ∧ r.u 6 2 = 0 ∧ r.u 14 2 = 0

/-- The module that a request names as the buddy. -/
abbrev MbReq.buddy (r : MbReq) : BitVec 14 := BitVec.ofNat 14 (r.u 4 2)

section checks
variable (hpart : s.partExists r.part = true) (hlong : s.longRuns m r.part = false) (hform : r.ImageForm)
include hpart hlong hform

theorem State.imageChecks_pass (hthere : s.eng.lostMods.contains r.buddy = false) : firstFail (s.imageChecks m r) = none := by
  obtain ⟨hid, hzero, hwide⟩ := hform
  simp only [State.imageChecks, firstFail, MbReq.zero, MbReq.wide, hpart, hlong, hzero, hwide, hthere, decide_eq_false (Nat.not_le.mpr hid)]
  rfl

theorem State.imageChecks_lost (hlost : s.eng.lostMods.contains r.buddy = true) : firstFail (s.imageChecks m r) = some (stPeerLost, 0) := by
  obtain ⟨hid, hzero, hwide⟩ := hform
  simp only [State.imageChecks, firstFail, MbReq.zero, MbReq.wide, hpart, hlong, hzero, hwide, hlost, decide_eq_false (Nat.not_le.mpr hid)]
  rfl

end checks

/-! ### CHECKPOINT -/

/-- The step has closed and not been aborted, and an image of it fits and can be read without errors. -/
structure State.Copies (s : State) (r : MbReq) : Prop where
  closed : (s.part r.part).ue.hasClosed (BitVec.ofNat 32 (r.u 0 4)) = true
  whole : (s.part r.part).ue.wasAborted (BitVec.ofNat 32 (r.u 0 4)) = false
  fits : s.imageBytes r.part ≤ r.u 16 8
  readable : ∀ x ∈ s.copyRuns r.part, (s.part r.part).checkRange x.1 x.2 .pr = none
  clean : s.hbm.ecc = []

section checkpoint
variable (h : s.Asks m 0x020B r) (hpart : s.partExists r.part = true) (hlong : s.longRuns m r.part = false) (hform : r.ImageForm)
include h hpart hlong hform

theorem checkpoint_lost (hlost : s.eng.lostMods.contains r.buddy = true) : exec (.checkpoint m) s = .next (s.answered m stPeerLost 0 []) :=
  State.mbRun_fails h rfl rfl (State.imageChecks_lost hpart hlong hform hlost)

variable (hthere : s.eng.lostMods.contains r.buddy = false)
include hthere

theorem checkpoint_open (hopen : (s.part r.part).ue.hasClosed (BitVec.ofNat 32 (r.u 0 4)) = false) :
    exec (.checkpoint m) s = .next (s.setCopy m .closing).settle := by
  refine (State.mbRun_goes h rfl rfl (State.imageChecks_pass hpart hlong hform hthere)).trans ?_
  rw [hopen]
  rfl

section closed
variable (hc : s.Copies r)
include hc

theorem checkpoint_self (hself : r.u 4 2 = s.moduleId.toNat) (hwrite : (s.part r.part).checkRange (r.u 8 6) (2 * r.u 16 8) .pw = none) {img : Nat}
    (himg : img = s.olderImage r.part (s.hbm.readVa (s.part r.part) (r.u 8 6) 32) (s.hbm.readVa (s.part r.part) (r.u 8 6 + r.u 16 8) 32)) :
    exec (.checkpoint m) s = .next (({ s with
      hbm := (s.hbm.writeVa (s.part r.part) [] (r.u 8 6 + img * r.u 16 8 + 32) (s.copyBytes r.part)).writeVa (s.part r.part) []
        (r.u 8 6 + img * r.u 16 8) (s.imageHeader r.part (r.u 0 4)) } : State).answered m stOk 0 (imageReply img (s.imageBytes r.part))) := by
  refine (State.mbRun_goes h rfl rfl (State.imageChecks_pass hpart hlong hform hthere)).trans ?_
  have hread := any_checkRange_false hc.readable
  rw [hc.closed, Bool.not_true, if_neg Bool.false_ne_true, decide_eq_true hself, if_pos rfl, State.guarded_goes,
    State.withHeaders_clean hc.clean, ← himg, State.withCopy_clean hc.clean, State.writeImage_clean hc.clean, State.length_copyBytes]
  · rfl
  · simp only [firstFail, hc.whole, hread, hwrite, decide_eq_false (Nat.not_lt.mpr hc.fits)]
    rfl

/-- With the buddy elsewhere a closed step's checkpoint comes to the headers there. -/
theorem checkpoint_far (hself : ¬r.u 4 2 = s.moduleId.toNat) : exec (.checkpoint m) s = .next (s.withFarHeaders m r fun h0 h1 =>
      s.sendImage m r.part r.buddy (r.u 8 6 + s.olderImage r.part h0 h1 * r.u 16 8) (r.u 0 4) (s.olderImage r.part h0 h1)
        (s.copyBytes r.part)).settle := by
  refine (State.mbRun_goes h rfl rfl (State.imageChecks_pass hpart hlong hform hthere)).trans ?_
  have hread := any_checkRange_false hc.readable
  rw [hc.closed, Bool.not_true, if_neg Bool.false_ne_true, decide_eq_false hself, if_neg Bool.false_ne_true, State.guarded_goes]
  · simp only [State.withCopy_clean hc.clean]
  · simp only [firstFail, hc.whole, hread, decide_eq_false (Nat.not_lt.mpr hc.fits)]
    rfl

end closed

end checkpoint

/-! ### The headers of a buddy elsewhere -/

section far
variable {go : List Byte → List Byte → State} {i : Nat} {k : BitVec 32} {hs : List (Nat × List Byte)}

/-- The answers of a buddy hold the headers of both its images. -/
abbrev bothHeaders (hs : List (Nat × List Byte)) (a b : List Byte) : Prop :=
  (hs.find? (·.1 == 0)).map (·.2) = some a ∧ (hs.find? (·.1 == 1)).map (·.2) = some b

theorem State.withFarHeaders_asks (h : ∀ i k hs, r.copy ≠ .probe i k hs) : s.withFarHeaders m r go = s.askImages m r.part r.buddy
    [(0, r.u 8 6, 32), (1, r.u 8 6 + r.u 16 8, 32)] fun i k => .probe i k [] := by
  unfold State.withFarHeaders
  dsimp only
  split
  next hcopy => exact absurd hcopy (h _ _ _)
  next => rfl

section probing
variable (hcopy : r.copy = .probe i k hs)
include hcopy

theorem State.withFarHeaders_lost (hgone : s.sess i = none) : s.withFarHeaders m r go = s.respond m stPeerLost 0 [] := by
  rw [State.withFarHeaders, hcopy]
  dsimp only
  rw [hgone]
  rfl

theorem State.withFarHeaders_goes (hsess : (s.sess i).isSome = true) {a b : List Byte} (hboth : bothHeaders hs a b) :
    s.withFarHeaders m r go = go a b := by
  obtain ⟨ha, hb⟩ := hboth
  obtain ⟨x, hx, rfl⟩ := Option.map_eq_some_iff.mp ha
  obtain ⟨y, hy, rfl⟩ := Option.map_eq_some_iff.mp hb
  rw [State.withFarHeaders, hcopy]
  dsimp only
  rw [hx, hy, if_neg (by simpa using Option.isSome_iff_ne_none.mp hsess)]

theorem State.withFarHeaders_waits (hsess : (s.sess i).isSome = true) (hnot : ∀ a b, ¬bothHeaders hs a b) :
    s.withFarHeaders m r go = s := by
  rw [State.withFarHeaders, hcopy]
  dsimp only
  rw [if_neg (by simpa using Option.isSome_iff_ne_none.mp hsess)]
  split
  next a b ha hb => exact absurd ⟨by rw [ha]; rfl, by rw [hb]; rfl⟩ (hnot a.2 b.2)
  next => rfl

end probing

end far

/-! ### RESTORE -/

/-- What RESTORE leaves of a partition's update engine: no records, what it had staged and known gone, the norms and SEEDs of later steps
gone, and the step recorded for every super-block (R347, logs 37, 48). -/
def UpdEng.restored (e : UpdEng) (step : BitVec 32) : UpdEng := { e with
  steps := [], begun := none, recStep := [], staged := [], known := [], seeds := e.seeds.filter fun k => !before32 step k.step
  norm2 := e.norm2.filter fun n => !before32 step n.1, allRec := some step }

section restoreFrom
variable {step : Nat} {b : List Byte}

theorem State.restoreFrom_other (h : s.headerOurs p b = false ∨ fieldLE b 0 4 ≠ step) :
    s.restoreFrom m p step b = s.respond m stNotFound 0 [] := by
  have hother : (!s.headerOurs p b || fieldLE b 0 4 != step) = true := by simpa using h
  exact State.guarded_fails (by rw [hother]; rfl)

theorem State.restoreFrom_writes (hours : s.headerOurs p b = true) (hstep : fieldLE b 0 4 = step)
    (hwrite : ∀ x ∈ s.copyRuns p, (s.part p).checkRange x.1 x.2 .w = none) (hlands : (s.writeTensors p (s.copyRuns p) (b.drop 32)).1 = true) :
    s.restoreFrom m p step b = ((s.writeTensors p (s.copyRuns p) (b.drop 32)).2.modUe p fun e => e.restored (BitVec.ofNat 32 step)).respond
      m stOk 0 (bytesLE 8 (s.imageBytes p)) := by
  have haccess := any_checkRange_false hwrite
  refine (State.guarded_goes (by simp only [firstFail, hours, hstep, haccess, bne_self_eq_false]; rfl)).trans ?_
  rw [← Prod.mk.eta (p := s.writeTensors p (s.copyRuns p) (b.drop 32)), hlands]
  rfl

end restoreFrom

section restore
variable {image : List Byte} (h : s.Asks m 0x020C r) (hpart : s.partExists r.part = true) (hlong : s.longRuns m r.part = false)
  (hform : r.ImageForm) (hthere : s.eng.lostMods.contains r.buddy = false) (hquiet : s.noneRunning r.part = true)
include h hpart hlong hform hthere hquiet

theorem restore_far (hself : ¬r.u 4 2 = s.moduleId.toNat) : exec (.restore m image) s = .next (s.restoreFar m r image).settle := by
  refine (State.mbRun_goes h rfl rfl ?_).trans ?_
  · rw [firstFail_append, State.imageChecks_pass hpart hlong hform hthere, hquiet, decide_eq_false hself]
    rfl
  · rw [decide_eq_false hself]
    rfl

theorem restore_self (hself : r.u 4 2 = s.moduleId.toNat) (hread : (s.part r.part).checkRange (r.u 8 6) (2 * r.u 16 8) .r = none)
    (hecc : s.hbm.ecc = []) : exec (.restore m image) s =
      .next (s.restoreFrom m r.part (r.u 0 4) (s.ownImage r.part (r.u 8 6) (r.u 16 8) (r.u 0 4))).settle := by
  refine (State.mbRun_goes h rfl rfl ?_).trans ?_
  · rw [firstFail_append, State.imageChecks_pass hpart hlong hform hthere, hquiet, hread]
    simp [firstFail]
  · rw [decide_eq_true hself, if_pos rfl, State.withImage_clean hecc]

end restore

theorem State.restoreFar_fetched {image : List Byte} {i : Nat} {k : BitVec 32} (hcopy : r.copy = .fetch i k) (hsess : (s.sess i).isSome = true) :
    s.restoreFar m r image = s.restoreFrom m r.part (r.u 0 4) image := by
  rw [State.restoreFar, hcopy]
  exact if_neg (by simpa using Option.isSome_iff_ne_none.mp hsess)

theorem State.restoreFar_lost {image : List Byte} {i : Nat} {k : BitVec 32} (hcopy : r.copy = .fetch i k) (hgone : s.sess i = none) :
    s.restoreFar m r image = s.respond m stPeerLost 0 [] := by
  rw [State.restoreFar, hcopy]
  exact if_pos (by rw [hgone]; rfl)

/-- Until the image has been asked for, RESTORE from elsewhere comes to the headers there. -/
theorem State.restoreFar_headers {image : List Byte} (h : ∀ i k, r.copy ≠ .fetch i k) : s.restoreFar m r image =
    s.withFarHeaders m r fun h0 h1 => match s.imageOf r.part (r.u 0 4) h0 h1 with
      | none => s.respond m stNotFound 0 []
      | some n => s.askImages m r.part r.buddy [(n, r.u 8 6 + n * r.u 16 8, min (r.u 16 8) (s.imageBytes r.part))] fun i k => .fetch i k := by
  unfold State.restoreFar
  split
  next hcopy => exact absurd hcopy (h _ _)
  next => rfl

end images

/-- Settles O55: audits and images on the module by the reads and writes without errors, those of a buddy elsewhere by what its answers
hold so far. -/
theorem checkpointsCopyAndRestoreTheState : Obligations.CheckpointsCopyAndRestoreTheState := by
  unfold Obligations.CheckpointsCopyAndRestoreTheState
  intro s m r image hpart hlong p at_ q readable mode sbs vlen reads bs audit form peerOk self bva len step runs h0 img far ask heads found ready body
  refine ⟨fun h hmode hmask hzero hwide hshards halign hquiet hread hecc =>
      auditState_answers h hpart hlong hmode hmask hzero hwide hshards halign hquiet hread hecc,
    fun h ⟨hform, hthere⟩ ⟨hclosed, hwhole, hfits, hread, hecc⟩ => ?_,
    fun h ⟨hform, hthere⟩ hopen => checkpoint_open h hpart hlong hform hthere hopen,
    fun h hform hlost => checkpoint_lost h hpart hlong hform hlost, fun h ⟨hform, hthere⟩ hquiet hself => ?_,
    fun h ⟨hform, hthere⟩ hquiet hown hfetched => ?_⟩
  · have hc : s.Copies r := ⟨hclosed, hwhole, hfits, hread, hecc⟩
    refine ⟨fun hself hwrite => checkpoint_self h hpart hlong hform hthere hc hself hwrite rfl, fun hself hcopy => ?_,
      fun i k hs hself hcopy => ?_⟩
    · rw [checkpoint_far h hpart hlong hform hthere hc hself, State.withFarHeaders_asks hcopy]
      rfl
    · rw [checkpoint_far h hpart hlong hform hthere hc hself]
      refine ⟨fun hgone => ?_, fun hsess => ⟨fun a b hboth => ?_, fun hnot => ?_⟩⟩
      · rw [State.withFarHeaders_lost hcopy hgone]
        rfl
      · rw [State.withFarHeaders_goes hcopy hsess hboth]
        rfl
      · rw [State.withFarHeaders_waits hcopy hsess hnot]
  · have hfar := restore_far (image := image) h hpart hlong hform hthere hquiet hself
    refine ⟨fun hprobe hfetch => ?_, fun i k hs a b hcopy hsess hboth => ?_, fun i k hcopy hgone => ?_⟩
    · rw [hfar, State.restoreFar_headers hfetch, State.withFarHeaders_asks hprobe]
      rfl
    · have hheads := hfar
      rw [State.restoreFar_headers (by rw [hcopy]; nofun), State.withFarHeaders_goes hcopy hsess hboth] at hheads
      refine ⟨fun hnone => ?_, fun n hn => ?_⟩
      · exact hheads.trans (by rw [show s.imageOf r.part (r.u 0 4) a b = none from hnone]; rfl)
      · exact hheads.trans (by rw [show s.imageOf r.part (r.u 0 4) a b = some n from hn]; rfl)
    · rw [hfar, State.restoreFar_lost hcopy hgone]
      rfl
  · intro b
    have hexec : exec (.restore m image) s = .next (s.restoreFrom m p (at_ 0 4) b).settle := by
      by_cases hself : self
      · obtain ⟨hread, hecc⟩ := hown hself
        rw [restore_self h hpart hlong hform hthere hquiet hself hread hecc, show b = _ from if_pos hself]
        rfl
      · obtain ⟨i, k, hcopy, hsess⟩ := hfetched hself
        rw [restore_far h hpart hlong hform hthere hquiet hself, State.restoreFar_fetched hcopy hsess, show b = _ from if_neg hself]
        rfl
    rw [hexec]
    refine ⟨fun hother => ?_, fun hours hstep hwrite hlands => ?_⟩
    · rw [State.restoreFrom_other hother]
      rfl
    · rw [State.restoreFrom_writes hours hstep hwrite hlands]
      rfl

end Sys2Proof.Machine

/-! Partitions, their cores and pages (14 R337, R338, R340, 05 R120, 08 R178, 11 R246 to R254). -/

namespace Sys2Proof.Machine

/-! ### A map without some of its keys -/

theorem Smap.get_filter_key {α : Type} (d : α) (g : Nat → Bool) (m : Smap α) (a : Nat) :
    Smap.get d (m.filter fun e => g e.1) a = if g a then Smap.get d m a else d := by
  induction m with
  | nil => exact (ite_self d).symm
  | cons e m ih =>
    obtain ⟨k, v⟩ := e
    rw [List.filter_cons]
    by_cases ha : a = k
    · subst ha
      cases hg : g a
      · rw [if_neg Bool.false_ne_true, ih, hg]
        rfl
      · rw [if_pos rfl, Smap.get, if_pos rfl, if_pos rfl, Smap.get, if_pos rfl]
    · rw [Smap.get, if_neg ha, ← ih]
      split
      · rw [Smap.get, if_neg ha]
      · rfl

/-! ### Pages allotted and freed (11 R246, R253) -/

section pages
variable (key : Option Nat) (loc : Bool) (use : PageUse)

theorem Hbm.read_zeroPage (h : Hbm) (p a : Nat) : (h.zeroPage key p).mem.read a = if a / pageBytes = p then 0 else h.mem.read a := by
  refine (Smap.get_filter_key 0#8 (fun k => k / pageBytes != p) h.mem a).trans ?_
  by_cases ha : a / pageBytes = p <;> simp [ha, Mem.read]

/-- What holds once per page of a list, the last one to speak of a page deciding, all pages saying the same. -/
theorem ite_mem_cons {α : Type} (k p : Nat) (ps : List Nat) (x y : α) :
    (if k ∈ ps then x else if k = p then x else y) = if k ∈ p :: ps then x else y := by
  by_cases hk : k = p <;> simp [hk]

theorem Hbm.read_allot (pg : List Nat) (a : Nat) : ∀ h : Hbm,
    (h.allot key loc use pg).mem.read a = if a / pageBytes ∈ pg then 0 else h.mem.read a := by
  induction pg with
  | nil => exact fun _ => rfl
  | cons p ps ih => exact fun h => (ih _).trans ((congrArg _ (h.read_zeroPage key p a)).trans (ite_mem_cons ..))

theorem Hbm.pages_allot (pg : List Nat) (k : Nat) : ∀ h : Hbm,
    (h.allot key loc use pg).pages.get .free k = if k ∈ pg then use else h.pages.get .free k := by
  induction pg with
  | nil => exact fun _ => rfl
  | cons p ps ih =>
    intro h
    refine (ih _).trans (Eq.trans ?_ (ite_mem_cons ..))
    by_cases hk : k = p
    · simp [hk, Hbm.zeroPage]
    · simp [hk, Hbm.zeroPage, Smap.get_set_other _ _ _ _ _ hk]

theorem Hbm.keys_allot (pg : List Nat) (k : Nat) : ∀ h : Hbm,
    (h.allot key loc use pg).keys.get none k = if k ∈ pg then key else h.keys.get none k := by
  induction pg with
  | nil => exact fun _ => rfl
  | cons p ps ih =>
    intro h
    refine (ih _).trans (Eq.trans ?_ (ite_mem_cons ..))
    by_cases hk : k = p
    · simp [hk, Hbm.zeroPage]
    · simp [hk, Hbm.zeroPage, Smap.get_set_other _ _ _ _ _ hk]

end pages

theorem Hbm.releaseAll_eq (pg : List Nat) : ∀ h : Hbm,
    h.releaseAll pg = { h with pages := (h.releaseAll pg).pages, rowLocal := (h.releaseAll pg).rowLocal } := by
  induction pg with
  | nil => exact fun _ => rfl
  | cons p ps ih => exact fun h => ih (h.release p)

theorem Hbm.mem_releaseAll (h : Hbm) (pg : List Nat) : (h.releaseAll pg).mem = h.mem := by rw [Hbm.releaseAll_eq]

theorem Hbm.keys_releaseAll (h : Hbm) (pg : List Nat) : (h.releaseAll pg).keys = h.keys := by rw [Hbm.releaseAll_eq]

theorem Hbm.pages_releaseAll (pg : List Nat) (k : Nat) : ∀ h : Hbm,
    (h.releaseAll pg).pages.get .free k = if k ∈ pg then .free else h.pages.get .free k := by
  induction pg with
  | nil => exact fun _ => rfl
  | cons p ps ih =>
    intro h
    refine (ih _).trans (Eq.trans ?_ (ite_mem_cons ..))
    by_cases hk : k = p
    · simp [hk, Hbm.release]
    · simp [hk, Hbm.release, Smap.get_set_other _ _ _ _ _ hk]

/-! ### PART_CREATE, PART_DELETE and PART_RESET -/

section parts
variable {s : State} {m : MbId} {r : MbReq} {p : PartId}

/-- What every state has after one core or none of a list has changed: the partitions of the state before. -/
theorem State.parts_eachCore {α : Type} (who : α → CoreId) (f : α → Core → Core) (xs : List α) (s : State) :
    (s.eachCore who f xs).parts = s.parts := by
  rw [State.eachCore_eq]

/-- What a state in which one partition has been put gives for it and for the others. -/
theorem State.part_of_eq_setPart {t : State} {q : Partition} (h : t = (s.setPart p q).freeNext) :
    t.part p = q ∧ ∀ x : PartId, x ≠ p → t.part x = s.part x := by
  subst h
  exact ⟨State.part_setPart_same .., fun x hx => State.part_setPart_other _ _ _ _ hx⟩

/-- PART_CREATE's partition by its pages and its key. -/
theorem State.freshPart_eq (s : State) (p : PartId) (c : PartCfg) {pg : List Nat} {key : Option Nat}
    (hpg : s.hbm.pickPages none (pagesFor c.s.toNat) = pg) (hkey : (if c.enc then some s.freeVal else none) = key) :
    s.freshPart p c = (({ s with hbm := s.hbm.allot key false (.stash p) pg } : State).setPart p { Partition.reset with
      cfg := some c, key := key, cap := c.plcap.truncate 3, stashPages := pg }).freeNext := by
  subst hpg hkey
  rfl

theorem State.part_freshPart (s : State) (p : PartId) (c : PartCfg) {pg : List Nat} {key : Option Nat}
    (hpg : s.hbm.pickPages none (pagesFor c.s.toNat) = pg) (hkey : (if c.enc then some s.freeVal else none) = key) :
    (s.freshPart p c).part p = { Partition.reset with cfg := some c, key := key, cap := c.plcap.truncate 3, stashPages := pg } ∧
      ∀ q : PartId, q ≠ p → (s.freshPart p c).part q = s.part q :=
  State.part_of_eq_setPart (s := { s with hbm := s.hbm.allot key false (.stash p) pg }) (s.freshPart_eq p c hpg hkey)

section create
variable (h : s.Asks m 0x0101 r)
include h

theorem partCreate_exists (hpart : s.partExists r.part = true) : exec (.partCreate m) s = .next (s.answered m stState r.part.val []) :=
  State.mbRun_fails h rfl rfl (by rw [hpart]; rfl)

theorem partCreate_creates (hpart : s.partExists r.part = false) (hrt : r.u 0 1 ≤ 1) (hcls : r.u 1 1 ≤ 1) (henc : r.u 2 1 ≤ 1)
    (hvid : r.u 8 2 < 4096) (hpcp : r.u 0xA 1 < 8) (hzero : r.u 0xC 4 = 0)
    (hshare : if (partCfgOf r.payload).rt then 1 ≤ r.u 3 1 ∧ r.u 3 1 ≤ 192 else r.u 3 1 = 0)
    (hcap : r.u 0xB 1 ≤ 5) (hs : r.u 0x10 8 % 6144 = 0) (hh : r.u 0x18 8 % 6144 = 0) (hle : r.u 0x18 8 ≤ r.u 0x10 8)
    (hshares : s.shares + (if (partCfgOf r.payload).rt then r.u 3 1 else 0) ≤ 192)
    (hpages : (s.hbm.pickPages none (pagesFor (partCfgOf r.payload).s.toNat)).length = pagesFor (partCfgOf r.payload).s.toNat) :
    exec (.partCreate m) s = .next ((s.freshPart r.part (partCfgOf r.payload)).answered m stOk 0 []) := by
  refine State.mbRun_goes h rfl rfl ?_
  have hmine : (if (partCfgOf r.payload).rt then decide (r.u 3 1 < 1 ∨ 192 < r.u 3 1) else r.u 3 1 != 0) = false := by
    cases hclass : (partCfgOf r.payload).rt
    · rw [hclass] at hshare
      exact bne_eq_false_iff_eq.mpr hshare
    · rw [hclass] at hshare
      obtain ⟨hlow, hhigh⟩ := hshare
      exact decide_eq_false (by omega)
  simp only [firstFail, MbReq.zero, hpart, hzero, hmine, hs, hh, hpages, bne_self_eq_false, Bool.false_or, Bool.false_eq_true, if_false,
    decide_eq_false (Nat.not_lt.mpr hrt), decide_eq_false (Nat.not_lt.mpr hcls), decide_eq_false (Nat.not_lt.mpr henc),
    decide_eq_false (Nat.not_le.mpr hvid), decide_eq_false (Nat.not_le.mpr hpcp), decide_eq_false (Nat.not_lt.mpr hcap),
    decide_eq_false (Nat.not_lt.mpr hle), decide_eq_false (Nat.not_lt.mpr hshares)]

end create

theorem State.clearCores_eq (keep : Bool) (cs : List CoreId) : ∀ s : State, s.clearCores keep cs =
    s.eachCore id (fun _ k => { k.cleared true with part := if keep then k.part else none, granted := 0 }) cs := by
  induction cs with
  | nil => exact fun _ => rfl
  | cons c cs ih => exact fun s => ih _

/-- A partition that has been ended is one that nothing is known of (R338). -/
theorem State.part_endPart (s : State) (m : MbId) (p : PartId) (keep : Bool) : (s.endPart m p keep).part p = Partition.reset := by
  unfold State.endPart State.part
  dsimp only
  rw [State.clearCores_eq, State.parts_eachCore]
  exact State.part_setPart_same ..

theorem partDelete_none (h : s.Asks m 0x0102 r) (hpart : s.partExists r.part = false) :
    exec (.partDelete m) s = .next (s.answered m stNotFound 0 []) :=
  State.mbRun_fails h rfl rfl (by rw [hpart]; rfl)

theorem partDelete_ends (h : s.Asks m 0x0102 r) (hpart : s.partExists r.part = true) :
    exec (.partDelete m) s = .next ((s.endPart m r.part false).answered m stOk 0 []) :=
  State.mbRun_goes h rfl rfl (by rw [hpart]; rfl)

theorem partReset_none (h : s.Asks m 0x0103 r) (hpart : s.partExists r.part = false) :
    exec (.partReset m) s = .next (s.answered m stNotFound 0 []) := by
  refine (State.mbRun_asks h rfl _).trans ?_
  rw [Option.isSome_eq_false_iff.mp hpart |> Option.isNone_iff_eq_none.mp]
  rfl

theorem partReset_renews (h : s.Asks m 0x0103 r) {c : PartCfg} (hc : (s.part r.part).cfg = some c) : exec (.partReset m) s =
    .next ((((s.endPart m r.part true).freshPart r.part c).retarget).answered m stOk 0 []) := by
  refine (State.mbRun_asks h rfl _).trans ?_
  rw [hc]
  rfl

/-! ### CORE_ASSIGN -/

theorem State.modCore_self {s : State} {c : CoreId} {f : Core → Core} (h : f (s.core c) = s.core c) : s.modCore c f = s := by
  rw [State.modCore, h]
  unfold State.setCore State.core
  rw [Fin.getElem_fin, Vector.set_getElem_self]

/-- A core given to a partition or to none (05 R120). -/
def Core.given (k : Core) (to' : Option PartId) : Core := { k.cleared true with part := to', granted := 0 }

theorem State.giveCores_eq (to' : Option PartId) (cs : List CoreId) : ∀ s : State,
    s.giveCores to' cs = s.eachCore id (fun _ k => if k.part = to' then k else k.given to') cs := by
  induction cs with
  | nil => exact fun _ => rfl
  | cons c cs ih =>
    intro s
    rw [State.giveCores, ih, State.eachCore]
    congr 1
    by_cases hc : (s.core c).part = to'
    · rw [if_pos hc]
      exact (State.modCore_self (s := s) (c := c) (f := fun k => if k.part = to' then k else k.given to') (if_pos hc)).symm
    · rw [if_neg hc]
      exact congrArg (s.setCore c) (if_neg hc).symm

theorem State.core_giveCores {s : State} {to' : Option PartId} {cs : List CoreId} (hnd : cs.Nodup) (c : CoreId) :
    (s.giveCores to' cs).core c = if c ∈ cs ∧ (s.core c).part ≠ to' then (s.core c).given to' else s.core c := by
  rw [State.giveCores_eq, State.core_eachCore_id hnd, ite_and, ite_not]

theorem State.busyCore_eq_none {s : State} {l : List CoreId} (h : ∀ k ∈ l, (s.core k).settled = true) : s.busyCore l = none :=
  List.find?_eq_none.mpr fun k hk => by rw [h k hk]; decide

section assign
variable (hpart : s.partExists r.part = true) (hzero : r.u 1 3 = 0) (hmask : r.u 4 4 < 2 ^ 24)
include hpart hzero hmask

section give
variable (hmode : r.u 0 1 = 0)
  (hroom : s.isRt r.part = true → (allCores.filter fun k => (r.mask 4).contains k || (s.core k).part == some r.part).length ≤ 8)
include hmode hroom

theorem State.assign_checks (st : Bool × BitVec 16 × Nat) :
    firstFail [(r.u 0 1 != 0, stBadField, 0), r.zero 1 3, (decide (2 ^ 24 ≤ r.u 4 4), stBadField, 4), (!s.partExists r.part, stNotFound, 0),
      (s.isRt r.part && decide (8 < (allCores.filter fun k => (r.mask 4).contains k || (s.core k).part == some r.part).length), stBadField, 4),
      st] = firstFail [st] := by
  have hfit : (s.isRt r.part && decide (8 < (allCores.filter fun k => (r.mask 4).contains k || (s.core k).part == some r.part).length)) =
      false := by
    cases hrt : s.isRt r.part
    · rfl
    · rw [decide_eq_false (Nat.not_lt.mpr (hroom hrt))]
      rfl
  simp only [firstFail, MbReq.zero, hmode, hpart, hzero, hfit, decide_eq_false (Nat.not_le.mpr hmask)]
  rfl

theorem coreAssign_gives (h : s.Asks m 0x0104 r) (hsettled : ∀ k ∈ r.mask 4, (s.core k).settled = true) :
    exec (.coreAssign m) s = .next (((s.giveCores (some r.part) (r.mask 4)).retarget).answered m stOk 0 []) := by
  refine State.mbRun_goes h (by rw [hmode]; rfl) rfl ((State.assign_checks hpart hzero hmask hmode hroom _).trans ?_)
  rw [State.busyCore_eq_none hsettled]
  rfl

theorem coreAssign_busy (h : s.Asks m 0x0104 r) {k : CoreId} (hk : s.busyCore (r.mask 4) = some k) :
    exec (.coreAssign m) s = .next (s.answered m stState k.val []) := by
  refine State.mbRun_fails h (by rw [hmode]; rfl) rfl ((State.assign_checks hpart hzero hmask hmode hroom _).trans ?_)
  rw [hk]
  rfl

end give

section take
variable (hown : ∀ k ∈ r.mask 4, (s.core k).part = some r.part)
include hown

theorem State.unassign_checks (st : Bool × BitVec 16 × Nat) (n : Nat) :
    firstFail [r.zero 1 3, (decide (2 ^ 24 ≤ r.u 4 4), stBadField, 4), (!s.partExists r.part, stNotFound, 0),
      (((r.mask 4).find? fun c => (s.core c).part != some r.part).isSome, stState, n), st] = firstFail [st] := by
  have hnone : ((r.mask 4).find? fun c => (s.core c).part != some r.part) = none :=
    List.find?_eq_none.mpr fun k hk => by rw [hown k hk, bne_self_eq_false]; decide
  simp only [firstFail, MbReq.zero, hpart, hzero, hnone, decide_eq_false (Nat.not_le.mpr hmask)]
  rfl

theorem coreUnassign_takes (h : s.Asks m 0x0104 r) (hmode : r.u 0 1 = 1)
    (hsettled : ∀ k ∈ r.mask 4, (s.core k).settled = true) :
    exec (.coreUnassign m) s = .next (((s.giveCores none (r.mask 4)).retarget).answered m stOk 0 []) := by
  refine State.mbRun_goes h (by rw [hmode]; rfl) rfl ((State.unassign_checks hpart hzero hmask hown _ _).trans ?_)
  rw [State.busyCore_eq_none hsettled]
  rfl

theorem coreUnassign_busy (h : s.Asks m 0x0104 r) (hmode : r.u 0 1 = 1) {k : CoreId} (hk : s.busyCore (r.mask 4) = some k) :
    exec (.coreUnassign m) s = .next (s.answered m stState k.val []) := by
  refine State.mbRun_fails h (by rw [hmode]; rfl) rfl ((State.unassign_checks hpart hzero hmask hown _ _).trans ?_)
  rw [hk]
  rfl

end take

end assign

end parts

/-- Settles O49: PART_CREATE makes `State.freshPart`, whose pages are those allotted; a core named is given once; a partition ended is one
that nothing is known of. -/
theorem partitionsAndCoresAreMade : Obligations.PartitionsAndCoresAreMade := by
  unfold Obligations.PartitionsAndCoresAreMade
  intro s m r p at_ c pg named
  refine ⟨fun h => ⟨partCreate_exists h, fun hpart hrt hcls henc hvid hpcp hzero hshare hcap hs hh hle hshares hpages => ?_⟩,
    fun h hpart hzero hmask => ⟨fun hmode hsettled hroom => ?_, fun hmode hgood => ?_, fun k hmode hroom hk => ?_, fun k hmode hown hk => ?_⟩,
    fun h => ⟨partDelete_none h, fun hpart => ⟨?_, partDelete_ends h hpart⟩⟩,
    fun h => ⟨partReset_none h, fun q hq => ⟨?_, ?_, partReset_renews h hq⟩⟩⟩
  · obtain ⟨hsame, hother⟩ := s.part_freshPart p c (pg := pg) rfl rfl
    refine ⟨s.freshPart p c, partCreate_creates h hpart hrt hcls henc hvid hpcp hzero hshare hcap hs hh hle hshares hpages, hsame, hother, ?_⟩
    rw [s.freshPart_eq p c (pg := pg) rfl rfl]
    exact ⟨fun a => Hbm.read_allot .., fun k => Hbm.pages_allot .., fun k => Hbm.keys_allot .., rfl⟩
  · refine ⟨_, coreAssign_gives hpart hzero hmask hmode hroom h hsettled, fun k => ?_, ?_⟩
    · rw [State.core_giveCores (r.nodup_mask 4)]
      rfl
    · rw [State.giveCores_eq]
      exact State.eachCore_eq _ s
  · refine ⟨_, coreUnassign_takes hpart hzero hmask (fun k hk => (hgood k hk).2) h hmode fun k hk => (hgood k hk).1, fun k => ?_, ?_⟩
    · rw [State.core_giveCores (r.nodup_mask 4)]
      exact if_ctx_congr (and_iff_left_of_imp fun hk => by rw [(hgood k hk).2]; nofun) (fun _ => rfl) fun _ => rfl
    · rw [State.giveCores_eq]
      exact State.eachCore_eq _ s
  · exact coreAssign_busy hpart hzero hmask hmode hroom h hk
  · exact coreUnassign_busy hpart hzero hmask hown h hmode hk
  · rw [State.partExists, State.part_endPart]
    rfl
  · rw [(State.part_freshPart _ p q rfl rfl).1]
  · rw [(State.part_freshPart _ p q rfl rfl).1]
    rfl

end Sys2Proof.Machine

/-! Pages mapped and unmapped (14 R340, 11 R246 to R253) and the stash resized (08 R178). Translations and level-1 entries are entered at
distinct keys, so what stands there afterwards is `Smap.get_updates_of_mem`, and elsewhere what stood before. -/

namespace Sys2Proof.Machine

section regions
variable {s : State} {m : MbId} {r : MbReq}

/-! ### Translations entered and removed -/

/-- What a translation to a physical page with these rights leaves in place of another. -/
def Pte.entered (rights ppn : Nat) (_ : Option Pte) : Option Pte := some (pteWith rights ppn)

/-- What a level-1 entry leaves in place of another. -/
def tableEntered (k : Nat) (_ : Option Nat) : Option Nat := some k

theorem Partition.enter_eq (rights : Nat) (es : List (Nat × Nat)) : ∀ q : Partition,
    q.enter rights es = { q with pages := Smap.updates none (Pte.entered rights) q.pages es } := by
  induction es with
  | nil => exact fun _ => rfl
  | cons e es ih => exact fun q => ih _

theorem Partition.enterL1_eq (es : List (Nat × Nat)) : ∀ q : Partition,
    q.enterL1 es = { q with l1 := Smap.updates none tableEntered q.l1 es } := by
  induction es with
  | nil => exact fun _ => rfl
  | cons e es ih => exact fun q => ih _

theorem Partition.leave_eq (vs : List Nat) : ∀ q : Partition,
    q.leave vs = { q with pages := vs.foldl (fun o v => Smap.set none o v none) q.pages } := by
  induction vs with
  | nil => exact fun _ => rfl
  | cons v vs ih => exact fun q => ih _

/-- The pages of a REGION_MAP in the partition's space are a run of `n` from its address on. -/
theorem MbReq.mem_vpns {v : Nat} : v ∈ r.vpns ↔ r.u 8 6 / pageBytes ≤ v ∧ v < r.u 8 6 / pageBytes + r.u 4 4 := by
  simp only [MbReq.vpns, List.mem_map, List.mem_range]
  constructor
  · rintro ⟨i, hi, rfl⟩
    omega
  · rintro ⟨hlow, hhigh⟩
    exact ⟨v - r.u 8 6 / pageBytes, by omega, by omega⟩

theorem MbReq.vpn_mem {i : Nat} (hi : i < r.u 4 4) : r.u 8 6 / pageBytes + i ∈ r.vpns := MbReq.mem_vpns.mpr ⟨Nat.le_add_right .., by omega⟩

theorem MbReq.vpn_notMem {v : Nat} (hv : v < r.u 8 6 / pageBytes ∨ r.u 8 6 / pageBytes + r.u 4 4 ≤ v) : v ∉ r.vpns := fun h => by
  have := MbReq.mem_vpns.mp h
  omega

theorem MbReq.nodup_vpns (r : MbReq) : r.vpns.Nodup := List.nodup_range.map fun _ _ h => Nat.add_left_cancel h

theorem MbReq.length_vpns (r : MbReq) : r.vpns.length = r.u 4 4 := by
  rw [MbReq.vpns, List.length_map, List.length_range]

theorem MbReq.nodup_l1Wanted (r : MbReq) (q : Partition) : (r.l1Wanted q).Nodup :=
  (List.nodup_range.map fun _ _ h => Nat.add_left_cancel h).filter _

/-- Pairs of two lists, by their place. -/
theorem mem_zip_getD {as bs : List Nat} {j d e : Nat} (ha : j < as.length) (hb : j < bs.length) : (as.getD j d, bs.getD j e) ∈ as.zip bs := by
  rw [List.getD_eq_getElem _ _ ha, List.getD_eq_getElem _ _ hb]
  exact List.mem_iff_getElem.mpr ⟨j, by rw [List.length_zip]; omega, List.getElem_zip⟩

/-! ### What REGION_MAP makes of the state -/

/-- The partition with its tables and translations entered. -/
def State.regionMapped (s : State) (r : MbReq) (pg : List Nat) : State :=
  ({ s with hbm := s.hbm.allot (s.part r.part).key r.mapMode.isSome (.mapped r.part) pg } : State).modPart r.part fun q =>
    (q.enterL1 ((r.l1Wanted (s.part r.part)).zip s.l2Free)).enter (r.u 2 1) (r.vpns.zip pg)

/-- The partition without the pages of the range, which are free, and without tables that no page is left in. -/
def State.regionUnmapped (s : State) (r : MbReq) : State :=
  (({ s with hbm := s.hbm.releaseAll (r.vpns.filterMap fun v => ((s.part r.part).pages.get none v).map (·.ppn)) } : State).modPart r.part
    fun q => (q.leave r.vpns).trimL1).dropTlb r.part r.vpns

/-- The pages of the range as the partition has them mapped. -/
def State.mappedPages (s : State) (r : MbReq) : List (Nat × Nat) :=
  r.vpns.filterMap fun v => ((s.part r.part).pages.get none v).map fun e => (v, e.ppn)

/-- The partition with other rights on the pages of the range. -/
def State.regionRights (s : State) (r : MbReq) : State :=
  (s.modPart r.part fun q => q.enter (r.u 2 1) (s.mappedPages r)).dropTlb r.part r.vpns

/-! ### REGION_MAP -/

section legal
/-- The payload of a REGION_MAP is of the right form. -/
structure MbReq.RegionForm (r : MbReq) : Prop where
  mode : r.u 1 1 ≤ 15
  rights : r.u 2 1 ≤ 31
  some : 1 ≤ r.u 4 4
  most : r.u 4 4 ≤ partPages
  zero : r.u 3 1 = 0
  wide : r.u 14 2 = 0
  aligned : r.u 8 6 % pageBytes = 0
  fits : r.u 8 6 + r.u 4 4 * pageBytes ≤ 2 ^ 48

variable (hform : r.RegionForm) (hpart : s.partExists r.part = true)
include hform hpart

theorem State.regionChecks_pass (hop : r.u 0 1 ≤ 2) : firstFail (s.regionChecks r) = none := by
  have hcount : ¬(r.u 4 4 < 1 ∨ partPages < r.u 4 4) := not_or.mpr ⟨Nat.not_lt.mpr hform.some, Nat.not_lt.mpr hform.most⟩
  simp only [State.regionChecks, firstFail, MbReq.zero, MbReq.wide, hform.zero, hform.wide, hform.aligned, hpart,
    decide_eq_false (Nat.not_lt.mpr hop), decide_eq_false (Nat.not_lt.mpr hform.mode), decide_eq_false (Nat.not_lt.mpr hform.rights),
    decide_eq_false hcount, decide_eq_false (Nat.not_lt.mpr hform.fits)]
  rfl

section map
variable (hop : r.u 0 1 = 0)
  (hfree : ((s.part r.part).pages.any fun e => decide (r.u 8 6 / pageBytes ≤ e.1 ∧ e.1 < r.u 8 6 / pageBytes + r.u 4 4)) = false)
  (hpins : s.isRt r.part = true → s.pinnedPages + r.u 4 4 ≤ 4096) {pg : List Nat} (hlen : pg.length = r.u 4 4)
include hop hfree hpins hlen

theorem State.map_checks (st : Bool × BitVec 16 × Nat) :
    firstFail (s.regionChecks r ++
      [((s.part r.part).pages.any fun e => decide (r.u 8 6 / pageBytes ≤ e.1 ∧ e.1 < r.u 8 6 / pageBytes + r.u 4 4), stState, r.part.val),
       (s.isRt r.part && decide (4096 < s.pinnedPages + r.u 4 4), stNoResource, 3), (pg.length != r.u 4 4, stNoResource, 2), st]) =
      firstFail [st] := by
  have hpin : (s.isRt r.part && decide (4096 < s.pinnedPages + r.u 4 4)) = false := by
    cases hrt : s.isRt r.part
    · rfl
    · rw [decide_eq_false (Nat.not_lt.mpr (hpins hrt))]
      rfl
  rw [firstFail_append, State.regionChecks_pass hform hpart (by omega), hfree, hpin, hlen, bne_self_eq_false]
  rfl

theorem regionMap_noTables (h : s.Asks m 0x0105 r) (hpg : s.hbm.pickPages r.mapMode (r.u 4 4) = pg)
    (hfew : s.l2Free.length < (r.l1Wanted (s.part r.part)).length) :
    exec (.regionMap m) s = .next (s.answered m stNoResource 2 []) := by
  subst hpg
  refine State.mbRun_fails h (by rw [hop]; rfl) rfl ((State.map_checks hform hpart hop hfree hpins hlen _).trans ?_)
  rw [List.length_zip, Nat.min_eq_right hfew.le, bne_iff_ne.mpr hfew.ne]
  rfl

theorem regionMap_maps (h : s.Asks m 0x0105 r) (hpg : s.hbm.pickPages r.mapMode (r.u 4 4) = pg)
    (hroom : (r.l1Wanted (s.part r.part)).length ≤ s.l2Free.length) :
    exec (.regionMap m) s = .next ((s.regionMapped r pg).answered m stOk 0 (bytesLE 4 (r.u 4 4))) := by
  subst hpg
  refine State.mbRun_goes h (by rw [hop]; rfl) rfl ((State.map_checks hform hpart hop hfree hpins hlen _).trans ?_)
  rw [List.length_zip, Nat.min_eq_left hroom, bne_self_eq_false]
  rfl

end map

section change
variable (h : s.Asks m 0x0105 r) (hall : s.allMapped r = true)
include h hall

theorem regionUnmap_unmaps (hop : r.u 0 1 = 1) (hlong : s.longRuns m r.part = false) (hquiet : s.mapQuiet r.part = true) :
    exec (.regionUnmap m) s = .next ((s.regionUnmapped r).answered m stOk 0 (bytesLE 4 (r.u 4 4))) := by
  refine State.mbRun_goes h (by rw [hop]; rfl) rfl ?_
  rw [firstFail_append, State.regionChecks_pass hform hpart (by omega), hall, hlong, hquiet]
  rfl

theorem regionSetRights_sets (hop : r.u 0 1 = 2) (hlong : s.longRuns m r.part = false) (hquiet : s.mapQuiet r.part = true) :
    exec (.regionSetRights m) s = .next ((s.regionRights r).answered m stOk 0 (bytesLE 4 (r.u 4 4))) := by
  refine State.mbRun_goes h (by rw [hop]; rfl) rfl ?_
  rw [firstFail_append, State.regionChecks_pass hform hpart (by omega), hall, hlong, hquiet, Bool.not_true, Bool.and_false]
  rfl

theorem regionChange_long (hop : r.u 0 1 = 1 ∨ r.u 0 1 = 2) (hlong : s.longRuns m r.part = true) :
    exec (if r.u 0 1 = 1 then .regionUnmap m else .regionSetRights m) s = .next (s.answered m stState r.part.val []) := by
  obtain hop | hop := hop
  · rw [if_pos hop]
    refine State.mbRun_fails h (by rw [hop]; rfl) rfl ?_
    rw [firstFail_append, State.regionChecks_pass hform hpart (by omega), hall, hlong]
    rfl
  · rw [if_neg (by omega)]
    refine State.mbRun_fails h (by rw [hop]; rfl) rfl ?_
    rw [firstFail_append, State.regionChecks_pass hform hpart (by omega), hall, hlong]
    rfl

end change

end legal

/-! ### What the pages and tables hold afterwards -/

theorem State.part_regionMapped (s : State) (r : MbReq) (pg : List Nat) : (s.regionMapped r pg).part r.part = { s.part r.part with
    l1 := Smap.updates none tableEntered (s.part r.part).l1 ((r.l1Wanted (s.part r.part)).zip s.l2Free)
    pages := Smap.updates none (Pte.entered (r.u 2 1)) (s.part r.part).pages (r.vpns.zip pg) } := by
  rw [State.regionMapped, State.part_modPart_same, Partition.enter_eq, Partition.enterL1_eq]
  rfl

section mapped
variable {pg : List Nat} (hlen : pg.length = r.u 4 4)
include hlen

theorem MbReq.map_fst_vpns_zip : (r.vpns.zip pg).map Prod.fst = r.vpns := List.map_fst_zip (by rw [r.length_vpns, hlen])

theorem State.pages_regionMapped_inside {i : Nat} (hi : i < r.u 4 4) :
    ((s.regionMapped r pg).part r.part).pages.get none (r.u 8 6 / pageBytes + i) = some (pteWith (r.u 2 1) (pg.getD i 0)) := by
  rw [State.part_regionMapped]
  refine Smap.get_updates_of_mem none (Pte.entered (r.u 2 1)) (by rw [MbReq.map_fst_vpns_zip hlen]; exact r.nodup_vpns) ?_ _
  have hpair := mem_zip_getD (as := r.vpns) (bs := pg) (d := 0) (e := 0) (by rw [r.length_vpns]; exact hi) (by rw [hlen]; exact hi)
  rwa [show r.vpns.getD i 0 = r.u 8 6 / pageBytes + i by simp [MbReq.vpns, hi]] at hpair

theorem State.pages_regionMapped_outside {v : Nat} (hv : v ∉ r.vpns) :
    ((s.regionMapped r pg).part r.part).pages.get none v = (s.part r.part).pages.get none v := by
  rw [State.part_regionMapped]
  exact Smap.get_updates_of_notMem none (Pte.entered (r.u 2 1)) (by rwa [MbReq.map_fst_vpns_zip hlen]) _

end mapped

section tables
variable (hroom : (r.l1Wanted (s.part r.part)).length ≤ s.l2Free.length) (pg : List Nat)
include hroom

theorem State.l1_regionMapped_wanted {j : Nat} (hj : j < (r.l1Wanted (s.part r.part)).length) :
    ((s.regionMapped r pg).part r.part).l1.get none ((r.l1Wanted (s.part r.part)).getD j 0) = s.l2Free[j]? := by
  rw [State.part_regionMapped, List.getElem?_eq_getElem (hj.trans_le hroom), ← List.getD_eq_getElem _ 0 (hj.trans_le hroom)]
  refine Smap.get_updates_of_mem none tableEntered ?_ (mem_zip_getD hj (hj.trans_le hroom)) _
  rw [List.map_fst_zip hroom]
  exact r.nodup_l1Wanted _

theorem State.l1_regionMapped_other {i : Nat} (hi : i ∉ r.l1Wanted (s.part r.part)) :
    ((s.regionMapped r pg).part r.part).l1.get none i = (s.part r.part).l1.get none i := by
  rw [State.part_regionMapped]
  exact Smap.get_updates_of_notMem none tableEntered (by rwa [List.map_fst_zip hroom]) _

end tables

/-- The partition of an unmapped range: its translations are gone, and the level-1 entries of the others stay. -/
theorem State.part_regionUnmapped (s : State) (r : MbReq) :
    (s.regionUnmapped r).part r.part = ((s.part r.part).leave r.vpns).trimL1 := by
  rw [State.regionUnmapped, State.dropTlb, State.part_modEng, State.part_modPart_same]
  rfl

theorem State.part_regionUnmapped_other (s : State) (r : MbReq) (q : PartId) (hq : q ≠ r.part) : (s.regionUnmapped r).part q = s.part q := by
  rw [State.regionUnmapped, State.dropTlb, State.part_modEng, State.part_modPart_other _ _ _ _ hq]
  rfl

theorem Partition.pages_leave (q : Partition) (vs : List Nat) (v : Nat) :
    (q.leave vs).trimL1.pages.get none v = if v ∈ vs then none else q.pages.get none v := by
  rw [Partition.leave_eq]
  exact Smap.get_foldl_set none none vs q.pages v

theorem Partition.l1_leave (q : Partition) (vs : List Nat) (i : Nat) : (q.leave vs).trimL1.l1.get none i =
    if (q.leave vs).trimL1.pages.any (fun g => g.1 / 8192 == i) then q.l1.get none i else none := by
  rw [Partition.leave_eq]
  exact Smap.get_filter_key none (fun i => (vs.foldl (fun o v => Smap.set none o v none) q.pages).any fun g => g.1 / 8192 == i) q.l1 i

/-- The cached translations that a change of a range drops are those of its pages. -/
theorem MbReq.dropTlb_eq (r : MbReq) (p : PartId) (t : PartId × Nat) : (!(t.1 == p && r.vpns.contains t.2)) =
    !(t.1 == p && decide (r.u 8 6 / pageBytes ≤ t.2 ∧ t.2 < r.u 8 6 / pageBytes + r.u 4 4)) := by
  rw [List.contains_eq_mem, decide_eq_decide.mpr MbReq.mem_vpns]

theorem State.tlb_dropTlb (s : State) (r : MbReq) (p : PartId) : (s.dropTlb p r.vpns).eng = { s.eng with
    tlb := s.eng.tlb.filter fun t => !(t.1 == p && decide (r.u 8 6 / pageBytes ≤ t.2 ∧ t.2 < r.u 8 6 / pageBytes + r.u 4 4)) } := by
  unfold State.dropTlb State.modEng
  simp only [r.dropTlb_eq]

theorem State.map_fst_mappedPages (s : State) (r : MbReq) : ((s.mappedPages r).map Prod.fst).Sublist r.vpns := by
  unfold State.mappedPages
  induction r.vpns with
  | nil => exact List.Sublist.slnil
  | cons v vs ih =>
    rw [List.filterMap_cons]
    cases (s.part r.part).pages.get none v with
    | none => exact ih.cons v
    | some e => exact ih.cons_cons v

theorem State.part_regionRights (s : State) (r : MbReq) : (s.regionRights r).part r.part = { s.part r.part with
    pages := Smap.updates none (Pte.entered (r.u 2 1)) (s.part r.part).pages (s.mappedPages r) } := by
  rw [State.regionRights, State.dropTlb, State.part_modEng, State.part_modPart_same, Partition.enter_eq]

theorem State.part_regionRights_other (s : State) (r : MbReq) (q : PartId) (hq : q ≠ r.part) : (s.regionRights r).part q = s.part q := by
  rw [State.regionRights, State.dropTlb, State.part_modEng, State.part_modPart_other _ _ _ _ hq]

theorem State.pages_regionRights_inside {v : Nat} {e : Pte} (hv : v ∈ r.vpns) (he : (s.part r.part).pages.get none v = some e) :
    ((s.regionRights r).part r.part).pages.get none v = some (pteWith (r.u 2 1) e.ppn) := by
  rw [State.part_regionRights]
  exact Smap.get_updates_of_mem none (Pte.entered (r.u 2 1)) ((s.map_fst_mappedPages r).nodup r.nodup_vpns)
    (List.mem_filterMap.mpr ⟨v, hv, by rw [he]; rfl⟩) _

theorem State.pages_regionRights_outside {v : Nat} (hv : v ∉ r.vpns) :
    ((s.regionRights r).part r.part).pages.get none v = (s.part r.part).pages.get none v := by
  rw [State.part_regionRights]
  exact Smap.get_updates_of_notMem none (Pte.entered (r.u 2 1)) (fun h => hv ((s.map_fst_mappedPages r).subset h)) _

/-! ### STASH_SET -/

/-- The state with the stash of a partition at the size that a request gives, `pg` the pages it takes. -/
def State.stashResized (s : State) (r : MbReq) (pg : List Nat) : State :=
  ({ s with
    hbm := Hbm.releaseAll (s.hbm.allot (s.part r.part).key false (.stash r.part) pg) ((s.part r.part).stashPages.drop (pagesFor (r.u 0 8)))
    } : State).setPart r.part
    ((s.part r.part).stashSized (pagesFor (r.u 0 8)) pg (r.u 0 8) (r.u 8 8))

/-- The partitions do not depend on the memory. -/
theorem State.part_withHbm (s : State) (h : Hbm) (q : PartId) : ({ s with hbm := h } : State).part q = s.part q := rfl

theorem State.part_stashResized_other (s : State) (r : MbReq) (pg : List Nat) (q : PartId) (hq : q ≠ r.part) :
    (s.stashResized r pg).part q = s.part q := by
  rw [State.stashResized, State.part_setPart_other _ _ _ _ hq, State.part_withHbm]

theorem stashSet_resizes (h : s.Asks m 0x0106 r) (hpart : s.partExists r.part = true) (hsize : r.u 0 8 % 6144 = 0) (hhigh : r.u 8 8 % 6144 = 0)
    (hle : r.u 8 8 ≤ r.u 0 8) (hlong : s.longRuns m r.part = false) (hidle : ∀ c ∈ s.coresOf r.part, (s.core c).ctl.stream = .idle)
    {pg : List Nat} (hpg : s.hbm.pickPages none (pagesFor (r.u 0 8) - (s.part r.part).stashPages.length) = pg)
    (hlen : pg.length = pagesFor (r.u 0 8) - (s.part r.part).stashPages.length) :
    exec (.stashSet m) s = .next ((s.stashResized r pg).answered m stOk 0 []) := by
  subst hpg
  refine State.mbRun_goes h rfl rfl ?_
  have hquiet : ((s.coresOf r.part).any fun c => (s.core c).ctl.stream != .idle) = false :=
    List.any_eq_false.mpr fun c hc => by rw [hidle c hc]; decide
  simp only [firstFail, hpart, hsize, hhigh, hlong, hquiet, hlen, bne_self_eq_false, decide_eq_false (Nat.not_lt.mpr hle)]
  rfl

end regions

/-- Settles O50: each command by its checks, the pages that the partition is given by `Hbm.pages_allot`, those that it gives up by
`Hbm.pages_releaseAll`. -/
theorem regionsAreMappedAndUnmapped : Obligations.RegionsAreMappedAndUnmapped := by
  unfold Obligations.RegionsAreMappedAndUnmapped
  intro s m r p at_ n v0 legal
  generalize hpg : s.hbm.pickPages r.mapMode n = g
  intro pg mapped table others wanted dropped hpart
  refine ⟨fun h ⟨hmode, hrights, hsome, hmost, hzero, hwide, haligned, hfits⟩ => ?_,
    fun h hsize hhigh hle hlong hidle => ?_⟩
  · have hform : r.RegionForm := ⟨hmode, hrights, hsome, hmost, hzero, hwide, haligned, hfits⟩
    refine ⟨fun hop hfree hpins hlen => ⟨regionMap_noTables hform hpart hop hfree hpins hlen h hpg, fun hroom => ?_⟩,
      fun hop hall hlong hquiet => ?_, fun hop hall hlong hquiet => ?_, fun hop hall hlong => regionChange_long hform hpart h hall hop hlong⟩
    · exact ⟨_, regionMap_maps hform hpart hop hfree hpins hlen h hpg hroom, fun i hi => State.pages_regionMapped_inside hlen hi,
        fun v hv => State.pages_regionMapped_outside hlen (MbReq.vpn_notMem hv), fun a => Hbm.read_allot .., fun k => Hbm.pages_allot ..,
        fun k => Hbm.keys_allot .., fun j hj => State.l1_regionMapped_wanted hroom pg hj, fun i hi => State.l1_regionMapped_other hroom pg hi,
        ⟨fun q hq => State.part_modPart_other _ _ _ _ hq, by rw [State.part_regionMapped]⟩, rfl⟩
    · refine ⟨_, regionUnmap_unmaps hform hpart h hall hop hlong hquiet, fun i hi => ?_, fun v hv => ?_, fun i e hi he => ?_, fun i => ?_,
        Hbm.mem_releaseAll .., State.tlb_dropTlb _ r p, ⟨s.part_regionUnmapped_other r, ?_⟩, rfl⟩
      · exact (congrArg (fun q : Partition => q.pages.get none _) (s.part_regionUnmapped r)).trans
          ((Partition.pages_leave ..).trans (if_pos (MbReq.vpn_mem hi)))
      · exact (congrArg (fun q : Partition => q.pages.get none _) (s.part_regionUnmapped r)).trans
          ((Partition.pages_leave ..).trans (if_neg (MbReq.vpn_notMem hv)))
      · refine (Hbm.pages_releaseAll ..).trans (if_pos (List.mem_filterMap.mpr ⟨_, MbReq.vpn_mem hi, ?_⟩))
        rw [show (s.part r.part).pages.get none (r.u 8 6 / pageBytes + i) = some e from he]
        rfl
      · show ((s.regionUnmapped r).part r.part).l1.get none i = _
        rw [show (s.regionUnmapped r).part p = _ from s.part_regionUnmapped r]
        exact Partition.l1_leave ..
      · rw [show (s.regionUnmapped r).part p = _ from s.part_regionUnmapped r, Partition.leave_eq]
        rfl
    · exact ⟨_, regionSetRights_sets hform hpart h hall hop hlong hquiet,
        fun i e hi he => State.pages_regionRights_inside (MbReq.vpn_mem hi) he,
        fun v hv => State.pages_regionRights_outside (MbReq.vpn_notMem hv), by rw [show (s.regionRights r).part p = _ from s.part_regionRights r],
        State.tlb_dropTlb _ r p, ⟨s.part_regionRights_other r, by rw [show (s.regionRights r).part p = _ from s.part_regionRights r]⟩, rfl⟩
  · intro old need
    generalize hadd : s.hbm.pickPages none (need - old.length) = g
    intro add hlen
    refine ⟨_, stashSet_resizes h hpart hsize hhigh hle hlong hidle hadd hlen, State.part_setPart_same ..,
      s.part_stashResized_other r g, fun a => ?_, fun k => ?_, rfl⟩
    · exact (congrArg (fun z => Mem.read z a) (Hbm.mem_releaseAll ..)).trans (Hbm.read_allot ..)
    · exact (congrArg (fun z => Smap.get none z k) (Hbm.keys_releaseAll ..)).trans (Hbm.keys_allot ..)

end Sys2Proof.Machine

/-! The mailboxes (14 R323 to R336): the form of a message, the response on the path of its request, and the doorbell. -/

namespace Sys2Proof.Machine

/-! ### Fields of bytes put together -/

theorem fieldLE_bytesLE_append {n v : Nat} (h : v < 256 ^ n) (rest : List Byte) : fieldLE (bytesLE n v ++ rest) 0 n = v := by
  rw [fieldLE, List.drop_zero, List.take_left' (length_bytesLE n v), natLE_bytesLE_of_lt h]

theorem fieldLE_append_right {a : List Byte} {o : Nat} (h : a.length ≤ o) (b : List Byte) (n : Nat) :
    fieldLE (a ++ b) o n = fieldLE b (o - a.length) n := by
  rw [fieldLE, fieldLE, List.drop_append, List.drop_eq_nil_of_le h, List.nil_append]

theorem patch_append {v b : List Byte} (h : v.length = b.length) (a rest : List Byte) :
    patch (a ++ (b ++ rest)) a.length v = a ++ (v ++ rest) := by
  have hroom : v.length ≤ (a ++ (b ++ rest)).length - a.length := by
    rw [List.length_append, List.length_append, h]
    omega
  rw [patch, List.take_left, List.take_of_length_le hroom, List.drop_length_add_append, List.drop_left' h.symm, List.append_assoc]

/-! ### CRC-32C is a word -/

theorem crc32cBit_lt {c : Nat} (h : c < 2 ^ 32) : crc32cBit c < 2 ^ 32 := by
  have hhalf : c / 2 < 2 ^ 32 := (Nat.div_le_self c 2).trans_lt h
  unfold crc32cBit
  split
  · exact Nat.xor_lt_two_pow hhalf (by decide)
  · exact hhalf

theorem crc32cByte_lt {c : Nat} (h : c < 2 ^ 32) (b : Byte) : crc32cByte c b < 2 ^ 32 := by
  have hfirst : c ^^^ b.toNat < 2 ^ 32 := Nat.xor_lt_two_pow h (b.isLt.trans (by decide))
  unfold crc32cByte
  iterate 8 apply crc32cBit_lt
  exact hfirst

theorem crc32c_lt (bs : List Byte) : crc32c bs < 256 ^ 4 :=
  Nat.xor_lt_two_pow (List.foldlRecOn (motive := (· < 2 ^ 32)) bs crc32cByte (by decide) fun _ h b _ => crc32cByte_lt h b) (by decide)

/-! ### The form of a message (14 Table 14.3) -/

/-- The fields of a message before its CRC. -/
def mbHead (resp : Bool) (seq cmd len part status info rq : Nat) : List Byte :=
  bytesLE 1 1 ++ (bytesLE 1 (if resp then 1 else 0) ++ (bytesLE 2 seq ++ (bytesLE 2 cmd ++ (bytesLE 2 len ++
    (bytesLE 4 part ++ (bytesLE 2 status ++ (bytesLE 2 0 ++ (bytesLE 8 info ++ bytesLE 4 rq))))))))

section message
variable {resp : Bool} {seq cmd len part status info rq : Nat}

theorem length_mbHead : (mbHead resp seq cmd len part status info rq).length = 28 := by
  simp [mbHead]

/-- The fields of a response, each at its place of Table 14.3. -/
theorem fieldLE_mbHead (hseq : seq < 65536) (hcmd : cmd < 65536) (hlen : len < 65536) (hpart : part < 4294967296) (hstatus : status < 65536)
    (hinfo : info < 18446744073709551616) (hrq : rq < 4294967296) (rest : List Byte) :
    let msg := mbHead true seq cmd len part status info rq ++ rest
    fieldLE msg 0 1 = 1 ∧ fieldLE msg 1 1 = 1 ∧ fieldLE msg 2 2 = seq ∧ fieldLE msg 4 2 = cmd ∧ fieldLE msg 6 2 = len ∧
      fieldLE msg 8 4 = part ∧ fieldLE msg 12 2 = status ∧ fieldLE msg 16 8 = info ∧ fieldLE msg 24 4 = rq := by
  simp [mbHead, fieldLE_append_right, fieldLE_bytesLE_append, hseq, hcmd, hlen, hpart, hstatus, hinfo, hrq]

variable {payload : List Byte}

theorem mbMessage_eq : mbMessage resp seq cmd part status info rq payload =
    mbHead resp seq cmd payload.length part status info rq ++
      (bytesLE 4 (crc32c (mbHead resp seq cmd payload.length part status info rq ++ (bytesLE 4 0 ++ payload))) ++ payload) := by
  simp only [mbMessage, mbHead, List.append_assoc]

theorem length_mbMessage : (mbMessage resp seq cmd part status info rq payload).length = 32 + payload.length := by
  rw [mbMessage_eq, List.length_append, List.length_append, length_mbHead, length_bytesLE]
  omega

theorem drop_mbMessage : (mbMessage resp seq cmd part status info rq payload).drop 32 = payload := by
  rw [mbMessage_eq, ← List.append_assoc]
  exact List.drop_left' (by rw [List.length_append, length_mbHead, length_bytesLE])

theorem mbCrcOk_mbMessage : mbCrcOk (mbMessage resp seq cmd part status info rq payload) = true := by
  rw [mbMessage_eq, mbCrcOk]
  generalize hhead : mbHead resp seq cmd payload.length part status info rq = head
  have hlength : head.length = 28 := by rw [← hhead, length_mbHead]
  have hpatch := patch_append (v := bytesLE 4 0) (b := bytesLE 4 (crc32c (head ++ (bytesLE 4 0 ++ payload))))
    (by rw [length_bytesLE, length_bytesLE]) head payload
  rw [hlength] at hpatch
  rw [hpatch, fieldLE_append_right hlength.le, hlength, Nat.sub_self, fieldLE_bytesLE_append (crc32c_lt _), beq_self_eq_true]

end message

theorem ReqPath.rq_lt (path : ReqPath) (rq : Qid) : path.rq rq < 4294967296 := by
  have hword : rq.toNat < 4294967296 := rq.isLt.trans (by decide)
  cases path with
  | stream => exact hword
  | _ => exact Nat.zero_lt_succ _

/-! ### The response leaves (14 R325 to R328) -/

section respond
variable {s : State} {m : MbId} {r : MbReq}

/-- The response stored: the request is the last one completed. -/
def State.responded (s : State) (m : MbId) (r : MbReq) (st : BitVec 16) (msg : List Byte) : State := s.setMb m { s.mb m with
  respArea := msg
  lseq := r.seq
  busy := none
  err := if st = stOk then (s.mb m).err else satAdd 32 (s.mb m).err 1 }

theorem State.respond_busy (h : (s.mb m).busy = some r) (st : BitVec 16) (info : Nat) (b : List Byte) :
    let msg := mbMessage true r.seq.toNat r.cmd.toNat r.part.val st.toNat info (r.path.rq r.rq) b
    s.respond m st info b = (s.responded m r st msg).sendResponse m r.path r.seq.toNat r.rq msg := by
  unfold State.respond
  rw [h]
  rfl

/-- The segment of a response that starts at 1,024 `k`. -/
def State.mpSegment (s : State) (dst : BitVec 48) (mb seq : Nat) (bytes : List Byte) (k : Nat) : List Byte :=
  s.mpFrameTo dst (mpHeader 3 mb seq (1024 * k) bytes.length ++ (bytes.drop (1024 * k)).take 1024)

/-- With fuel enough the segments from `k` on leave in their order. -/
theorem State.mpResponse_segments (dst : BitVec 48) (mb seq : Nat) (bytes : List Byte) (fuel : Nat) : ∀ (k n : Nat) (s : State),
    ceilDiv bytes.length 1024 = k + n → 1 ≤ n → n ≤ fuel → s.mpResponse dst mb seq bytes (1024 * k) fuel =
      { s with reg := { s.reg with mpOut := s.reg.mpOut ++ (List.range' k n).map (s.mpSegment dst mb seq bytes) } } := by
  induction fuel with
  | zero => intro k n s _ hsome hfuel; omega
  | succ fuel ih =>
    intro k n s hcount hsome hfuel
    obtain ⟨n, rfl⟩ := Nat.exists_eq_add_of_le' hsome
    have hsize : (bytes.length + 1024 - 1) / 1024 = k + (n + 1) := hcount
    unfold State.mpResponse
    cases n with
    | zero => exact if_pos (by omega)
    | succ n =>
      refine (if_neg (by omega)).trans ((ih (k + 1) (n + 1) _ (by omega) (by omega) (by omega)).trans ?_)
      rw [List.range'_succ (n := n + 1), List.map_cons, List.append_cons]
      rfl

theorem State.mpResponse_whole {bytes : List Byte} (hsome : 0 < bytes.length) (hfits : bytes.length ≤ 4096) (s : State) (dst : BitVec 48)
    (mb seq : Nat) : s.mpResponse dst mb seq bytes 0 4 = { s with reg := { s.reg with
      mpOut := s.reg.mpOut ++ (List.range (ceilDiv bytes.length 1024)).map (s.mpSegment dst mb seq bytes) } } := by
  rw [List.range_eq_range']
  have hsize : ceilDiv bytes.length 1024 = (bytes.length + 1024 - 1) / 1024 := rfl
  exact State.mpResponse_segments dst mb seq bytes 4 0 _ s (Nat.zero_add _).symm (by omega) (by omega)

end respond

/-! ### What stays still -/

section still
variable {s : State} {m : MbId} {b : Mailbox}

theorem State.still_setMb (h : s.still = true) (howed : b.owed = none) (hwaits : ∀ r, b.busy = some r → r.wait = none) :
    (s.setMb m b).still = true := by
  obtain ⟨hcores, hrests⟩ := State.still_iff.mp h
  refine State.still_iff.mpr ⟨hcores, { hrests with owed := fun n => ?_, waits := fun n => ?_ }⟩
  · by_cases hn : n = m
    · rw [hn, State.mb_setMb_same]
      exact howed
    · rw [State.mb_setMb_other _ _ _ _ hn]
      exact hrests.owed n
  · by_cases hn : n = m
    · rw [hn, State.mb_setMb_same]
      exact hwaits
    · rw [State.mb_setMb_other _ _ _ _ hn]
      exact hrests.waits n

theorem State.ctl_clearWoken (s : State) (c : CoreId) : (s.clearWoken.core c).ctl = (s.core c).ctl := by
  simp [State.clearWoken, State.core]

theorem State.still_wakeShallow (h : s.still = true) : s.wakeShallow.still = true := by
  unfold State.wakeShallow
  split
  · exact State.still_congr h (fun _ => rfl) rfl rfl rfl rfl
  · exact State.still_congr h s.ctl_clearWoken rfl rfl rfl rfl
  · exact h

theorem State.mb_wakeShallow (s : State) (m : MbId) : s.wakeShallow.mb m = s.mb m := by
  unfold State.wakeShallow
  split <;> rfl

end still

/-! ### The doorbell (14 R328) -/

section doorbell
variable (s : State) (m : MbId) (q : BitVec 16)

/-- LEN of the request in the area of a mailbox. -/
def State.areaLen : Nat := fieldLE (s.mb m).reqArea 6 2

/-- The request in the area of a mailbox. -/
def State.areaMsg : List Byte := padTo (32 + s.areaLen m) (s.mb m).reqArea

/-- What the doorbell makes of the request in the area. -/
def State.areaReq : MbReq :=
  ⟨q, BitVec.ofNat 16 (fieldLE (s.areaMsg m) 4 2), Fin.ofNat 8 (fieldLE (s.areaMsg m) 8 1), BitVec.ofNat 20 (fieldLE (s.areaMsg m) 24 4),
    (s.areaMsg m).drop 32, (s.mb m).reqPath, s.reg.doorbells, none, .idle⟩

/-- The mailbox has taken the request in its area. -/
def State.took : State := { s with reg := { s.reg with
  mbs := s.reg.mbs.set m { s.mb m with busy := some (s.areaReq m q) }
  doorbells := s.reg.doorbells + 1 } }

/-- RQ of the request in the area is not what its path asks for (14 Table 14.3, R326). -/
def State.areaRqBad : Bool := match (s.mb m).reqPath with
  | .stream _ => !s.rqOk (Fin.ofNat 8 (m.val + 7)) (s.areaReq m q).rq
  | _ => (s.areaReq m q).rq != 0

/-- Class of the request in the area. -/
def State.areaClass : Option MbClass := mbClass (s.areaReq m q).cmd.toNat (s.areaReq m q).payload

/-- The first check that refuses the request in the area. -/
def State.areaRefused : Option (BitVec 16 × Nat) :=
  if 4064 < s.areaLen m then some (stBadField, 6)
  else if mbCrcOk (s.areaMsg m) = false then some (stMbCrc, 0)
  else if fieldLE (s.areaMsg m) 0 1 ≠ 1 then some (stBadField, 0)
  else if fieldLE (s.areaMsg m) 1 1 % 2 ≠ 0 then some (stBadField, 1)
  else if fieldLE (s.areaMsg m) 12 2 ≠ 0 then some (stBadField, 12)
  else if fieldLE (s.areaMsg m) 16 8 ≠ 0 then some (stBadField, 16)
  else if s.areaRqBad m q = true then some (stBadField, 24)
  else if s.stateAccepts m (s.mb m).reqPath (s.areaClass m q) (s.areaReq m q).cmd.toNat = false then some (stState, 0)
  else none

/-- The state in which a request of a class executes: one of class O or P has woken the module. -/
def State.awakened : State := if s.areaClass m q = some .diag then s.took m q else (s.took m q).wakeShallow

/-- A request without a refusal: one without authority completes. -/
def State.admitted : State := match s.areaClass m q with
  | none => s.took m q
  | some c => if s.mayDo m c (s.areaReq m q).part then s.awakened m q else (s.awakened m q).respond m stAccess 0 []

end doorbell

/-- A chain of refusals is the first of them. -/
theorem ite_eq_elim {α β : Type} {c d : Prop} [Decidable c] [Decidable d] {f : α → β} {a : α} {o : Option α} {x y z : β} (hcd : c ↔ d)
    (hx : x = f a) (hy : y = o.elim z f) : (if c then x else y) = (if d then some a else o).elim z f := by
  by_cases hc : c
  · rw [if_pos hc, if_pos (hcd.mp hc), hx, Option.elim_some]
  · rw [if_neg hc, if_neg (fun hd => hc (hcd.mpr hd)), hy]

section doorbell
variable {s : State} {m : MbId} {q : BitVec 16}

theorem State.areaReq_cmd (s : State) (m : MbId) (q : BitVec 16) : (s.areaReq m q).cmd.toNat = fieldLE (s.areaMsg m) 4 2 := by
  rw [State.areaReq, BitVec.toNat_ofNat]
  exact Nat.mod_eq_of_lt (fieldLE_lt ..)

/-- The two checks of RQ, by the path, are one. -/
theorem State.rq_checks (s : State) (m : MbId) (q : BitVec 16) {β : Type} (x y : β) :
    (let stream := match (s.mb m).reqPath with
      | .stream _ => true
      | _ => false
    if !stream && (s.areaReq m q).rq != 0 then x
    else if stream && !s.rqOk (Fin.ofNat 8 (m.val + 7)) (s.areaReq m q).rq then x else y) = if s.areaRqBad m q then x else y := by
  unfold State.areaRqBad
  cases (s.mb m).reqPath <;> rfl

theorem State.acceptRequest_eq (s : State) (m : MbId) (q : BitVec 16) : s.acceptRequest m q =
    (s.areaRefused m q).elim (s.admitted m q) fun e => (s.took m q).respond m e.1 e.2 [] := by
  unfold State.acceptRequest State.areaRefused
  extract_lets b len msg cmd p rq payload r s1 k stream
  have htook : s1 = s.took m q := rfl
  have hclass : k = s.areaClass m q := by rw [State.areaClass, State.areaReq_cmd]; rfl
  have hfail : ∀ st info, s1.respond m st info [] = (s.took m q).respond m st info [] := fun _ _ => rfl
  refine ite_eq_elim Iff.rfl (hfail ..) (ite_eq_elim (by rw [Bool.not_eq_true']; rfl) (hfail ..) (ite_eq_elim Iff.rfl (hfail ..)
    (ite_eq_elim Iff.rfl (hfail ..) (ite_eq_elim Iff.rfl (hfail ..) (ite_eq_elim Iff.rfl (hfail ..)
      ((s.rq_checks m q _ _).trans (ite_eq_elim Iff.rfl (hfail ..) (ite_eq_elim ?_ (hfail ..) ?_))))))))
  · rw [hclass, State.areaReq_cmd, Bool.not_eq_true']
    rfl
  · rw [Option.elim_none, State.admitted, State.awakened, ← hclass]
    clear_value k
    cases k with
    | none => rfl
    | some c =>
      simp only [Option.some.injEq]
      rfl

theorem State.ringDoorbell_next (hidle : (s.mb m).busy = none) (hseq : q = (s.mb m).lseq + 1) : s.ringDoorbell m q = s.acceptRequest m q :=
  if_pos ⟨by rw [hidle]; rfl, hseq⟩

theorem seq_ne_next (q : BitVec 16) : q ≠ q + 1 := by
  bv_omega

theorem State.ringDoorbell_repeat (hseq : q = (s.mb m).lseq) : s.ringDoorbell m q = s.repeatResponse m :=
  (if_neg fun h => seq_ne_next _ (hseq.symm.trans h.2)).trans (if_pos hseq)

/-- A doorbell that is neither the next of an idle mailbox nor a repeat is ignored, unless its request is in flight. -/
theorem State.ringDoorbell_other (hnext : ¬((s.mb m).busy.isNone = true ∧ q = (s.mb m).lseq + 1)) (hseq : q ≠ (s.mb m).lseq) :
    s.ringDoorbell m q = if (s.mb m).busy.map (·.seq) = some q then s else s.modMb m fun b => { b with ignored := satAdd 32 b.ignored 1 } :=
  (if_neg hnext).trans (if_neg hseq)

section still
variable (hstill : s.still = true)
include hstill

theorem State.still_took : (s.took m q).still = true := by
  have hset : (s.setMb m { s.mb m with busy := some (s.areaReq m q) }).still = true :=
    State.still_setMb hstill ((State.rests_of_still hstill).owed m) fun r hr => by cases hr; rfl
  exact State.still_congr hset (fun _ => rfl) rfl rfl rfl rfl

theorem State.still_awakened : (s.awakened m q).still = true := by
  unfold State.awakened
  split
  · exact State.still_took hstill
  · exact State.still_wakeShallow (State.still_took hstill)

theorem State.still_ignored :
    (s.modMb m fun b => { b with ignored := satAdd 32 b.ignored 1 }).still = true :=
  State.still_setMb hstill ((State.rests_of_still hstill).owed m) ((State.rests_of_still hstill).waits m)

theorem State.settle_ite_busy {c : Prop} [Decidable c] : (if c then s else s.modMb m fun b => { b with ignored := satAdd 32 b.ignored 1 }).settle =
    if c then s else s.modMb m fun b => { b with ignored := satAdd 32 b.ignored 1 } := by
  split
  · exact State.settle_of_still hstill
  · exact State.settle_of_still (State.still_ignored hstill)

end still
end doorbell

/-- Settles O46: a doorbell by the cases of `State.ringDoorbell`, a new request by its first refusal, a response by its fields. -/
theorem doorbellsAndResponses : Obligations.DoorbellsAndResponses := by
  unfold Obligations.DoorbellsAndResponses
  refine ⟨fun s m q hstill hruns => ?_, fun s m r st info b hbusy hlen hinfo => ?_⟩
  · have hexec : exec (.mbDoorbell m q) s = .next (s.ringDoorbell m q).settle := if_pos (by simpa using hruns)
    intro b' len msg r taken ignored k rqBad refused awake
    rw [hexec]
    refine ⟨fun hidle hseq => ?_, fun hseq => ?_, fun x hx hseq => ?_, fun hidle hlast hnext => ?_⟩
    · rw [State.ringDoorbell_next hidle hseq, State.acceptRequest_eq]
      refine ⟨fun st info h => ?_, fun h => ?_⟩
      · rw [show s.areaRefused m q = some (st, info) from h]
        rfl
      · rw [show s.areaRefused m q = none from h, Option.elim_none, State.admitted]
        refine ⟨fun hk => ?_, fun c hk hmay => ?_, fun c hk hmay => ?_⟩
        · rw [show s.areaClass m q = none from hk]
          exact congrArg _ (State.settle_of_still (State.still_took hstill))
        · rw [show s.areaClass m q = some c from hk]
          exact (next_settle_congr (if_pos hmay)).trans (congrArg _ (State.settle_of_still (State.still_awakened hstill)))
        · rw [show s.areaClass m q = some c from hk]
          exact next_settle_congr (if_neg (Bool.eq_false_iff.mp hmay))
    · rw [State.ringDoorbell_repeat hseq]
      refine ⟨fun hempty => ?_, fun hsome => ?_⟩
      · rw [State.repeatResponse, if_pos hempty, State.settle_of_still hstill]
      · rw [State.repeatResponse, if_neg hsome, hseq]
    · rw [State.ringDoorbell_other (fun h => by rw [hx] at h; cases h.1) hseq, State.settle_ite_busy hstill, hx]
      simp only [Option.map_some, Option.some.injEq]
      rfl
    · rw [State.ringDoorbell_other (fun h => hnext h.2) hlast, hidle]
      exact congrArg _ (State.settle_of_still (State.still_ignored hstill))
  · intro msg t u
    have hsent : t = u.sendResponse m r.path r.seq.toNat r.rq msg := State.respond_busy hbusy st info b
    have hmsg : msg.length = 32 + b.length := length_mbMessage
    refine ⟨?_, hsent, fun hpath => ?_, fun src hpath => ?_⟩
    · obtain ⟨hver, hresp, hseq, hcmd, hlenf, hpart, hstatus, hinfof, hrq⟩ := fieldLE_mbHead (len := b.length) r.seq.isLt r.cmd.isLt (by omega)
        (r.part.isLt.trans (by decide)) st.isLt hinfo (r.path.rq_lt r.rq) _
      refine ⟨hmsg, ?_⟩
      rw [show mbCrcOk msg = true from mbCrcOk_mbMessage, show msg.drop 32 = b from drop_mbMessage, show msg = _ from mbMessage_eq]
      exact ⟨hver, hresp, hseq, hcmd, hlenf, hpart, hstatus, hinfof, hrq, rfl, rfl⟩
    · rw [hsent, hpath]
      rfl
    · rw [hsent, hpath]
      exact State.mpResponse_whole (by omega) (by omega) u src m.val r.seq.toNat

end Sys2Proof.Machine
